-- ==== Sys2Proof/Word.lean ====
section
/-!
DEFINITION. The word types of the Grirno Plovec model.
Bits are numbered from 0 at the least significant bit and multi-byte data are little-endian (spec 00_scope.md R5).
-/
namespace Sys2Proof

/-- One byte of a memory (R5). -/
abbrev Byte := BitVec 8
/-- A register of the MMIO window (R10, R11). -/
abbrev W32 := BitVec 32
/-- A scalar or address register of a thread (R153), a 64-bit field of a descriptor, record or entry. -/
abbrev W64 := BitVec 64
/-- An offset in the 256 MiB register window (R470). -/
abbrev WinOff := BitVec 28

/-- A sparse map from naturals: pairs in strictly rising key order, none of which holds the value that an unlisted key reads as. -/
abbrev Cells (α : Type) := List (Nat × α)

/-- An exact fraction num / (den + 1): the quantities that the spec writes as real (16_hearth_power_thermal.md R401, R405). -/
structure Frac where
  num : Int
  den : Nat
deriving DecidableEq, Repr, Inhabited

end Sys2Proof
end

