-- ==== Sys2Proof/Syntax.lean ====
section
/-!
DEFINITION. The commands of the Grirno Plovec module: one constructor of Instr for each row of spec/opcode_table.json, in the
table's order, with the operands that the row's rule names. Every event that the spec stamps or dates carries now, the fabric
time in whole ns at which it happens (00_scope.md R8, 13_mboano_link_fabric_time.md R343).
-/
namespace Sys2Proof

/-- A requester of the register window (19_register_map.md R469, R474). -/
inductive Requester where
  | hd | hearth | sp
deriving DecidableEq, Repr

/-- A 32-bit aligned write of the register window (R10, R11). -/
structure RegWrite where
  who : Requester
  off : WinOff
  val : W32
  now : Nat
deriving DecidableEq, Repr

/-- A read of the register window (R10, R12). -/
structure RegRead where
  who : Requester
  off : WinOff
  now : Nat
deriving DecidableEq, Repr

/-- What the error-correcting code finds while an operation reads: nothing, a corrected error, or an uncorrectable one
at a byte address of the memory read (08_scratchpad.md R223, 10_hbm4_memory.md R266). -/
inductive Ecc where
  | clean
  | corrected (addr : Nat)
  | uncorrectable (addr : Nat)
deriving DecidableEq, Repr

/-- A thread issues its next operation: the 64-bit operation word (07_tile_operations.md R177), the fabric time, and what the
scratchpad's check bits report on the bytes the operation reads. -/
structure Issue where
  tile : Fin 288
  thr  : Fin 64
  word : W64
  now  : Nat
  ecc  : Ecc := .clean
deriving DecidableEq, Repr

/-- A parity error found by an anvil after dispatch (03_anvil_arrays.md R72). -/
inductive AnvFault where
  | none | weightParity | accParity
deriving DecidableEq, Repr

/-- Operation codes of a Mboano request (13_mboano_link_fabric_time.md R327). -/
inductive ReqOpc where
  | put | get | putadd | fadd | fand | cas | notify
deriving DecidableEq, Repr

/-- A request of Tongs as it reaches a target (R327): a CONT packet arrives here with the fields of its stream filled in (R328). -/
structure ReqPkt where
  opc    : ReqOpc
  target : W32
  source : W32
  job    : W32
  addr   : W64
  tile   : Byte
  tag    : BitVec 7
  etype  : BitVec 2
  len    : Nat
  data   : List Byte
  step   : Option W32
  inj    : Nat
deriving DecidableEq, Repr

/-- A response packet (R329). -/
structure RspPkt where
  target : W32
  tile   : Byte
  tag    : BitVec 7
  status : Byte
  sub    : Byte
  data   : List Byte
deriving DecidableEq, Repr

/-- The header that a stream of requests shares, as a hop keeps it for the CONT packets that follow (R328). -/
structure StreamHdr where
  id   : Nat
  more : Bool
deriving DecidableEq, Repr

/-- A packet of a link (R327 to R329, R335, R339). -/
inductive LinkPkt where
  | req  (vc : Fin 5) (stream : StreamHdr) (p : ReqPkt)
  | cont (vc : Fin 5) (stream : StreamHdr) (len : Nat) (data : List Byte)
  | rsp  (vc : Fin 5) (p : RspPkt)
  | sync (root : W32) (hops : Nat) (t1 t2 t3 t4 : Nat)
  | link (lane : Fin 9) (switchFlit : BitVec 16)
deriving DecidableEq, Repr

/-- A flit (R324): its control field and the packets that it carries. -/
structure Flit where
  seq     : BitVec 16
  ack     : BitVec 16
  nak     : Bool
  cvc     : Byte
  credits : BitVec 16
  pkts    : List LinkPkt
deriving DecidableEq, Repr

/-- The outcome of training a stack (10_hbm4_memory.md R269). -/
inductive RetrainOutcome where
  | trained
  | spareLane (channel : Fin 32) (dq : Fin 64)
  | notchDown
  | failed
deriving DecidableEq, Repr

/-- What starts a build of the sequence table (14_jobs_partitions_serving.md R362). -/
inductive BuildTrigger where
  | hd | notify
deriving DecidableEq, Repr

/-- What Hearth samples at the end of a 2 µs period (16_hearth_power_thermal.md R401, R402, R405, R410): the counts of the period as
rail group, event class and count; the hottest junction of each rail group in °C; the measured power of HD, SD and flash in W; the
input voltage in mV; and the present power in mW of the tiles that have a hint pending. -/
structure PowerSample where
  counts : List (Nat × Nat × Nat)
  temps  : List Nat
  fixedW : Nat
  vinMv  : Nat
  tileMw : List (Nat × Nat)
deriving DecidableEq, Repr

/-- A start-up stage (17_startup_calibration.md R422). -/
inductive Stage where
  | s1 | s2 | s3 | s4 | s5 | s6a | s6b | s6c | s6d | s7 | s8 | s9
deriving DecidableEq, Repr

/-- How a start-up stage ended (R422, R424, R429): passed, with the counts that SP reports, or one of the failures of R424. -/
structure StageReport where
  stage      : Stage
  slotB      : Bool := false
  failed     : Bool := false
  failPairs  : List Nat := []
  failStacks : List Nat := []
  failTiles  : List Nat := []
  hdCores    : Nat := 64
  journalBad : Bool := false
deriving DecidableEq, Repr

/-- A reading that a PLDM numeric sensor offers (18_safety_security_clinker.md R456). -/
inductive Sensor where
  | inputVoltage | inputPower | cap | floor | pace
  | hottestJunction (die : Fin 4) | hottestStack (die : Fin 4)
  | coolantInlet | coolantOutlet | flashCapacity | flashLife
deriving DecidableEq, Repr

/-- The commands, one per row of spec/opcode_table.json, in the table's order. -/
inductive Instr where
  -- register window
  | regWrite (r : RegWrite)
  | malformedAccess (who : Requester) (off : WinOff) (width : Nat) (write : Bool) (now : Nat)
  | loReadLatch (r : RegRead)
  | intStatW1c (r : RegWrite) (coincident : W32)
  | errClr (r : RegWrite) (coincident : Option (W32 × W64))
  | cntClr (r : RegWrite) (coincident : List (Nat × Nat))
  -- stash
  | sthPush (i : Issue)
  | sthSegtabRead (slice : Fin 8) (lane : Fin 4) (ecc : Ecc) (now : Nat)
  | sthSpillDone (slice : Fin 8) (lane : Fin 4) (now : Nat)
  | sthRecordValid (slice : Fin 8) (lane : Fin 4) (now : Nat)
  | sthPop (i : Issue)
  | sthPopDiscard (i : Issue)
  | sthRefillStart (slice : Fin 8) (lane : Fin 4) (now : Nat)
  | sthRefillDone (slice : Fin 8) (lane : Fin 4) (now : Nat)
  | sthWait (tile : Fin 288) (thr : Fin 64) (now : Nat)
  | sthClear (r : RegWrite)
  -- anvils
  | anvPass (i : Issue)
  | coalTimeout (tile : Fin 288) (group : Nat) (now : Nat)
  | anvCoalCfgWrite (r : RegWrite)
  | passDispatch (tile : Fin 288) (index : Nat) (now : Nat)
  | anvChunkLoad (tile : Fin 288) (anvil : Fin 3) (fault : AnvFault) (ecc : Ecc) (now : Nat)
  | anvChunkLaunch (tile : Fin 288) (anvil : Fin 3) (feedStalls loadStalls : Nat) (ecc : Ecc) (now : Nat)
  | anvOutput (tile : Fin 288) (anvil : Fin 3) (fault : AnvFault) (now : Nat)
  -- scalar unit
  | nop (i : Issue)
  | add (i : Issue)
  | sub (i : Issue)
  | mul (i : Issue)
  | and (i : Issue)
  | or (i : Issue)
  | xor (i : Issue)
  | shl (i : Issue)
  | shr (i : Issue)
  | sra (i : Issue)
  | minu (i : Issue)
  | maxu (i : Issue)
  | mins (i : Issue)
  | maxs (i : Issue)
  | addi (i : Issue)
  | li (i : Issue)
  | lih (i : Issue)
  | andi (i : Issue)
  | ori (i : Issue)
  | shli (i : Issue)
  | shri (i : Issue)
  | cmp (i : Issue)
  | cmpi (i : Issue)
  | plog (i : Issue)
  | bra (i : Issue)
  | jr (i : Issue)
  | call (i : Issue)
  | rdtime (i : Issue)
  | rdstep (i : Issue)
  | rdid (i : Issue)
  | spkDraw (i : Issue)
  | spkDrawi (i : Issue)
  -- slot unit
  | ld (i : Issue)
  | st (i : Issue)
  | slotFill (i : Issue)
  | slotCopy (i : Issue)
  | slotTagEmpty (i : Issue)
  | slotTagFull (i : Issue)
  | slotTagRetain (i : Issue)
  | slotTagRelease (i : Issue)
  | slotTest (i : Issue)
  | spadAgePromote (tile : Fin 288) (now : Nat)
  -- vector and special-function units
  | vadd (i : Issue)
  | vsub (i : Issue)
  | vmul (i : Issue)
  | vmax (i : Issue)
  | vmin (i : Issue)
  | vabs (i : Issue)
  | vfma (i : Issue)
  | vscale (i : Issue)
  | vcvt (i : Issue)
  | vrsum (i : Issue)
  | vrmax (i : Issue)
  | vdot (i : Issue)
  | vdact (i : Issue)
  | vdsmax (i : Issue)
  | vdnorm (i : Issue)
  | vzmap (i : Issue)
  | vroute (i : Issue)
  | optStep (i : Issue)
  | sfuFn (i : Issue)
  | sfuDact (i : Issue)
  | sfuFns (i : Issue)
  -- Bellows
  | streamIn (i : Issue)
  | prefetch (i : Issue)
  | writeBack (i : Issue)
  | gather (i : Issue)
  | drain (i : Issue)
  | prefetchFence (i : Issue)
  | blwRequestIssue (tile : Fin 288) (desc : Nat) (ecc : Ecc) (now : Nat)
  | blwRequestComplete (tile : Fin 288) (req : Nat) (now : Nat)
  | prefetchInvalidate (tile : Fin 288) (entry : Nat) (now : Nat)
  -- HBM
  | hbmWindowStart (now : Nat)
  | hbmOpArrive (op : Nat) (now : Nat)
  | hbmOpAdmit (op : Nat) (ecc : Ecc) (now : Nat)
  | hbmBurstSlot (ctl : Fin 32) (pc : Fin 64) (ecc : Ecc) (now : Nat)
  | hbmRefresh (ctl : Fin 32) (pc : Fin 64) (bank : Fin 64) (now : Nat)
  | hbmAgePromote (op : Nat) (now : Nat)
  | patrolScrub (ctl : Fin 32) (sector : Nat) (ecc : Ecc) (now : Nat)
  | sorterGatherRelease (tile : Fin 288) (now : Nat)
  | sorterHold (tile : Fin 288) (desc : Nat) (now : Nat)
  | hbmThermalRead (ctl : Fin 32) (temp : Nat) (now : Nat)
  | hbmTrackMove (ctl : Fin 32) (now : Nat)
  | hbmRetrainDone (ctl : Fin 32) (outcome : RetrainOutcome) (now : Nat)
  -- tiers and flash
  | tierMap (r : RegWrite)
  | tierUnmap (r : RegWrite)
  | tierMigrate (r : RegWrite)
  | tierHint (r : RegWrite)
  | migrationDone (part : Fin 8) (page : Nat) (now : Nat)
  | xlatMissFill (part : Fin 8) (page : Nat) (now : Nat)
  | flashUnitRead (unit : Nat) (ecc : Ecc) (now : Nat)
  | ftlCheckpoint (now : Nat)
  | ftlRelocation (block : Nat) (now : Nat)
  | ftlBlockRetire (block : Nat) (now : Nat)
  -- Tongs
  | tngPut (i : Issue)
  | tngGet (i : Issue)
  | tngPutadd (i : Issue)
  | tngFadd (i : Issue)
  | tngFand (i : Issue)
  | tngCas (i : Issue)
  | tngNotify (i : Issue)
  | tngDispatch (i : Issue)
  | tngRequestIssue (tile : Fin 288) (op : Nat) (ecc : Ecc) (now : Nat)
  | tngRequestArrive (port : Option (Fin 16)) (p : ReqPkt) (ecc : Ecc) (now : Nat)
  | tngResponseArrive (p : RspPkt) (stamp : Nat) (now : Nat)
  | tngTimeout (tile : Fin 288) (tag : BitVec 7) (now : Nat)
  -- control unit and tile tasks
  | fence (i : Issue)
  | barrier (i : Issue)
  | taskBegin (i : Issue)
  | taskJoin (i : Issue)
  | taskCommit (i : Issue)
  | taskDiscard (i : Issue)
  | taskCommitApply (tile : Fin 288) (task : Fin 4) (now : Nat)
  | taskDiscardApply (tile : Fin 288) (task : Fin 4) (now : Nat)
  -- Quench and Temper
  | qchOpen (i : Issue)
  | qchVote (i : Issue)
  | qchRaise (i : Issue)
  | qchCtlRaise (r : RegWrite)
  | qchLayer (i : Issue)
  | qchArm (r : RegWrite)
  | isoClr (r : RegWrite)
  | qchMemberCntWrite (r : RegWrite)
  | memberCrcDone (slice : Fin 8) (ecc : Ecc) (now : Nat)
  | groupVoteArrive (slice : Fin 8) (record : Fin 4) (operand : W64) (now : Nat)
  | leaderTimeout (slice : Fin 8) (record : Fin 4) (now : Nat)
  | rootResultArrive (slice : Fin 8) (record : Fin 4) (group : Fin 63) (word : W64) (now : Nat)
  | rootTimeout (slice : Fin 8) (record : Fin 4) (now : Nat)
  | outcomeArrive (slice : Fin 8) (word : W64) (now : Nat)
  | isolationTimeout (slice : Fin 8) (now : Nat)
  | tmpClose (i : Issue)
  | hrtHint (i : Issue)
  | halt (i : Issue)
  -- tile control
  | tileThrStart (r : RegWrite)
  | tileThrClr (r : RegWrite)
  | tileReset (tile : Fin 288) (now : Nat)
  | tileResetTest (tile : Fin 288) (now : Nat)
  | tileResetDone (tile : Fin 288) (testPassed : Bool) (now : Nat)
  | haltAll (r : RegWrite)
  | tileWatchdog (tile : Fin 288) (thr : Fin 64) (now : Nat)
  | spareSwap (failed spare : Fin 288) (testPassed : Bool) (now : Nat)
  -- command rings
  | ringPoll (slice : Fin 8) (ring : Fin 4) (now : Nat)
  | ringTailRead (slice : Fin 8) (ring : Fin 4) (now : Nat)
  | ringBurstArrive (slice : Fin 8) (ring : Fin 4) (now : Nat)
  | ringNop (slice : Fin 8) (ring : Fin 4) (now : Nat)
  | ringStart (slice : Fin 8) (ring : Fin 4) (now : Nat)
  | ringXfer (slice : Fin 8) (ring : Fin 4) (now : Nat)
  | ringWrite (slice : Fin 8) (ring : Fin 4) (now : Nat)
  | ringWaitWord (slice : Fin 8) (ring : Fin 4) (now : Nat)
  | ringWaitIdle (slice : Fin 8) (ring : Fin 4) (now : Nat)
  | waitWordRead (slice : Fin 8) (ring : Fin 4) (now : Nat)
  | waitWordTimeout (slice : Fin 8) (ring : Fin 4) (now : Nat)
  | ringEnWrite (r : RegWrite)
  | ringResume (r : RegWrite)
  -- scratchpad page
  | spadCrcGo (r : RegWrite)
  | spadCrcDone (tile : Fin 288) (ecc : Ecc) (now : Nat)
  | spadDbgRead (r : RegRead) (ecc : Ecc)
  | spadDbgWrite (r : RegWrite)
  -- links and fabric time
  | flitSend (port : Fin 16) (now : Nat)
  | flitReceive (port : Fin 16) (flit : Flit) (intact : Bool) (now : Nat)
  | laneSignalLoss (port : Fin 16) (lane : Fin 9) (now : Nat)
  | laneErrorWindow (port : Fin 16) (errors : List Nat) (now : Nat)
  | linkPacket (port : Fin 16) (lane : Fin 9) (switchFlit : BitVec 16) (now : Nat)
  | linkTrainDone (port : Fin 16) (trained : BitVec 9) (peerMod : W32) (peerPort : BitVec 4) (now : Nat)
  | lnkEnWrite (r : RegWrite)
  | lnkRetrain (r : RegWrite)
  | routeHoldExpire (now : Nat)
  | syncSend (port : Fin 16) (now : Nat)
  | syncReceive (port : Fin 16) (root : W32) (hops : Nat) (t1 t2 t3 t4 : Nat) (now : Nat)
  | ftmHoldoverExpire (now : Nat)
  | ftmSet (r : RegWrite)
  | refclkLoss (now : Nat)
  | refclkValid (now : Nat)
  -- partitions and the sequence table
  | partitionCreate (r : RegWrite)
  | partitionDestroy (r : RegWrite)
  | partitionReset (r : RegWrite)
  | build (slice : Fin 8) (trigger : BuildTrigger) (now : Nat)
  | buildDone (slice : Fin 8) (now : Nat)
  -- billets
  | billetImageDone (slice : Fin 8) (now : Nat)
  | billetMirrorDone (slice : Fin 8) (fail : Option Byte) (now : Nat)
  | billetParityStart (slice : Fin 8) (fail : Option Byte) (data : List (Nat × List Byte)) (now : Nat)
  | billetSeal (slice : Fin 8) (fail : Option Byte) (now : Nat)
  | bltDeadlineExpire (slice : Fin 8) (now : Nat)
  | bltAbort (r : RegWrite)
  | trickleDone (slice : Fin 8) (now : Nat)
  | restoreGo (r : RegWrite)
  | restoreDone (slice : Fin 8) (fail : Option Byte) (rebuilt : List (Nat × List Byte)) (manifest : List Byte) (now : Nat)
  | digestGo (r : RegWrite)
  | digestDone (slice : Fin 8) (now : Nat)
  -- Hearth
  | powerEstimate (sample : PowerSample) (now : Nat)
  | opTransitionDone (die : Fin 4) (now : Nat)
  | hintBoostEnd (die : Fin 4) (now : Nat)
  | estimatorCorrection (measW : Nat) (now : Nat)
  | thermalLoop (die : Fin 4) (temps : List Nat) (inlet outlet : Nat) (now : Nat)
  | capRequest (r : RegWrite)
  | droopDetect (tile : Fin 288) (now : Nat)
  | droopRecover (tile : Fin 288) (cycles : Nat) (now : Nat)
  | droopLocal (tile : Fin 288) (now : Nat)
  | phaseFail (rail : Fin 11) (now : Nat)
  | converterFail (now : Nat)
  | analogTrip (rail : Fin 11) (now : Nat)
  -- start-up and calibration
  | coldStart (vinMv : Nat) (now : Nat)
  | startupStageDone (report : StageReport) (now : Nat)
  | startupBoundExpire (now : Nat)
  | holdupCharged (now : Nat)
  | inputLoss (now : Nat)
  | holdupEnd (now : Nat)
  | inputOvervoltage (now : Nat)
  | modEnFall (now : Nat)
  | modEnRise (now : Nat)
  | moduleReset (r : RegWrite)
  | calRecordCheck (temps : List Nat) (meanPowerW : Nat) (now : Nat)
  | calWindow (part : Option (Fin 8)) (now : Nat)
  | calStackRelease (part : Option (Fin 8)) (short : List Nat) (now : Nat)
  | calWindowClose (part : Option (Fin 8)) (temps : List Nat) (monitors : List Nat) (now : Nat)
  | serdesLaneRecal (port : Fin 16) (lane : Fin 9) (temp : Nat) (now : Nat)
  | calForce (r : RegWrite)
  -- safety partition, security, management
  | lockstepMismatch (now : Nat)
  | spRestartDone (now : Nat)
  | updateGo (r : RegWrite)
  | pldmFwUpdate (bundle : List Byte) (now : Nat)
  | hearthWatchdog (now : Nat)
  | trialExpire (now : Nat)
  | updateCommit (r : RegWrite)
  | updateAbort (r : RegWrite)
  | enroll (key : List Byte) (serial : List Byte) (sig : List Byte) (now : Nat)
  | setPolicy (section_ : List Byte) (now : Nat)
  | getEvidence (nonce : List Byte) (now : Nat)
  | getCerts (now : Nat)
  | logRead (seq : Nat) (count : Nat) (now : Nat)
  | attGo (r : RegWrite)
  | attExtend (r : RegWrite)
  | attCerts (r : RegWrite)
  | pldmSensorRead (sensor : Sensor) (now : Nat)
  | pldmSetCap (watts : Nat) (now : Nat)
  | pldmModuleReset (now : Nat)
  | pollEvent (now : Nat)
  | setEndpointId (eid : Byte) (now : Nat)
  | faultInjArm (r : RegWrite)
  | inputBackInRange (vinMv : Nat) (now : Nat)
  | partitionRequestDone (now : Nat)
  | staticWearLevelling (block : Nat) (now : Nat)
deriving DecidableEq, Repr

end Sys2Proof
end

