-- ==== Sys2Proof/Config.lean ====
section
/-!
DEFINITION. What an implementation fixes, and the values that the spec leaves open: every constant here has no body, so that
nothing can be proved about its value.
-/
namespace Sys2Proof

/-- A free value: what an operation leaves undefined, or whose result the spec does not state. Applied to the counter
State.free, which every use advances (DESIGN CHOICE, log entry 1). -/
opaque Config.freeValue : Nat → Nat

/-- The correctly rounded FP32 result of an SFU function at an operand where the model's enclosure of the exact value does not
decide the rounding (DEDUCED, log entry 12): the function's code and the operand's bits. -/
opaque Config.sfuRounded : Nat → Nat → Nat

/-- Whether an Ed448 signature over a message verifies (18_safety_security_clinker.md R442): the public key, the context string, the
message, the signature. The algorithm is RFC 8032, which the spec does not restate (DESIGN CHOICE, log entry 13). -/
opaque Config.ed448Verify : List Byte → List Byte → List Byte → List Byte → Bool

/-- Whether a signature verifies under the owner key of which SP holds the digest (R441, R446): digest, context, message, signature. -/
opaque Config.ownerVerify : List Byte → List Byte → List Byte → List Byte → Bool

/-- The Ed448 signature of a message under the key of a seed: seed, context, message (R442). -/
opaque Config.ed448Sign : List Byte → List Byte → List Byte → List Byte

/-- The vendor keys in SP's ROM, by index, and the PUF secret (R441, R442). -/
opaque Config.vendorKey : Nat → List Byte
opaque Config.pufSecret : List Byte

/-- The certificate of the device identity key, and the alias certificate by the alias key's seed (R442; DESIGN CHOICE, log entry 13). -/
opaque Config.dikCert : List Byte
opaque Config.aliasCert : List Byte → List Byte

/-- The IANA enterprise number that MGT_IANA reports (R468), which the spec does not give. -/
opaque Config.ianaNumber : W32

/-- The weight of an event class of Hearth's estimator, in the weight set in use: set, class; an FP32 code in pJ at 0.74 V
(16_hearth_power_thermal.md R401, R419), which the spec does not give. -/
opaque Config.hearthWeight : Nat → Nat → Nat

/-- The leakage in W of a rail group at a voltage in mV and a junction temperature in °C (R401). -/
opaque Config.hearthLeakage : Nat → Nat → Nat → Frac

/-- The phase loss in W of a rail group with a number of phases active (R401). -/
opaque Config.phaseLoss : Nat → Nat → Frac

/-- The efficiency of the converters at an input power in W (R401). -/
opaque Config.efficiency : Frac → Frac

/-- The floor in W of a domain, 0 LINK, 1 MEM, 2 COMPUTE, at the dies' hottest junctions in °C (R404, R408). -/
opaque Config.domainFloor : Nat → List Nat → Frac

/-- The module's serial number, and the digests of the ROM, of the firmware components delivered with the module (1 SP, 2 Hearth,
3 HD boot) and of the DEVICE_STATE section by its SEQ (18_safety_security_clinker.md R452; DESIGN CHOICE, log entry 13). -/
opaque Config.serial : List Byte
opaque Config.romDigest : List Byte
opaque Config.shippedDigest : Nat → List Byte
opaque Config.deviceDigest : Nat → List Byte

/-- The usable flash capacity in bytes (00_scope.md R2, R3): one of the two part numbers. -/
opaque Config.flashUsable : Nat

/-- Whether the part is ILG-P32-F64-A and not ILG-P32-F32-A (00_scope.md R2). -/
opaque Config.isF64 : Bool

/-- The number of the NAND spare blocks fitted at manufacture (11_tiers_and_pool.md R296). -/
opaque Config.flashSpareBlocks : Nat

/-- The SOURCE that the choice among eligible ports uses for a response, whose header carries none
(13_mboano_link_fabric_time.md R329, R331). -/
opaque Config.rspSource : Nat

end Sys2Proof
end

