-- ==== Sys2Proof/Machine/Bits.lean ====
section
/-!
DEFINITION. Bit-field and byte-order helpers (00_scope.md R5, R6) and the CRC-32C of the spec's checks.
-/
namespace Sys2Proof.Machine

/-- Bits hi down to lo of a natural (R6). -/
def bitsOf (v hi lo : Nat) : Nat := (v >>> lo) % 2 ^ (hi + 1 - lo)

/-- Bit n of a natural. -/
def bitOf (v n : Nat) : Bool := v.testBit n

/-- v with bits hi down to lo replaced by the low bits of f. -/
def putBits (v hi lo f : Nat) : Nat :=
  v - (bitsOf v hi lo) * 2 ^ lo + (f % 2 ^ (hi + 1 - lo)) * 2 ^ lo

/-- A natural of w bits read as two's complement. -/
def toSigned (w v : Nat) : Int := if v % 2 ^ w < 2 ^ (w - 1) then (v % 2 ^ w : Nat) else (v % 2 ^ w : Nat) - (2 ^ w : Nat)

/-- An integer as w bits of two's complement. -/
def ofSigned (w : Nat) (v : Int) : Nat := (v % ((2 ^ w : Nat) : Int)).toNat

/-- The n bytes of v, least significant first (R5). -/
def leBytes : Nat → Nat → List Byte
  | 0, _ => []
  | n + 1, v => BitVec.ofNat 8 v :: leBytes n (v / 256)

/-- The natural that bytes spell, least significant first (R5). -/
def leNat : List Byte → Nat
  | [] => 0
  | b :: bs => b.toNat + 256 * leNat bs

/-- Eight rounds of the reflected CRC-32C polynomial 0x82F6_3B78. -/
def crcBits : Nat → Nat → Nat
  | 0, c => c
  | n + 1, c => crcBits n (if c % 2 = 1 then (c / 2) ^^^ 0x82F63B78 else c / 2)

/-- CRC-32C (Castagnoli) over bytes, running value. -/
def crcStep : Nat → List Byte → Nat
  | c, [] => c
  | c, b :: bs => crcStep (crcBits 8 (c ^^^ b.toNat)) bs

/-- CRC-32C (Castagnoli): initial value and final exclusive-or all ones. -/
def crc32c (bs : List Byte) : W32 :=
  BitVec.ofNat 32 (crcStep 0xFFFFFFFF bs ^^^ 0xFFFFFFFF)

/-- The chunk of n elements of l from place i. -/
def slice {α : Type} (l : List α) (i n : Nat) : List α := (l.drop i).take n

/-- Element i of l, or d past its end. -/
def nth {α : Type} (d : α) : List α → Nat → α
  | [], _ => d
  | a :: _, 0 => a
  | _ :: l, i + 1 => nth d l i

/-- l with element i replaced. -/
def setNth {α : Type} : List α → Nat → α → List α
  | [], _, _ => []
  | _ :: l, 0, v => v :: l
  | a :: l, i + 1, v => a :: setNth l i v

/-- Round up to a whole quotient. -/
def ceilDiv (a b : Nat) : Nat := (a + b - 1) / b

/-- The n naturals from k. -/
def rangeFrom (k : Nat) : Nat → List Nat
  | 0 => []
  | n + 1 => k :: rangeFrom (k + 1) n

/-- The sum of a list. -/
def sumNat (l : List Nat) : Nat := l.foldl (· + ·) 0

/-- The number of one bits among the low n bits of v. -/
def popCount (n v : Nat) : Nat := ((List.range n).filter (fun i => v.testBit i)).length

end Sys2Proof.Machine
end

