-- ==== Sys2Proof/Machine/Hash.lean ====
section
/-!
DEFINITION. SHAKE256 (FIPS 202), which the spec names for digests and for the clinker chain
(15_billets_and_recovery.md R380, 18_safety_security_clinker.md R460).
-/
namespace Sys2Proof.Machine

/-- Lane x + 5y of a Keccak state. -/
def kLane (a : List W64) (x y : Nat) : W64 := nth 0 a (x % 5 + 5 * (y % 5))

/-- The 25 lanes in order, each from its column and row. -/
def kMap (f : Nat → Nat → W64) : List W64 :=
  (List.range 25).map (fun i => f (i % 5) (i / 5))

/-- θ. -/
def kTheta (a : List W64) : List W64 :=
  let c := (List.range 5).map (fun x => kLane a x 0 ^^^ kLane a x 1 ^^^ kLane a x 2 ^^^ kLane a x 3 ^^^ kLane a x 4)
  let d := (List.range 5).map (fun x => nth 0 c ((x + 4) % 5) ^^^ (nth 0 c ((x + 1) % 5)).rotateLeft 1)
  kMap (fun x y => kLane a x y ^^^ nth 0 d x)

/-- The rotation offsets of ρ, lane x + 5y. -/
def kRot : List Nat :=
  [0, 1, 62, 28, 27, 36, 44, 6, 55, 20, 3, 10, 43, 25, 39, 41, 45, 15, 21, 8, 18, 2, 61, 56, 14]

/-- ρ and π together: lane (y, 2x + 3y) is lane (x, y) rotated. -/
def kRhoPi (a : List W64) : List W64 :=
  kMap (fun x' y' =>
    -- the source (x, y) with x' = y and y' = 2x + 3y mod 5
    let y := x'
    let x := (3 * (y' + 2 * y)) % 5
    (kLane a x y).rotateLeft (nth 0 kRot (x + 5 * y)))

/-- χ. -/
def kChi (b : List W64) : List W64 :=
  kMap (fun x y => kLane b x y ^^^ (~~~ kLane b (x + 1) y &&& kLane b (x + 2) y))

/-- The round constants of ι. -/
def kRound : List W64 :=
  [0x0000000000000001, 0x0000000000008082, 0x800000000000808A, 0x8000000080008000,
   0x000000000000808B, 0x0000000080000001, 0x8000000080008081, 0x8000000000008009,
   0x000000000000008A, 0x0000000000000088, 0x0000000080008009, 0x000000008000000A,
   0x000000008000808B, 0x800000000000008B, 0x8000000000008089, 0x8000000000008003,
   0x8000000000008002, 0x8000000000000080, 0x000000000000800A, 0x800000008000000A,
   0x8000000080008081, 0x8000000000008080, 0x0000000080000001, 0x8000000080008008]

/-- One round with its constant. -/
def kStep (a : List W64) (rc : W64) : List W64 :=
  match kChi (kRhoPi (kTheta a)) with
  | [] => []
  | l :: ls => (l ^^^ rc) :: ls

/-- Keccak-f[1600]. -/
def keccakF (a : List W64) : List W64 := kRound.foldl kStep a

/-- Exclusive-or a block of bytes into the first lanes. -/
def kAbsorb : List W64 → List Byte → List W64
  | [], _ => []
  | l :: ls, bs => (l ^^^ BitVec.ofNat 64 (leNat (bs.take 8))) :: kAbsorb ls (bs.drop 8)

/-- Absorb whole blocks of 136 bytes; fuel bounds their number. -/
def kSponge : Nat → List W64 → List Byte → List W64
  | 0, a, _ => a
  | n + 1, a, bs => if bs.isEmpty then a else kSponge n (keccakF (kAbsorb a (bs.take 136))) (bs.drop 136)

/-- The padding of SHAKE256 to a multiple of 136 bytes. -/
def shakePad (n : Nat) : List Byte :=
  let z := 136 - n % 136
  if z = 1 then [0x9F] else 0x1F :: (List.replicate (z - 2) 0 ++ [0x80])

/-- The first 32 or fewer bytes that SHAKE256 gives. -/
def shake256 (msg : List Byte) (n : Nat) : List Byte :=
  let m := msg ++ shakePad msg.length
  let a := kSponge (m.length / 136 + 1) (List.replicate 25 0) m
  ((a.map (fun l => leBytes 8 l.toNat)).flatten).take n

end Sys2Proof.Machine
end

