-- ==== Sys2Proof/Machine/Layout.lean ====
section
/-!
DEFINITION. The register layout: the page types of 19_register_map.md R479 and, for each, the registers above the page header
with their fields, access codes and reset values, as the register tables of the chapters give them. The header of R472 is common
to all pages and is laid out in Machine/Pages.lean.
-/
namespace Sys2Proof.Machine

/-- The page types of R479. -/
inductive PageKind where
  | sp0 | spBoot | spPart | spCal | spIrq | hrt | ftl0 | ftl1 | cln | att | ftm | mgt | tile0 | tile1 | anv | spad | blwT | srt | spk | qchT | tngT | hbm | phy | sth | qchP | tmp | ring | blwS | tier | tngS | seq | blt | lnk | rt | uci | noc | hrtD
deriving DecidableEq, Repr

/-- The access codes of R10 that fields above the header carry. -/
inductive Acc where
  | ro | rw | rws | wo
deriving DecidableEq, Repr

/-- The states outside which a field marked config in its chapter keeps its value (R476). -/
inductive Lock where
  | bltOff | bltUnarmed | disarmed | noAnyPart | noPart | noTask | notRunning | open_ | ringOff | seqOff | spkOff | sthOff | tmpOff
deriving DecidableEq, Repr

/-- Which pages of a type hold the register: every one; the lowest slice of a partition only, with no effect elsewhere in the
partition; the slice that runs the partition's sequence table; the FE page of a tile. -/
inductive Place where
  | every | low | seq | feOnly
deriving DecidableEq, Repr

/-- The shapes of a register: one word; a 64-bit pair of R12; a 32-bit saturating counter or a 64-bit counter of R477. -/
inductive RegShape where
  | word | pair | cnt | cnt64
deriving DecidableEq, Repr

/-- A field of a register, its access code, its reset value, and the values it accepts where its chapter limits them. -/
structure FieldDef where
  hi    : Nat
  lo    : Nat
  acc   : Acc
  rst   : Nat
  legal : Option (Nat × Nat) := none
deriving DecidableEq, Repr

/-- A register, or an array of registers of one layout, at its offset in the page. -/
structure RegDef where
  off    : Nat
  name   : String
  shape  : RegShape
  fields : List FieldDef
  count  : Nat := 1
  stride : Nat := 0
  place  : Place := .every
  lock   : Lock := .open_
deriving DecidableEq, Repr

/-- SP0: page type 0x01, 18_*.md R465. -/
def sp0Regs : List RegDef := [
  { off := 0x100, name := "SP_FW_STAT", shape := .word, fields := [⟨31, 24, .ro, 0x0, none⟩, ⟨10, 10, .ro, 0x0, none⟩, ⟨9, 9, .ro, 0x0, none⟩, ⟨8, 8, .ro, 0x0, none⟩, ⟨7, 0, .ro, 0x0, none⟩] },
  { off := 0x104, name := "SP_UPD_CTL", shape := .word, fields := [⟨31, 31, .wo, 0x0, none⟩, ⟨30, 30, .wo, 0x0, none⟩, ⟨29, 29, .wo, 0x0, none⟩] },
  { off := 0x108, name := "SP_UPD_SRC", shape := .pair, fields := [⟨63, 0, .rw, 0x0, none⟩] },
  { off := 0x110, name := "SP_UPD_LEN", shape := .word, fields := [⟨31, 0, .rw, 0x0, none⟩] },
  { off := 0x114, name := "SP_TRIAL_S", shape := .word, fields := [⟨16, 0, .rws, 0x258, none⟩] },
  { off := 0x118, name := "SP_FINJ", shape := .word, fields := [⟨31, 31, .wo, 0x0, none⟩, ⟨15, 0, .rw, 0x0, none⟩] },
  { off := 0x11C, name := "SP_FINJ_VAL", shape := .word, fields := [⟨31, 0, .rw, 0x0, none⟩] },
  { off := 0x120, name := "SP_ARC_SEL", shape := .word, fields := [⟨3, 0, .rw, 0x0, none⟩] },
  { off := 0x124, name := "SP_ARC", shape := .word, fields := [⟨31, 0, .ro, 0x0, none⟩] },
  { off := 0x128, name := "SP_LOCKSTEP_CNT", shape := .word, fields := [⟨31, 0, .ro, 0x0, none⟩] },
  { off := 0x130, name := "SP_FW_SVN", shape := .word, fields := [⟨31, 0, .ro, 0x0, none⟩], count := 3, stride := 0x4 },
  { off := 0x140, name := "SP_POLICY", shape := .word, fields := [⟨2, 2, .ro, 0x0, none⟩, ⟨1, 1, .ro, 0x0, none⟩, ⟨0, 0, .ro, 0x0, none⟩] }]

/-- SPBOOT: page type 0x02, 17_*.md R436. -/
def spBootRegs : List RegDef := [
  { off := 0x100, name := "SP_BOOT_STAT", shape := .word, fields := [⟨31, 28, .ro, 0x1, none⟩, ⟨7, 7, .ro, 0x0, none⟩, ⟨2, 2, .ro, 0x0, none⟩, ⟨1, 1, .ro, 0x0, none⟩, ⟨0, 0, .ro, 0x0, none⟩] },
  { off := 0x104, name := "SP_RST_REQ", shape := .word, fields := [⟨31, 31, .wo, 0x0, none⟩, ⟨1, 0, .rw, 0x0, none⟩] },
  { off := 0x110, name := "SP_STAGE_MS", shape := .word, fields := [⟨15, 0, .ro, 0xFFFF, none⟩], count := 12, stride := 0x4 },
  { off := 0x140, name := "SP_ST", shape := .word, fields := [⟨31, 0, .ro, 0x0, none⟩], count := 4, stride := 0x4 },
  { off := 0x150, name := "SP_ST_MEM", shape := .word, fields := [⟨31, 0, .ro, 0x0, none⟩] },
  { off := 0x154, name := "SP_ST_LINK", shape := .word, fields := [⟨31, 0, .ro, 0x0, none⟩] },
  { off := 0x158, name := "SP_ST_HD", shape := .word, fields := [⟨7, 0, .ro, 0x0, none⟩] }]

/-- SPPART: page type 0x03, 14_*.md R372. -/
def spPartRegs : List RegDef := [
  { off := 0x100, name := "SP_PREQ_CTL", shape := .word, fields := [⟨31, 31, .wo, 0x0, none⟩, ⟨10, 8, .rw, 0x0, none⟩, ⟨2, 0, .rw, 0x0, none⟩] },
  { off := 0x104, name := "SP_PREQ_SLICES", shape := .word, fields := [⟨7, 0, .rw, 0x0, none⟩] },
  { off := 0x108, name := "SP_PREQ_MODE", shape := .word, fields := [⟨3, 3, .rw, 0x0, none⟩, ⟨2, 2, .rw, 0x0, none⟩, ⟨1, 1, .rw, 0x0, none⟩, ⟨0, 0, .rw, 0x0, none⟩] },
  { off := 0x10C, name := "SP_PREQ_SPLIT", shape := .word, fields := [⟨16, 16, .rw, 0x0, none⟩, ⟨11, 8, .rw, 0x0, none⟩, ⟨7, 4, .rw, 0x0, none⟩, ⟨3, 0, .rw, 0x0, none⟩] },
  { off := 0x110, name := "SP_PREQ_CLIENT", shape := .word, fields := [⟨15, 0, .rw, 0x0, none⟩] },
  { off := 0x114, name := "SP_PREQ_JOB", shape := .word, fields := [⟨31, 0, .rw, 0x0, none⟩] },
  { off := 0x118, name := "SP_PREQ_RANGE", shape := .word, fields := [⟨26, 0, .rw, 0x0, none⟩] },
  { off := 0x11C, name := "SP_PREQ_HOST_MIN", shape := .word, fields := [⟨17, 0, .rw, 0x0, none⟩] },
  { off := 0x120, name := "SP_PREQ_FLASH_MIN", shape := .word, fields := [⟨24, 0, .rw, 0x0, none⟩] },
  { off := 0x124, name := "SP_PREQ_STAT", shape := .word, fields := [⟨31, 31, .ro, 0x0, none⟩, ⟨10, 8, .ro, 0x0, none⟩, ⟨7, 0, .ro, 0x0, none⟩] },
  { off := 0x140, name := "SP_PART", shape := .word, fields := [⟨31, 16, .ro, 0x0, none⟩, ⟨11, 8, .ro, 0x0, none⟩, ⟨7, 0, .ro, 0x0, none⟩], count := 8, stride := 0x4 },
  { off := 0x160, name := "SP_PART_JOB", shape := .word, fields := [⟨31, 0, .ro, 0x0, none⟩], count := 8, stride := 0x4 },
  { off := 0x200, name := "SP_CLIM_IDX", shape := .word, fields := [⟨5, 0, .rw, 0x0, none⟩] },
  { off := 0x204, name := "SP_CLIM", shape := .word, fields := [⟨31, 16, .rws, 0x0, none⟩, ⟨15, 15, .rws, 0x0, none⟩, ⟨14, 14, .rws, 0x0, none⟩, ⟨3, 0, .rws, 0x0, none⟩] },
  { off := 0x208, name := "SP_CLIM_START", shape := .word, fields := [⟨31, 0, .rws, 0x0, none⟩] },
  { off := 0x20C, name := "SP_CLIM_RUN", shape := .word, fields := [⟨3, 0, .ro, 0x0, none⟩] },
  { off := 0x210, name := "SP_CLIM_STARTED", shape := .word, fields := [⟨31, 0, .ro, 0x0, none⟩] }]

/-- SPCAL: page type 0x04, 17_*.md R437. -/
def spCalRegs : List RegDef := [
  { off := 0x100, name := "SP_CAL_CTL", shape := .word, fields := [⟨1, 1, .wo, 0x0, none⟩, ⟨0, 0, .wo, 0x0, none⟩] },
  { off := 0x104, name := "SP_CAL_PERIOD", shape := .word, fields := [⟨15, 0, .rws, 0x1000, some (256, 65535)⟩] },
  { off := 0x108, name := "SP_CAL_DRIFT", shape := .word, fields := [⟨3, 0, .rws, 0x8, some (4, 12)⟩] },
  { off := 0x10C, name := "SP_CAL_IDLE_MS", shape := .word, fields := [⟨19, 0, .rws, 0xEA60, none⟩] },
  { off := 0x110, name := "SP_CAL_STAT", shape := .word, fields := [⟨31, 31, .ro, 0x0, none⟩, ⟨21, 16, .ro, 0x0, none⟩, ⟨7, 0, .ro, 0x0, none⟩] },
  { off := 0x114, name := "SP_CAL_SEL", shape := .word, fields := [⟨15, 12, .rw, 0x0, none⟩, ⟨11, 0, .rw, 0x0, none⟩] },
  { off := 0x118, name := "SP_CAL_HDR", shape := .pair, fields := [⟨63, 0, .ro, 0x0, none⟩] },
  { off := 0x120, name := "SP_CAL_WIN_CNT", shape := .cnt, fields := [] },
  { off := 0x124, name := "SP_CAL_LAST_US", shape := .word, fields := [⟨31, 0, .ro, 0x0, none⟩] },
  { off := 0x128, name := "SP_CAL_OOB_CNT", shape := .cnt, fields := [] },
  { off := 0x12C, name := "SP_CAL_WIDE_MS", shape := .cnt, fields := [] }]

/-- SPIRQ: page type 0x05, 19_*.md R482. -/
def spIrqRegs : List RegDef := [
  { off := 0x100, name := "SP_IRQ_SUM", shape := .word, fields := [⟨10, 0, .ro, 0x0, none⟩] },
  { off := 0x108, name := "SP_IRQ_MSI_ADDR", shape := .pair, fields := [⟨63, 0, .rw, 0x0, none⟩] },
  { off := 0x110, name := "SP_IRQ_MSI_DATA", shape := .word, fields := [⟨31, 0, .rw, 0x0, none⟩] }]

/-- HRT: page type 0x06, 16_*.md R419. -/
def hrtRegs : List RegDef := [
  { off := 0x100, name := "HRT_CTL", shape := .word, fields := [⟨0, 0, .wo, 0x0, none⟩] },
  { off := 0x104, name := "HRT_STAT", shape := .word, fields := [⟨11, 8, .ro, 0x4, none⟩, ⟨6, 6, .ro, 0x0, none⟩, ⟨5, 5, .ro, 0x0, none⟩, ⟨4, 4, .ro, 0x0, none⟩, ⟨3, 3, .ro, 0x0, none⟩, ⟨2, 1, .ro, 0x0, none⟩, ⟨0, 0, .ro, 0x0, none⟩] },
  { off := 0x108, name := "HRT_CAP", shape := .word, fields := [⟨15, 0, .rws, 0x1770, none⟩] },
  { off := 0x10C, name := "HRT_CAP_REQ", shape := .word, fields := [⟨31, 31, .wo, 0x0, none⟩, ⟨30, 30, .ro, 0x0, none⟩, ⟨15, 0, .rw, 0x1770, none⟩] },
  { off := 0x110, name := "HRT_FLOOR", shape := .word, fields := [⟨15, 0, .ro, 0x0, none⟩] },
  { off := 0x114, name := "HRT_PRIO", shape := .word, fields := [⟨5, 0, .rw, 0x6, none⟩] },
  { off := 0x118, name := "HRT_OPMAX", shape := .word, fields := [⟨3, 0, .rw, 0xA, some (0, 10)⟩] },
  { off := 0x11C, name := "HRT_GUARD", shape := .word, fields := [⟨15, 8, .rws, 0x32, none⟩, ⟨7, 0, .rws, 0x14, none⟩] },
  { off := 0x120, name := "HRT_EST", shape := .word, fields := [⟨15, 0, .ro, 0x0, none⟩] },
  { off := 0x124, name := "HRT_MEAS", shape := .word, fields := [⟨15, 0, .ro, 0x0, none⟩] },
  { off := 0x128, name := "HRT_CORR", shape := .word, fields := [⟨15, 0, .ro, 0x4000, none⟩] },
  { off := 0x130, name := "HRT_ALLOC_LINK", shape := .word, fields := [⟨31, 0, .ro, 0x0, none⟩] },
  { off := 0x134, name := "HRT_ALLOC_MEM", shape := .word, fields := [⟨31, 0, .ro, 0x0, none⟩] },
  { off := 0x138, name := "HRT_ALLOC_CMP", shape := .word, fields := [⟨31, 0, .ro, 0x0, none⟩] },
  { off := 0x13C, name := "HRT_PACE", shape := .word, fields := [⟨31, 16, .ro, 0x0, none⟩, ⟨10, 0, .ro, 0x0, none⟩] },
  { off := 0x140, name := "HRT_HINT_THR", shape := .word, fields := [⟨15, 0, .rw, 0x64, none⟩] },
  { off := 0x144, name := "HRT_HINT_BOOST", shape := .word, fields := [⟨5, 0, .rw, 0xF, none⟩] },
  { off := 0x148, name := "HRT_TLIM", shape := .word, fields := [⟨23, 0, .rws, 0x69645F, none⟩] },
  { off := 0x14C, name := "HRT_COOLANT", shape := .word, fields := [⟨15, 8, .ro, 0x0, none⟩, ⟨7, 0, .ro, 0x0, none⟩] },
  { off := 0x150, name := "HRT_WSEL", shape := .word, fields := [⟨7, 0, .rw, 0x0, none⟩] },
  { off := 0x154, name := "HRT_WDATA", shape := .word, fields := [⟨31, 0, .ro, 0x0, none⟩] },
  { off := 0x160, name := "HRT_CAP_MS", shape := .cnt, fields := [] },
  { off := 0x164, name := "HRT_THERM_MS", shape := .cnt, fields := [] },
  { off := 0x168, name := "HRT_FLOOR_CNT", shape := .cnt, fields := [] },
  { off := 0x16C, name := "HRT_DRIFT_CNT", shape := .cnt, fields := [] },
  { off := 0x170, name := "HRT_PHASE_FAIL_CNT", shape := .cnt, fields := [] },
  { off := 0x180, name := "HRT_RAIL_STAT", shape := .word, fields := [⟨31, 0, .ro, 0x0, none⟩], count := 11, stride := 0x4 },
  { off := 0x1C0, name := "HRT_RAIL_ILIM", shape := .word, fields := [⟨15, 0, .rws, 0x0, none⟩], count := 11, stride := 0x4 }]

/-- FTL0: page type 0x07, 11_*.md R299. -/
def ftl0Regs : List RegDef := [
  { off := 0x100, name := "FTL_CTL", shape := .word, fields := [⟨0, 0, .wo, 0x0, none⟩] },
  { off := 0x104, name := "FTL_STAT", shape := .word, fields := [⟨15, 8, .ro, 0x0, none⟩, ⟨2, 2, .ro, 0x0, none⟩, ⟨1, 1, .ro, 0x0, none⟩, ⟨0, 0, .ro, 0x0, none⟩] },
  { off := 0x108, name := "FTL_USABLE", shape := .pair, fields := [⟨63, 0, .ro, 0x0, none⟩] },
  { off := 0x110, name := "FTL_BILLET_SIZE", shape := .pair, fields := [⟨63, 0, .rws, 0x0, none⟩] },
  { off := 0x118, name := "FTL_TIER_SIZE", shape := .pair, fields := [⟨63, 0, .ro, 0x0, none⟩] },
  { off := 0x120, name := "FTL_MAP_BASE", shape := .pair, fields := [⟨63, 0, .rws, 0x0, none⟩] },
  { off := 0x128, name := "FTL_RD_BYTES", shape := .cnt64, fields := [] },
  { off := 0x130, name := "FTL_WR_BYTES", shape := .pair, fields := [⟨63, 0, .ro, 0x0, none⟩] },
  { off := 0x138, name := "FTL_NAND_WR", shape := .cnt64, fields := [] },
  { off := 0x140, name := "FTL_SPARE_BLOCKS", shape := .word, fields := [⟨31, 0, .ro, 0x0, none⟩] },
  { off := 0x144, name := "FTL_RETIRED", shape := .word, fields := [⟨31, 0, .ro, 0x0, none⟩] },
  { off := 0x148, name := "FTL_RELOC_CNT", shape := .cnt, fields := [] },
  { off := 0x14C, name := "FTL_UE_CNT", shape := .cnt, fields := [] },
  { off := 0x150, name := "FTL_RATED_PBW", shape := .word, fields := [⟨31, 0, .ro, 0x0, none⟩] }]

/-- FTL1: page type 0x08, 11_*.md R299. -/
def ftl1Regs : List RegDef := [
  { off := 0x100, name := "FTL_POOL_CFG", shape := .word, fields := [⟨0, 0, .rws, 0x0, none⟩], lock := .noAnyPart },
  { off := 0x108, name := "FTL_POOL_HOST_BASE", shape := .pair, fields := [⟨63, 0, .rws, 0x0, none⟩], lock := .noAnyPart },
  { off := 0x110, name := "FTL_POOL_HOST_FRAMES", shape := .word, fields := [⟨17, 0, .rws, 0x0, none⟩], lock := .noAnyPart },
  { off := 0x114, name := "FTL_POOL_HOST_FREE", shape := .word, fields := [⟨31, 0, .ro, 0x0, none⟩] },
  { off := 0x118, name := "FTL_POOL_FLASH_FRAMES", shape := .word, fields := [⟨31, 0, .ro, 0x0, none⟩] },
  { off := 0x11C, name := "FTL_POOL_FLASH_FREE", shape := .word, fields := [⟨31, 0, .ro, 0x0, none⟩] }]

/-- CLN: page type 0x09, 18_*.md R467. -/
def clnRegs : List RegDef := [
  { off := 0x100, name := "CLN_HEAD", shape := .pair, fields := [⟨63, 0, .ro, 0x0, none⟩] },
  { off := 0x108, name := "CLN_OLDEST", shape := .pair, fields := [⟨63, 0, .ro, 0x0, none⟩] },
  { off := 0x110, name := "CLN_PERM_USED", shape := .word, fields := [⟨16, 0, .ro, 0x0, none⟩] },
  { off := 0x114, name := "CLN_OPEN", shape := .word, fields := [⟨8, 0, .ro, 0x0, none⟩] },
  { off := 0x118, name := "CLN_INT_MASK", shape := .word, fields := [⟨11, 1, .rw, 0x0, none⟩] },
  { off := 0x120, name := "CLN_RD_SEQ", shape := .pair, fields := [⟨63, 0, .rw, 0x0, none⟩] },
  { off := 0x128, name := "CLN_RD_STAT", shape := .word, fields := [⟨0, 0, .ro, 0x0, none⟩] },
  { off := 0x200, name := "CLN_WIN", shape := .word, fields := [⟨31, 0, .ro, 0x0, none⟩], count := 32, stride := 0x4 }]

/-- ATT: page type 0x0A, 18_*.md R466. -/
def attRegs : List RegDef := [
  { off := 0x100, name := "ATT_CTL", shape := .word, fields := [⟨31, 31, .wo, 0x0, none⟩, ⟨30, 30, .wo, 0x0, none⟩, ⟨29, 29, .wo, 0x0, none⟩, ⟨3, 0, .rw, 0x0, none⟩] },
  { off := 0x104, name := "ATT_STAT", shape := .word, fields := [⟨31, 31, .ro, 0x0, none⟩, ⟨15, 0, .ro, 0x0, none⟩] },
  { off := 0x108, name := "ATT_DST", shape := .pair, fields := [⟨63, 0, .rw, 0x0, none⟩] },
  { off := 0x110, name := "ATT_NONCE", shape := .word, fields := [⟨31, 0, .rw, 0x0, none⟩], count := 8, stride := 0x4 },
  { off := 0x130, name := "ATT_EXT", shape := .word, fields := [⟨31, 0, .rw, 0x0, none⟩], count := 8, stride := 0x4 }]

/-- FTM: page type 0x0B, 13_*.md R349. -/
def ftmRegs : List RegDef := [
  { off := 0x100, name := "FTM_CTL", shape := .word, fields := [⟨3, 3, .wo, 0x0, none⟩, ⟨2, 2, .wo, 0x0, none⟩, ⟨1, 1, .rws, 0x0, none⟩, ⟨0, 0, .rw, 0x1, none⟩] },
  { off := 0x104, name := "FTM_STAT", shape := .word, fields := [⟨28, 24, .ro, 0x1F, none⟩, ⟨20, 16, .ro, 0x1F, none⟩, ⟨2, 0, .ro, 0x1, none⟩] },
  { off := 0x108, name := "FTM_CFG", shape := .word, fields := [⟨23, 16, .rw, 0x5, some (1, 255)⟩, ⟨15, 0, .rw, 0x10, some (1, 1000)⟩] },
  { off := 0x110, name := "FTM_TIME", shape := .pair, fields := [⟨63, 0, .ro, 0x0, none⟩] },
  { off := 0x118, name := "FTM_FRAC", shape := .word, fields := [⟨7, 0, .ro, 0x0, none⟩] },
  { off := 0x120, name := "FTM_SET", shape := .pair, fields := [⟨63, 0, .rw, 0x0, none⟩] },
  { off := 0x128, name := "FTM_ROOT_ID", shape := .word, fields := [⟨31, 0, .ro, 0x0, none⟩] },
  { off := 0x12C, name := "FTM_OFFSET", shape := .word, fields := [⟨31, 0, .ro, 0x0, none⟩] },
  { off := 0x130, name := "FTM_RATE", shape := .word, fields := [⟨31, 0, .ro, 0x0, none⟩] },
  { off := 0x134, name := "FTM_STEP_CNT", shape := .cnt, fields := [] },
  { off := 0x138, name := "FTM_UNLOCK_CNT", shape := .cnt, fields := [] },
  { off := 0x13C, name := "FTM_HOLD_MS", shape := .cnt, fields := [] }]

/-- MGT: page type 0x0C, 18_*.md R468. -/
def mgtRegs : List RegDef := [
  { off := 0x100, name := "MGT_STAT", shape := .word, fields := [⟨31, 24, .ro, 0x0, none⟩, ⟨23, 23, .ro, 0x0, none⟩, ⟨6, 0, .ro, 0x0, none⟩] },
  { off := 0x104, name := "MGT_IANA", shape := .word, fields := [⟨31, 0, .ro, 0x0, none⟩] },
  { off := 0x108, name := "MGT_EVT_MASK", shape := .word, fields := [⟨11, 1, .rw, 0x7FF, none⟩] },
  { off := 0x10C, name := "MGT_REQ_CNT", shape := .word, fields := [⟨31, 0, .ro, 0x0, none⟩] },
  { off := 0x110, name := "MGT_ERR_CNT", shape := .word, fields := [⟨31, 0, .ro, 0x0, none⟩] },
  { off := 0x114, name := "MGT_DROP_CNT", shape := .word, fields := [⟨31, 0, .ro, 0x0, none⟩] },
  { off := 0x118, name := "MGT_LAST_MS", shape := .word, fields := [⟨7, 0, .ro, 0x0, none⟩] }]

/-- TILE0: page type 0x10, 06_*.md R175. -/
def tile0Regs : List RegDef := [
  { off := 0x100, name := "TILE_CTL", shape := .word, fields := [⟨3, 3, .wo, 0x0, none⟩, ⟨2, 2, .wo, 0x0, none⟩, ⟨1, 1, .wo, 0x0, none⟩, ⟨0, 0, .wo, 0x0, none⟩] },
  { off := 0x104, name := "TILE_STAT", shape := .word, fields := [⟨23, 16, .ro, 0x0, none⟩, ⟨4, 4, .ro, 0x0, none⟩, ⟨3, 3, .ro, 0x0, none⟩, ⟨2, 2, .ro, 0x0, none⟩, ⟨1, 1, .ro, 0x0, none⟩, ⟨0, 0, .ro, 0x1, none⟩] },
  { off := 0x108, name := "TILE_LOGICAL", shape := .word, fields := [⟨15, 0, .rws, 0xFFFF, none⟩] },
  { off := 0x10C, name := "TILE_PART", shape := .word, fields := [⟨10, 8, .ro, 0x0, none⟩, ⟨3, 3, .ro, 0x0, none⟩, ⟨2, 0, .ro, 0x0, none⟩] },
  { off := 0x110, name := "TILE_CODE", shape := .word, fields := [⟨30, 16, .rw, 0x0, none⟩, ⟨14, 0, .rw, 0x0, none⟩], lock := .notRunning },
  { off := 0x114, name := "TILE_SHADOW", shape := .word, fields := [⟨30, 16, .rw, 0x0, none⟩, ⟨14, 0, .rw, 0x0, none⟩], lock := .noTask },
  { off := 0x118, name := "TILE_TAG_STAT", shape := .word, fields := [⟨21, 16, .ro, 0x0, none⟩, ⟨6, 0, .ro, 0x0, none⟩] },
  { off := 0x11C, name := "TILE_WDOG", shape := .word, fields := [⟨19, 0, .rw, 0x2710, none⟩] },
  { off := 0x120, name := "TILE_TASK_STAT", shape := .word, fields := [⟨7, 0, .ro, 0x0, none⟩] },
  { off := 0x124, name := "TILE_STUCK", shape := .word, fields := [⟨31, 29, .ro, 0x0, none⟩, ⟨23, 18, .ro, 0x0, none⟩, ⟨14, 0, .ro, 0x0, none⟩] },
  { off := 0x128, name := "TILE_TASK_MEMB", shape := .word, fields := [⟨31, 0, .ro, 0x0, none⟩] },
  { off := 0x130, name := "TILE_CYCLE_CNT", shape := .cnt64, fields := [] },
  { off := 0x138, name := "TILE_ISSUE_CNT", shape := .cnt64, fields := [] },
  { off := 0x140, name := "TILE_SLOTWAIT_CNT", shape := .cnt, fields := [] },
  { off := 0x144, name := "TILE_XFERWAIT_CNT", shape := .cnt, fields := [] },
  { off := 0x148, name := "TILE_OPC_MISS_CNT", shape := .cnt, fields := [] },
  { off := 0x14C, name := "TILE_COMMIT_CNT", shape := .cnt, fields := [] },
  { off := 0x150, name := "TILE_DISCARD_CNT", shape := .cnt, fields := [] },
  { off := 0x154, name := "TILE_START_REJ_CNT", shape := .cnt, fields := [] }]

/-- TILE1: page type 0x11, 06_*.md R176. -/
def tile1Regs : List RegDef := [
  { off := 0x100, name := "TILE_THR_STAT", shape := .word, fields := [⟨31, 24, .ro, 0x0, none⟩, ⟨18, 16, .ro, 0x0, none⟩, ⟨15, 15, .ro, 0x0, none⟩, ⟨2, 0, .ro, 0x0, none⟩], count := 64, stride := 0x10 },
  { off := 0x104, name := "TILE_THR_PCN", shape := .word, fields := [⟨31, 0, .ro, 0x0, none⟩], count := 64, stride := 0x10 },
  { off := 0x500, name := "TILE_THR_PC", shape := .word, fields := [⟨31, 0, .rw, 0x0, none⟩] },
  { off := 0x508, name := "TILE_THR_ARG", shape := .pair, fields := [⟨63, 0, .rw, 0x0, none⟩] },
  { off := 0x510, name := "TILE_THR_START", shape := .word, fields := [⟨5, 0, .wo, 0x0, none⟩] },
  { off := 0x514, name := "TILE_THR_CLR", shape := .word, fields := [⟨5, 0, .wo, 0x0, none⟩] },
  { off := 0x520, name := "TILE_DBG_SEL", shape := .word, fields := [⟨13, 8, .rw, 0x0, none⟩, ⟨5, 0, .rw, 0x0, none⟩] },
  { off := 0x528, name := "TILE_DBG_DATA", shape := .pair, fields := [⟨63, 0, .ro, 0x0, none⟩] }]

/-- ANV: page type 0x12, 03_*.md R95. -/
def anvRegs : List RegDef := [
  { off := 0x100, name := "ANV_CTL", shape := .word, fields := [⟨0, 0, .wo, 0x0, none⟩] },
  { off := 0x104, name := "ANV_STAT", shape := .word, fields := [⟨10, 8, .ro, 0x0, none⟩, ⟨1, 1, .ro, 0x0, none⟩, ⟨0, 0, .ro, 0x0, none⟩] },
  { off := 0x108, name := "ANV_COL_MAP", shape := .word, fields := [⟨31, 0, .rws, 0x0, none⟩], count := 4, stride := 0x4 },
  { off := 0x118, name := "ANV_COL_MAP4", shape := .word, fields := [⟨7, 0, .rws, 0x0, none⟩] },
  { off := 0x120, name := "ANV_CHUNK_CNT", shape := .cnt64, fields := [] },
  { off := 0x128, name := "ANV_ROW_CNT", shape := .cnt64, fields := [] },
  { off := 0x130, name := "ANV_FEED_STALL", shape := .cnt, fields := [] },
  { off := 0x134, name := "ANV_LOAD_STALL", shape := .cnt, fields := [] },
  { off := 0x138, name := "ANV_ZSKIP_CNT", shape := .cnt, fields := [] },
  { off := 0x13C, name := "ANV_OMIT_CNT", shape := .cnt, fields := [] },
  { off := 0x140, name := "ANV_FAULT_CNT", shape := .cnt, fields := [] },
  { off := 0x180, name := "ANV_COAL_CFG", shape := .word, fields := [⟨31, 31, .rw, 0x0, none⟩, ⟨25, 16, .rw, 0x80, some (1, 512)⟩, ⟨9, 0, .rw, 0x80, some (1, 512)⟩], place := .feOnly },
  { off := 0x184, name := "ANV_COAL_WAIT", shape := .word, fields := [⟨19, 0, .rw, 0x3E8, none⟩], place := .feOnly },
  { off := 0x188, name := "ANV_COAL_GRP_CNT", shape := .cnt, fields := [], place := .feOnly },
  { off := 0x18C, name := "ANV_COAL_MEMB_CNT", shape := .cnt, fields := [], place := .feOnly },
  { off := 0x190, name := "ANV_COAL_TMO_CNT", shape := .cnt, fields := [], place := .feOnly }]

/-- SPAD: page type 0x13, 08_*.md R226. -/
def spadRegs : List RegDef := [
  { off := 0x100, name := "SPAD_CTL", shape := .word, fields := [⟨1, 1, .wo, 0x0, none⟩, ⟨0, 0, .wo, 0x0, none⟩] },
  { off := 0x104, name := "SPAD_STAT", shape := .word, fields := [⟨31, 16, .ro, 0x0, none⟩, ⟨2, 2, .ro, 0x0, none⟩, ⟨1, 1, .ro, 0x0, none⟩, ⟨0, 0, .ro, 0x0, none⟩] },
  { off := 0x108, name := "SPAD_RET_EPOCH", shape := .word, fields := [⟨31, 0, .ro, 0x0, none⟩] },
  { off := 0x110, name := "SPAD_CRC_RANGE", shape := .word, fields := [⟨31, 16, .rw, 0x0, none⟩, ⟨14, 0, .rw, 0x0, none⟩] },
  { off := 0x114, name := "SPAD_CRC_RES", shape := .word, fields := [⟨31, 0, .ro, 0x0, none⟩] },
  { off := 0x118, name := "SPAD_DBG_ADDR", shape := .word, fields := [⟨23, 3, .rw, 0x0, none⟩] },
  { off := 0x120, name := "SPAD_DBG_DATA", shape := .pair, fields := [⟨63, 0, .rw, 0x0, none⟩] },
  { off := 0x128, name := "SPAD_REPAIR_SEL", shape := .word, fields := [⟨12, 8, .rw, 0x0, none⟩, ⟨4, 0, .rw, 0x0, none⟩] },
  { off := 0x12C, name := "SPAD_REPAIR", shape := .word, fields := [⟨24, 24, .rws, 0x0, none⟩, ⟨23, 16, .rws, 0x0, none⟩, ⟨8, 8, .rws, 0x0, none⟩, ⟨7, 0, .rws, 0x0, none⟩] },
  { off := 0x140, name := "SPAD_CONFLICT_CNT", shape := .cnt, fields := [] },
  { off := 0x144, name := "SPAD_AGE_CNT", shape := .cnt, fields := [] },
  { off := 0x148, name := "SPAD_CE_CNT", shape := .cnt, fields := [] },
  { off := 0x14C, name := "SPAD_UE_CNT", shape := .cnt, fields := [] }]

/-- BLWT: page type 0x14, 09_*.md R247. -/
def blwTRegs : List RegDef := [
  { off := 0x100, name := "BLW_CTL", shape := .word, fields := [⟨0, 0, .wo, 0x0, none⟩] },
  { off := 0x104, name := "BLW_STAT", shape := .word, fields := [⟨25, 16, .ro, 0x0, none⟩, ⟨13, 8, .ro, 0x0, none⟩, ⟨6, 0, .ro, 0x0, none⟩] },
  { off := 0x110, name := "BLW_RD_BYTES", shape := .cnt64, fields := [] },
  { off := 0x118, name := "BLW_WR_BYTES", shape := .cnt64, fields := [] },
  { off := 0x120, name := "BLW_PF_CNT", shape := .cnt, fields := [] },
  { off := 0x124, name := "BLW_REFETCH_CNT", shape := .cnt, fields := [] },
  { off := 0x128, name := "BLW_FENCE_INV_CNT", shape := .cnt, fields := [] },
  { off := 0x12C, name := "BLW_RAW_HOLD_CNT", shape := .cnt, fields := [] },
  { off := 0x130, name := "BLW_WIN_WAIT", shape := .cnt, fields := [] },
  { off := 0x134, name := "BLW_DRAIN_CNT", shape := .cnt, fields := [] },
  { off := 0x138, name := "BLW_DRAIN_WAIT", shape := .cnt, fields := [] },
  { off := 0x13C, name := "BLW_ERR_CNT", shape := .cnt, fields := [] }]

/-- SRT: page type 0x15, 10_*.md R277. -/
def srtRegs : List RegDef := [
  { off := 0x100, name := "HBM_SRT_CTL", shape := .word, fields := [⟨0, 0, .wo, 0x0, none⟩] },
  { off := 0x104, name := "HBM_SRT_STAT", shape := .word, fields := [⟨24, 16, .ro, 0x0, none⟩, ⟨5, 0, .ro, 0x0, none⟩] },
  { off := 0x108, name := "HBM_SRT_WAIT", shape := .word, fields := [⟨9, 0, .rw, 0x40, none⟩] },
  { off := 0x110, name := "HBM_BANK_HOLD", shape := .cnt, fields := [] },
  { off := 0x114, name := "HBM_SRT_MERGE_CNT", shape := .cnt, fields := [] },
  { off := 0x118, name := "HBM_SRT_HIT_CNT", shape := .cnt, fields := [] }]

/-- SPK: page type 0x16, 04_*.md R121. -/
def spkRegs : List RegDef := [
  { off := 0x100, name := "SPK_CTL", shape := .word, fields := [⟨1, 1, .wo, 0x0, none⟩, ⟨0, 0, .rw, 0x0, none⟩] },
  { off := 0x104, name := "SPK_STAT", shape := .word, fields := [⟨1, 1, .ro, 0x0, none⟩, ⟨0, 0, .ro, 0x0, none⟩] },
  { off := 0x110, name := "SPK_SEED", shape := .word, fields := [⟨31, 0, .rw, 0x0, none⟩], count := 4, stride := 0x4, lock := .spkOff },
  { off := 0x120, name := "SPK_STEP", shape := .pair, fields := [⟨63, 0, .rw, 0x0, none⟩], lock := .spkOff },
  { off := 0x128, name := "SPK_SEED_CRC", shape := .word, fields := [⟨31, 0, .ro, 0x0, none⟩] },
  { off := 0x130, name := "SPK_DRAW_CNT", shape := .cnt64, fields := [] },
  { off := 0x138, name := "SPK_SR_CNT", shape := .cnt64, fields := [] },
  { off := 0x140, name := "SPK_SR_UP_CNT", shape := .cnt64, fields := [] }]

/-- QCHT: page type 0x17, 05_*.md R149. -/
def qchTRegs : List RegDef := [
  { off := 0x100, name := "QCH_TILE_CTL", shape := .word, fields := [⟨0, 0, .wo, 0x0, none⟩] },
  { off := 0x104, name := "QCH_TILE_STAT", shape := .word, fields := [⟨23, 16, .ro, 0x0, none⟩, ⟨15, 0, .ro, 0x0, none⟩] },
  { off := 0x108, name := "QCH_TILE_EVT_CNT", shape := .cnt, fields := [] }]

/-- TNGT: page type 0x18, 12_*.md R320. -/
def tngTRegs : List RegDef := [
  { off := 0x100, name := "TNG_CTL", shape := .word, fields := [⟨0, 0, .wo, 0x0, none⟩] },
  { off := 0x104, name := "TNG_STAT", shape := .word, fields := [⟨21, 16, .ro, 0x0, none⟩, ⟨5, 0, .ro, 0x0, none⟩] },
  { off := 0x108, name := "TNG_DEADLINE", shape := .word, fields := [⟨31, 0, .rw, 0xF4240, some (1000, 4294967295)⟩] },
  { off := 0x110, name := "TNG_OPS_CNT", shape := .cnt64, fields := [] },
  { off := 0x118, name := "TNG_TX_BYTES", shape := .cnt64, fields := [] },
  { off := 0x120, name := "TNG_RX_BYTES", shape := .cnt64, fields := [] },
  { off := 0x128, name := "TNG_TIMEOUT_CNT", shape := .cnt, fields := [] },
  { off := 0x12C, name := "TNG_LATE_CNT", shape := .cnt, fields := [] },
  { off := 0x130, name := "TNG_ERR_CNT", shape := .cnt, fields := [] }]

/-- HBM: page type 0x20, 10_*.md R275. -/
def hbmRegs : List RegDef := [
  { off := 0x100, name := "HBM_CTL", shape := .word, fields := [⟨1, 1, .rw, 0x1, none⟩, ⟨0, 0, .wo, 0x0, none⟩] },
  { off := 0x104, name := "HBM_STAT", shape := .word, fields := [⟨15, 15, .ro, 0x0, none⟩, ⟨13, 12, .ro, 0x0, none⟩, ⟨11, 0, .ro, 0x0, none⟩] },
  { off := 0x108, name := "HBM_RATE", shape := .word, fields := [⟨1, 0, .rws, 0x0, none⟩] },
  { off := 0x10C, name := "HBM_THERM", shape := .word, fields := [⟨23, 16, .ro, 0x0, none⟩, ⟨12, 8, .ro, 0x10, none⟩, ⟨1, 0, .ro, 0x0, none⟩] },
  { off := 0x110, name := "HBM_THERM_LIM", shape := .word, fields := [⟨15, 8, .rws, 0x5C, some (86, 94)⟩, ⟨7, 0, .rws, 0x59, none⟩] },
  { off := 0x120, name := "HBM_RD_SECT", shape := .cnt64, fields := [] },
  { off := 0x128, name := "HBM_WR_SECT", shape := .cnt64, fields := [] },
  { off := 0x130, name := "HBM_ADD_SECT", shape := .cnt64, fields := [] },
  { off := 0x138, name := "HBM_ACT_CNT", shape := .cnt64, fields := [] },
  { off := 0x140, name := "HBM_TURN_CNT", shape := .cnt, fields := [] },
  { off := 0x144, name := "HBM_REF_CNT", shape := .cnt, fields := [] },
  { off := 0x148, name := "HBM_AGE_CNT", shape := .cnt, fields := [] },
  { off := 0x14C, name := "HBM_ADMIT_HOLD", shape := .cnt, fields := [] },
  { off := 0x150, name := "HBM_CE_CNT", shape := .cnt, fields := [] },
  { off := 0x154, name := "HBM_UE_CNT", shape := .cnt, fields := [] },
  { off := 0x158, name := "HBM_THROT_MS", shape := .cnt, fields := [] },
  { off := 0x15C, name := "HBM_TRIP_CNT", shape := .cnt, fields := [] }]

/-- PHY: page type 0x21, 10_*.md R276. -/
def phyRegs : List RegDef := [
  { off := 0x100, name := "HBM_PHY_STAT", shape := .word, fields := [⟨31, 28, .ro, 0x0, none⟩, ⟨21, 16, .ro, 0x0, none⟩, ⟨7, 0, .ro, 0x0, none⟩] },
  { off := 0x104, name := "HBM_TRACK_CNT", shape := .word, fields := [⟨31, 0, .ro, 0x0, none⟩] },
  { off := 0x108, name := "HBM_TRAIN_INFO", shape := .word, fields := [⟨23, 16, .ro, 0x0, none⟩] },
  { off := 0x10C, name := "HBM_LANE_ERR_CNT", shape := .word, fields := [⟨31, 0, .ro, 0x0, none⟩] },
  { off := 0x180, name := "HBM_LANE_MAP", shape := .word, fields := [⟨29, 24, .ro, 0x3F, none⟩, ⟨21, 16, .ro, 0x3F, none⟩, ⟨14, 8, .ro, 0x7F, none⟩, ⟨6, 0, .ro, 0x7F, none⟩], count := 32, stride := 0x4 }]

/-- STH: page type 0x22, 02_*.md R55. -/
def sthRegs : List RegDef := [
  { off := 0x100, name := "STH_CTL", shape := .word, fields := [⟨2, 2, .wo, 0x0, none⟩, ⟨1, 1, .wo, 0x0, none⟩, ⟨0, 0, .rw, 0x0, none⟩], place := .low },
  { off := 0x104, name := "STH_CFG", shape := .word, fields := [⟨7, 7, .rw, 0x1, none⟩, ⟨6, 6, .rw, 0x0, none⟩, ⟨5, 4, .rw, 0x0, none⟩, ⟨3, 0, .rw, 0x4, some (1, 15)⟩], place := .low, lock := .sthOff },
  { off := 0x108, name := "STH_STAT", shape := .word, fields := [⟨31, 16, .ro, 0x0, none⟩, ⟨9, 8, .ro, 0x0, none⟩, ⟨2, 2, .ro, 0x0, none⟩, ⟨1, 1, .ro, 0x0, none⟩, ⟨0, 0, .ro, 0x0, none⟩], place := .low },
  { off := 0x110, name := "STH_SEGTAB", shape := .pair, fields := [⟨63, 0, .rw, 0x0, none⟩], place := .low },
  { off := 0x118, name := "STH_SPILL_BASE", shape := .pair, fields := [⟨63, 0, .rw, 0x0, none⟩], place := .low },
  { off := 0x120, name := "STH_SPILL_SIZE", shape := .pair, fields := [⟨63, 0, .rw, 0x0, none⟩], place := .low },
  { off := 0x128, name := "STH_SPILL_USED", shape := .pair, fields := [⟨63, 0, .ro, 0x0, none⟩], place := .low },
  { off := 0x140, name := "STH_LANE_BASE", shape := .pair, fields := [⟨63, 0, .rw, 0x0, none⟩], count := 4, stride := 0x20, place := .low },
  { off := 0x148, name := "STH_LANE_SIZE", shape := .pair, fields := [⟨63, 0, .rw, 0x0, none⟩], count := 4, stride := 0x20, place := .low },
  { off := 0x150, name := "STH_LANE_TOP", shape := .pair, fields := [⟨63, 0, .ro, 0x0, none⟩], count := 4, stride := 0x20, place := .low },
  { off := 0x158, name := "STH_LANE_BOT", shape := .pair, fields := [⟨63, 0, .ro, 0x0, none⟩], count := 4, stride := 0x20, place := .low },
  { off := 0x1C0, name := "STH_LANE_STAT", shape := .word, fields := [⟨31, 16, .ro, 0x0, none⟩, ⟨15, 0, .ro, 0x0, none⟩], count := 4, stride := 0x4, place := .low },
  { off := 0x1D0, name := "STH_FOLD_CNT", shape := .cnt, fields := [], place := .low },
  { off := 0x1D4, name := "STH_SPILL_CNT", shape := .cnt, fields := [], place := .low },
  { off := 0x1D8, name := "STH_REFILL_CNT", shape := .cnt, fields := [], place := .low },
  { off := 0x1DC, name := "STH_OVERFLOW_CNT", shape := .cnt, fields := [], place := .low },
  { off := 0x1E0, name := "STH_REFILL_WAIT", shape := .cnt, fields := [], place := .low },
  { off := 0x1E4, name := "STH_SPILL_WAIT", shape := .cnt, fields := [], place := .low },
  { off := 0x1E8, name := "STH_ORDER_CNT", shape := .cnt, fields := [], place := .low },
  { off := 0x1F0, name := "STH_LANE_PEAK", shape := .cnt, fields := [], count := 4, stride := 0x4, place := .low }]

/-- QCHP: page type 0x23, 05_*.md R150. -/
def qchPRegs : List RegDef := [
  { off := 0x100, name := "QCH_CTL", shape := .word, fields := [⟨3, 3, .wo, 0x0, none⟩, ⟨2, 2, .wo, 0x0, none⟩, ⟨1, 1, .wo, 0x0, none⟩, ⟨0, 0, .rw, 0x0, none⟩], place := .low },
  { off := 0x104, name := "QCH_CFG", shape := .word, fields := [⟨31, 16, .rw, 0x7D0, none⟩, ⟨15, 8, .rw, 0x18, none⟩, ⟨7, 0, .rw, 0xF0, none⟩], place := .low, lock := .disarmed },
  { off := 0x108, name := "QCH_STAT", shape := .word, fields := [⟨31, 24, .ro, 0x0, none⟩, ⟨8, 8, .ro, 0x0, none⟩, ⟨7, 6, .ro, 0x0, none⟩, ⟨0, 0, .ro, 0x0, none⟩], place := .low },
  { off := 0x10C, name := "QCH_LS", shape := .word, fields := [⟨23, 8, .ro, 0x0, none⟩, ⟨7, 0, .rw, 0x10, none⟩], place := .low, lock := .disarmed },
  { off := 0x110, name := "QCH_STEP", shape := .pair, fields := [⟨63, 0, .rw, 0x0, none⟩], place := .low, lock := .disarmed },
  { off := 0x118, name := "QCH_VOTE_WINDOW", shape := .word, fields := [⟨31, 0, .rw, 0x989680, some (1000, 4294967295)⟩], place := .low, lock := .disarmed },
  { off := 0x11C, name := "QCH_SELF_IDX", shape := .word, fields := [⟨11, 0, .rw, 0x0, none⟩], place := .low, lock := .disarmed },
  { off := 0x120, name := "QCH_MEMBERS", shape := .pair, fields := [⟨63, 0, .rw, 0x0, none⟩], place := .low, lock := .disarmed },
  { off := 0x128, name := "QCH_MEMBER_CNT", shape := .word, fields := [⟨11, 0, .rw, 0x0, none⟩], place := .low, lock := .disarmed },
  { off := 0x12C, name := "QCH_MEMBER_CRC", shape := .word, fields := [⟨31, 0, .ro, 0x0, none⟩], place := .low },
  { off := 0x130, name := "QCH_VOTE_AREA", shape := .pair, fields := [⟨63, 0, .rw, 0x0, none⟩], place := .low, lock := .disarmed },
  { off := 0x138, name := "QCH_SHADOW", shape := .pair, fields := [⟨63, 0, .rw, 0x0, none⟩], place := .low, lock := .disarmed },
  { off := 0x140, name := "QCH_SHADOW_CNT", shape := .word, fields := [⟨15, 0, .rw, 0x0, none⟩], place := .low, lock := .disarmed },
  { off := 0x148, name := "QCH_OUTCOME_ADDR", shape := .pair, fields := [⟨63, 0, .rw, 0x0, none⟩], place := .low, lock := .disarmed },
  { off := 0x150, name := "QCH_LAST_OUTCOME", shape := .pair, fields := [⟨63, 0, .ro, 0x0, none⟩], place := .low },
  { off := 0x160, name := "QCH_FIRST_CAUSE", shape := .word, fields := [⟨31, 16, .ro, 0x0, none⟩, ⟨7, 0, .ro, 0x0, none⟩], place := .low },
  { off := 0x164, name := "QCH_FIRST_LAYER", shape := .word, fields := [⟨15, 0, .ro, 0x0, none⟩], place := .low },
  { off := 0x168, name := "QCH_FIRST_INDEX", shape := .pair, fields := [⟨63, 0, .ro, 0x0, none⟩], place := .low },
  { off := 0x170, name := "QCH_FIRST_STAMP", shape := .pair, fields := [⟨63, 0, .ro, 0x0, none⟩], place := .low },
  { off := 0x178, name := "QCH_FIRST_STEP", shape := .pair, fields := [⟨63, 0, .ro, 0x0, none⟩], place := .low },
  { off := 0x180, name := "QCH_COMMIT_CNT", shape := .pair, fields := [⟨63, 0, .ro, 0x0, none⟩], place := .low },
  { off := 0x188, name := "QCH_SKIP_CNT", shape := .pair, fields := [⟨63, 0, .ro, 0x0, none⟩], place := .low },
  { off := 0x190, name := "QCH_MISS_CNT", shape := .cnt, fields := [], place := .low },
  { off := 0x194, name := "QCH_LATE_CNT", shape := .cnt, fields := [], place := .low },
  { off := 0x198, name := "QCH_DUP_CNT", shape := .cnt, fields := [], place := .low },
  { off := 0x19C, name := "QCH_ISO_CNT", shape := .cnt, fields := [], place := .low }]

/-- TMP: page type 0x24, 05_*.md R151. -/
def tmpRegs : List RegDef := [
  { off := 0x100, name := "TMP_CTL", shape := .word, fields := [⟨1, 1, .wo, 0x0, none⟩, ⟨0, 0, .rw, 0x0, none⟩], place := .low },
  { off := 0x104, name := "TMP_RING_CFG", shape := .word, fields := [⟨4, 0, .rw, 0xC, some (6, 24)⟩], place := .low, lock := .tmpOff },
  { off := 0x108, name := "TMP_RING_BASE", shape := .pair, fields := [⟨63, 0, .rw, 0x0, none⟩], place := .low, lock := .tmpOff },
  { off := 0x110, name := "TMP_RING_HEAD", shape := .word, fields := [⟨31, 0, .ro, 0x0, none⟩], place := .low },
  { off := 0x114, name := "TMP_WARN", shape := .word, fields := [⟨31, 0, .rw, 0x0, none⟩], place := .low },
  { off := 0x118, name := "TMP_HALT", shape := .word, fields := [⟨31, 0, .rw, 0x0, none⟩], place := .low },
  { off := 0x11C, name := "TMP_LOW", shape := .word, fields := [⟨31, 0, .rw, 0x0, none⟩], place := .low },
  { off := 0x120, name := "TMP_OPEN", shape := .word, fields := [⟨3, 0, .ro, 0x0, none⟩], place := .low },
  { off := 0x124, name := "TMP_WARN_CNT", shape := .cnt, fields := [], place := .low },
  { off := 0x128, name := "TMP_HALT_CNT", shape := .cnt, fields := [], place := .low },
  { off := 0x12C, name := "TMP_LOW_CNT", shape := .cnt, fields := [], place := .low },
  { off := 0x130, name := "TMP_RING_DROP_CNT", shape := .cnt, fields := [], place := .low }]

/-- RING: page type 0x25, 07_*.md R211. -/
def ringRegs : List RegDef := [
  { off := 0x100, name := "BLW_RING_CTL", shape := .word, fields := [⟨2, 2, .wo, 0x0, none⟩, ⟨1, 1, .wo, 0x0, none⟩, ⟨0, 0, .rw, 0x0, none⟩], count := 4, stride := 0x40, place := .low },
  { off := 0x104, name := "BLW_RING_CFG", shape := .word, fields := [⟨4, 0, .rw, 0xA, some (6, 16)⟩], count := 4, stride := 0x40, place := .low, lock := .ringOff },
  { off := 0x108, name := "BLW_RING_POLL", shape := .word, fields := [⟨23, 0, .rw, 0x3E8, some (64, 16777215)⟩], count := 4, stride := 0x40, place := .low },
  { off := 0x10C, name := "BLW_RING_STAT", shape := .word, fields := [⟨31, 24, .ro, 0x0, none⟩, ⟨23, 16, .ro, 0x0, none⟩, ⟨15, 8, .ro, 0x0, none⟩, ⟨3, 3, .ro, 0x0, none⟩, ⟨2, 2, .ro, 0x0, none⟩, ⟨1, 1, .ro, 0x0, none⟩, ⟨0, 0, .ro, 0x0, none⟩], count := 4, stride := 0x40, place := .low },
  { off := 0x110, name := "BLW_RING_BASE", shape := .pair, fields := [⟨63, 0, .rw, 0x0, none⟩], count := 4, stride := 0x40, place := .low, lock := .ringOff },
  { off := 0x118, name := "BLW_RING_TAIL_ADDR", shape := .pair, fields := [⟨63, 0, .rw, 0x0, none⟩], count := 4, stride := 0x40, place := .low, lock := .ringOff },
  { off := 0x120, name := "BLW_RING_HEAD_ADDR", shape := .pair, fields := [⟨63, 0, .rw, 0x0, none⟩], count := 4, stride := 0x40, place := .low, lock := .ringOff },
  { off := 0x128, name := "BLW_RING_HEAD", shape := .pair, fields := [⟨63, 0, .rw, 0x0, none⟩], count := 4, stride := 0x40, place := .low, lock := .ringOff },
  { off := 0x130, name := "BLW_RING_FETCH", shape := .pair, fields := [⟨63, 0, .ro, 0x0, none⟩], count := 4, stride := 0x40, place := .low },
  { off := 0x138, name := "BLW_RING_FAIL_CNT", shape := .cnt, fields := [], count := 4, stride := 0x40, place := .low },
  { off := 0x13C, name := "BLW_RING_SKIP_CNT", shape := .cnt, fields := [], count := 4, stride := 0x40, place := .low }]

/-- BLWS: page type 0x26, 09_*.md R248. -/
def blwSRegs : List RegDef := [
  { off := 0x100, name := "BLW_SPLIT", shape := .word, fields := [⟨16, 16, .rws, 0x0, none⟩, ⟨11, 8, .rws, 0x0, none⟩, ⟨7, 4, .rws, 0x0, none⟩, ⟨3, 0, .rws, 0x0, none⟩], lock := .noPart },
  { off := 0x104, name := "BLW_DRAIN_STAT", shape := .word, fields := [⟨31, 16, .ro, 0x0, none⟩, ⟨15, 15, .ro, 0x0, none⟩, ⟨8, 0, .ro, 0x0, none⟩], place := .low },
  { off := 0x108, name := "BLW_SL_CTL", shape := .word, fields := [⟨0, 0, .wo, 0x0, none⟩] },
  { off := 0x110, name := "BLW_CLS_RD", shape := .cnt64, fields := [] },
  { off := 0x118, name := "BLW_CLS_WR", shape := .cnt64, fields := [] },
  { off := 0x120, name := "BLW_CLS_RM", shape := .cnt64, fields := [] },
  { off := 0x128, name := "BLW_CAP_RD", shape := .cnt, fields := [] },
  { off := 0x12C, name := "BLW_CAP_WR", shape := .cnt, fields := [] },
  { off := 0x130, name := "BLW_CAP_RM", shape := .cnt, fields := [] },
  { off := 0x134, name := "BLW_WATCH_PEAK", shape := .word, fields := [⟨15, 0, .ro, 0x0, none⟩] },
  { off := 0x138, name := "BLW_WATCH_FULL_CNT", shape := .cnt, fields := [] }]

/-- TIER: page type 0x27, 11_*.md R298. -/
def tierRegs : List RegDef := [
  { off := 0x100, name := "TIER_CTL", shape := .word, fields := [⟨0, 0, .wo, 0x0, none⟩], place := .low },
  { off := 0x104, name := "TIER_CFG", shape := .word, fields := [⟨1, 1, .rws, 0x0, none⟩, ⟨0, 0, .rws, 0x0, none⟩], place := .low },
  { off := 0x108, name := "TIER_RANGE", shape := .word, fields := [⟨26, 0, .rws, 0x0, none⟩], place := .low },
  { off := 0x110, name := "TIER_MAP", shape := .pair, fields := [⟨63, 0, .ro, 0x0, none⟩], place := .low },
  { off := 0x118, name := "TIER_HOST_MIN", shape := .word, fields := [⟨17, 0, .rws, 0x0, none⟩], place := .low },
  { off := 0x11C, name := "TIER_FLASH_MIN", shape := .word, fields := [⟨24, 0, .rws, 0x0, none⟩], place := .low },
  { off := 0x120, name := "TIER_CMD_PAGE", shape := .pair, fields := [⟨63, 0, .rw, 0x0, none⟩], place := .low },
  { off := 0x128, name := "TIER_CMD_CNT", shape := .word, fields := [⟨26, 0, .rw, 0x0, none⟩], place := .low },
  { off := 0x12C, name := "TIER_CMD", shape := .word, fields := [⟨31, 31, .wo, 0x0, none⟩, ⟨12, 12, .rw, 0x0, none⟩, ⟨11, 9, .rw, 0x0, none⟩, ⟨7, 6, .rw, 0x0, none⟩, ⟨3, 0, .rw, 0x0, none⟩], place := .low },
  { off := 0x130, name := "TIER_CMD_STAT", shape := .word, fields := [⟨8, 8, .ro, 0x0, none⟩, ⟨7, 0, .ro, 0x0, none⟩], place := .low },
  { off := 0x134, name := "TIER_CMD_DONE", shape := .word, fields := [⟨31, 0, .ro, 0x0, none⟩], place := .low },
  { off := 0x140, name := "TIER_PAGES_HBM", shape := .word, fields := [⟨31, 0, .ro, 0x0, none⟩], place := .low },
  { off := 0x144, name := "TIER_PAGES_HOST", shape := .word, fields := [⟨31, 0, .ro, 0x0, none⟩], place := .low },
  { off := 0x148, name := "TIER_PAGES_FLASH", shape := .word, fields := [⟨31, 0, .ro, 0x0, none⟩], place := .low },
  { off := 0x150, name := "TIER_MIG_CNT", shape := .cnt, fields := [], place := .low },
  { off := 0x154, name := "TIER_EVICT_CNT", shape := .cnt, fields := [], place := .low },
  { off := 0x158, name := "TIER_PROMOTE_CNT", shape := .cnt, fields := [], place := .low },
  { off := 0x15C, name := "TIER_HOLD_WAIT", shape := .cnt, fields := [], place := .low },
  { off := 0x160, name := "TIER_XLAT_MISS_CNT", shape := .cnt, fields := [], place := .low },
  { off := 0x164, name := "TIER_FULL_CNT", shape := .cnt, fields := [], place := .low }]

/-- TNGS: page type 0x28, 12_*.md R321. -/
def tngSRegs : List RegDef := [
  { off := 0x100, name := "TNG_SL_CTL", shape := .word, fields := [⟨0, 0, .wo, 0x0, none⟩], place := .low },
  { off := 0x104, name := "TNG_CFG", shape := .word, fields := [⟨0, 0, .rw, 0x1, none⟩], place := .low, lock := .disarmed },
  { off := 0x108, name := "TNG_JOB", shape := .word, fields := [⟨31, 0, .rws, 0x0, none⟩], place := .low },
  { off := 0x10C, name := "TNG_SELF_MOD", shape := .word, fields := [⟨31, 0, .rws, 0xFFFFFFFF, none⟩], place := .low },
  { off := 0x110, name := "TNG_IN_REFUSE_CNT", shape := .cnt, fields := [], place := .low },
  { off := 0x114, name := "TNG_IN_STALE_CNT", shape := .cnt, fields := [], place := .low },
  { off := 0x118, name := "TNG_IN_VOTE_CNT", shape := .cnt, fields := [], place := .low }]

/-- SEQ: page type 0x29, 14_*.md R371. -/
def seqRegs : List RegDef := [
  { off := 0x100, name := "SEQ_CTL", shape := .word, fields := [⟨2, 2, .wo, 0x0, none⟩, ⟨1, 1, .wo, 0x0, none⟩, ⟨0, 0, .rw, 0x0, none⟩], place := .seq },
  { off := 0x104, name := "SEQ_CFG", shape := .word, fields := [⟨23, 16, .rw, 0x1, none⟩, ⟨15, 12, .rw, 0x0, none⟩, ⟨0, 0, .rw, 0x0, none⟩], place := .seq, lock := .seqOff },
  { off := 0x108, name := "SEQ_STAT", shape := .word, fields := [⟨31, 31, .ro, 0x0, none⟩, ⟨28, 16, .ro, 0x0, none⟩, ⟨12, 0, .ro, 0x0, none⟩], place := .seq },
  { off := 0x10C, name := "SEQ_MAX_GROUPS", shape := .word, fields := [⟨15, 0, .rw, 0x1, none⟩], place := .seq, lock := .seqOff },
  { off := 0x110, name := "SEQ_TAB", shape := .pair, fields := [⟨63, 0, .rw, 0x0, none⟩], place := .seq, lock := .seqOff },
  { off := 0x118, name := "SEQ_PLIST_BASE", shape := .pair, fields := [⟨63, 0, .rw, 0x0, none⟩], place := .seq, lock := .seqOff },
  { off := 0x120, name := "SEQ_KV_FIRST", shape := .word, fields := [⟨26, 0, .rw, 0x0, none⟩], place := .seq, lock := .seqOff },
  { off := 0x124, name := "SEQ_KV_PAGES", shape := .word, fields := [⟨26, 0, .rw, 0x0, none⟩], place := .seq, lock := .seqOff },
  { off := 0x128, name := "SEQ_REQ_BASE", shape := .pair, fields := [⟨63, 0, .rw, 0x0, none⟩], place := .seq, lock := .seqOff },
  { off := 0x130, name := "SEQ_REQ_CFG", shape := .word, fields := [⟨4, 0, .rw, 0xC, some (6, 16)⟩], place := .seq, lock := .seqOff },
  { off := 0x138, name := "SEQ_REQ_TAIL_ADDR", shape := .pair, fields := [⟨63, 0, .rw, 0x0, none⟩], place := .seq, lock := .seqOff },
  { off := 0x140, name := "SEQ_REQ_HEAD", shape := .pair, fields := [⟨63, 0, .rw, 0x0, none⟩], place := .seq, lock := .seqOff },
  { off := 0x148, name := "SEQ_BUILD_ADDR", shape := .pair, fields := [⟨63, 0, .rw, 0x0, none⟩], place := .seq, lock := .seqOff },
  { off := 0x150, name := "SEQ_DONE_ADDR", shape := .pair, fields := [⟨63, 0, .rw, 0x0, none⟩], place := .seq, lock := .seqOff },
  { off := 0x158, name := "SEQ_WL_BASE", shape := .pair, fields := [⟨63, 0, .rw, 0x0, none⟩], place := .seq, lock := .seqOff },
  { off := 0x160, name := "SEQ_SUSP_BASE", shape := .pair, fields := [⟨63, 0, .rw, 0x0, none⟩], place := .seq, lock := .seqOff },
  { off := 0x168, name := "SEQ_SUSP_GROUPS", shape := .word, fields := [⟨15, 0, .rw, 0x0, none⟩], place := .seq, lock := .seqOff },
  { off := 0x16C, name := "SEQ_SUSP_FREE", shape := .word, fields := [⟨15, 0, .ro, 0x0, none⟩], place := .seq },
  { off := 0x170, name := "SEQ_STEP", shape := .pair, fields := [⟨63, 0, .ro, 0x0, none⟩], place := .seq },
  { off := 0x180, name := "SEQ_JOIN_CNT", shape := .cnt, fields := [], place := .seq },
  { off := 0x184, name := "SEQ_LEAVE_CNT", shape := .cnt, fields := [], place := .seq },
  { off := 0x188, name := "SEQ_DEFER_CNT", shape := .cnt, fields := [], place := .seq },
  { off := 0x18C, name := "SEQ_EVICT_CNT", shape := .cnt, fields := [], place := .seq },
  { off := 0x190, name := "SEQ_SUSP_CNT", shape := .cnt, fields := [], place := .seq },
  { off := 0x194, name := "SEQ_HELD_CNT", shape := .cnt, fields := [], place := .seq },
  { off := 0x198, name := "SEQ_BUILD_REJ_CNT", shape := .cnt, fields := [], place := .seq },
  { off := 0x19C, name := "SEQ_BAD_REQ_CNT", shape := .cnt, fields := [], place := .seq }]

/-- BLT: page type 0x2A, 15_*.md R394. -/
def bltRegs : List RegDef := [
  { off := 0x100, name := "BLT_CTL", shape := .word, fields := [⟨7, 7, .wo, 0x0, none⟩, ⟨6, 6, .wo, 0x0, none⟩, ⟨5, 5, .wo, 0x0, none⟩, ⟨4, 3, .rw, 0x0, none⟩, ⟨2, 2, .wo, 0x0, none⟩, ⟨1, 1, .rw, 0x0, none⟩, ⟨0, 0, .rw, 0x0, none⟩], place := .low },
  { off := 0x104, name := "BLT_STAT", shape := .word, fields := [⟨31, 24, .ro, 0x0, none⟩, ⟨9, 9, .ro, 0x0, none⟩, ⟨8, 8, .ro, 0x0, none⟩, ⟨3, 0, .ro, 0x0, none⟩], place := .low },
  { off := 0x108, name := "BLT_CFG", shape := .word, fields := [⟨23, 16, .rw, 0x8, none⟩], place := .low, lock := .bltOff },
  { off := 0x110, name := "BLT_TAB", shape := .pair, fields := [⟨63, 0, .rw, 0x0, none⟩], place := .low, lock := .bltOff },
  { off := 0x118, name := "BLT_TAB_CNT", shape := .word, fields := [⟨9, 0, .rw, 0x0, none⟩], place := .low, lock := .bltOff },
  { off := 0x120, name := "BLT_REGION", shape := .pair, fields := [⟨63, 0, .rw, 0x0, none⟩], place := .low, lock := .bltOff },
  { off := 0x128, name := "BLT_REGION_PAGES", shape := .word, fields := [⟨26, 0, .rw, 0x0, none⟩], place := .low, lock := .bltOff },
  { off := 0x12C, name := "BLT_STRIPE_PAGES", shape := .word, fields := [⟨26, 0, .rw, 0x0, none⟩], place := .low, lock := .bltOff },
  { off := 0x130, name := "BLT_MIRROR_PAGES", shape := .word, fields := [⟨26, 0, .rw, 0x0, none⟩], place := .low, lock := .bltOff },
  { off := 0x134, name := "BLT_GEN_PAGES", shape := .word, fields := [⟨31, 0, .ro, 0x0, none⟩], place := .low },
  { off := 0x138, name := "BLT_DUE_STEP", shape := .pair, fields := [⟨63, 0, .rw, 0x0, none⟩], place := .low, lock := .bltUnarmed },
  { off := 0x140, name := "BLT_SEAL_ADDR", shape := .pair, fields := [⟨63, 0, .rw, 0x0, none⟩], place := .low, lock := .bltOff },
  { off := 0x148, name := "BLT_LAST", shape := .pair, fields := [⟨63, 0, .ro, 0x0, none⟩], place := .low },
  { off := 0x150, name := "BLT_LAST_STEP", shape := .pair, fields := [⟨63, 0, .ro, 0x0, none⟩], place := .low },
  { off := 0x158, name := "BLT_TRICKLE_OFS", shape := .word, fields := [⟨26, 0, .rw, 0x0, none⟩], place := .low, lock := .bltOff },
  { off := 0x15C, name := "BLT_DEADLINE", shape := .word, fields := [⟨19, 0, .rw, 0xEA60, none⟩], place := .low },
  { off := 0x160, name := "BLT_RST_BILLET", shape := .pair, fields := [⟨63, 0, .rw, 0x0, none⟩], place := .low },
  { off := 0x168, name := "BLT_DIG_ADDR", shape := .pair, fields := [⟨63, 0, .rw, 0x0, none⟩], place := .low },
  { off := 0x170, name := "BLT_DIG_PAGES", shape := .word, fields := [⟨26, 0, .rw, 0x0, none⟩], place := .low },
  { off := 0x180, name := "BLT_DIG", shape := .word, fields := [⟨31, 0, .ro, 0x0, none⟩], count := 8, stride := 0x4, place := .low },
  { off := 0x1A0, name := "BLT_LAST_US", shape := .word, fields := [⟨31, 0, .ro, 0x0, none⟩], place := .low },
  { off := 0x1A4, name := "BLT_IMAGE_CNT", shape := .word, fields := [⟨31, 0, .ro, 0x0, none⟩], place := .low },
  { off := 0x1A8, name := "BLT_COMMIT_WAIT", shape := .cnt, fields := [], place := .low },
  { off := 0x1AC, name := "BLT_ABORT_CNT", shape := .cnt, fields := [], place := .low },
  { off := 0x1B0, name := "BLT_VERIFY_FAIL_CNT", shape := .cnt, fields := [], place := .low },
  { off := 0x1B4, name := "BLT_TRICKLE_ABANDON_CNT", shape := .cnt, fields := [], place := .low }]

/-- LNK: page type 0x30, 13_*.md R347. -/
def lnkRegs : List RegDef := [
  { off := 0x100, name := "LNK_CTL", shape := .word, fields := [⟨2, 2, .wo, 0x0, none⟩, ⟨1, 1, .wo, 0x0, none⟩, ⟨0, 0, .rw, 0x1, none⟩] },
  { off := 0x104, name := "LNK_STAT", shape := .word, fields := [⟨31, 28, .ro, 0x0, none⟩, ⟨23, 20, .ro, 0xF, none⟩, ⟨19, 16, .ro, 0xF, none⟩, ⟨15, 8, .ro, 0x0, none⟩, ⟨0, 0, .ro, 0x0, none⟩] },
  { off := 0x108, name := "LNK_DIR", shape := .word, fields := [⟨2, 0, .rws, 0x7, none⟩] },
  { off := 0x10C, name := "LNK_LANE_THR", shape := .word, fields := [⟨23, 0, .rw, 0x2000, none⟩] },
  { off := 0x110, name := "LNK_PEER_MOD", shape := .word, fields := [⟨31, 0, .ro, 0x0, none⟩] },
  { off := 0x114, name := "LNK_PEER_PORT", shape := .word, fields := [⟨3, 0, .ro, 0x0, none⟩] },
  { off := 0x118, name := "LNK_FT_DELAY", shape := .word, fields := [⟨31, 0, .ro, 0x0, none⟩] },
  { off := 0x120, name := "LNK_TX_FLIT", shape := .cnt64, fields := [] },
  { off := 0x128, name := "LNK_RX_FLIT", shape := .cnt64, fields := [] },
  { off := 0x130, name := "LNK_FEC_CORR", shape := .cnt64, fields := [] },
  { off := 0x138, name := "LNK_FEC_UNC_CNT", shape := .cnt, fields := [] },
  { off := 0x13C, name := "LNK_CRC_CNT", shape := .cnt, fields := [] },
  { off := 0x140, name := "LNK_RETRY_CNT", shape := .cnt, fields := [] },
  { off := 0x144, name := "LNK_SWAP_CNT", shape := .cnt, fields := [] },
  { off := 0x148, name := "LNK_DROP_CNT", shape := .cnt, fields := [] },
  { off := 0x14C, name := "LNK_DOWN_CNT", shape := .cnt, fields := [] },
  { off := 0x150, name := "LNK_REFUSE_CNT", shape := .cnt, fields := [] },
  { off := 0x180, name := "LNK_LANE_SERR", shape := .word, fields := [⟨23, 0, .ro, 0x0, none⟩], count := 9, stride := 0x4 }]

/-- RT: page type 0x31, 13_*.md R348. -/
def rtRegs : List RegDef := [
  { off := 0x100, name := "LNK_RT_CFG", shape := .word, fields := [⟨1, 0, .rws, 0x0, none⟩] },
  { off := 0x104, name := "LNK_RT_DIM", shape := .word, fields := [⟨23, 16, .rws, 0x1, none⟩, ⟨15, 8, .rws, 0x1, none⟩, ⟨7, 0, .rws, 0x1, none⟩] },
  { off := 0x108, name := "LNK_RT_LIFE", shape := .word, fields := [⟨15, 0, .rw, 0x32, none⟩] },
  { off := 0x10C, name := "LNK_RT_HOLD", shape := .word, fields := [⟨15, 0, .rw, 0x64, none⟩] },
  { off := 0x110, name := "LNK_RT_IDX", shape := .word, fields := [⟨11, 0, .rw, 0x0, none⟩] },
  { off := 0x114, name := "LNK_RT_DATA", shape := .word, fields := [⟨31, 31, .rws, 0x0, none⟩, ⟨16, 16, .rws, 0x0, none⟩, ⟨15, 0, .rws, 0x0, none⟩] },
  { off := 0x118, name := "LNK_RT_CRC", shape := .word, fields := [⟨31, 0, .ro, 0x0, none⟩] },
  { off := 0x11C, name := "LNK_RT_NOROUTE_CNT", shape := .cnt, fields := [] }]

/-- UCI: page type 0x32, 19_*.md R480. -/
def uciRegs : List RegDef := [
  { off := 0x100, name := "UCI_CTL", shape := .word, fields := [⟨0, 0, .wo, 0x0, none⟩] },
  { off := 0x104, name := "UCI_STAT", shape := .word, fields := [⟨31, 28, .ro, 0x0, none⟩, ⟨27, 24, .ro, 0x0, none⟩, ⟨23, 16, .ro, 0x0, none⟩, ⟨15, 8, .ro, 0x0, none⟩] },
  { off := 0x108, name := "UCI_TX_FLIT", shape := .cnt64, fields := [] },
  { off := 0x110, name := "UCI_CRC_CNT", shape := .cnt, fields := [] },
  { off := 0x114, name := "UCI_RETRY_CNT", shape := .cnt, fields := [] }]

/-- NOC: page type 0x33, 19_*.md R481. -/
def nocRegs : List RegDef := [
  { off := 0x100, name := "NOC_CTL", shape := .word, fields := [⟨0, 0, .wo, 0x0, none⟩] },
  { off := 0x108, name := "NOC_MSI_ADDR", shape := .pair, fields := [⟨63, 0, .rw, 0x0, none⟩] },
  { off := 0x110, name := "NOC_MSI_DATA", shape := .word, fields := [⟨31, 0, .rw, 0x0, none⟩] },
  { off := 0x140, name := "NOC_IRQ_SUM", shape := .word, fields := [⟨31, 0, .ro, 0x0, none⟩], count := 4, stride := 0x4 },
  { off := 0x150, name := "NOC_ROUTE_ERR_CNT", shape := .cnt, fields := [] },
  { off := 0x200, name := "NOC_ROUTE", shape := .word, fields := [⟨31, 31, .rws, 0x1, none⟩, ⟨6, 0, .rws, 0x0, none⟩], count := 64, stride := 0x4 }]

/-- HRTD: page type 0x34, 16_*.md R420. -/
def hrtDRegs : List RegDef := [
  { off := 0x100, name := "HRT_D_CTL", shape := .word, fields := [⟨0, 0, .wo, 0x0, none⟩] },
  { off := 0x104, name := "HRT_D_STAT", shape := .word, fields := [⟨31, 28, .ro, 0x8, none⟩, ⟨27, 24, .ro, 0xA, none⟩, ⟨23, 20, .ro, 0xA, none⟩, ⟨19, 15, .ro, 0x10, none⟩, ⟨14, 10, .ro, 0x10, none⟩, ⟨7, 0, .ro, 0x0, none⟩] },
  { off := 0x108, name := "HRT_D_VOLT", shape := .word, fields := [⟨15, 0, .ro, 0x0, none⟩] },
  { off := 0x10C, name := "HRT_D_TRIM", shape := .word, fields := [⟨5, 0, .ro, 0x0, none⟩] },
  { off := 0x110, name := "HRT_D_DROOP_THR", shape := .word, fields := [⟨7, 0, .rws, 0x28, none⟩] },
  { off := 0x120, name := "HRT_D_DROOP_CNT", shape := .cnt, fields := [] },
  { off := 0x124, name := "HRT_D_STRETCH_CYC", shape := .cnt, fields := [] },
  { off := 0x128, name := "HRT_D_HINT_CNT", shape := .cnt, fields := [] },
  { off := 0x12C, name := "HRT_D_HINT_LATE", shape := .cnt, fields := [] },
  { off := 0x130, name := "HRT_D_HINT_MISS", shape := .cnt, fields := [] },
  { off := 0x134, name := "HRT_D_HINT_DENIED", shape := .cnt, fields := [] },
  { off := 0x180, name := "HRT_D_TILE", shape := .word, fields := [⟨31, 16, .ro, 0x0, none⟩, ⟨7, 0, .ro, 0x0, none⟩], count := 72, stride := 0x4 }]

/-- The registers above the header of a page of each type. -/
def PageKind.regs : PageKind → List RegDef
  | .sp0 => sp0Regs
  | .spBoot => spBootRegs
  | .spPart => spPartRegs
  | .spCal => spCalRegs
  | .spIrq => spIrqRegs
  | .hrt => hrtRegs
  | .ftl0 => ftl0Regs
  | .ftl1 => ftl1Regs
  | .cln => clnRegs
  | .att => attRegs
  | .ftm => ftmRegs
  | .mgt => mgtRegs
  | .tile0 => tile0Regs
  | .tile1 => tile1Regs
  | .anv => anvRegs
  | .spad => spadRegs
  | .blwT => blwTRegs
  | .srt => srtRegs
  | .spk => spkRegs
  | .qchT => qchTRegs
  | .tngT => tngTRegs
  | .hbm => hbmRegs
  | .phy => phyRegs
  | .sth => sthRegs
  | .qchP => qchPRegs
  | .tmp => tmpRegs
  | .ring => ringRegs
  | .blwS => blwSRegs
  | .tier => tierRegs
  | .tngS => tngSRegs
  | .seq => seqRegs
  | .blt => bltRegs
  | .lnk => lnkRegs
  | .rt => rtRegs
  | .uci => uciRegs
  | .noc => nocRegs
  | .hrtD => hrtDRegs

/-- The page type code of R479. -/
def PageKind.code : PageKind → Nat
  | .sp0 => 0x01
  | .spBoot => 0x02
  | .spPart => 0x03
  | .spCal => 0x04
  | .spIrq => 0x05
  | .hrt => 0x06
  | .ftl0 => 0x07
  | .ftl1 => 0x08
  | .cln => 0x09
  | .att => 0x0A
  | .ftm => 0x0B
  | .mgt => 0x0C
  | .tile0 => 0x10
  | .tile1 => 0x11
  | .anv => 0x12
  | .spad => 0x13
  | .blwT => 0x14
  | .srt => 0x15
  | .spk => 0x16
  | .qchT => 0x17
  | .tngT => 0x18
  | .hbm => 0x20
  | .phy => 0x21
  | .sth => 0x22
  | .qchP => 0x23
  | .tmp => 0x24
  | .ring => 0x25
  | .blwS => 0x26
  | .tier => 0x27
  | .tngS => 0x28
  | .seq => 0x29
  | .blt => 0x2A
  | .lnk => 0x30
  | .rt => 0x31
  | .uci => 0x32
  | .noc => 0x33
  | .hrtD => 0x34

/-- The bits of BLK_INT_STAT that the page names; the others are RSV (R472). -/
def PageKind.intMask : PageKind → Nat
  | .sp0 => 0x1F
  | .spBoot => 0x7
  | .spPart => 0x3
  | .spCal => 0x7
  | .spIrq => 0x0
  | .hrt => 0xFF
  | .ftl0 => 0x7
  | .ftl1 => 0x0
  | .cln => 0x3
  | .att => 0x3
  | .ftm => 0x1F
  | .mgt => 0x1
  | .tile0 => 0x7F
  | .tile1 => 0x0
  | .anv => 0x7
  | .spad => 0x7
  | .blwT => 0x1
  | .srt => 0x1
  | .spk => 0x1
  | .qchT => 0x1
  | .tngT => 0x7
  | .hbm => 0x1F
  | .phy => 0x3
  | .sth => 0x3F
  | .qchP => 0x7F
  | .tmp => 0xF
  | .ring => 0x1F
  | .blwS => 0x3
  | .tier => 0x7
  | .tngS => 0x7
  | .seq => 0x3F
  | .blt => 0x3F
  | .lnk => 0x3F
  | .rt => 0x1
  | .uci => 0x7
  | .noc => 0x1
  | .hrtD => 0xF

/-- The bits of BLK_SPARE_MAP that hold a spare map, and their reset value; RSV on pages with no spares (R472). -/
def PageKind.spare : PageKind → Nat × Nat
  | .anv => (0x3F3F3F3F, 0x20202020)
  | .spad => (0xFFFFFFFF, 0x0)
  | .hbm => (0xFFFFFFFF, 0x0)
  | .lnk => (0xFF, 0xFF)
  | .uci => (0xFF, 0x0)
  | .sp0 => (0, 0)
  | .spBoot => (0, 0)
  | .spPart => (0, 0)
  | .spCal => (0, 0)
  | .spIrq => (0, 0)
  | .hrt => (0, 0)
  | .ftl0 => (0, 0)
  | .ftl1 => (0, 0)
  | .cln => (0, 0)
  | .att => (0, 0)
  | .ftm => (0, 0)
  | .mgt => (0, 0)
  | .tile0 => (0, 0)
  | .tile1 => (0, 0)
  | .blwT => (0, 0)
  | .srt => (0, 0)
  | .spk => (0, 0)
  | .qchT => (0, 0)
  | .tngT => (0, 0)
  | .phy => (0, 0)
  | .sth => (0, 0)
  | .qchP => (0, 0)
  | .tmp => (0, 0)
  | .ring => (0, 0)
  | .blwS => (0, 0)
  | .tier => (0, 0)
  | .tngS => (0, 0)
  | .seq => (0, 0)
  | .blt => (0, 0)
  | .rt => (0, 0)
  | .noc => (0, 0)
  | .hrtD => (0, 0)

/-- BLK_CAP, where the block defines it (R472). -/
def PageKind.cap : PageKind → Nat
  | .sp0 => 0x0
  | .spBoot => 0x0
  | .spPart => 0x0
  | .spCal => 0x0
  | .spIrq => 0x0
  | .hrt => 0x0
  | .ftl0 => 0x0
  | .ftl1 => 0x0
  | .cln => 0x0
  | .att => 0x0
  | .ftm => 0x0
  | .mgt => 0x0
  | .tile0 => 0x0
  | .tile1 => 0x0
  | .anv => 0x0
  | .spad => 0x0
  | .blwT => 0x0
  | .srt => 0x0
  | .spk => 0x1
  | .qchT => 0x0
  | .tngT => 0x0
  | .hbm => 0x0
  | .phy => 0x0
  | .sth => 0x0
  | .qchP => 0x0
  | .tmp => 0x0
  | .ring => 0x0
  | .blwS => 0x0
  | .tier => 0x0
  | .tngS => 0x0
  | .seq => 0x0
  | .blt => 0x0
  | .lnk => 0x901
  | .rt => 0x0
  | .uci => 0x0
  | .noc => 0x0
  | .hrtD => 0x0

/-- The fault-injection sites of the page (18_safety_security_clinker.md R458); none on a page with no site. -/
def PageKind.sites : PageKind → List Nat
  | .sp0 => []
  | .spBoot => []
  | .spPart => []
  | .spCal => []
  | .spIrq => []
  | .hrt => [6]
  | .ftl0 => []
  | .ftl1 => []
  | .cln => []
  | .att => []
  | .ftm => []
  | .mgt => []
  | .tile0 => []
  | .tile1 => []
  | .anv => [3]
  | .spad => [1, 2]
  | .blwT => [4]
  | .srt => []
  | .spk => []
  | .qchT => []
  | .tngT => [4]
  | .hbm => [1, 2]
  | .phy => []
  | .sth => []
  | .qchP => []
  | .tmp => []
  | .ring => []
  | .blwS => []
  | .tier => []
  | .tngS => []
  | .seq => []
  | .blt => []
  | .lnk => [5]
  | .rt => []
  | .uci => []
  | .noc => []
  | .hrtD => [7]

end Sys2Proof.Machine
end

