-- ==== Sys2Proof/Machine/Store.lean ====
section
/-!
DEFINITION. Sparse maps from naturals: the one form in which State holds every memory, register file and table. The form is
canonical: keys strictly rise and no pair holds what an unlisted key reads as, so that equal contents are equal data.
-/
namespace Sys2Proof.Machine

variable {α : Type}

/-- What key k holds: its pair's value, or what an unlisted key reads as. -/
def cGet (d : Nat → α) : Cells α → Nat → α
  | [], k => d k
  | (k', v) :: m, k => if k' = k then v else cGet d m k

/-- The map without key k. -/
def cDel (m : Cells α) (k : Nat) : Cells α :=
  m.filter (fun p => decide (p.1 ≠ k))

/-- Insert a pair at its place. -/
def cIns : Cells α → Nat → α → Cells α
  | [], k, v => [(k, v)]
  | (k', v') :: m, k, v => if k < k' then (k, v) :: (k', v') :: m else (k', v') :: cIns m k v

/-- Write key k: the pair is listed only when it differs from what an unlisted key reads as. -/
def cSet [DecidableEq α] (d : Nat → α) (m : Cells α) (k : Nat) (v : α) : Cells α :=
  if v = d k then cDel m k else cIns (cDel m k) k v

/-- Drop every key that p names: those keys read as unlisted again. -/
def cDrop (m : Cells α) (p : Nat → Bool) : Cells α :=
  m.filter (fun q => ! p q.1)

/-- The keys rise strictly. -/
def cSorted : Cells α → Bool
  | [] => true
  | [_] => true
  | (k, _) :: (k', v') :: m => decide (k < k') && cSorted ((k', v') :: m)

/-- The canonical form. -/
def cWf [DecidableEq α] (d : Nat → α) (m : Cells α) : Bool :=
  cSorted m && m.all (fun p => decide (p.2 ≠ d p.1))

/-- Write consecutive keys. -/
def cSetList [DecidableEq α] (d : Nat → α) (m : Cells α) (k : Nat) : List α → Cells α
  | [] => m
  | v :: vs => cSetList d (cSet d m k v) (k + 1) vs

/-- Read n consecutive keys. -/
def cGetList (d : Nat → α) (m : Cells α) (k : Nat) : Nat → List α
  | 0 => []
  | n + 1 => cGet d m k :: cGetList d m (k + 1) n

end Sys2Proof.Machine
end

