-- ==== Sys2Proof/Machine/Pages.lean ====
section
/-!
DEFINITION. The register window (19_register_map.md R470 to R473, R479): where each page lies, and what each register reads as
before anything has written it.
-/
namespace Sys2Proof.Machine

/-- A page of the window: its type, the die (15 for SD), its INDEX in the die, and its window offset (R473, R479). -/
structure PageRef where
  kind : PageKind
  die  : Nat
  idx  : Nat
  base : Nat
deriving DecidableEq, Repr

/-- The SD pages of R479, by page number. -/
def sdPage : Nat → Option PageKind
  | 0x000 => some .sp0
  | 0x001 => some .spBoot
  | 0x002 => some .spPart
  | 0x003 => some .spCal
  | 0x004 => some .spIrq
  | 0x100 => some .hrt
  | 0x200 => some .ftl0
  | 0x201 => some .ftl1
  | 0x300 => some .cln
  | 0x400 => some .att
  | 0x500 => some .ftm
  | 0x600 => some .mgt
  | _ => none

/-- The pages of a tile (R479): page number in the tile, with the INDEX of its instance. -/
def tilePageKind (t : Nat) : Nat → Option (PageKind × Nat)
  | 0 => some (.tile0, t)
  | 1 => some (.tile1, t)
  | 2 => some (.anv, 4 * t)
  | 3 => some (.anv, 4 * t + 1)
  | 4 => some (.anv, 4 * t + 2)
  | 5 => some (.spad, t)
  | 6 => some (.blwT, t)
  | 7 => some (.srt, t)
  | 8 => some (.spk, t)
  | 9 => some (.qchT, t)
  | 10 => some (.tngT, t)
  | _ => none

/-- The pages of HBM controller k; those other than 0 and 6 are the per-slice pages, on controllers 0 and 4 (R471). -/
def ctlPageKind (k n : Nat) : Option (PageKind × Nat) :=
  if n = 0 then some (.hbm, k)
  else if n = 6 then some (.phy, k)
  else if k % 4 ≠ 0 then none
  else match n with
    | 1 => some (.sth, k / 4)
    | 2 => some (.qchP, k / 4)
    | 3 => some (.tmp, k / 4)
    | 4 => some (.ring, k / 4)
    | 5 => some (.blwS, k / 4)
    | 7 => some (.tier, k / 4)
    | 8 => some (.tngS, k / 4)
    | 9 => some (.seq, k / 4)
    | 10 => some (.blt, k / 4)
    | _ => none

/-- The page of a compute die at a page number within the die (R471, R479). -/
def diePage (r : Nat) : Option (PageKind × Nat) :=
  if r < 0x480 then tilePageKind (r / 16) (r % 16)
  else if 0x800 ≤ r ∧ r < 0x880 then ctlPageKind ((r - 0x800) / 16) (r % 16)
  else if 0x900 ≤ r ∧ r < 0x940 then (if r % 16 = 0 then some (.lnk, (r - 0x900) / 16) else none)
  else if r = 0x940 then some (.rt, 0)
  else if 0xA00 ≤ r ∧ r < 0xA04 then some (.uci, r - 0xA00)
  else if r = 0xB00 then some (.noc, 0)
  else if r = 0xC00 then some (.hrtD, 0)
  else none

/-- The page that holds a window offset; none in a reserved page or range (R470, R471, R476). -/
def pageAt (off : Nat) : Option PageRef :=
  let pg := off / 4096
  let reg := pg / 4096
  if reg = 0 then (sdPage pg).map (fun k => ⟨k, 15, 0, pg * 4096⟩)
  else if reg ≤ 4 then (diePage (pg % 4096)).map (fun p => ⟨p.1, reg - 1, p.2, pg * 4096⟩)
  else none

/-- The window offset of page n of physical tile t, 0 to 287 (R470, R471). -/
def tilePg (t n : Nat) : Nat := 0x01000000 + (t / 72) * 0x01000000 + (t % 72) * 0x10000 + n * 0x1000

/-- The window offset of the page of anvil a of tile t: 0 FE, 1 BA, 2 BB. -/
def anvPg (t a : Nat) : Nat := tilePg t (2 + a)

/-- The window offset of page n of HBM controller c, 0 to 31. -/
def ctlPg (c n : Nat) : Nat := 0x01000000 + (c / 8) * 0x01000000 + 0x00800000 + (c % 8) * 0x10000 + n * 0x1000

/-- The window offset of per-slice page n of slice s, 0 to 7 (R471). -/
def slPg (s n : Nat) : Nat := ctlPg (4 * s) n

def sthPg (s : Nat) : Nat := slPg s 1
def qchPg (s : Nat) : Nat := slPg s 2
def tmpPg (s : Nat) : Nat := slPg s 3
def ringPg (s : Nat) : Nat := slPg s 4
def blwPg (s : Nat) : Nat := slPg s 5
def tierPg (s : Nat) : Nat := slPg s 7
def tngPg (s : Nat) : Nat := slPg s 8
def seqPg (s : Nat) : Nat := slPg s 9
def bltPg (s : Nat) : Nat := slPg s 10

/-- The window offset of the page of link port p, 0 to 15. -/
def lnkPg (p : Nat) : Nat := 0x01000000 + (p / 4) * 0x01000000 + 0x00900000 + (p % 4) * 0x10000

def rtPg (d : Nat) : Nat := 0x01000000 + d * 0x01000000 + 0x00940000
def uciPg (d n : Nat) : Nat := 0x01000000 + d * 0x01000000 + 0x00A00000 + n * 0x1000
def nocPg (d : Nat) : Nat := 0x01000000 + d * 0x01000000 + 0x00B00000
def hrtDPg (d : Nat) : Nat := 0x01000000 + d * 0x01000000 + 0x00C00000
def sp0Pg : Nat := 0x000000
def bootPg : Nat := 0x001000
def partPg : Nat := 0x002000
def calPg : Nat := 0x003000
def irqPg : Nat := 0x004000
def hrtPg : Nat := 0x100000
def ftl0Pg : Nat := 0x200000
def ftl1Pg : Nat := 0x201000
def clnPg : Nat := 0x300000
def attPg : Nat := 0x400000
def ftmPg : Nat := 0x500000
def mgtPg : Nat := 0x600000

/-- The header offsets of R472. -/
def hId : Nat := 0x000
def hCap : Nat := 0x004
def hCtl : Nat := 0x008
def hStat : Nat := 0x00C
def hIntStat : Nat := 0x010
def hIntEn : Nat := 0x014
def hErrSyn : Nat := 0x018
def hErrLo : Nat := 0x01C
def hErrHi : Nat := 0x020
def hEpoch : Nat := 0x024
def hSpare : Nat := 0x028
def hInj : Nat := 0x02C

/-- The half of a 64-bit pair, or the whole word. -/
inductive RegHalf where
  | whole | low | high
deriving DecidableEq, Repr

/-- The bytes of one element of a register: a pair takes eight. -/
def RegDef.width (r : RegDef) : Nat :=
  match r.shape with
  | .pair | .cnt64 => 8
  | _ => 4

/-- Whether page offset o lies in register r, and then the element of the array and the byte in it. -/
def RegDef.hit (r : RegDef) (o : Nat) : Option (Nat × Nat) :=
  if o < r.off then none
  else
    let st := max r.stride r.width
    let n := (o - r.off) / st
    let b := (o - r.off) % st
    if n < r.count ∧ b < r.width then some (n, b) else none

/-- The register that holds page offset o of a page type, its element and its half. -/
def findReg : List RegDef → Nat → Option (RegDef × Nat × RegHalf)
  | [], _ => none
  | r :: rs, o =>
    match r.hit o with
    | some (n, b) => some (r, n, if r.width = 4 then .whole else if b < 4 then .low else .high)
    | none => findReg rs o

/-- The fields' reset values put together. -/
def fieldsReset (fs : List FieldDef) : Nat :=
  fs.foldl (fun acc f => acc + (f.rst % 2 ^ (f.hi + 1 - f.lo)) * 2 ^ f.lo) 0

/-- BLK_CAP at reset (R472): the fixed value of the page type, but for the anvils (R94) and the HBM controllers (R275). -/
def capReset (p : PageRef) : Nat :=
  match p.kind with
  | .anv => 0x00800000 + (if p.idx % 4 = 0 then 0 else 4 + p.idx % 4)
  | .hbm => 0x1060 + (8 * p.die + p.idx) * 0x10000
  | k => k.cap

/-- The header registers at reset (R472, R473); BLK_EPOCH starts at 1 (DESIGN CHOICE, log entry 3). -/
def hdrReset (p : PageRef) (o : Nat) : Nat :=
  if o = hId then p.kind.code * 2 ^ 24 + p.die * 2 ^ 20 + p.idx * 2 ^ 8 + 1
  else if o = hCap then capReset p
  else if o = hEpoch then 1
  else if o = hSpare then p.kind.spare.2
  else 0

/-- NOC_ROUTEi at reset: VALID, physical tile i mod 32 + 36 * (i/32) (R481). -/
def routeReset (i : Nat) : Nat := 0x80000000 + (i % 32 + 36 * (i / 32))

/-- The rail groups (16_hearth_power_thermal.md R395): output in mV, phases active, ILIM at reset in A. -/
def rail (r : Nat) : Nat × Nat × Nat :=
  if r < 4 then (1000, 20, 1500)
  else if r < 8 then (1100, 8, 400)
  else if r = 8 then (900, 8, 640)
  else if r = 9 then (850, 4, 300)
  else (3300, 2, 40)

/-- What a window register holds before anything has written it: its reset value (R472, and the tables of the chapters). -/
def regReset (off : Nat) : W32 :=
  match pageAt off with
  | none => 0
  | some p =>
    let o := off % 4096
    if o < 0x100 then BitVec.ofNat 32 (hdrReset p o)
    else
      match findReg p.kind.regs o with
      | none => 0
      | some (r, n, _) =>
        if p.kind = .noc ∧ r.off = 0x200 then BitVec.ofNat 32 (routeReset n)
        else if p.kind = .hrt ∧ r.off = 0x180 then BitVec.ofNat 32 ((rail n).2.1 * 2 ^ 24 + 4 * 2 ^ 16)
        else if p.kind = .hrt ∧ r.off = 0x1C0 then BitVec.ofNat 32 (rail n).2.2
        else if r.shape = .word then BitVec.ofNat 32 (fieldsReset r.fields)
        else 0

end Sys2Proof.Machine
end

