-- ==== Sys2Proof/Machine/LinkTypes.lean ====
section
/-!
DEFINITION. The state of Tongs (12_tongs_remote_ops.md) and of the Mboano ports (13_mboano_link_fabric_time.md).
-/
namespace Sys2Proof.Machine

/-- A request that an operation has yet to issue (R303, R316): target module, kind, target address and bytes, local address and bytes,
offset in the operation's local bytes, the value of a notify, and whether it waits for the operation's earlier requests. -/
structure TPiece where
  mod    : W32
  opc    : ReqOpc
  target : Nat
  tlen   : Nat
  loc    : Nat
  llen   : Nat
  off    : Nat
  value  : Nat
  last   : Bool
deriving DecidableEq, Repr

/-- A Tongs operation accepted and not complete: its thread, run and destination register; its task; whether it is a fetch, a
DISPATCH; the local slot treatment; TYPE, the job tag and the step to be carried; the new value of a CAS; the requests to issue and those
outstanding; the slots it has claimed; whether its next request holds a tag while it
waits for its slots; when its next request was first held by the bank cap; the first failure, as
status, sub-code, offset and target address; the old value fetched. -/
structure TOp where
  id       : Nat
  tile     : Nat
  thr      : Nat
  gen      : Nat
  dest     : Nat
  task     : Option (Fin 4)
  opc      : ReqOpc
  dispatch : Bool
  lk       : Nat
  etype    : Nat
  job      : W32
  step     : Option W32
  newVal   : Nat
  pieces   : List TPiece
  live     : List Nat
  slots    : List Nat
  tag      : Bool
  capped   : Option Nat
  fail     : Option (Nat × Nat × Nat × Nat)
  old      : Nat
deriving DecidableEq, Repr

/-- A request that holds a Tongs tag (R303): its operation, tag, deadline and piece, whether its target is the module itself, the tier
it reached, its data, its answer where it failed at its target, as status and sub-code; and whether TIMEOUT was declared. -/
structure TReq where
  id       : Nat
  tile     : Nat
  op       : Nat
  tag      : Nat
  deadline : Nat
  piece    : TPiece
  own      : Bool
  data     : List Byte
  answer   : Option (Nat × Nat)
deriving DecidableEq, Repr

/-- A request from another module that has been accepted (R301): the port and the packet, the partition, its data, and its answer once it
has one. -/
structure Inbound where
  id     : Nat
  port   : Nat
  pkt    : ReqPkt
  part   : Nat
  data   : List Byte
  answer : Option (Nat × Nat)
deriving DecidableEq, Repr

/-- Tongs. stale lists the tile and tag of requests that timed out, whose answers will be late. -/
structure Tongs where
  ops     : List TOp
  reqs    : List TReq
  inbound : List Inbound
  stale   : List (Nat × Nat)
  nextId  : Nat
deriving DecidableEq, Repr

/-- A packet that the module carries. -/
inductive Carried where
  | req (p : ReqPkt)
  | rsp (p : RspPkt)
deriving DecidableEq, Repr

/-- A packet that waits to leave: the die whose routing page it uses, the dimension in which it arrived (none at its source) and its
virtual channel so far; the stream to which it belongs, if any, with whether more of the stream follow (R328). -/
structure QPkt where
  pkt  : Carried
  die  : Nat
  dim  : Option Nat
  vc   : Nat
  key  : Option (Nat × Nat)
  more : Bool
deriving DecidableEq, Repr

/-- A stream that a port has open towards its peer: its key, virtual channel and id, and the last packet sent on it. -/
structure TxStream where
  key  : Nat × Nat
  vc   : Nat
  id   : Nat
  last : ReqPkt
deriving DecidableEq, Repr

/-- A port (R324 to R328, R335): the next SEQ to send and the last one accepted; the replay buffer, oldest first, and the flits of it that are
to be sent again; replays in a row; whether a NAK is due, and whether flits are dropped until the retry arrives; the credits held and
those to be returned, by virtual channel, in 64-byte units; the packets queued, with those of CTL; the virtual channel served last; the
streams open in each direction, those received by 4096 * channel + id with the last packet of each; the flit sent last; the flits
from which a swapped lane is carried by the spare, as lane and SEQ, sending and receiving; the stamps of the last SYNC exchange. -/
structure Port where
  txSeq    : BitVec 16 := 0
  rxSeq    : BitVec 16 := 0xFFFF
  replay   : List Flit := []
  again    : List Flit := []
  retries  : Nat := 0
  nak      : Bool := false
  dropping : Bool := false
  credits  : List Nat := [2048, 2048, 2048, 2048, 64]
  owed     : List Nat := [0, 0, 0, 0, 0]
  queue    : List QPkt := []
  ctl      : List LinkPkt := []
  last     : Nat := 0
  tx       : List TxStream := []
  rx       : Cells (Option ReqPkt) := []
  sent     : Option Flit := none
  txSwitch : Option (Nat × BitVec 16) := none
  rxSwitch : Option (Nat × BitVec 16) := none
  stamps   : Nat × Nat × Nat × Nat := (0, 0, 0, 0)
  offer    : Option (W32 × Nat) := none
deriving DecidableEq, Repr

/-- The links: the ports; packets that a hold of R334 or the want of an UP port keeps, oldest first; the UP ports as routing now
takes them, and the time at which a hold ends; requests and responses delivered to the module that have not been taken yet. -/
structure Links where
  ports    : Cells Port
  waiting  : List QPkt
  upMask   : Nat
  hold     : Option Nat
  arrivals : List (Nat × ReqPkt)
  answers  : List RspPkt
deriving DecidableEq, Repr

/-- Fabric time (R338 to R341): exchanges in a row with an offset below 1 ns, and in a row with one above 1 µs while locked; the servo's
integral; when HOLDOVER was entered; whether the reference clock is valid. -/
structure FabricTime where
  good     : Nat
  bad      : Nat
  since    : Nat
  refclk   : Bool
deriving DecidableEq, Repr

/-- No port has been used, and none is UP. -/
def Links.reset : Links := { ports := [], waiting := [], upMask := 0, hold := none, arrivals := [], answers := [] }

/-- No exchange yet. -/
def FabricTime.reset : FabricTime := { good := 0, bad := 0, since := 0, refclk := true }

/-- No operation. -/
def Tongs.reset : Tongs := { ops := [], reqs := [], inbound := [], stale := [], nextId := 0 }

end Sys2Proof.Machine
end

