-- ==== Sys2Proof/Machine/MemTypes.lean ====
section
/-!
DEFINITION. The state of the memory system: HBM with its controllers, the host memory and flash behind the lower tiers, page maps
(10_hbm4_memory.md, 11_tiers_and_pool.md), and each tile's Bellows with its requests and prefetch window (09_bellows.md).
-/
namespace Sys2Proof.Machine

/-- A page map entry (R281): TIER 0 HBM, 1 host, 2 flash, 3 unmapped; TOUCH in units of 2^20 ns. -/
structure PageEntry where
  touch     : Nat := 0
  tier      : Nat := 3
  migrating : Bool := false
  user      : Bool := false
  hint      : Nat := 0
  frame     : Nat := 0
deriving DecidableEq, Repr

/-- A migration in progress (R287): its partition and page, the destination tier and frame. -/
structure Migration where
  part  : Nat
  page  : Nat
  tier  : Nat
  frame : Nat
deriving DecidableEq, Repr

/-- A command of a TIER_ page that is running (R285): operation, next page, pages left, tier, hint and user as given. -/
structure TierCmd where
  op   : Nat
  page : Nat
  left : Nat
  tier : Nat
  hint : Nat
  user : Bool
deriving DecidableEq, Repr

/-- What a block operation does at its controller (R251, R262): a read, a write of its bytes, an addition of TYPE, or an atomic of
TYPE with its operand. -/
inductive OpKind where
  | read
  | write
  | add  (etype : Nat)
  | fadd (etype : Nat) (operand : Nat)
  | fand (etype : Nat) (operand : Nat)
  | cas  (etype : Nat) (compare new : Nat)
deriving DecidableEq, Repr

/-- Where a block operation stands: in its tile's sorter, released to its controller, waiting there for admission, in its
pseudo-channel's queue, its effect taken, or served, while a request still awaits it. -/
inductive OpStage where
  | sorter | released | arrived | admitted | served
deriving DecidableEq, Repr

/-- Who awaits a block operation: a Bellows request, a Tongs request to the tile's own module, or a Tongs request that arrived at a
port, by its number. -/
inductive OpOwner where
  | blw (req : Nat)
  | tng (req : Nat)
  | inbound (req : Nat)
deriving DecidableEq, Repr

/-- A block operation (R251): at most one 256-byte block, addressed in its partition; its bytes to write, or the bytes it has read;
the number of its tile where it passes a sorter; the class, 0 read, 1 write, 2 remote; its location by R250; when it arrived;
and whether it has been counted as held, has been promoted by age, met an uncorrectable error, met FULL at its promotion
(R290), or records a watch. -/
structure MemOp where
  id      : Nat
  owners  : List OpOwner
  tile    : Option Nat
  kind    : OpKind
  cls     : Nat
  part    : Nat
  addr    : Nat
  len     : Nat
  data    : List Byte
  gather  : Bool
  watch   : Bool
  ctl     : Nat
  q       : Nat
  stage   : OpStage
  entered : Nat
  arrived : Nat
  held    : Bool
  aged    : Bool
  failed  : Bool
  noFrame : Bool
deriving DecidableEq, Repr

/-- A pseudo-channel (R252, R253): its direction, the operations served in it, the fabric times of its latest activations, the
activations granted to the classes in the present window. -/
structure PseudoChan where
  writing : Bool := false
  run     : Nat := 0
  acts    : List Nat := []
  grants  : List Nat := [0, 0, 0]
deriving DecidableEq, Repr

/-- The memory. HBM bytes are keyed 2^37 * stack + 256 * q + byte (R250), host bytes by HD's address, TIER and BILLET flash bytes
by their namespace's address; page entries 2^27 * partition + page; swap says which page's storage serves a page after commits of
the update task (R132, R135), keyed likewise; dirty holds the two dirty bits of a page (15_billets_and_recovery.md R379),
set until a billet has copied the page (DESIGN CHOICE, log entry 41).
Used allowances are keyed 4 * controller + class, open rows 64 * (64 * controller + pseudo-channel) + bank, pseudo-channels
64 * controller + pseudo-channel; flashBuf lists the flash units buffered, newest first, with whether each was uncorrectable
(R292); migs and cmds are the migrations and the TIER_ commands in progress, the latter by partition; paused marks controllers
held at admission by a calibration window (R434); ftlSince counts the bytes written to SYS and BILLET since the last checkpoint
(R294), fresh the ranges of BILLET written since then, as address and length. -/
structure Memory where
  hbm      : Cells Byte
  host     : Cells Byte
  flash    : Cells Byte
  billet   : Cells Byte
  pages    : Cells PageEntry
  swap     : Cells Nat
  dirty    : Cells (Bool × Bool)
  ops      : List MemOp
  nextOp   : Nat
  used     : Cells Nat
  openRow  : Cells (Option Nat)
  chans    : Cells PseudoChan
  flashBuf : List (Nat × Bool)
  migs     : List Migration
  cmds     : Cells (Option TierCmd)
  paused   : Cells Bool
  ftlSince : Nat
  fresh    : List (Nat × Nat)
deriving DecidableEq, Repr

/-- What a place of Bellows is held by (R231): a descriptor of a kind of R228, PREFETCH_FENCE, a stash push or a pop. -/
inductive BKind where
  | streamIn | prefetch | writeBack | gather | drain | fence | push | pop
deriving DecidableEq, Repr

/-- A request yet to issue (R230): partition-relative address, bytes, scratchpad address, offset in the descriptor's transfer. -/
structure BPiece where
  mem  : Nat
  len  : Nat
  spad : Nat
  off  : Nat
deriving DecidableEq, Repr

/-- A place of Bellows in use (R231): who issued it (a thread, its run and its destination register, or a slice and command ring),
its task and its descriptor's address; for a GATHER whose index list is still to be read, the list's address, its number of
elements, their bytes, and the scratchpad address and stride, with base the GATHER's base; SK of a WRITE_BACK; the requests yet to issue
and the numbers of those outstanding; the slots it has claimed; whether its next request holds a tag while it waits for its slots;
when that request was first held by the bank cap; whether it has been counted as waiting behind a write; the first failure, as
status and offset; when it was accepted; whether a DRAIN has partition scope, its DRAIN_ID and whether it has arrived. -/
structure BDesc where
  id       : Nat
  kind     : BKind
  thr      : Option (Nat × Nat × Nat)
  ring     : Option (Nat × Nat)
  task     : Option (Fin 4)
  src      : Nat
  list     : Option (Nat × Nat × Nat × Nat × Nat)
  base     : Nat
  sk       : Nat
  pieces   : List BPiece
  live     : List Nat
  slots    : List Nat
  tag      : Bool
  capped   : Option Nat
  behind   : Bool
  fail     : Option (Nat × Nat)
  since    : Nat
  scope    : Bool
  drainId  : Nat
  atDrain  : Bool
deriving DecidableEq, Repr

/-- A request outstanding: its descriptor, or none for a reissue; the piece; its tier; the bytes a host access moved; the window
entry it fills; and whether it failed or its data is to be dropped. -/
structure BReq where
  id     : Nat
  tile   : Nat
  desc   : Option Nat
  part   : Nat
  piece  : BPiece
  write  : Bool
  task   : Option (Fin 4)
  tier   : Nat
  data   : List Byte
  win    : Option Nat
  failed : Bool
deriving DecidableEq, Repr

/-- A prefetch window entry (R236, R238): its partition and piece; whether it is FILLED, and then its destination slots that have
not left FULL; the invalidation that is on its way to it, false for a device write, commit or migration and true for PREFETCH_FENCE
alone; the fences that await it; and whether its request must be reissued. -/
structure PfEntry where
  id      : Nat
  part    : Nat
  piece   : BPiece
  filled  : Bool
  left    : List Nat
  inval   : Option Bool
  fences  : List Nat
  reissue : Bool
  stale   : Bool
deriving DecidableEq, Repr

/-- The Bellows engines. Descriptors and window entries are keyed by tile, oldest first; reqs are all outstanding requests; drains,
by the partition's lowest slice, hold the DRAIN_ID of an open partition drain and the tiles that have arrived (R242). awaits, keyed
32768 * tile + slot, counts the requests that still touch a claimed slot (R215, R231); xfers, keyed 4 * slice + ring, hold the status
with which the descriptor of a command ring's XFER completed; stranded lists, as 32768 * tile + slot, the slots
that a failed request has left claimed (R234; 12_tongs_remote_ops.md R309). -/
structure Bellows where
  descs  : Cells (List BDesc)
  reqs   : List BReq
  window : Cells (List PfEntry)
  drains : Cells (Option (Nat × List Nat))
  awaits : Cells Nat
  xfers  : Cells (Option Nat)
  stranded : List Nat
  nextId : Nat
deriving DecidableEq, Repr

/-- Nothing written (DESIGN CHOICE, log entry 20). -/
def Memory.reset : Memory :=
  { hbm := [], host := [], flash := [], billet := [], pages := [], swap := [], dirty := [], ops := [], nextOp := 0, used := [],
    openRow := [], chans := [], flashBuf := [], migs := [], cmds := [], paused := [], ftlSince := 0, fresh := [] }

/-- No descriptor. -/
def Bellows.reset : Bellows :=
  { descs := [], reqs := [], window := [], drains := [], awaits := [], xfers := [], stranded := [], nextId := 0 }

end Sys2Proof.Machine
end

