-- ==== Sys2Proof/Machine/PartTypes.lean ====
section
/-!
DEFINITION. The state of the sequence tables, of SP's partitions and of the billet engines (14_jobs_partitions_serving.md,
15_billets_and_recovery.md).
-/
namespace Sys2Proof.Machine

/-- A build whose phases have run and whose results are yet to be written (R363, R367): the tail it read, the requests' statuses by ring
index, the work list by slot, and bits 48 to 45 of the done word. -/
structure SeqBuild where
  tail     : Nat
  statuses : List (Nat × Nat)
  work     : List (Nat × List Byte)
  flags    : Nat
deriving DecidableEq, Repr

/-- A sequence table, beside its registers and its entries in memory: the build in progress, whether EN is to go to 0 with it, and
whether a notify has reached SEQ_BUILD_ADDR (R362). -/
structure SeqTable where
  build    : Option SeqBuild := none
  offDue   : Bool := false
  notified : Bool := false
deriving DecidableEq, Repr

/-- A billet in progress (R379): its number, step, generation and start; the counters and the loss-scale bytes after its step; the
table's entries that are copied whole; the image pages copied; the SEQ of its opening clinker entry. -/
structure BilletRun where
  billet  : Nat
  step    : Nat
  gen     : Nat
  start   : Nat
  commits : Nat
  skips   : Nat
  loss    : Nat
  whole   : List Nat
  copied  : List Nat
  opened  : Nat
deriving DecidableEq, Repr

/-- A restore in progress (R387): its billet, mode and start. -/
structure Restore where
  billet : Nat
  mode   : Nat
  start  : Nat
deriving DecidableEq, Repr

/-- A flash trickle (R385): billet, generation, the image's pages. -/
structure Trickle where
  billet : Nat
  gen    : Nat
  pages  : Nat
deriving DecidableEq, Repr

/-- A billet engine, beside its registers: the billet or restore in progress; whether the next billet is the first since EN was set;
PAGES and METHOD of the table's entries at the latest billet (R374); the trickles, oldest first; and the COMMIT that waits for
IMAGE, as outcome word and receipt (R382). -/
structure Billet where
  run      : Option BilletRun := none
  restore  : Option Restore := none
  first    : Bool := true
  table    : List (Nat × Nat) := []
  trickles : List Trickle := []
  outcome  : Option (Nat × Nat) := none
deriving DecidableEq, Repr

/-- A partition request as its registers stood at GO (R352, R372). -/
structure PartReq where
  op       : Nat
  part     : Nat
  slices   : Nat
  mode     : Nat
  split    : Nat
  client   : Nat
  job      : Nat
  range    : Nat
  hostMin  : Nat
  flashMin : Nat
deriving DecidableEq, Repr

/-- SP's partitions, beside its registers: the partitions created with FIXED_BATCH (R369); the request in progress, as OP and partition
id; the request held until SP accepts requests (R426, R440); the cap held from HRT_CAP_REQ (R440); and the slices
whose stacks have yet to be zero-filled (R351). -/
structure Parts where
  fixed    : Cells Bool
  running  : Option (Nat × Nat)
  held     : Option PartReq
  heldCap  : Option Nat
  unzeroed : Cells Bool
deriving DecidableEq, Repr

/-- No partition. -/
def Parts.reset : Parts :=
  { fixed := [], running := none, held := none, heldCap := none, unzeroed := [] }

end Sys2Proof.Machine
end

