-- ==== Sys2Proof/Machine/PowerTypes.lean ====
section
/-!
DEFINITION. The state of Hearth, of start-up and of calibration (16_hearth_power_thermal.md, 17_startup_calibration.md,
20_electrical_mechanical.md).
-/
namespace Sys2Proof.Machine

/-- A hint as a die agent holds it (R410, R411): when its phase starts and ends, in ns, and its LEVEL; the die's estimate before its
start; whether a boost was decided for it. -/
structure Hint where
  start   : Nat
  stop    : Nat
  level   : Nat
  base    : Frac
  decided : Bool
deriving DecidableEq, Repr

/-- A boost in force (R410): its mV, its start, and the end of the latest of its phases. -/
structure Boost where
  mv    : Nat
  start : Nat
  stop  : Nat
deriving DecidableEq, Repr

/-- A die's agent, beside its registers (R399, R410 to R416): the target of the transition in progress; the core voltage in mV before it
and when it began; when the latest transition ended; the highest operating point left after ageing; whether the die is in thermal
trip; the extra mV for rail droop; the hints by tile of the die; the boost; the estimate of the last period in W; the cycles stretched in
the present ms. -/
structure DieAgent where
  target  : Option Nat := none
  mvOld   : Nat := 0
  began   : Nat := 0
  moved   : Nat := 0
  ageTop  : Nat := 10
  tripped : Bool := false
  railMv  : Nat := 0
  hints   : Cells (Option Hint) := []
  boost   : Option Boost := none
  est     : Frac := ⟨0, 0⟩
  stretch : Nat := 0
deriving DecidableEq, Repr

/-- Hearth, beside its registers: MEM_SCALE, LINK duty and power duty in sixteenths (R404, R400); for LINK, MEM and COMPUTE the
consecutive estimates at which its raise fits (R406); the last raw estimate, and the raw estimates of the present ms as their sum and
number (R401, R402); the sample of the last period; the consecutive windows off by more than 10 % (R402); whether a
calibration record used out of band widens the guard (R403, R432); the die agents; the tiles stretching now, the tiles that have
stretched in the present period, and by tile the episodes of the present ms and the run of ms with more than 1,000 (R412, R413); the ms
that was last counted in HRT_THERM_MS, plus 1; the weight set in use (R431); whether the switch to the other code memory is in force for
an update in trial (R450). -/
structure Hearth where
  memScale : Nat
  linkDuty : Nat
  duty     : Nat
  fits     : List Nat
  rawPrev  : Frac
  rawSum   : Frac
  rawCnt   : Nat
  sample   : PowerSample
  drift    : Nat
  bandBad  : Bool
  dies     : Cells DieAgent
  slow     : List Nat
  period   : List Nat
  episodes : Cells Nat
  runs     : Cells Nat
  thermMs  : Nat
  wset     : Nat
  newCode  : Bool
deriving DecidableEq, Repr

/-- Full settings. -/
def Hearth.reset : Hearth :=
  { memScale := 16, linkDuty := 16, duty := 16, fits := [0, 0, 0], rawPrev := ⟨0, 0⟩, rawSum := ⟨0, 0⟩, rawCnt := 0,
    sample := { counts := [], temps := [], fixedW := 0, vinMv := 0, tileMw := [] },
    drift := 0, bandBad := false, dies := [], slow := [], period := [], episodes := [], runs := [], thermMs := 0, wset := 0,
    newCode := false }

/-- Where the module stands between power and work (R421, R422, R463, R484): without power; in start-up; in standby; READY; stopped by
a failed stage; in the hold-up sequence; tripped. -/
inductive BootPhase where
  | off | starting | standby | ready | stopped | holdup | tripped
deriving DecidableEq, Repr

/-- Power and start-up: where the module stands; the time from which the stages are counted, and whether they run from stage 4; the
stages that have begun and not completed, and those that have completed; whether a unit was marked failed or down; MOD_EN (low when it
floats, R490); whether the main rails are up and the hold-up bank is charged; when hold-up began; whether the next start awaits the end
of an overvoltage. -/
structure Boot where
  phase   : BootPhase
  origin  : Nat
  warm    : Bool
  running : List Stage
  done    : List Stage
  bad     : Bool
  modEn   : Bool
  rails   : Bool
  charged : Bool
  lost    : Nat
  keepsOff    : Bool
deriving DecidableEq, Repr

/-- No power yet. -/
def Boot.reset : Boot :=
  { phase := .off, origin := 0, warm := false, running := [], done := [], bad := false, modEn := false, rails := false, charged := false,
    lost := 0, keepsOff := false }

/-- A calibration record's header, but for KIND and INSTANCE (R430). -/
structure CalRec where
  oob   : Bool
  load  : Nat
  temp  : Nat
  taken : Nat
deriving DecidableEq, Repr

/-- A window in progress (R434): its opening; the records it takes; the stacks that it holds, and those that stay held for a retrain. -/
structure CalWindow where
  start   : Nat
  recs    : List Nat
  stackIds  : List Nat
  retrain : List Nat
deriving DecidableEq, Repr

/-- Calibration: the records and the due ones, by 4096 * KIND + INSTANCE; the windows in progress and the openings of the last ones, by
partition, and under 8 for slices in none; the partitions for which an applied outcome or a build calls for one (R433); the lanes
whose live recalibration is under way, by 16 * port + lane. -/
structure Cal where
  recs   : Cells (Option CalRec)
  due    : List Nat
  windows : Cells (Option CalWindow)
  last   : Cells Nat
  called : Cells Bool
  lanes  : List Nat
deriving DecidableEq, Repr

/-- No record. -/
def Cal.reset : Cal :=
  { recs := [], due := [], windows := [], last := [], called := [], lanes := [] }

end Sys2Proof.Machine
end

