-- ==== Sys2Proof/Machine/SpTypes.lean ====
section
/-!
DEFINITION. The state of SP: firmware slots, counters, keys, policy and measurements (18_safety_security_clinker.md).
-/
namespace Sys2Proof.Machine

/-- A firmware component (R444): its SVN and its digest, empty for the component delivered with the module. -/
structure FwComp where
  svn    : Nat
  digest : List Byte
deriving DecidableEq, Repr

/-- A boot slot (R444, R449): the components SP, Hearth and HD boot, the bundle's REVOKE, and its bytes. -/
structure FwSlot where
  comps  : List FwComp
  revoke : Nat
  bytes  : List Byte
deriving DecidableEq, Repr

/-- An update in progress or in trial (R449): the components that it changes, by number 0 to 2; when the trial began; the SEQ of its
opening clinker entry. -/
structure Trial where
  changed : List Nat
  start   : Nat
  opened  : Nat
deriving DecidableEq, Repr

/-- SP: whether a module reset awaits the end of SP's restart (R440); the fabric times of lockstep mismatches (R439); the slots A and B; the components in use, and for HD boot
those that the next module reset takes up; the update in trial; the anti-rollback counters; the revocation mask; the owner key's
digest; the OWNER_POLICY section accepted, and the items that await the end of the last partition (R438); the SEQ of DEVICE_STATE;
the measurements that HD extends, by index (R452). -/
structure Sp where
  heldReset : Bool
  mismatch : List Nat
  slotA    : FwSlot
  slotB    : FwSlot
  inUse    : List FwComp
  trial    : Option Trial
  arc      : Cells W32
  revoked  : BitVec 4
  owner    : Option (List Byte)
  policy   : Option (List Byte)
  pending  : Bool
  meas     : Cells (List Byte)
deriving DecidableEq, Repr

/-- The firmware delivered with the module: SVN 0 (DESIGN CHOICE, log entry 40). -/
def FwSlot.shipped : FwSlot :=
  { comps := [⟨0, []⟩, ⟨0, []⟩, ⟨0, []⟩], revoke := 0, bytes := [] }

/-- No owner, every counter 0. -/
def Sp.reset : Sp :=
  { heldReset := false, mismatch := [], slotA := FwSlot.shipped, slotB := FwSlot.shipped, inUse := FwSlot.shipped.comps, trial := none,
    arc := [], revoked := 0, owner := none, policy := none, pending := false, meas := [] }

end Sys2Proof.Machine
end

