-- ==== Sys2Proof/Machine/StashTypes.lean ====
section
/-!
DEFINITION. The state of the stash units (02_segments_and_stash.md).
-/
namespace Sys2Proof.Machine

/-- A push or a pop that a stash has accepted and not completed: its Bellows place, the tile, thread, run and destination register, its
first slot, its contributor index, since when its thread has been blocked, if it is, and what check bits report on the bytes that it reads. -/
structure SthPart where
  desc    : Nat
  tile    : Nat
  thr     : Nat
  gen     : Nat
  dest    : Nat
  slot    : Nat
  idx     : Nat
  blocked : Option Nat
  ecc     : Ecc := .clean
deriving DecidableEq, Repr

/-- A pop: what it asks for, whether it discards, and, once it has been compared with its record, the record's number and its status. -/
structure SthPop where
  part    : SthPart
  seg     : Nat
  mb      : Nat
  discard : Bool
  found   : Option (Nat × Nat)
deriving DecidableEq, Repr

/-- A record of a lane (R33, R34): its number, its place in the ring, its header's fields, the contributors whose parts have landed,
those whose POPPED pop has been counted and those whose pop is done. -/
structure SthRec where
  id      : Nat
  off     : Nat
  seg     : Nat
  mb      : Nat
  step    : Nat
  folds   : Nat
  epoch   : Nat
  fmt     : Nat
  pbytes  : Nat
  contrib : Nat
  prev    : Nat
  time    : Nat
  landed  : List Nat
  valid   : Bool
  refill  : Bool
  popped  : List Nat
  done    : List Nat
deriving DecidableEq, Repr

/-- The record whose parts are arriving (R35, R36): its key, its segment-table entry once it has been read (FORMAT, FLAGS, PART_BYTES,
CONTRIB), the outcome once decided, the contributors that have arrived, the parts not yet stored, the number of records that a spill
moves for it, and whether the decision awaits a refill (R42). -/
structure SthOpen where
  seg    : Nat
  mb     : Nat
  step   : Nat
  entry  : Option (Nat × Nat × Nat × Nat)
  code   : Option Nat
  got    : List Nat
  parts  : List SthPart
  spill  : Option Nat
  refill : Bool
deriving DecidableEq, Repr

/-- A lane: its records in HBM and in its spill share, oldest first; the record arriving; whether a refill of the newest spilled record
is in progress; the ring offset past its newest record; the pops that wait. -/
structure SthLane where
  recs    : List SthRec := []
  spilled : List SthRec := []
  opening : Option SthOpen := none
  refill  : Bool := false
  top     : Nat := 0
  pops    : List SthPop := []
deriving DecidableEq, Repr

/-- The stash units: lanes by 4 * (the partition's lowest slice) + lane, and the number of the next record. -/
structure Stash where
  lanes  : Cells SthLane
  nextId : Nat
deriving DecidableEq, Repr

/-- Every lane empty. -/
def Stash.reset : Stash := { lanes := [], nextId := 0 }

end Sys2Proof.Machine
end

