-- ==== Sys2Proof/Machine/TileTypes.lean ====
section
/-!
DEFINITION. The state of the tiles: threads, registers, scratchpad slots and their tags, tile tasks, barriers
(06_tiles_and_threads.md, 08_scratchpad.md) and anvils with their queues and coalescer (03_anvil_arrays.md). Tiles are numbered by
physical tile, 0 to 287: tile 72d + t is tile t of compute die d (19_register_map.md R471).
-/
namespace Sys2Proof.Machine

/-- What a thread in BLOCKED_SYNC awaits (R155). -/
inductive SyncWait where
  | barrier (id : Nat)
  | taskBegin (task slots dest : Nat)
  | taskEnd (task : Nat) (commit : Bool) (dest : Nat)
  | vote (dest : Nat)
  | stash (op : Nat)
  | layerClose
deriving DecidableEq, Repr

/-- The thread states of R155, with what the thread awaits. -/
inductive ThrState where
  | halted
  | runnable
  | blockedSlot (slot : Nat)
  | blockedXfer (mask : Nat)
  | blockedSync (w : SyncWait)
  | faulted
deriving DecidableEq, Repr

/-- A thread (R153), but for its registers: state, PC, the cause of its fault (R169), its task (R164), the number of its present
run, by which late results of an earlier run are known, and the fabric time since which it has been blocked (R162). -/
structure Thread where
  st    : ThrState := .halted
  pc    : W32 := 0
  fault : Byte := 0
  task  : Option (Fin 4) := none
  gen   : Nat := 0
  since : Nat := 0
deriving DecidableEq, Repr

/-- The tag states of R214. -/
inductive Tag where
  | empty | full | retained
deriving DecidableEq, Repr

/-- The claims on a slot by accesses in flight (R160, R161): producers and consumers that have claimed it and not completed. -/
structure Claim where
  produce : Nat := 0
  consume : Nat := 0
deriving DecidableEq, Repr

/-- A tile task (R164 to R167): whether it has FAILED, whether it is ending and how, the shadow slots it reserved, and the slots
it has shadowed with the pool slot that holds each shadow. -/
structure Task where
  failed   : Bool
  ending   : Option Bool
  reserved : Nat
  shadows  : List (Nat × Nat)
deriving DecidableEq, Repr

/-- A barrier that has arrivals (R196): the COUNT of its first arrival and the threads that have arrived. -/
structure Barrier where
  count   : Nat
  arrived : List Nat
deriving DecidableEq, Repr

/-- All tiles. Threads are keyed 64 * tile + thread, scalar and address registers 64 * (64 * tile + thread) + specifier (R179),
predicates 4 * (64 * tile + thread) + number, scratchpad bytes 2^24 * tile + address, tags and claims 32768 * tile + slot,
tasks 4 * tile + id, barriers 8 * tile + id. pend marks the operation whose result is
pending on a register (R157). -/
@[ext] structure Tiles where
  thr      : Cells Thread
  xr       : Cells W64
  pr       : Cells Bool
  pend     : Cells Nat
  spad     : Cells Byte
  tags     : Cells Tag
  claims   : Cells Claim
  tasks    : Cells (Option Task)
  barriers : Cells (Option Barrier)
deriving DecidableEq, Repr

/-- A pass as it stands in the coalescer, at dispatch, in a queue or in an anvil (R57, R58, R89): the thread that issued it, its
run and task, the descriptor's address and eight words, the step latched at its retirement (R114), and its receive stamp. -/
structure Pass where
  thr   : Nat
  gen   : Nat
  task  : Option (Fin 4)
  addr  : Nat
  words : List W64
  step  : W64
  stamp : Nat
deriving DecidableEq, Repr

/-- A weight block in a weight buffer (R64): its chunk, and for each K position the element codes of its columns, none where a
sparse record prunes the position (R81); the scale codes of each column's blocks (R61). -/
structure WBlock where
  chunk  : Nat
  elems  : List (List (Option Nat))
  scales : List (List Nat)
deriving DecidableEq, Repr

/-- The accumulator of one output element: the FP32 or INT32 code of normal mode, or the reference chunks' sums so far (R117). -/
structure AccCell where
  code : Nat
  refs : List Nat
deriving DecidableEq, Repr

/-- The pass that an anvil is running: one issued pass or the members of a coalesced group in row order, the weight blocks
loaded and not yet launched, the chunks launched, the accumulator by 128 * row + column, and whether a fault was found after
dispatch (R72). -/
structure Running where
  members  : List Pass
  loaded   : List WBlock
  nextLoad : Nat
  launched : Nat
  acc      : Cells AccCell
  init     : Bool
  faulted  : Bool
deriving DecidableEq, Repr

/-- A coalescer group (R90, R91): its number, its members, the deadline, and the settings it opened under. -/
structure Group where
  id       : Nat
  members  : List Pass
  deadline : Nat
  fill     : Nat
  thresh   : Nat
deriving DecidableEq, Repr

/-- The anvils. Queues and running passes, oldest first, at most two, one to each half of the accumulator memory (R67), are keyed
4 * tile + anvil (0 FE, 1 BA, 2 BB); passes waiting at dispatch, groups, and passes behind a held pass of their thread (R89) by
tile. An entry is a list of members: one issued pass, or a group that has issued (R46, R91). -/
structure Anvils where
  queue   : Cells (List (List Pass))
  running : Cells (List Running)
  waiting : Cells (List (List Pass))
  groups  : Cells (List Group)
  behind  : Cells (List Pass)
  nextGrp : Nat
deriving DecidableEq, Repr

end Sys2Proof.Machine
end

