-- ==== Sys2Proof/Machine/UnitTypes.lean ====
section
/-!
DEFINITION. The state of the units outside the tiles.
-/
namespace Sys2Proof.Machine

/-- The register window (19_register_map.md): every register that holds a value, by window offset; the latched high halves and
the held low halves of 64-bit pairs (00_scope.md R12); what the last read returned; the interrupt messages sent, address and
data, newest last (R478); and the arrays behind a select register: SPAD_REPAIR by 1024 * tile + 32 * bank + sub-array,
LNK_RT_DATA by 4096 * die + index, and the entries of SP_CLIM, their start limits, running and started counts by index. -/
@[ext] structure Window where
  regs        : Cells W32
  hiLatch     : Cells (Option W32)
  loHold      : Cells W32
  lastRead    : W32
  msiSent     : List (W64 × W32)
  repair      : Cells W32
  rtData      : Cells W32
  clim        : Cells W32
  climStart   : Cells W32
  climRun     : Cells Nat
  climStarted : Cells W32
deriving DecidableEq, Repr

/-- An entry of the clinker log (18_safety_security_clinker.md R460), but for CHECK, which is computed from the rest: good says
whether the stored CHECK matches (R464). -/
structure ClinkerEntry where
  seq     : Nat
  time    : Nat
  epoch   : W32
  cat     : Byte
  code    : Byte
  flags   : BitVec 16
  source  : W32
  part    : Byte
  payload : List Byte
  chain   : List Byte
  good    : Bool
deriving DecidableEq, Repr

/-- The clinker log (R459, R462): its two regions, oldest entry first; the next SEQ; the entries now open;
whether what is logged now comes from an injected fault (R458). -/
structure Clinker where
  perm    : List ClinkerEntry
  ring    : List ClinkerEntry
  next    : Nat
  opened  : List Nat
  inj     : Bool
deriving DecidableEq, Repr

/-- The management endpoint (R455 to R457): the events queued for polling by their SEQ, oldest first, and the bytes of the last
response. -/
structure Mgt where
  events   : List Nat
  response : List Byte
deriving DecidableEq, Repr

/-- A Quench detection (05_update_pass_quench_temper.md R129 to R131): the cause bit's number, the detecting tile where a tile
detects, the TILE and LAYER fields, INDEX and STAMP. -/
structure Detection where
  cause : Nat
  phys  : Option Nat
  tile  : Nat
  layer : Nat
  index : Nat
  stamp : Nat
deriving DecidableEq, Repr

/-- An entry of a loaded shadow table (R132 to R134): PAGE, SHADOW and the sectors written in the task. -/
structure ShadowEntry where
  page   : Nat
  shadow : Nat
  count  : Nat
deriving DecidableEq, Repr

/-- What a vote record's unit keeps beside its bytes in memory (R137, R140): the receive stamps of the first vote and of the first group
result, whether this module has decided as leader and as root, and whether it has had the outcome. -/
structure VoteRec where
  firstG : Option Nat := none
  firstR : Option Nat := none
  gdone  : Bool := false
  rdone  : Bool := false
  got    : Bool := false
deriving DecidableEq, Repr

/-- The Quench units, by the slice whose page they show: detections held for the next step (R130), the partition's
last-closed layer tag (R131), its loaded shadow table (R132) and membership table (R136), its vote records by 4 * slice + record, the
time of its cast while an outcome is awaited (R142), whether a computation of QCH_MEMBER_CRC is due (R150); and the unit's messages
to the modules of the job that have not left, oldest first (R140). -/
structure Quench where
  held    : Cells (List Detection)
  lastTag : Cells Nat
  shadows : Cells (List ShadowEntry)
  members : Cells (List W32)
  recs    : Cells VoteRec
  castAt  : Cells (Option Nat)
  crcDue  : Cells Bool
  posted  : List ReqPkt
deriving DecidableEq, Repr

/-- An open layer of Temper (R145): its tag, the sums of squares in units of 2^-298, the unmasked elements. -/
structure TemperLayer where
  tag   : Nat
  sw2   : Nat
  sd2   : Nat
  elems : Nat
deriving DecidableEq, Repr

/-- An entry in a ring's buffer: its index, its receive stamp, its 64 bytes, and whether its checks failed (R205, R206). -/
structure RingEntry where
  idx   : Nat
  stamp : Nat
  bytes : List Byte
  bad   : Bool
deriving DecidableEq, Repr

/-- A command ring (07_tile_operations.md R199 to R208), beside its registers: the buffer, oldest entry first; the bursts in flight,
first index and length; the last tail seen; the poll time at which each tail was first seen; the poll time of an outstanding tail
read; whether the entry at the head is running; the issue time of a WAIT_WORD read that is outstanding. -/
structure Ring where
  buf     : List RingEntry := []
  bursts  : List (Nat × Nat) := []
  seen    : Nat := 0
  stamps  : List (Nat × Nat) := []
  reading : Option Nat := none
  running : Bool := false
  word    : Option Nat := none
deriving DecidableEq, Repr

end Sys2Proof.Machine
end

