-- ==== Sys2Proof/Machine/State.lean ====
section
/-!
DEFINITION. The state of the Grirno Plovec module as plain data, and the state right after power is applied.
-/
namespace Sys2Proof.Machine

/-- What stops the module. -/
inductive Fault where
  /-- Raised by COLD_START when the input is above 65 V: "no behaviour is specified"
  (20_electrical_mechanical.md R483). Safe: the model stops where the spec gives nothing. -/
  | inputAboveMaximum
deriving DecidableEq, Repr

/-- What the model gives no meaning. -/
inductive Refusal where
  /-- Raised by an arm of Dispatch.lean whose instruction has no meaning yet. Safe: nothing is claimed of it. -/
  | notModelled (mnemonic : String)
  /-- Raised by a meaning whose operands spell another row's command: an operation word of another operation, a register write
  that does not name the row's register, an access that is not malformed. WellFormed.lean excludes such commands. Safe. -/
  | otherRow (mnemonic : String)
deriving DecidableEq, Repr

/-- The machine: the waiting commands, fabric time in ns, the counter of free values (the model's own field, DESIGN CHOICE, log entry 1), and the
units; tmp holds Temper's open layers by the partition's lowest slice, rng the command rings by 4 * slice + ring,
seq and blt the sequence tables and billet engines by slice. -/
@[ext]
structure State where
  pending : List Instr
  time    : Nat
  free    : Nat
  win     : Window
  tl      : Tiles
  anv     : Anvils
  cln     : Clinker
  mgt     : Mgt
  qch     : Quench
  tmp     : Cells (List TemperLayer)
  mem     : Memory
  blw     : Bellows
  sth     : Stash
  tng     : Tongs
  lnk     : Links
  ftm     : FabricTime
  rng     : Cells Ring
  seq     : Cells SeqTable
  blt     : Cells Billet
  prt     : Parts
  hrt     : Hearth
  boot    : Boot
  cal     : Cal
  sp      : Sp
deriving DecidableEq, Repr

/-- Nothing written in the window. -/
def Window.reset : Window :=
  { regs := [], hiLatch := [], loHold := [], lastRead := 0, msiSent := [], repair := [], rtData := [], clim := [],
    climStart := [], climRun := [], climStarted := [] }

/-- Every thread halted, every slot empty, every byte zero (06_tiles_and_threads.md R171). -/
def Tiles.reset : Tiles :=
  { thr := [], xr := [], pr := [], pend := [], spad := [], tags := [], claims := [], tasks := [], barriers := [] }

/-- No pass anywhere. -/
def Anvils.reset : Anvils :=
  { queue := [], running := [], waiting := [], groups := [], behind := [], nextGrp := 0 }

/-- No entry (DESIGN CHOICE, log entry 6). -/
def Clinker.reset : Clinker :=
  { perm := [], ring := [], next := 0, opened := [], inj := false }

/-- No event. -/
def Mgt.reset : Mgt :=
  { events := [], response := [] }

/-- No detection held. -/
def Quench.reset : Quench :=
  { held := [], lastTag := [], shadows := [], members := [], recs := [], castAt := [], crcDue := [], posted := [] }

/-- The module right after reset: every register at the value its table gives, every memory empty, no command waiting. -/
def State.reset : State :=
  { pending := [], time := 0, free := 0, win := Window.reset, tl := Tiles.reset, anv := Anvils.reset, cln := Clinker.reset,
    mgt := Mgt.reset, qch := Quench.reset, tmp := [], mem := Memory.reset, blw := Bellows.reset, sth := Stash.reset,
    tng := Tongs.reset, lnk := Links.reset, ftm := FabricTime.reset, rng := [], seq := [], blt := [], prt := Parts.reset,
    hrt := Hearth.reset, boot := Boot.reset, cal := Cal.reset, sp := Sp.reset }

end Sys2Proof.Machine
end

