-- ==== Sys2Proof/Machine/Ops.lean ====
section
/-!
DEFINITION. The operations that every unit shares: time and free values, registers and their fields, counters (R477),
interrupts and their messages (R478), the error latch (R475), the clinker log and its events (R456, R460), and which slice and
partition a tile belongs to (R17, R372).
-/
namespace Sys2Proof.Machine

/-- The outcome of a command. -/
abbrev Out := Host.Outcome State Fault Refusal

/-! ### Time and free values -/

/-- Fabric time at a command that carries the time at which it happens; time never goes back (R340). -/
def tick (s : State) (now : Nat) : State := { s with time := max s.time now }

/-- A stamp (R343): the low 56 bits of fabric time in ns above a byte of fraction, which is 0 because the model's times are whole ns
(DESIGN CHOICE, log entry 56). -/
def asStamp (t : Nat) : Nat := t % 2 ^ 56 * 256

/-- A free value, and the state in which it is used up. -/
def drawFree (s : State) : Nat × State := (Config.freeValue s.free, { s with free := s.free + 1 })

/-! ### Registers by window offset -/

/-- The word at a window offset as it is held. -/
def rdW (s : State) (o : Nat) : W32 := cGet regReset s.win.regs o

/-- Hold a word at a window offset. -/
def wrW (s : State) (o : Nat) (v : W32) : State :=
  { s with win := { s.win with regs := cSet regReset s.win.regs o v } }

/-- The word at a window offset as a natural. -/
def rd (s : State) (o : Nat) : Nat := (rdW s o).toNat

/-- Hold the low 32 bits of a natural at a window offset. -/
def wr (s : State) (o v : Nat) : State := wrW s o (BitVec.ofNat 32 v)

/-- A field. -/
def rdF (s : State) (o hi lo : Nat) : Nat := bitsOf (rd s o) hi lo

/-- Hold a field. -/
def wrF (s : State) (o hi lo f : Nat) : State := wr s o (putBits (rd s o) hi lo f)

/-- A single bit. -/
def rdB (s : State) (o n : Nat) : Bool := (rd s o).testBit n

/-- Hold a single bit. -/
def wrB (s : State) (o n : Nat) (b : Bool) : State := wrF s o n n (if b then 1 else 0)

/-- A 64-bit pair (R12). -/
def rd64 (s : State) (o : Nat) : Nat := rd s o + 2 ^ 32 * rd s (o + 4)

/-- Hold a 64-bit pair. -/
def wr64 (s : State) (o v : Nat) : State := wr (wr s o (v % 2 ^ 32)) (o + 4) (v / 2 ^ 32 % 2 ^ 32)

/-- Add to a saturating counter (R477). -/
def incBy (s : State) (o n : Nat) : State := wr s o (min (rd s o + n) 0xFFFFFFFF)

/-- Count one event on a saturating counter. -/
def inc (s : State) (o : Nat) : State := incBy s o 1

/-- Add to a 64-bit counter, which wraps (R477). -/
def inc64 (s : State) (o n : Nat) : State := wr64 s o ((rd64 s o + n) % 2 ^ 64)

/-- Add to a counter field of fewer than 32 bits, stopping at all ones. -/
def incF (s : State) (o hi lo n : Nat) : State := wrF s o hi lo (min (rdF s o hi lo + n) (2 ^ (hi + 1 - lo) - 1))

/-! ### Interrupts and errors -/

/-- A page's interrupt is active (R478). -/
def intActive (s : State) (pg : Nat) : Bool := (rd s (pg + hIntStat) &&& rd s (pg + hIntEn)) != 0

/-- The page that summarises a page's interrupt: its die's NoC page, or the SD interrupt page (R478). -/
def summaryPg (pg : Nat) : Nat :=
  match pageAt pg with
  | some p => if p.die = 15 then irqPg else nocPg p.die
  | none => irqPg

/-- Send the summarising page's message, unless its address is 0 (R478). -/
def sendMsi (s : State) (pg : Nat) : State :=
  let n := summaryPg pg
  let a := rd64 s (n + 0x108)
  if a = 0 then s
  else { s with win := { s.win with msiSent := s.win.msiSent ++ [(BitVec.ofNat 64 a, rdW s (n + 0x110))] } }

/-- A change of a page's interrupt registers: a message goes out when the page's interrupt becomes active (R478). -/
def withIntEdge (pg : Nat) (s s' : State) : State :=
  if !(intActive s pg) && intActive s' pg then sendMsi s' pg else s'

/-- Hardware sets bits of BLK_INT_STAT. -/
def intSet (s : State) (pg bits : Nat) : State :=
  withIntEdge pg s (wr s (pg + hIntStat) (rd s (pg + hIntStat) ||| bits))

/-- Latch an event of class [31:24] and low bits, with an address: while ERR_VALID is 0 it is held, else ERR_OVF is set (R475). -/
def latchErr (s : State) (pg cls low addr : Nat) : State :=
  if rdB s (pg + hStat) 0 then wrB s (pg + hStat) 1 true
  else
    wrB (wr64 (wr s (pg + hErrSyn) (cls * 2 ^ 24 + low % 2 ^ 24)) (pg + hErrLo) addr) (pg + hStat) 0 true

/-- Latch a block event, class 0x01 (R474). -/
def latchBlk (s : State) (pg low addr : Nat) : State := latchErr s pg 1 low addr

/-- The requester codes of R474. -/
def Requester.code : Requester → Nat
  | .hd => 1
  | .hearth => 2
  | .sp => 3

/-- Record a refused write, class 0x02: reason 0x01 an RWS write not from SP, 0x02 a value or state refused (R14, R474). -/
def denyWrite (s : State) (pg off reason : Nat) (who : Requester) : State :=
  latchErr s pg 2 (reason * 256 + Requester.code who) off

/-- Clear every counter register of a list, at a page (R477). -/
def clearCounters (pg : Nat) : List RegDef → State → State
  | [], s => s
  | r :: rs, s =>
    clearCounters pg rs
      (match r.shape with
       | .cnt => (List.range r.count).foldl (fun s n => wr s (pg + r.off + n * r.stride) 0) s
       | .cnt64 => (List.range r.count).foldl (fun s n => wr64 s (pg + r.off + n * r.stride) 0) s
       | _ => s)

/-- Increment an epoch, skipping 0 (R390). -/
def bumpEpoch (s : State) (pg : Nat) : State :=
  let e := (rd s (pg + hEpoch) + 1) % 2 ^ 32
  wr s (pg + hEpoch) (if e = 0 then 1 else e)

/-! ### Slices, tiles and partitions -/

/-- The slice of a physical tile (R17). -/
def sliceOf (t : Nat) : Nat := 2 * (t / 72) + t % 72 / 36

/-- The physical tiles of a slice (R17). -/
def sliceTiles (sl : Nat) : List Nat := rangeFrom (72 * (sl / 2) + 36 * (sl % 2)) 36

/-- The logical number that SP gave a tile: 0xFFFF for an unused spare, 0xFFFE for a failed tile (R173). -/
def logicalOf (s : State) (t : Nat) : Nat := rdF s (tilePg t 0 + 0x108) 15 0

/-- The tile holds a logical number. -/
def isLogical (s : State) (t : Nat) : Bool := decide (logicalOf s t < 256)

/-- The physical tile that holds a logical number, if any. -/
def physOf (s : State) (l : Nat) : Option Nat :=
  (rangeFrom (72 * (l / 64)) 72).find? (fun t => logicalOf s t == l)

/-- The state of partition n: 0 FREE, 1 CREATING, 2 RUNNING, 3 RESETTING, 4 DESTROYING (R372). -/
def partState (s : State) (n : Nat) : Nat := rdF s (partPg + 0x140 + 4 * n) 11 8

/-- The slice mask of partition n (R372). -/
def partMask (s : State) (n : Nat) : Nat := rdF s (partPg + 0x140 + 4 * n) 7 0

/-- The client of partition n (R372). -/
def partClient (s : State) (n : Nat) : Nat := rdF s (partPg + 0x140 + 4 * n) 31 16

/-- The job tag of partition n (R372). -/
def partJob (s : State) (n : Nat) : Nat := rd s (partPg + 0x160 + 4 * n)

/-- The partition that holds a slice, if any. -/
def partOfSlice (s : State) (sl : Nat) : Option Nat :=
  (List.range 8).find? (fun n => partState s n != 0 && (partMask s n).testBit sl)

/-- The slices of partition n, lowest first. -/
def partSlices (s : State) (n : Nat) : List Nat := (List.range 8).filter (fun sl => (partMask s n).testBit sl)

/-- The lowest slice of partition n. -/
def lowSlice (s : State) (n : Nat) : Nat := (partSlices s n).headD 0

/-- The partition of a tile: none on an unused or failed spare and in a slice of no partition (R502). -/
def partOfTile (s : State) (t : Nat) : Option Nat :=
  if isLogical s t then partOfSlice s (sliceOf t) else none

/-- The tiles of partition n by ascending logical number (R202). -/
def partTiles (s : State) (n : Nat) : List Nat :=
  ((partSlices s n).map (fun sl => (rangeFrom (32 * sl) 32).filterMap (fun l => physOf s l))).flatten

/-- The place of a logical tile in its partition (R182, R202). -/
def partIndex (s : State) (n l : Nat) : Nat :=
  32 * ((partSlices s n).filter (fun sl => sl < l / 32)).length + l % 32

/-- The tile at a partition-relative index. -/
def partTileAt (s : State) (n i : Nat) : Option Nat :=
  match (partSlices s n)[i / 32]? with
  | some sl => physOf s (32 * sl + i % 32)
  | none => none

/-- The partition epoch of partition n: BLK_EPOCH of the per-partition pages of its lowest slice (15_billets_and_recovery.md R390). -/
def bumpPartEpoch (s : State) (n : Nat) : State :=
  let l := lowSlice s n
  [sthPg l, qchPg l, tmpPg l, ringPg l, blwPg l, tierPg l, tngPg l, seqPg l, bltPg l].foldl bumpEpoch s

/-! ### The clinker log -/

/-- Bytes of a free value. -/
def freeBytes (n v : Nat) : List Byte := leBytes n v

/-- The permanent region holds the categories AGEING, REPAIR and SECURITY (R459). -/
def isPermanent (cat : Nat) : Bool := cat == 4 || cat == 5 || cat == 11

/-- The bytes of an entry before CHAIN (R460). -/
def ClinkerEntry.head (e : ClinkerEntry) : List Byte :=
  leBytes 8 e.seq ++ leBytes 8 e.time ++ leBytes 4 e.epoch.toNat ++ [e.cat, e.code] ++ leBytes 2 e.flags.toNat ++
    leBytes 4 e.source.toNat ++ [e.part] ++ leBytes 3 0 ++ e.payload.take 64 ++
    List.replicate (64 - e.payload.length) 0

/-- An entry's 128 bytes (R460): a stored CHECK that does not match shows as its complement. -/
def ClinkerEntry.bytes (e : ClinkerEntry) : List Byte :=
  let b := e.head ++ e.chain ++ leBytes 12 0
  b ++ leBytes 4 (if e.good then crc32c b else ~~~ crc32c b).toNat

/-- The CHAIN of the newest entry that is intact; 16 zero bytes before the first (DESIGN CHOICE, log entry 6). -/
def chainEnd (c : Clinker) : List Byte :=
  match (c.perm ++ c.ring).filter (fun e => e.good) with
  | [] => List.replicate 16 0
  | e :: es => (es.foldl (fun a b => if a.seq < b.seq then b else a) e).chain

/-- Append an entry to its region: a full permanent region moves its oldest entry to the ring; a full ring loses its oldest (R459). -/
def clnAppend (c : Clinker) (e : ClinkerEntry) : Clinker :=
  let ringAdd (r : List ClinkerEntry) (x : ClinkerEntry) : List ClinkerEntry :=
    if r.length ≥ 458240 then r.drop 1 ++ [x] else r ++ [x]
  if isPermanent e.cat.toNat then
    if c.perm.length ≥ 65536 then
      match c.perm with
      | [] => { c with perm := [e] }
      | p :: ps => { c with perm := ps ++ [e], ring := ringAdd c.ring p }
    else { c with perm := c.perm ++ [e] }
  else { c with ring := ringAdd c.ring e }

/-- Queue an event for polling when MGT_EVT_MASK holds the category's bit; of 64 the oldest is dropped (R456). -/
def queueEvent (s : State) (cat seq : Nat) : State :=
  if rdB s (mgtPg + 0x108) cat then
    if s.mgt.events.length ≥ 64 then
      intSet (incBy { s with mgt := { s.mgt with events := s.mgt.events.drop 1 ++ [seq] } } (mgtPg + 0x114) 1) mgtPg 1
    else intSet { s with mgt := { s.mgt with events := s.mgt.events ++ [seq] } } mgtPg 1
  else s

/-- The interrupts of the clinker page: ENTRY for a new entry of a category in CLN_INT_MASK, PERM_90 once the permanent region is
90 % full (R467). -/
def clnInterrupt (s : State) (cat : Nat) : State :=
  let s := if rdB s (clnPg + 0x118) cat then intSet s clnPg 1 else s
  if isPermanent cat && decide (s.cln.perm.length ≥ 58983) then intSet s clnPg 2 else s

/-- What a unit reports in a clinker entry: category and code (R461), its page, its sub-unit, the partition, the payload's bytes
where the spec gives them, whether the entry opens, the entry that it closes, and further flags. -/
structure LogRec where
  cat     : Nat
  code    : Nat
  page    : Nat
  sub     : Nat := 0xFFFF
  part    : Nat := 0xFF
  payload : Option (List Byte) := none
  opens   : Bool := false
  closes  : Option Nat := none
  flags   : Nat := 0
deriving DecidableEq, Repr

/-- Write a clinker entry (R460, R462): its SEQ, the time, the module epoch, its flags, its payload (open where the spec gives
none, DESIGN CHOICE, log entry 7), its chain; then the event and the interrupt for it. -/
def clinker (s : State) (r : LogRec) : State :=
  let fr := Config.freeValue s.free
  let s := if r.payload.isNone && r.closes.isNone then { s with free := s.free + 1 } else s
  let c := s.cln
  let canOpen := r.opens && decide (c.opened.length < 256)
  let isClose := match r.closes with
    | some q => c.opened.contains q
    | none => false
  let st := rdF s (ftmPg + 0x104) 2 0
  let flags := (if canOpen then 1 else 0) + (if isClose then 2 else 0) + (if st = 2 ∨ st = 5 then 16 else 0) + (if c.inj then 8 else 0) + r.flags
  let pay := match r.closes with
    | some q => leBytes 8 q ++ (r.payload.getD [])
    | none => r.payload.getD (freeBytes 64 fr)
  let e0 : ClinkerEntry :=
    { seq := c.next, time := s.time, epoch := rdW s (sp0Pg + hEpoch), cat := BitVec.ofNat 8 r.cat,
      code := BitVec.ofNat 8 r.code, flags := BitVec.ofNat 16 flags,
      source := BitVec.ofNat 32 (r.sub * 65536 + r.page / 4096 % 65536), part := BitVec.ofNat 8 r.part,
      payload := pay, chain := [], good := true }
  let e := { e0 with chain := shake256 (chainEnd c ++ e0.head) 16 }
  let opened := (c.opened.filter (fun q => r.closes != some q)) ++ (if canOpen then [c.next] else [])
  let s := { s with cln := { clnAppend c e with next := c.next + 1, opened := opened } }
  clnInterrupt (queueEvent s r.cat e.seq) r.cat

/-- What an injected fault does: the clinker entries that it causes carry INJECTED (R458). -/
def injected (s : State) (f : State → State) : State :=
  let t := f { s with cln := { s.cln with inj := true } }
  { t with cln := { t.cln with inj := false } }

/-! ### SP (18_safety_security_clinker.md R439, R440, R447, R448) -/

/-- SP is restarting. -/
def spRestarting (s : State) : Bool := rdB s (sp0Pg + 0x100) 9

/-- SP is in SAFE. -/
def spSafe (s : State) : Bool := rdB s (sp0Pg + 0x100) 10

/-- Anti-rollback counter n. -/
def arc (s : State) (n : Nat) : Nat := (cGet (fun _ => 0) s.sp.arc n).toNat

/-- A counter is written only to a value higher than the one it holds (R447). -/
def raiseArc (s : State) (n v : Nat) : State :=
  if arc s n < v ∧ v < 2 ^ 32 then { s with sp := { s.sp with arc := cSet (fun _ => 0) s.sp.arc n (BitVec.ofNat 32 v) } } else s

/-- SP rewrites DEVICE_STATE, with SEQ one above counter 4, after a change of a spare or a notch (R448). -/
def rewriteDevice (s : State) : State := raiseArc s 4 (arc s 4 + 1)

end Sys2Proof.Machine
end

