-- ==== Sys2Proof/Machine/Tile.lean ====
section
/-!
DEFINITION. Tiles: threads and their registers, slots as a thread sees them (the shadows of tile tasks included, R165), tags and
claims (R160, R161, R214, R215), scratchpad bytes with their check bits (R223) and thread faults (R169).
-/
namespace Sys2Proof.Machine

/-! ### Threads and registers -/

def thKey (t th : Nat) : Nat := 64 * t + th

/-- Thread th of tile t. -/
def thrOf (s : State) (t th : Nat) : Thread := cGet (fun _ => {}) s.tl.thr (thKey t th)

def setThr (s : State) (t th : Nat) (x : Thread) : State :=
  { s with tl := { s.tl with thr := cSet (fun _ => {}) s.tl.thr (thKey t th) x } }

/-- A register by its specifier (R179): 0 to 31 s0 to s31, 32 to 39 a0 to a7. -/
def xreg (s : State) (t th r : Nat) : W64 := cGet (fun _ => 0) s.tl.xr (64 * thKey t th + r)

/-- Write a register: no result issued earlier is awaited on it any more (registers are never written out of program order, R157). -/
def setXreg (s : State) (t th r : Nat) (v : W64) : State :=
  { s with tl := { s.tl with
      xr := cSet (fun _ => 0) s.tl.xr (64 * thKey t th + r) v
      pend := cSet (fun _ => 0) s.tl.pend (64 * thKey t th + r) 0 } }

/-- A predicate. -/
def preg (s : State) (t th p : Nat) : Bool := cGet (fun _ => false) s.tl.pr (4 * thKey t th + p)

def setPreg (s : State) (t th p : Nat) (b : Bool) : State :=
  { s with tl := { s.tl with pr := cSet (fun _ => false) s.tl.pr (4 * thKey t th + p) b } }

/-- The mark of the latest operation whose result is pending on a register, 0 when none is (R157). -/
def pendOf (s : State) (t th r : Nat) : Nat := cGet (fun _ => 0) s.tl.pend (64 * thKey t th + r)

def setPend (s : State) (t th r n : Nat) : State :=
  { s with tl := { s.tl with pend := cSet (fun _ => 0) s.tl.pend (64 * thKey t th + r) n } }

/-- The marks of operations whose results come later: a Bellows or stash operation and a Tongs operation by their numbers, a vote, an
operation on a task. -/
def markBlw (id : Nat) : Nat := 4 * id + 1
def markTng (id : Nat) : Nat := 4 * id + 2
def markVote : Nat := 3
def markTask : Nat := 4

/-- An operation that will write register r at its completion has issued: a result that an earlier one still owes r will be dropped
(registers are never written out of program order, R157). -/
def addPend (s : State) (t th r mark : Nat) : State := setPend s t th r mark

/-- A result arrives: written when the thread is still in the run that issued the operation and no later operation has written or will write
the register, and dropped otherwise (R156, R157, R171). -/
def lateWrite (s : State) (t th gen r mark : Nat) (v : W64) : State :=
  if (thrOf s t th).gen = gen ∧ pendOf s t th r = mark then setXreg s t th r v else s

/-- The keys of one thread's registers, predicates and pending results. -/
def clearThread (s : State) (t th : Nat) : State :=
  let k := thKey t th
  { s with tl := { s.tl with
      xr := cDrop s.tl.xr (fun i => i / 64 == k)
      pr := cDrop s.tl.pr (fun i => i / 4 == k)
      pend := cDrop s.tl.pend (fun i => i / 64 == k) } }

/-- At least one thread of the tile is not HALTED: TILE_STAT.RUNNING (R175). -/
def tileRunning (s : State) (t : Nat) : Bool :=
  s.tl.thr.any (fun p => decide (p.1 / 64 = t) && (p.2.st != ThrState.halted))

/-- The number of threads of the tile that are not HALTED. -/
def runningThreads (s : State) (t : Nat) : Nat :=
  (s.tl.thr.filter (fun p => decide (p.1 / 64 = t) && (p.2.st != ThrState.halted))).length

/-- Change the state of every thread of a tile. -/
def mapThreads (s : State) (t : Nat) (f : Nat → Thread → Thread) : State :=
  { s with tl := { s.tl with
      thr := (s.tl.thr.map (fun p => if p.1 / 64 = t then (p.1, f (p.1 % 64) p.2) else p)).filter
        (fun p => p.2 != ({} : Thread)) } }

/-! ### Tile status bits -/

def tileFailed (s : State) (t : Nat) : Bool := rdB s (tilePg t 0 + 0x104) 4
def tileResetting (s : State) (t : Nat) : Bool := rdB s (tilePg t 0 + 0x104) 3

/-- The tile's epoch (R390). -/
def tileEpoch (s : State) (t : Nat) : Nat := rd s (tilePg t 0 + hEpoch)

def codeBase (s : State) (t : Nat) : Nat := rdF s (tilePg t 0 + 0x110) 14 0
def codeSlots (s : State) (t : Nat) : Nat := rdF s (tilePg t 0 + 0x110) 30 16
def poolBase (s : State) (t : Nat) : Nat := rdF s (tilePg t 0 + 0x114) 14 0
def poolSlots (s : State) (t : Nat) : Nat := rdF s (tilePg t 0 + 0x114) 30 16

/-- The slot lies in the shadow pool (R164). -/
def inPool (s : State) (t slot : Nat) : Bool :=
  decide (poolBase s t ≤ slot ∧ slot < poolBase s t + poolSlots s t)

/-- The slot lies in the code region (R154). -/
def inCode (s : State) (t slot : Nat) : Bool :=
  decide (codeBase s t ≤ slot ∧ slot < codeBase s t + codeSlots s t)

/-! ### Tile tasks -/

def taskOf (s : State) (t k : Nat) : Option Task := cGet (fun _ => none) s.tl.tasks (4 * t + k)

def setTask (s : State) (t k : Nat) (x : Option Task) : State :=
  { s with tl := { s.tl with tasks := cSet (fun _ => none) s.tl.tasks (4 * t + k) x } }

/-- The pool slot that holds a task's shadow of a slot. -/
def shadowOf (x : Task) (slot : Nat) : Option Nat := (x.shadows.find? (fun p => p.1 == slot)).map (·.2)

/-- The slot that a thread of task k sees under a slot number (R165). -/
def viewSlot (s : State) (t : Nat) (k : Option (Fin 4)) (slot : Nat) : Nat :=
  match k with
  | none => slot
  | some k =>
    match taskOf s t k with
    | none => slot
    | some x => (shadowOf x slot).getD slot

/-- An open task other than k shadows the slot (R165). -/
def shadowedByOther (s : State) (t : Nat) (k : Option (Fin 4)) (slot : Nat) : Bool :=
  (List.range 4).any (fun j =>
    (match k with
     | some k => k.val != j
     | none => true) &&
    (match taskOf s t j with
     | some x => (shadowOf x slot).isSome
     | none => false))

/-- The pool slots in use by the open tasks of a tile. -/
def poolUsed (s : State) (t : Nat) : List Nat :=
  ((List.range 4).map (fun j => match taskOf s t j with
    | some x => x.shadows.map (·.2)
    | none => [])).flatten

/-- The shadow slots that the open tasks of a tile have reserved. -/
def poolReserved (s : State) (t : Nat) : Nat :=
  sumNat ((List.range 4).map (fun j => match taskOf s t j with
    | some x => x.reserved
    | none => 0))

/-- The lowest pool slot in no use. -/
def freePoolSlot (s : State) (t : Nat) : Option Nat :=
  (rangeFrom (poolBase s t) (poolSlots s t)).find? (fun p => !(poolUsed s t).contains p)

/-! ### Scratchpad bytes and tags, by slot as stored -/

def spByte (s : State) (t a : Nat) : Byte := cGet (fun _ => 0) s.tl.spad (2 ^ 24 * t + a)

def setSpByte (s : State) (t a : Nat) (b : Byte) : State :=
  { s with tl := { s.tl with spad := cSet (fun _ => 0) s.tl.spad (2 ^ 24 * t + a) b } }

def tagRaw (s : State) (t slot : Nat) : Tag := cGet (fun _ => .empty) s.tl.tags (32768 * t + slot)

/-- Threads that await the slot are examined again (R155, R161). -/
def wakeSlot (s : State) (t slot : Nat) : State :=
  mapThreads s t (fun _ x => if x.st = .blockedSlot slot then { x with st := .runnable } else x)

/-- A slot has left FULL: the prefetch window entries that filled it no longer await it, and one whose slots have all left is
released (09_bellows.md R236). -/
def leaveFull (s : State) (t slot : Nat) : State :=
  let l := (cGet (fun _ => []) s.blw.window t).map (fun e =>
    if e.filled then { e with left := e.left.filter (fun x => x != slot) } else e)
  { s with blw := { s.blw with
      window := cSet (fun _ => []) s.blw.window t (l.filter (fun e => !(e.filled && e.left.isEmpty))) } }

/-- Set a stored slot's tag; a slot that becomes RETAINED sets SPAD_RET_EPOCH (R220). -/
def setTagRaw (s : State) (t slot : Nat) (g : Tag) : State :=
  let old := tagRaw s t slot
  let s := { s with tl := { s.tl with tags := cSet (fun _ => .empty) s.tl.tags (32768 * t + slot) g } }
  let s := if old = .full ∧ g ≠ .full then leaveFull s t slot else s
  if g = .retained ∧ old ≠ .retained ∧ inPool s t slot = false then wr s (tilePg t 5 + 0x108) (tileEpoch s t) else s

def claimOf (s : State) (t slot : Nat) : Claim := cGet (fun _ => {}) s.tl.claims (32768 * t + slot)

def setClaim (s : State) (t slot : Nat) (c : Claim) : State :=
  { s with tl := { s.tl with claims := cSet (fun _ => {}) s.tl.claims (32768 * t + slot) c } }

/-! ### Slots as a thread of task k sees them -/

/-- The tag that the thread sees. -/
def tagAt (s : State) (t : Nat) (k : Option (Fin 4)) (slot : Nat) : Tag := tagRaw s t (viewSlot s t k slot)

/-- Set the tag that the thread sees, and examine the waiting threads again. -/
def setTag (s : State) (t : Nat) (k : Option (Fin 4)) (slot : Nat) (g : Tag) : State :=
  wakeSlot (setTagRaw s t (viewSlot s t k slot) g) t slot

/-- The stored address of a byte that the thread sees. -/
def viewAddr (s : State) (t : Nat) (k : Option (Fin 4)) (a : Nat) : Nat :=
  512 * viewSlot s t k (a / 512) + a % 512

/-- A byte that the thread sees. -/
def seeByte (s : State) (t : Nat) (k : Option (Fin 4)) (a : Nat) : Byte := spByte s t (viewAddr s t k a)

/-- n bytes that the thread sees. -/
def seeBytes (s : State) (t : Nat) (k : Option (Fin 4)) (a n : Nat) : List Byte :=
  (rangeFrom a n).map (seeByte s t k)

/-- A little-endian number of n bytes that the thread sees. -/
def seeNat (s : State) (t : Nat) (k : Option (Fin 4)) (a n : Nat) : Nat := leNat (seeBytes s t k a n)

/-- A write of one byte that hits a running code region is dropped (R154). -/
def codeHit (s : State) (t a : Nat) : Bool := inCode s t (a / 512) && tileRunning s t

/-- Store one byte where the thread sees it; dropped in a running code region (R154). -/
def pokeByte (s : State) (t : Nat) (k : Option (Fin 4)) (a : Nat) (b : Byte) : State :=
  if codeHit s t (viewAddr s t k a) then s else setSpByte s t (viewAddr s t k a) b

/-- Store bytes where the thread sees them. -/
def pokeAll (s : State) (t : Nat) (k : Option (Fin 4)) : Nat → List Byte → State
  | _, [] => s
  | a, b :: bs => pokeAll (pokeByte s t k a b) t k (a + 1) bs

/-- Some byte of the range lies in a running code region. -/
def rangeHitsCode (s : State) (t : Nat) (k : Option (Fin 4)) (a n : Nat) : Bool :=
  n != 0 && (rangeFrom (a / 512) ((a + n - 1) / 512 + 1 - a / 512)).any (fun sl => inCode s t (viewSlot s t k sl)) &&
    tileRunning s t

/-- Store bytes; a write that the running code region drops sets CODE_WR (R154). -/
def pokeBytes (s : State) (t : Nat) (k : Option (Fin 4)) (a : Nat) (bs : List Byte) : State :=
  let s' := pokeAll s t k a bs
  if rangeHitsCode s t k a bs.length then intSet s' (tilePg t 0) 64 else s'

/-! ### Slot operands (R160) -/

/-- How an operation uses a slot: untagged read, untagged write, read, consume or produce operand. -/
inductive Use where
  | look | poke | read | consume | produce
deriving DecidableEq, Repr

/-- The use changes the slot's bytes or its tag. -/
def Use.changes : Use → Bool
  | .look => false
  | .read => false
  | _ => true

/-- The slot allows the use now (R160, R161, R165): its tag satisfies the use, no access in flight has claimed it, and, for a
change, no other open task shadows it. -/
def useOk (s : State) (t : Nat) (k : Option (Fin 4)) (slot : Nat) (u : Use) : Bool :=
  let v := viewSlot s t k slot
  let c := claimOf s t v
  let free := c.produce == 0 && c.consume == 0
  !(u.changes && shadowedByOther s t k slot) &&
  (match u with
   | .look | .poke => true
   | .read => (tagRaw s t v == Tag.full || tagRaw s t v == Tag.retained) && c.consume == 0
   | .consume => tagRaw s t v == Tag.full && free
   | .produce => tagRaw s t v == Tag.empty && free)

/-- The first slot, in operand order, that does not allow its use (R160). -/
def firstBlocked (s : State) (t : Nat) (k : Option (Fin 4)) : List (Nat × Use) → Option Nat
  | [] => none
  | (slot, u) :: us => if useOk s t k slot u then firstBlocked s t k us else some slot

/-- Copy a stored slot's bytes and tag. -/
def copySlot (s : State) (t src dst : Nat) : State :=
  let bs := (rangeFrom (512 * src) 512).map (spByte s t)
  let s := { s with tl := { s.tl with spad := cSetList (fun _ => 0) s.tl.spad (2 ^ 24 * t + 512 * dst) bs } }
  { s with tl := { s.tl with tags := cSet (fun _ => .empty) s.tl.tags (32768 * t + dst) (tagRaw s t src) } }

/-- Give task k a shadow of the slot, if it has none: none when its reservation is used up (R165, R166). -/
def shadowSlot (s : State) (t : Nat) (k : Fin 4) (slot : Nat) : Option State :=
  match taskOf s t k with
  | none => some s
  | some x =>
    if (shadowOf x slot).isSome then some s
    else if x.shadows.length ≥ x.reserved then none
    else
      match freePoolSlot s t with
      | none => none
      | some p => some (setTask (copySlot s t slot p) t k (some { x with shadows := x.shadows ++ [(slot, p)] }))

/-- Give a member's task the shadows that an operation's changes need (R165). -/
def shadowAll (s : State) (t : Nat) (k : Option (Fin 4)) : List (Nat × Use) → Option State
  | [] => some s
  | (slot, u) :: us =>
    match k with
    | none => some s
    | some j => if u.changes then (shadowSlot s t j slot).bind (fun s => shadowAll s t k us) else shadowAll s t k us

/-- The slots of a byte range, each with one use. -/
def rangeUses (a n : Nat) (u : Use) : List (Nat × Use) :=
  if n = 0 then [] else (rangeFrom (a / 512) ((a + n - 1) / 512 + 1 - a / 512)).map (fun sl => (sl, u))

/-- The tag changes of completed accesses: a produced slot is FULL, a consumed slot EMPTY (R215). -/
def settleTags (s : State) (t : Nat) (k : Option (Fin 4)) : List (Nat × Use) → State
  | [] => s
  | (slot, .produce) :: us => settleTags (setTag s t k slot .full) t k us
  | (slot, .consume) :: us => settleTags (setTag s t k slot .empty) t k us
  | _ :: us => settleTags s t k us

/-- Claim slots for an access in flight (R161). -/
def claimSlots (s : State) (t : Nat) (k : Option (Fin 4)) : List (Nat × Use) → State
  | [] => s
  | (slot, u) :: us =>
    let v := viewSlot s t k slot
    let c := claimOf s t v
    claimSlots (match u with
      | .produce => setClaim s t v { c with produce := c.produce + 1 }
      | .consume => setClaim s t v { c with consume := c.consume + 1 }
      | _ => s) t k us

/-- End the claims of an access in flight, with its tag changes: a produced slot is FULL; a consumed slot becomes EMPTY only if it
is still FULL (R216). -/
def releaseSlots (s : State) (t : Nat) (k : Option (Fin 4)) : List (Nat × Use) → State
  | [] => s
  | (slot, u) :: us =>
    let v := viewSlot s t k slot
    let c := claimOf s t v
    releaseSlots (match u with
      | .produce => setTag (setClaim s t v { c with produce := c.produce - 1 }) t k slot .full
      | .consume =>
        let s := setClaim s t v { c with consume := c.consume - 1 }
        if tagRaw s t v = .full then setTag s t k slot .empty else s
      | _ => s) t k us

/-- Drop the claims of an access in flight and leave the tags. -/
def dropClaims (s : State) (t : Nat) (k : Option (Fin 4)) : List (Nat × Use) → State
  | [] => s
  | (slot, u) :: us =>
    let v := viewSlot s t k slot
    let c := claimOf s t v
    dropClaims (match u with
      | .produce => wakeSlot (setClaim s t v { c with produce := c.produce - 1 }) t slot
      | .consume => wakeSlot (setClaim s t v { c with consume := c.consume - 1 }) t slot
      | _ => s) t k us

/-- A request has failed: the slots it claimed stay claimed (R234, R309). -/
def strandSlots (s : State) (t : Nat) (k : Option (Fin 4)) (slots : List Nat) : State :=
  { s with blw := { s.blw with
      stranded := (s.blw.stranded ++ slots.map (fun x => 32768 * t + viewSlot s t k x)).eraseDups } }

/-- SLOT.TAG sets a stranded slot EMPTY: its claim is gone and it may be used again (R234, R309). -/
def unstrand (s : State) (t : Nat) (k : Option (Fin 4)) (slot : Nat) : State :=
  let v := viewSlot s t k slot
  if s.blw.stranded.contains (32768 * t + v) then
    let s := { s with blw := { s.blw with
        stranded := s.blw.stranded.filter (fun x => x != 32768 * t + v)
        awaits := cSet (fun _ => 0) s.blw.awaits (32768 * t + v) 0 } }
    wakeSlot (setClaim s t v {}) t slot
  else s

/-! ### Check bits (R223) and fault injection (R458) -/

/-- One event of an injection site's kind at a page: while ARM names one of the sites, AFTER events pass and the next one is
injected, which clears ARM. The site injected, if any. -/
def injectEvent (s : State) (pg : Nat) (sites : List Nat) : Option Nat × State :=
  let v := rd s (pg + hInj)
  let site := bitsOf v 23 20
  if v.testBit 31 && sites.contains site then
    if bitsOf v 15 0 = 0 then (some site, wrB s (pg + hInj) 31 false)
    else (none, wrF s (pg + hInj) 15 0 (bitsOf v 15 0 - 1))
  else (none, s)

/-- The bank of a scratchpad address (R213). -/
def spadBank (a : Nat) : Nat := (a / 64 % 32) ^^^ (a / 2048 % 32)

/-- Count, log and signal what the check bits of a scratchpad read report; cls is the reader's class (R221, R223, R225). -/
def spadEccNote (s : State) (t cls : Nat) : Ecc → State
  | .clean => s
  | .corrected a =>
    latchBlk (inc (intSet s (tilePg t 5) 1) (tilePg t 5 + 0x148)) (tilePg t 5) (cls * 65536 + spadBank a * 256 + 1) a
  | .uncorrectable a =>
    latchBlk (inc (intSet s (tilePg t 5) 2) (tilePg t 5 + 0x14C)) (tilePg t 5) (cls * 65536 + spadBank a * 256 + 2) a

/-- The address lies in one of the ranges. -/
def inRanges (rs : List (Nat × Nat)) (a : Nat) : Bool := rs.any (fun r => decide (r.1 ≤ a ∧ a < r.1 + r.2))

/-- What a read of scratchpad ranges meets: what the command says of an address among them, or an injected fault at the first
byte (R458). -/
def spadEcc (s : State) (t : Nat) (rs : List (Nat × Nat)) (e : Ecc) : Ecc × State :=
  match injectEvent s (tilePg t 5) [1, 2] with
  | (some 1, s) => (.corrected (rs.headD (0, 0)).1, s)
  | (some _, s) => (.uncorrectable (rs.headD (0, 0)).1, s)
  | (none, s) =>
    match e with
    | .clean => (.clean, s)
    | .corrected a => (if inRanges rs a then e else .clean, s)
    | .uncorrectable a => (if inRanges rs a then e else .clean, s)

/-- Bytes read by the VU, the SFU or the slot unit: a line with an uncorrectable error reads as all ones (R223). -/
def eccByte (e : Ecc) (a : Nat) (b : Byte) : Byte :=
  match e with
  | .uncorrectable x => if x / 64 = a / 64 then 0xFF else b
  | _ => b

/-- n bytes that the thread sees, through the check bits. -/
def loadBytes (s : State) (t : Nat) (k : Option (Fin 4)) (e : Ecc) (a n : Nat) : List Byte :=
  (rangeFrom a n).map (fun x => eccByte e x (seeByte s t k x))

/-- The same as a little-endian number. -/
def loadNat (s : State) (t : Nat) (k : Option (Fin 4)) (e : Ecc) (a n : Nat) : Nat := leNat (loadBytes s t k e a n)

/-! ### Thread faults (R169) and starts (R156) -/

/-- Mark a task FAILED (R166): BLK_INT_STAT.TASK_FAIL. -/
def failTask (s : State) (t : Nat) (k : Fin 4) : State :=
  match taskOf s t k with
  | some x => if x.failed then s else intSet (setTask s t k (some { x with failed := true })) (tilePg t 0) 4
  | none => s

/-- A thread fault: FAULTED, the cause and the PC recorded, THR_FAULT set and the error latched; a member's task FAILED. -/
def threadFault (s : State) (t th cause pc : Nat) : State :=
  let x := thrOf s t th
  let s := setThr s t th { x with st := .faulted, fault := BitVec.ofNat 8 cause, pc := BitVec.ofNat 32 pc }
  let s := intSet s (tilePg t 0) 1
  let s := latchBlk s (tilePg t 0) (th * 256 + cause) pc
  match x.task with
  | some k => failTask s t k
  | none => s

/-- The fault that a PC takes when the thread would fetch at it (R154). -/
def pcFault (s : State) (t pc : Nat) : Option Nat :=
  if pc ≥ 512 * codeSlots s t then some 4 else if pc % 8 ≠ 0 then some 5 else none

/-- The thread is HALTED and the tile takes starts: not failed, not resetting (R156, R172). -/
def canStart (s : State) (t th : Nat) : Bool :=
  (thrOf s t th).st == ThrState.halted && !(tileFailed s t) && !(tileResetting s t)

/-- Start a thread: PC and a0 loaded, every other register and predicate 0; a PC outside the code region or not a multiple of 8
faults at once (R154, R156). A start of a thread that is not HALTED is ignored and counted. -/
def startThread (s : State) (t th pc : Nat) (arg : W64) : State :=
  if canStart s t th then
    let x := thrOf s t th
    let s := clearThread s t th
    let s := setXreg s t th 32 arg
    let s := setThr s t th { st := .runnable, pc := BitVec.ofNat 32 pc, task := x.task, gen := x.gen + 1 }
    match pcFault s t (pc % 2 ^ 32) with
    | some c => threadFault s t th c (pc % 2 ^ 32)
    | none => s
  else inc s (tilePg t 0 + 0x154)

end Sys2Proof.Machine
end

