-- ==== Sys2Proof/Machine/Detect.lean ====
section
/-!
DEFINITION. Quench detection (05_update_pass_quench_temper.md R129 to R131): the sticky flag and cause bits, the first-location
record, and detections held for the next step.
-/
namespace Sys2Proof.Machine

/-- The QCH_ page of a tile. -/
def qchTilePg (t : Nat) : Nat := tilePg t 9

/-- The tile's layer tag (R131, R149). -/
def layerTag (s : State) (t : Nat) : Nat := rdF s (qchTilePg t + 0x104) 15 0

/-- Earlier in the order of R131: stamp, then logical tile, then cause bit. -/
def detEarlier (stamp tile cause stamp' tile' cause' : Nat) : Bool :=
  decide (stamp < stamp') ||
    (stamp == stamp' && (decide (tile < tile') || (tile == tile' && decide (cause < cause'))))

/-- The number of the lowest one bit of a byte. -/
def lowBit (v : Nat) : Nat := ((List.range 8).find? (fun i => v.testBit i)).getD 8

/-- Write the first-location record of the unit on page pg, with its step (R131). -/
def setFirst (s : State) (pg : Nat) (d : Detection) (step : Nat) : State :=
  wr64 (wr64 (wr64 (wr (wr s (pg + 0x160) (d.tile * 65536 + 2 ^ d.cause)) (pg + 0x164) d.layer) (pg + 0x168) d.index)
    (pg + 0x170) d.stamp) (pg + 0x178) step

/-- A detection reaches the unit on page pg: flag, cause bit, first location (R129, R131). -/
def applyDetection (s : State) (pg : Nat) (d : Detection) (step : Nat) : State :=
  let first := !(rdB s (pg + 0x108) 0) ||
    detEarlier d.stamp d.tile d.cause (rd64 s (pg + 0x170)) (rdF s (pg + 0x160) 31 16) (lowBit (rdF s (pg + 0x160) 7 0))
  let s := if first then setFirst s pg d step else s
  let s := wrF (wrB s (pg + 0x108) 0 true) (pg + 0x108) 31 24 (rdF s (pg + 0x108) 31 24 ||| 2 ^ d.cause)
  match d.phys with
  | some t => wrF s (qchTilePg t + 0x104) 23 16 (rdF s (qchTilePg t + 0x104) 23 16 ||| 2 ^ d.cause)
  | none => s

/-- The detections that slice sl's unit holds for the next step. -/
def heldAt (s : State) (sl : Nat) : List Detection := cGet (fun _ => []) s.qch.held sl

def setHeld (s : State) (sl : Nat) (l : List Detection) : State :=
  { s with qch := { s.qch with held := cSet (fun _ => []) s.qch.held sl l } }

/-- A detection for partition p: held while the vote is cast and its outcome is awaited, and applied otherwise (R129, R130). -/
def detectFor (s : State) (p : Nat) (d : Detection) : State :=
  let sl := lowSlice s p
  let pg := qchPg sl
  let s := intSet s pg 1
  if rdF s (pg + 0x108) 7 6 = 2 then setHeld s sl (heldAt s sl ++ [d])
  else applyDetection s pg d (rd64 s (pg + 0x110))

/-- A tile's own detection: GRAD, UPDATE, ANVIL and TEMPER. The tile counts and signals it; a tile of no partition sets only its
own cause bit (R129, R149, R502). -/
def detectTile (s : State) (t cause index : Nat) : State :=
  let s := inc (intSet s (qchTilePg t) 1) (qchTilePg t + 0x108)
  let d : Detection := { cause := cause, phys := some t, tile := logicalOf s t, layer := layerTag s t, index := index, stamp := asStamp s.time }
  match partOfTile s t with
  | some p => detectFor s p d
  | none => wrF s (qchTilePg t + 0x104) 23 16 (rdF s (qchTilePg t + 0x104) 23 16 ||| 2 ^ cause)

/-- A detection of the partition's own: STASH, SHADOW, REMOTE and SOFT, with TILE 0xFFFF and the last-closed layer tag (R131). -/
def detectPart (s : State) (p cause index : Nat) : State :=
  detectFor s p { cause := cause, phys := none, tile := 0xFFFF, layer := cGet (fun _ => 0) s.qch.lastTag (lowSlice s p),
                  index := index, stamp := asStamp s.time }

end Sys2Proof.Machine
end

