-- ==== Sys2Proof/Machine/Operands.lean ====
section
/-!
DEFINITION. The operation word and the issue of an operation (07_tile_operations.md R177 to R181, 06_tiles_and_threads.md R154,
R157): the fields of every form, the checks that fault the thread, the guard, and the ways in which an operation leaves its
thread.
-/
namespace Sys2Proof.Machine

/-! ### Fields of the word (R177, R180) -/

def fOpc (w : Nat) : Nat := bitsOf w 63 56
def fUnit (w : Nat) : Nat := bitsOf w 55 52
def fPsel (w : Nat) : Nat := bitsOf w 51 50
def fPneg (w : Nat) : Bool := w.testBit 49
def fPen (w : Nat) : Bool := w.testBit 48
/-- D of forms R, I, J, M, T and most of X. -/
def fD (w : Nat) : Nat := bitsOf w 47 42
/-- A of forms R, I, C, J. -/
def fA (w : Nat) : Nat := bitsOf w 41 36
/-- B of forms R and C. -/
def fB (w : Nat) : Nat := bitsOf w 35 30
/-- IMM of forms I and C, as its 36 bits. -/
def fImm36 (w : Nat) : Nat := bitsOf w 35 0
/-- IMM, sign-extended. -/
def fImm (w : Nat) : W64 := BitVec.ofNat 64 (ofSigned 64 (toSigned 36 (fImm36 w)))
/-- COND of form C. -/
def fCond (w : Nat) : Nat := bitsOf w 45 42
/-- PD of form C and of PLOG. -/
def fPd (w : Nat) : Nat := bitsOf w 47 46
/-- OFF of form J. -/
def fOffJ (w : Nat) : Nat := bitsOf w 31 0
/-- AB of form M, as a register specifier. -/
def fAb (w : Nat) : Nat := 32 + bitsOf w 41 39
def fSize (w : Nat) : Nat := bitsOf w 38 37
def fTag (w : Nat) : Nat := bitsOf w 36 35
def fSext (w : Nat) : Bool := w.testBit 34
/-- OFF of form M, sign-extended to 64 bits. -/
def fOffM (w : Nat) : W64 := BitVec.ofNat 64 (ofSigned 64 (toSigned 24 (bitsOf w 23 0)))
/-- The address registers of forms V and S, as register specifiers. -/
def fAd (w : Nat) : Nat := 32 + bitsOf w 47 45
def fAa (w : Nat) : Nat := 32 + bitsOf w 44 42
def fAbV (w : Nat) : Nat := 32 + bitsOf w 41 39
def fAc (w : Nat) : Nat := 32 + bitsOf w 38 36
def fSn (w : Nat) : Nat := bitsOf w 35 31
def fSx (w : Nat) : Nat := bitsOf w 30 26
def fFs (w : Nat) : Nat := bitsOf w 25 22
def fFd (w : Nat) : Nat := bitsOf w 21 18
def fGrad (w : Nat) : Bool := w.testBit 17
def fCons (w n : Nat) : Bool := w.testBit n
def fFnV (w : Nat) : Nat := bitsOf w 12 8
/-- Form S. -/
def fSnS (w : Nat) : Nat := bitsOf w 41 37
def fV (w : Nat) : Nat := bitsOf w 36 31
def fDk (w : Nat) : Nat := bitsOf w 30 29
def fSk (w : Nat) : Nat := bitsOf w 28 27
/-- Form T. -/
def fMod (w : Nat) : Nat := bitsOf w 41 36
def fAr (w : Nat) : Nat := 32 + bitsOf w 35 33
def fAl (w : Nat) : Nat := 32 + bitsOf w 32 30
def fN (w : Nat) : Nat := bitsOf w 29 24
def fVal (w : Nat) : Nat := bitsOf w 23 18
def fType (w : Nat) : Nat := bitsOf w 17 14
def fLk (w : Nat) : Nat := bitsOf w 13 12

/-- A 6-bit register specifier names a register (R179). -/
def specOk (r : Nat) : Bool := decide (r < 40)

/-- A bit range of the word is zero, as reserved bits are. -/
def zero (w hi lo : Nat) : Bool := bitsOf w hi lo == 0

/-- The unit and opcode pairs that name an operation (R182, R185, R187, R190 to R192, R194 to R197). -/
def opDefined (u o : Nat) : Bool :=
  match u with
  | 0 => (o ≤ 0x0D) || (decide (0x11 ≤ o) && decide (o ≤ 0x17)) || (decide (0x20 ≤ o) && decide (o ≤ 0x22)) ||
      (decide (0x30 ≤ o) && decide (o ≤ 0x32)) || (decide (0x40 ≤ o) && decide (o ≤ 0x42)) || o == 0x50 || o == 0x51
  | 1 => (decide (1 ≤ o) && decide (o ≤ 8)) || o == 0x10 || (decide (0x18 ≤ o) && decide (o ≤ 0x1A)) ||
      (decide (0x20 ≤ o) && decide (o ≤ 0x22)) || o == 0x28 || o == 0x30 || o == 0x38
  | 2 => decide (1 ≤ o) && decide (o ≤ 3)
  | 3 => o == 1
  | 4 => o == 1 || o == 2 || o == 0x10 || o == 0x11
  | 5 => (decide (1 ≤ o) && decide (o ≤ 3)) || (decide (0x10 ≤ o) && decide (o ≤ 0x12)) || o == 0x20 || o == 0x30
  | 6 => o == 1 || o == 2 || o == 0x10 || o == 0x11 || o == 0x20 || o == 0x21
  | 7 => o == 1 || o == 2 || (decide (0x10 ≤ o) && decide (o ≤ 0x13)) || (decide (0x20 ≤ o) && decide (o ≤ 0x24)) ||
      o == 0x30 || o == 0x3F
  | _ => false

/-! ### Issue -/

/-- How an operation leaves its thread: it retires and the PC moves on; it sets the PC; it does not issue and the thread awaits a
slot (R160); it does not issue and nothing changes; it does not issue and the thread is BLOCKED_SYNC; it faults the thread (R181). -/
inductive OpRes where
  | done (s : State)
  | jump (s : State) (pc : Nat)
  | blocked (slot : Nat)
  | wait
  | sync (w : SyncWait)
  | fault (cause : Nat)
deriving DecidableEq, Repr

/-- The operation at issue: tile, thread, word, what the check bits report. -/
structure OpCtx where
  t   : Nat
  th  : Nat
  w   : Nat
  ecc : Ecc
deriving DecidableEq, Repr

/-- The thread's task. -/
def OpCtx.task (c : OpCtx) (s : State) : Option (Fin 4) := (thrOf s c.t c.th).task

/-- An operation has issued: counted, and the PC set unless the operation's own effect moved the thread on. -/
def retire (s : State) (t th pc : Nat) : State :=
  inc64 (setThr s t th { thrOf s t th with pc := BitVec.ofNat 32 pc }) (tilePg t 0 + 0x138) 1

/-- The guard holds (R177, R178). -/
def guardOk (s : State) (t th w : Nat) : Bool :=
  !(fPen w) || (preg s t th (fPsel w) != fPneg w)

/-- No result is pending on any register that the operation reads (R157). -/
def regsReady (s : State) (t th : Nat) (rs : List Nat) : Bool := rs.all (fun r => pendOf s t th r == 0)

/-- Issue an operation of a row: mn is the row's mnemonic, (u, o) its unit and opcode, legal its check of reserved bits and
values, regs the registers it reads, and body its checks of operands and its effect. A thread that is not RUNNABLE, or
that waits on a pending result, does not issue (R157); a PC outside the code region or misaligned, a reserved word, or an operand
that is not allowed faults the thread; a false guard issues without effect (R178). -/
def issueOp (mn : String) (u o : Nat) (legal : Nat → Bool) (regs : Nat → List Nat) (i : Issue) (s : State)
    (body : OpCtx → State → OpRes) : Out :=
  let s := tick s i.now
  let t := i.tile.val
  let th := i.thr.val
  let w := i.word.toNat
  let x := thrOf s t th
  let pc := x.pc.toNat
  if x.st ≠ .runnable then .next s
  else
    match pcFault s t pc with
    | some c => .next (threadFault s t th c pc)
    | none =>
      if opDefined (fUnit w) (fOpc w) = false then .next (threadFault s t th 1 pc)
      else if fUnit w ≠ u ∨ fOpc w ≠ o then .refused (.otherRow mn)
      else if legal w = false ∨ (fPen w = false ∧ bitsOf w 51 49 ≠ 0) then .next (threadFault s t th 2 pc)
      else if regsReady s t th (regs w) = false then .next s
      else if guardOk s t th w = false then .next (retire s t th (pc + 8))
      else
        match body { t := t, th := th, w := w, ecc := i.ecc } s with
        | .done s' => .next (retire s' t th (pc + 8))
        | .jump s' pc' => .next (retire s' t th pc')
        | .blocked slot => .next (setThr s t th { x with st := .blockedSlot slot, since := s.time })
        | .wait => .next s
        | .sync w => .next (setThr s t th { x with st := .blockedSync w, since := s.time })
        | .fault c => .next (threadFault s t th c pc)

/-- An operation with slot operands: it waits for the first slot that does not allow its use (R160), takes the shadows that its
changes need (a reservation exceeded faults with cause 0x07, R166), and then has its effect. -/
def withSlots (c : OpCtx) (s : State) (uses : List (Nat × Use)) (eff : State → State) : OpRes :=
  let k := c.task s
  match firstBlocked s c.t k uses with
  | some slot => .blocked slot
  | none =>
    match shadowAll s c.t k uses with
    | none => .fault 7
    | some s => .done (eff s)

/-- A byte range of the scratchpad is outside the 16 MiB or touches the shadow pool (R181). -/
def badRange (s : State) (t a n : Nat) : Bool :=
  decide (a + n > 2 ^ 24) ||
    decide (n ≠ 0 ∧ poolSlots s t ≠ 0 ∧ a / 512 < poolBase s t + poolSlots s t ∧ poolBase s t ≤ (a + n - 1) / 512)

/-- Two byte ranges overlap. -/
def rangesOverlap (a n b m : Nat) : Bool := decide (a < b + m ∧ b < a + n)

end Sys2Proof.Machine
end

