-- ==== Sys2Proof/Machine/Numbers.lean ====
section
/-!
DEFINITION. Number formats, conversion and rounding (04_formats_rounding_spark.md R96 to R107, R109, R110): exact values,
round-to-nearest-even and stochastic rounding, the conversions of R102 and R103, and the FP32 and BF16 arithmetic of the VU.
-/
namespace Sys2Proof.Machine

/-- A floating-point value: NaN, an infinity with its sign, or the exact number (-1)^neg * m * 2^e. -/
inductive FpVal where
  | nan
  | inf (neg : Bool)
  | fin (neg : Bool) (m : Nat) (e : Int)
deriving DecidableEq, Repr

/-- A floating-point layout of R96. -/
structure FpFmt where
  ebits  : Nat
  fbits  : Nat
  bias   : Nat
  hasInf : Bool
  hasNan : Bool
  nan    : Nat
deriving DecidableEq, Repr

def fp32 : FpFmt := ⟨8, 23, 127, true, true, 0x7FC00000⟩
def bf16 : FpFmt := ⟨8, 7, 127, true, true, 0x7FC0⟩
def fp16 : FpFmt := ⟨5, 10, 15, true, true, 0x7E00⟩
def e4m3 : FpFmt := ⟨4, 3, 7, false, true, 0x7F⟩
def e5m2 : FpFmt := ⟨5, 2, 15, true, true, 0x7E⟩
def e3m2 : FpFmt := ⟨3, 2, 3, false, false, 0⟩
def e2m3 : FpFmt := ⟨2, 3, 1, false, false, 0⟩
def e2m1 : FpFmt := ⟨2, 1, 1, false, false, 0⟩

/-- The format codes of R60 and R96, as the element type and whether the operand is a microscaled block format. -/
inductive ElemFmt where
  | fp (f : FpFmt)
  | int8
  | int32
deriving DecidableEq, Repr

def elemOf : Nat → Option ElemFmt
  | 0x0 => some (.fp fp32)
  | 0x1 => some (.fp bf16)
  | 0x2 => some (.fp fp16)
  | 0x3 => some (.fp e4m3)
  | 0x4 => some (.fp e5m2)
  | 0x5 => some (.fp e4m3)
  | 0x6 => some (.fp e5m2)
  | 0x7 => some (.fp e3m2)
  | 0x8 => some (.fp e2m3)
  | 0x9 => some (.fp e2m1)
  | 0xA => some .int8
  | 0xB => some .int32
  | _ => none

/-- The MX formats: codes 0x5 to 0x9 (R96). -/
def isMx (code : Nat) : Bool := decide (5 ≤ code ∧ code ≤ 9)

/-- The width of an element in bits (R96). -/
def elemBits : Nat → Nat
  | 0x0 => 32
  | 0x1 => 16
  | 0x2 => 16
  | 0x7 => 6
  | 0x8 => 6
  | 0x9 => 4
  | 0xB => 32
  | _ => 8

/-- e_max of R101, by format code. -/
def mxEmax : Nat → Nat
  | 0x5 => 8
  | 0x6 => 15
  | 0x7 => 4
  | _ => 2

/-- The largest code of a finite magnitude. -/
def FpFmt.maxCode (f : FpFmt) : Nat :=
  if f.hasInf then (2 ^ f.ebits - 1) * 2 ^ f.fbits - 1
  else if f.hasNan then 2 ^ (f.ebits + f.fbits) - 2
  else 2 ^ (f.ebits + f.fbits) - 1

/-- The code of the sign bit. -/
def FpFmt.signCode (f : FpFmt) (neg : Bool) : Nat := if neg then 2 ^ (f.ebits + f.fbits) else 0

/-- The value that bits of a format hold (R96, R97, R98). -/
def FpFmt.decode (f : FpFmt) (bits : Nat) : FpVal :=
  let neg := bits.testBit (f.ebits + f.fbits)
  let mag := bits % 2 ^ (f.ebits + f.fbits)
  let x := mag / 2 ^ f.fbits
  let fr := mag % 2 ^ f.fbits
  if mag > f.maxCode then
    if f.hasInf && fr == 0 then .inf neg else .nan
  else if x = 0 then .fin neg fr (1 - (f.bias : Int) - f.fbits)
  else .fin neg (2 ^ f.fbits + fr) ((x : Int) - f.bias - f.fbits)

/-- num/den * 2^k as a pair of naturals. -/
def scaleRat (num den : Nat) (k : Int) : Nat × Nat :=
  if k ≥ 0 then (num * 2 ^ k.toNat, den) else (num, den * 2 ^ (-k).toNat)

/-- The floor of the base-2 logarithm of num/den, num > 0. -/
def ratLog2 (num den : Nat) : Int :=
  let g : Int := (Nat.log2 num : Int) - Nat.log2 den
  let p := scaleRat num den (-g)
  if p.1 ≥ p.2 then g else g - 1

/-- How a conversion rounds: to nearest even, or stochastically with 16 random bits (R104). -/
inductive Rounding where
  | rne
  | sr (u : Nat)
deriving DecidableEq, Repr

/-- Round the whole part of a magnitude lo + rem/den to an integer (R104). -/
def roundInt (r : Rounding) (lo rem den : Nat) : Nat :=
  match r with
  | .rne => if 2 * rem > den ∨ (2 * rem = den ∧ lo % 2 = 1) then lo + 1 else lo
  | .sr u => if rem * 65536 / den + u ≥ 65536 then lo + 1 else lo

/-- The magnitude code of num/den on the format's grid, extended beyond the largest finite value (R104). -/
def FpFmt.magCode (f : FpFmt) (r : Rounding) (num den : Nat) : Nat :=
  if num = 0 then 0 else
  let qmin : Int := 1 - (f.bias : Int) - f.fbits
  let q := max (ratLog2 num den - f.fbits) qmin
  let p := scaleRat num den (-q)
  (q - qmin).toNat * 2 ^ f.fbits + roundInt r (p.1 / p.2) (p.1 % p.2) p.2

/-- The code of a rounded finite value, with the range rules of R102. -/
def FpFmt.roundRat (f : FpFmt) (r : Rounding) (neg : Bool) (num den : Nat) : Nat :=
  let c := f.magCode r num den
  f.signCode neg +
    (if c > f.maxCode then (if f.hasInf then f.maxCode + 1 else f.maxCode) else c)

/-- Whether a stochastic conversion rounded away from zero (R121). -/
def FpFmt.srUp (f : FpFmt) (r : Rounding) (num den : Nat) : Bool :=
  decide (f.magCode r num den ≠ f.magCode (.sr 0) num den)

/-- A magnitude m * 2^e as a fraction. -/
def dyRat (m : Nat) (e : Int) : Nat × Nat := scaleRat m 1 e

/-- Conversion to a floating-point format (R102). -/
def FpFmt.convert (f : FpFmt) (r : Rounding) : FpVal → Nat
  | .nan => f.nan
  | .inf neg => if f.hasInf then f.signCode neg + (f.maxCode + 1) else f.nan
  | .fin neg m e => let p := dyRat m e; f.roundRat r neg p.1 p.2

/-- Conversion to a two's-complement integer of w bits (R103), as its code. -/
def intConvert (w : Nat) (r : Rounding) : FpVal → Nat
  | .nan => 0
  | .inf neg => if neg then 2 ^ (w - 1) else 2 ^ (w - 1) - 1
  | .fin neg m e =>
    let p := dyRat m e
    let n := roundInt r (p.1 / p.2) (p.1 % p.2) p.2
    if neg then ofSigned w (-(Int.ofNat (min n (2 ^ (w - 1))))) else min n (2 ^ (w - 1) - 1)

/-- The value of a two's-complement integer. -/
def intVal (w bits : Nat) : FpVal :=
  let v := toSigned w bits
  .fin (decide (v < 0)) v.natAbs 0

/-- The value that element bits of a format hold. -/
def ElemFmt.value (f : ElemFmt) (bits : Nat) : FpVal :=
  match f with
  | .fp f => f.decode bits
  | .int8 => intVal 8 bits
  | .int32 => intVal 32 bits

/-- A signed exact number n * 2^e. -/
def signedMant (neg : Bool) (m : Nat) : Int := if neg then -(Int.ofNat m) else Int.ofNat m

/-- The exact sum of two finite values; a zero sum is -0 only when both terms are negative zeros (IEEE 754). -/
def finAdd (n1 : Bool) (m1 : Nat) (e1 : Int) (n2 : Bool) (m2 : Nat) (e2 : Int) : FpVal :=
  let e := min e1 e2
  let s := signedMant n1 (m1 * 2 ^ (e1 - e).toNat) + signedMant n2 (m2 * 2 ^ (e2 - e).toNat)
  if s = 0 then .fin (n1 && n2) 0 0 else .fin (decide (s < 0)) s.natAbs e

/-- Exact addition with the special values of IEEE 754. -/
def fpAdd : FpVal → FpVal → FpVal
  | .nan, _ => .nan
  | _, .nan => .nan
  | .inf a, .inf b => if a = b then .inf a else .nan
  | .inf a, _ => .inf a
  | _, .inf b => .inf b
  | .fin n1 m1 e1, .fin n2 m2 e2 => finAdd n1 m1 e1 n2 m2 e2

/-- The value with its sign inverted. -/
def fpNeg : FpVal → FpVal
  | .nan => .nan
  | .inf n => .inf (!n)
  | .fin n m e => .fin (!n) m e

/-- The magnitude. -/
def fpAbs : FpVal → FpVal
  | .nan => .nan
  | .inf _ => .inf false
  | .fin _ m e => .fin false m e

/-- Exact multiplication with the special values of IEEE 754. -/
def fpMul : FpVal → FpVal → FpVal
  | .nan, _ => .nan
  | _, .nan => .nan
  | .inf a, .inf b => .inf (a != b)
  | .inf a, .fin b m _ => if m = 0 then .nan else .inf (a != b)
  | .fin a m _, .inf b => if m = 0 then .nan else .inf (a != b)
  | .fin n1 m1 e1, .fin n2 m2 e2 => .fin (n1 != n2) (m1 * m2) (e1 + e2)

/-- The value is NaN. -/
def FpVal.isNan : FpVal → Bool
  | .nan => true
  | _ => false

/-- The value is NaN or an infinity (05_update_pass_quench_temper.md R129). -/
def FpVal.nonFinite : FpVal → Bool
  | .fin _ _ _ => false
  | _ => true

/-- The value is +0 or -0. -/
def FpVal.isZero : FpVal → Bool
  | .fin _ 0 _ => true
  | _ => false

/-- The order of IEEE 754 maximum and minimum: -0 below +0 (07_tile_operations.md R187); no operand is NaN. -/
def fpLt : FpVal → FpVal → Bool
  | .inf a, .inf b => a && !b
  | .inf a, _ => a
  | _, .inf b => !b
  | .fin n1 m1 e1, .fin n2 m2 e2 =>
    let e := min e1 e2
    let a := signedMant n1 (m1 * 2 ^ (e1 - e).toNat)
    let b := signedMant n2 (m2 * 2 ^ (e2 - e).toNat)
    if a = b then n1 && !n2 else decide (a < b)
  | _, _ => false

/-- IEEE 754 maximum (R187). -/
def fpMax (a b : FpVal) : FpVal := if a.isNan || b.isNan then .nan else if fpLt a b then b else a

/-- IEEE 754 minimum (R187). -/
def fpMin (a b : FpVal) : FpVal := if a.isNan || b.isNan then .nan else if fpLt b a then b else a

/-- Round an exact value to a format to nearest even and read it back. -/
def FpFmt.rnd (f : FpFmt) (v : FpVal) : FpVal := f.decode (f.convert .rne v)

/-- add_rne of R109 on FP32 values. -/
def addRne (a b : FpVal) : FpVal := fp32.rnd (fpAdd a b)

/-- A quotient rounded once to a format; IEEE 754 division. -/
def FpFmt.divRne (f : FpFmt) : FpVal → FpVal → Nat
  | .nan, _ => f.nan
  | _, .nan => f.nan
  | .inf _, .inf _ => f.nan
  | .inf a, .fin b _ _ => f.convert .rne (.inf (a != b))
  | .fin a _ _, .inf b => f.convert .rne (.fin (a != b) 0 0)
  | .fin a m1 e1, .fin b m2 e2 =>
    if m2 = 0 then (if m1 = 0 then f.nan else f.convert .rne (.inf (a != b)))
    else let p := scaleRat m1 m2 (e1 - e2); f.roundRat .rne (a != b) p.1 p.2

/-- The largest power of two below n, for n at least 2. -/
def powBelow (n : Nat) : Nat := 2 ^ Nat.log2 (n - 1)

/-- The pairwise tree of R117 over the n values of l, n at least 1, with a combining operation; fuel bounds its depth. -/
def pairwise (op : FpVal → FpVal → FpVal) : Nat → List FpVal → FpVal
  | 0, l => l.headD (.fin false 0 0)
  | fuel + 1, l =>
    if l.length ≤ 1 then l.headD (.fin false 0 0)
    else
      let h := powBelow l.length
      op (pairwise op fuel (l.take h)) (pairwise op fuel (l.drop h))

/-- The groups of 256 consecutive elements (R107). -/
def groups256 : Nat → List FpVal → List (List FpVal)
  | 0, _ => []
  | fuel + 1, l => if l.isEmpty then [] else l.take 256 :: groups256 fuel (l.drop 256)

/-- A VU reduction in FP32: the tree within groups of 256, the groups in ascending order (R107). -/
def reduce (op : FpVal → FpVal → FpVal) (l : List FpVal) : FpVal :=
  match (groups256 (l.length + 1) l).map (pairwise op 64) with
  | [] => .fin false 0 0
  | g :: gs => gs.foldl op g

/-- The exact sum of the present products of a chunk, with the special values of R110. -/
def exactSum (l : List FpVal) : FpVal :=
  if l.any FpVal.isNan then .nan
  else if l.contains (.inf false) && l.contains (.inf true) then .nan
  else if l.contains (.inf false) then .inf false
  else if l.contains (.inf true) then .inf true
  else
    match l.foldl fpAdd (.fin false 0 0) with
    | .fin _ 0 _ => .fin false 0 0
    | v => v

/-- The value of an E8M0 scale code, or none for NaN (R96). -/
def e8m0 (c : Nat) : FpVal := if c % 256 = 255 then .nan else .fin false 1 ((c % 256 : Int) - 127)

/-- The scale and elements of an MX block formed from FP32 values (R101): the scale byte, and the elements' codes. -/
def mxBlock (code : Nat) (f : FpFmt) (rs : List Rounding) (vs : List FpVal) : Nat × List Nat :=
  if vs.any FpVal.nonFinite then (0xFF, vs.map (fun _ => 0))
  else
    let a := vs.foldl (fun acc v => fpMax acc (fpAbs v)) (.fin false 0 0)
    let s : Int := match a with
      | .fin _ m e =>
        if m = 0 then -127
        else max (-127) (min 127 ((Nat.log2 m : Int) + e - mxEmax code))
      | _ => -127
    ((s + 127).toNat,
      (vs.zip rs).map (fun p => match p.1 with
        | .fin n m e => f.convert p.2 (.fin n m (e - s))
        | v => f.convert p.2 v))

end Sys2Proof.Machine
end

