-- ==== Sys2Proof/Machine/Sfu.lean ====
section
/-!
DEFINITION. The special-function unit (04_formats_rounding_spark.md R108) and the derivatives of 02_segments_and_stash.md R49 that it
evaluates. The exact mathematical value is enclosed by fixed-point arithmetic of 640 fraction bits; where both ends of the
enclosure round to one FP32 value, that is the correctly rounded result, and else the result is an opaque constant of Config
(DEDUCED, log entry 12).
-/
namespace Sys2Proof.Machine

/-- Fraction bits of the fixed-point working values. -/
def fxBits : Nat := 640

/-- One, in fixed point. -/
def fxOne : Int := 2 ^ fxBits

/-- A fixed-point product. -/
def fxMul (a b : Int) : Int := (a * b) / 2 ^ fxBits

/-- A fixed-point quotient. -/
def fxDiv (a b : Int) : Int := (a * 2 ^ fxBits) / b

/-- An exact number n * 2^e in fixed point. -/
def fxOf (neg : Bool) (m : Nat) (e : Int) : Int :=
  let k := e + fxBits
  let v : Int := if k ≥ 0 then Int.ofNat (m * 2 ^ k.toNat) else Int.ofNat (m / 2 ^ (-k).toNat)
  if neg then -v else v

/-- The exponential series from term t = x^k/k!, n terms more. -/
def fxExpSeries (x : Int) : Nat → Nat → Int → Int → Int
  | 0, _, _, acc => acc
  | n + 1, k, t, acc => let t' := fxMul t x / (k + 1 : Int); fxExpSeries x n (k + 1) t' (acc + t')

/-- Square n times. -/
def fxSquares : Nat → Int → Int
  | 0, v => v
  | n + 1, v => fxSquares n (fxMul v v)

/-- exp, for an argument below 2^8 in magnitude: halve the argument 16 times, sum the series, square back. -/
def fxExp (x : Int) : Int :=
  fxSquares 16 (fxExpSeries (x / 2 ^ 16) 72 0 fxOne fxOne)

/-- The series of 2 atanh z: terms z^(2k+1)/(2k+1). -/
def fxAtanhSeries (z2 : Int) : Nat → Nat → Int → Int → Int
  | 0, _, _, acc => acc
  | n + 1, k, p, acc => let p' := fxMul p z2; fxAtanhSeries z2 n (k + 1) p' (acc + p' / (2 * (k + 1) + 1 : Int))

/-- Twice the inverse hyperbolic tangent, for z at most 1/3. -/
def fxAtanh2 (z : Int) : Int := 2 * fxAtanhSeries (fxMul z z) 210 0 z z

/-- The natural logarithm of 2. -/
def fxLn2 : Int := fxAtanh2 (fxOne / 3)

/-- The natural logarithm of m * 2^e, m > 0. -/
def fxLog (m : Nat) (e : Int) : Int :=
  let l := Nat.log2 m
  let u := fxOf false m (-(l : Int))
  fxAtanh2 (fxDiv (u - fxOne) (u + fxOne)) + (e + l) * fxLn2

/-- The alternating series of the inverse tangent of 1/q: q a natural. -/
def fxAtanInv (q : Int) : Nat → Nat → Int → Int → Int
  | 0, _, _, acc => acc
  | n + 1, k, p, acc =>
    let p' := p / (q * q)
    let t := p' / (2 * (k + 1) + 1 : Int)
    fxAtanInv q n (k + 1) p' (if k % 2 = 0 then acc - t else acc + t)

/-- π by Machin's formula. -/
def fxPi : Int :=
  16 * fxAtanInv 5 145 0 (fxOne / 5) (fxOne / 5) - 4 * fxAtanInv 239 45 0 (fxOne / 239) (fxOne / 239)

/-- An integer square root by Newton steps, from above. -/
def natSqrtStep : Nat → Nat → Nat → Nat
  | 0, _, r => r
  | fuel + 1, n, r => let r' := (r + n / r) / 2; if r' < r then natSqrtStep fuel n r' else r

/-- The integer square root. -/
def natSqrt (n : Nat) : Nat := if n = 0 then 0 else natSqrtStep (Nat.log2 n + 8) n (2 ^ (Nat.log2 n / 2 + 1))

/-- A fixed-point square root. -/
def fxSqrt (a : Int) : Int := Int.ofNat (natSqrt (a.toNat * 2 ^ fxBits))

/-- The series of erf: terms (-1)^k x^(2k+1) / (k! (2k+1)), n terms more. -/
def fxErfSeries (x2 : Int) : Nat → Nat → Int → Int → Int
  | 0, _, _, acc => acc
  | n + 1, k, p, acc =>
    let p' := -(fxMul p x2) / (k + 1 : Int)
    fxErfSeries x2 n (k + 1) p' (acc + p' / (2 * (k + 1) + 1 : Int))

/-- erf, for an argument below 12 in magnitude. -/
def fxErf (x : Int) : Int :=
  fxDiv (2 * fxErfSeries (fxMul x x) 1000 0 x x) (fxSqrt fxPi)

/-- tanh. -/
def fxTanh (x : Int) : Int :=
  let t := fxExp (-2 * x)
  fxDiv (fxOne - t) (fxOne + t)

/-- The sigmoid. -/
def fxSigmoid (x : Int) : Int := fxDiv fxOne (fxOne + fxExp (-x))

/-- Φ, the normal distribution function. -/
def fxPhi (x : Int) : Int := (fxOne + fxErf (fxDiv x (fxSqrt (2 * fxOne)))) / 2

/-- c (x + 0.044715 x³), c = √(2/π): the argument of the tanh form of GELU (R49). -/
def fxGeluArg (x : Int) : Int :=
  fxMul (fxSqrt (fxDiv (2 * fxOne) fxPi)) (x + fxMul (fxMul x x) x * 44715 / 1000000)

/-- Round the enclosure of a value v (as a fixed-point number) to FP32; the radius covers the working errors, and a value known
only to lie beside another passes its own radius. -/
def fxRound (fn arg : Nat) (v rad : Int) : Nat :=
  let lo := v - rad
  let hi := v + rad
  let code (w : Int) : Nat := fp32.roundRat .rne (decide (w < 0)) w.natAbs (2 ^ fxBits)
  if code lo = code hi ∧ (decide (lo < 0) = decide (hi < 0)) then code lo else Config.sfuRounded fn arg % 2 ^ 32

/-- The radius of the working errors about v. -/
def fxRad (v : Int) : Int := (v.natAbs / 2 ^ 420 : Nat) + 2 ^ 100

/-- The FN codes of R190. -/
inductive SfuFn where
  | exp | log | rsqrt | recip | erf | tanh | sigmoid | geluErf | geluTanh | silu
deriving DecidableEq, Repr

def SfuFn.ofCode : Nat → Option SfuFn
  | 0 => some .exp
  | 1 => some .log
  | 2 => some .rsqrt
  | 3 => some .recip
  | 4 => some .erf
  | 5 => some .tanh
  | 6 => some .sigmoid
  | 7 => some .geluErf
  | 8 => some .geluTanh
  | 9 => some .silu
  | _ => none

def SfuFn.code : SfuFn → Nat
  | .exp => 0 | .log => 1 | .rsqrt => 2 | .recip => 3 | .erf => 4 | .tanh => 5 | .sigmoid => 6
  | .geluErf => 7 | .geluTanh => 8 | .silu => 9

/-- A value just below a magnitude: for results that differ from it by less than any rounding interval. -/
def fxNear (fn arg : Nat) (v : Int) : Nat := fxRound fn arg (v - v / 2 ^ 62) (v.natAbs / 2 ^ 62 : Nat)

/-- The correctly rounded FP32 result at a finite, nonzero operand (-1)^n * m * 2^e (R108). Operands beyond the range in which
the function is distinguishable from its limit take the limit's neighbourhood. -/
def sfuFinite (f : SfuFn) (arg : Nat) (n : Bool) (m : Nat) (e : Int) : Nat :=
  let x := fxOf n m e
  let big := decide (x.natAbs ≥ (2 ^ (fxBits + 7)))
  let out (v : Int) : Nat := fxRound f.code arg v (fxRad v)
  let one := fp32.convert .rne (.fin n 1 0)
  let negZero := fp32.signCode true
  match f with
  | .exp =>
    if big then (if n then 0 else fp32.maxCode + 1) else out (fxExp x)
  | .log => if n then fp32.nan else out (fxLog m e)
  | .rsqrt =>
    if n then fp32.nan
    else
      -- 1/sqrt(m*2^e), with an even exponent: sqrt(2^(2k)/m') / 2^k'
      let odd := e % 2 ≠ 0
      let m' := if odd then 2 * m else m
      let e' := if odd then e - 1 else e
      let r := natSqrt (2 ^ 400 / m')
      let d : Nat := 2
      -- the root lies in [r, r+1] * 2^-200; its exact cases are powers of two
      if r * r * m' = 2 ^ 400 then let p := scaleRat r 1 (-200 - e' / 2); fp32.roundRat .rne false p.1 p.2
      else let p := scaleRat (2 * r + 1) d (-200 - e' / 2); fp32.roundRat .rne false p.1 p.2
  | .recip => let p := scaleRat 1 m (-e); fp32.roundRat .rne n p.1 p.2
  | .erf => if decide (x.natAbs ≥ 8 * 2 ^ fxBits) then one else out (fxErf x)
  | .tanh => if decide (x.natAbs ≥ 64 * 2 ^ fxBits) then one else out (fxTanh x)
  | .sigmoid => if big then (if n then 0 else one) else out (fxSigmoid x)
  | .geluErf =>
    if decide (x.natAbs ≥ 16 * 2 ^ fxBits) then
      (if n then negZero else fxNear f.code arg x)
    else out (fxMul x (fxPhi x))
  | .geluTanh =>
    if decide (x.natAbs ≥ 16 * 2 ^ fxBits) then
      (if n then negZero else fxNear f.code arg x)
    else out (fxMul x (fxOne + fxTanh (fxGeluArg x)) / 2)
  | .silu =>
    if big then (if n then negZero else fxNear f.code arg x) else out (fxMul x (fxSigmoid x))

/-- The FP32 result of an SFU function of an FP32 operand, special operands first (R108). -/
def sfuEval (f : SfuFn) (arg : Nat) : Nat :=
  let pinf := fp32.maxCode + 1
  let ninf := fp32.signCode true + pinf
  let one := fp32.convert .rne (.fin false 1 0)
  let negOne := fp32.convert .rne (.fin true 1 0)
  let negZero := fp32.signCode true
  match fp32.decode arg with
  | .nan => fp32.nan
  | .inf n =>
    match f with
    | .exp => if n then 0 else pinf
    | .log => if n then fp32.nan else pinf
    | .rsqrt => if n then fp32.nan else 0
    | .recip => if n then negZero else 0
    | .erf | .tanh => if n then negOne else one
    | .sigmoid => if n then 0 else one
    | .geluErf | .geluTanh | .silu => if n then negZero else pinf
  | .fin n 0 _ =>
    match f with
    | .exp => one
    | .log => ninf
    | .rsqrt => if n then ninf else pinf
    | .recip => if n then ninf else pinf
    | .erf | .tanh | .geluErf | .geluTanh | .silu => if n then negZero else 0
    | .sigmoid => fp32.convert .rne (.fin false 1 (-1))
  | .fin n m e => sfuFinite f arg n m e

/-- The derivative f'(x) in FP32 (R49, R190); at an infinity the spec states no value, which stays open (DEDUCED, log entry 12). FN 0 GELU erf form, 1 GELU tanh form, 2 SiLU, 3 erf. -/
def sfuDeriv (fn : Nat) (arg : Nat) : Nat :=
  let one := fp32.convert .rne (.fin false 1 0)
  match fp32.decode arg with
  | .nan => fp32.nan
  | .inf _ => Config.sfuRounded (16 + fn) arg % 2 ^ 32
  | .fin n m e =>
    let x := fxOf n m e
    let out (v : Int) : Nat := fxRound (16 + fn) arg v (fxRad v)
    let gauss := fxExp (-(fxMul x x) / (if fn = 3 then 1 else 2))
    if decide (x.natAbs ≥ 15 * 2 ^ fxBits) ∧ fn ≠ 2 then
      (if fn = 3 then 0 else if n then fp32.signCode true else one)
    else if decide (x.natAbs ≥ 120 * 2 ^ fxBits) then (if n then fp32.signCode true else one)
    else if fn = 0 then out (fxPhi x + fxDiv (fxMul x gauss) (fxSqrt (2 * fxPi)))
    else if fn = 1 then
      let t := fxTanh (fxGeluArg x)
      let c := fxSqrt (fxDiv (2 * fxOne) fxPi)
      let u := fxMul c (fxOne + fxMul x x * 134145 / 1000000)
      out ((fxOne + t + fxMul (fxMul x (fxOne - fxMul t t)) u) / 2)
    else if fn = 2 then
      let g := fxSigmoid x
      out (fxMul g (fxOne + fxMul x (fxOne - g)))
    else out (fxDiv (2 * gauss) (fxSqrt fxPi))

end Sys2Proof.Machine
end

