-- ==== Sys2Proof/Machine/Spark.lean ====
section
/-!
DEFINITION. Spark (04_formats_rounding_spark.md R111, R112, R114): the generator as a pure function of seed, stream and position, and
a tile's seed, step and counters.
-/
namespace Sys2Proof.Machine

/-- The rotation amounts of R111. -/
def sparkRot : List Nat := [16, 28, 44, 8, 36, 20, 52, 12, 40, 24]

/-- One round of R111. -/
def sparkRound (v : W64 × W64) (r : Nat) : W64 × W64 :=
  let v0 := v.1 + v.2 + 0x9E3779B97F4A7C15
  (v0, v.2.rotateLeft r ^^^ v0)

/-- spark(seed_lo, seed_hi, stream, pos) of R111. -/
def spark (seedLo seedHi : W64) (stream : W32) (pos : W64) : W64 :=
  (sparkRot.foldl sparkRound (pos ^^^ seedLo, stream.setWidth 64 ^^^ seedHi)).2

/-- The position of R112: the step modulo 2^24 above the index modulo 2^40. -/
def sparkPos (step : W64) (index : Nat) : W64 :=
  BitVec.ofNat 64 (step.toNat % 2 ^ 24 * 2 ^ 40 + index % 2 ^ 40)

/-- The SPK_ page of a tile. -/
def spkPg (t : Nat) : Nat := tilePg t 8

/-- The low and high halves of a tile's seed (R111). -/
def seedLo (s : State) (t : Nat) : W64 := BitVec.ofNat 64 (rd64 s (spkPg t + 0x110))
def seedHi (s : State) (t : Nat) : W64 := BitVec.ofNat 64 (rd64 s (spkPg t + 0x118))

/-- SPK_STEP (R114). -/
def spkStep (s : State) (t : Nat) : W64 := BitVec.ofNat 64 (rd64 s (spkPg t + 0x120))

/-- A tile's Spark value at a stream and position. -/
def sparkAt (s : State) (t : Nat) (stream : W32) (pos : W64) : W64 := spark (seedLo s t) (seedHi s t) stream pos

/-- u of R104 for a stochastic conversion: Z[15:0] at a stream, step and index (R112). -/
def sparkU (s : State) (t : Nat) (stream : W32) (step : W64) (index : Nat) : Nat :=
  (sparkAt s t stream (sparkPos step index)).toNat % 65536

/-- Count Spark values produced: SPK_DRAW_CNT (R121). -/
def countDraws (s : State) (t n : Nat) : State := inc64 s (spkPg t + 0x130) n

/-- Count stochastic conversions and those rounded away from zero: SPK_SR_CNT, SPK_SR_UP_CNT; each took a draw (R121). -/
def countSr (s : State) (t n ups : Nat) : State :=
  if n = 0 then s else inc64 (inc64 (countDraws s t n) (spkPg t + 0x138) n) (spkPg t + 0x140) ups

end Sys2Proof.Machine
end

