-- ==== Sys2Proof/Machine/Vector.lean ====
section
/-!
DEFINITION. The vector unit, UNIT 0x1, but for OPT.STEP, and the special-function unit, UNIT 0x2 (07_tile_operations.md R186 to R188,
R190; 04_formats_rounding_spark.md R101 to R108; 02_segments_and_stash.md R49).
-/
namespace Sys2Proof.Machine

/-! ### Elements in scratchpad -/

/-- The bytes of n elements of a format, packed (R99, R186). -/
def elemBytes (code n : Nat) : Nat := ceilDiv (n * elemBits code) 8

/-- n elements' codes from packed bytes. -/
def unpack (code n : Nat) (bs : List Byte) : List Nat :=
  let w := elemBits code
  let v := leNat bs
  (List.range n).map (fun i => (v >>> (w * i)) % 2 ^ w)

/-- Element codes packed, element 0 in the lowest bits. -/
def packNat (w : Nat) : List Nat → Nat
  | [] => 0
  | c :: cs => c % 2 ^ w + 2 ^ w * packNat w cs

/-- The bytes of packed elements. -/
def pack (code : Nat) (cs : List Nat) : List Byte := leBytes (elemBytes code cs.length) (packNat (elemBits code) cs)

/-- The value of an element code of a format without scale; a code that is no format reads as NaN. -/
def elemVal (code c : Nat) : FpVal :=
  match elemOf code with
  | some f => f.value c
  | none => .nan

/-- The values of elements of an MX operand: element i times the scale of its block (R99). -/
def mxVals (code : Nat) (scales cs : List Nat) : List FpVal :=
  cs.mapIdx (fun i c =>
    match e8m0 (nth 0 scales (i / 32)) with
    | .fin _ _ e => match elemVal code c with
      | .fin n m e' => .fin n m (e' + e)
      | v => v
    | v => v)

/-- A lane format of the VU and SFU: FP32 or BF16 (R186). -/
def laneFmt : Nat → Option FpFmt
  | 0 => some fp32
  | 1 => some bf16
  | _ => none

/-- A number as FP32, rounded. -/
def natF (n : Nat) : FpVal := fp32.rnd (.fin false n 0)

/-- A product rounded to FP32. -/
def mulRne (a b : FpVal) : FpVal := fp32.rnd (fpMul a b)

/-- A quotient rounded to FP32. -/
def quoRne (a b : FpVal) : FpVal := fp32.decode (fp32.divRne a b)

/-! ### The frame of a form V operation -/

/-- A source or destination range of an operation: address, bytes, use. -/
structure VRange where
  addr : Nat
  len  : Nat
  use  : Use
deriving DecidableEq, Repr

/-- Some two of the ranges overlap (R186). -/
def anyOverlap : List VRange → Bool
  | [] => false
  | r :: rs => rs.any (fun q => rangesOverlap r.addr r.len q.addr q.len) || anyOverlap rs

/-- The checks of the ranges (R181, R186): a range outside the scratchpad or in the shadow pool, an address that is not 32-byte aligned,
overlap (log entries 9 and 102). -/
def rangesFault (s : State) (t : Nat) (rs : List VRange) : Option Nat :=
  if rs.any (fun r => badRange s t r.addr r.len) then some 3
  else if rs.any (fun r => r.addr % 32 != 0) then some 5
  else if anyOverlap rs then some 2
  else none

/-- Run an operation over ranges: checks, waits, shadows, the check bits of its sources, the effect, and the tags. -/
def withRanges (c : OpCtx) (s : State) (cls : Nat) (rs : List VRange) (eff : Ecc → State → State) : OpRes :=
  match rangesFault s c.t rs with
  | some f => .fault f
  | none =>
    let uses := (rs.map (fun r => rangeUses r.addr r.len r.use)).flatten
    withSlots c s uses fun s =>
      let src := (rs.filter (fun r => r.use != .produce)).map (fun r => (r.addr, r.len))
      let e := spadEcc s c.t src c.ecc
      settleTags (eff e.1 (spadEccNote e.2 c.t cls e.1)) c.t (c.task s) uses

/-- A source use: consume where its CONS bit is 1. -/
def srcUse (cons : Bool) : Use := if cons then .consume else .read

/-- The element count s(SN), 1 to 16,384. -/
def vCount (s : State) (c : OpCtx) : Nat := (xreg s c.t c.th (fSn c.w)).toNat

def aReg (s : State) (c : OpCtx) (r : Nat) : Nat := (xreg s c.t c.th r).toNat

/-- s(SX), and s(SX+1). -/
def sxReg (s : State) (c : OpCtx) : Nat := aReg s c (fSx c.w)
def sxReg1 (s : State) (c : OpCtx) : Nat := aReg s c (fSx c.w + 1)

/-- The values of n elements of a lane format. -/
def loadLane (s : State) (c : OpCtx) (e : Ecc) (f : Nat) (a n : Nat) : List FpVal :=
  (unpack f n (loadBytes s c.t (c.task s) e a (elemBytes f n))).map (elemVal f)

/-- Which fields of form V an operation uses. -/
structure VUses where
  ad : Bool := true
  ab : Bool := false
  ac : Bool := false
  sx : Bool := false
  fd : Bool := true
  consC : Bool := false
  maxFn : Nat := 0
deriving DecidableEq, Repr

/-- The fields of form V that an operation does not use are 0, and bit 13 and the low byte are reserved (R180, R186). -/
def vFieldsOk (u : VUses) (w : Nat) : Bool :=
  (u.ad || zero w 47 45) && (u.ab || zero w 41 39) && (u.ac || zero w 38 36) && (u.sx || zero w 30 26) &&
    (u.fd || zero w 21 18) && (u.ab || !(fCons w 15)) && (u.consC || !(fCons w 14)) && zero w 13 13 &&
    decide (fFnV w ≤ u.maxFn) && zero w 7 0

/-- An arithmetic operation: FS = FD, FP32 or BF16, and no GRAD (R186). -/
def legalArith (u : VUses) (w : Nat) : Bool :=
  vFieldsOk u w && fFs w == fFd w && decide (fFs w ≤ 1) && !(fGrad w)

/-- An elementwise operation on lanes: D from A, B and C where it uses them (R187). -/
def vecMap (mn : String) (o : Nat) (u : VUses) (i : Issue) (s : State)
    (f : State → OpCtx → FpFmt → FpVal → FpVal → FpVal → Nat) : Out :=
  issueOp mn 1 o (legalArith u)
    (fun w => [fAd w, fAa w, fSn w] ++ (if u.ab then [fAbV w] else []) ++ (if u.ac then [fAc w] else []) ++
      (if u.sx then [fSx w] else [])) i s fun c s =>
    let n := vCount s c
    let fs := fFs c.w
    if n = 0 ∨ n > 16384 then .fault 2
    else
      let len := elemBytes fs n
      let d := aReg s c (fAd c.w)
      let a := aReg s c (fAa c.w)
      let b := aReg s c (fAbV c.w)
      let cc := aReg s c (fAc c.w)
      let rs := [VRange.mk d len .produce, VRange.mk a len (srcUse (fCons c.w 16))] ++
        (if u.ab then [VRange.mk b len (srcUse (fCons c.w 15))] else []) ++
        (if u.ac then [VRange.mk cc len (srcUse (fCons c.w 14))] else [])
      withRanges c s 4 rs fun e s =>
        let l := (laneFmt fs).getD fp32
        let va := loadLane s c e fs a n
        let vb := if u.ab then loadLane s c e fs b n else va
        let vc := if u.ac then loadLane s c e fs cc n else va
        let out := (va.zip (vb.zip vc)).map (fun p => f s c l p.1 p.2.1 p.2.2)
        pokeBytes s c.t (c.task s) d (pack fs out)

def execVadd (i : Issue) (s : State) : Out :=
  vecMap "VADD" 0x01 { ab := true } i s fun _ _ l a b _ => l.convert .rne (fpAdd a b)
def execVsub (i : Issue) (s : State) : Out :=
  vecMap "VSUB" 0x02 { ab := true } i s fun _ _ l a b _ => l.convert .rne (fpAdd a (fpNeg b))
def execVmul (i : Issue) (s : State) : Out :=
  vecMap "VMUL" 0x03 { ab := true } i s fun _ _ l a b _ => l.convert .rne (fpMul a b)
def execVmax (i : Issue) (s : State) : Out :=
  vecMap "VMAX" 0x04 { ab := true } i s fun _ _ l a b _ => l.convert .rne (fpMax a b)
def execVmin (i : Issue) (s : State) : Out :=
  vecMap "VMIN" 0x05 { ab := true } i s fun _ _ l a b _ => l.convert .rne (fpMin a b)
/-- VABS uses A only. -/
def execVabs (i : Issue) (s : State) : Out :=
  vecMap "VABS" 0x06 {} i s fun _ _ l a _ _ => l.convert .rne (fpAbs a)
/-- VFMA: A * B + C, rounded once. -/
def execVfma (i : Issue) (s : State) : Out :=
  vecMap "VFMA" 0x07 { ab := true, ac := true, consC := true } i s fun _ _ l a b c =>
    l.convert .rne (fpAdd (fpMul a b) c)
/-- VSCALE: A * f, f = s(SX)[31:0] as FP32. -/
def execVscale (i : Issue) (s : State) : Out :=
  vecMap "VSCALE" 0x08 { sx := true } i s fun s c l a _ _ =>
    l.convert .rne (fpMul a (fp32.decode (sxReg s c % 2 ^ 32)))

/-! ### Conversion -/

/-- The value converts to a non-finite element (R128). -/
def convNonFinite (f : FpFmt) (r : Rounding) (v : FpVal) : Bool :=
  if f.hasInf then (f.decode (f.convert r v)).nonFinite
  else match v with
    | .fin _ m e => let p := dyRat m e; decide (f.magCode r p.1 p.2 > f.maxCode)
    | _ => true

/-- A conversion rounded stochastically away from zero (R121). -/
def convUp (fd : Nat) (r : Rounding) (v : FpVal) : Bool :=
  match v with
  | .fin _ m e =>
    let p := dyRat m e
    match elemOf fd with
    | some (.fp f) => f.srUp r p.1 p.2
    | _ => roundInt r (p.1 / p.2) (p.1 % p.2) p.2 != p.1 / p.2
  | _ => false

/-- Element codes, and which elements are non-finite, of a conversion to a format without scales (R102, R103). -/
def convPlain (fd : Nat) (rs : List Rounding) (vs : List FpVal) : List Nat × List Bool :=
  let l := vs.zip rs
  match elemOf fd with
  | some (.fp f) => (l.map (fun p => f.convert p.2 p.1), l.map (fun p => convNonFinite f p.2 p.1))
  | some .int8 => (l.map (fun p => intConvert 8 p.2 p.1), l.map (fun _ => false))
  | _ => (l.map (fun p => intConvert 32 p.2 p.1), l.map (fun _ => false))

/-- Blocks of 32. -/
def blocks32 {α : Type} : Nat → List α → List (List α)
  | 0, _ => []
  | fuel + 1, l => if l.isEmpty then [] else l.take 32 :: blocks32 fuel (l.drop 32)

/-- Scales, element codes and non-finite flags of a conversion to an MX format (R101). -/
def convMx (fd : Nat) (rs : List Rounding) (vs : List FpVal) : List Nat × List Nat × List Bool :=
  match elemOf fd with
  | some (.fp f) =>
    let l := blocks32 (vs.length + 1) (vs.zip rs)
    let bs := l.map (fun b => (mxBlock fd f (b.map (·.2)) (b.map (·.1)), b))
    (bs.map (fun b => b.1.1),
     (bs.map (fun b => b.1.2)).flatten,
     (bs.map (fun b => b.2.map (fun p =>
        b.1.1 == 255 ||
          (match p.1 with
           | .fin n m e => convNonFinite f p.2 (.fin n m (e - ((b.1.1 : Int) - 127)))
           | _ => true)))).flatten)
  | _ => ([], [], [])

/-- FS and FD that VCVT allows (R103, R186): any two formats but INT32 to a floating-point format other than FP32. -/
def vcvtPairOk (fs fd : Nat) : Bool :=
  decide (fs ≤ 0xB) && decide (fd ≤ 0xB) && (fs != 0xB || fd == 0 || fd == 0xA || fd == 0xB)

/-- The fields of VCVT: AB under an MX source, AC under an MX destination, SX under GRAD (R186). -/
def legalVcvt (w : Nat) : Bool :=
  vFieldsOk { ab := isMx (fFs w), ac := isMx (fFd w), sx := fGrad w } w && vcvtPairOk (fFs w) (fFd w) &&
    (!(fGrad w) || decide (fSx w ≤ 30))

/-- Detect each non-finite element of a gradient conversion, with the index supplied (R129, R131). -/
def detectGrad (t base : Nat) : Nat → List Bool → State → State
  | _, [], s => s
  | i, b :: bs, s => detectGrad t base (i + 1) bs (if b then detectTile s t 0 ((base + i) % 2 ^ 64) else s)

/-- Stochastic rounding applies: GRAD set, a floating-point source, and a destination other than FP32 (R103, R105). -/
def srApplies (grad : Bool) (fs fd : Nat) : Bool := grad && decide (fs ≤ 9) && fd != 0

/-- The rounding of each of n elements: stochastic with stream s(SX)[31:0] and index s(SX+1) + i, or to nearest even. -/
def roundings (s : State) (c : OpCtx) (sr : Bool) (n : Nat) : List Rounding :=
  (List.range n).map (fun i =>
    if sr then .sr (sparkU s c.t (BitVec.ofNat 32 (sxReg s c)) (spkStep s c.t) (sxReg1 s c + i)) else .rne)

/-- VCVT. -/
def execVcvt (i : Issue) (s : State) : Out :=
  issueOp "VCVT" 1 0x10 legalVcvt
    (fun w => [fAd w, fAa w, fSn w] ++ (if isMx (fFs w) then [fAbV w] else []) ++ (if isMx (fFd w) then [fAc w] else []) ++
      (if fGrad w then [fSx w, fSx w + 1] else [])) i s fun c s =>
    let n := vCount s c
    let fs := fFs c.w
    let fd := fFd c.w
    if n = 0 ∨ n > 16384 then .fault 2
    else
      let d := aReg s c (fAd c.w)
      let a := aReg s c (fAa c.w)
      let b := aReg s c (fAbV c.w)
      let cc := aReg s c (fAc c.w)
      let nb := ceilDiv n 32
      let rs := [VRange.mk d (elemBytes fd n) .produce, VRange.mk a (elemBytes fs n) (srcUse (fCons c.w 16))] ++
        (if isMx fs then [VRange.mk b nb (srcUse (fCons c.w 15))] else []) ++
        (if isMx fd then [VRange.mk cc nb .produce] else [])
      withRanges c s 4 rs fun e s =>
        let k := c.task s
        let codes := unpack fs n (loadBytes s c.t k e a (elemBytes fs n))
        let vals := if isMx fs then mxVals fs ((loadBytes s c.t k e b nb).map (·.toNat)) codes else codes.map (elemVal fs)
        let sr := srApplies (fGrad c.w) fs fd
        let rnd := roundings s c sr n
        let s := if sr then countSr s c.t n ((vals.zip rnd).filter (fun p => convUp fd p.2 p.1)).length else s
        let src := vals.map FpVal.nonFinite
        if isMx fd then
          let r := convMx fd rnd vals
          let s := pokeBytes (pokeBytes s c.t k d (pack fd r.2.1)) c.t k cc (r.1.map (BitVec.ofNat 8))
          if fGrad c.w then detectGrad c.t (sxReg1 s c) 0 ((src.zip r.2.2).map (fun p => p.1 || p.2)) s else s
        else
          let r := convPlain fd rnd vals
          let s := pokeBytes s c.t k d (pack fd r.1)
          if fGrad c.w then detectGrad c.t (sxReg1 s c) 0 ((src.zip r.2).map (fun p => p.1 || p.2)) s else s

/-! ### Reductions -/

/-- A reduction's fields: D is unused, FD is FP32, FS a lane format (R186). -/
def legalReduce (ab : Bool) (w : Nat) : Bool :=
  vFieldsOk { ad := false, ab := ab, sx := true } w && decide (fFs w ≤ 1) && fFd w == 0 && !(fGrad w)

/-- A reduction into s(SX), zero-extended (R187). -/
def vecReduce (mn : String) (o : Nat) (ab : Bool) (f : List FpVal → List FpVal → FpVal) (i : Issue) (s : State) : Out :=
  issueOp mn 1 o (legalReduce ab)
    (fun w => [fAa w, fSn w] ++ (if ab then [fAbV w] else [])) i s fun c s =>
    let n := vCount s c
    let fs := fFs c.w
    if n = 0 ∨ n > 16384 then .fault 2
    else
      let a := aReg s c (fAa c.w)
      let b := aReg s c (fAbV c.w)
      let len := elemBytes fs n
      let rs := [VRange.mk a len (srcUse (fCons c.w 16))] ++ (if ab then [VRange.mk b len (srcUse (fCons c.w 15))] else [])
      withRanges c s 4 rs fun e s =>
        let va := loadLane s c e fs a n
        let vb := if ab then loadLane s c e fs b n else []
        setXreg s c.t c.th (fSx c.w) (BitVec.ofNat 64 (fp32.convert .rne (f va vb)))

def execVrsum (i : Issue) (s : State) : Out := vecReduce "VRSUM" 0x18 false (fun a _ => reduce addRne a) i s
def execVrmax (i : Issue) (s : State) : Out := vecReduce "VRMAX" 0x19 false (fun a _ => reduce fpMax a) i s
/-- VDOT: each product rounded to FP32, then summed (R107). -/
def execVdot (i : Issue) (s : State) : Out :=
  vecReduce "VDOT" 0x1A true (fun a b => reduce addRne ((a.zip b).map (fun p => mulRne p.1 p.2))) i s

/-! ### Derivatives (R49, R187) -/

def oneF : FpVal := .fin false 1 0

/-- f'(y) of VDACT before rounding: ReLU, leaky ReLU, sigmoid, tanh, exp. -/
def vdactDeriv (fn : Nat) (alpha y : FpVal) : FpVal :=
  let pos := !(y.isNan) && fpLt (.fin false 0 0) y
  match fn with
  | 0 => if pos then oneF else .fin false 0 0
  | 1 => if pos then oneF else alpha
  | 2 => fpMul y (fpAdd oneF (fpNeg y))
  | 3 => fpAdd oneF (fpNeg (fpMul y y))
  | _ => y

/-- VDACT: f' rounded to the lane format, then multiplied by dy under RNE. -/
def execVdact (i : Issue) (s : State) : Out :=
  if fFnV i.word.toNat = 1 then
    vecMap "VDACT" 0x20 { ab := true, sx := true, maxFn := 4 } i s fun s c l a b _ =>
      l.convert .rne (fpMul (l.rnd (vdactDeriv (fFnV c.w) (fp32.decode (sxReg s c % 2 ^ 32)) a)) b)
  else
    vecMap "VDACT" 0x20 { ab := true, maxFn := 4 } i s fun _ c l a b _ =>
      l.convert .rne (fpMul (l.rnd (vdactDeriv (fFnV c.w) oneF a)) b)

/-- The rows of a list, L elements each. -/
def rowsOf {α : Type} (len : Nat) : Nat → List α → List (List α)
  | 0, _ => []
  | n + 1, l => l.take len :: rowsOf len n (l.drop len)

/-- One row of softmax backward: y (dy - Σ(dy y)), the products and their sum in FP32, the rest in the lane format (DEDUCED, log entry 11). -/
def softmaxRow (l : FpFmt) (y dy : List FpVal) : List Nat :=
  let sum := reduce addRne ((dy.zip y).map (fun p => mulRne p.1 p.2))
  (y.zip dy).map (fun p => l.convert .rne (fpMul p.1 (l.rnd (fpAdd p.2 (fpNeg sum)))))

/-- One row of RMSNorm backward (R49): each elementary operation in FP32 in the written order (DEDUCED, log entry 11). -/
def rmsRow (l : FpFmt) (eps : FpVal) (g x dy : List FpVal) : List Nat :=
  let n := natF x.length
  let ms := quoRne (reduce addRne (x.map (fun v => mulRne v v))) n
  let r := fp32.decode (sfuEval .rsqrt (fp32.convert .rne (addRne ms eps)))
  let gd := (g.zip dy).map (fun p => mulRne p.1 p.2)
  let sum := reduce addRne ((x.zip gd).map (fun p => mulRne p.1 p.2))
  let r3 := mulRne (mulRne r r) r
  (x.zip gd).map (fun p =>
    l.convert .rne (fpAdd (mulRne r p.2) (fpNeg (quoRne (mulRne (mulRne p.1 r3) sum) n))))

/-- One row of LayerNorm backward (R49): each elementary operation in FP32 in the written order (DEDUCED, log entry 11). -/
def layerRow (l : FpFmt) (eps : FpVal) (g x dy : List FpVal) : List Nat :=
  let n := natF x.length
  let mu := quoRne (reduce addRne x) n
  let xc := x.map (fun v => addRne v (fpNeg mu))
  let var := quoRne (reduce addRne (xc.map (fun v => mulRne v v))) n
  let r := fp32.decode (sfuEval .rsqrt (fp32.convert .rne (addRne var eps)))
  let xh := xc.map (fun v => mulRne v r)
  let gd := (g.zip dy).map (fun p => mulRne p.1 p.2)
  let s1 := reduce addRne gd
  let s2 := reduce addRne ((gd.zip xh).map (fun p => mulRne p.1 p.2))
  let q := quoRne r n
  (gd.zip xh).map (fun p =>
    l.convert .rne (fpMul q (addRne (addRne (mulRne n p.1) (fpNeg s1)) (fpNeg (mulRne p.2 s2)))))

/-- VDSMAX over rows of L = s(SX)[15:0] elements. -/
def execVdsmax (i : Issue) (s : State) : Out :=
  issueOp "VDSMAX" 1 0x21 (legalArith { ab := true, sx := true })
    (fun w => [fAd w, fAa w, fAbV w, fSn w, fSx w]) i s fun c s =>
    let n := vCount s c
    let fs := fFs c.w
    let len := sxReg s c % 65536
    if n = 0 ∨ n > 16384 ∨ len = 0 ∨ n % len ≠ 0 then .fault 2
    else
      let d := aReg s c (fAd c.w)
      let a := aReg s c (fAa c.w)
      let b := aReg s c (fAbV c.w)
      let by_ := elemBytes fs n
      withRanges c s 4 [⟨d, by_, .produce⟩, ⟨a, by_, srcUse (fCons c.w 16)⟩, ⟨b, by_, srcUse (fCons c.w 15)⟩] fun e s =>
        let l := (laneFmt fs).getD fp32
        let y := rowsOf len (n / len) (loadLane s c e fs a n)
        let dy := rowsOf len (n / len) (loadLane s c e fs b n)
        pokeBytes s c.t (c.task s) d (pack fs ((y.zip dy).map (fun p => softmaxRow l p.1 p.2)).flatten)

/-- VDNORM over rows of L = s(SX)[15:0], ε = s(SX)[63:32]; C holds the L gains (DEDUCED, log entry 11). -/
def execVdnorm (i : Issue) (s : State) : Out :=
  issueOp "VDNORM" 1 0x22 (legalArith { ab := true, ac := true, sx := true, consC := true, maxFn := 1 })
    (fun w => [fAd w, fAa w, fAbV w, fAc w, fSn w, fSx w]) i s fun c s =>
    let n := vCount s c
    let fs := fFs c.w
    let len := sxReg s c % 65536
    if n = 0 ∨ n > 16384 ∨ len = 0 ∨ n % len ≠ 0 then .fault 2
    else
      let d := aReg s c (fAd c.w)
      let a := aReg s c (fAa c.w)
      let b := aReg s c (fAbV c.w)
      let g := aReg s c (fAc c.w)
      let by_ := elemBytes fs n
      withRanges c s 4 [⟨d, by_, .produce⟩, ⟨a, by_, srcUse (fCons c.w 16)⟩, ⟨b, by_, srcUse (fCons c.w 15)⟩,
          ⟨g, elemBytes fs len, srcUse (fCons c.w 14)⟩] fun e s =>
        let l := (laneFmt fs).getD fp32
        let x := rowsOf len (n / len) (loadLane s c e fs a n)
        let dy := rowsOf len (n / len) (loadLane s c e fs b n)
        let gv := loadLane s c e fs g len
        let eps := fp32.decode (sxReg s c / 2 ^ 32)
        let row := if fFnV c.w = 0 then rmsRow l eps gv else layerRow l eps gv
        pokeBytes s c.t (c.task s) d (pack fs ((x.zip dy).map (fun p => row p.1 p.2)).flatten)

/-! ### Zero maps and routing -/

/-- The bits of a zero map: rows of kc elements; a billet of 16 rows and 16 columns is marked when all of it is zero (R85, R187). -/
def zeroMapBits (kc : Nat) (rows : List (List Bool)) : List Bool :=
  ((List.range (ceilDiv rows.length 16)).map (fun g =>
    (List.range (kc / 16)).map (fun b =>
      (slice rows (16 * g) 16).all (fun r => (slice r (16 * b) 16).all id)))).flatten

/-- Bits as 64-bit words, least significant first. -/
def bitsToBytes (bs : List Bool) : List Byte :=
  leBytes (8 * ceilDiv bs.length 64) (packNat 1 (bs.map (fun b => if b then 1 else 0)))

/-- VZMAP: FS any operand format of R60; FD is unused. -/
def execVzmap (i : Issue) (s : State) : Out :=
  issueOp "VZMAP" 1 0x28
    (fun w => vFieldsOk { ab := isMx (fFs w), sx := true, fd := false } w && decide (1 ≤ fFs w) && decide (fFs w ≤ 0xA) &&
      !(fGrad w))
    (fun w => [fAd w, fAa w, fSn w, fSx w] ++ (if isMx (fFs w) then [fAbV w] else [])) i s fun c s =>
    let n := vCount s c
    let fs := fFs c.w
    let kc := sxReg s c % 65536
    if n = 0 ∨ n > 16384 ∨ kc = 0 ∨ kc % (if isMx fs then 32 else 16) ≠ 0 ∨ n % kc ≠ 0 then .fault 2
    else
      let d := aReg s c (fAd c.w)
      let a := aReg s c (fAa c.w)
      let b := aReg s c (fAbV c.w)
      let m := n / kc
      let dl := 8 * ceilDiv (ceilDiv m 16 * (kc / 16)) 64
      let rs := [VRange.mk d dl .produce, VRange.mk a (elemBytes fs n) (srcUse (fCons c.w 16))] ++
        (if isMx fs then [VRange.mk b (ceilDiv n 32) (srcUse (fCons c.w 15))] else [])
      withRanges c s 4 rs fun e s =>
        let k := c.task s
        let codes := unpack fs n (loadBytes s c.t k e a (elemBytes fs n))
        let vals := if isMx fs then mxVals fs ((loadBytes s c.t k e b (ceilDiv n 32)).map (·.toNat)) codes
          else codes.map (elemVal fs)
        pokeBytes s c.t k d (bitsToBytes (zeroMapBits kc (rowsOf kc m (vals.map FpVal.isZero))))

/-- Score x ranks above score y: NaN above +∞, then by value (R188). -/
def ranksAbove (x y : FpVal) : Bool :=
  if x.isNan then !(y.isNan)
  else if y.isNan then false
  else if x.isZero && y.isZero then false
  else fpLt y x

/-- Insert expert and score in descending rank; equal scores keep the lower expert first. -/
def rankInsert (x : Nat × FpVal) : List (Nat × FpVal) → List (Nat × FpVal)
  | [] => [x]
  | y :: ys => if ranksAbove x.2 y.2 then x :: y :: ys else y :: rankInsert x ys

/-- The k highest scores of a row in descending rank (R188). -/
def topK (k : Nat) (row : List FpVal) : List (Nat × FpVal) :=
  ((row.mapIdx (fun i v => (i, v))).foldl (fun acc x => rankInsert x acc) []).take k

/-- The bytes of one row's entries: expert and weight, the weight divided by the row's sum under RENORM (R188). -/
def routeEntries (renorm : Bool) (sel : List (Nat × FpVal)) : List Byte :=
  let sum := match sel.map (·.2) with
    | [] => oneF
    | v :: vs => vs.foldl addRne v
  (sel.map (fun p =>
    leBytes 2 p.1 ++ leBytes 2 0 ++
      leBytes 4 (if renorm then fp32.divRne p.2 sum else fp32.convert .rne p.2))).flatten

/-- The dispatch list (R188): the counts, padded to H bytes, then each expert's n token entries. -/
def dispatchList (e n tok0 : Nat) (sels : List (List (Nat × FpVal))) : List Byte :=
  let toks := (List.range e).map (fun x =>
    (sels.mapIdx (fun r sel => (r, sel.any (fun p => p.1 == x)))).filterMap (fun p => if p.2 then some (tok0 + p.1) else none))
  let counts := (toks.map (fun l => leBytes 4 l.length)).flatten
  let h := 32 * ceilDiv (4 * e) 32
  counts ++ List.replicate (h - 4 * e) 0 ++
    (toks.map (fun l => (l.map (fun x => leBytes 4 x)).flatten ++
      List.replicate (4 * (n - l.length)) 0xFF)).flatten

/-- VROUTE (R188): FS and FD are unused. -/
def execVroute (i : Issue) (s : State) : Out :=
  issueOp "VROUTE" 1 0x30
    (fun w => vFieldsOk { ac := true, sx := true, fd := false } w && zero w 25 22 && !(fGrad w) && decide (fSx w ≤ 30))
    (fun w => [fAd w, fAa w, fAc w, fSn w, fSx w, fSx w + 1]) i s fun c s =>
    let n := vCount s c
    let x := sxReg s c
    let e := x % 512
    let k := bitsOf x 19 16
    if n = 0 ∨ n > 512 ∨ e = 0 ∨ e > 256 ∨ k = 0 ∨ k > 8 ∨ k > e then .fault 2
    else
      let d := aReg s c (fAd c.w)
      let a := aReg s c (fAa c.w)
      let cc := aReg s c (fAc c.w)
      let h := 32 * ceilDiv (4 * e) 32
      withRanges c s 4 [⟨d, 8 * n * k, .produce⟩, ⟨a, 4 * n * e, srcUse (fCons c.w 16)⟩, ⟨cc, h + 4 * n * e, .produce⟩] fun ec s =>
        let kk := c.task s
        let sels := (rowsOf e n (loadLane s c ec 0 a (n * e))).map (topK k)
        let s := pokeBytes s c.t kk d ((sels.map (routeEntries (x.testBit 24))).flatten)
        pokeBytes s c.t kk cc (dispatchList e n (sxReg1 s c % 2 ^ 32) sels)

/-! ### The special-function unit -/

/-- SFU.FN: FS = FD, a lane format; SX names the pair under GRAD. -/
def legalSfuFn (w : Nat) : Bool :=
  vFieldsOk { sx := fGrad w, maxFn := 9 } w && fFs w == fFd w && decide (fFs w ≤ 1) && (!(fGrad w) || decide (fSx w ≤ 30))

/-- SFU.FN: the correctly rounded FP32 result; on BF16 lanes converted under RNE, or under SR when GRAD is set (R108). -/
def execSfuFn (i : Issue) (s : State) : Out :=
  issueOp "SFU_FN" 2 0x01 legalSfuFn
    (fun w => [fAd w, fAa w, fSn w] ++ (if fGrad w then [fSx w, fSx w + 1] else [])) i s fun c s =>
    let n := vCount s c
    let fs := fFs c.w
    if n = 0 ∨ n > 16384 then .fault 2
    else
      let d := aReg s c (fAd c.w)
      let a := aReg s c (fAa c.w)
      let len := elemBytes fs n
      withRanges c s 4 [⟨d, len, .produce⟩, ⟨a, len, srcUse (fCons c.w 16)⟩] fun e s =>
        let k := c.task s
        let f := (SfuFn.ofCode (fFnV c.w)).getD .exp
        let src := loadLane s c e fs a n
        let res := src.map (fun v => fp32.decode (sfuEval f (fp32.convert .rne v)))
        let sr := srApplies (fGrad c.w) fs fs
        let rnd := roundings s c sr n
        let s := if sr then countSr s c.t n ((res.zip rnd).filter (fun p => convUp fs p.2 p.1)).length else s
        let r := convPlain fs rnd res
        let s := pokeBytes s c.t k d (pack fs r.1)
        if fGrad c.w then
          detectGrad c.t (sxReg1 s c) 0 ((src.zip r.2).map (fun p => p.1.nonFinite || p.2)) s
        else s

/-- SFU.DACT: D = dy ⊙ f'(x), f' rounded to the lane format, FN 0 to 3 (R190). -/
def execSfuDact (i : Issue) (s : State) : Out :=
  issueOp "SFU_DACT" 2 0x02 (legalArith { ab := true, maxFn := 3 })
    (fun w => [fAd w, fAa w, fAbV w, fSn w]) i s fun c s =>
    let n := vCount s c
    let fs := fFs c.w
    if n = 0 ∨ n > 16384 then .fault 2
    else
      let d := aReg s c (fAd c.w)
      let a := aReg s c (fAa c.w)
      let b := aReg s c (fAbV c.w)
      let len := elemBytes fs n
      withRanges c s 4 [⟨d, len, .produce⟩, ⟨a, len, srcUse (fCons c.w 16)⟩, ⟨b, len, srcUse (fCons c.w 15)⟩] fun e s =>
        let l := (laneFmt fs).getD fp32
        let x := loadLane s c e fs a n
        let dy := loadLane s c e fs b n
        let out := (x.zip dy).map (fun p =>
          l.convert .rne (fpMul (l.rnd (fp32.decode (sfuDeriv (fFnV c.w) (fp32.convert .rne p.1)))) p.2))
        pokeBytes s c.t (c.task s) d (pack fs out)

/-- SFU.FNS: s(D) = f(s(A)[31:0]) in FP32, zero-extended; B must be 0 (R190). -/
def execSfuFns (i : Issue) (s : State) : Out :=
  issueOp "SFU_FNS" 2 0x03
    (fun w => specOk (fD w) && specOk (fA w) && fB w == 0 && decide (bitsOf w 29 25 ≤ 9) && zero w 24 0)
    (fun w => [fA w]) i s fun c s =>
    .done (setXreg s c.t c.th (fD c.w)
      (BitVec.ofNat 64 (sfuEval ((SfuFn.ofCode (bitsOf c.w 29 25)).getD .exp) (aReg s c (fA c.w) % 2 ^ 32))))

end Sys2Proof.Machine
end

