-- ==== Sys2Proof/Machine/AnvilDesc.lean ====
section
/-!
DEFINITION. The pass descriptor (03_anvil_arrays.md R58 to R62): its fields, its validity (R59, R94), where its operands lie in
scratchpad (R61, R81, R85, R100) and which slots it reads and writes.
-/
namespace Sys2Proof.Machine

/-- Word i of a descriptor. -/
def dWord (p : Pass) (i : Nat) : Nat := (nth 0 p.words i).toNat

def dWfmt (p : Pass) : Nat := bitsOf (dWord p 0) 63 60
def dXfmt (p : Pass) : Nat := bitsOf (dWord p 0) 59 56
def dKind (p : Pass) : Nat := bitsOf (dWord p 0) 55 54
def dCoal (p : Pass) : Bool := (dWord p 0).testBit 53
def dTransW (p : Pass) : Bool := (dWord p 0).testBit 52
def dTransX (p : Pass) : Bool := (dWord p 0).testBit 51
def dZmap (p : Pass) : Bool := (dWord p 0).testBit 50
def dSparse (p : Pass) : Nat := bitsOf (dWord p 0) 49 47
def dM (p : Pass) : Nat := bitsOf (dWord p 0) 46 37
def dWslot (p : Pass) : Nat := bitsOf (dWord p 0) 30 16
def dXslot (p : Pass) : Nat := bitsOf (dWord p 0) 14 0
def dChunks (p : Pass) : Nat := bitsOf (dWord p 1) 63 48
def dXstep (p : Pass) : Nat := bitsOf (dWord p 1) 47 32
def dWstep (p : Pass) : Nat := bitsOf (dWord p 1) 31 16
def dXsStep (p : Pass) : Nat := bitsOf (dWord p 2) 63 48
def dWsStep (p : Pass) : Nat := bitsOf (dWord p 2) 47 32
def dWsSlot (p : Pass) : Nat := bitsOf (dWord p 2) 30 16
def dXsSlot (p : Pass) : Nat := bitsOf (dWord p 2) 14 0
def dMaskSlot (p : Pass) : Nat := bitsOf (dWord p 3) 46 32
def dZmapSlot (p : Pass) : Nat := bitsOf (dWord p 3) 30 16
def dZmapStep (p : Pass) : Nat := bitsOf (dWord p 3) 15 0
def dYfmt (p : Pass) : Nat := bitsOf (dWord p 4) 63 60
def dInit (p : Pass) : Bool := (dWord p 4).testBit 59
def dNraw (p : Pass) : Nat := bitsOf (dWord p 4) 58 51
def dPitch (p : Pass) : Nat := bitsOf (dWord p 4) 47 32
def dYsSlot (p : Pass) : Nat := bitsOf (dWord p 4) 30 16
def dYslot (p : Pass) : Nat := bitsOf (dWord p 4) 14 0
def dRow0 (p : Pass) : Nat := bitsOf (dWord p 5) 63 32
def dCol0 (p : Pass) : Nat := bitsOf (dWord p 5) 31 0
def dLd (p : Pass) : Nat := bitsOf (dWord p 6) 63 32
def dStream (p : Pass) : Nat := bitsOf (dWord p 6) 31 0
def dMasked (p : Pass) : Bool := (dWord p 7).testBit 63
def dBmask (p : Pass) : Nat := bitsOf (dWord p 7) 46 32
def dRmask (p : Pass) : Nat := bitsOf (dWord p 7) 30 16

/-- The presented width of a tile: the smallest WIDTH of its anvils (R76). -/
def tileWidth (s : State) (t : Nat) : Nat :=
  min (rdF s (anvPg t 0 + hCap) 23 16) (min (rdF s (anvPg t 1 + hCap) 23 16) (rdF s (anvPg t 2 + hCap) 23 16))

/-- Columns of a pass: N, or the presented width (R58). -/
def dN (w : Nat) (p : Pass) : Nat := if dNraw p = 0 then w else dNraw p

/-- The stationary operand is stored in sparse records: SPARSE on a pass other than KIND 2 (R81, R84). -/
def dSparseW (p : Pass) : Bool := dSparse p != 0 && dKind p != 2

/-- The 4-bit class (R60). -/
def is4bit (p : Pass) : Bool := dWfmt p == 9 && dXfmt p == 9

/-- The dense K of one chunk (R60). -/
def dKc (p : Pass) : Nat := (if is4bit p then 256 else 128) * (if dSparseW p then 2 else 1)

/-- The operand pair is one of R60. -/
def pairOk (wf xf : Nat) : Bool :=
  ((wf == 1 || wf == 2) && (xf == 1 || xf == 2)) ||
    (decide (3 ≤ wf ∧ wf ≤ 9) && decide (3 ≤ xf ∧ xf ≤ 9)) || (wf == 0xA && xf == 0xA)

/-- The bytes of one row of Y. -/
def yRowBytes (w : Nat) (p : Pass) : Nat := elemBytes (dYfmt p) (dN w p)

/-- The slots of one sparse record (R81): values, then a bitmap of four slots. -/
def recordValueSlots (p : Pass) : Nat :=
  ceilDiv ((if dSparse p = 1 then 64 else 32) * 128 * elemBits (dWfmt p)) 4096

def recordSlots (p : Pass) : Nat := recordValueSlots p + 4

/-- The records of one chunk (R81). -/
def dRecords (p : Pass) : Nat := if is4bit p then 4 else 2

/-- The bytes of a chunk of W, from its slot. -/
def wChunkBytes (p : Pass) : Nat :=
  if dSparseW p then 512 * recordSlots p * dRecords p else elemBytes (dWfmt p) (dKc p * 128)

/-- The bytes of a chunk of X. -/
def xChunkBytes (p : Pass) : Nat := elemBytes (dXfmt p) (dM p * dKc p)

/-- The bytes of a chunk's zero map (R85). -/
def zmapBytes (p : Pass) : Nat := 8 * ceilDiv (ceilDiv (dM p) 16 * (dKc p / 16)) 64

/-- The bits of the row mask up to the pass's last row, and of the block mask up to its last block (R87). -/
def rmaskBytes (p : Pass) : Nat := 8 * ceilDiv (dRow0 p + dM p) 64
def bmaskIndex (p : Pass) (row col : Nat) : Nat := row / 128 * ceilDiv (dLd p) 128 + col / 128
def bmaskBytes (w : Nat) (p : Pass) : Nat :=
  8 * ceilDiv (bmaskIndex p (dRow0 p + dM p - 1) (dCol0 p + dN w p - 1) + 1) 64

/-- The scratchpad ranges of a pass: first slot, step in slots, how many, bytes of each. -/
def passRanges (w : Nat) (p : Pass) : List (Nat × Nat × Nat × Nat) :=
  [(dXslot p, dXstep p, dChunks p, xChunkBytes p), (dWslot p, dWstep p, dChunks p, wChunkBytes p),
   (dYslot p, 0, 1, dPitch p * (dM p - 1) + yRowBytes w p)] ++
  (if isMx (dXfmt p) then [(dXsSlot p, dXsStep p, dChunks p, dM p * (dKc p / 32))] else []) ++
  (if isMx (dWfmt p) then [(dWsSlot p, dWsStep p, dChunks p, 128 * (dKc p / 32))] else []) ++
  (if dZmap p then [(dZmapSlot p, dZmapStep p, dChunks p, zmapBytes p)] else []) ++
  (if isMx (dYfmt p) then [(dYsSlot p, 0, 1, 4 * dM p)] else []) ++
  (if dSparse p ≠ 0 ∧ dKind p = 2 then [(dMaskSlot p, 0, 1, 2048 * ceilDiv (dM p) 128)] else []) ++
  (if dMasked p then [(dRmask p, 0, 1, rmaskBytes p), (dBmask p, 0, 1, bmaskBytes w p)] else [])

/-- The last slot of a range. -/
def rangeLast (r : Nat × Nat × Nat × Nat) : Nat := r.1 + r.2.1 * (r.2.2.1 - 1) + (ceilDiv r.2.2.2 512 - 1)

/-- Reserved bits and values of a descriptor: code 0x01 (R58, R59, R94). -/
def descReserved (w : Nat) (p : Pass) : Bool :=
  dKind p == 3 || decide (dSparse p ≥ 3) || dM p == 0 || decide (dM p > 512) || dChunks p == 0 ||
    decide (dWfmt p ≥ 0xC) || decide (dXfmt p ≥ 0xC) || decide (dYfmt p ≥ 0xC) ||
    !(zero (dWord p 0) 36 31) || !(zero (dWord p 0) 15 15) || !(zero (dWord p 1) 15 0) ||
    !(zero (dWord p 2) 31 31) || !(zero (dWord p 2) 15 15) || !(zero (dWord p 3) 63 47) || !(zero (dWord p 3) 31 31) ||
    !(zero (dWord p 4) 50 48) || !(zero (dWord p 4) 31 31) || !(zero (dWord p 4) 15 15) ||
    !(zero (dWord p 7) 62 47) || !(zero (dWord p 7) 31 31) || !(zero (dWord p 7) 15 0) ||
    dPitch p % 32 != 0 || decide (dPitch p < yRowBytes (min w 128) p ∧ dNraw p ≤ 128)

/-- The lowest code of a rule that the descriptor breaks, or none (R59, R94). -/
def descFault (w : Nat) (p : Pass) : Option Nat :=
  let int := dWfmt p == 0xA && dXfmt p == 0xA
  if descReserved w p then some 1
  else if !(pairOk (dWfmt p) (dXfmt p)) || dYfmt p == 0xA || (int != (dYfmt p == 0xB)) then some 2
  else if dN w p > w then some 3
  else if (dTransW p && dKind p != 1) || (dTransX p && dKind p != 2) || (dTransW p && isMx (dWfmt p)) ||
      (dTransX p && isMx (dXfmt p)) || (dMasked p && dKind p != 2) || (dSparse p != 0 && int) then some 4
  else if dInit p && dYfmt p != 0 then some 5
  else if (passRanges w p).any (fun r => decide (rangeLast r > 32767)) then some 6
  else none

/-- Some slot of the pass lies in the shadow pool (R181, R217). -/
def passInPool (s : State) (t w : Nat) (p : Pass) : Bool :=
  (passRanges w p).any (fun r =>
    (List.range r.2.2.1).any (fun c => badRange s t (512 * (r.1 + c * r.2.1)) r.2.2.2))

/-- The uses of chunk c's W block and its scales. -/
def wUses (p : Pass) (c : Nat) : List (Nat × Use) :=
  rangeUses (512 * (dWslot p + c * dWstep p)) (wChunkBytes p) .read ++
    (if isMx (dWfmt p) then rangeUses (512 * (dWsSlot p + c * dWsStep p)) (128 * (dKc p / 32)) .read else [])

/-- The uses of chunk c's streamed rows, their scales and their zero map. -/
def xUses (p : Pass) (c : Nat) : List (Nat × Use) :=
  rangeUses (512 * (dXslot p + c * dXstep p)) (xChunkBytes p) .read ++
    (if isMx (dXfmt p) then rangeUses (512 * (dXsSlot p + c * dXsStep p)) (dM p * (dKc p / 32)) .read else []) ++
    (if dZmap p then rangeUses (512 * (dZmapSlot p + c * dZmapStep p)) (zmapBytes p) .read else [])

/-- The uses of the masks. -/
def maskUses (w : Nat) (p : Pass) : List (Nat × Use) :=
  (if dSparse p ≠ 0 ∧ dKind p = 2 then rangeUses (512 * dMaskSlot p) (2048 * ceilDiv (dM p) 128) .read else []) ++
    (if dMasked p then rangeUses (512 * dRmask p) (rmaskBytes p) .read ++ rangeUses (512 * dBmask p) (bmaskBytes w p) .read
     else [])

/-- The byte address of row m of Y. -/
def yAddr (p : Pass) (m : Nat) : Nat := 512 * dYslot p + m * dPitch p

/-- The slots of the rows of Y, each once, and of an MX output's scales. -/
def ySlots (w : Nat) (p : Pass) (u : Use) : List (Nat × Use) :=
  (((List.range (dM p)).map (fun m => rangeUses (yAddr p m) (yRowBytes w p) u)).flatten.eraseDups) ++
    (if isMx (dYfmt p) then rangeUses (512 * dYsSlot p) (4 * dM p) u else [])

end Sys2Proof.Machine
end

