-- ==== Sys2Proof/Machine/Anvil.lean ====
section
/-!
DEFINITION. The anvils (03_anvil_arrays.md): ANV.PASS, the coalescer, dispatch, the loading and launching of chunks, and the output
stage. Sums follow R109, R110 and, in reference mode, R117.
-/
namespace Sys2Proof.Machine

/-! ### The anvils' lists -/

def anvKey (t a : Nat) : Nat := 4 * t + a

def anvQueue (s : State) (t a : Nat) : List (List Pass) := cGet (fun _ => []) s.anv.queue (anvKey t a)
def setAnvQueue (s : State) (t a : Nat) (q : List (List Pass)) : State :=
  { s with anv := { s.anv with queue := cSet (fun _ => []) s.anv.queue (anvKey t a) q } }

def anvRunning (s : State) (t a : Nat) : List Running := cGet (fun _ => []) s.anv.running (anvKey t a)
def setAnvRunning (s : State) (t a : Nat) (q : List Running) : State :=
  { s with anv := { s.anv with running := cSet (fun _ => []) s.anv.running (anvKey t a) q } }

def anvWaiting (s : State) (t : Nat) : List (List Pass) := cGet (fun _ => []) s.anv.waiting t
def setAnvWaiting (s : State) (t : Nat) (q : List (List Pass)) : State :=
  { s with anv := { s.anv with waiting := cSet (fun _ => []) s.anv.waiting t q } }

def anvGroups (s : State) (t : Nat) : List Group := cGet (fun _ => []) s.anv.groups t
def setAnvGroups (s : State) (t : Nat) (q : List Group) : State :=
  { s with anv := { s.anv with groups := cSet (fun _ => []) s.anv.groups t q } }

def anvBehind (s : State) (t : Nat) : List Pass := cGet (fun _ => []) s.anv.behind t
def setAnvBehind (s : State) (t : Nat) (q : List Pass) : State :=
  { s with anv := { s.anv with behind := cSet (fun _ => []) s.anv.behind t q } }

/-- The tile's partition runs in reference mode: SPK_STAT.REF. -/
def refMode (s : State) (t : Nat) : Bool := rdB s (spkPg t + 0x104) 0

/-- The pass entry's first member, whose descriptor gives what the group shares. -/
def leadPass (ps : List Pass) : Pass := ps.headD { thr := 0, gen := 0, task := none, addr := 0, words := [], step := 0, stamp := 0 }

/-! ### Dispatch (R46, R71, R88) -/

/-- An anvil is idle of passes: its queue is empty. -/
def anvRoom (s : State) (t a n : Nat) : Bool := decide ((anvQueue s t a).length < n)

/-- The anvil that takes an entry now, by the rules of R46, or none. -/
def dispatchTo (s : State) (t : Nat) (ps : List Pass) : Option Nat :=
  if refMode s t then (if anvRoom s t 2 4 then some 2 else none)
  else match dKind (leadPass ps) with
    | 1 => if anvRoom s t 1 4 then some 1 else none
    | 2 => if anvRoom s t 2 4 then some 2 else none
    | _ =>
      if anvRoom s t 0 4 then some 0
      else if anvRoom s t 1 1 then some 1
      else if anvRoom s t 2 1 then some 2
      else none

/-- Some thread of the entry has an entry among those waiting (R71). -/
def sharesThread (ps : List Pass) (l : List (List Pass)) : Bool :=
  l.any (fun qs => qs.any (fun q => ps.any (fun p => p.thr == q.thr)))

/-- Send an entry to its anvil, or let it wait at dispatch: behind every waiting entry of its threads (R46, R71). -/
def dispatchEntry (s : State) (t : Nat) (ps : List Pass) : State :=
  if sharesThread ps (anvWaiting s t) then setAnvWaiting s t (anvWaiting s t ++ [ps])
  else
    match dispatchTo s t ps with
    | some a => setAnvQueue s t a (anvQueue s t a ++ [ps])
    | none => setAnvWaiting s t (anvWaiting s t ++ [ps])

/-- PASS_DISPATCH: a waiting entry is dispatched as soon as a rule of R46 holds. -/
def execPassDispatch (tile : Fin 288) (index now : Nat) (s : State) : Out :=
  let s := tick s now
  let t := tile.val
  let l := anvWaiting s t
  match l[index]? with
  | none => .next s
  | some ps =>
    if sharesThread ps (l.take index) then .next s
    else
      match dispatchTo s t ps with
      | some a => .next (setAnvQueue (setAnvWaiting s t (l.eraseIdx index)) t a (anvQueue s t a ++ [ps]))
      | none => .next s

/-! ### The coalescer (R89 to R91) -/

/-- The descriptor with the fields cleared in which members of a group may differ (R90). -/
def coalKey (p : Pass) : List Nat :=
  [putBits (putBits (putBits (dWord p 0) 14 0 0) 50 50 0) 46 37 0, dWord p 1, putBits (dWord p 2) 14 0 0,
   putBits (dWord p 3) 30 16 0, putBits (putBits (putBits (dWord p 4) 14 0 0) 30 16 0) 47 32 0,
   dWord p 6 / 2 ^ 32, dWord p 7]

/-- The rows of a group. -/
def groupRows (ps : List Pass) : Nat := sumNat (ps.map dM)

/-- The passes that a tile's coalescer holds. -/
def heldPasses (s : State) (t : Nat) : Nat := sumNat ((anvGroups s t).map (fun g => g.members.length))

/-- Insert a member by receive stamp, ties by ascending thread (R90). -/
def memberInsert (p : Pass) : List Pass → List Pass
  | [] => [p]
  | q :: qs =>
    if p.stamp < q.stamp ∨ (p.stamp = q.stamp ∧ p.thr < q.thr) then p :: q :: qs else q :: memberInsert p qs

def coalCfg (t : Nat) : Nat := anvPg t 0 + 0x180

/-- Issue a group as one pass: counted, and sent to dispatch (R91). -/
def issueGroup (s : State) (t : Nat) (g : Group) : State :=
  let s := setAnvGroups s t ((anvGroups s t).filter (fun h => h.id != g.id))
  let s := incBy (inc s (anvPg t 0 + 0x188)) (anvPg t 0 + 0x18C) g.members.length
  dispatchEntry s t g.members

/-- The group with the earliest deadline. -/
def earliestGroup : List Group → Option Group
  | [] => none
  | g :: gs =>
    match earliestGroup gs with
    | some h => if h.deadline < g.deadline then some h else some g
    | none => some g

/-- The coalescer is full: 4 groups or 32 passes (R90). -/
def coalFull (s : State) (t : Nat) : Bool := decide ((anvGroups s t).length ≥ 4) || decide (heldPasses s t ≥ 32)

/-- Open a group with a pass; a full coalescer first issues the group with the earliest deadline (R91). -/
def openGroup (s : State) (t : Nat) (p : Pass) : State :=
  let s := if coalFull s t then
      match earliestGroup (anvGroups s t) with
      | some g => issueGroup s t g
      | none => s
    else s
  let g : Group := { id := s.anv.nextGrp, members := [p], deadline := p.stamp + rdF s (anvPg t 0 + 0x184) 19 0,
                     fill := rdF s (coalCfg t) 25 16, thresh := rdF s (coalCfg t) 9 0 }
  let s := { s with anv := { s.anv with nextGrp := s.anv.nextGrp + 1 } }
  let s := setAnvGroups s t (anvGroups s t ++ [g])
  if groupRows g.members ≥ g.fill then issueGroup s t g else s

/-- The open group that a pass joins: it matches, has room for the rows, and its deadline has not passed (R90, R91). -/
def joinable (s : State) (t : Nat) (p : Pass) : Option Group :=
  (anvGroups s t).find? (fun g =>
    coalKey (leadPass g.members) == coalKey p && decide (groupRows g.members + dM p ≤ 512) &&
      decide (p.stamp ≤ g.deadline) && decide (dM p < g.thresh))

/-- Hold a pass in the coalescer (R89, R91): it joins a matching group, or opens one; a group that reaches FILL rows issues. -/
def holdPass (s : State) (t : Nat) (p : Pass) : State :=
  match joinable s t p with
  | some g =>
    if heldPasses s t ≥ 32 then openGroup s t p
    else
      let g' := { g with members := memberInsert p g.members }
      let s := setAnvGroups s t ((anvGroups s t).map (fun h => if h.id = g.id then g' else h))
      if groupRows g'.members ≥ g'.fill then issueGroup s t g' else s
  | none => openGroup s t p

/-- The pass is one that the coalescer holds (R89). -/
def coalHolds (s : State) (t : Nat) (p : Pass) : Bool :=
  dCoal p && rdB s (coalCfg t) 31 && (decide (dM p < rdF s (coalCfg t) 9 0) || (joinable s t p).isSome)

/-- A pass of the thread is held or waits behind one. -/
def threadHeld (s : State) (t th : Nat) : Bool :=
  (anvGroups s t).any (fun g => g.members.any (fun q => q.thr == th)) || (anvBehind s t).any (fun q => q.thr == th)

/-- A valid pass enters: it is held, goes in behind a held pass of its thread, or goes to dispatch (R89). -/
def enterPass (s : State) (t : Nat) (p : Pass) : State :=
  if threadHeld s t p.thr then
    if coalHolds s t p && (joinable s t p).isSome && !((anvBehind s t).any (fun q => q.thr == p.thr)) then holdPass s t p
    else setAnvBehind s t (anvBehind s t ++ [p])
  else if coalHolds s t p then holdPass s t p
  else dispatchEntry s t [p]

/-- Passes behind a group that has issued enter in order; those still behind a held pass stay (R89). -/
def releaseBehind (s : State) (t : Nat) : Nat → State
  | 0 => s
  | n + 1 =>
    match (anvBehind s t).find? (fun p => !((anvGroups s t).any (fun g => g.members.any (fun q => q.thr == p.thr)))) with
    | none => s
    | some p =>
      let s := setAnvBehind s t ((anvBehind s t).erase p)
      let s := if coalHolds s t p then holdPass s t p else dispatchEntry s t [p]
      releaseBehind s t n

/-- After a group has issued. -/
def settleBehind (s : State) (t : Nat) : State := releaseBehind s t (anvBehind s t).length

/-- COAL_TIMEOUT: local fabric time passes the deadline plus 64 ns (R91). -/
def execCoalTimeout (tile : Fin 288) (group now : Nat) (s : State) : Out :=
  let s := tick s now
  let t := tile.val
  match (anvGroups s t).find? (fun g => g.id == group) with
  | some g =>
    if s.time > g.deadline + 64 then
      .next (settleBehind (issueGroup (inc s (anvPg t 0 + 0x190)) t g) t)
    else .next s
  | none => .next s

/-- Issue every open group, earliest opened first. -/
def issueAll (s : State) (t : Nat) : List Group → State
  | [] => s
  | g :: gs => issueAll (issueGroup s t g) t gs

/-! ### ANV.PASS (R57, R59, R191) -/

/-- The page on which a FORMAT fault is logged: the anvil that the pass would have gone to (R94). -/
def formatPage (s : State) (t : Nat) (p : Pass) : Nat :=
  if refMode s t then anvPg t 2
  else anvPg t (match dKind p with
    | 1 => 1
    | 2 => 2
    | _ => 0)

/-- Log a fault of an anvil: its class bit, its code with the descriptor's address, and its count (R94, R95). -/
def anvFault (s : State) (pg code addr : Nat) : State :=
  let bit := if code ≤ 6 then 1 else if code = 7 then 2 else 4
  inc (latchBlk (intSet s pg bit) pg code addr) (pg + 0x140)

/-- The descriptor of a thread's pass: eight words read at its address. -/
def readPass (s : State) (c : OpCtx) (e : Ecc) (a : Nat) : Pass :=
  let x := thrOf s c.t c.th
  { thr := c.th, gen := x.gen, task := x.task, addr := a,
    words := (List.range 8).map (fun i => BitVec.ofNat 64 (loadNat s c.t x.task e (a + 8 * i) 8)),
    step := spkStep s c.t, stamp := s.time }

/-- ANV.PASS: the coalescer or a pass queue has room; D receives 0 ACCEPTED or 1 INVALID (R152, R191). -/
def execAnvPass (i : Issue) (s : State) : Out :=
  issueOp "ANV_PASS" 3 0x01 (fun w => specOk (fD w) && zero w 38 0) (fun w => [32 + bitsOf w 41 39]) i s fun c s =>
    let t := c.t
    let a := aReg s c (32 + bitsOf c.w 41 39)
    if badRange s t a 64 then .fault 3
    else if a % 64 ≠ 0 then .fault 5
    else if !(decide (heldPasses s t < 32) || anvRoom s t 0 4 || anvRoom s t 1 4 || anvRoom s t 2 4) then .wait
    else
      let e := spadEcc s t [(a, 64)] c.ecc
      let p := readPass e.2 c e.1 a
      let s := spadEccNote e.2 t 2 e.1
      let w := tileWidth s t
      match descFault w p with
      | some code => .done (setXreg (anvFault s (formatPage s t p) code a) t c.th (fD c.w) 1)
      | none =>
        if passInPool s t w p then .fault 3
        else
          match shadowAll s t p.task (ySlots w p .poke) with
          | none => .fault 7
          | some s => .done (setXreg (settleBehind (enterPass s t p) t) t c.th (fD c.w) 0)

/-! ### Operands of a chunk -/

/-- Bit i of a packed map at a byte address, as the pass's thread sees it. -/
def mapBit (s : State) (t : Nat) (k : Option (Fin 4)) (a i : Nat) : Bool :=
  (seeByte s t k (a + i / 8)).toNat.testBit (i % 8)

/-- Element i of a packed array at a byte address. -/
def elemAt (s : State) (t : Nat) (k : Option (Fin 4)) (code a i : Nat) : Nat :=
  let w := elemBits code
  let b := w * i
  bitsOf (seeNat s t k (a + b / 8) (ceilDiv (b % 8 + w) 8)) (b % 8 + w - 1) (b % 8)

/-- Bit (r, q) of a record's bitmap, at the record's address. -/
def recBit (s : State) (t : Nat) (p : Pass) (a r q : Nat) : Bool :=
  mapBit s t p.task (a + 512 * recordValueSlots p) (128 * r + q)

/-- The element that a record holds at dense row r and column q: the entry of its place among the ones of its group of four (R81). -/
def recElem (s : State) (t : Nat) (p : Pass) (a r q : Nat) : Option Nat :=
  if recBit s t p a r q then
    let g := r / 4
    let before := ((List.range (r % 4)).filter (fun i => recBit s t p a (4 * g + i) q)).length
    let row := if dSparse p = 1 then 2 * g + before else g
    some (elemAt s t p.task (dWfmt p) a (128 * row + q))
  else none

/-- Every aligned 4 x 4 block of a record has at most n ones in each row and in each column (R82). -/
def bitmapOk (s : State) (t : Nat) (p : Pass) (a : Nat) : Bool :=
  let n := if dSparse p = 1 then 2 else 1
  (List.range 32).all (fun br => (List.range 32).all (fun bc =>
    (List.range 4).all (fun i =>
      decide (((List.range 4).filter (fun j => recBit s t p a (4 * br + i) (4 * bc + j))).length ≤ n) &&
      decide (((List.range 4).filter (fun j => recBit s t p a (4 * br + j) (4 * bc + i))).length ≤ n))))

/-- The address of record r of chunk c. -/
def recAddr (p : Pass) (c r : Nat) : Nat := 512 * (dWslot p + c * dWstep p + r * recordSlots p)

/-- The bitmaps of a chunk's records pass their check. -/
def chunkBitmapsOk (s : State) (t : Nat) (p : Pass) (c : Nat) : Bool :=
  !(dSparseW p) || (List.range (dRecords p)).all (fun r => bitmapOk s t p (recAddr p c r))

/-- The W block of a chunk: element (k, j) (R58, R78, R81). A dense block is stored with K rows of 128 columns, and read
transposed under TRANS_W. -/
def wElem (s : State) (t : Nat) (p : Pass) (c k j : Nat) : Option Nat :=
  if dSparseW p then
    let a := recAddr p c (k / 128)
    if dTransW p then recElem s t p a j (k % 128) else recElem s t p a (k % 128) j
  else
    let a := 512 * (dWslot p + c * dWstep p)
    some (elemAt s t p.task (dWfmt p) a (if dTransW p then j * dKc p + k else 128 * k + j))

/-- Load a chunk's W block of n columns with its scales (R61, R64, R100). -/
def loadW (s : State) (t n : Nat) (p : Pass) (c : Nat) : WBlock :=
  { chunk := c,
    elems := (List.range (dKc p)).map (fun k => (List.range n).map (fun j => wElem s t p c k j)),
    scales := if isMx (dWfmt p) then
        (List.range n).map (fun j => (List.range (dKc p / 32)).map (fun b =>
          (seeByte s t p.task (512 * (dWsSlot p + c * dWsStep p) + j * (dKc p / 32) + b)).toNat))
      else [] }

/-- A value times the scale with an E8M0 code (R99). -/
def scaled (sc : Option Nat) (v : FpVal) : FpVal :=
  match sc with
  | none => v
  | some c =>
    match e8m0 c, v with
    | .fin _ _ e, .fin n m e' => .fin n m (e' + e)
    | .nan, _ => .nan
    | _, v => v

/-- Element (m, k) of a chunk of X: M rows of K_c elements, or stored transposed under TRANS_X (R58, R78, R100). -/
def xVal (s : State) (t : Nat) (p : Pass) (c m k : Nat) : FpVal :=
  let a := 512 * (dXslot p + c * dXstep p)
  let code := elemAt s t p.task (dXfmt p) a (if dTransX p then k * dM p + m else m * dKc p + k)
  scaled (if isMx (dXfmt p) then
      some (seeByte s t p.task (512 * (dXsSlot p + c * dXsStep p) + m * (dKc p / 32) + k / 32)).toNat
    else none) (elemVal (dXfmt p) code)

/-- The integer code of element (m, k) of X on an INT8 pass. -/
def xInt (s : State) (t : Nat) (p : Pass) (c m k : Nat) : Int :=
  let a := 512 * (dXslot p + c * dXstep p)
  toSigned 8 (elemAt s t p.task (dXfmt p) a (if dTransX p then k * dM p + m else m * dKc p + k))

/-- The value of element (k, j) of a loaded W block; none where it is pruned. -/
def wVal (p : Pass) (b : WBlock) (k j : Nat) : Option FpVal :=
  (nth none (nth [] b.elems k) j).map (fun c =>
    scaled (if isMx (dWfmt p) then some (nth 0 (nth [] b.scales j) (k / 32)) else none) (elemVal (dWfmt p) c))

/-- The billet of (m, k) in chunk c is marked all zero (R85, R86). -/
def zeroBillet (s : State) (t : Nat) (p : Pass) (c m k : Nat) : Bool :=
  dZmap p &&
    mapBit s t p.task (512 * (dZmapSlot p + c * dZmapStep p))
      (if dTransX p then k / 16 * ceilDiv (dM p) 16 + m / 16 else m / 16 * (dKc p / 16) + k / 16)

/-- Every billet of the 16-row group of row m is marked in chunk c: the group is not launched (R86). -/
def groupSkipped (s : State) (t : Nat) (p : Pass) (c m : Nat) : Bool :=
  dZmap p && (List.range (dKc p / 16)).all (fun b => zeroBillet s t p c m (16 * b))

/-- BB's masks cover element (m, j): its row bit or its block bit is 0 (R50, R87). -/
def maskedOut (s : State) (t : Nat) (p : Pass) (m j : Nat) : Bool :=
  dMasked p &&
    !(mapBit s t p.task (512 * dRmask p) (dRow0 p + m) &&
      mapBit s t p.task (512 * dBmask p) (bmaskIndex p (dRow0 p + m) (dCol0 p + j)))

/-- The sparsity output mask of a KIND 2 pass covers element (m, j): its bit is 0 (R84). -/
def outMasked (s : State) (t : Nat) (p : Pass) (m j : Nat) : Bool :=
  dSparse p != 0 && dKind p == 2 &&
    !(mapBit s t p.task (512 * dMaskSlot p + 2048 * (m / 128)) (128 * (m % 128) + j))

/-- All elements of row m are masked in the pass (R87). -/
def rowOmitted (s : State) (t n : Nat) (p : Pass) (m : Nat) : Bool :=
  dMasked p && (List.range n).all (fun j => maskedOut s t p m j)

/-! ### Sums -/

/-- The present products of element (m, j) in positions k0 to k0 + len - 1 of a chunk (R62, R81, R86). -/
def products (s : State) (t : Nat) (p : Pass) (b : WBlock) (m j k0 len : Nat) : List FpVal :=
  (rangeFrom k0 len).filterMap (fun k =>
    if zeroBillet s t p b.chunk m k then none
    else (wVal p b k j).map (fun w => fpMul (xVal s t p b.chunk m k) w))

/-- The INT8 sum of a chunk (R62). -/
def intSum (s : State) (t : Nat) (p : Pass) (b : WBlock) (m j : Nat) : Int :=
  (List.range (dKc p)).foldl (fun acc k =>
    if zeroBillet s t p b.chunk m k then acc
    else match nth none (nth [] b.elems k) j with
      | some c => acc + xInt s t p b.chunk m k * toSigned 8 c
      | none => acc) 0

/-- One reference chunk: the products rounded to FP32 and added in ascending K (R117). -/
def refSum (l : List FpVal) : FpVal := l.foldl (fun acc v => addRne acc (fp32.rnd v)) (.fin false 0 0)

/-- Add a chunk to an element's accumulator (R109, R117, R62). -/
def accAdd (s : State) (t : Nat) (ref : Bool) (p : Pass) (b : WBlock) (m j : Nat) (a : AccCell) : AccCell :=
  if dWfmt p = 0xA then
    { a with code := ofSigned 32 (toSigned 32 a.code + intSum s t p b m j) }
  else if ref then
    { a with refs := a.refs ++ (List.range (dKc p / 128)).map (fun r =>
        fp32.convert .rne (refSum (products s t p b m j (128 * r) 128))) }
  else
    { a with code := fp32.convert .rne (addRne (fp32.decode a.code) (fp32.rnd (exactSum (products s t p b m j 0 (dKc p))))) }

def accZero : AccCell := { code := 0, refs := [] }

/-- The rows of an entry: each member with its row, in order (R90). -/
def entryRows (ps : List Pass) : List (Pass × Nat) := (ps.map (fun p => (List.range (dM p)).map (fun m => (p, m)))).flatten

/-- Add a chunk to every element of the entry's launched rows. -/
def launchRows (s : State) (t n : Nat) (ref : Bool) (b : WBlock) : Nat → List (Pass × Nat) → Cells AccCell → Cells AccCell
  | _, [], acc => acc
  | r, (p, m) :: rows, acc =>
    let acc' := if rowOmitted s t n p m then acc
      else (List.range n).foldl (fun acc j =>
        cSet (fun _ => accZero) acc (128 * r + j) (accAdd s t ref p b m j (cGet (fun _ => accZero) acc (128 * r + j)))) acc
    launchRows s t n ref b (r + 1) rows acc'

/-! ### Loading a chunk (R64, R69, R72, R82) -/

/-- Y's FP32 values as the accumulator's start (R69). -/
def initAcc (s : State) (t n : Nat) : Nat → List (Pass × Nat) → Cells AccCell → Cells AccCell
  | _, [], acc => acc
  | r, (p, m) :: rows, acc =>
    initAcc s t n (r + 1) rows ((List.range n).foldl (fun acc j =>
      cSet (fun _ => accZero) acc (128 * r + j) { code := seeNat s t p.task (yAddr p m + 4 * j) 4, refs := [] }) acc)

/-- Every slot of a list allows a read now, for each member's view. -/
def usesReady (s : State) (t : Nat) (ps : List Pass) (f : Pass → List (Nat × Use)) : Bool :=
  ps.all (fun p => (firstBlocked s t p.task (f p)).isNone)

/-- A fault after dispatch: the pass's Y will be NaN, ANVIL is detected, and an anvil's own cause is logged (R72, R94). -/
def dispatchFault (s : State) (t a : Nat) (code : Option Nat) (ps : List Pass) : State :=
  let s := match code with
    | some c => anvFault s (anvPg t a) c (leadPass ps).addr
    | none => s
  detectTile s t 2 (leadPass ps).addr

/-- Empty Y's slots as INIT reads them (R70). -/
def emptyY (t n : Nat) : List Pass → State → State
  | [], s => s
  | p :: ps, s => emptyY t n ps (settleTags s t p.task (ySlots n p .consume))

/-- The pass at the head of the queue starts in an anvil: with INIT, Y is loaded first (R69). None where it must wait. -/
def startRun (s : State) (t _a : Nat) (ps : List Pass) : Option (Running × State) :=
  let w := tileWidth s t
  let n := dN w (leadPass ps)
  if !(usesReady s t ps (maskUses w)) then none
  else if dInit (leadPass ps) then
    if usesReady s t ps (fun p => ySlots w p .consume) then
      let acc := initAcc s t n 0 (entryRows ps) []
      some ({ members := ps, loaded := [], nextLoad := 0, launched := 0, acc := acc, init := true, faulted := false },
        emptyY t w ps s)
    else none
  else some ({ members := ps, loaded := [], nextLoad := 0, launched := 0, acc := [], init := false, faulted := false }, s)

/-- The number of rows of an entry that BB omits. -/
def omittedRows (s : State) (t n : Nat) (ps : List Pass) : Nat :=
  ((entryRows ps).filter (fun r => rowOmitted s t n r.1 r.2)).length

/-- Load the next chunk of a running pass (R64, R82): the bitmap check and the parity of the weight registers. -/
def loadChunk (s : State) (t a : Nat) (r : Running) (fault : AnvFault) (ecc : Ecc) : Option (Running × State) :=
  let p := leadPass r.members
  let w := tileWidth s t
  let c := r.nextLoad
  if (firstBlocked s t p.task (wUses p c)).isSome then none
  else
    let e := spadEcc s t [(512 * (dWslot p + c * dWstep p), wChunkBytes p)] ecc
    let s := spadEccNote e.2 t 2 e.1
    let inj := injectEvent s (anvPg t a) [3]
    let s := inj.2
    let bad := match e.1 with
      | .uncorrectable _ => true
      | _ => false
    let code := if !(chunkBitmapsOk s t p c) then some 7
      else if inj.1.isSome || fault == .weightParity then some 8 else none
    let s := if code.isSome || bad then dispatchFault s t a code r.members else s
    some ({ r with loaded := r.loaded ++ [loadW s t (dN w p) p c], nextLoad := c + 1,
                   faulted := r.faulted || code.isSome || bad }, s)

/-- ANV_CHUNK_LOAD: the anvil's next chunk loads into the idle weight buffer, once its slots allow it; the pass at the head of the
queue starts when the anvil has no pass left to load. A pass whose rows are all masked runs no chunk, in which ANV_OMIT_CNT would count
its rows, and leaves at once (R87). -/
def execAnvChunkLoad (tile : Fin 288) (anvil : Fin 3) (fault : AnvFault) (ecc : Ecc) (now : Nat) (s : State) : Out :=
  let s := tick s now
  let t := tile.val
  let a := anvil.val
  let rs := anvRunning s t a
  match rs.reverse with
  | r :: older =>
    if r.nextLoad < dChunks (leadPass r.members) then
      if r.loaded.length ≥ 2 then .next s
      else
        match loadChunk s t a r fault ecc with
        | some (r', s) => .next (setAnvRunning s t a (older.reverse ++ [r']))
        | none => .next s
    else if rs.length ≥ 2 ∨ r.launched < dChunks (leadPass r.members) then .next s
    else
      match anvQueue s t a with
      | [] => .next s
      | ps :: _ =>
        let n := dN (tileWidth s t) (leadPass ps)
        match startRun s t a ps with
        | none => .next s
        | some (r', s') =>
          if omittedRows s t n ps = (entryRows ps).length then
            .next (setAnvQueue s t a ((anvQueue s t a).drop 1))
          else
            match loadChunk s' t a r' fault ecc with
            | some (r'', s'') => .next (setAnvRunning s'' t a (rs ++ [r'']))
            | none => .next s
  | [] =>
    match anvQueue s t a with
    | [] => .next s
    | ps :: _ =>
      let n := dN (tileWidth s t) (leadPass ps)
      match startRun s t a ps with
      | none => .next s
      | some (r', s') =>
        if omittedRows s t n ps = (entryRows ps).length then
          .next (setAnvQueue s t a ((anvQueue s t a).drop 1))
        else
          match loadChunk s' t a r' fault ecc with
          | some (r'', s'') => .next (setAnvRunning s'' t a [r''])
          | none => .next s

/-- The 16-row groups of the members that chunk c does not launch (R86). -/
def skippedGroups (s : State) (t c : Nat) (ps : List Pass) : Nat :=
  sumNat (ps.map (fun p => ((List.range (ceilDiv (dM p) 16)).filter (fun g => groupSkipped s t p c (16 * g))).length))

/-- ANV_CHUNK_LAUNCH: the loaded chunk's rows are launched and added, once the slots of its streamed rows allow it (R64, R70). -/
def execAnvChunkLaunch (tile : Fin 288) (anvil : Fin 3) (feedStalls loadStalls : Nat) (ecc : Ecc) (now : Nat)
    (s : State) : Out :=
  let s := tick s now
  let t := tile.val
  let a := anvil.val
  match (anvRunning s t a).reverse with
  | [] => .next s
  | r :: older =>
    match r.loaded with
    | [] => .next s
    | b :: rest =>
      if !(usesReady s t r.members (fun p => xUses p b.chunk)) then .next s
      else
        let p := leadPass r.members
        let n := dN (tileWidth s t) p
        let pg := anvPg t a
        let e := spadEcc s t (r.members.map (fun q => (512 * (dXslot q + b.chunk * dXstep q), xChunkBytes q))) ecc
        let s := spadEccNote e.2 t 2 e.1
        let bad := match e.1 with
          | .uncorrectable _ => true
          | _ => false
        let s := if bad then dispatchFault s t a none r.members else s
        let rows := entryRows r.members
        let om := omittedRows s t n r.members
        let skippedRows := (rows.filter (fun x => !(rowOmitted s t n x.1 x.2) && groupSkipped s t x.1 b.chunk x.2)).length
        let acc := launchRows s t n (refMode s t) b 0 rows r.acc
        let s := inc64 s (pg + 0x120) 1
        let s := inc64 s (pg + 0x128) (rows.length - om - skippedRows)
        let s := incBy (incBy s (pg + 0x130) feedStalls) (pg + 0x134) loadStalls
        let s := incBy (incBy s (pg + 0x138) (skippedGroups s t b.chunk r.members)) (pg + 0x13C) om
        let r' := { r with loaded := rest, launched := r.launched + 1, acc := acc, faulted := r.faulted || bad }
        let s := setAnvRunning s t a (older.reverse ++ [r'])
        -- the pass leaves its queue place at its last launch
        .next (if r'.launched = dChunks p then setAnvQueue s t a ((anvQueue s t a).drop 1) else s)

/-! ### The output stage (R67, R68, R70) -/

/-- The linear index of element (m, j) of Y (R58). -/
def linIndex (p : Pass) (m j : Nat) : Nat := (dRow0 p + m) * dLd p + dCol0 p + j

/-- An element's final FP32 or INT32 code (R109, R117). -/
def accFinal (ref : Bool) (p : Pass) (a : AccCell) : Nat :=
  if dWfmt p = 0xA ∨ ref = false then a.code
  else
    let t := pairwise addRne 64 (a.refs.map fp32.decode)
    if dInit p then fp32.convert .rne (addRne (fp32.decode a.code) t) else fp32.convert .rne t

/-- The NaN code with which a faulted pass fills Y: canonical NaN, or 0 in formats that have none (R72). -/
def faultCode (yf : Nat) : Nat :=
  match elemOf yf with
  | some (.fp f) => f.nan
  | _ => 0

/-- One row of Y written: its bytes, its scales, the non-finite elements, the stochastic conversions and those rounded away. -/
def outRow (s : State) (t n : Nat) (ref faulted : Bool) (p : Pass) (r m : Nat) (acc : Cells AccCell) :
    List Byte × List Byte × List (Nat × Bool) × Nat × Nat :=
  let yf := dYfmt p
  if faulted then
    (pack yf ((List.range n).map (fun _ => if isMx yf then 0 else faultCode yf)),
     if isMx yf then List.replicate (ceilDiv n 32) 0xFF else [], [], 0, 0)
  else
    let cols := List.range n
    let masked := cols.map (fun j => maskedOut s t p m j || outMasked s t p m j)
    let codes := cols.map (fun j => accFinal ref p (cGet (fun _ => accZero) acc (128 * r + j)))
    if yf = 0xB then (pack yf codes, [], [], 0, 0)
    else
      let vals := (codes.zip masked).map (fun c => if c.2 then .fin false 0 0 else fp32.decode c.1)
      let sr := dKind p != 0 && yf != 0
      let rnd := cols.map (fun j =>
        if sr then Rounding.sr (sparkU s t (BitVec.ofNat 32 (dStream p)) p.step (linIndex p m j)) else .rne)
      let ups := if sr then ((vals.zip rnd).filter (fun x => convUp yf x.2 x.1)).length else 0
      let check := fun (bad : List Bool) =>
        if dKind p = 0 then []
        else (cols.zip (masked.zip ((vals.map FpVal.nonFinite).zip bad))).filterMap (fun x =>
          if x.2.1 then none else some (linIndex p m x.1, x.2.2.1 || x.2.2.2))
      if isMx yf then
        let o := convMx yf rnd vals
        (pack yf o.2.1, o.1.map (BitVec.ofNat 8), check o.2.2, if sr then n else 0, ups)
      else
        let o := convPlain yf rnd vals
        (pack yf o.1, [], check o.2, if sr then n else 0, ups)

/-- Detect GRAD at the elements marked non-finite. -/
def detectElems (t : Nat) : List (Nat × Bool) → State → State
  | [], s => s
  | (i, b) :: l, s => detectElems t l (if b then detectTile s t 0 (i % 2 ^ 64) else s)

/-- Write the rows of Y. -/
def outRows (t n : Nat) (ref faulted : Bool) (acc : Cells AccCell) : Nat → List (Pass × Nat) → State → State
  | _, [], s => s
  | r, (p, m) :: rows, s =>
    let o := outRow s t n ref faulted p r m acc
    let s := pokeBytes s t p.task (yAddr p m) o.1
    let s := pokeBytes s t p.task (512 * dYsSlot p + 4 * m) o.2.1
    let s := countSr s t o.2.2.2.1 o.2.2.2.2
    outRows t n ref faulted acc (r + 1) rows (detectElems t o.2.2.1 s)

/-- Set Y's slots full. -/
def fillY (t w : Nat) : List Pass → State → State
  | [], s => s
  | p :: ps, s => fillY t w ps (settleTags s t p.task (ySlots w p .produce))

/-- ANV_OUTPUT: the oldest pass whose chunks have all launched is converted and written, once Y's slots are empty; a parity error
in the accumulator makes it a faulted pass (R68, R70, R72). -/
def execAnvOutput (tile : Fin 288) (anvil : Fin 3) (fault : AnvFault) (now : Nat) (s : State) : Out :=
  let s := tick s now
  let t := tile.val
  let a := anvil.val
  match anvRunning s t a with
  | [] => .next s
  | r :: rest =>
    let p := leadPass r.members
    let w := tileWidth s t
    if r.launched < dChunks p then .next s
    else if !(usesReady s t r.members (fun q => ySlots w q .produce)) then .next s
    else
      let s := if fault = .accParity then dispatchFault s t a (some 9) r.members else s
      let bad := r.faulted || fault == .accParity
      let s := outRows t (dN w p) (refMode s t) bad r.acc 0 (entryRows r.members) s
      .next (setAnvRunning (fillY t w r.members s) t a rest)

end Sys2Proof.Machine
end

