-- ==== Sys2Proof/Machine/Memory.lean ====
section
/-!
DEFINITION. The memory of a partition: where a partition-relative address lies (10_hbm4_memory.md R250, 11_tiers_and_pool.md R280 to
R282), the update task's shadow pages (05_update_pass_quench_temper.md R132, R133), and reads and writes of its bytes with what every
device write brings about (09_bellows.md R237, 15_billets_and_recovery.md R379).
-/
namespace Sys2Proof.Machine

/-! ### The address hash (R249, R250) -/

/-- The bytes of a page and of an HBM frame (R280, R281). -/
def pageBytes : Nat := 2097152

/-- The bytes of a stack (R249). -/
def stackBytes : Nat := 103079215104

/-- The stacks of partition p by ascending number. -/
def partStacks (s : State) (p : Nat) : List Nat := ((partSlices s p).map (fun sl => rangeFrom (4 * sl) 4)).flatten

/-- g of R250. -/
def hashG (q : Nat) : Nat := (bitsOf q 7 0 ^^^ bitsOf q 15 8) ^^^ (bitsOf q 23 16 ^^^ bitsOf q 28 24)

/-- The block within its stack, of an HBM address over S stacks. -/
def hashQ (n h : Nat) : Nat := h / 256 / n

/-- The index of the stack among the partition's. -/
def hashJ (n h : Nat) : Nat := (h / 256 % n + hashG (hashQ n h)) % n

/-- The row, bank, column and pseudo-channel of block q of a stack. -/
def qRow (q : Nat) : Nat := bitsOf q 28 14
def qBank (q : Nat) : Nat := bitsOf q 13 8 ^^^ bitsOf (qRow q) 5 0
def qCol (q : Nat) : Nat := bitsOf q 7 6
def qPc (q : Nat) : Nat := bitsOf q 5 0 ^^^ bitsOf (qRow q) 11 6

/-- The key under which State holds the byte at HBM address h of a partition with these stacks: stack, block and byte. -/
def hbmKey (stackIds : List Nat) (h : Nat) : Nat :=
  let n := stackIds.length
  2 ^ 37 * nth 0 stackIds (hashJ n h) + 256 * hashQ n h + h % 256

/-! ### Pages (R280, R281) -/

/-- The tiers that are enabled beside HBM (R279). -/
def hostTier (s : State) (p : Nat) : Bool := rdB s (tierPg (lowSlice s p) + 0x104) 0
def flashTier (s : State) (p : Nat) : Bool := rdB s (tierPg (lowSlice s p) + 0x104) 1

/-- The partition has a page map. -/
def tiered (s : State) (p : Nat) : Bool := hostTier s p || flashTier s p

/-- The tier is enabled for the partition. -/
def tierOn (s : State) (p tier : Nat) : Bool :=
  match tier with
  | 0 => true
  | 1 => hostTier s p
  | 2 => flashTier s p
  | _ => false

/-- The frames of the partition's HBM address space. -/
def hbmFrames (s : State) (p : Nat) : Nat := (partStacks s p).length * stackBytes / pageBytes

/-- The pages of the partition's range. -/
def partPages (s : State) (p : Nat) : Nat :=
  if tiered s p then rdF s (tierPg (lowSlice s p) + 0x108) 26 0 else hbmFrames s p

/-- The frames at the top of HBM that hold the page map. -/
def mapFrames (s : State) (p : Nat) : Nat := if tiered s p then ceilDiv (8 * partPages s p) pageBytes else 0

/-- The page map entry of a page. Without a page map the page is the HBM frame of its number. -/
def pageEntry (s : State) (p g : Nat) : PageEntry :=
  if tiered s p then cGet (fun _ => {}) s.mem.pages (2 ^ 27 * p + g) else { tier := 0, frame := g }

def setPage (s : State) (p g : Nat) (e : PageEntry) : State :=
  { s with mem := { s.mem with pages := cSet (fun _ => {}) s.mem.pages (2 ^ 27 * p + g) e } }

/-- The page whose storage serves page g: itself, until a commit exchanges it with its shadow (R132, R135). -/
def swapOf (s : State) (p g : Nat) : Nat := cGet (fun k => k % 2 ^ 27) s.mem.swap (2 ^ 27 * p + g)

def setSwap (s : State) (p g h : Nat) : State :=
  { s with mem := { s.mem with swap := cSet (fun k => k % 2 ^ 27) s.mem.swap (2 ^ 27 * p + g) h } }

/-- Where a byte lies: the key of an HBM byte, a host address, an address of the TIER namespace. -/
inductive Loc where
  | hbm (key : Nat)
  | host (addr : Nat)
  | flash (addr : Nat)
deriving DecidableEq, Repr

/-- The host address of the pool (R299). -/
def hostPoolBase (s : State) : Nat := rd64 s (ftl1Pg + 0x108)

/-- The entry that serves a page. -/
def servedBy (s : State) (p g : Nat) : PageEntry := pageEntry s p (swapOf s p g)

/-- Where a partition-relative address lies; none where the page is unmapped or beyond the range (R282). -/
def locOf (s : State) (p a : Nat) : Option Loc :=
  if a / pageBytes < partPages s p then
    let e := servedBy s p (a / pageBytes)
    match e.tier with
    | 0 => some (.hbm (hbmKey (partStacks s p) (e.frame * pageBytes + a % pageBytes)))
    | 1 => some (.host (hostPoolBase s + e.frame * pageBytes + a % pageBytes))
    | 2 => some (.flash (e.frame * pageBytes + a % pageBytes))
    | _ => none
  else none

/-- Every byte of a range is mapped. -/
def inPart (s : State) (p a n : Nat) : Bool :=
  (rangeFrom (a / pageBytes) ((a + (n - 1)) / pageBytes + 1 - a / pageBytes)).all
    (fun g => (locOf s p (g * pageBytes)).isSome)

/-- The tier that serves an address: 0 HBM, 1 host, 2 flash. -/
def tierAt (s : State) (p a : Nat) : Nat := (servedBy s p (a / pageBytes)).tier

/-! ### Bytes -/

def getLoc (s : State) : Loc → Byte
  | .hbm k => cGet (fun _ => 0) s.mem.hbm k
  | .host k => cGet (fun _ => 0) s.mem.host k
  | .flash k => cGet (fun _ => 0) s.mem.flash k

def setLoc (s : State) (b : Byte) : Loc → State
  | .hbm k => { s with mem := { s.mem with hbm := cSet (fun _ => 0) s.mem.hbm k b } }
  | .host k => { s with mem := { s.mem with host := cSet (fun _ => 0) s.mem.host k b } }
  | .flash k => { s with mem := { s.mem with flash := cSet (fun _ => 0) s.mem.flash k b } }

/-- A byte of the partition; 0 where nothing lies. -/
def memByte (s : State) (p a : Nat) : Byte :=
  match locOf s p a with
  | some l => getLoc s l
  | none => 0

def memBytes (s : State) (p a n : Nat) : List Byte := (rangeFrom a n).map (memByte s p)

/-- A little-endian number of n bytes of the partition. -/
def memNat (s : State) (p a n : Nat) : Nat := leNat (memBytes s p a n)

/-- Store one byte of the partition. -/
def memPut1 (s : State) (p a : Nat) (b : Byte) : State :=
  match locOf s p a with
  | some l => setLoc s b l
  | none => s

/-- Store bytes and nothing else. -/
def memPut (s : State) (p : Nat) : Nat → List Byte → State
  | _, [] => s
  | a, b :: bs => memPut (memPut1 s p a b) p (a + 1) bs

/-! ### The update task's shadow pages (R132, R133) -/

/-- The shadow table that is loaded; empty while ARM is 0. -/
def shadowTable (s : State) (p : Nat) : List ShadowEntry := cGet (fun _ => []) s.qch.shadows (lowSlice s p)

def setShadowTable (s : State) (p : Nat) (l : List ShadowEntry) : State :=
  { s with qch := { s.qch with shadows := cSet (fun _ => []) s.qch.shadows (lowSlice s p) l } }

/-- The update task of the partition is open, or its vote is cast and the outcome awaited. -/
def taskOpen (s : State) (p : Nat) : Bool := rdF s (qchPg (lowSlice s p) + 0x108) 7 6 != 0

/-- The shadow table's entry for the page of an address, while the task is open. -/
def declared (s : State) (p a : Nat) : Option ShadowEntry :=
  if taskOpen s p then (shadowTable s p).find? (fun e => e.page == a / pageBytes) else none

/-- The address to which a write-back of the partition's Bellows goes (R133). -/
def redirect (s : State) (p a : Nat) : Nat :=
  match declared s p a with
  | some e => e.shadow * pageBytes + a % pageBytes
  | none => a

/-- Count the sectors that a write-back writes in a declared page (R133). -/
def countSectors (s : State) (p a n : Nat) : State :=
  match declared s p a with
  | some e => setShadowTable s p
      ((shadowTable s p).map (fun x => if x.page = e.page then { x with count := x.count + n / 32 } else x))
  | none => s

/-! ### Device writes (R237, R282, R379) -/

/-- The 256-byte blocks of two ranges meet. -/
def blocksMeet (a n b m : Nat) : Bool :=
  decide (n ≠ 0 ∧ m ≠ 0 ∧ a / 256 ≤ (b + (m - 1)) / 256 ∧ b / 256 ≤ (a + (n - 1)) / 256)

/-- Send an invalidation to the window entries that meet pred: false for a device write, commit or migration, true for a
PREFETCH_FENCE, whose number the entry then keeps. -/
def sendInval (s : State) (fence : Option Nat) (pred : PfEntry → Bool) : State :=
  { s with blw := { s.blw with window := s.blw.window.map (fun c => (c.1, c.2.map (fun e =>
      if pred e then
        { e with inval := (match fence with
                           | none => some false
                           | some _ => if e.inval = some false then some false else some true),
                 fences := e.fences ++ fence.toList }
      else e))) } }

/-- TOUCH of the pages of a range (R282). -/
def touchPage (s : State) (p a : Nat) : State :=
  let g := swapOf s p (a / pageBytes)
  let e := pageEntry s p g
  let u := s.time / 2 ^ 20 % 2 ^ 32
  if tiered s p && e.tier < 3 && decide (e.touch < u) then setPage s p g { e with touch := u } else s

/-- Both dirty bits of a page (R379). -/
def markDirty (s : State) (p g : Nat) : State :=
  { s with mem := { s.mem with dirty := cSet (fun _ => (true, true)) s.mem.dirty (2 ^ 27 * p + g) (true, true) } }

/-- What a device write of a range brings about beside its bytes: watched prefetches of its blocks are invalidated, its pages become
dirty. The range lies in one page. -/
def noteWrite (s : State) (p a n : Nat) : State :=
  touchPage (markDirty (sendInval s none (fun e => e.part == p && blocksMeet a n e.piece.mem e.piece.len)) p (a / pageBytes)) p a

/-- The parts of a range that lie in one page each. -/
def splitAt (unit : Nat) : Nat → Nat → Nat → List (Nat × Nat)
  | 0, _, _ => []
  | fuel + 1, a, n =>
    if n = 0 then []
    else
      let k := min n (unit - a % unit)
      (a, k) :: splitAt unit fuel (a + k) (n - k)

/-- The number of aligned units that a range meets bounds the parts of splitAt. -/
def splitRange (unit a n : Nat) : List (Nat × Nat) := splitAt unit (n / unit + 2) a n

/-- Note a device write of a range that may span pages. -/
def noteWrites (s : State) (p a n : Nat) : State :=
  (splitRange pageBytes a n).foldl (fun s r => noteWrite s p r.1 r.2) s

/-- The 32-byte sectors that n bytes at a, within one block, lie in. -/
def sectorsAt (a n : Nat) : Nat := (a % 32 + n + 31) / 32

/-- Count the sectors of a range that lie in HBM in a counter of each controller's page (10_hbm4_memory.md R274). -/
def countHbm (s : State) (p a n o : Nat) : State :=
  (splitRange 256 a n).foldl (fun s r => match locOf s p r.1 with
    | some (.hbm k) => inc64 s (ctlPg (k / 2 ^ 37) 0 + o) (sectorsAt r.1 r.2)
    | _ => s) s

/-- A device write by a unit of the partition, whole; its sectors count as written. -/
def devWrite (s : State) (p a : Nat) (bs : List Byte) : State :=
  countHbm (noteWrites (memPut s p a bs) p a bs.length) p a bs.length 0x128

/-- A 64-bit word written by a unit. -/
def devWrite64 (s : State) (p a v : Nat) : State := devWrite s p a (leBytes 8 v)

end Sys2Proof.Machine
end

