-- ==== Sys2Proof/Machine/Hbm.lean ====
section
/-!
DEFINITION. HBM controllers and request sorters (10_hbm4_memory.md R251 to R273): block operations from a tile's sorter or a port
through arrival, admission and service, the near-memory adders, refresh, errors, heat and training.
-/
namespace Sys2Proof.Machine

/-! ### Block operations -/

/-- An operation changes memory. -/
def OpKind.changes : OpKind → Bool
  | .read => false
  | _ => true

/-- The pseudo-channel and bank of an operation. -/
def MemOp.pc (o : MemOp) : Nat := qPc o.q
def MemOp.bank (o : MemOp) : Nat := qBank o.q
def MemOp.row (o : MemOp) : Nat := qRow o.q

/-- The sectors of its block that an operation touches. -/
def MemOp.sectors (o : MemOp) : Nat := (o.addr % 256 + (o.len - 1)) / 32 + 1 - o.addr % 256 / 32

/-- The bytes charged to its class (R251, R263). -/
def MemOp.charge (o : MemOp) : Nat :=
  match o.kind with
  | .read | .write => 32 * o.sectors
  | .add _ => 2 * o.len
  | _ => 64

/-- The controller and block of an HBM address of the partition. -/
def ctlOf (s : State) (p a : Nat) : Nat × Nat :=
  match locOf s p a with
  | some (.hbm k) => (k / 2 ^ 37, k % 2 ^ 37 / 256)
  | _ => (0, 0)

def setOps (s : State) (l : List MemOp) : State := { s with mem := { s.mem with ops := l } }

def findOp (s : State) (id : Nat) : Option MemOp := s.mem.ops.find? (fun o => o.id == id)

/-- Replace an operation. -/
def putOp (s : State) (x : MemOp) : State := setOps s (s.mem.ops.map (fun o => if o.id = x.id then x else o))

/-- Replace an operation and make it the latest. -/
def moveOp (s : State) (x : MemOp) : State := setOps s (s.mem.ops.filter (fun o => o.id != x.id) ++ [x])

def dropOp (s : State) (id : Nat) : State := setOps s (s.mem.ops.filter (fun o => o.id != id))

/-- How a request's block operations are made: who awaits them, the tile whose sorter they pass, what they do, their class, whether
they are gathers, and whether they record watches. -/
structure OpPlan where
  owner  : OpOwner
  tile   : Option Nat
  kind   : OpKind
  cls    : Nat
  gather : Bool := false
  watch  : Bool := false
deriving DecidableEq, Repr

/-- The operand bytes per target byte are halved for a BF16 addition (R262). -/
def operandPer (k : OpKind) (n : Nat) : Nat :=
  match k with
  | .add 1 => n / 2
  | _ => n

/-- Make one block operation for each block of a range of HBM (R255). data holds the operand bytes. -/
def enterOps (s : State) (pl : OpPlan) (p : Nat) : List (Nat × Nat) → List Byte → State
  | [], _ => s
  | (a, n) :: rs, data =>
    let c := ctlOf s p a
    let k := operandPer pl.kind n
    let o : MemOp :=
      { id := s.mem.nextOp, owners := [pl.owner], tile := pl.tile, kind := pl.kind, cls := pl.cls, part := p, addr := a, len := n,
        data := data.take k, gather := pl.gather, watch := pl.watch, ctl := c.1, q := c.2,
        stage := if pl.gather then .sorter else .released, entered := s.time, arrived := 0, held := false, aged := false,
        failed := false, noFrame := false }
    let s := { s with mem := { s.mem with ops := s.mem.ops ++ [o], nextOp := s.mem.nextOp + 1 } }
    enterOps s pl p rs (data.drop k)

/-- The block operations in a tile's sorter (R255). -/
def sorterOps (s : State) (t : Nat) : List MemOp :=
  s.mem.ops.filter (fun o => o.tile == some t && (o.stage == .sorter || o.stage == .released))

/-- The numbers of a tile's requests, each of which holds a tag, that target a bank (R256). -/
def tagsAtBank (s : State) (t ctl pc bank : Nat) : Nat :=
  ((s.mem.ops.filter (fun o => o.stage != .served && o.tile == some t && o.ctl == ctl && o.pc == pc && o.bank == bank)).map (·.owners)).flatten.eraseDups.length

/-- Some bank of a range's blocks has 16 of the tile's tags (R256). -/
def bankCapped (s : State) (t p a n : Nat) : Bool :=
  (splitRange 256 a n).any (fun r =>
    let c := ctlOf s p r.1
    decide (tagsAtBank s t c.1 (qPc c.2) (qBank c.2) ≥ 16))

/-! ### The sorter (R257, R258) -/

/-- Gather operations of a tile are due: their wait has passed, 192 block operations are pending, or no gathering descriptor has a
request left to enter. -/
def gatherDue (s : State) (t : Nat) : Bool :=
  let w := rdF s (tilePg t 7 + 0x108) 9 0
  (sorterOps s t).any (fun o => o.stage == .sorter && decide (o.entered + w ≤ s.time)) ||
    decide ((sorterOps s t).length ≥ 192) ||
    !((cGet (fun _ => []) s.blw.descs t).any (fun d => d.kind == .gather && (d.list.isSome || !d.pieces.isEmpty)))

/-- Merge the reads of one block into the first of them: the union of their bytes, all their owners. The count of merged ones. -/
def mergeReads : List MemOp → List MemOp × Nat
  | [] => ([], 0)
  | o :: os =>
    let r := mergeReads os
    match r.1.find? (fun x => x.ctl == o.ctl && x.q == o.q && x.part == o.part) with
    | some x =>
      let a := min o.addr x.addr
      let e := max (o.addr + o.len) (x.addr + x.len)
      ({ o with owners := o.owners ++ x.owners, addr := a, len := e - a } :: r.1.filter (fun y => y.id != x.id), r.2 + 1)
    | none => (o :: r.1, r.2)

/-- The same stack, pseudo-channel, bank and row. -/
def sameRow (x y : MemOp) : Bool := x.ctl == y.ctl && x.pc == y.pc && x.bank == y.bank && x.row == y.row

/-- Group operations by row, in order of first appearance; the number that follow another of the same row. -/
def rowGroups : Nat → List MemOp → List MemOp × Nat
  | 0, l => (l, 0)
  | _, [] => ([], 0)
  | fuel + 1, o :: os =>
    let same := os.filter (sameRow o)
    let r := rowGroups fuel (os.filter (fun x => !(sameRow o x)))
    (o :: same ++ r.1, same.length + r.2)

/-- SORTER_GATHER_RELEASE: the waiting gather operations of a tile are merged by block and released grouped by row. -/
def execSorterGatherRelease (tile : Fin 288) (now : Nat) (s : State) : Out :=
  let s := tick s now
  let t := tile.val
  if gatherDue s t then
    let mine := s.mem.ops.filter (fun o => o.tile == some t && o.stage == .sorter)
    let m := mergeReads mine
    let g := rowGroups m.1.length m.1
    let rest := s.mem.ops.filter (fun o => !(o.tile == some t && o.stage == .sorter))
    let s := setOps s (rest ++ g.1.map (fun o => { o with stage := .released }))
    .next (incBy (incBy s (tilePg t 7 + 0x114) m.2) (tilePg t 7 + 0x118) g.2)
  else .next s

/-- SORTER_HOLD: a request of a Bellows descriptor or Tongs operation that the bank cap has held for more than 2 µs sets HOLD. -/
def execSorterHold (tile : Fin 288) (desc : Nat) (now : Nat) (s : State) : Out :=
  let s := tick s now
  let t := tile.val
  let long := fun (c : Option Nat) => match c with
    | some at_ => decide (at_ + 2000 < s.time)
    | none => false
  if (cGet (fun _ => []) s.blw.descs t).any (fun d => d.id == desc && long d.capped) ||
      s.tng.ops.any (fun o => o.tile == t && o.id == desc && long o.capped)
  then .next (intSet s (tilePg t 7) 1)
  else .next s

/-! ### Arrival and admission (R251, R254) -/

/-- Two operations on one block that the controller keeps in order. -/
def conflict (x y : MemOp) : Bool := x.ctl == y.ctl && x.q == y.q && (x.kind.changes || y.kind.changes)

/-- A migration holds the operation at its translation point (R287). -/
def heldByMigration (s : State) (p a : Nat) (changes : Bool) : Bool :=
  changes && (servedBy s p (a / pageBytes)).migrating

/-- The operations before an operation of the list. -/
def opsBefore (id : Nat) : List MemOp → List MemOp
  | [] => []
  | o :: os => if o.id = id then [] else o :: opsBefore id os

/-- The bytes a stack moves in a window at each notch (R268). -/
def notchBytes (n : Nat) : Nat := nth 1843200 [2457600, 2252800, 2048000] n

/-- The share of a class of the split of the controller's slice, and its denominator (R245). -/
def classShare (s : State) (ctl cls : Nat) : Nat × Nat :=
  let v := rd s (blwPg (ctl / 4) + 0x100)
  if v.testBit 16 then (nth 0 [bitsOf v 11 8, bitsOf v 7 4, bitsOf v 3 0] cls, 16)
  else (nth 0 [60, 25, 15] cls, 100)

/-- The allowance scale of a controller: the lower of SCALE and MEM_SCALE (R404). -/
def ctlScale (s : State) (ctl : Nat) : Nat := min (rdF s (ctlPg ctl 0 + 0x10C) 12 8) s.hrt.memScale

/-- The allowance of a class at a controller in one window (R244, R245, R268, R272, R404). -/
def allowance (s : State) (ctl cls : Nat) : Nat :=
  let sh := classShare s ctl cls
  notchBytes (rdF s (ctlPg ctl 0 + 0x104) 13 12) * sh.1 * ctlScale s ctl / (sh.2 * 16)

/-- What a class has used of its allowance in the present window. -/
def usedOf (s : State) (ctl cls : Nat) : Nat := cGet (fun _ => 0) s.mem.used (4 * ctl + cls)

/-- Charge a class (R244) and count its bytes on the slice page (R248). -/
def chargeClass (s : State) (ctl cls n : Nat) : State :=
  let s := { s with mem := { s.mem with used := cSet (fun _ => 0) s.mem.used (4 * ctl + cls) (usedOf s ctl cls + n) } }
  inc64 s (blwPg (ctl / 4) + 0x110 + 8 * cls) n

/-- The watches that a controller holds: the blocks of window entries whose requests have been admitted, one by one (R237). -/
def watchesAt (s : State) (ctl : Nat) : Nat :=
  sumNat (s.blw.window.map (fun c => sumNat (c.2.map (fun e =>
    ((splitRange 256 e.piece.mem e.piece.len).filter (fun r => tierAt s e.part r.1 == 0 && (ctlOf s e.part r.1).1 == ctl)).length))))

/-- The stack is in a trip, or a calibration window holds its operations (R272, R434). -/
def ctlPaused (s : State) (ctl : Nat) : Bool := cGet (fun _ => false) s.mem.paused ctl || ctlScale s ctl == 0

/-- The operations of a pseudo-channel's queue. -/
def queueOf (s : State) (ctl pc : Nat) : List MemOp :=
  s.mem.ops.filter (fun o => o.stage == .admitted && o.ctl == ctl && o.pc == pc)

/-- The operation may be admitted now (R237, R251). -/
def canAdmit (s : State) (o : MemOp) : Bool :=
  let qu := queueOf s o.ctl o.pc
  !(ctlPaused s o.ctl) && decide (usedOf s o.ctl o.cls + o.charge ≤ allowance s o.ctl o.cls) &&
    decide (qu.length < 32) && decide ((qu.filter (fun x => x.bank == o.bank)).length < 16) &&
    !((opsBefore o.id s.mem.ops).any (fun x => x.stage == .arrived && conflict x o)) &&
    !(o.watch && decide (watchesAt s o.ctl > 49152))

/-! ### The adders (R262 to R265) -/

/-- The sum of one element: its target bytes from the old target and the operand. -/
def addElem (etype : Nat) (old operand : Nat) : Nat :=
  match etype with
  | 0 => fp32.convert .rne (addRne (fp32.decode old) (fp32.decode operand))
  | 1 => fp32.convert .rne (addRne (fp32.decode old) (bf16.decode operand))
  | 2 => (old + operand) % 2 ^ 32
  | _ => (old + operand) % 2 ^ 64

/-- The bytes of a target element. -/
def targetSize (etype : Nat) : Nat := if etype = 3 then 8 else 4

/-- The bytes of an operand element. -/
def operandSize (etype : Nat) : Nat := if etype = 3 then 8 else if etype = 1 then 2 else 4

/-- Add elements in place: fuel elements left. -/
def addElems (s : State) (etype p : Nat) : Nat → Nat → List Byte → State
  | 0, _, _ => s
  | fuel + 1, a, data =>
    if data.isEmpty then s
    else
      let w := targetSize etype
      let old := memNat s p a w
      let v := addElem etype old (leNat (data.take (operandSize etype)))
      addElems (memPut s p a (leBytes w v)) etype p fuel (a + w) (data.drop (operandSize etype))

/-- The new value of an atomic. -/
def atomicNew (k : OpKind) (old : Nat) : Nat :=
  match k with
  | .fadd ty v => (old + v) % 2 ^ (8 * targetSize ty)
  | .fand _ v => old &&& v
  | .cas ty c n => if old = c % 2 ^ (8 * targetSize ty) then n % 2 ^ (8 * targetSize ty) else old
  | _ => old

/-- The bytes of the word of an atomic (R302). -/
def atomicSize : OpKind → Nat
  | .fadd ty _ | .fand ty _ | .cas ty _ _ => targetSize ty
  | _ => 8

/-- The effect of an operation on the bytes of the partition, and what it answers (R254, R264). -/
def opEffect (s : State) (o : MemOp) : List Byte × State :=
  match o.kind with
  | .read => (memBytes s o.part o.addr o.len, touchPage s o.part o.addr)
  | .write => (o.data, noteWrite (memPut s o.part o.addr o.data) o.part o.addr o.len)
  | .add ty => (o.data, noteWrite (addElems s ty o.part o.len o.addr o.data) o.part o.addr o.len)
  | k =>
    let w := atomicSize k
    let old := memNat s o.part o.addr w
    (leBytes w old, noteWrite (memPut s o.part o.addr (leBytes w (atomicNew k old))) o.part o.addr w)

/-! ### Errors (R266) and injection (R458) -/

/-- What the controller's check bits report: the command's word, or an injected error. -/
def hbmEcc (s : State) (ctl : Nat) (e : Ecc) : Ecc × State :=
  match injectEvent s (ctlPg ctl 0) [1, 2] with
  | (some 1, s) => (.corrected 0, s)
  | (some _, s) => (.uncorrectable 0, s)
  | (none, s) => (e, s)

/-- Count, signal and log an error of a sector: kind 1 corrected, 2 uncorrectable read, 3 uncorrectable addition or atomic target. -/
def hbmErrNote (s : State) (ctl kind q sect : Nat) : State :=
  let pg := ctlPg ctl 0
  let s := if kind = 1 then inc (intSet s pg 1) (pg + 0x150) else inc (intSet s pg 2) (pg + 0x154)
  latchBlk s pg (kind + qPc q * 2 ^ 8 + qBank q * 2 ^ 14) (q * 256 + sect * 32)

/-- What a unit's own read of n bytes of the partition meets in HBM: an error that the command names within the bytes is counted and
logged at its controller; the result says whether it was uncorrectable. -/
def unitErr (s : State) (p a n : Nat) (e : Ecc) : Bool × State :=
  let at_ := fun (x kind : Nat) =>
    if decide (a ≤ x ∧ x < a + n) then
      match locOf s p x with
      | some (.hbm k) => some (hbmErrNote s (k / 2 ^ 37) kind (k % 2 ^ 37 / 256) (k % 256 / 32))
      | _ => none
    else none
  match e with
  | .clean => (false, s)
  | .corrected x => (false, (at_ x 1).getD s)
  | .uncorrectable x =>
    match at_ x 2 with
    | some s => (true, s)
    | none => (false, s)

/-- The same, the sectors read counted. -/
def unitRead (s : State) (p a n : Nat) (e : Ecc) : Bool × State := unitErr (countHbm s p a n 0x120) p a n e

/-- Charge a range's bytes in HBM to a class, by controller and whole sectors (R244, R251). -/
def chargeRange (s : State) (p a n cls : Nat) : State :=
  (splitRange 256 a n).foldl (fun s r => match locOf s p r.1 with
    | some (.hbm k) => chargeClass s (k / 2 ^ 37) cls (32 * sectorsAt r.1 r.2)
    | _ => s) s

/-- The sector of an operation that an error names. -/
def eccSect (o : MemOp) (e : Ecc) : Nat :=
  match e with
  | .corrected a | .uncorrectable a => if a / 256 = o.addr / 256 then a % 256 / 32 else o.addr % 256 / 32
  | .clean => 0

/-- Record the peak of the watch directories (R248). -/
def notePeak (s : State) (ctl : Nat) : State :=
  let pg := blwPg (ctl / 4)
  wrF s (pg + 0x134) 15 0 (max (rdF s (pg + 0x134) 15 0) (min (watchesAt s ctl) 49152))

/-- HBM_OP_ADMIT: the operation is charged, takes effect and enters its queue; one that cannot be admitted is counted once. -/
def execHbmOpAdmit (op : Nat) (ecc : Ecc) (now : Nat) (s : State) : Out :=
  let s := tick s now
  match findOp s op with
  | none => .next s
  | some o =>
    if o.stage != .arrived then .next s
    else if canAdmit s o then
      let s := chargeClass s o.ctl o.cls o.charge
      match o.kind with
      | .read =>
        let e := opEffect s o
        .next (notePeak (putOp e.2 { o with stage := .admitted, data := e.1 }) o.ctl)
      | .write =>
        let e := opEffect s o
        .next (inc64 (putOp e.2 { o with stage := .admitted }) (ctlPg o.ctl 0 + 0x128) o.sectors)
      | _ =>
        match hbmEcc s o.ctl ecc with
        | (.uncorrectable a, s) =>
          .next (putOp (hbmErrNote s o.ctl 3 o.q (eccSect o (.uncorrectable a))) { o with stage := .admitted, failed := true })
        | (e, s) =>
          let s := match e with
            | .corrected _ => hbmErrNote s o.ctl 1 o.q (eccSect o e)
            | _ => s
          let r := opEffect s o
          .next (inc64 (putOp r.2 { o with stage := .admitted, data := r.1 }) (ctlPg o.ctl 0 + 0x130) o.sectors)
    else if o.held then .next s
    else
      let s := putOp s { o with held := true }
      let s := if o.watch && decide (watchesAt s o.ctl > 49152) then
          inc (intSet s (blwPg (o.ctl / 4)) 2) (blwPg (o.ctl / 4) + 0x138)
        else s
      .next (inc s (ctlPg o.ctl 0 + 0x14C))

/-! ### Windows and service (R244, R252, R253) -/

/-- Count the classes that reached their cap with requests still waiting: BLW_CAP_RD, _WR, _RM (R248). -/
def countCaps (s : State) : List (Nat × Nat) → State
  | [] => s
  | (ctl, cls) :: l =>
    let full := s.mem.ops.any (fun o => o.stage == .arrived && o.ctl == ctl && o.cls == cls &&
      decide (allowance s ctl cls < usedOf s ctl cls + o.charge))
    countCaps (if full then inc s (blwPg (ctl / 4) + 0x128 + 4 * cls) else s) l

/-- HBM_WINDOW_START: every class allowance is renewed, and the rotation of activations restarts. -/
def execHbmWindowStart (now : Nat) (s : State) : Out :=
  let s := tick s now
  let s := countCaps s (((List.range 32).map (fun c => (List.range 3).map (fun k => (c, k)))).flatten)
  let chans := (s.mem.chans.map (fun p => (p.1, { p.2 with grants := [0, 0, 0] }))).filter
    (fun p => p.2 != ({} : PseudoChan))
  .next { s with mem := { s.mem with used := [], chans := chans } }

def chanOf (s : State) (ctl pc : Nat) : PseudoChan := cGet (fun _ => {}) s.mem.chans (64 * ctl + pc)

def setChan (s : State) (ctl pc : Nat) (c : PseudoChan) : State :=
  { s with mem := { s.mem with chans := cSet (fun _ => {}) s.mem.chans (64 * ctl + pc) c } }

def rowOf (s : State) (ctl pc bank : Nat) : Option Nat := cGet (fun _ => none) s.mem.openRow (64 * (64 * ctl + pc) + bank)

def setRow (s : State) (ctl pc bank : Nat) (r : Option Nat) : State :=
  { s with mem := { s.mem with openRow := cSet (fun _ => none) s.mem.openRow (64 * (64 * ctl + pc) + bank) r } }

/-- The operation's row is open. -/
def rowHit (s : State) (o : MemOp) : Bool := rowOf s o.ctl o.pc o.bank == some o.row

/-- An activation may be made: fewer than 4 in the last 10 ns (R253). -/
def canActivate (s : State) (c : PseudoChan) : Bool := decide ((c.acts.filter (fun x => s.time < x + 10)).length < 4)

/-- The operations of a queue that may be served: none past an earlier one on its block where either changes memory (R254), and
none that needs an activation now withheld. -/
def servable (s : State) (ctl pc : Nat) : List MemOp :=
  let q := queueOf s ctl pc
  q.filter (fun o => !((opsBefore o.id q).any (fun x => conflict x o)) && (rowHit s o || canActivate s (chanOf s ctl pc)))

/-- Of operations that need an activation, those of the class that has had the least for its share (R253). -/
def fairest (s : State) (c : PseudoChan) (ctl : Nat) (l : List MemOp) : Option MemOp :=
  l.find? (fun o => l.all (fun x =>
    decide (nth 0 c.grants o.cls * (classShare s ctl x.cls).1 ≤ nth 0 c.grants x.cls * (classShare s ctl o.cls).1)))

/-- The operation that a burst slot serves (R252): one aged past 2 µs, the oldest first; else one of the present direction, until 32 have
been served or none is queued; an open row before one that needs an activation; ties to the older. -/
def chooseOp (s : State) (ctl pc : Nat) : Option MemOp :=
  let l := servable s ctl pc
  let c := chanOf s ctl pc
  match l.find? (fun o => o.aged) with
  | some o => some o
  | none =>
    let same := l.filter (fun o => o.kind.changes == c.writing)
    let other := l.filter (fun o => o.kind.changes != c.writing)
    let queued := (queueOf s ctl pc).any (fun o => o.kind.changes == c.writing)
    let pick := if (c.run ≥ 32 ∨ queued = false) ∧ other ≠ [] then other else same
    match pick.find? (rowHit s) with
    | some o => some o
    | none => fairest s c ctl pick

/-- An operation has been served: it stays while a request awaits it. -/
def finishOp (s : State) (o : MemOp) : State :=
  if o.owners.isEmpty then dropOp s o.id else putOp s { o with stage := .served }

/-- HBM_BURST_SLOT: a pseudo-channel serves one admitted operation. An uncorrectable error on a read returns no data. -/
def execHbmBurstSlot (ctl : Fin 32) (pc : Fin 64) (ecc : Ecc) (now : Nat) (s : State) : Out :=
  let s := tick s now
  match chooseOp s ctl pc with
  | none => .next s
  | some o =>
    let c := chanOf s ctl pc
    let pg := ctlPg ctl 0
    let turn := o.kind.changes != c.writing
    let hit := rowHit s o
    let c' : PseudoChan :=
      { writing := o.kind.changes, run := if turn then 1 else c.run + 1,
        acts := if hit then c.acts else (s.time :: c.acts).take 4,
        grants := if hit then c.grants else setNth c.grants o.cls (nth 0 c.grants o.cls + 1) }
    let s := setRow (setChan s ctl pc c') ctl pc o.bank (some o.row)
    let s := if turn then inc s (pg + 0x140) else s
    let s := if hit then s else inc64 s (pg + 0x138) 1
    match o.kind with
    | .read =>
      match hbmEcc (inc64 s (pg + 0x120) o.sectors) ctl ecc with
      | (.uncorrectable a, s) =>
        .next (finishOp (hbmErrNote s ctl 2 o.q (eccSect o (.uncorrectable a))) { o with failed := true })
      | (.corrected a, s) => .next (finishOp (hbmErrNote s ctl 1 o.q (eccSect o (.corrected a))) o)
      | (.clean, s) => .next (finishOp s o)
    | _ => .next (finishOp s o)

/-- HBM_REFRESH: a due refresh of a bank; its row is closed (DEDUCED, log entry 21). -/
def execHbmRefresh (ctl : Fin 32) (pc : Fin 64) (bank : Fin 64) (now : Nat) (s : State) : Out :=
  let s := tick s now
  .next (inc (setRow s ctl pc bank none) (ctlPg ctl 0 + 0x144))

/-- HBM_AGE_PROMOTE: an admitted operation that has waited more than 2 µs goes first from now on, and is counted once. -/
def execHbmAgePromote (op : Nat) (now : Nat) (s : State) : Out :=
  let s := tick s now
  match findOp s op with
  | some o =>
    if o.stage == .admitted && decide (o.arrived + 2000 < s.time) && !o.aged then
      .next (inc (putOp s { o with aged := true }) (ctlPg o.ctl 0 + 0x148))
    else .next s
  | none => .next s

/-- PATROL_SCRUB: while SCRUB_EN is 1 a sector is read; an error is corrected or logged (R266). sector counts 32-byte sectors of the stack. -/
def execPatrolScrub (ctl : Fin 32) (sector : Nat) (ecc : Ecc) (now : Nat) (s : State) : Out :=
  let s := tick s now
  if rdB s (ctlPg ctl 0 + 0x100) 1 then
    match hbmEcc s ctl ecc with
    | (.clean, s) => .next s
    | (.corrected _, s) => .next (hbmErrNote s ctl 1 (sector / 8) (sector % 8))
    | (.uncorrectable _, s) => .next (hbmErrNote s ctl 2 (sector / 8) (sector % 8))
  else .next s

/-! ### Heat (R272) -/

/-- SCALE after a reading of the hottest die (R272); in a trip SCALE is 0 until the reading is at or below HOT. -/
def nextScale (scale temp hot cool : Nat) (trip : Bool) : Nat :=
  if trip then (if temp ≤ hot then 1 else 0)
  else if temp ≥ 95 then 0
  else if temp ≥ hot then max 1 (scale - 1)
  else if temp > 85 then (if temp ≤ cool then min 16 (scale + 1) else scale)
  else 16

/-- A reading of a stack's hottest die sets refresh, SCALE and a trip. -/
def stackHeat (s : State) (ctl temp : Nat) : State :=
  let pg := ctlPg ctl 0
  let trip := rdB s (pg + 0x104) 15
  let old := rdF s (pg + 0x10C) 12 8
  let sc := nextScale old temp (rdF s (pg + 0x110) 15 8) (rdF s (pg + 0x110) 7 0) trip
  let enter := !trip && decide (temp ≥ 95)
  let trip' := decide (sc = 0)
  let st := if trip' then 3 else if sc < 16 then 2 else if temp > 85 then 1 else 0
  let s := wr s (pg + 0x10C) (temp % 256 * 2 ^ 16 + sc * 2 ^ 8 + st)
  let s := wrB s (pg + 0x104) 15 trip'
  let s := if sc < 16 then inc (intSet s pg 4) (pg + 0x158) else s
  if enter then clinker (inc (intSet s pg 8) (pg + 0x15C)) { cat := 3, code := 2, page := pg, sub := ctl } else s

/-- HBM_THERMAL_READ: the reading of 1 ms; an injection of site 7 makes it a trip (18_safety_security_clinker.md R458). -/
def execHbmThermalRead (ctl : Fin 32) (temp : Nat) (now : Nat) (s : State) : Out :=
  let s := tick s now
  match injectEvent s (ctlPg ctl 0) [7] with
  | (some _, s) => .next (injected s (fun s => stackHeat s ctl (max temp 95)))
  | (none, s) => .next (stackHeat s ctl temp)

/-! ### Training (R267 to R271) -/

/-- HBM_TRACK_MOVE: the PHY moves a sampling point (R270). -/
def execHbmTrackMove (ctl : Fin 32) (now : Nat) (s : State) : Out :=
  .next (inc (tick s now) (ctlPg ctl 6 + 0x104))

/-- The PHY page's counts of repaired channels and spares in use, from the lane maps (R276). -/
def phyCounts (s : State) (ctl : Nat) : State :=
  let pg := ctlPg ctl 6
  let maps := (List.range 32).map (fun c => rd s (pg + 0x180 + 4 * c))
  let used := maps.map (fun v => (if bitsOf v 6 0 ≠ 0x7F then 1 else 0) + (if bitsOf v 14 8 ≠ 0x7F then 1 else 0) +
    (if bitsOf v 21 16 ≠ 0x3F then 1 else 0) + (if bitsOf v 29 24 ≠ 0x3F then 1 else 0))
  wrF (wrF s (pg + 0x100) 21 16 (used.filter (fun n => n != 0)).length) (pg + 0x100) 7 0 (sumNat used)

/-- Switch a spare DQ lane in (R267, R269): REPAIR, the lane map, BLK_SPARE_MAP, a clinker entry. A channel whose two DQ spares are in use
takes none. -/
def useSpare (s : State) (ctl ch dq : Nat) : Option State :=
  let pg := ctlPg ctl 6
  let v := rd s (pg + 0x180 + 4 * ch)
  let put := fun hi lo =>
    let s := wrF s (pg + 0x180 + 4 * ch) hi lo dq
    let s := phyCounts (wrB (intSet s pg 1) (ctlPg ctl 0 + hSpare) ch true) ctl
    rewriteDevice (clinker s { cat := 5, code := 3, page := pg, sub := ctl })
  if bitsOf v 6 0 = 0x7F then some (put 6 0)
  else if bitsOf v 14 8 = 0x7F then some (put 14 8)
  else none

/-- A stack's epoch advances, and with it its partition's (15_billets_and_recovery.md R390). -/
def bumpStackEpoch (s : State) (ctl : Nat) : State :=
  let s := bumpEpoch (bumpEpoch s (ctlPg ctl 0)) (ctlPg ctl 6)
  match partOfSlice s (ctl / 4) with
  | some p => bumpPartEpoch s p
  | none => s

/-- A stack is marked failed: FAILED, its epoch advances, a clinker entry (R269, R271). -/
def failStack (s : State) (ctl : Nat) : State :=
  let pg := ctlPg ctl 6
  let s := intSet (wrF s (pg + 0x100) 31 28 3) pg 2
  clinker (bumpStackEpoch s ctl) { cat := 5, code := 5, page := pg, sub := ctl }

/-- The notch in effect changes (R268): RATE_CHANGE. -/
def setNotch (s : State) (ctl n : Nat) : State :=
  let pg := ctlPg ctl 0
  if rdF s (pg + 0x104) 13 12 = n then s else intSet (wrF s (pg + 0x104) 13 12 n) pg 16

/-- Training ends with margin short and no spare: one notch down, or the stack fails at notch 3 (R269). -/
def notchDown (s : State) (ctl : Nat) : State :=
  let n := max (rdF s (ctlPg ctl 0 + 0x104) 13 12) (rdF s (ctlPg ctl 0 + 0x108) 1 0)
  if n ≥ 3 then failStack s ctl
  else rewriteDevice (clinker (setNotch s ctl (n + 1)) { cat := 5, code := 4, page := ctlPg ctl 6, sub := ctl })

/-- HBM_RETRAIN_DONE: the stack's training ends at its requested notch, lower, or in failure; the operations held are released. -/
def execHbmRetrainDone (ctl : Fin 32) (outcome : RetrainOutcome) (now : Nat) (s : State) : Out :=
  let s := tick s now
  let pg := ctlPg ctl 6
  let req := rdF s (ctlPg ctl 0 + 0x108) 1 0
  let track := fun s => wrF (wrF s (pg + 0x100) 31 28 2) (pg + 0x108) 23 16 (rdF s (ctlPg ctl 0 + 0x10C) 23 16)
  let down := if max req (rdF s (ctlPg ctl 0 + 0x104) 13 12) ≥ 3 then notchDown s ctl else track (notchDown s ctl)
  let s := match outcome with
    | .trained => track (setNotch s ctl req)
    | .spareLane ch dq =>
      match useSpare s ctl ch dq with
      | some s => track (setNotch s ctl req)
      | none => down
    | .notchDown => down
    | .failed => failStack s ctl
  .next { s with mem := { s.mem with paused := cSet (fun _ => false) s.mem.paused ctl false } }

end Sys2Proof.Machine
end

