-- ==== Sys2Proof/Machine/Tiers.lean ====
section
/-!
DEFINITION. Tiers (11_tiers_and_pool.md): frames and their allocation, eviction, migration and promotion, the commands of the TIER_
page, and the flash translation layer.
-/
namespace Sys2Proof.Machine

/-! ### Page contents -/

/-- The HBM address of a key over a partition's stacks: the inverse of R250. -/
def hbmAddr (stackIds : List Nat) (key : Nat) : Option Nat :=
  let n := stackIds.length
  let q := key % 2 ^ 37 / 256
  match stackIds.findIdx? (fun x => x == key / 2 ^ 37) with
  | some j => some ((q * n + (j + n - hashG q % n) % n) * 256 + key % 256)
  | none => none

/-- The offset of a key in HBM frame f of the partition, if it lies there. -/
def hbmOffset (stackIds : List Nat) (f key : Nat) : Option Nat :=
  match hbmAddr stackIds key with
  | some h => if h / pageBytes = f then some (h % pageBytes) else none
  | none => none

/-- The offset of a key in the bytes of a linear memory from base. -/
def linOffset (base key : Nat) : Option Nat := if base ≤ key ∧ key < base + pageBytes then some (key - base) else none

/-- The listed bytes of a frame, with their offsets. -/
def frameCells (s : State) (p tier f : Nat) : List (Nat × Byte) :=
  match tier with
  | 0 => s.mem.hbm.filterMap (fun c => (hbmOffset (partStacks s p) f c.1).map (fun o => (o, c.2)))
  | 1 => s.mem.host.filterMap (fun c => (linOffset (hostPoolBase s + f * pageBytes) c.1).map (fun o => (o, c.2)))
  | _ => s.mem.flash.filterMap (fun c => (linOffset (f * pageBytes) c.1).map (fun o => (o, c.2)))

/-- Zero a frame. -/
def zeroFrame (s : State) (p tier f : Nat) : State :=
  match tier with
  | 0 => { s with mem := { s.mem with hbm := cDrop s.mem.hbm (fun k => (hbmOffset (partStacks s p) f k).isSome) } }
  | 1 => { s with mem := { s.mem with host := cDrop s.mem.host (fun k => (linOffset (hostPoolBase s + f * pageBytes) k).isSome) } }
  | _ => { s with mem := { s.mem with flash := cDrop s.mem.flash (fun k => (linOffset (f * pageBytes) k).isSome) } }

/-- The place of byte o of a frame. -/
def frameLoc (s : State) (p tier f o : Nat) : Loc :=
  match tier with
  | 0 => .hbm (hbmKey (partStacks s p) (f * pageBytes + o))
  | 1 => .host (hostPoolBase s + f * pageBytes + o)
  | _ => .flash (f * pageBytes + o)

/-- Store bytes at offsets of a frame. -/
def putFrame (p tier f : Nat) : List (Nat × Byte) → State → State
  | [], s => s
  | (o, b) :: l, s => putFrame p tier f l (setLoc s b (frameLoc s p tier f o))

/-- Copy a frame of partition p to another. -/
def copyFrame (s : State) (p tier f tier' f' : Nat) : State :=
  putFrame p tier' f' (frameCells s p tier f) (zeroFrame s p tier' f')

/-! ### Frames (R281, R290, R299) -/

/-- The frames of the flash pool: the TIER namespace (R293, R299). -/
def flashFrames (s : State) : Nat := (Config.flashUsable - rd64 s (ftl0Pg + 0x110)) / pageBytes

/-- The frames of a tier open to the partition's pages. -/
def tierFrames (s : State) (p tier : Nat) : Nat :=
  match tier with
  | 0 => hbmFrames s p - mapFrames s p
  | 1 => rdF s (ftl1Pg + 0x110) 17 0
  | _ => flashFrames s

/-- The frames of a tier in use: of the partition for HBM, of every partition for a pool. -/
def usedFrames (s : State) (p tier : Nat) : List Nat :=
  ((s.mem.pages.filter (fun c => c.2.tier == tier && (tier != 0 || c.1 / 2 ^ 27 == p))).map (fun c => c.2.frame)) ++
    ((s.mem.migs.filter (fun m => m.tier == tier && (tier != 0 || m.part == p))).map (·.frame))

/-- The frames of a tier that a partition holds. -/
def heldFrames (s : State) (p tier : Nat) : Nat :=
  (s.mem.pages.filter (fun c => c.2.tier == tier && c.1 / 2 ^ 27 == p)).length

/-- The k-th number, from 0, that a rising list does not hold. -/
def kthFree : List Nat → Nat → Nat
  | [], k => k
  | u :: us, k => if u ≤ k then kthFree us (k + 1) else k

/-- Insert into a rising list. -/
def insertNat (x : Nat) : List Nat → List Nat
  | [] => [x]
  | y :: ys => if x ≤ y then x :: y :: ys else y :: insertNat x ys

def sortNat (l : List Nat) : List Nat := l.foldl (fun a x => insertNat x a) []

/-- No spare block remains (R297). -/
def ftlDegraded (s : State) : Bool := rdB s (ftl0Pg + 0x104) 1

/-- A free frame of a tier; which one is a free value (DESIGN CHOICE, log entry 22). A degraded flash pool gives none (R290, R297). -/
def pickFrame (s : State) (p tier : Nat) : Option (Nat × State) :=
  let used := sortNat (usedFrames s p tier).eraseDups
  let n := tierFrames s p tier
  if tier = 2 ∧ ftlDegraded s then none
  else if used.length ≥ n then none
  else
    let v := drawFree s
    some (kthFree used (v.1 % (n - used.length)), v.2)

/-! ### Pinned pages (R286) -/

/-- The pages of a byte range. -/
def pageIn (base size g : Nat) : Bool := decide (size ≠ 0 ∧ base / pageBytes ≤ g ∧ g * pageBytes < base + size)

/-- The page lies in an enabled stash lane or the spill area, is a page or a shadow of the loaded shadow table, or holds the vote
area. -/
def pinned (s : State) (p g : Nat) : Bool :=
  let st := sthPg (lowSlice s p)
  let qc := qchPg (lowSlice s p)
  (rdB s (st + 0x100) 0 &&
    ((List.range (rdF s (st + 0x104) 5 4 + 1)).any (fun l =>
        pageIn (rd64 s (st + 0x140 + 32 * l)) (rd64 s (st + 0x148 + 32 * l)) g) ||
      (rdB s (st + 0x104) 6 && pageIn (rd64 s (st + 0x118)) (rd64 s (st + 0x120)) g))) ||
  (shadowTable s p).any (fun e => e.page == g || e.shadow == g) ||
  (rdB s (qc + 0x100) 0 && pageIn (rd64 s (qc + 0x130)) 4096 g)

/-! ### Moving a page (R287) -/

/-- Charge the HBM side of a frame's copy, per controller (R244). -/
def chargeFrame (s : State) (p f cls : Nat) : State :=
  let st := partStacks s p
  let blocks := (List.range 8192).map (fun b => nth 0 st (hashJ st.length (f * pageBytes + 256 * b)))
  st.foldl (fun s c => chargeClass s c cls (256 * (blocks.filter (fun x => x == c)).length)) s

/-- Count the flash side of a frame's copy. -/
def countFlash (s : State) (write : Bool) (n : Nat) : State :=
  if write then inc64 (inc64 s (ftl0Pg + 0x130) n) (ftl0Pg + 0x138) n else inc64 s (ftl0Pg + 0x128) n

/-- Count what reading or writing a frame of a tier costs. -/
def countFrame (s : State) (p tier f : Nat) (write : Bool) : State :=
  match tier with
  | 0 => chargeFrame s p f (if write then 1 else 0)
  | 2 => countFlash s write pageBytes
  | _ => s

/-- Steps 3 to 6 of R287: watches invalidated, the page copied, the entry switched, the old frame freed; a freed flash frame is
trimmed. -/
def movePage (s : State) (p g tier f : Nat) : State :=
  let e := pageEntry s p g
  let s := sendInval s none (fun x => x.part == p && swapOf s p (x.piece.mem / pageBytes) == g)
  let s := copyFrame s p e.tier e.frame tier f
  let s := countFrame (countFrame s p e.tier e.frame false) p tier f true
  let s := if e.tier = 2 then zeroFrame s p 2 e.frame else s
  let s := setPage s p g { e with tier := tier, frame := f, migrating := false }
  inc s (tierPg (lowSlice s p) + 0x150)

/-! ### Eviction (R290) -/

/-- The next enabled tier below in the partition. -/
def tierBelow (s : State) (p tier : Nat) : Option Nat :=
  match tier with
  | 0 => if hostTier s p then some 1 else if flashTier s p then some 2 else none
  | 1 => if flashTier s p then some 2 else none
  | _ => none

/-- The reserve of a partition in a pool. -/
def reserveOf (s : State) (p tier : Nat) : Nat :=
  if tier = 1 then rdF s (tierPg (lowSlice s p) + 0x118) 17 0 else rdF s (tierPg (lowSlice s p) + 0x11C) 24 0

/-- The page of a cell of the page maps may be the victim for a frame of a tier that partition p needs. -/
def mayEvict (s : State) (p tier : Nat) (c : Nat × PageEntry) : Bool :=
  let q := c.1 / 2 ^ 27
  c.2.tier == tier && c.2.hint != 1 && !c.2.migrating &&
    (q == p || (tier != 0 && decide (heldFrames s q tier > reserveOf s q tier))) &&
    !(pinned s q (c.1 % 2 ^ 27)) &&
    (match tierBelow s q tier with
     | some d => !(c.2.hint == 2 && d == 2)
     | none => false)

/-- The first of two cells in the order of R290. -/
def evictBefore (a b : Nat × PageEntry) : Bool :=
  let g := fun (c : Nat × PageEntry) => if c.2.hint = 3 then 0 else 1
  decide (g a < g b) || (g a == g b && (decide (a.2.touch < b.2.touch) || (a.2.touch == b.2.touch && decide (a.1 < b.1))))

/-- The victim. -/
def victim (s : State) (p tier : Nat) : Option (Nat × PageEntry) :=
  match s.mem.pages.filter (mayEvict s p tier) with
  | [] => none
  | c :: cs => some (cs.foldl (fun a b => if evictBefore b a then b else a) c)

/-- A frame of a tier for partition p: a free one, or one freed by evicting a page, which may itself need an eviction below; none where
the outcome is FULL. -/
def takeFrame : Nat → State → Nat → Nat → Option (Nat × State)
  | 0, s, p, tier => pickFrame s p tier
  | fuel + 1, s, p, tier =>
    match pickFrame s p tier with
    | some r => some r
    | none =>
      match victim s p tier with
      | none => none
      | some c =>
        let q := c.1 / 2 ^ 27
        match tierBelow s q tier with
        | none => none
        | some d =>
          match takeFrame fuel s q d with
          | none => none
          | some (f, s) =>
            pickFrame (inc (movePage s q (c.1 % 2 ^ 27) d f) (tierPg (lowSlice s q) + 0x154)) p tier

/-- A FULL outcome (R290). -/
def noteFull (s : State) (p : Nat) : State := inc (intSet s (tierPg (lowSlice s p)) 2) (tierPg (lowSlice s p) + 0x164)

/-! ### Migration and promotion (R287, R288) -/

/-- The migrations of a partition. -/
def migrating (s : State) (p : Nat) : Nat := (s.mem.migs.filter (fun m => m.part == p)).length

/-- Step 1 of R287: a frame is taken and MIGRATING set; none where the outcome is FULL. -/
def startMigration (s : State) (p g tier : Nat) : Option State :=
  match takeFrame 3 s p tier with
  | none => none
  | some (f, s) =>
    let s := setPage s p g { pageEntry s p g with migrating := true }
    some { s with mem := { s.mem with migs := s.mem.migs ++ [{ part := p, page := g, tier := tier, frame := f }] } }

/-- What an access that needs a promotion meets. -/
inductive Promo where
  | ready (s : State)
  | waits (s : State)
  | full (s : State)
deriving DecidableEq, Repr

/-- A write, or with plain false an addition or atomic, reaches an address (R288): a page that must be promoted starts its migration, of
which a partition runs at most 32. -/
def promote (s : State) (p a : Nat) (plain : Bool) : Promo :=
  let g := swapOf s p (a / pageBytes)
  let e := pageEntry s p g
  if e.migrating then .waits s
  else if e.tier = 2 ∨ (e.tier = 1 ∧ plain = false) then
    if migrating s p ≥ 32 then .waits s
    else
      let d := if e.hint = 2 ∧ plain = true ∧ hostTier s p then 1 else 0
      match startMigration s p g d with
      | some s => .waits (inc s (tierPg (lowSlice s p) + 0x158))
      | none => .full (intSet (noteFull s p) (tierPg (lowSlice s p)) 4)
  else .ready s

/-- An operation that stands behind an earlier one of its source on its block (R305; 09_bellows.md R233). -/
def behindSource (s : State) (o : MemOp) : Bool :=
  (opsBefore o.id s.mem.ops).any (fun x => x.tile == o.tile && x.stage == .released && x.part == o.part &&
    x.addr / 256 == o.addr / 256 && (x.kind.changes || o.kind.changes))

/-- The flash unit of an address is in SD's buffer: whether it was uncorrectable (R292). -/
def flashUnit (s : State) (p a : Nat) : Option Bool :=
  match locOf s p a with
  | some (.flash x) => (s.mem.flashBuf.find? (fun u => u.1 == x / 16384)).map (·.2)
  | _ => some false

/-- An operation on a lower tier has been done there. -/
def doneBelow (r : List Byte × State) (o : MemOp) (failed : Bool) : State :=
  finishOp r.2 { o with data := r.1, failed := failed }

/-- HBM_OP_ARRIVE: an operation that its sorter or its port has released is translated and reaches its controller, behind the earlier ones
of its source on its block; one that needs a promotion starts it and waits (R282, R287, R288); a read or a plain write of the host tier
is done there, and a read of flash once its unit is buffered (R278, R292). -/
def execHbmOpArrive (op : Nat) (now : Nat) (s : State) : Out :=
  let s := tick s now
  match findOp s op with
  | none => .next s
  | some o =>
    if o.stage != .released then .next s
    else if heldByMigration s o.part o.addr o.kind.changes then .next s
    else if behindSource s o then .next s
    else
      match tierAt s o.part o.addr with
      | 0 =>
        let c := ctlOf s o.part o.addr
        .next (moveOp s { o with stage := .arrived, arrived := s.time, ctl := c.1, q := c.2 })
      | 3 => .next (finishOp s { o with failed := true, noFrame := true })
      | tier =>
        match o.kind with
        | .read =>
          if tier = 1 then .next (doneBelow (opEffect s o) o false)
          else
            match flashUnit s o.part o.addr with
            | some bad => .next (doneBelow (opEffect s o) o bad)
            | none => .next s
        | k =>
          match promote s o.part o.addr (k == .write) with
          | .waits s => .next s
          | .full s => .next (finishOp s { o with failed := true, noFrame := true })
          | .ready s => .next (doneBelow (opEffect s o) o false)

/-! ### The commands of the TIER_ page (R284 to R286) -/

def cmdOf (s : State) (p : Nat) : Option TierCmd := cGet (fun _ => none) s.mem.cmds p

def setCmd (s : State) (p : Nat) (c : Option TierCmd) : State :=
  { s with mem := { s.mem with cmds := cSet (fun _ => none) s.mem.cmds p c } }

/-- What a command does to a page: a status, or a migration that it must await. -/
inductive PageRes where
  | status (code : Nat) (s : State)
  | wait (s : State)
deriving DecidableEq, Repr

/-- A command on one page (R283 to R286). -/
def cmdPage (s : State) (p : Nat) (c : TierCmd) : PageRes :=
  let g := c.page
  let e := pageEntry s p g
  if g ≥ partPages s p then .status 5 s
  else if c.op = 1 then
    if e.tier ≠ 3 then .status 1 s
    else
      match takeFrame 3 s p c.tier with
      | none => .status 4 (noteFull s p)
      | some (f, s) =>
        .status 0 (setPage (zeroFrame s p c.tier f) p g { touch := 0, tier := c.tier, hint := c.hint, user := c.user, frame := f })
  else if e.tier = 3 then .status 5 s
  else if pinned s p g then .status 3 s
  else if e.user && !c.user then .status 2 s
  else if e.migrating then .status 1 s
  else if c.op = 2 then
    let s := if e.tier = 2 then zeroFrame s p 2 e.frame else s
    .status 0 (setPage s p g {})
  else if c.op = 3 then
    if e.tier = c.tier then .status 0 s
    else if (e.hint = 1 ∧ c.user = false) ∨ (e.hint = 2 ∧ c.tier = 2) then .status 2 s
    else if migrating s p ≥ 32 then .wait s
    else
      match startMigration s p g c.tier with
      | some s => .wait s
      | none => .status 4 (noteFull s p)
  else .status 0 (setPage s p g { e with hint := c.hint, user := c.user })

/-- A command ends: status, pages completed, CMD_DONE. -/
def endCmd (s : State) (p code : Nat) : State :=
  let pg := tierPg (lowSlice s p)
  intSet (setCmd (wr s (pg + 0x130) code) p none) pg 1

/-- Run a command until it ends or awaits a migration. -/
def runCmd : Nat → State → Nat → TierCmd → State
  | 0, s, p, c => setCmd s p (some c)
  | fuel + 1, s, p, c =>
    if c.left = 0 then endCmd s p 0
    else
      match cmdPage s p c with
      | .wait s => setCmd s p (some c)
      | .status 0 s =>
        runCmd fuel (wr s (tierPg (lowSlice s p) + 0x134) (rd s (tierPg (lowSlice s p) + 0x134) + 1)) p
          { c with page := c.page + 1, left := c.left - 1 }
      | .status code s => endCmd s p code

/-- A write of TIER_CMD with GO that names operation op (R285); an operation that is reserved is refused with FORMAT. The page acts for
its partition on the partition's lowest slice alone (R298). -/
def tierGo (mn : String) (op : Nat) (r : RegWrite) (s : State) : Out :=
  let s := tick s r.now
  match pageAt r.off.toNat with
  | none => .refused (.otherRow mn)
  | some pr =>
    let v := r.val.toNat
    let o := bitsOf v 3 0
    if pr.kind ≠ .tier ∨ r.off.toNat % 4096 ≠ 0x12C ∨ v.testBit 31 = false ∨ (o ≠ op ∧ 1 ≤ o ∧ o ≤ 4) then
      .refused (.otherRow mn)
    else
      let pg := pr.base
      let sl := 2 * pr.die + pr.idx
      match partOfSlice s sl with
      | none => .next (wr s (pg + 0x130) 5)
      | some p =>
        if lowSlice s p ≠ sl ∨ rdB s (pg + 0x130) 8 then .next s
        else
          let s := wr (wr s (pg + 0x12C) (v &&& 0x1ECF)) (pg + 0x134) 0
          let c : TierCmd := { op := o, page := rd64 s (pg + 0x120), left := rdF s (pg + 0x128) 26 0, tier := bitsOf v 7 6,
                               hint := bitsOf v 11 9, user := v.testBit 12 }
          let bad := o = 0 ∨ o > 4 ∨ c.left = 0 ∨ c.left > 67108864 ∨ ((o = 1 ∨ o = 3) ∧ c.tier = 3) ∨
            ((o = 1 ∨ o = 4) ∧ c.hint > 3)
          if bad then .next (endCmd s p 5)
          else if tiered s p = false ∨ ((o = 1 ∨ o = 3) ∧ tierOn s p c.tier = false) then .next (endCmd s p 6)
          else .next (runCmd (c.left + 1) (wr s (pg + 0x130) 0x100) p c)

/-- TIER_CMD OP 0x1: MAP. -/
def execTierMap (r : RegWrite) (s : State) : Out := tierGo "TIER_MAP" 1 r s
/-- TIER_CMD OP 0x2: UNMAP. -/
def execTierUnmap (r : RegWrite) (s : State) : Out := tierGo "TIER_UNMAP" 2 r s
/-- TIER_CMD OP 0x3: MIGRATE; it goes on to its next page when the present one's migration completes. -/
def execTierMigrate (r : RegWrite) (s : State) : Out := tierGo "TIER_MIGRATE" 3 r s
/-- TIER_CMD OP 0x4: HINT. -/
def execTierHint (r : RegWrite) (s : State) : Out := tierGo "TIER_HINT" 4 r s

/-- MIGRATION_DONE: the page's copy completes once no write to it is still on its way; the operations held go on, and so does the command that
started it. -/
def execMigrationDone (part : Fin 8) (page : Nat) (now : Nat) (s : State) : Out :=
  let s := tick s now
  let p := part.val
  match s.mem.migs.find? (fun m => m.part == p && m.page == page) with
  | none => .next s
  | some m =>
    if s.mem.ops.any (fun o => o.part == p && swapOf s p (o.addr / pageBytes) == page && o.kind.changes && o.stage == .arrived)
    then .next s
    else
      let s := movePage s p page m.tier m.frame
      let s := { s with mem := { s.mem with migs := s.mem.migs.filter (fun x => !(x.part == p && x.page == page)) } }
      match cmdOf s p with
      | some c => .next (runCmd (c.left + 1) s p c)
      | none => .next s

/-- XLAT_MISS_FILL: a translation point reads a page's entry, one sector of the read class (R282). -/
def execXlatMissFill (part : Fin 8) (page : Nat) (now : Nat) (s : State) : Out :=
  let s := tick s now
  let p := part.val
  if tiered s p && decide (page < partPages s p) then
    let h := (hbmFrames s p - mapFrames s p) * pageBytes + 8 * page
    let st := partStacks s p
    .next (inc (chargeClass s (nth 0 st (hashJ st.length h)) 0 32) (tierPg (lowSlice s p) + 0x160))
  else .next s

/-! ### Flash (R292 to R297) -/

/-- FLASH_UNIT_READ: a 16 KiB unit reaches SD's buffer of 1,024 units. -/
def execFlashUnitRead (unit : Nat) (ecc : Ecc) (now : Nat) (s : State) : Out :=
  let s := countFlash (tick s now) false 16384
  let bad := match ecc with
    | .uncorrectable _ => true
    | _ => false
  let s := { s with mem := { s.mem with flashBuf := ((unit, bad) :: s.mem.flashBuf.filter (fun x => x.1 != unit)).take 1024 } }
  .next (if bad then inc (intSet s ftl0Pg 2) (ftl0Pg + 0x14C) else s)

/-- A write to SYS or BILLET of n bytes (R294): counted towards the next checkpoint. -/
def ftlWrite (s : State) (n : Nat) : State :=
  let s := countFlash s true n
  { s with mem := { s.mem with ftlSince := s.mem.ftlSince + n } }

/-- The bytes of the map: 32 bits for each 16 KiB unit (R294). -/
def ftlMapBytes : Nat := Config.flashUsable / 16384 * 4

/-- FTL_CHECKPOINT: after 16 GiB of SYS and BILLET writes the map is written to SYS. -/
def execFtlCheckpoint (now : Nat) (s : State) : Out :=
  let s := tick s now
  if s.mem.ftlSince ≥ 17179869184 then
    .next (countFlash { s with mem := { s.mem with ftlSince := s.mem.ftlSince - 17179869184, fresh := [] } } true ftlMapBytes)
  else .next s

/-- FTL_RELOCATION: a block's valid units, as many as they are, are written elsewhere (R296). -/
def execFtlRelocation (_block : Nat) (now : Nat) (s : State) : Out :=
  let v := drawFree (tick s now)
  .next (inc64 (inc v.2 (ftl0Pg + 0x148)) (ftl0Pg + 0x138) v.1)

/-- FTL_RATED_PBW, and FTL_WR_BYTES as a percentage of it (R297, R299). -/
def ratedPbw : Nat := if Config.isF64 then 140 else 70
def lifeUsed (s : State) : Nat := min 255 (rd64 s (ftl0Pg + 0x130) * 100 / (ratedPbw * 1000000000000000))

/-- The spare blocks that remain. -/
def spareBlocks (s : State) : Nat := Config.flashSpareBlocks - rd s (ftl0Pg + 0x144)

/-- FTL_BLOCK_RETIRE: a failed block is retired and replaced; SPARE_LOW below 1 % of the initial spares, DEGRADED with none (R296,
R297, R299). -/
def execFtlBlockRetire (_block : Nat) (now : Nat) (s : State) : Out :=
  let s := wr (tick s now) (ftl0Pg + 0x144) (rd s (ftl0Pg + 0x144) + 1)
  let s := if 100 * spareBlocks s < Config.flashSpareBlocks then intSet s ftl0Pg 4 else s
  if spareBlocks s = 0 ∧ ftlDegraded s = false then
    .next (clinker (intSet (wrB s (ftl0Pg + 0x104) 1 true) ftl0Pg 1) { cat := 10, code := 1, page := ftl0Pg })
  else .next s

/-- STATIC_WEAR_LEVELLING: data moves out of a block whose erase count lies far below the mean (R296). -/
def execStaticWearLevelling (_block : Nat) (now : Nat) (s : State) : Out :=
  let v := drawFree (tick s now)
  .next (inc64 v.2 (ftl0Pg + 0x138) v.1)

end Sys2Proof.Machine
end

