-- ==== Sys2Proof/Machine/Bellows.lean ====
section
/-!
DEFINITION. Bellows (09_bellows.md): descriptors, their requests and slots, the prefetch window, drains, and PREFETCH_FENCE.
-/
namespace Sys2Proof.Machine

/-! ### The engine's lists -/

def descsOf (s : State) (t : Nat) : List BDesc := cGet (fun _ => []) s.blw.descs t

def setDescs (s : State) (t : Nat) (l : List BDesc) : State :=
  { s with blw := { s.blw with descs := cSet (fun _ => []) s.blw.descs t l } }

def putDesc (s : State) (t : Nat) (d : BDesc) : State := setDescs s t ((descsOf s t).map (fun x => if x.id = d.id then d else x))

def windowOf (s : State) (t : Nat) : List PfEntry := cGet (fun _ => []) s.blw.window t

def setWindow (s : State) (t : Nat) (l : List PfEntry) : State :=
  { s with blw := { s.blw with window := cSet (fun _ => []) s.blw.window t l } }

def putEntry (s : State) (t : Nat) (e : PfEntry) : State := setWindow s t ((windowOf s t).map (fun x => if x.id = e.id then e else x))

def setReqs (s : State) (l : List BReq) : State := { s with blw := { s.blw with reqs := l } }

/-- A fresh number. -/
def freshBlw (s : State) : Nat × State := (s.blw.nextId, { s with blw := { s.blw with nextId := s.blw.nextId + 1 } })

/-- The Bellows tags that a tile holds (R163, R231). -/
def blwTags (s : State) (t : Nat) : Nat :=
  (s.blw.reqs.filter (fun r => r.tile == t)).length +
    ((descsOf s t).filter (fun d => d.tag || d.kind == .push || d.kind == .pop)).length

/-- The page of a tile's Bellows. -/
def blwTPg (t : Nat) : Nat := tilePg t 6

/-- The transfer status word of R193 with detail in units of 32 bytes (R234). -/
def statusWord (code off : Nat) : W64 := BitVec.ofNat 64 (code % 256 + off / 32 % 2 ^ 24 * 2 ^ 32)

/-! ### Fences (07_tile_operations.md R195) -/

/-- The bit of FENCE's MASK that selects a kind. -/
def BKind.fenceBit : BKind → Option Nat
  | .streamIn | .prefetch | .gather | .pop => some 0
  | .writeBack | .push => some 1
  | _ => none

/-- Some transfer of the kinds of a mask that a run of a thread has issued is not complete. -/
def fencePending (s : State) (t th gen mask : Nat) : Bool :=
  (descsOf s t).any (fun d =>
    (match d.thr with
     | some x => x.1 == th && x.2.1 == gen
     | none => false) &&
    (match d.kind.fenceBit with
     | some b => mask.testBit b
     | none => false)) ||
  (mask.testBit 2 && s.tng.ops.any (fun o => o.tile == t && o.thr == th && o.gen == gen))

/-- Threads whose fence's transfers have completed become RUNNABLE. -/
def wakeFences (s : State) (t : Nat) : State :=
  mapThreads s t (fun th x =>
    match x.st with
    | .blockedXfer m => if fencePending s t th x.gen m then x else { x with st := .runnable }
    | _ => x)

/-! ### Completion -/

/-- Report a descriptor's status: to its thread's register, or to its ring; a status other than OK is counted, signalled and logged
(R246). -/
def reportDesc (s : State) (t : Nat) (d : BDesc) (code off : Nat) : State :=
  let s := match d.thr with
    | some x => lateWrite s t x.1 x.2.1 x.2.2 (markBlw d.id) (statusWord code off)
    | none => s
  let s := match d.ring with
    | some r => { s with blw := { s.blw with xfers := cSet (fun _ => none) s.blw.xfers (4 * r.1 + r.2) (some code) } }
    | none => s
  if code = 0 then s
  else
    let th := match d.thr with
      | some x => x.1
      | none => 0x3F
    latchBlk (inc (intSet s (blwTPg t) 1) (blwTPg t + 0x13C)) (blwTPg t) (th * 256 + code) d.src

/-- A descriptor completes: its place is free, its status reported, fences looked at again. -/
def completeDesc (s : State) (t : Nat) (d : BDesc) (code off : Nat) : State :=
  wakeFences (reportDesc (setDescs s t ((descsOf s t).filter (fun x => x.id != d.id))) t d code off) t

/-- A DRAIN completes: counted, with the µs since its acceptance. -/
def completeDrain (s : State) (t : Nat) (d : BDesc) (code : Nat) : State :=
  completeDesc (incBy (inc s (blwTPg t + 0x134)) (blwTPg t + 0x138) ((s.time - d.since) / 1000)) t d code 0

/-! ### Drains (R241, R242) -/

/-- Every write that Bellows of the tile accepted before the DRAIN has completed. -/
def locallyDrained (s : State) (t : Nat) (d : BDesc) : Bool :=
  !((descsOf s t).any (fun x => decide (x.id < d.id) && (x.kind == .writeBack || x.kind == .push)))

/-- The open drain of a partition. -/
def drainOf (s : State) (p : Nat) : Option (Nat × List Nat) := cGet (fun _ => none) s.blw.drains (lowSlice s p)

def setDrain (s : State) (p : Nat) (x : Option (Nat × List Nat)) : State :=
  { s with blw := { s.blw with drains := cSet (fun _ => none) s.blw.drains (lowSlice s p) x } }

/-- Complete the DRAINs that have arrived, on one tile. -/
def releaseTile (t : Nat) : List BDesc → State → State
  | [], s => s
  | d :: ds, s => releaseTile t ds (if d.kind = .drain ∧ d.atDrain then completeDrain s t d 0 else s)

/-- Complete the DRAINs that have arrived, on every tile of the partition, and close the drain. -/
def releaseDrain (s : State) (p : Nat) : State :=
  (partTiles s p).foldl (fun s t => releaseTile t (descsOf s t) s) (setDrain s p none)

/-- A tile arrives at the partition's drain with a DRAIN (R242). -/
def arriveDrain (s : State) (t p : Nat) (d : BDesc) : State :=
  let wait := fun s => putDesc s t { d with atDrain := true }
  match drainOf s p with
  | none =>
    let s := wait (setDrain s p (some (d.drainId, [t])))
    if (partTiles s p).length ≤ 1 then releaseDrain s p else s
  | some (i, ts) =>
    if i ≠ d.drainId then completeDrain (intSet s (blwPg (lowSlice s p)) 1) t d 6
    else if ts.contains t then wait s
    else
      let s := wait (setDrain s p (some (i, ts ++ [t])))
      if (partTiles s p).length ≤ ts.length + 1 then releaseDrain s p else s

/-- The DRAINs of a tile whose writes have completed go on. -/
def settleDrains (t : Nat) : List BDesc → State → State
  | [], s => s
  | d :: ds, s =>
    settleDrains t ds
      (if d.kind = .drain ∧ d.atDrain = false ∧ locallyDrained s t d then
        match d.scope, partOfTile s t with
        | true, some p => arriveDrain s t p d
        | _, _ => completeDrain s t d 0
      else s)

/-- A descriptor has completed: DRAINs behind it may go on. -/
def finishDesc (s : State) (t : Nat) (d : BDesc) (code off : Nat) : State :=
  let s := completeDesc s t d code off
  settleDrains t (descsOf s t) s

/-! ### The descriptor (R227 to R230) -/

/-- The fields of a descriptor's 32 bytes. -/
def dsOp (b : List Byte) : Nat := leNat (slice b 0 1)
def dsFlags (b : List Byte) : Nat := leNat (slice b 1 1)
def dsRows (b : List Byte) : Nat := leNat (slice b 2 2)
def dsRowBytes (b : List Byte) : Nat := leNat (slice b 4 4)
def dsMem (b : List Byte) : Nat := leNat (slice b 8 8)
def dsMemStride (b : List Byte) : Nat := leNat (slice b 16 4)
def dsSpad (b : List Byte) : Nat := leNat (slice b 20 4)
def dsSpadStride (b : List Byte) : Nat := leNat (slice b 24 4)
def dsArg (b : List Byte) : Nat := leNat (slice b 28 4)

/-- A power of two from 32 to 2,048. -/
def gatherBytesOk (n : Nat) : Bool := [32, 64, 128, 256, 512, 1024, 2048].contains n

/-- No reserved value or bit is set (R227). -/
def dsReservedOk (b : List Byte) : Bool :=
  let op := dsOp b
  if op = 5 then
    dsFlags b &&& 0xFB == 0 && dsRows b == 0 && dsRowBytes b == 0 && dsMem b == 0 && dsMemStride b == 0 && dsSpad b == 0 &&
      dsSpadStride b == 0 && decide (dsArg b < 65536)
  else
    decide (1 ≤ op ∧ op ≤ 4) &&
      (if op = 3 then decide (dsFlags b < 3) else dsFlags b == 0) &&
      dsRows b != 0 && dsRowBytes b != 0 && dsRowBytes b % 32 == 0 && dsMem b % 32 == 0 && dsMemStride b % 32 == 0 &&
      dsSpad b % 32 == 0 && decide (dsSpad b < 2 ^ 24) && dsSpadStride b % 32 == 0 && decide (dsSpadStride b < 2 ^ 24) &&
      dsArg b == 0 && (op != 4 || (gatherBytesOk (dsRowBytes b) && dsMem b % dsRowBytes b == 0))

/-- The scratchpad addresses of the rows. -/
def dsSpadRows (b : List Byte) : List Nat := (List.range (dsRows b)).map (fun i => dsSpad b + i * dsSpadStride b)

/-- The descriptor is valid (R229). -/
def dsValid (s : State) (t : Nat) (b : List Byte) : Bool :=
  dsReservedOk b && (dsOp b == 5 ||
    (decide (dsRows b * dsRowBytes b ≤ 16777216) && decide (dsRowBytes b ≤ dsSpadStride b) &&
      (dsOp b != 3 || decide (dsRowBytes b ≤ dsMemStride b)) &&
      !((dsSpadRows b).any (fun a => badRange s t a (dsRowBytes b))) &&
      (dsOp b != 4 ||
        (!(badRange s t (dsMemStride b) (4 * dsRows b)) &&
          !((dsSpadRows b).any (fun a => rangesOverlap a (dsRowBytes b) (dsMemStride b) (4 * dsRows b)))))))

/-- The requests of one row: split at 2 KiB boundaries of the memory address (R230). -/
def rowPieces (mem spad off n : Nat) : List BPiece :=
  (splitRange 2048 mem n).map (fun r => { mem := r.1, len := r.2, spad := spad + (r.1 - mem), off := off + (r.1 - mem) })

/-- The requests of a descriptor that is no GATHER. -/
def dsPieces (b : List Byte) : List BPiece :=
  ((List.range (dsRows b)).map (fun i =>
    rowPieces (dsMem b + i * dsMemStride b) (dsSpad b + i * dsSpadStride b) (i * dsRowBytes b) (dsRowBytes b))).flatten

/-- The slots that a piece touches. -/
def BPiece.slots (c : BPiece) : List Nat := rangeFrom (c.spad / 512) ((c.spad + c.len - 1) / 512 + 1 - c.spad / 512)

/-- The kind of a descriptor's OP; a member's PREFETCH runs as STREAM_IN (R235). -/
def dsKind (b : List Byte) (task : Option (Fin 4)) : BKind :=
  match dsOp b with
  | 2 => if task.isSome then .streamIn else .prefetch
  | 3 => .writeBack
  | 4 => .gather
  | 5 => .drain
  | _ => .streamIn

/-- A descriptor as Bellows takes it. -/
def dsMake (b : List Byte) (id src now : Nat) (thr : Option (Nat × Nat × Nat)) (ring : Option (Nat × Nat)) (task : Option (Fin 4)) :
    BDesc :=
  let k := dsKind b task
  { id := id, kind := k, thr := thr, ring := ring, task := task, src := src,
    list := if k = .gather then some (dsMemStride b, dsRows b, dsRowBytes b, dsSpad b, dsSpadStride b) else none,
    base := dsMem b, sk := dsFlags b % 4, pieces := if k = .gather ∨ k = .drain then [] else dsPieces b, live := [], slots := [],
    tag := false, capped := none, behind := false, fail := none, since := now, scope := (dsFlags b).testBit 2,
    drainId := dsArg b % 65536, atDrain := false }

/-- The first piece whose memory is not in the partition. -/
def badPiece (s : State) (p : Nat) (l : List BPiece) : Option BPiece := l.find? (fun c => !(inPart s p c.mem c.len))

/-- What becomes of a descriptor that Bellows has accepted: a status at once, or it stays (R229, R234; 06_tiles_and_threads.md
R154, R502). -/
def acceptDesc (s : State) (t : Nat) (b : List Byte) (bad : Bool) (d : BDesc) : State :=
  let s := setDescs s t (descsOf s t ++ [d])
  if bad then finishDesc s t d 5 0
  else if dsValid s t b = false then finishDesc s t d 6 0
  else if d.kind = .drain then settleDrains t [d] s
  else
    match partOfTile s t with
    | none => finishDesc s t d 1 0
    | some p =>
      match d.pieces.find? (fun c => d.kind != .writeBack && rangeHitsCode s t d.task c.spad c.len) with
      | some c => finishDesc (intSet s (tilePg t 0) 64) t d 4 c.off
      | none =>
        match badPiece s p d.pieces with
        | some c => finishDesc s t d 1 c.off
        | none => s

/-- The slots that a descriptor will change in scratchpad, each once. -/
def destUses (b : List Byte) : List (Nat × Use) :=
  if dsOp b = 1 ∨ dsOp b = 2 ∨ dsOp b = 4 then
    ((dsSpadRows b).map (fun a => rangeUses a (dsRowBytes b) .produce)).flatten.eraseDups
  else []

/-- BLW.DESC with a descriptor of OP op (R192). An OP that is reserved completes with FORMAT. -/
def blwDesc (mn : String) (op : Nat) (i : Issue) (s : State) : Out :=
  let w := i.word.toNat
  let a := (xreg s i.tile i.thr (fAb w)).toNat
  let o := (seeByte s i.tile (thrOf s i.tile i.thr).task a).toNat
  if fUnit w = 4 ∧ fOpc w = 1 ∧ zero w 38 0 ∧ (thrOf s i.tile i.thr).st = .runnable ∧ guardOk s i.tile i.thr w ∧
      badRange s i.tile a 32 = false ∧ a % 32 = 0 ∧ 1 ≤ o ∧ o ≤ 5 ∧ o ≠ op then .refused (.otherRow mn)
  else
    issueOp mn 4 0x01 (fun w => specOk (fD w) && zero w 38 0) (fun w => [fAb w]) i s fun c s =>
      let a := (xreg s c.t c.th (fAb c.w)).toNat
      if badRange s c.t a 32 then .fault 3
      else if a % 32 ≠ 0 then .fault 5
      else
        let k := c.task s
        let e := spadEcc s c.t [(a, 32)] c.ecc
        let b := seeBytes s c.t k a 32
        let bad := match e.1 with
          | .uncorrectable _ => true
          | _ => false
        if (descsOf s c.t).length ≥ 32 then .wait
        else if op ≠ 5 ∧ blwTags s c.t ≥ 96 then .wait
        else if k.isSome ∧ op = 3 then .fault 6
        else
          let valid := !bad && dsValid s c.t b
          match (if valid then shadowAll (spadEccNote e.2 c.t 1 e.1) c.t k (destUses b)
                 else some (spadEccNote e.2 c.t 1 e.1)) with
          | none => .fault 7
          | some s =>
            let n := freshBlw s
            .done (acceptDesc (addPend n.2 c.t c.th (fD c.w) (markBlw n.1)) c.t b bad
              (dsMake b n.1 a s.time (some (c.th, (thrOf s c.t c.th).gen, fD c.w)) none k))

/-- STREAM_IN (R228). -/
def execStreamIn (i : Issue) (s : State) : Out := blwDesc "STREAM_IN" 1 i s
/-- PREFETCH (R236). -/
def execPrefetch (i : Issue) (s : State) : Out := blwDesc "PREFETCH" 2 i s
/-- WRITE_BACK; a member of a task faults (R166, R235). -/
def execWriteBack (i : Issue) (s : State) : Out := blwDesc "WRITE_BACK" 3 i s
/-- GATHER (R228). -/
def execGather (i : Issue) (s : State) : Out := blwDesc "GATHER" 4 i s
/-- DRAIN (R241, R242). -/
def execDrain (i : Issue) (s : State) : Out := blwDesc "DRAIN" 5 i s

/-! ### Claims of slots by requests (R215, R231) -/

def awaitsOf (s : State) (t slot : Nat) : Nat := cGet (fun _ => 0) s.blw.awaits (32768 * t + slot)

def setAwaits (s : State) (t slot n : Nat) : State :=
  { s with blw := { s.blw with awaits := cSet (fun _ => 0) s.blw.awaits (32768 * t + slot) n } }

/-- Claim the slots that a transfer touches for the first time, each with the number of its pieces that touch it. -/
def claimFor (t : Nat) (k : Option (Fin 4)) (u : Use) (count : Nat → Nat) : List Nat → State → State
  | [], s => s
  | sl :: sls, s =>
    claimFor t k u count sls (setAwaits (claimSlots s t k [(sl, u)]) t (viewSlot s t k sl) (count sl))

/-- A piece that touches slots has arrived or has been read: the last one settles each slot's tag. -/
def settleFor (t : Nat) (k : Option (Fin 4)) (u : Use) : List Nat → State → State
  | [], s => s
  | sl :: sls, s =>
    let v := viewSlot s t k sl
    let n := awaitsOf s t v
    let s := setAwaits s t v (n - 1)
    settleFor t k u sls (if n = 1 then releaseSlots s t k [(sl, u)] else s)

/-! ### Requests (R230 to R233) -/

/-- The use of a source slot under SK (R227). -/
def skOf : Nat → Use
  | 0 => .look
  | 1 => .read
  | _ => .consume

/-- A read waits behind an incomplete write of its tile on the same blocks (R233). -/
def behindWrite (s : State) (t p : Nat) (c : BPiece) : Bool :=
  s.blw.reqs.any (fun r => r.write && r.tile == t && r.part == p && blocksMeet c.mem c.len r.piece.mem r.piece.len)

/-- Room in the sorter for a piece's block operations (R255). -/
def sorterRoom (s : State) (t p : Nat) (c : BPiece) : Bool :=
  tierAt s p c.mem != 0 || decide ((sorterOps s t).length + (splitRange 256 c.mem c.len).length ≤ 256)

/-- The tile's bank cap holds a piece's request (R256). -/
def pieceCapped (s : State) (t p : Nat) (c : BPiece) : Bool := tierAt s p c.mem == 0 && bankCapped s t p c.mem c.len

/-- Read the index list of a GATHER, once its slots allow it, and check every element's address (R229). -/
def readList (s : State) (t p : Nat) (d : BDesc) (la n eb spad stride : Nat) (ecc : Ecc) : State :=
  match firstBlocked s t d.task (rangeUses la (4 * n) .read) with
  | some _ => s
  | none =>
    let e := spadEcc s t [(la, 4 * n)] ecc
    let s := spadEccNote e.2 t 1 e.1
    match e.1 with
    | .uncorrectable _ => finishDesc s t d 5 0
    | _ =>
      let ps := (List.range n).map (fun i =>
        ({ mem := d.base + seeNat s t d.task (la + 4 * i) 4 * eb, len := eb, spad := spad + i * stride, off := i * eb } : BPiece))
      match ps.find? (fun c => rangeHitsCode s t d.task c.spad c.len) with
      | some c => finishDesc (intSet s (tilePg t 0) 64) t d 4 c.off
      | none =>
        match badPiece s p ps with
        | some c => finishDesc s t d 1 c.off
        | none => putDesc s t { d with list := none, pieces := ps }

/-- A descriptor's first failure: later requests do not issue, and it completes once those issued have (R234). -/
def failDesc (s : State) (t : Nat) (d : BDesc) (code off : Nat) : State :=
  let d := { d with fail := (match d.fail with
      | some f => some f
      | none => some (code, off)), pieces := [], tag := false }
  if d.live.isEmpty then finishDesc s t d (d.fail.getD (0, 0)).1 (d.fail.getD (0, 0)).2 else putDesc s t d

/-- The request of a piece goes to its tier (R255, R278). A host access takes effect as it issues (DEDUCED, log entry 24); a flash read waits for its
unit. -/
def sendPiece (s : State) (t p : Nat) (d : Option BDesc) (c : BPiece) (write : Bool) (task : Option (Fin 4)) (gather watch : Bool)
    (data : List Byte) (win : Option Nat) : Nat × State :=
  let n := freshBlw s
  let id := n.1
  let s := n.2
  let a := if write then redirect s p c.mem else c.mem
  let s := if write then countSectors s p c.mem c.len else s
  let tier := tierAt s p a
  let r : BReq := { id := id, tile := t, desc := d.map (·.id), part := p, piece := c, write := write, task := task, tier := tier,
                    data := (if write then data else if tier = 1 then memBytes s p a c.len else []), win := win, failed := false }
  let s := setReqs s (s.blw.reqs ++ [r])
  if tier = 0 then
    (id, enterOps s { owner := .blw id, tile := some t, kind := if write then .write else .read, cls := if write then 1 else 0,
                      gather := gather, watch := watch } p (splitRange 256 a c.len) data)
  else if write then (id, noteWrite (memPut s p a data) p a c.len)
  else (id, touchPage s p a)

/-- Issue the next request of a read descriptor whose conditions hold. -/
def issueRead (s : State) (t p : Nat) (d : BDesc) (c : BPiece) (rest : List BPiece) : State :=
  let new := c.slots.filter (fun x => !d.slots.contains x)
  match firstBlocked s t d.task (new.map (fun x => (x, Use.produce))) with
  | some _ => putDesc s t { d with tag := true }
  | none =>
    if behindWrite s t p c then
      if d.behind then s else inc (putDesc s t { d with behind := true, tag := true }) (blwTPg t + 0x12C)
    else if d.kind = .prefetch ∧ (windowOf s t).length ≥ 512 then s
    else
      let s := claimFor t d.task .produce (fun x => ((c :: rest).filter (fun y => y.slots.contains x)).length) new s
      let w := if d.kind = .prefetch then some s.blw.nextId else none
      let s := match w with
        | some id =>
          let e : PfEntry :=
            { id := id, part := p, piece := c, filled := false, left := [], inval := none, fences := [], reissue := false,
              stale := false }
          inc (setWindow (freshBlw s).2 t (windowOf s t ++ [e])) (blwTPg t + 0x120)
        | none => s
      let r := sendPiece s t p (some d) c false d.task (d.kind == .gather) w.isSome [] w
      putDesc r.2 t { d with pieces := rest, live := d.live ++ [r.1], slots := d.slots ++ new, tag := false, capped := none,
                             behind := false }

/-- Issue the next request of a WRITE_BACK: its source slots allow the read; an uncorrectable source ends the descriptor with DATA. -/
def issueWrite (s : State) (t p : Nat) (d : BDesc) (c : BPiece) (rest : List BPiece) (ecc : Ecc) : State :=
  let u := skOf d.sk
  let new := c.slots.filter (fun x => !d.slots.contains x)
  match firstBlocked s t d.task (new.map (fun x => (x, u))) with
  | some _ => putDesc s t { d with tag := true }
  | none =>
    let s := if u = .consume then
        claimFor t d.task .consume (fun x => ((c :: rest).filter (fun y => y.slots.contains x)).length) new s
      else s
    let d := { d with slots := d.slots ++ new }
    let e := spadEcc s t [(c.spad, c.len)] ecc
    let s := spadEccNote e.2 t 1 e.1
    match e.1 with
    | .uncorrectable _ => failDesc s t d 5 c.off
    | _ =>
      let r := sendPiece s t p (some d) c true d.task false false (seeBytes s t d.task c.spad c.len) none
      let s := if u = .consume then settleFor t d.task .consume c.slots r.2 else r.2
      putDesc s t { d with pieces := rest, live := d.live ++ [r.1], tag := false, capped := none, behind := false }

/-- The request may take its tag: one is free, and the bank cap allows it; a request first held by the cap is counted (R256). -/
def takeTag (s : State) (t p : Nat) (d : BDesc) (c : BPiece) : Option State :=
  if d.tag = false ∧ blwTags s t ≥ 96 then some s
  else if d.tag = false ∧ pieceCapped s t p c then
    match d.capped with
    | some _ => some s
    | none => some (inc (putDesc s t { d with capped := some s.time }) (tilePg t 7 + 0x110))
  else if sorterRoom s t p c then none else some s

/-- BLW_REQUEST_ISSUE: a descriptor's index list is read, or its next request issues, as far as tags, slots, the sorter and the page allow. -/
def execBlwRequestIssue (tile : Fin 288) (desc : Nat) (ecc : Ecc) (now : Nat) (s : State) : Out :=
  let s := tick s now
  let t := tile.val
  match (descsOf s t).find? (fun d => d.id == desc), partOfTile s t with
  | some d, some p =>
    if d.fail.isSome then .next s
    else
      match d.list, d.pieces with
      | some (la, n, eb, spad, stride), _ => .next (readList s t p d la n eb spad stride ecc)
      | none, [] => .next s
      | none, c :: rest =>
        let write := d.kind == .writeBack
        match (if write then promote s p c.mem true else .ready s) with
        | .waits s => .next s
        | .full s => .next (failDesc s t d 1 c.off)
        | .ready s =>
          match takeTag s t p d c with
          | some s => .next s
          | none => .next (if write then issueWrite s t p d c rest ecc else issueRead s t p d c rest)
  | _, _ => .next s

/-! ### The prefetch window (R236 to R240) -/

/-- Reissue a window entry's request once a tag is free and the cap and the sorter allow it (R238). -/
def tryReissue (s : State) (t : Nat) (e : PfEntry) : State :=
  if blwTags s t ≥ 96 ∨ pieceCapped s t e.part e.piece ∨ sorterRoom s t e.part e.piece = false ∨
      behindWrite s t e.part e.piece then putEntry s t { e with reissue := true }
  else (sendPiece (putEntry s t { e with reissue := false }) t e.part none e.piece false none false true [] (some e.id)).2

/-- Complete the fences that no entry holds any more (R239). -/
def settleFences (s : State) : State :=
  (s.blw.descs.map (fun c => (c.2.filter (fun d => d.kind == .fence)).map (fun d => (c.1, d)))).flatten.foldl
    (fun s x =>
      if s.blw.window.any (fun c => c.2.any (fun e => e.fences.contains x.2.id)) then s
      else finishDesc s x.1 x.2 0 0) s

/-- Set the tags of slots empty, without releasing the entries that filled them, and claim them for a refill. -/
def emptyForRefill (t : Nat) : List Nat → State → State
  | [], s => s
  | sl :: sls, s =>
    let s := { s with tl := { s.tl with tags := cSet (fun _ => .empty) s.tl.tags (32768 * t + sl) .empty } }
    let c := claimOf s t sl
    let s := if awaitsOf s t sl = 0 then setClaim s t sl { c with produce := c.produce + 1 } else s
    emptyForRefill t sls (setAwaits s t sl (awaitsOf s t sl + 1))

/-- PREFETCH_INVALIDATE: an invalidation reaches a window entry: an OUTSTANDING one will discard its data and reissue; a FILLED one empties its
slots and reissues. An entry that waits for a tag tries again. -/
def execPrefetchInvalidate (tile : Fin 288) (entry : Nat) (now : Nat) (s : State) : Out :=
  let s := tick s now
  let t := tile.val
  match (windowOf s t).find? (fun e => e.id == entry) with
  | none => .next (settleFences s)
  | some e =>
    match e.inval with
    | none => .next (settleFences (if e.reissue then tryReissue s t e else s))
    | some fence =>
      let e' := { e with inval := none, fences := [] }
      let s := if fence || e.stale || e.reissue then s else inc s (blwTPg t + 0x124)
      if e.reissue then .next (settleFences (tryReissue s t e'))
      else if e.filled then
        let s := emptyForRefill t e.piece.slots (putEntry s t { e' with filled := false, left := [] })
        .next (settleFences (tryReissue s t { e' with filled := false, left := [] }))
      else .next (settleFences (putEntry s t { e' with stale := true }))

/-- The number of a tile's entries that a fence has marked. -/
def fenceMarks (s : State) (id : Nat) : List (Nat × Nat) :=
  s.blw.window.map (fun c => (c.1, (c.2.filter (fun e => e.fences.contains id)).length))

/-- PREFETCH_FENCE: every window entry of the partition that overlaps the range is invalidated and counted on its tile; the fence completes
when every tile has applied it (R192, R239). -/
def execPrefetchFence (i : Issue) (s : State) : Out :=
  issueOp "PREFETCH_FENCE" 4 0x02 (fun w => specOk (fD w) && zero w 33 0) (fun w => [fAb w, bitsOf w 38 34]) i s fun c s =>
    if (descsOf s c.t).length ≥ 32 then .wait
    else
      let a := (xreg s c.t c.th (fAb c.w)).toNat
      let n := (xreg s c.t c.th (bitsOf c.w 38 34)).toNat
      let f := freshBlw s
      let d : BDesc :=
        { id := f.1, kind := .fence, thr := some (c.th, (thrOf s c.t c.th).gen, fD c.w), ring := none, task := none, src := 0,
          list := none, base := 0, sk := 0, pieces := [], live := [], slots := [], tag := false, capped := none, behind := false,
          fail := none, since := s.time, scope := false, drainId := 0, atDrain := false }
      let s := setDescs (addPend f.2 c.t c.th (fD c.w) (markBlw f.1)) c.t (descsOf f.2 c.t ++ [d])
      match partOfTile s c.t with
      | none => .done (finishDesc s c.t d 1 0)
      | some p =>
        if a + n > partPages s p * pageBytes then .done (finishDesc s c.t d 1 0)
        else
          let s := sendInval s (some f.1) (fun e => e.part == p && rangesOverlap a n e.piece.mem e.piece.len)
          .done (settleFences ((fenceMarks s f.1).foldl (fun s x => incBy s (blwTPg x.1 + 0x128) x.2) s))

/-! ### Completion of requests (R232) -/

/-- The block operations of a request. -/
def ownedOps (s : State) (o : OpOwner) : List MemOp := s.mem.ops.filter (fun x => x.owners.contains o)

/-- A request needs its operations no longer. -/
def releaseOps (s : State) (o : OpOwner) : State :=
  setOps s ((s.mem.ops.map (fun x => { x with owners := x.owners.filter (fun y => y != o) })).filter
    (fun x => !(x.stage == .served && x.owners.isEmpty)))

/-- The bytes from address a that operations have read. -/
def gatherBytes (a n : Nat) (ops : List MemOp) : List Byte :=
  (rangeFrom a n).map (fun x =>
    match ops.find? (fun o => decide (o.addr ≤ x ∧ x < o.addr + o.len)) with
    | some o => nth 0 o.data (x - o.addr)
    | none => 0)

/-- A request's data is there, or its write has taken effect and its invalidations have been applied; and whether it failed. -/
def requestReady (s : State) (r : BReq) : Option Bool :=
  let ops := ownedOps s (.blw r.id)
  if r.write then
    if ops.all (fun o => o.stage == .admitted || o.stage == .served) &&
        !(s.blw.window.any (fun c => c.2.any (fun e => e.inval == some false && e.part == r.part &&
          blocksMeet r.piece.mem r.piece.len e.piece.mem e.piece.len)))
    then some false else none
  else if r.tier = 0 then (if ops.all (fun o => o.stage == .served) then some (ops.any (·.failed)) else none)
  else if r.tier = 2 then flashUnit s r.part r.piece.mem
  else some false

/-- The data of a read request. -/
def requestData (s : State) (r : BReq) : List Byte :=
  if r.tier = 0 then gatherBytes r.piece.mem r.piece.len (ownedOps s (.blw r.id))
  else if r.tier = 2 then memBytes s r.part r.piece.mem r.piece.len
  else r.data

/-- A request of a descriptor has ended. -/
def endRequest (s : State) (t : Nat) (r : BReq) (fail : Option Nat) : State :=
  match r.desc with
  | none => s
  | some i =>
    match (descsOf s t).find? (fun d => d.id == i) with
    | none => s
    | some d =>
      let d := { d with live := d.live.filter (fun x => x != r.id) }
      match fail with
      | some code => failDesc s t d code r.piece.off
      | none =>
        if d.live.isEmpty && d.pieces.isEmpty && d.list.isNone then
          finishDesc s t d (d.fail.getD (0, 0)).1 (d.fail.getD (0, 0)).2
        else putDesc s t d

/-- A read request's data arrives in scratchpad; that of a request which a tile reset has cut off is dropped (06_tiles_and_threads.md
R171). -/
def landRead (s : State) (t : Nat) (r : BReq) (data : List Byte) : State :=
  if r.desc.isNone && r.win.isNone then s
  else if rangeHitsCode s t r.task r.piece.spad r.piece.len then
    endRequest (strandSlots (intSet s (tilePg t 0) 64) t r.task r.piece.slots) t r (some 4)
  else
    let s := pokeBytes s t r.task r.piece.spad data
    let s := settleFor t r.task .produce r.piece.slots (inc64 s (blwTPg t + 0x110) r.piece.len)
    let s := match r.win with
      | some w =>
        match (windowOf s t).find? (fun e => e.id == w) with
        | some e => putEntry s t { e with filled := true, left := e.piece.slots }
        | none => s
      | none => s
    endRequest s t r none

/-- BLW_REQUEST_COMPLETE: a request whose memory side is done completes; an invalidated prefetch discards its data and is reissued. -/
def execBlwRequestComplete (tile : Fin 288) (req : Nat) (now : Nat) (s : State) : Out :=
  let s := tick s now
  let t := tile.val
  match s.blw.reqs.find? (fun r => r.id == req && r.tile == t) with
  | none => .next s
  | some r =>
    match requestReady s r with
    | none => .next s
    | some failed =>
      let data := requestData s r
      let s := setReqs (releaseOps s (.blw r.id)) (s.blw.reqs.filter (fun x => x.id != r.id))
      if r.write then .next (endRequest (inc64 s (blwTPg t + 0x118) r.piece.len) t r none)
      else
        match r.win.bind (fun w => (windowOf s t).find? (fun e => e.id == w)) with
        | some e =>
          if e.stale then .next (endRequest (tryReissue s t { e with stale := false }) t r none)
          else if failed then
            .next (endRequest (strandSlots (setWindow s t ((windowOf s t).filter (fun x => x.id != e.id))) t r.task r.piece.slots)
              t r (some 5))
          else .next (landRead s t r data)
        | none =>
          if failed then .next (endRequest (strandSlots s t r.task r.piece.slots) t r (some 5))
          else .next (landRead s t r data)

end Sys2Proof.Machine
end

