-- ==== Sys2Proof/Machine/Optimizer.lean ====
section
/-!
DEFINITION. OPT.STEP (05_update_pass_quench_temper.md R124 to R127, 07_tile_operations.md R189) and Temper (R145 to R147).
-/
namespace Sys2Proof.Machine

/-! ### Temper's accumulators (R145) -/

def layersOf (s : State) (sl : Nat) : List TemperLayer := cGet (fun _ => []) s.tmp sl

def setLayers (s : State) (sl : Nat) (l : List TemperLayer) : State := { s with tmp := cSet (fun _ => []) s.tmp sl l }

/-- A value squared in units of 2^-298; none where it is not finite. -/
def squareUnits : FpVal → Option Nat
  | .fin _ m e => some (m * m * 2 ^ (2 * e + 298).toNat)
  | _ => none

/-- The sum of squares; a value that is not finite contributes a free value. -/
def sumSquares : State → List FpVal → Nat × State
  | s, [] => (0, s)
  | s, v :: vs =>
    let r := sumSquares s vs
    match squareUnits v with
    | some n => (n + r.1, r.2)
    | none => let f := drawFree r.2; (f.1 + r.1, f.2)

/-- The layer's accumulator takes a span. -/
def addLayer (tag w2 d2 n : Nat) : List TemperLayer → List TemperLayer
  | [] => [{ tag := tag, sw2 := w2, sd2 := d2, elems := n }]
  | x :: xs =>
    if x.tag = tag then { x with sw2 := x.sw2 + w2, sd2 := x.sd2 + d2, elems := x.elems + n } :: xs
    else x :: addLayer tag w2 d2 n xs

/-! ### The microprograms (R125, R126) -/

/-- The fields of a parameter block. -/
def pbFp (b : List Byte) (o : Nat) : FpVal := fp32.decode (leNat (slice b o 4))
def pbAlg (b : List Byte) : Nat := leNat (slice b 0 1)
def pbWfmt (b : List Byte) : Nat := leNat (slice b 1 1)
def pbMasked (b : List Byte) : Bool := (leNat (slice b 2 1)).testBit 0
def pbNoWorking (b : List Byte) : Bool := (leNat (slice b 2 1)).testBit 1
def pbWexp (b : List Byte) : Int := toSigned 8 (leNat (slice b 3 1))

/-- The parameter block and the slot list hold no reserved value (R125). -/
def pbOk (b l : List Byte) : Bool :=
  (pbAlg b == 1 || pbAlg b == 2) && decide (1 ≤ pbWfmt b ∧ pbWfmt b ≤ 4) && decide (leNat (slice b 2 1) < 4) &&
    (slice b 36 28).all (fun x => x == 0) && (slice l 18 6).all (fun x => x == 0)

/-- fma, rounded once. -/
def fmaRne (a b c : FpVal) : FpVal := fp32.rnd (fpAdd (fpMul a b) c)

/-- What the microprogram computes for one element: g, m1, v1, w2. -/
structure OptVals where
  g  : FpVal
  m1 : FpVal
  v1 : FpVal
  w2 : FpVal
deriving DecidableEq, Repr

/-- rsqrt of R108 on an FP32 value. -/
def rsqrtVal (v : FpVal) : FpVal := fp32.decode (sfuEval .rsqrt (fp32.convert .rne v))

/-- R126. -/
def optElem (b : List Byte) (w m v gr : FpVal) : OptVals :=
  let g := mulRne gr (pbFp b 4)
  let w1 := fmaRne (pbFp b 32) w w
  if pbAlg b = 2 then
    let m1 := fmaRne (pbFp b 8) m (mulRne (pbFp b 12) g)
    let v1 := fmaRne (pbFp b 16) v (mulRne (pbFp b 20) (mulRne g g))
    let q := rsqrtVal (addRne v1 (pbFp b 24))
    { g := g, m1 := m1, v1 := v1, w2 := fmaRne (pbFp b 28) (mulRne m1 q) w1 }
  else
    let m1 := fmaRne (pbFp b 8) m g
    { g := g, m1 := m1, v1 := v, w2 := fmaRne (pbFp b 28) m1 w1 }

/-- The working weight's format. -/
def workFmt (b : List Byte) : FpFmt :=
  match pbWfmt b with
  | 1 => bf16
  | 2 => fp16
  | 3 => e4m3
  | _ => e5m2

/-- The master weight scaled for the working conversion. -/
def workSource (b : List Byte) (w : FpVal) : FpVal := mulRne w (.fin false 1 (pbWexp b))

/-- The working weight's code. -/
def workCode (b : List Byte) (w : FpVal) : Nat := (workFmt b).convert .rne (workSource b w)

/-- The working weight is non-finite; an E4M3 saturation of a finite value is not checked (R129). -/
def workBad (b : List Byte) (w : FpVal) : Bool :=
  (workSource b w).nonFinite || ((workFmt b).hasInf && ((workFmt b).decode (workCode b w)).nonFinite)

/-- The element is detected by UPDATE (R129). -/
def optBad (b : List Byte) (x : OptVals) : Bool :=
  x.g.nonFinite || x.m1.nonFinite || (pbAlg b == 2 && x.v1.nonFinite) || x.w2.nonFinite ||
    (!(pbNoWorking b) && workBad b x.w2)

/-! ### OPT.STEP -/

/-- The first slot of operand k of a slot list (R189). -/
def optSlot (l : List Byte) (k : Nat) : Nat := leNat (slice l (2 * k) 2)

/-- The operands that a span of n elements uses: number in the slot list, bytes. -/
def optOperands (b : List Byte) (n : Nat) : List (Nat × Nat) :=
  [(0, 4 * n), (1, 4 * n)] ++ (if pbAlg b = 2 then [(2, 4 * n)] else []) ++ [(3, 4 * n), (4, 4 * n), (5, 4 * n)] ++
    (if pbAlg b = 2 then [(6, 4 * n)] else []) ++
    (if pbNoWorking b then [] else [(7, elemBytes (pbWfmt b) n)]) ++
    (if pbMasked b then [(8, 8 * ceilDiv n 64)] else [])

/-- Operands 0 to 3 and 8 are inputs, 4 to 7 outputs. -/
def optUse (k : Nat) : Use := if 4 ≤ k ∧ k ≤ 7 then .produce else .read

/-- The slots of the operands, each with its use (R124). -/
def optUses (b l : List Byte) (n : Nat) : List (Nat × Use) :=
  ((optOperands b n).map (fun o => rangeUses (512 * optSlot l o.1) o.2 (optUse o.1))).flatten

/-- n FP32 codes of an operand. -/
def optLoad (s : State) (c : OpCtx) (e : Ecc) (l : List Byte) (k n : Nat) : List Nat :=
  unpack 0 n (loadBytes s c.t (c.task s) e (512 * optSlot l k) (4 * n))

/-- Detect UPDATE at the elements marked. -/
def detectUpdate (t base : Nat) : Nat → List Bool → State → State
  | _, [], s => s
  | i, b :: bs, s => detectUpdate t base (i + 1) bs (if b then detectTile s t 1 ((base + 4 * i) % 2 ^ 64) else s)

/-- The Temper unit of the tile's partition, where it accumulates: its slice (R145, R151). -/
def temperOf (s : State) (t : Nat) : Option Nat :=
  match partOfTile s t with
  | some p => if rdB s (tmpPg (lowSlice s p) + 0x100) 0 then some (lowSlice s p) else none
  | none => none

/-- The span's tag would open a ninth layer. -/
def ninthLayer (s : State) (t : Nat) : Bool :=
  match temperOf s t with
  | some sl => decide ((layersOf s sl).length ≥ 8) && !((layersOf s sl).any (fun x => x.tag == layerTag s t))
  | none => false

/-- Temper takes a span's unmasked elements, the old weights and the new ones. -/
def temperAdd (s : State) (t : Nat) (ws ds : List FpVal) : State :=
  match temperOf s t with
  | some sl =>
    let a := sumSquares s ws
    let d := sumSquares a.2 ds
    setLayers d.2 sl (addLayer (layerTag s t) a.1 d.1 ws.length (layersOf d.2 sl))
  | none => s

/-- The effect of OPT.STEP on a span. -/
def optRun (s : State) (c : OpCtx) (e : Ecc) (b l : List Byte) (n base : Nat) : State :=
  let k := c.task s
  let wc := optLoad s c e l 0 n
  let mc := optLoad s c e l 1 n
  let vc := if pbAlg b = 2 then optLoad s c e l 2 n else List.replicate n 0
  let gc := optLoad s c e l 3 n
  let mask := if pbMasked b then leNat (loadBytes s c.t k e (512 * optSlot l 8) (8 * ceilDiv n 64)) else 2 ^ n - 1
  let rows := (wc.zip (mc.zip (vc.zip gc))).mapIdx (fun i x =>
    let w := fp32.decode x.1
    let r := optElem b w (fp32.decode x.2.1) (fp32.decode x.2.2.1) (fp32.decode x.2.2.2)
    (mask.testBit i, x, w, r))
  let out := fun (f : OptVals → FpVal) (old : (Nat × Nat × Nat × Nat) → Nat) =>
    rows.map (fun x => if x.1 then fp32.convert .rne (f x.2.2.2) else old x.2.1)
  let put := fun (s : State) (i f : Nat) (cs : List Nat) => pokeBytes s c.t k (512 * optSlot l i) (pack f cs)
  let s := put s 4 0 (out (·.w2) (·.1))
  let s := put s 5 0 (out (·.m1) (·.2.1))
  let s := if pbAlg b = 2 then put s 6 0 (out (·.v1) (·.2.2.1)) else s
  let s := if pbNoWorking b then s
    else put s 7 (pbWfmt b) (rows.map (fun x => workCode b (if x.1 then x.2.2.2.w2 else x.2.2.1)))
  let s := detectUpdate c.t base 0 (rows.map (fun x => x.1 && optBad b x.2.2.2)) s
  let live := rows.filter (fun x => x.1)
  temperAdd s c.t (live.map (fun x => x.2.2.1)) (live.map (fun x => fpAdd x.2.2.2.w2 (fpNeg x.2.2.1)))

/-- OPT.STEP: a faulted parameter block or slot list writes nothing and is detected; the span waits for its slots in the unit, without
BLOCKED_SLOT (R124). -/
def execOptStep (i : Issue) (s : State) : Out :=
  issueOp "OPT_STEP" 1 0x38 (fun w => zero w 36 0) (fun w => [fAd w, fAa w, bitsOf w 41 37]) i s fun c s =>
    let ap := aReg s c (fAd c.w)
    let al := aReg s c (fAa c.w)
    let n := aReg s c (bitsOf c.w 41 37)
    if n = 0 ∨ n > 4096 then .fault 2
    else if badRange s c.t ap 64 || badRange s c.t al 32 then .fault 3
    else if ap % 64 ≠ 0 ∨ al % 32 ≠ 0 then .fault 5
    else
      let k := c.task s
      let e0 := spadEcc s c.t [(ap, 64), (al, 32)] c.ecc
      let b := loadBytes s c.t k e0.1 ap 64
      let l := loadBytes s c.t k e0.1 al 32
      let base := leNat (slice l 24 8)
      if pbOk b l = false then .done (detectTile (spadEccNote e0.2 c.t 4 e0.1) c.t 1 base)
      else if (optOperands b n).any (fun o => badRange s c.t (512 * optSlot l o.1) o.2) then .fault 3
      else
        let uses := optUses b l n
        match firstBlocked s c.t k uses with
        | some _ => .wait
        | none =>
          if ninthLayer s c.t then .sync .layerClose
          else
            match shadowAll s c.t k uses with
            | none => .fault 7
            | some s =>
              let rs := ((optOperands b n).filter (fun o => optUse o.1 != .produce)).map (fun o => (512 * optSlot l o.1, o.2))
              let e := spadEcc s c.t ([(ap, 64), (al, 32)] ++ rs) c.ecc
              let s := spadEccNote e.2 c.t 4 e.1
              .done (settleTags (optRun s c e.1 b l n base) c.t k uses)

/-! ### TMP.CLOSE (R146, R147) -/

/-- √(num/den) rounded to FP32. -/
def ratioCode (num den : Nat) : Nat :=
  let x := num * 2 ^ 800
  let r := natSqrt (x / den)
  let m := 2 * r + (if r * r * den = x then 0 else 1)
  fp32.convert .rne (.fin false m (-401))

/-- A threshold that is not +0 lies below the ratio. -/
def above (ratio thr : Nat) : Bool := thr != 0 && fpLt (fp32.decode thr) (fp32.decode ratio)

/-- A threshold that is not +0 lies above the ratio. -/
def below (ratio thr : Nat) : Bool := thr != 0 && fpLt (fp32.decode ratio) (fp32.decode thr)

/-- The bytes of a record before CHECK. -/
def temperRecord (step layer flags elems w2 d2 ratio : Nat) : List Byte :=
  leBytes 8 step ++ leBytes 2 layer ++ leBytes 2 flags ++ leBytes 4 (min elems 0xFFFFFFFF) ++ leBytes 4 w2 ++ leBytes 4 d2 ++
    leBytes 4 ratio

/-- A record with its CHECK. -/
def withCheck (b : List Byte) : List Byte := b ++ leBytes 4 (crc32c b).toNat

/-- The address of record i of the ring. -/
def temperAddr (s : State) (sl i : Nat) : Nat :=
  rd64 s (tmpPg sl + 0x108) + 32 * (i % 2 ^ rdF s (tmpPg sl + 0x104) 4 0)

/-- Write a record at the head, unless a PENDING record stands there (R147). -/
def putTemper (s : State) (p sl : Nat) (b : List Byte) : State :=
  let pg := tmpPg sl
  let h := rd s (pg + 0x110)
  let a := temperAddr s sl h
  if (memNat s p (a + 10) 2).testBit 0 then inc (intSet s pg 8) (pg + 0x130)
  else wr (devWrite s p a (withCheck b)) (pg + 0x110) ((h + 1) % 2 ^ rdF s (pg + 0x104) 4 0)

/-- Close a layer: the ratio, its thresholds, the record. -/
def closeLayer (s : State) (t p sl : Nat) (x : TemperLayer) : State :=
  let pg := tmpPg sl
  let zeroW := decide (x.sw2 = 0)
  let ratio := if zeroW then 0 else ratioCode x.sd2 x.sw2
  let halt := !zeroW && above ratio (rd s (pg + 0x118))
  let warn := !zeroW && above ratio (rd s (pg + 0x114))
  let low := !zeroW && below ratio (rd s (pg + 0x11C)) && x.elems != 0
  let flags := 1 + (if warn then 8 else 0) + (if halt then 16 else 0) + (if low then 32 else 0) + (if zeroW then 64 else 0)
  let fp := fun n => fp32.convert .rne (.fin false n (-298))
  let s := setLayers s sl ((layersOf s sl).filter (fun y => y.tag != x.tag))
  let s := { s with qch := { s.qch with lastTag := cSet (fun _ => 0) s.qch.lastTag sl x.tag } }
  let s := putTemper s p sl (temperRecord (rd64 s (qchPg sl + 0x110)) x.tag flags x.elems (fp x.sw2) (fp x.sd2) ratio)
  let s := if halt then detectTile (inc (intSet s pg 2) (pg + 0x128)) t 5 x.tag else s
  let s := if warn then inc (intSet s pg 1) (pg + 0x124) else s
  if low then inc (intSet s pg 4) (pg + 0x12C) else s

/-- Threads that await the close of a layer become RUNNABLE. -/
def wakeLayer (s : State) (p : Nat) : State :=
  (partTiles s p).foldl (fun s t =>
    mapThreads s t (fun _ x => if x.st = .blockedSync .layerClose then { x with st := .runnable } else x)) s

/-- TMP.CLOSE: D receives DONE, or NOT_OPEN without effect (R198; 06_tiles_and_threads.md R166, R502). -/
def execTmpClose (i : Issue) (s : State) : Out :=
  issueOp "TMP_CLOSE" 7 0x24 (fun w => specOk (fD w) && zero w 41 16) (fun _ => []) i s fun c s =>
    if (c.task s).isSome then .fault 6
    else
      let tag := bitsOf c.w 15 0
      let notOpen := OpRes.done (setXreg s c.t c.th (fD c.w) 1)
      match partOfTile s c.t, temperOf s c.t with
      | some p, some sl =>
        match (layersOf s sl).find? (fun x => x.tag == tag) with
        | some x => .done (setXreg (wakeLayer (closeLayer s c.t p sl x) p) c.t c.th (fD c.w) 0)
        | none => notOpen
      | _, _ => notOpen

end Sys2Proof.Machine
end

