-- ==== Sys2Proof/Machine/Window.lean ====
section
/-!
DEFINITION. Writes of the register window (00_scope.md R10 to R14, 19_register_map.md R472 to R477): how a write takes effect by the access
code of each field, the fields that are read-only in some states, and the commands of the page header.
-/
namespace Sys2Proof.Machine

/-! ### Which fields take a write -/

/-- The slice of a per-slice page. -/
def sliceOfPage (p : PageRef) : Nat := 2 * p.die + p.idx

/-- The physical tile of a tile page. -/
def tileOfPage (p : PageRef) : Nat :=
  match p.kind with
  | .anv => 72 * p.die + p.idx / 4
  | _ => 72 * p.die + p.idx

/-- Some partition exists. -/
def anyPartition (s : State) : Bool := (List.range 8).any (fun n => partState s n != 0)

/-- A register's config fields are read-only now; o is the register's page offset, by which a ring is known. -/
def isLocked (s : State) (p : PageRef) (o : Nat) : Lock → Bool
  | .open_ => false
  | .bltOff => rdB s (p.base + 0x100) 0
  | .bltUnarmed => rdB s (p.base + 0x100) 1
  | .disarmed => rdB s (qchPg (sliceOfPage p) + 0x100) 0
  | .noAnyPart => anyPartition s
  | .noPart => (partOfSlice s (sliceOfPage p)).isSome
  | .noTask => (List.range 4).any (fun k => (taskOf s (tileOfPage p) k).isSome)
  | .notRunning => tileRunning s (tileOfPage p)
  | .ringOff => rdB s (p.base + 0x100 + 0x40 * ((o - 0x100) / 0x40)) 0
  | .seqOff => rdB s (p.base + 0x100) 0
  | .spkOff => rdB s (p.base + 0x100) 0
  | .sthOff => rdB s (p.base + 0x100) 0
  | .tmpOff => rdB s (p.base + 0x100) 0

/-- A lock whose refusal is recorded as a denial (11_tiers_and_pool.md R299). -/
def Lock.denies : Lock → Bool
  | .noAnyPart => true
  | _ => false

/-- The register is live on this page: 'low' and 'seq' registers only outside a partition or on its lowest slice, 'feOnly' ones on FE's
page. -/
def placeOk (s : State) (p : PageRef) : Place → Bool
  | .every => true
  | .feOnly => p.idx % 4 == 0
  | .low | .seq =>
    match partOfSlice s (sliceOfPage p) with
    | some n => lowSlice s n == sliceOfPage p
    | none => true

/-- Fields of REG_WRITE's registers that have a row of their own, by page type and offset: their bits. -/
def ownRowMask (k : PageKind) (o : Nat) : Nat :=
  match k with
  | .qchP => if o = 0x100 then 1 else if o = 0x128 then 0xFFFFFFFF else 0
  | .lnk => if o = 0x100 then 1 else 0
  | .anv => if o = 0x180 then 0xFFFFFFFF else 0
  | .ring => if (o - 0x100) % 0x40 = 0 ∧ 0x100 ≤ o ∧ o < 0x200 then 1 else 0
  | _ => 0

/-- A write's value for a field is one that the field accepts (R10, and the register tables). -/
def legalValue (f : FieldDef) (v : Nat) : Bool :=
  match f.legal with
  | none => true
  | some (a, b) => decide (a ≤ v ∧ v ≤ b)

/-- The value of a word's field after a write by who. -/
def writeField (locked : Bool) (who : Requester) (old v : Nat) (f : FieldDef) (acc : Nat) : Nat :=
  let x := bitsOf v f.hi f.lo
  let take := putBits acc f.hi f.lo x
  match f.acc with
  | .rw => if locked || !(legalValue f x) then acc else take
  | .rws => if who = .sp && !locked && legalValue f x then take else putBits acc f.hi f.lo (bitsOf old f.hi f.lo)
  | _ => acc

/-- A word after a write, field by field. -/
def writeWord (locked : Bool) (who : Requester) (old v : Nat) (fs : List FieldDef) : Nat :=
  fs.foldl (fun acc f => writeField locked who old v f acc) old

/-- A write from a requester other than SP that the RWS fields refuse and record: one that carries another value than the present one for some
RWS field; a write whose RWS bits equal the fields records nothing (R14; DEDUCED for a register of RWS fields alone, log entry 96). -/
def rwsDenied (who : Requester) (old v : Nat) (fs : List FieldDef) : Bool :=
  who != .sp && fs.any (fun f => f.acc == .rws && bitsOf old f.hi f.lo != bitsOf v f.hi f.lo)

/-- The same of a register whose bits in a mask are RWS. -/
def maskDenied (who : Requester) (old v mask : Nat) : Bool := who != .sp && (old &&& mask) != (v &&& mask)

/-- Registers whose values are accepted only together: the value that a write leaves, from the old one and the one that the fields
took (the chapters' tables). -/
def customWord (s : State) (p : PageRef) (o old new : Nat) : Nat :=
  match p.kind with
  | .hrt =>
    if o = 0x114 then
      let a := bitsOf new 5 4
      let b := bitsOf new 3 2
      let c := bitsOf new 1 0
      if a ≠ b ∧ b ≠ c ∧ a ≠ c ∧ a < 3 ∧ b < 3 ∧ c < 3 then new else old
    else if o = 0x148 then
      if bitsOf new 7 0 < bitsOf new 15 8 ∧ bitsOf new 15 8 < bitsOf new 23 16 ∧ bitsOf new 23 16 ≤ 105 then new else old
    else new
  | .rt => if o = 0x10C then (if bitsOf new 15 0 < 2 * rdF s (p.base + 0x108) 15 0 then old else new) else new
  | .qchP =>
    let sg := fun n => toSigned 8 n
    if o = 0x104 then (if sg (bitsOf new 7 0) > sg (bitsOf new 15 8) then putBits new 7 0 (bitsOf old 7 0) else new)
    else if o = 0x10C then
      let c := rd s (p.base + 0x104)
      if sg (bitsOf new 7 0) < sg (bitsOf c 7 0) ∨ sg (bitsOf new 7 0) > sg (bitsOf c 15 8) then old else new
    else new
  | .hbm =>
    if o = 0x110 then (if bitsOf new 7 0 < 80 ∨ bitsOf new 7 0 ≥ bitsOf new 15 8 then putBits new 7 0 (bitsOf old 7 0) else new)
    else new
  | _ => new

/-- A custom split that is no split: a share of 0 or 15, or shares that do not sum to 16 (09_bellows.md R248). -/
def badSplit (v : Nat) : Bool :=
  v.testBit 16 &&
    ([bitsOf v 11 8, bitsOf v 7 4, bitsOf v 3 0].any (fun x => x == 0 || x == 15) ||
      bitsOf v 11 8 + bitsOf v 7 4 + bitsOf v 3 0 != 16)

/-! ### Registers behind a select register -/

/-- The key of the sub-array that SPAD_REPAIR_SEL names. -/
def repairKey (s : State) (t : Nat) : Nat :=
  1024 * t + 32 * rdF s (tilePg t 5 + 0x128) 4 0 + rdF s (tilePg t 5 + 0x128) 12 8

/-- What the entry of an array behind its select register holds, and the mask of its bits. -/
def selectedNow (s : State) (p : PageRef) (o : Nat) : Nat × Nat :=
  let get := fun (m : Cells W32) (k : Nat) => (cGet (fun _ => 0) m k).toNat
  match p.kind with
  | .spad => (get s.win.repair (repairKey s (tileOfPage p)), 0x01FF01FF)
  | .rt => (get s.win.rtData (4096 * p.die + rdF s (p.base + 0x110) 11 0), 0x8001FFFF)
  | _ =>
    let k := rdF s (partPg + 0x200) 5 0
    if o = 0x204 then (get s.win.clim k, 0xFFFFC00F) else (get s.win.climStart k, 0xFFFFFFFF)

/-- Write an array behind its select register, if the offset is one: SPAD_REPAIR, LNK_RT_DATA, SP_CLIM, SP_CLIM_START. -/
def writeSelected (s : State) (p : PageRef) (o v : Nat) : Option State :=
  let put := fun (m : Cells W32) (k : Nat) (mask : Nat) => cSet (fun _ => 0) m k (BitVec.ofNat 32 (v &&& mask))
  match p.kind with
  | .spad => if o = 0x12C then
      some { s with win := { s.win with repair := put s.win.repair (repairKey s (tileOfPage p)) 0x01FF01FF } } else none
  | .rt => if o = 0x114 then
      some { s with win := { s.win with rtData := put s.win.rtData (4096 * p.die + rdF s (p.base + 0x110) 11 0) 0x8001FFFF } }
    else none
  | .spPart =>
    let k := rdF s (partPg + 0x200) 5 0
    if o = 0x204 then some { s with win := { s.win with clim := put s.win.clim k 0xFFFFC00F } }
    else if o = 0x208 then
      -- SP clears the count of accepted CREATEs as it sets the limit (DEDUCED, log entry 30)
      some { s with win := { s.win with climStart := put s.win.climStart k 0xFFFFFFFF,
                                        climStarted := cSet (fun _ => 0) s.win.climStarted k 0 } }
    else none
  | _ => none

/-! ### A write -/

/-- A write to a one-word register at page offset o. -/
def writeWordReg (s : State) (p : PageRef) (r : RegDef) (o : Nat) (v : Nat) (who : Requester) : State :=
  let off := p.base + o
  let old := rd s off
  let locked := isLocked s p o r.lock
  let deny := rwsDenied who old v r.fields
  let s := if deny then denyWrite s p.base off 1 who else s
  if deny = false ∧ who = .sp ∧ locked ∧ r.lock.denies then denyWrite s p.base off 2 who
  else if p.kind = .blwS ∧ o = 0x100 ∧ who = .sp ∧ locked = false ∧ badSplit v then denyWrite s p.base off 2 who
  else
    let fs := r.fields.filter (fun f => bitsOf (ownRowMask p.kind o) f.hi f.lo == 0)
    let new := customWord s p o old (writeWord locked who old v fs)
    wr s off new

/-- The pair's low word that is held until its high word is written (R12). -/
def heldLow (s : State) (off : Nat) : Nat :=
  match s.win.loHold.find? (fun c => c.1 == off) with
  | some c => c.2.toNat
  | none => rd s off

/-- A write to half of a 64-bit pair (R12): the low word is held; the high word takes effect with it. -/
def writePairReg (s : State) (p : PageRef) (r : RegDef) (o : Nat) (half : RegHalf) (v : Nat) (who : Requester) : State :=
  let off := p.base + o
  match r.fields with
  | f :: _ =>
    if f.acc = .ro then s
    else if f.acc = .rws ∧ who ≠ .sp then (if maskDenied who (rd s off) v 0xFFFFFFFF then denyWrite s p.base off 1 who else s)
    else if half = .low then
      { s with win := { s.win with loHold := cIns (cDel s.win.loHold off) off (BitVec.ofNat 32 v) } }
    else
      let lo := off - 4
      let low := heldLow s lo
      let s := { s with win := { s.win with loHold := cDel s.win.loHold lo } }
      if isLocked s p o r.lock then (if r.lock.denies ∧ who = .sp then denyWrite s p.base off 2 who else s)
      else wr64 s lo (low + 2 ^ 32 * v)
  | [] => s

/-- A write of a header register by REG_WRITE: BLK_INT_EN, BLK_SPARE_MAP (R472). BLK_CTL, BLK_INT_STAT and BLK_FAULT_INJ have rows of their
own. -/
def writeHeader (s : State) (p : PageRef) (o v : Nat) (who : Requester) : State :=
  let off := p.base + o
  if o = hIntEn then withIntEdge p.base s (wr s off (v &&& p.kind.intMask))
  else if o = hSpare then
    if p.kind.spare.1 = 0 then s
    else if who ≠ .sp then (if maskDenied who (rd s off) v p.kind.spare.1 then denyWrite s p.base off 1 who else s)
    else if p.kind = .anv then
      -- each of the four fields keeps its value where the written one is reserved (03_anvil_arrays.md R94)
      wr s off ((List.range 4).foldl (fun acc i =>
        if bitsOf v (8 * i + 5) (8 * i) ≤ 32 then putBits acc (8 * i + 5) (8 * i) (bitsOf v (8 * i + 5) (8 * i)) else acc) (rd s off))
    else wr s off (v &&& p.kind.spare.1)
  else s

/-- A write of the window by a requester. -/
def writeReg (s : State) (off v : Nat) (who : Requester) : State :=
  match pageAt off with
  | none => s
  | some p =>
    let o := off % 4096
    if o < 0x100 then writeHeader s p o v who
    else
      match findReg p.kind.regs o with
      | none => s
      | some (r, _, half) =>
        if placeOk s p r.place = false then s
        else
          match writeSelected s p o v with
          | some s' =>
            if who = .sp then s'
            else if maskDenied who (selectedNow s p o).1 v (selectedNow s p o).2 then denyWrite s p.base off 1 who else s
          | none =>
            match r.shape with
            | .word => writeWordReg s p r o v who
            | .pair => if p.kind = .qchP ∧ o = 0x124 then s
                       else if p.kind = .spad ∧ o = 0x124 then s
                       else writePairReg s p r o half v who
            | _ => s

/-- MALFORMED_ACCESS: no effect, a read returns 0, the page latches a class 0x03 event: width before alignment (R11, R474). -/
def execMalformedAccess (who : Requester) (off : WinOff) (width : Nat) (write : Bool) (now : Nat) (s : State) : Out :=
  let s := tick s now
  let reason := if width ≠ 4 then 1 else 2
  if width = 4 ∧ off.toNat % 4 = 0 then .refused (.otherRow "MALFORMED_ACCESS")
  else
    let s := if write then s else { s with win := { s.win with lastRead := 0 } }
    match pageAt off.toNat with
    | some p => .next (latchErr s p.base 3 (reason * 256 + Requester.code who) off.toNat)
    | none => .next s

/-- INT_STAT_W1C: 1 clears a bit; a bit that hardware sets in the same cycle stays set (R13). -/
def execIntStatW1c (r : RegWrite) (coincident : W32) (s : State) : Out :=
  let s := tick s r.now
  match pageAt r.off.toNat with
  | some p =>
    if r.off.toNat % 4096 ≠ hIntStat then .refused (.otherRow "INT_STAT_W1C")
    else
      let m := p.kind.intMask
      let v := rd s (p.base + hIntStat)
      let kept := v - (v &&& (r.val.toNat &&& m))
      .next (withIntEdge p.base s (wr s (p.base + hIntStat) (kept ||| (coincident.toNat &&& m))))
  | none => .refused (.otherRow "INT_STAT_W1C")

/-- ERR_CLR: the error registers are cleared; an event in the same cycle is latched afterwards (R475). -/
def execErrClr (r : RegWrite) (coincident : Option (W32 × W64)) (s : State) : Out :=
  let s := tick s r.now
  match pageAt r.off.toNat with
  | some p =>
    if r.off.toNat % 4096 ≠ hCtl ∨ r.val.toNat.testBit 0 = false then .refused (.otherRow "ERR_CLR")
    else
      let s := wr (wr64 (wr s (p.base + hErrSyn) 0) (p.base + hErrLo) 0) (p.base + hStat) 0
      match coincident with
      | some (syn, addr) => .next (latchErr s p.base (syn.toNat / 2 ^ 24) (syn.toNat % 2 ^ 24) addr.toNat)
      | none => .next s
  | none => .refused (.otherRow "ERR_CLR")

/-! ### CNT_CLR -/

/-- The CNT_CLR bit of a page type's control register: its offset, or none; the ring page has one for each ring. -/
def cntClrBit (k : PageKind) (o : Nat) : Option Nat :=
  let at100 := fun b => if o = 0x100 then some b else none
  match k with
  | .spCal => at100 1
  | .hrt | .ftl0 | .anv | .spad | .blwT | .srt | .qchT | .tngT | .hbm | .tier | .tngS | .uci | .noc | .hrtD => at100 0
  | .ftm | .tile0 => at100 3
  | .spk | .tmp => at100 1
  | .sth | .qchP | .seq | .lnk => at100 2
  | .blwS => if o = 0x108 then some 0 else none
  | .ring => if (o - 0x100) % 0x40 = 0 ∧ 0x100 ≤ o ∧ o < 0x200 then some 2 else none
  | .blt => at100 7
  | _ => none

/-- The counters that a CNT_CLR at page offset o clears. -/
def cntClrRegs (k : PageKind) (o : Nat) : List RegDef :=
  match k with
  | .ring => (ringRegs.filter (fun r => r.shape == .cnt)).map (fun r => { r with off := r.off + (o - 0x100), count := 1 })
  | k => k.regs

/-- Add increments that fall in the cycle of the clear (R477): by window offset. -/
def addIncrements : List (Nat × Nat) → State → State
  | [], s => s
  | (o, n) :: l, s => addIncrements l (incBy s o n)

/-- CNT_CLR: a page's counters are cleared; increments of the same cycle are counted afterwards (R477). -/
def execCntClr (r : RegWrite) (coincident : List (Nat × Nat)) (s : State) : Out :=
  let s := tick s r.now
  match pageAt r.off.toNat with
  | some p =>
    let o := r.off.toNat % 4096
    match cntClrBit p.kind o with
    | some b =>
      if r.val.toNat.testBit b = false then .refused (.otherRow "CNT_CLR")
      else
        let place := match findReg p.kind.regs o with
          | some (g, _, _) => g.place
          | none => .every
        if placeOk s p place = false then .next s
        else
          let s := clearCounters p.base (cntClrRegs p.kind o) s
          let s := if p.kind = .blwS then wr s (p.base + 0x134) 0 else s
          .next (addIncrements (coincident.filter (fun c => c.1 / 4096 == p.base / 4096)) s)
    | none => .refused (.otherRow "CNT_CLR")
  | none => .refused (.otherRow "CNT_CLR")

/-- ANV_COAL_CFG_WRITE: EN, FILL and THRESH of a tile's coalescer; a code outside 1 to 512 leaves its field. Open groups keep the
settings they opened under; passes that waited behind a held pass are looked at again (03_anvil_arrays.md R89, R95). -/
def execAnvCoalCfgWrite (r : RegWrite) (s : State) : Out :=
  let s := tick s r.now
  match pageAt r.off.toNat with
  | some p =>
    if p.kind ≠ .anv ∨ r.off.toNat % 4096 ≠ 0x180 then .refused (.otherRow "ANV_COAL_CFG_WRITE")
    else if p.idx % 4 ≠ 0 then .next s
    else
      match findReg p.kind.regs 0x180 with
      | some (d, _, _) =>
        let off := r.off.toNat
        .next (settleBehind (wr s off (writeWord false r.who (rd s off) r.val.toNat d.fields)) (tileOfPage p))
      | none => .next s
  | none => .refused (.otherRow "ANV_COAL_CFG_WRITE")

end Sys2Proof.Machine
end

