-- ==== Sys2Proof/Machine/Quench.lean ====
section
/-!
DEFINITION. Quench (05_update_pass_quench_temper.md R129 to R142, R148 to R150): arming, the update task, the vote with its records,
decisions and messages, and isolation. The outcome is applied in Outcome.lean.
-/
namespace Sys2Proof.Machine

/-! ### The partition page -/

/-- The slice whose QCH_ page an offset names, when the page is live: its partition's lowest slice, or a slice of no partition. -/
def quenchSlice (s : State) (off o : Nat) : Option Nat :=
  match pageAt off with
  | some p => if p.kind = .qchP ∧ off % 4096 = o ∧ placeOk s p .low then some (sliceOfPage p) else none
  | none => none

/-- The offset names that register of a QCH_ page. -/
def isQuench (off o : Nat) : Bool :=
  match pageAt off with
  | some p => p.kind == .qchP && off % 4096 == o
  | none => false

def armed (s : State) (sl : Nat) : Bool := rdB s (qchPg sl + 0x100) 0
def isolated (s : State) (sl : Nat) : Bool := rdB s (qchPg sl + 0x108) 8
def qchStep (s : State) (sl : Nat) : Nat := rd64 s (qchPg sl + 0x110)
def voteWindow (s : State) (sl : Nat) : Nat := rd s (qchPg sl + 0x118)
def voteArea (s : State) (sl : Nat) : Nat := rd64 s (qchPg sl + 0x130)
def selfIdx (s : State) (sl : Nat) : Nat := rdF s (qchPg sl + 0x11C) 11 0

/-- QCH_STAT.TASK. -/
def taskState (s : State) (sl : Nat) : Nat := rdF s (qchPg sl + 0x108) 7 6
def setTaskState (s : State) (sl n : Nat) : State := wrF s (qchPg sl + 0x108) 7 6 n

/-! ### Messages of the unit (R139, R140) -/

def membersOf (s : State) (sl : Nat) : List W32 := cGet (fun _ => []) s.qch.members sl

/-- The module's own id and job tag in a partition (R300, R301). -/
def selfMod (s : State) (p : Nat) : W32 := rdW s (tngPg (lowSlice s p) + 0x10C)

/-- A message of the unit to a member's vote area; its TILE and TAG fields are open. -/
def postTo (s : State) (p idx : Nat) (opc : ReqOpc) (addr word : Nat) : State :=
  let f := drawFree s
  let s := f.2
  let m : ReqPkt :=
    { opc := opc, target := nth 0 (membersOf s (lowSlice s p)) idx, source := selfMod s p,
      job := BitVec.ofNat 32 (partJob s p), addr := BitVec.ofNat 64 addr, tile := BitVec.ofNat 8 f.1,
      tag := BitVec.ofNat 7 (f.1 / 256), etype := 3, len := 8, data := leBytes 8 word, step := none, inj := s.time / 256 % 2 ^ 24 }
  { s with qch := { s.qch with posted := s.qch.posted ++ [m] } }

/-- A message that the module has posted to itself has arrived. -/
def takeOwn (s : State) (p addr : Nat) : State :=
  let l := s.qch.posted.filter (fun m => !(m.target == selfMod s p && m.job.toNat == partJob s p && m.addr.toNat == addr))
  { s with qch := { s.qch with posted := l } }

/-! ### Vote records (R137, R138) -/

/-- FINITE of a GROUP or ROOT word, and its PENDING bits. -/
def finiteBit : Nat := 2 ^ 63
def pendingOf (w : Nat) : Nat := w % 2 ^ 63

def voteRec (s : State) (sl r : Nat) : VoteRec := cGet (fun _ => {}) s.qch.recs (4 * sl + r)

def setVoteRec (s : State) (sl r : Nat) (x : VoteRec) : State :=
  { s with qch := { s.qch with recs := cSet (fun _ => {}) s.qch.recs (4 * sl + r) x } }

/-- The address of a record. -/
def recordAt (s : State) (sl r : Nat) : Nat := voteArea s sl + 1024 * r

/-- The number of groups, and of members of a group (R136). -/
def groupCount (s : State) (sl : Nat) : Nat := ceilDiv (membersOf s sl).length 63
def groupSize (s : State) (sl g : Nat) : Nat := min 63 ((membersOf s sl).length - 63 * g)

/-- Initialise the record of a step (R138). -/
def initRecord (s : State) (p sl n : Nat) : State :=
  let g := selfIdx s sl / 63
  let b := leBytes 8 n ++ leBytes 8 (finiteBit + (2 ^ groupSize s sl g - 1)) ++ leBytes 8 (finiteBit + (2 ^ groupCount s sl - 1)) ++
    leBytes 24 0 ++ leBytes 4 1 ++ List.replicate 972 0
  setVoteRec (devWrite s p (recordAt s sl (n % 4)) b) sl (n % 4) {}

/-! ### Arming (R132, R136) -/

/-- The entries of the shadow table as they stand in memory: PAGE and SHADOW addresses. -/
def readShadows (s : State) (p sl : Nat) : List (Nat × Nat) :=
  (List.range (rdF s (qchPg sl + 0x140) 15 0)).map (fun i =>
    (memNat s p (rd64 s (qchPg sl + 0x138) + 16 * i) 8, memNat s p (rd64 s (qchPg sl + 0x138) + 16 * i + 8) 8))

/-- PAGE rises strictly. -/
def risingPages : List (Nat × Nat) → Bool
  | [] => true
  | [_] => true
  | a :: b :: l => decide (a.1 < b.1) && risingPages (b :: l)

/-- A page that may stand in the table: aligned, in the range, in HBM. -/
def shadowPageOk (s : State) (p a : Nat) : Bool := a % pageBytes == 0 && inPart s p a 1 && tierAt s p a == 0

/-- The table keeps the rules of R132. -/
def shadowsOk (s : State) (p : Nat) (l : List (Nat × Nat)) : Bool :=
  risingPages l && l.all (fun e => shadowPageOk s p e.1 && shadowPageOk s p e.2) &&
    decide ((l.map (·.1) ++ l.map (·.2)).eraseDups.length = 2 * l.length)

/-- Every check of R136. -/
def armOk (s : State) (p sl : Nat) : Bool :=
  let pg := qchPg sl
  let n := rdF s (pg + 0x128) 11 0
  let a := rd64 s (pg + 0x120)
  decide (1 ≤ n ∧ n ≤ 3969) && decide (selfIdx s sl < n) && inPart s p a (4 * n) && inPart s p (voteArea s sl) 4096 &&
    voteArea s sl % 4096 == 0 && decide (crc32c (memBytes s p a (4 * n)) = rdW s (pg + 0x12C)) &&
    (rdF s (pg + 0x140) 15 0 == 0 || inPart s p (rd64 s (pg + 0x138)) (16 * rdF s (pg + 0x140) 15 0)) &&
    shadowsOk s p (readShadows s p sl)

/-- Load both tables and initialise the records of two steps. -/
def armUnit (s : State) (p sl : Nat) : State :=
  let pg := qchPg sl
  let sh := (readShadows s p sl).map (fun e => ({ page := e.1 / pageBytes, shadow := e.2 / pageBytes, count := 0 } : ShadowEntry))
  let mem := (List.range (rdF s (pg + 0x128) 11 0)).map (fun i => BitVec.ofNat 32 (memNat s p (rd64 s (pg + 0x120) + 4 * i) 4))
  let s := { s with qch := { s.qch with members := cSet (fun _ => []) s.qch.members sl mem } }
  let s := wrB (setShadowTable s p sh) (pg + 0x100) 0 true
  let n := qchStep s sl
  initRecord (initRecord s p sl n) p sl (n + 1)

/-- ARM goes to 0: the tables are unloaded. -/
def disarm (s : State) (sl : Nat) : State :=
  let s := wrB s (qchPg sl + 0x100) 0 false
  { s with qch := { s.qch with members := cSet (fun _ => []) s.qch.members sl [], shadows := cSet (fun _ => []) s.qch.shadows sl [],
                               recs := cDrop s.qch.recs (fun k => k / 4 == sl) } }

/-- QCH_ARM: the ARM bit of a QCH_CTL write (R132, R136, R138, R150). -/
def execQchArm (r : RegWrite) (s : State) : Out :=
  let s := tick s r.now
  if isQuench r.off.toNat 0x100 = false then .refused (.otherRow "QCH_ARM")
  else
    match quenchSlice s r.off.toNat 0x100 with
    | none => .next s
    | some sl =>
      if r.val.toNat.testBit 0 then
        if armed s sl then .next s
        else
          match partOfSlice s sl with
          | some p => if armOk s p sl then .next (armUnit s p sl) else .next (intSet s (qchPg sl) 64)
          | none => .next (intSet s (qchPg sl) 64)
      else if taskState s sl ≠ 0 then .next s
      else .next (if armed s sl then disarm s sl else s)

/-- ISO_CLR: bit 3 of a QCH_CTL write. -/
def execIsoClr (r : RegWrite) (s : State) : Out :=
  let s := tick s r.now
  if isQuench r.off.toNat 0x100 = false ∨ r.val.toNat.testBit 3 = false then .refused (.otherRow "ISO_CLR")
  else
    match quenchSlice s r.off.toNat 0x100 with
    | some sl => .next (wrB s (qchPg sl + 0x108) 8 false)
    | none => .next s

/-- QCH_MEMBER_CNT_WRITE: a write of QCH_MEMBER_CNT or QCH_MEMBERS_HI while ARM is 0; QCH_MEMBER_CRC reads 0 until it is computed. -/
def execQchMemberCntWrite (r : RegWrite) (s : State) : Out :=
  let s := tick s r.now
  let off := r.off.toNat
  let due := fun (s : State) (sl : Nat) =>
    let s := wr s (qchPg sl + 0x12C) 0
    { s with qch := { s.qch with crcDue := cSet (fun _ => false) s.qch.crcDue sl true } }
  if isQuench off 0x128 then
    match quenchSlice s off 0x128 with
    | some sl => .next (if armed s sl then s else due (wr s off (r.val.toNat % 4096)) sl)
    | none => .next s
  else if isQuench off 0x124 then
    match quenchSlice s off 0x124 with
    | some sl =>
      let low := heldLow s (off - 4)
      let s := { s with win := { s.win with loHold := cDel s.win.loHold (off - 4) } }
      .next (if armed s sl then s else due (wr64 s (off - 4) (low + 2 ^ 32 * r.val.toNat)) sl)
    | none => .next s
  else .refused (.otherRow "QCH_MEMBER_CNT_WRITE")

/-- MEMBER_CRC_DONE: the computation that a write made due completes (R150). -/
def execMemberCrcDone (slice : Fin 8) (ecc : Ecc) (now : Nat) (s : State) : Out :=
  let s := tick s now
  let sl := slice.val
  if cGet (fun _ => false) s.qch.crcDue sl = false then .next s
  else
    let s := { s with qch := { s.qch with crcDue := cSet (fun _ => false) s.qch.crcDue sl false } }
    let n := rdF s (qchPg sl + 0x128) 11 0
    let a := rd64 s (qchPg sl + 0x120)
    match partOfSlice s sl with
    | some p =>
      let u := unitRead s p a (4 * n) ecc
      let s := u.2
      if decide (1 ≤ n ∧ n ≤ 3969) && inPart s p a (4 * n) && !u.1 then
        .next (wrW s (qchPg sl + 0x12C) (crc32c (memBytes s p a (4 * n))))
      else .next s
    | none => .next s

/-! ### Detections by software, the layer tag -/

/-- A SOFT detection at a slice's unit. -/
def raiseSoft (s : State) (sl : Nat) : State :=
  match partOfSlice s sl with
  | some p => detectPart s p 7 0
  | none =>
    applyDetection (intSet s (qchPg sl) 1) (qchPg sl)
      { cause := 7, phys := none, tile := 0xFFFF, layer := cGet (fun _ => 0) s.qch.lastTag sl, index := 0, stamp := asStamp s.time }
      (qchStep s sl)

/-- QCH_CTL_RAISE: bit 1 of a QCH_CTL write (R129). -/
def execQchCtlRaise (r : RegWrite) (s : State) : Out :=
  let s := tick s r.now
  if isQuench r.off.toNat 0x100 = false ∨ r.val.toNat.testBit 1 = false then .refused (.otherRow "QCH_CTL_RAISE")
  else
    match quenchSlice s r.off.toNat 0x100 with
    | some sl => .next (raiseSoft s sl)
    | none => .next s

/-- QCH_RAISE: the sticky flag with cause SOFT; no effect on a tile of no partition (R502). -/
def execQchRaise (i : Issue) (s : State) : Out :=
  issueOp "QCH_RAISE" 7 0x22 (fun w => zero w 47 0) (fun _ => []) i s fun c s =>
    match partOfTile s c.t with
    | some p => .done (detectPart s p 7 0)
    | none => .done s

/-- QCH_LAYER: the tile's layer tag (R131). -/
def execQchLayer (i : Issue) (s : State) : Out :=
  issueOp "QCH_LAYER" 7 0x23 (fun w => zero w 47 16) (fun _ => []) i s fun c s =>
    .done (wrF s (qchTilePg c.t + 0x104) 15 0 (bitsOf c.w 15 0))

/-! ### The update task (R133, R134, R139) -/

/-- The task ends with its counts cleared and its live copies as they are (R135). -/
def discardPages (s : State) (p sl : Nat) : State :=
  setTaskState (setShadowTable s p ((shadowTable s p).map (fun e => { e with count := 0 }))) sl 0

/-- QCH_OPEN: the update task opens, or ORDER (R133, R198, R502). -/
def execQchOpen (i : Issue) (s : State) : Out :=
  issueOp "QCH_OPEN" 7 0x20 (fun w => specOk (fD w) && zero w 41 0) (fun _ => []) i s fun c s =>
    if (c.task s).isSome then .fault 6
    else
      match partOfTile s c.t with
      | none => .done (setXreg s c.t c.th (fD c.w) 3)
      | some p =>
        let sl := lowSlice s p
        if taskState s sl ≠ 0 ∨ armed s sl = false then .done (setXreg s c.t c.th (fD c.w) 3)
        else .done (setXreg (setTaskState (discardPages s p sl) sl 1) c.t c.th (fD c.w) 0)

/-- SHADOW_CHECK: every written page has all its 65,536 sectors, or the sticky flag is set with cause SHADOW (R134). -/
def shadowCheck (s : State) (p : Nat) : State :=
  ((shadowTable s p).filter (fun e => e.count != 0 && e.count != 65536)).foldl
    (fun s e => detectPart s p 4 (e.page * pageBytes)) s

/-- The operand of a fetch-and that clears PENDING bit b, and FINITE too unless finite (R139). -/
def voteOperand (b : Nat) (finite : Bool) : Nat := 2 ^ 64 - 1 - 2 ^ b - (if finite then 0 else finiteBit)

/-- Cast the vote to the leader's GROUP word. -/
def castVote (s : State) (p sl : Nat) : State :=
  let i := selfIdx s sl
  let finite := !(rdB s (qchPg sl + 0x108) 0)
  let s := setTaskState s sl 2
  let s := { s with qch := { s.qch with castAt := cSet (fun _ => none) s.qch.castAt sl (some s.time) } }
  postTo s p (63 * (i / 63)) .fand (recordAt s sl (qchStep s sl % 4) + 8) (voteOperand (i % 63) finite)

/-- QCH_VOTE: the shadow check, then the vote; the thread blocks until the outcome is applied. ISOLATED discards the task and returns at once;
ORDER while no task is open or the vote is cast (R139, R198, R502). -/
def execQchVote (i : Issue) (s : State) : Out :=
  issueOp "QCH_VOTE" 7 0x21 (fun w => specOk (fD w) && zero w 41 0) (fun _ => []) i s fun c s =>
    let d := fD c.w
    if (c.task s).isSome then .fault 6
    else
      match partOfTile s c.t with
      | none => .done (setXreg s c.t c.th d 3)
      | some p =>
        let sl := lowSlice s p
        if isolated s sl then .done (setXreg (discardPages s p sl) c.t c.th d 2)
        else if taskState s sl ≠ 1 then .done (setXreg s c.t c.th d 3)
        else
          let s := castVote (shadowCheck s p) p sl
          let s := addPend s c.t c.th d markVote
          .done (setThr s c.t c.th { thrOf s c.t c.th with st := .blockedSync (.vote d), since := s.time })

/-- Return a code to the thread that awaits the outcome. -/
def wakeVote (s : State) (p : Nat) (code : W64) : State :=
  let ws := s.tl.thr.filterMap (fun c =>
    match c.2.st with
    | .blockedSync (.vote d) => if partOfTile s (c.1 / 64) = some p then some (c.1 / 64, c.1 % 64, c.2.gen, d) else none
    | _ => none)
  ws.foldl (fun s w =>
    let s := lateWrite s w.1 w.2.1 w.2.2.1 w.2.2.2 markVote code
    setThr s w.1 w.2.1 { thrOf s w.1 w.2.1 with st := .runnable }) s

/-! ### Deciding (R138, R140, R141) -/

/-- A vote or result that is not applied (R138). -/
def lateVote (s : State) (sl : Nat) : State := inc (intSet s (qchPg sl) 16) (qchPg sl + 0x194)

/-- A bit that is already clear. -/
def dupVote (s : State) (sl : Nat) : State := inc s (qchPg sl + 0x198)

/-- LEADER_DECIDE: the group's word to FINAL_g at the root, and its result to ROOT; members still pending are counted missing. -/
def leaderDecide (s : State) (p sl r : Nat) : State :=
  let a := recordAt s sl r
  let g := selfIdx s sl / 63
  let w := memNat s p (a + 8) 8
  let s := setVoteRec s sl r { voteRec s sl r with gdone := true }
  let s := incBy s (qchPg sl + 0x190) (popCount 63 w)
  let s := postTo s p 0 .put (a + 0x40 + 8 * g) w
  postTo s p 0 .fand (a + 0x10) (voteOperand g (w.testBit 63))

/-- The outcome word (R141). -/
def outcomeWord (step root : Nat) (finals : List Nat) : Nat :=
  let mg := popCount 63 root
  let mm := sumNat (((List.range finals.length).filter (fun g => !(root.testBit g))).map (fun g => popCount 63 (nth 0 finals g)))
  let nonf := !(root.testBit 63)
  let missing := decide (mm ≠ 0 ∨ mg ≠ 0)
  step % 2 ^ 32 * 2 ^ 32 + mm % 65536 * 65536 + mg % 256 * 256 + (if missing then 4 else 0) + (if nonf then 2 else 0) +
    (if missing || nonf then 0 else 1)

/-- The members to whom the root sends the outcome: every leader, and every member of a group whose result did not arrive. -/
def outcomeTargets (s : State) (sl root : Nat) : List Nat :=
  ((List.range (groupCount s sl)).map (fun g =>
    if root.testBit g then rangeFrom (63 * g) (groupSize s sl g) else [63 * g])).flatten

/-- ROOT_DECIDE. -/
def rootDecide (s : State) (p sl r : Nat) : State :=
  let a := recordAt s sl r
  let root := memNat s p (a + 0x10) 8
  let finals := (List.range (groupCount s sl)).map (fun g => memNat s p (a + 0x40 + 8 * g) 8)
  let w := outcomeWord (memNat s p a 8) root finals
  let s := setVoteRec s sl r { voteRec s sl r with rdone := true }
  let s := devWrite (devWrite64 s p (a + 0x18) w) p (a + 0x30) (leBytes 4 2)
  (outcomeTargets s sl root).foldl (fun s i => postTo s p i .notify (a + 0x18) w) s

/-- GROUP_VOTE: a fetch-and reaches the GROUP word of a record (R137, R138, R140). -/
def groupVote (s : State) (p sl r operand : Nat) : State :=
  let a := recordAt s sl r
  let x := voteRec s sl r
  let s := takeOwn s p (a + 8)
  let old := memNat s p (a + 8) 8
  let late : Bool := match x.firstG with
    | some f => decide (s.time > f + voteWindow s sl)
    | none => false
  if memNat s p (a + 0x30) 4 ≠ 1 ∨ x.gdone ∨ late then lateVote s sl
  else if pendingOf old - (pendingOf old &&& operand) = 0 then dupVote s sl
  else
    let new := old &&& operand
    let s := devWrite64 s p (a + 8) new
    let s := match x.firstG with
      | some _ => s
      | none => setVoteRec (devWrite64 s p (a + 0x20) (asStamp s.time)) sl r { x with firstG := some s.time }
    if selfIdx s sl % 63 = 0 ∧ pendingOf new = 0 then leaderDecide s p sl r else s

/-- The armed partition whose lowest slice this is. -/
def armedPart (s : State) (sl : Nat) : Option Nat :=
  match partOfSlice s sl with
  | some p => if lowSlice s p = sl ∧ armed s sl then some p else none
  | none => none

/-- GROUP_VOTE_ARRIVE. -/
def execGroupVoteArrive (slice : Fin 8) (record : Fin 4) (operand : W64) (now : Nat) (s : State) : Out :=
  let s := tick s now
  match armedPart s slice with
  | some p => .next (groupVote s p slice record operand.toNat)
  | none => .next s

/-- LEADER_TIMEOUT: the leader's time has passed FIRST_G + W + 64 ns. -/
def execLeaderTimeout (slice : Fin 8) (record : Fin 4) (now : Nat) (s : State) : Out :=
  let s := tick s now
  let sl := slice.val
  match armedPart s sl, (voteRec s sl record).firstG with
  | some p, some f =>
    if selfIdx s sl % 63 = 0 ∧ (voteRec s sl record).gdone = false ∧ memNat s p (recordAt s sl record + 0x30) 4 = 1 ∧
        s.time > f + voteWindow s sl + 64 then .next (leaderDecide s p sl record)
    else .next s
  | _, _ => .next s

/-- ROOT_RESULT: a fetch-and reaches the ROOT word of a record, with the group's word where its put has come with it. -/
def rootResult (s : State) (p sl r operand : Nat) (final : Option (Nat × Nat)) : State :=
  let a := recordAt s sl r
  let x := voteRec s sl r
  let s := takeOwn s p (a + 0x10)
  let s := match final with
    | some (g, _) => takeOwn s p (a + 0x40 + 8 * g)
    | none => s
  let old := memNat s p (a + 0x10) 8
  let late : Bool := match x.firstR with
    | some f => decide (s.time > f + 2 * voteWindow s sl)
    | none => false
  if memNat s p (a + 0x30) 4 ≠ 1 ∨ x.rdone ∨ late then lateVote s sl
  else if pendingOf old - (pendingOf old &&& operand) = 0 then dupVote s sl
  else
    let s := match final with
      | some (g, w) => devWrite64 s p (a + 0x40 + 8 * g) w
      | none => s
    let new := old &&& operand
    let s := devWrite64 s p (a + 0x10) new
    let s := match x.firstR with
      | some _ => s
      | none => setVoteRec (devWrite64 s p (a + 0x28) (asStamp s.time)) sl r { voteRec s sl r with firstR := some s.time }
    if selfIdx s sl = 0 ∧ pendingOf new = 0 then rootDecide s p sl r else s

/-- ROOT_RESULT_ARRIVE: a group's word and its fetch-and on ROOT. -/
def execRootResultArrive (slice : Fin 8) (record : Fin 4) (group : Fin 63) (word : W64) (now : Nat) (s : State) : Out :=
  let s := tick s now
  match armedPart s slice with
  | some p =>
    .next (rootResult s p slice record (voteOperand group (word.toNat.testBit 63)) (some (group.val, word.toNat)))
  | none => .next s

/-- ROOT_TIMEOUT: the root's time has passed FIRST_R + 2W + 64 ns. -/
def execRootTimeout (slice : Fin 8) (record : Fin 4) (now : Nat) (s : State) : Out :=
  let s := tick s now
  let sl := slice.val
  match armedPart s sl, (voteRec s sl record).firstR with
  | some p, some f =>
    if selfIdx s sl = 0 ∧ (voteRec s sl record).rdone = false ∧ memNat s p (recordAt s sl record + 0x30) 4 = 1 ∧
        s.time > f + 2 * voteWindow s sl + 64 then .next (rootDecide s p sl record)
    else .next s
  | _, _ => .next s

/-- ISOLATION_TIMEOUT: no outcome by the cast + 4W + 64 ns: the task is discarded and the module is isolated (R142). -/
def execIsolationTimeout (slice : Fin 8) (now : Nat) (s : State) : Out :=
  let s := tick s now
  let sl := slice.val
  match partOfSlice s sl, cGet (fun _ => none) s.qch.castAt sl with
  | some p, some at_ =>
    if taskState s sl = 2 ∧ s.time > at_ + 4 * voteWindow s sl + 64 then
      let s := { s with qch := { s.qch with castAt := cSet (fun _ => none) s.qch.castAt sl none } }
      let s := wrB (discardPages s p sl) (qchPg sl + 0x108) 8 true
      .next (wakeVote (inc (intSet s (qchPg sl) 8) (qchPg sl + 0x19C)) p 2)
    else .next s
  | _, _ => .next s

end Sys2Proof.Machine
end

