-- ==== Sys2Proof/Machine/Routes.lean ====
section
/-!
DEFINITION. Routing (13_mboano_link_fabric_time.md R330 to R334): the ports to which a packet may go, the hold after a change of the UP
ports, the queues of the ports.
-/
namespace Sys2Proof.Machine

/-! ### Ports -/

def portOf (s : State) (n : Nat) : Port := cGet (fun _ => {}) s.lnk.ports n

def setPort (s : State) (n : Nat) (x : Port) : State :=
  { s with lnk := { s.lnk with ports := cSet (fun _ => {}) s.lnk.ports n x } }

/-- LNK_STAT.STATE: 0 DOWN, 1 TRAINING, 2 UP, 3 FAILED. -/
def portState (s : State) (n : Nat) : Nat := rdF s (lnkPg n + 0x104) 31 28

/-- The mask of the ports that are UP. -/
def upPorts (s : State) : Nat := sumNat ((List.range 16).map (fun n => if portState s n = 2 then 2 ^ n else 0))

/-- The module's id (R300): TNG_SELF_MOD of the lowest slice on which SP has written it. -/
def moduleId (s : State) : Nat :=
  match (List.range 8).find? (fun sl => rd s (tngPg sl + 0x10C) != 0xFFFFFFFF) with
  | some sl => rd s (tngPg sl + 0x10C)
  | none => 0xFFFFFFFF

/-! ### The direction of a hop (R330) -/

/-- What routing says of a packet: no VALID entry; or the mask of ports, the dimension travelled (3 for a table entry), and whether it
crosses a dateline. -/
inductive Hop where
  | noRoute
  | ports (mask dim : Nat) (dateline : Bool)
deriving DecidableEq, Repr

/-- The routing table's entry (R348). -/
def rtEntry (s : State) (die i : Nat) : Nat := (cGet (fun _ => 0) s.win.rtData (4096 * die + i)).toNat

def tableHop (s : State) (die i : Nat) : Hop :=
  let e := rtEntry s die i
  if e.testBit 31 then .ports (bitsOf e 15 0) 3 (e.testBit 16) else .noRoute

/-- The mask of the ports whose LNK_DIR is a direction. -/
def dirPorts (s : State) (d : Nat) : Nat :=
  sumNat ((List.range 16).map (fun n => if rdF s (lnkPg n + 0x108) 2 0 = d then 2 ^ n else 0))

/-- One dimension of DOR: from coordinate a to b on a ring of n; positive when both ways are equally long. -/
def dimHop (s : State) (dim a b n : Nat) : Hop :=
  let fwd := (b + n - a % n) % n
  let bwd := (a + n - b % n) % n
  if fwd ≤ bwd then .ports (dirPorts s (2 * dim)) dim (a + 1 == n) else .ports (dirPorts s (2 * dim + 1)) dim (a == 0)

/-- The hop of a packet for a module. In mode DOR a target whose coordinate lies outside its ring has no route (12_tongs_remote_ops.md
R301; DEDUCED, log entry 97). -/
def hopTo (s : State) (die target : Nat) : Hop :=
  let rt := rtPg die
  if rdF s (rt + 0x100) 1 0 = 1 then tableHop s die (target % 4096)
  else
    let me := moduleId s
    if bitsOf me 31 24 ≠ bitsOf target 31 24 then tableHop s die (bitsOf target 31 24)
    else
      let dims := rd s (rt + 0x104)
      match [0, 1, 2].find? (fun k => bitsOf me (8 * k + 7) (8 * k) != bitsOf target (8 * k + 7) (8 * k)) with
      | some k =>
        let n := max 1 (bitsOf dims (8 * k + 7) (8 * k))
        let b := bitsOf target (8 * k + 7) (8 * k)
        if n ≤ b then .noRoute else dimHop s k (bitsOf me (8 * k + 7) (8 * k)) b n
      | none => .noRoute

/-! ### The port of a packet (R331) -/

/-- The target module and the sum that chooses among eligible ports. -/
def Carried.target : Carried → Nat
  | .req p => p.target.toNat
  | .rsp p => p.target.toNat

def Carried.mix : Carried → Nat
  | .req p => (p.source.toNat + p.target.toNat + p.tile.toNat) % 2 ^ 32
  | .rsp p => (Config.rspSource + p.target.toNat + p.tile.toNat) % 2 ^ 32

/-- Entry k of the ports of a mask, in ascending order. -/
def pickPort (mask k : Nat) : Option Nat :=
  let l := (List.range 16).filter (fun n => mask.testBit n)
  if l.isEmpty then none else l[k % l.length]?

/-- The port of a hop among the UP ports of a mask. -/
def hopPort (h : Hop) (up k : Nat) : Option Nat :=
  match h with
  | .noRoute => none
  | .ports m _ _ => pickPort (m &&& up) k

/-- The virtual channel on which a packet leaves (R330): a turn into another dimension returns to the first, a dateline moves to the
second. -/
def hopVc (q : QPkt) (h : Hop) : Nat :=
  let base := match q.pkt with
    | .req _ => 0
    | .rsp _ => 2
  match h with
  | .noRoute => base
  | .ports _ dim line => if line then base + 1 else if q.dim = some dim then base + q.vc % 2 else base

/-- A packet enters its port's queue, or waits: for the end of a hold that would re-route it, or for a port to come UP (R331, R334). -/
def inject (s : State) (q : QPkt) : State :=
  let h := hopTo s q.die q.pkt.target
  let k := q.pkt.mix
  let now := hopPort h s.lnk.upMask k
  let next := hopPort h (upPorts s) k
  match now with
  | some n =>
    if now = next then setPort s n { portOf s n with queue := (portOf s n).queue ++ [{ q with vc := hopVc q h }] }
    else { s with lnk := { s.lnk with waiting := s.lnk.waiting ++ [q] } }
  | none => { s with lnk := { s.lnk with waiting := s.lnk.waiting ++ [q] } }

/-- No VALID entry: counted on the die's routing page (R331, R346). -/
def noteNoRoute (s : State) (die : Nat) : State := inc (intSet s (rtPg die) 1) (rtPg die + 0x11C)

/-- The response to a request leaves for its requester; one with no route is lost and counted. -/
def sendResponse (s : State) (die : Nat) (p : ReqPkt) (status sub : Nat) (data : List Byte) : State :=
  let r : RspPkt :=
    { target := p.source, tile := p.tile, tag := p.tag, status := BitVec.ofNat 8 status, sub := BitVec.ofNat 8 sub, data := data }
  match hopTo s die p.source.toNat with
  | .noRoute => noteNoRoute s die
  | .ports _ _ _ => inject s { pkt := .rsp r, die := die, dim := none, vc := 2, key := none, more := false }

/-- Packets that waited are routed again, oldest first. -/
def injectAll : List QPkt → State → State
  | [], s => s
  | q :: qs, s => injectAll qs (inject s q)

def retryWaiting (s : State) : State := injectAll s.lnk.waiting { s with lnk := { s.lnk with waiting := [] } }

/-- The set of UP ports has changed: a hold of LNK_RT_HOLD begins, unless one is running (R334). -/
def portsChanged (s : State) : State :=
  if upPorts s = s.lnk.upMask then s
  else
    let e := s.time + 1000 * rdF s (rtPg 0 + 0x10C) 15 0
    match s.lnk.hold with
    | some _ => s
    | none => { s with lnk := { s.lnk with hold := some e } }

end Sys2Proof.Machine
end

