-- ==== Sys2Proof/Machine/Tasks.lean ====
section
/-!
DEFINITION. The control unit's operations on threads and tile tasks (07_tile_operations.md R195 to R197, 06_tiles_and_threads.md R164
to R168): FENCE, BARRIER, the TASK operations with the commit and discard of a task's shadows, and HALT.
-/
namespace Sys2Proof.Machine

/-! ### FENCE and BARRIER -/

/-- The issuing thread is blocked from now on. -/
def blockThread (s : State) (t th : Nat) (st : ThrState) : State :=
  setThr s t th { thrOf s t th with st := st, since := s.time }

/-- FENCE: BLOCKED_XFER until the transfers of the selected kinds that the thread has issued are complete (R195). -/
def execFence (i : Issue) (s : State) : Out :=
  issueOp "FENCE" 7 0x01 (fun w => bitsOf w 2 0 != 0 && zero w 47 3) (fun _ => []) i s fun c s =>
    let m := bitsOf c.w 2 0
    if fencePending s c.t c.th (thrOf s c.t c.th).gen m then .done (blockThread s c.t c.th (.blockedXfer m)) else .done s

def barrierOf (s : State) (t id : Nat) : Option Barrier := cGet (fun _ => none) s.tl.barriers (8 * t + id)

def setBarrier (s : State) (t id : Nat) (x : Option Barrier) : State :=
  { s with tl := { s.tl with barriers := cSet (fun _ => none) s.tl.barriers (8 * t + id) x } }

/-- Release a barrier: all who await it go on in one step. -/
def releaseBarrier (s : State) (t id : Nat) : State :=
  mapThreads (setBarrier s t id none) t
    (fun _ x => if x.st = .blockedSync (.barrier id) then { x with st := .runnable } else x)

/-- BARRIER: BLOCKED_SYNC until COUNT threads have arrived; a COUNT other than the first arrival's faults with cause 0x02 (R196). -/
def execBarrier (i : Issue) (s : State) : Out :=
  issueOp "BARRIER" 7 0x02 (fun w => decide (1 ≤ bitsOf w 44 38 ∧ bitsOf w 44 38 ≤ 64) && zero w 37 0) (fun _ => []) i s
    fun c s =>
      let id := bitsOf c.w 47 45
      let n := bitsOf c.w 44 38
      let b := (barrierOf s c.t id).getD { count := n, arrived := [] }
      if b.count ≠ n then .fault 2
      else if b.arrived.length + 1 ≥ n then .done (releaseBarrier s c.t id)
      else
        .done (blockThread (setBarrier s c.t id (some { b with arrived := b.arrived ++ [c.th] })) c.t c.th
          (.blockedSync (.barrier id)))

/-! ### Opening a task (R164, R168) -/

/-- The pool has this many slots that no task has reserved. -/
def poolFits (s : State) (t n : Nat) : Bool := decide (poolReserved s t + n ≤ poolSlots s t)

/-- Open a task for a thread. -/
def openTask (s : State) (t th k n : Nat) : State :=
  let s := setTask s t k (some { failed := false, ending := none, reserved := n, shadows := [] })
  setThr s t th { thrOf s t th with task := some (Fin.ofNat 4 k) }

/-- The threads that wait to open a task, longest waiting first, ties by thread: thread, task, slots, destination. -/
def waitingBegins (s : State) (t : Nat) : List (Nat × Nat × Nat × Nat) :=
  ((s.tl.thr.filterMap (fun p =>
      match p.2.st with
      | .blockedSync (.taskBegin k n d) => if p.1 / 64 = t then some (p.2.since, p.1 % 64, k, n, d) else none
      | _ => none)).mergeSort (fun a b => decide (a.1 < b.1) || (a.1 == b.1 && decide (a.2.1 ≤ b.2.1)))).map (·.2)

/-- A waiting TASK.BEGIN is looked at again: its task has opened meanwhile (BUSY), or the pool fits it, or it waits on. -/
def retryBegin (t : Nat) (s : State) (w : Nat × Nat × Nat × Nat) : State :=
  let x := thrOf s t w.1
  let go := fun s => setThr s t w.1 { thrOf s t w.1 with st := .runnable }
  if (taskOf s t w.2.1).isSome then go (lateWrite s t w.1 x.gen w.2.2.2 markTask 3)
  else if w.2.2.1 > poolSlots s t then go (lateWrite s t w.1 x.gen w.2.2.2 markTask 4)
  else if poolFits s t w.2.2.1 then go (lateWrite (openTask s t w.1 w.2.1 w.2.2.1) t w.1 x.gen w.2.2.2 markTask 0)
  else s

/-- A reservation has returned: waiting TASK.BEGINs go on as they fit. -/
def retryBegins (s : State) (t : Nat) : State := (waitingBegins s t).foldl (retryBegin t) s

/-- TASK.BEGIN: opens a task and reserves shadow slots, or BUSY or TOO_LARGE; blocks until the pool has them free. -/
def execTaskBegin (i : Issue) (s : State) : Out :=
  issueOp "TASK_BEGIN" 7 0x10
    (fun w => specOk (fD w) && zero w 39 13 && decide (1 ≤ bitsOf w 12 0 ∧ bitsOf w 12 0 ≤ 4096)) (fun _ => []) i s fun c s =>
      let k := bitsOf c.w 41 40
      let n := bitsOf c.w 12 0
      let d := fD c.w
      if (c.task s).isSome then .fault 6
      else if (taskOf s c.t k).isSome then .done (setXreg s c.t c.th d 3)
      else if n > poolSlots s c.t then .done (setXreg s c.t c.th d 4)
      else if poolFits s c.t n then .done (setXreg (openTask s c.t c.th k n) c.t c.th d 0)
      else .done (blockThread (addPend s c.t c.th d markTask) c.t c.th (.blockedSync (.taskBegin k n d)))

/-- TASK.JOIN: the thread becomes a member of an open task that is not ending, or NO_TASK. -/
def execTaskJoin (i : Issue) (s : State) : Out :=
  issueOp "TASK_JOIN" 7 0x11 (fun w => specOk (fD w) && zero w 39 0) (fun _ => []) i s fun c s =>
    let k := bitsOf c.w 41 40
    if (c.task s).isSome then .fault 6
    else
      match taskOf s c.t k with
      | some x =>
        if x.ending.isSome then .done (setXreg s c.t c.th (fD c.w) 2)
        else .done (setXreg (setThr s c.t c.th { thrOf s c.t c.th with task := some (Fin.ofNat 4 k) }) c.t c.th (fD c.w) 0)
      | none => .done (setXreg s c.t c.th (fD c.w) 2)

/-! ### Ending a task (R167, R168) -/

/-- TASK.COMMIT and TASK.DISCARD: a member's request ends the task, once; the thread blocks until it is applied. -/
def endTask (mn : String) (o : Nat) (commit : Bool) (i : Issue) (s : State) : Out :=
  issueOp mn 7 o (fun w => specOk (fD w) && zero w 39 0) (fun _ => []) i s fun c s =>
    let k := bitsOf c.w 41 40
    let noTask := OpRes.done (setXreg s c.t c.th (fD c.w) 2)
    match taskOf s c.t k with
    | none => noTask
    | some x =>
      if c.task s ≠ some (Fin.ofNat 4 k) ∨ x.ending.isSome then noTask
      else
        .done (blockThread (addPend (setTask s c.t k (some { x with ending := some commit })) c.t c.th (fD c.w) markTask) c.t c.th
          (.blockedSync (.taskEnd k commit (fD c.w))))

/-- TASK_COMMIT. -/
def execTaskCommit (i : Issue) (s : State) : Out := endTask "TASK_COMMIT" 0x12 true i s
/-- TASK_DISCARD. -/
def execTaskDiscard (i : Issue) (s : State) : Out := endTask "TASK_DISCARD" 0x13 false i s

/-- A pass belongs to the task. -/
def passOfTask (k : Fin 4) (ps : List Pass) : Bool := ps.any (fun p => p.task == some k)

/-- An operation that a member issued in the task has not completed: a pass, a Bellows or Tongs operation, a barrier, a fence or a layer
close. -/
def taskBusy (s : State) (t : Nat) (k : Fin 4) : Bool :=
  (descsOf s t).any (fun d => d.task == some k) ||
  s.tng.ops.any (fun o => o.tile == t && o.task == some k) ||
  [0, 1, 2].any (fun a =>
    (cGet (fun _ => []) s.anv.queue (4 * t + a)).any (passOfTask k) ||
    (cGet (fun _ => []) s.anv.running (4 * t + a)).any (fun r => passOfTask k r.members)) ||
  (cGet (fun _ => []) s.anv.waiting t).any (passOfTask k) ||
  (cGet (fun _ => []) s.anv.groups t).any (fun g => passOfTask k g.members) ||
  passOfTask k (cGet (fun _ => []) s.anv.behind t) ||
  s.tl.thr.any (fun p => decide (p.1 / 64 = t) && p.2.task == some k &&
    (match p.2.st with
     | .blockedXfer _ => true
     | .blockedSync (.barrier _) => true
     | .blockedSync .layerClose => true
     | _ => false))

/-- A live slot takes its shadow's bytes and tag; bytes of a running code region are dropped (R154, R167). -/
def commitSlot (t : Nat) (s : State) (p : Nat × Nat) : State :=
  let bs := (rangeFrom (512 * p.2) 512).map (spByte s t)
  let s := if inCode s t p.1 && tileRunning s t then intSet s (tilePg t 0) 64
    else { s with tl := { s.tl with spad := cSetList (fun _ => 0) s.tl.spad (2 ^ 24 * t + 512 * p.1) bs } }
  setTagRaw s t p.1 (tagRaw s t p.2)

/-- Membership ends, the reservation returns, the status is written, and the threads that waited on the task or on its slots are examined
again. -/
def closeTask (s : State) (t : Nat) (k : Fin 4) (x : Task) (code : W64) : State :=
  let enders := s.tl.thr.filterMap (fun p =>
    match p.2.st with
    | .blockedSync (.taskEnd j _ d) => if p.1 / 64 = t ∧ j = k.val then some (p.1 % 64, p.2.gen, d) else none
    | _ => none)
  let s := enders.foldl (fun s e => lateWrite s t e.1 e.2.1 e.2.2 markTask code) (setTask s t k none)
  let s := mapThreads s t (fun th y =>
    let y := if y.task = some k then { y with task := none } else y
    if enders.any (fun e => e.1 == th) then { y with st := .runnable } else y)
  let s := (x.shadows.map (·.1)).foldl (fun s sl => wakeSlot s t sl) s
  retryBegins s t

/-- A task is discarded: its live slots stay as they are. -/
def discardTask (s : State) (t : Nat) (k : Fin 4) (x : Task) (code : W64) : State :=
  closeTask (inc s (tilePg t 0 + 0x150)) t k x code

/-- TASK_COMMIT_APPLY: once every member's operation is complete, the live slots take their shadows; a FAILED task is discarded with
status FAILED. -/
def execTaskCommitApply (tile : Fin 288) (task : Fin 4) (now : Nat) (s : State) : Out :=
  let s := tick s now
  let t := tile.val
  match taskOf s t task with
  | some x =>
    if x.ending ≠ some true ∨ taskBusy s t task then .next s
    else if x.failed then .next (discardTask s t task x 1)
    else .next (closeTask (inc (x.shadows.foldl (commitSlot t) s) (tilePg t 0 + 0x14C)) t task x 0)
  | none => .next s

/-- TASK_DISCARD_APPLY: once every member's operation is complete, the shadows are freed. -/
def execTaskDiscardApply (tile : Fin 288) (task : Fin 4) (now : Nat) (s : State) : Out :=
  let s := tick s now
  let t := tile.val
  match taskOf s t task with
  | some x => if x.ending ≠ some false ∨ taskBusy s t task then .next s else .next (discardTask s t task x 0)
  | none => .next s

/-- HALT: the thread is HALTED; what it has issued still completes (R156). -/
def execHalt (i : Issue) (s : State) : Out :=
  issueOp "HALT" 7 0x3F (fun w => zero w 47 0) (fun _ => []) i s fun c s =>
    .done (setThr s c.t c.th { thrOf s c.t c.th with st := .halted })

end Sys2Proof.Machine
end

