-- ==== Sys2Proof/Machine/Tongs.lean ====
section
/-!
DEFINITION. Tongs (12_tongs_remote_ops.md): operations, their requests and slots, requests at their target, responses, timeouts and
dispatch.
-/
namespace Sys2Proof.Machine

/-! ### The unit's lists -/

/-- The TNG_ page of a tile. -/
def tngTPg (t : Nat) : Nat := tilePg t 10

def setTOps (s : State) (l : List TOp) : State := { s with tng := { s.tng with ops := l } }
def putTOp (s : State) (x : TOp) : State := setTOps s (s.tng.ops.map (fun o => if o.id = x.id then x else o))
def findTOp (s : State) (t id : Nat) : Option TOp := s.tng.ops.find? (fun o => o.tile == t && o.id == id)
def setTReqs (s : State) (l : List TReq) : State := { s with tng := { s.tng with reqs := l } }

/-- A fresh number. -/
def freshTng (s : State) : Nat × State := (s.tng.nextId, { s with tng := { s.tng with nextId := s.tng.nextId + 1 } })

/-- The Tongs tags and the operations of a tile (R163, R320). -/
def tngTags (s : State) (t : Nat) : Nat :=
  (s.tng.reqs.filter (fun r => r.tile == t)).length + (s.tng.ops.filter (fun o => o.tile == t && o.tag)).length
def tngActive (s : State) (t : Nat) : Nat := (s.tng.ops.filter (fun o => o.tile == t)).length

/-- The tag of a tile's next request: the lowest that no request holds and no late answer could carry. -/
def pickTag (s : State) (t : Nat) : Nat :=
  let held := (s.tng.reqs.filter (fun r => r.tile == t)).map (·.tag)
  let late := (s.tng.stale.filter (fun x => x.1 == t)).map (·.2)
  ((List.range 128).find? (fun n => !(held.contains n) && !(late.contains n))).getD
    (((List.range 128).find? (fun n => !(held.contains n))).getD 0)

/-! ### Kinds of operations -/

/-- FADD, FAND and CAS. -/
def isFetch : ReqOpc → Bool
  | .fadd | .fand | .cas => true
  | _ => false

/-- A failure of the operation concerns the step (R312). -/
def TOp.stepBound (o : TOp) : Bool := o.dispatch || o.opc == .putadd || isFetch o.opc

/-- What a request does at its controller: TYPE, and the two operand words of its data unit (R262, R327). -/
def reqKind (opc : ReqOpc) (etype x y : Nat) : OpKind :=
  match opc with
  | .get => .read
  | .put | .notify => .write
  | .putadd => .add etype
  | .fadd => .fadd etype x
  | .fand => .fand etype x
  | .cas => .cas etype x y

/-- The bytes that a request touches at its target. -/
def reqSpan (opc : ReqOpc) (etype len : Nat) : Nat :=
  match opc with
  | .putadd => if etype = 1 then 2 * len else len
  | .fadd | .fand | .cas => targetSize etype
  | .notify => 8
  | _ => len

/-! ### Completion (R304, R309, R311, R312) -/

/-- The status word of a Tongs operation (R311). -/
def tngStatus (code sub off : Nat) : W64 := BitVec.ofNat 64 (code % 256 + off / 32 % 2 ^ 24 * 2 ^ 32 + sub % 256 * 2 ^ 56)

/-- Write an operation's result: the status word, and for a fetch the old value, open where it is lost. -/
def writeResult (s : State) (o : TOp) (code sub off : Nat) : State :=
  if isFetch o.opc then
    let f := drawFree s
    let r := if code = 0 then (o.old, s) else f
    lateWrite (lateWrite r.2 o.tile o.thr o.gen o.dest (markTng o.id) (BitVec.ofNat 64 r.1)) o.tile o.thr o.gen (o.dest + 1)
      (markTng o.id) (tngStatus code sub off)
  else lateWrite s o.tile o.thr o.gen o.dest (markTng o.id) (tngStatus code sub off)

/-- An operation completes not OK: counted, signalled, logged with the failing target address; one that concerns the step sets the
sticky flag with cause REMOTE while ARM is 1. -/
def noteTngError (s : State) (o : TOp) (code sub addr : Nat) : State :=
  let pg := tngTPg o.tile
  let s := latchBlk (inc (intSet s pg 1) (pg + 0x130)) pg (code % 256 + sub % 256 * 2 ^ 8 + o.thr * 2 ^ 16) addr
  match partOfTile s o.tile with
  | some p => if o.stepBound && armed s (lowSlice s p) then detectPart s p 6 addr else s
  | none => s

/-- An operation completes: its place is free, its result written, fences looked at again. -/
def completeTOp (s : State) (o : TOp) : State :=
  let f := o.fail.getD (0, 0, 0, 0)
  let s := setTOps s (s.tng.ops.filter (fun x => x.id != o.id))
  let s := inc64 (writeResult s o f.1 f.2.1 f.2.2.1) (tngTPg o.tile + 0x110) 1
  wakeFences (if f.1 = 0 then s else noteTngError s o f.1 f.2.1 f.2.2.2) o.tile

/-- An operation goes on, or completes when nothing of it is left. -/
def settleTOp (s : State) (o : TOp) : State :=
  if o.live.isEmpty && o.pieces.isEmpty then completeTOp s o else putTOp s o

/-- The first failure of an operation: no later request issues (R311). -/
def failTOp (s : State) (o : TOp) (code sub off addr : Nat) : State :=
  settleTOp s { o with fail := (match o.fail with
      | some f => some f
      | none => some (code, sub, off, addr)), pieces := [], tag := false }

/-! ### Operations (R194, R302, R303) -/

/-- The reserved bits and values of form T: which of AL, N and VAL the operation uses, its TYPE and LK codes, the highest D. -/
def tLegal (al n val : Bool) (types lks : List Nat) (dmax : Nat) (w : Nat) : Bool :=
  decide (fD w ≤ dmax) && specOk (fMod w) && (al || zero w 32 30) && (if n then specOk (fN w) else zero w 29 24) &&
    (if val then specOk (fVal w) else zero w 23 18) && types.contains (fType w) && lks.contains (fLk w) && zero w 11 0

/-- The registers that an operation reads. -/
def tRegs (al n val : Bool) (w : Nat) : List Nat :=
  [fMod w, fAr w] ++ (if al then [fAl w] else []) ++ (if n then [fN w] else []) ++
    (if val then [fVal w] else [])

/-- The requests of one transfer, split at 2 KiB of the target address; double is the BF16 addition, whose target span is twice its
operand's (R303). -/
def tPieces (md : W32) (opc : ReqOpc) (target loc n off : Nat) (double : Bool) : List TPiece :=
  let k := if double then 2 else 1
  (splitRange 2048 target (k * n)).map (fun r =>
    { mod := md, opc := opc, target := r.1, tlen := r.2, loc := loc + (r.1 - target) / k, llen := r.2 / k,
      off := off + (r.1 - target) / k, value := 0, last := false })

/-- What an operation asks for, once its operands have been checked. -/
structure TPlan where
  opc      : ReqOpc
  dispatch : Bool := false
  newVal   : Nat := 0
  pieces   : List TPiece
deriving DecidableEq, Repr

/-- Tongs takes an operation when the tile has a place and a tag for it (R163, R320); the step is latched (R310). A tile of no partition
reaches no memory (R502). -/
def startTng (c : OpCtx) (s : State) (pl : TPlan) : OpRes :=
  if tngActive s c.t ≥ 32 ∨ tngTags s c.t ≥ 32 then .wait
  else
    let d := fD c.w
    let f := freshTng s
    let s := addPend f.2 c.t c.th d (markTng f.1)
    let s := if isFetch pl.opc then addPend s c.t c.th (d + 1) (markTng f.1) else s
    let sl := match partOfTile s c.t with
      | some p => lowSlice s p
      | none => sliceOf c.t
    let o : TOp :=
      { id := f.1, tile := c.t, thr := c.th, gen := (thrOf s c.t c.th).gen, dest := d, task := c.task s, opc := pl.opc,
        dispatch := pl.dispatch, lk := fLk c.w, etype := fType c.w, job := rdW s (tngPg sl + 0x108),
        step := if pl.opc ≠ .get ∧ rdB s (tngPg sl + 0x104) 0 then some ((spkStep s c.t).setWidth 32) else none,
        newVal := pl.newVal, pieces := pl.pieces, live := [], slots := [], tag := false, capped := none, fail := none, old := 0 }
    let s := setTOps s (s.tng.ops ++ [o])
    match partOfTile s c.t with
    | some _ => .done s
    | none => .done (failTOp s o 1 0 0 ((pl.pieces.map (·.target)).headD 0))

/-- PUT, GET and PUTADD: checks of the count, the local range and the alignment; only a GET may be a task's member's, and it writes
shadows (R165, R166, R302, R313). -/
def tngBulk (opc : ReqOpc) (c : OpCtx) (s : State) : OpRes :=
  let md := (xreg s c.t c.th (fMod c.w)).setWidth 32
  let target := (xreg s c.t c.th (fAr c.w)).toNat
  let loc := (xreg s c.t c.th (fAl c.w)).toNat
  let n := (xreg s c.t c.th (fN c.w)).toNat
  let k := c.task s
  if n = 0 ∨ n > 16777216 ∨ n % 32 ≠ 0 then .fault 2
  else if badRange s c.t loc n then .fault 3
  else if target % 32 ≠ 0 ∨ loc % 32 ≠ 0 then .fault 5
  else if k.isSome ∧ opc ≠ .get then .fault 6
  else if tngActive s c.t ≥ 32 ∨ tngTags s c.t ≥ 32 then .wait
  else
    match (if opc = .get then shadowAll s c.t k (rangeUses loc n .produce) else some s) with
    | none => .fault 7
    | some s => startTng c s { opc := opc, pieces := tPieces md opc target loc n 0 (opc == .putadd && fType c.w == 1) }

/-- TNG_PUT. -/
def execTngPut (i : Issue) (s : State) : Out :=
  issueOp "TNG_PUT" 5 0x01 (tLegal true true false [0] [0, 1, 2] 39) (tRegs true true false) i s (tngBulk .put)

/-- TNG_GET. -/
def execTngGet (i : Issue) (s : State) : Out :=
  issueOp "TNG_GET" 5 0x02 (tLegal true true false [0] [0, 1] 39) (tRegs true true false) i s (tngBulk .get)

/-- TNG_PUTADD. -/
def execTngPutadd (i : Issue) (s : State) : Out :=
  issueOp "TNG_PUTADD" 5 0x03 (tLegal true true false [0, 1, 2, 3] [0, 1, 2] 39) (tRegs true true false) i s
    (tngBulk .putadd)

/-- FADD, FAND, CAS and NOTIFY: one request of one word. -/
def tngWord (opc : ReqOpc) (c : OpCtx) (s : State) : OpRes :=
  let md := (xreg s c.t c.th (fMod c.w)).setWidth 32
  let target := (xreg s c.t c.th (fAr c.w)).toNat
  let w := if opc = .notify then 8 else targetSize (fType c.w)
  let v := (xreg s c.t c.th (fVal c.w)).toNat
  let x := if opc = .notify then v else (xreg s c.t c.th (fN c.w)).toNat
  if target % w ≠ 0 then .fault 5
  else if (c.task s).isSome then .fault 6
  else
    startTng c s
      { opc := opc, newVal := if opc = .cas then v else 0,
        pieces := [{ mod := md, opc := opc, target := target, tlen := w, loc := 0, llen := 0, off := 0, value := x, last := false }] }

/-- TNG_FADD. -/
def execTngFadd (i : Issue) (s : State) : Out :=
  issueOp "TNG_FADD" 5 0x10 (tLegal false true false [2, 3] [0] 30) (tRegs false true false) i s (tngWord .fadd)

/-- TNG_FAND. -/
def execTngFand (i : Issue) (s : State) : Out :=
  issueOp "TNG_FAND" 5 0x11 (tLegal false true false [2, 3] [0] 30) (tRegs false true false) i s (tngWord .fand)

/-- TNG_CAS. -/
def execTngCas (i : Issue) (s : State) : Out :=
  issueOp "TNG_CAS" 5 0x12 (tLegal false true true [2, 3] [0] 30) (tRegs false true true) i s (tngWord .cas)

/-- TNG_NOTIFY. -/
def execTngNotify (i : Issue) (s : State) : Out :=
  issueOp "TNG_NOTIFY" 5 0x20 (tLegal false false true [0] [0] 39) (tRegs false false true) i s (tngWord .notify)

/-! ### Expert dispatch (R315, R316) -/

/-- The operands of a dispatch: list, table, experts, rows, row bytes, first token, its row's address. -/
structure TList where
  list  : Nat
  table : Nat
  e     : Nat
  n     : Nat
  rb    : Nat
  t0    : Nat
  row   : Nat
deriving DecidableEq, Repr

/-- The bytes of the counts at the head of a dispatch list (R188). -/
def listHead (e : Nat) : Nat := 32 * ceilDiv (4 * e) 32

/-- The tokens that the list gives an expert. -/
def expertTokens (s : State) (c : OpCtx) (d : TList) (x : Nat) : List Nat :=
  (List.range (seeNat s c.t (c.task s) (d.list + 4 * x) 4)).map (fun i =>
    seeNat s c.t (c.task s) (d.list + listHead d.e + 4 * d.n * x + 4 * i) 4)

/-- Fields of an expert's placement entry. -/
def placeMod (s : State) (c : OpCtx) (d : TList) (x : Nat) : Nat := seeNat s c.t (c.task s) (d.table + 32 * x) 4
def placeRow (s : State) (c : OpCtx) (d : TList) (x : Nat) : Nat := seeNat s c.t (c.task s) (d.table + 32 * x + 8) 8
def placeNote (s : State) (c : OpCtx) (d : TList) (x : Nat) : Nat := seeNat s c.t (c.task s) (d.table + 32 * x + 16) 8
def placeRsv (s : State) (c : OpCtx) (d : TList) (x : Nat) : Bool :=
  seeNat s c.t (c.task s) (d.table + 32 * x + 4) 4 == 0 && seeNat s c.t (c.task s) (d.table + 32 * x + 24) 8 == 0

/-- The requests of a dispatch, expert by expert; off counts the local bytes sent so far. -/
def listPieces (s : State) (c : OpCtx) (d : TList) : Nat → Nat → Nat → List TPiece
  | 0, _, _ => []
  | fuel + 1, x, off =>
    let toks := expertTokens s c d x
    let md := BitVec.ofNat 32 (placeMod s c d x)
    let rows := ((List.range toks.length).map (fun i =>
      tPieces md .put (placeRow s c d x + i * d.rb) (d.row + (nth 0 toks i - d.t0) * d.rb) d.rb (off + i * d.rb) false)).flatten
    let off' := off + toks.length * d.rb
    let note : TPiece :=
      { mod := md, opc := .notify, target := placeNote s c d x, tlen := 8, loc := 0, llen := 0, off := off',
        value := toks.length + logicalOf s c.t * 2 ^ 32, last := true }
    rows ++ [note] ++ listPieces s c d fuel (x + 1) off'

/-- Some row that the list sends lies outside the scratchpad or in the shadow pool. -/
def badRow (s : State) (c : OpCtx) (d : TList) (tok : Nat) : Bool :=
  decide (tok < d.t0) || badRange s c.t (d.row + (tok - d.t0) * d.rb) d.rb

/-- An operation whose list or table cannot be read is taken and completes with DATA (R311; 08_scratchpad.md R223). -/
def startBadTng (c : OpCtx) (s : State) (pl : TPlan) (addr : Nat) : OpRes :=
  match startTng c s pl with
  | .done s =>
    match partOfTile s c.t, s.tng.ops.getLast? with
    | some _, some o => .done (failTOp s o 5 0 0 addr)
    | _, _ => .done s
  | r => r

/-- TNG_DISPATCH: each listed token's row goes to its expert's module, and a notify after each expert's rows (R315, R316). -/
def execTngDispatch (i : Issue) (s : State) : Out :=
  issueOp "TNG_DISPATCH" 5 0x30 (tLegal true true true [0] [0] 39) (tRegs true true true) i s fun c s =>
    let m := (xreg s c.t c.th (fMod c.w)).toNat
    let n := (xreg s c.t c.th (fN c.w)).toNat
    let d : TList :=
      { list := (xreg s c.t c.th (fAl c.w)).toNat, table := (xreg s c.t c.th (fAr c.w)).toNat, e := bitsOf m 8 0,
        n := bitsOf m 25 16, rb := bitsOf n 23 0, t0 := bitsOf n 63 32, row := (xreg s c.t c.th (fVal c.w)).toNat }
    let ex := List.range d.e
    let src := [(d.list, listHead d.e + 4 * d.n * d.e), (d.table, 32 * d.e)]
    let e := spadEcc s c.t src c.ecc
    let s' := spadEccNote e.2 c.t 1 e.1
    if d.e = 0 ∨ d.e > 256 ∨ d.n = 0 ∨ d.n > 512 ∨ d.rb = 0 ∨ d.rb > 65536 ∨ d.rb % 32 ≠ 0 then .fault 2
    else if src.any (fun r => badRange s c.t r.1 r.2) then .fault 3
    else
      match e.1 with
      | .uncorrectable _ =>
        if (c.task s).isSome then .fault 6 else startBadTng c s' { opc := .put, dispatch := true, pieces := [] } d.list
      | _ =>
        if ex.any (fun x => decide (seeNat s c.t (c.task s) (d.list + 4 * x) 4 > d.n) || !(placeRsv s c d x)) then .fault 2
        else if ex.any (fun x => (expertTokens s c d x).any (badRow s c d)) then .fault 3
        else if d.row % 32 ≠ 0 ∨ ex.any (fun x => placeRow s c d x % 32 != 0 || placeNote s c d x % 8 != 0) then .fault 5
        else if (c.task s).isSome then .fault 6
        else startTng c s' { opc := .put, dispatch := true, pieces := listPieces s c d d.e 0 0 }

/-! ### Requests at their target (R301, R310, R311, R313) -/

/-- The record and word of a vote area that an address names: false GROUP, true ROOT (R137). -/
def voteWord (s : State) (sl a : Nat) : Option (Nat × Bool) :=
  let o := a - voteArea s sl
  if o % 1024 = 8 then some (o / 1024, false) else if o % 1024 = 16 then some (o / 1024, true) else none

/-- A range meets the partition's vote area. -/
def inVoteArea (s : State) (sl a n : Nat) : Bool := armed s sl && rangesOverlap a n (voteArea s sl) 4096

/-- The step that a request carries is below the partition's (R327). -/
def staleStep (s : State) (sl : Nat) (step : Option W32) : Bool :=
  match step with
  | none => false
  | some n =>
    let d := (qchStep s sl + 2 ^ 32 - n.toNat) % 2 ^ 32
    decide (1 ≤ d ∧ d ≤ 2 ^ 31)

/-! A notify to the build word goes to the sequence table (14_jobs_partitions_serving.md R362). -/

def seqOf (s : State) (sl : Nat) : SeqTable := cGet (fun _ => {}) s.seq sl

def setSeq (s : State) (sl : Nat) (x : SeqTable) : State := { s with seq := cSet (fun _ => {}) s.seq sl x }

/-- A partition created with FIXED_BATCH has no sequence table (R369). -/
def fixedBatch (s : State) (p : Nat) : Bool := cGet (fun _ => false) s.prt.fixed p

def seqEn (s : State) (sl : Nat) : Bool := rdB s (seqPg sl + 0x100) 0

/-- A trigger that the table does not take (R362, R369). -/
def rejectBuild (s : State) (sl : Nat) : State := inc s (seqPg sl + 0x198)

/-- The request is a notify to the build word of an enabled table. -/
def buildNotify (s : State) (sl : Nat) (opc : ReqOpc) (a : Nat) : Bool :=
  seqEn s sl && opc == .notify && a == rd64 s (seqPg sl + 0x148)

/-- The table takes a notify: a build is due, or the trigger is rejected. -/
def takeNotify (s : State) (sl : Nat) : State :=
  if (seqOf s sl).build.isSome then rejectBuild s sl else setSeq s sl { seqOf s sl with notified := true }

/-- What becomes of a request at its partition: refused with a status and sub-code, applied by the Quench unit with the old word,
taken by the sequence table, or accepted. -/
inductive Delivery where
  | refused (status sub : Nat) (s : State)
  | voted (old : Nat) (s : State)
  | taken (s : State)
  | accepted (s : State)
deriving DecidableEq, Repr

/-- A request meets the rules of its target in the order of R311; opc, address, bytes, TYPE, operand and step are its own. -/
def deliver (s : State) (p : Nat) (opc : ReqOpc) (a n etype x : Nat) (step : Option W32) : Delivery :=
  let sl := lowSlice s p
  let pg := tngPg sl
  let refuse := fun (bit cnt status sub : Nat) => Delivery.refused status sub (inc (intSet s pg (2 ^ bit)) (pg + cnt))
  if partState s p ≠ 2 then refuse 0 0x110 3 1
  else if opc ≠ .get ∧ isolated s sl then refuse 0 0x110 3 4
  else if inPart s p a n = false then .refused 1 0 s
  else if opc ≠ .get ∧ inVoteArea s sl a n then
    match (if opc = .fand ∧ etype = 3 then voteWord s sl a else none) with
    | some (r, root) =>
      let old := memNat s p a 8
      .voted old (if root then rootResult s p sl r x none else groupVote s p sl r x)
    | none => refuse 2 0x118 3 3
  else if opc ≠ .get ∧ staleStep s sl step then refuse 1 0x114 3 2
  else if buildNotify s sl opc a then .taken (takeNotify s sl)
  else if opc ≠ .get ∧ (declared s p a).isSome then .accepted (detectPart s p 4 a)
  else .accepted s

/-- A request's block operations are done: its status by R265 and R290, and the bytes that they read. -/
def opsAnswer (s : State) (w : OpOwner) (a n : Nat) : Option (Nat × List Byte) :=
  let ops := ownedOps s w
  if ops.all (fun o => o.stage == .served || (o.stage == .admitted && o.kind != .read)) then
    if ops.any (·.noFrame) then some (1, [])
    else if ops.any (·.failed) then some (5, [])
    else some (0, gatherBytes a n ops)
  else none

/-! ### Issue of requests (R303, R308) -/

/-- The local slots of a request. -/
def TPiece.slots (c : TPiece) : List Nat :=
  if c.llen = 0 then [] else rangeFrom (c.loc / 512) ((c.loc + c.llen - 1) / 512 + 1 - c.loc / 512)

/-- The request as Bellows's and the sorter's rules take it. -/
def TPiece.block (c : TPiece) : BPiece := { mem := c.target, len := c.tlen, spad := c.loc, off := c.off }

/-- How a request uses its local slots, by LK. -/
def TOp.use (o : TOp) : Use :=
  if o.opc = .get then (if o.lk = 1 then .produce else .poke) else skOf o.lk

/-- The packet of a request. -/
def tngPkt (s : State) (o : TOp) (c : TPiece) (tag : Nat) (data : List Byte) (self : W32) : ReqPkt :=
  let operand := leBytes 8 c.value
  let bytes := match c.opc with
    | .get => []
    | .notify => operand
    | .fadd | .fand => operand
    | .cas => operand ++ leBytes 8 o.newVal
    | _ => data
  { opc := c.opc, target := c.mod, source := self, job := o.job, addr := BitVec.ofNat 64 (c.target % 2 ^ 48),
    tile := BitVec.ofNat 8 (logicalOf s o.tile), tag := BitVec.ofNat 7 tag, etype := BitVec.ofNat 2 o.etype,
    len := if c.opc = .get then c.tlen else bytes.length, data := bytes, step := o.step, inj := s.time / 256 % 2 ^ 24 }

/-- A request leaves the tile with its tag and its deadline (R308): to a controller of the module's own partition, or into the queue of a
port. -/
def sendReq (s : State) (p : Nat) (o : TOp) (c : TPiece) (rest : List TPiece) (new : List Nat) (data : List Byte) : State :=
  let self := selfMod s p
  let own := c.mod == self
  let f := freshTng s
  let s := f.2
  let tag := pickTag s o.tile
  let s := { s with tng := { s.tng with stale := s.tng.stale.filter (fun x => x != (o.tile, tag)) } }
  let s := if c.opc = .put ∨ c.opc = .putadd then inc64 s (tngTPg o.tile + 0x118) c.llen else s
  let r : TReq := { id := f.1, tile := o.tile, op := o.id, tag := tag, deadline := s.time + rd s (tngTPg o.tile + 0x108), piece := c,
                    own := own, data := [], answer := none }
  let s := putTOp s { o with pieces := rest, live := o.live ++ [r.id], slots := o.slots ++ new, tag := false, capped := none }
  let add := fun (s : State) (r : TReq) => setTReqs s (s.tng.reqs ++ [r])
  if own then
    match deliver s p c.opc c.target c.tlen o.etype c.value o.step with
    | .refused status sub s => add s { r with answer := some (status, sub) }
    | .voted old s => add s { r with answer := some (0, 0), data := leBytes 8 old }
    | .taken s => add s { r with answer := some (0, 0) }
    | .accepted s =>
      let bytes := match c.opc with
        | .notify => leBytes 8 c.value
        | _ => data
      add (enterOps s { owner := .tng r.id, tile := some o.tile, kind := reqKind c.opc o.etype c.value o.newVal, cls := 2 } p
        (splitRange 256 c.target c.tlen) bytes) r
  else
    add (inject s
      { pkt := .req (tngPkt s o c tag data self), die := o.tile / 72, dim := none, vc := 0, key := some (16, o.id),
        more := !rest.isEmpty }) r

/-- Issue an operation's next request once its slots allow it; it holds its tag while it waits (R303, 09_bellows.md R231): its source is read, and an uncorrectable source ends the operation with DATA. -/
def issueReq (s : State) (p : Nat) (o : TOp) (c : TPiece) (rest : List TPiece) (ecc : Ecc) : State :=
  let u := o.use
  let t := o.tile
  let new := c.slots.filter (fun x => !o.slots.contains x)
  match firstBlocked s t o.task (new.map (fun x => (x, u))) with
  | some _ => putTOp s { o with tag := true }
  | none =>
    let s := if u = .produce ∨ u = .consume then
        claimFor t o.task u (fun x => ((c :: rest).filter (fun y => y.slots.contains x)).length) new s
      else s
    if o.opc = .get ∨ c.llen = 0 then sendReq s p o c rest new []
    else
      let e := spadEcc s t [(c.loc, c.llen)] ecc
      let s := spadEccNote e.2 t 1 e.1
      match e.1 with
      | .uncorrectable _ => failTOp s { o with slots := o.slots ++ new } 5 0 c.off c.target
      | _ =>
        let data := seeBytes s t o.task c.loc c.llen
        sendReq (if u = .consume then settleFor t o.task .consume c.slots s else s) p o c rest new data

/-- A request to the module's own memory waits for the bank cap and the sorter (R255, R256); one first held by the cap is counted. -/
def tngHeld (s : State) (p : Nat) (o : TOp) (c : TPiece) : Option State :=
  if c.mod ≠ selfMod s p ∨ inPart s p c.target c.tlen = false then none
  else if pieceCapped s o.tile p c.block then
    match o.capped with
    | some _ => some s
    | none => some (inc (putTOp s { o with capped := some s.time }) (tilePg o.tile 7 + 0x110))
  else if sorterRoom s o.tile p c.block then none else some s

/-- TNG_REQUEST_ISSUE: an operation's next request issues, as far as tags, slots, the sorter and the notify of a dispatch allow; a module
that has no route ends the operation with ADDR. -/
def execTngRequestIssue (tile : Fin 288) (op : Nat) (ecc : Ecc) (now : Nat) (s : State) : Out :=
  let s := tick s now
  let t := tile.val
  match findTOp s t op, partOfTile s t with
  | some o, some p =>
    match o.pieces with
    | [] => .next s
    | c :: rest =>
      if o.fail.isSome ∨ (o.tag = false ∧ tngTags s t ≥ 32) ∨ (c.last = true ∧ o.live ≠ []) then .next s
      else if c.mod ≠ selfMod s p ∧ hopTo s (t / 72) c.mod.toNat = .noRoute then
        .next (failTOp (noteNoRoute s (t / 72)) o 1 0 c.off c.target)
      else
        match tngHeld s p o c with
        | some s => .next s
        | none => .next (issueReq s p o c rest ecc)
  | some o, none => .next (failTOp s o 1 0 0 0)
  | none, _ => .next s

/-! ### Requests from other modules -/

/-- The partition whose TNG_JOB matches a job tag. -/
def partOfJob (s : State) (job : W32) : Option Nat :=
  (List.range 8).find? (fun n => partState s n != 0 && rdW s (tngPg (lowSlice s n) + 0x108) == job)

/-- A request that has arrived at a port leaves the link's list. -/
def takeArrival (s : State) (port : Nat) (p : ReqPkt) : State :=
  { s with lnk := { s.lnk with arrivals := s.lnk.arrivals.erase (port, p) } }

/-- TNG_REQUEST_ARRIVE: a request that came in at a port is delivered to the partition with its job tag, or refused. A request to the
module's own memory is delivered as it issues, and its arrival has no further effect. -/
def execTngRequestArrive (port : Option (Fin 16)) (p : ReqPkt) (_ecc : Ecc) (now : Nat) (s : State) : Out :=
  let s := tick s now
  match port with
  | none => .next s
  | some n =>
    let s := takeArrival s n p
    let die := n.val / 4
    match partOfJob s p.job with
    | none => .next (sendResponse (inc s (lnkPg n + 0x150)) die p 3 1 [])
    | some q =>
      let a := p.addr.toNat
      let span := reqSpan p.opc p.etype.toNat p.len
      let x := leNat (p.data.take 8)
      match deliver s q p.opc a span p.etype.toNat x p.step with
      | .refused status sub s => .next (sendResponse s die p status sub [])
      | .voted old s => .next (sendResponse s die p 0 0 (leBytes 8 old))
      | .taken s => .next (sendResponse s die p 0 0 [])
      | .accepted s =>
        let f := freshTng s
        let i : Inbound := { id := f.1, port := n, pkt := p, part := q, data := [], answer := none }
        let s := { f.2 with tng := { f.2.tng with inbound := f.2.tng.inbound ++ [i] } }
        .next (enterOps s { owner := .inbound i.id, tile := none,
                            kind := reqKind p.opc p.etype.toNat x (leNat (slice p.data 8 8)), cls := 2 } q
          (splitRange 256 a span) p.data)

/-- Answer the requests from other modules whose block operations are done (R304). -/
def settleInbound : List Inbound → State → State
  | [], s => s
  | i :: is, s =>
    settleInbound is
      (match opsAnswer s (.inbound i.id) i.pkt.addr.toNat (reqSpan i.pkt.opc i.pkt.etype.toNat i.pkt.len) with
       | none => s
       | some (status, data) =>
         let s := releaseOps { s with tng := { s.tng with inbound := s.tng.inbound.filter (fun x => x.id != i.id) } } (.inbound i.id)
         let back := if i.pkt.opc = .get then data else if isFetch i.pkt.opc then leBytes 8 (leNat data) else []
         sendResponse s (i.port / 4) i.pkt status 0 (if status = 0 then back else []))

/-! ### Responses and timeouts (R308, R309) -/

/-- A request has ended with a status: a GET's bytes land, a fetch's old value is kept, a failing GET's slots stay claimed. -/
def endReq (s : State) (r : TReq) (status sub : Nat) (data : List Byte) : State :=
  let s := releaseOps (setTReqs s (s.tng.reqs.filter (fun x => x.id != r.id))) (.tng r.id)
  match findTOp s r.tile r.op with
  | none => s
  | some o =>
    let o := { o with live := o.live.filter (fun x => x != r.id) }
    let c := r.piece
    let strand := fun s => if o.use = .produce then strandSlots s r.tile o.task c.slots else s
    if status ≠ 0 then failTOp (strand s) o status (if status = 3 then sub else 0) c.off c.target
    else if c.opc = .get then
      if rangeHitsCode s r.tile o.task c.loc c.llen then
        failTOp (strand (intSet s (tilePg r.tile 0) 64)) o 4 0 c.off c.target
      else
        let s := inc64 (pokeBytes s r.tile o.task c.loc data) (tngTPg r.tile + 0x120) c.llen
        settleTOp (if o.use = .produce then settleFor r.tile o.task .produce c.slots s else s) o
    else settleTOp s (if isFetch c.opc then { o with old := leNat data } else o)

/-- What has become of a request to the module's own memory. -/
def ownAnswer (s : State) (r : TReq) : Option (Nat × Nat × List Byte) :=
  match r.answer with
  | some a => if a.1 = 2 then none else some (a.1, a.2, r.data)
  | none => (opsAnswer s (.tng r.id) r.piece.target r.piece.tlen).map (fun a => (a.1, 0, a.2))

/-- A response that comes too late: counted and dropped. -/
def lateResponse (s : State) (t : Nat) : State := inc (intSet s (tngTPg t) 4) (tngTPg t + 0x12C)

/-- TNG_RESPONSE_ARRIVE: a response with its receive stamp: on time it ends its request; after the deadline, or after TIMEOUT was declared, it is
late. The answer to a request to the module's own memory is what its block operations give, once they are done. An injection of site 4 loses the response (18_safety_security_clinker.md R458). -/
def execTngResponseArrive (p : RspPkt) (stamp : Nat) (now : Nat) (s : State) : Out :=
  let s := tick s now
  let s := { s with lnk := { s.lnk with answers := s.lnk.answers.erase p } }
  match physOf s p.tile.toNat with
  | none => .next s
  | some t =>
    match s.tng.reqs.find? (fun r => r.tile == t && r.tag == p.tag.toNat) with
    | none =>
      if s.tng.stale.contains (t, p.tag.toNat) then
        .next (lateResponse { s with tng := { s.tng with stale := s.tng.stale.filter (fun x => x != (t, p.tag.toNat)) } } t)
      else .next s
    | some r =>
      match (if r.own then ownAnswer s r else some (p.status.toNat, p.sub.toNat, p.data)) with
      | none => .next s
      | some a =>
        match injectEvent s (tilePg t 10) [4] with
        | (some _, s) => .next s
        | (none, s) =>
          if stamp > r.deadline then
            .next (setTReqs (lateResponse s t)
              (s.tng.reqs.map (fun x => if x.id = r.id then { x with answer := some (2, 0) } else x)))
          else .next (endReq s r a.1 a.2.1 a.2.2)

/-- TNG_TIMEOUT: fabric time has passed the deadline by more than 64 ns, and no response on time is queued: TIMEOUT. -/
def execTngTimeout (tile : Fin 288) (tag : BitVec 7) (now : Nat) (s : State) : Out :=
  let s := tick s now
  let t := tile.val
  match s.tng.reqs.find? (fun r => r.tile == t && r.tag == tag.toNat) with
  | none => .next s
  | some r =>
    if s.time ≤ r.deadline + 64 ∨ s.lnk.answers.any (fun p => p.tag == tag && decide (physOf s p.tile.toNat = some t)) then .next s
    else
      let s := inc (intSet s (tngTPg t) 2) (tngTPg t + 0x128)
      let s := match r.answer with
        | some (2, _) => s
        | _ => { s with tng := { s.tng with stale := s.tng.stale ++ [(t, r.tag)] } }
      .next (endReq s r 2 0 [])

end Sys2Proof.Machine
end

