-- ==== Sys2Proof/Machine/Sequence.lean ====
section
/-!
DEFINITION. The sequence table (14_jobs_partitions_serving.md R359 to R367): its entries in memory, the phases of a build, suspension,
and the work list.
-/
namespace Sys2Proof.Machine

/-! ### Configuration -/

def seqPpg (s : State) (sl : Nat) : Nat := rdF s (seqPg sl + 0x104) 23 16
/-- Tokens of a group. -/
def groupTokens (s : State) (sl : Nat) : Nat := 2 ^ rdF s (seqPg sl + 0x104) 15 12
def suspEn (s : State) (sl : Nat) : Bool := rdB s (seqPg sl + 0x104) 0
def maxGroups (s : State) (sl : Nat) : Nat := rdF s (seqPg sl + 0x10C) 15 0
def seqTab (s : State) (sl : Nat) : Nat := rd64 s (seqPg sl + 0x110)
def plistOf (s : State) (sl slot : Nat) : Nat := rd64 s (seqPg sl + 0x118) + slot * maxGroups s sl * seqPpg s sl * 4
def seqHead (s : State) (sl : Nat) : Nat := rd64 s (seqPg sl + 0x140)
def seqRing (s : State) (sl : Nat) : Nat := 2 ^ rdF s (seqPg sl + 0x130) 4 0
/-- The address of a ring entry. -/
def reqAddr (s : State) (sl idx : Nat) : Nat := rd64 s (seqPg sl + 0x128) + 16 * (idx % seqRing s sl)
def seqStep (s : State) (sl : Nat) : Nat := rd64 s (seqPg sl + 0x170)
/-- The groups that a number of tokens needs (R359). -/
def groupsFor (s : State) (sl tokens : Nat) : Nat := ceilDiv tokens (groupTokens s sl)

/-! ### Entries (R360) -/

/-- An entry, but for CHECK: STATE 0 FREE, 1 JOINING, 2 ACTIVE, 3 SUSPENDED. A queued join holds its COUNT in TOKENS and no groups; a
queued resume holds its groups in the suspend area (DESIGN CHOICE, log entry 42). -/
structure SeqSlot where
  state  : Nat
  groups : Nat
  tokens : Nat
  last   : Nat
  ctx    : Nat
  plist  : Nat
  order  : Nat
deriving DecidableEq, Repr

def readSlot (s : State) (p sl n : Nat) : SeqSlot :=
  let b := memBytes s p (seqTab s sl + 64 * n) 64
  { state := leNat (slice b 0 2) % 16, groups := leNat (slice b 2 2), tokens := leNat (slice b 4 4), last := leNat (slice b 8 8),
    ctx := leNat (slice b 16 8), plist := leNat (slice b 24 8), order := leNat (slice b 32 8) }

/-- The bytes of an entry with its CHECK. -/
def slotBytes (x : SeqSlot) : List Byte :=
  let b := leBytes 2 x.state ++ leBytes 2 x.groups ++ leBytes 4 x.tokens ++ leBytes 8 x.last ++ leBytes 8 x.ctx ++ leBytes 8 x.plist ++
    leBytes 8 x.order ++ leBytes 20 0
  b ++ leBytes 4 (crc32c b).toNat

def writeSlot (s : State) (p sl n : Nat) (x : SeqSlot) : State := devWrite s p (seqTab s sl + 64 * n) (slotBytes x)

/-- The k-th to last words of a slot's page list. -/
def plistWords (s : State) (p : Nat) (x : SeqSlot) (k n : Nat) : List Nat :=
  (rangeFrom k n).map (fun i => memNat s p (x.plist + 4 * i) 4)

/-- Write words of a page list from word k. -/
def putPlist (p plist : Nat) : Nat → List Nat → State → State
  | _, [], s => s
  | k, w :: ws, s => putPlist p plist (k + 1) ws (devWrite s p (plist + 4 * k) (leBytes 4 w))

/-- Groups of the slot lie in the suspend area. -/
def inSuspend (x : SeqSlot) : Bool := x.state == 3 || (x.state == 1 && x.groups != 0)

/-! ### Pages and frames (R364) -/

/-- The page numbers of the range that are unmapped, lowest first. -/
def freePages (s : State) (p sl : Nat) : List Nat :=
  if tiered s p then
    (rangeFrom (rdF s (seqPg sl + 0x120) 26 0) (rdF s (seqPg sl + 0x124) 26 0)).filter
      (fun g => decide (g < partPages s p) && (pageEntry s p (swapOf s p g)).tier == 3)
  else []

/-- The HBM frames that are free. -/
def freeHbm (s : State) (p : Nat) : Nat := tierFrames s p 0 - (usedFrames s p 0).eraseDups.length

/-- Map pages into free HBM frames with HINT NONE and USER 0, without zero-fill (R359). -/
def mapPages (p : Nat) : List Nat → State → State
  | [], s => s
  | g :: gs, s =>
    match pickFrame s p 0 with
    | some (f, s) => mapPages p gs (setPage s p (swapOf s p g) { touch := 0, tier := 0, frame := f })
    | none => s

/-- Unmap pages and free their frames; flash units are trimmed. -/
def unmapPages (p : Nat) : List Nat → State → State
  | [], s => s
  | g :: gs, s =>
    let h := swapOf s p g
    let e := pageEntry s p h
    let s := if e.tier = 2 then zeroFrame s p 2 e.frame else s
    unmapPages p gs (setPage s p h {})

/-- Evict one HBM page of the partition one tier down (R290). -/
def seqEvict (s : State) (p sl : Nat) : Option State :=
  match victim s p 0, tierBelow s p 0 with
  | some c, some d =>
    match takeFrame 3 s p d with
    | some (f, s) => some (inc (inc (movePage s p (c.1 % 2 ^ 27) d f) (tierPg (lowSlice s p) + 0x154)) (seqPg sl + 0x18C))
    | none => none
  | _, _ => none

/-! ### The suspend area (R365) -/

/-- The slots of the table. -/
def seqSlots : List Nat := List.range 4096

/-- The groups of the suspend area that no slot holds, lowest first. -/
def freeSuspend (s : State) (p sl : Nat) : List Nat :=
  let used := (seqSlots.map (fun n =>
    let x := readSlot s p sl n
    if inSuspend x then plistWords s p x 0 x.groups else [])).flatten
  (List.range (rdF s (seqPg sl + 0x168) 15 0)).filter (fun k => !(used.contains k))

/-- The host address of page j of a group of the suspend area. -/
def suspAddr (s : State) (sl grp j : Nat) : Nat := rd64 s (seqPg sl + 0x160) + (grp * seqPpg s sl + j) * pageBytes

/-- Store bytes at offsets from a host address. -/
def putHost (base : Nat) : List (Nat × Byte) → State → State
  | [], s => s
  | (o, b) :: l, s => putHost base l (setLoc s b (.host (base + o)))

/-- Copy a page of the partition to host memory. -/
def pageToHost (s : State) (p g base : Nat) : State :=
  let e := servedBy s p g
  let cells := frameCells s p e.tier e.frame
  putHost base cells
    { s with mem := { s.mem with host := cDrop s.mem.host (fun k => decide (base ≤ k ∧ k < base + pageBytes)) } }

/-- Copy host memory to a page of the partition in HBM. -/
def hostToPage (s : State) (p g base : Nat) : State :=
  let e := servedBy s p g
  let cells := s.mem.host.filterMap (fun c => (linOffset base c.1).map (fun o => (o, c.2)))
  let s := touchPage (putFrame p e.tier e.frame cells (zeroFrame s p e.tier e.frame)) p (g * pageBytes)
  markDirty s p g

/-- Copy the pages of groups, PPG to a group, to or from the groups of the suspend area named. -/
def copyGroups (f : State → Nat → Nat → State) (sl ppg : Nat) (pages : List Nat) : Nat → List Nat → State → State
  | _, [], s => s
  | i, grp :: gs, s =>
    copyGroups f sl ppg pages (i + 1) gs
      ((List.range ppg).foldl (fun s j => f s (nth 0 pages (i * ppg + j)) (suspAddr s sl grp j)) s)

/-! ### A build (R362 to R364) -/

/-- A request: its ring index, its bytes' fields. -/
structure SeqReq where
  idx    : Nat
  op     : Nat
  status : Nat
  slot   : Nat
  count  : Nat
  ctx    : Nat
deriving DecidableEq, Repr

def readReq (s : State) (p sl idx : Nat) : SeqReq :=
  let b := memBytes s p (reqAddr s sl idx) 16
  { idx := idx, op := leNat (slice b 0 1), status := leNat (slice b 1 1), slot := leNat (slice b 2 2), count := leNat (slice b 4 4),
    ctx := leNat (slice b 8 8) }

/-- The request keeps the formats of R361. -/
def reqFormat (r : SeqReq) : Bool :=
  decide (1 ≤ r.op ∧ r.op ≤ 5 ∧ r.status = 0 ∧ r.slot < 4096) &&
    (match r.op with
     | 1 => decide (1 ≤ r.count)
     | 2 => decide (1 ≤ r.count ∧ r.count ≤ 512)
     | 4 => true
     | _ => decide (r.count = 0)) && (r.op == 1 || r.ctx == 0)

/-- The slot's state does not allow the operation. -/
def badState (x : SeqSlot) (op : Nat) : Bool :=
  match op with
  | 1 => x.state != 0
  | 2 | 4 => x.state != 2
  | 5 => x.state != 3
  | _ => x.state == 0

/-- Phase 0: the status that a request meets at once; none where it stands. -/
def screen (s : State) (p sl : Nat) (all : List SeqReq) (r : SeqReq) : Option Nat :=
  let same := all.filter (fun x => reqFormat x && x.slot == r.slot)
  let stands := match same.find? (fun x => x.op == 3) with
    | some l => l.idx
    | none => (same.head?.map (·.idx)).getD r.idx
  if reqFormat r = false then some 6
  else if r.idx ≠ stands then some 5
  else if badState (readSlot s p sl r.slot) r.op then some 4
  else none

/-- A build in progress: the machine, the statuses so far, the work list, and its flags: 1 DEFERRED, 2 SUSPENDED, 4 HELD, 8 EVICTED. -/
structure Bld where
  s     : State
  stats : List (Nat × Nat) := []
  work  : List (Nat × List Byte) := []
  flags : Nat := 0
deriving DecidableEq, Repr

/-- The outcome of a request, with what it counts and signals (R370, R371). -/
def Bld.status (b : Bld) (sl idx code : Nat) : Bld :=
  let pg := seqPg sl
  let s := if 4 ≤ code then inc (intSet b.s pg 32) (pg + 0x19C) else b.s
  { b with s := s, stats := b.stats ++ [(idx, code)] }

/-- A deferral. -/
def Bld.defer (b : Bld) (sl : Nat) : Bld :=
  { b with s := inc (intSet b.s (seqPg sl) 2) (seqPg sl + 0x188), flags := b.flags ||| 1 }

/-- A work-list entry (R367). -/
def workEntry (n join rows pos : Nat) (x : SeqSlot) : Nat × List Byte :=
  (n, leBytes 2 n ++ leBytes 2 join ++ leBytes 4 rows ++ leBytes 4 pos ++ leBytes 4 x.groups ++ leBytes 8 x.ctx ++ leBytes 8 x.plist)

/-- LEAVE (R363). -/
def Bld.leave (b : Bld) (p sl : Nat) (r : SeqReq) : Bld :=
  let x := readSlot b.s p sl r.slot
  let s := if x.state = 2 then unmapPages p (plistWords b.s p x 0 (x.groups * seqPpg b.s sl)) b.s else b.s
  let s := inc (writeSlot s p sl r.slot { x with state := 0, groups := 0, tokens := 0 }) (seqPg sl + 0x184)
  Bld.status { b with s := s } sl r.idx 1

/-- TRIM (R363). -/
def Bld.trim (b : Bld) (p sl : Nat) (r : SeqReq) : Bld :=
  let x := readSlot b.s p sl r.slot
  if x.tokens < r.count then b.status sl r.idx 4
  else
    let keep := min x.groups (groupsFor b.s sl r.count)
    let ppg := seqPpg b.s sl
    let s := unmapPages p (plistWords b.s p x (keep * ppg) ((x.groups - keep) * ppg)) b.s
    Bld.status { b with s := writeSlot s p sl r.slot { x with tokens := r.count, groups := keep } } sl r.idx 1

/-- SUSPEND: copy a sequence to the suspend area and free its pages (R365). -/
def Bld.suspend (b : Bld) (p sl n : Nat) (dst : List Nat) : Bld :=
  let x := readSlot b.s p sl n
  let ppg := seqPpg b.s sl
  let pages := plistWords b.s p x 0 (x.groups * ppg)
  let s := copyGroups (fun s g a => pageToHost s p g a) sl ppg pages 0 dst b.s
  let s := putPlist p x.plist 0 dst (unmapPages p pages s)
  let s := writeSlot s p sl n { x with state := 3 }
  { b with s := inc (intSet s (seqPg sl) 4) (seqPg sl + 0x190), flags := b.flags ||| 2 }

/-- The candidate of R365: an ACTIVE sequence with no request in the build and the smallest LAST_STEP, the lower slot on a tie. -/
def candidate (s : State) (p sl : Nat) (named : List Nat) : Option Nat :=
  let xs := (seqSlots.map (fun n => (n, readSlot s p sl n))).filter (fun c => c.2.state == 2 && !(named.contains c.1))
  match xs with
  | [] => none
  | c :: cs => some (cs.foldl (fun a b => if b.2.last < a.2.last then b else a) c).1

/-- Suspend one sequence, if one may be suspended and the suspend area has room. -/
def Bld.suspendOne (b : Bld) (p sl : Nat) (named : List Nat) : Option Bld × Bld :=
  if suspEn b.s sl = false then (none, b)
  else
    match candidate b.s p sl named with
    | none => (none, b)
    | some n =>
      let x := readSlot b.s p sl n
      let fr := freeSuspend b.s p sl
      if fr.length < x.groups then (none, { b with s := intSet b.s (seqPg sl) 16 })
      else (some (b.suspend p sl n (fr.take x.groups)), b)

/-- Make room for a number of pages: evict, then suspend (R364). -/
def makeRoom (p sl need : Nat) (named : List Nat) : Nat → Bld → Bool × Bld
  | 0, b => (false, b)
  | fuel + 1, b =>
    let press := fun (b : Bld) =>
      match b.suspendOne p sl named with
      | (some b, _) => makeRoom p sl need named fuel b
      | (none, b) => (false, b)
    if (freePages b.s p sl).length < need then press b
    else if need ≤ freeHbm b.s p then (true, b)
    else
      match seqEvict b.s p sl with
      | some s => makeRoom p sl need named fuel { b with s := s, flags := b.flags ||| 8 }
      | none => press { b with s := noteFull b.s p }

/-- Give a slot new groups from free pages. -/
def takeGroups (s : State) (p sl plist have_ n : Nat) : State :=
  let ppg := seqPpg s sl
  let pages := (freePages s p sl).take (n * ppg)
  putPlist p plist (have_ * ppg) pages (mapPages p pages s)

/-- EXTEND (R363, R364). -/
def Bld.extend (b : Bld) (p sl : Nat) (named : List Nat) (r : SeqReq) : Bld :=
  let x := readSlot b.s p sl r.slot
  let g := groupsFor b.s sl (x.tokens + r.count)
  if g > maxGroups b.s sl then b.status sl r.idx 7
  else
    let need := (g - x.groups) * seqPpg b.s sl
    match makeRoom p sl need named (need + 4098) b with
    | (false, b) =>
      Bld.status { b with s := inc (intSet b.s (seqPg sl) 8) (seqPg sl + 0x194), flags := b.flags ||| 4 } sl r.idx 3
    | (true, b) =>
      let s := takeGroups b.s p sl x.plist x.groups (g - x.groups)
      let y := { x with groups := max g x.groups, tokens := x.tokens + r.count, last := seqStep s sl }
      Bld.status { b with s := writeSlot s p sl r.slot y, work := b.work ++ [workEntry r.slot 0 r.count x.tokens y] } sl r.idx 1

/-- The pages that the groups of a queued join or resume need. -/
def queueNeed (s : State) (sl : Nat) (x : SeqSlot) : Nat :=
  (if x.groups = 0 then groupsFor s sl x.tokens else x.groups) * seqPpg s sl

/-- A queued join or resume takes its groups (R363). -/
def Bld.takeIn (b : Bld) (p sl n : Nat) (x : SeqSlot) : Bld :=
  let s := b.s
  let step := seqStep s sl
  if x.groups = 0 ∧ x.tokens ≠ 0 then
    let g := groupsFor s sl x.tokens
    let s := takeGroups s p sl x.plist 0 g
    let y := { x with state := 2, groups := g, last := step }
    { b with s := inc (writeSlot s p sl n y) (seqPg sl + 0x180), work := b.work ++ [workEntry n 1 x.tokens 0 y] }
  else
    let ppg := seqPpg s sl
    let grps := plistWords s p x 0 x.groups
    let pages := (freePages s p sl).take (x.groups * ppg)
    let s := mapPages p pages s
    let s := copyGroups (fun s g a => hostToPage s p g a) sl ppg pages 0 grps s
    { b with s := writeSlot (putPlist p x.plist 0 pages s) p sl n { x with state := 2, last := step } }

/-- The joins and resumes in queue order; after the first that cannot, every later one is deferred. idx is the request of this build. -/
def Bld.joins (p sl : Nat) : List (Nat × Option Nat) → Bool → Bld → Bld
  | [], _, b => b
  | (n, idx) :: l, blocked, b =>
    let x := readSlot b.s p sl n
    let need := queueNeed b.s sl x
    let stop := blocked || decide ((freePages b.s p sl).length < need) || decide (freeHbm b.s p < need)
    let b := if stop then b.defer sl else b.takeIn p sl n x
    let b := match idx with
      | some i => b.status sl i (if stop then 2 else 1)
      | none => b
    Bld.joins p sl l stop b

/-- Queue a JOIN or RESUME of this build; a JOIN that could never be held is TOO_LONG. -/
def Bld.enqueue (b : Bld) (p sl : Nat) (r : SeqReq) : Bld × Bool :=
  let x := readSlot b.s p sl r.slot
  if r.op = 1 then
    if groupsFor b.s sl r.count > maxGroups b.s sl then (b.status sl r.idx 7, false)
    else
      let y : SeqSlot := { state := 1, groups := 0, tokens := r.count, last := 0, ctx := r.ctx, plist := plistOf b.s sl r.slot,
                           order := r.idx }
      ({ b with s := writeSlot b.s p sl r.slot y }, true)
  else ({ b with s := writeSlot b.s p sl r.slot { x with state := 1, order := r.idx } }, true)

/-- Insert by key. -/
def insertKey {α : Type} (k : α → Nat) (x : α) : List α → List α
  | [] => [x]
  | y :: ys => if k x < k y then x :: y :: ys else y :: insertKey k x ys

/-- Sort by key; equal keys keep their order. -/
def sortKey {α : Type} (k : α → Nat) (l : List α) : List α := l.foldl (fun a x => insertKey k x a) []

/-- The joins and resumes that earlier builds have queued, in queue order. -/
def queuedSlots (s : State) (p sl : Nat) : List Nat :=
  ((sortKey (fun c => c.2) ((seqSlots.map (fun n => (n, readSlot s p sl n))).filterMap
    (fun c => if c.2.state = 1 then some (c.1, c.2.order) else none)))).map (·.1)

/-- The phases of a build over its requests (R363). -/
def runBuild (s : State) (p sl : Nat) (reqs : List SeqReq) : Bld :=
  let named := reqs.map (·.slot)
  let verdicts := reqs.map (fun r => (r, screen s p sl reqs r))
  let start : Bld := { s := s }
  let b := verdicts.foldl (fun b v => match v.2 with
    | some c => Bld.status b sl v.1.idx c
    | none => b) start
  let ok := (verdicts.filter (fun v => v.2.isNone)).map (·.1)
  let b := (sortKey (·.slot) (ok.filter (fun r => r.op == 3 || r.op == 4))).foldl
    (fun b r => if r.op = 3 then b.leave p sl r else b.trim p sl r) b
  let b := (sortKey (·.slot) (ok.filter (fun r => r.op == 2))).foldl (fun b r => b.extend p sl named r) b
  let old := (queuedSlots b.s p sl).map (fun n => (n, (none : Option Nat)))
  let q := (ok.filter (fun r => r.op == 1 || r.op == 5)).foldl (fun (q : Bld × List (Nat × Option Nat)) r =>
    match q.1.enqueue p sl r with
    | (b, true) => (b, q.2 ++ [(r.slot, some r.idx)])
    | (b, false) => (b, q.2)) (b, [])
  Bld.joins p sl (old ++ q.2) false q.1

/-- A build starts: SEQ_STEP, the tail, the phases (R362). -/
def startBuild (s : State) (p sl : Nat) : State :=
  let s := setSeq s sl { seqOf s sl with notified := false }
  let s := inc64 s (seqPg sl + 0x170) 1
  let head := seqHead s sl
  let tail := memNat s p (rd64 s (seqPg sl + 0x138)) 8
  let n := min ((tail + 2 ^ 64 - head) % 2 ^ 64) (seqRing s sl)
  let b := runBuild s p sl ((rangeFrom head n).map (readReq s p sl))
  let done : SeqBuild := { tail := tail, statuses := b.stats, work := b.work, flags := b.flags }
  setSeq b.s sl { seqOf b.s sl with build := some done }

/-- BUILD: a write of SEQ_CTL.BUILD, or a notify that has reached the build word. -/
def execBuild (slice : Fin 8) (trigger : BuildTrigger) (now : Nat) (s : State) : Out :=
  let s := tick s now
  let sl := slice.val
  match partOfSlice s sl with
  | none => .next s
  | some p =>
    if lowSlice s p ≠ sl ∨ (trigger = .notify ∧ (seqOf s sl).notified = false) then .next s
    else if fixedBatch s p then .next (rejectBuild s sl)
    else if seqEn s sl = false then .next s
    else if (seqOf s sl).build.isSome then .next (rejectBuild s sl)
    else .next (startBuild s p sl)

/-- Write the requests' statuses. -/
def putStatuses (p sl : Nat) : List (Nat × Nat) → State → State
  | [], s => s
  | (i, c) :: l, s => putStatuses p sl l (devWrite s p (reqAddr s sl i + 1) (leBytes 1 c))

/-- BUILD_DONE: the work list, the head, the statuses and the done notify (R367). -/
def execBuildDone (slice : Fin 8) (now : Nat) (s : State) : Out :=
  let s := tick s now
  let sl := slice.val
  match partOfSlice s sl, (seqOf s sl).build with
  | some p, some b =>
    let step := seqStep s sl
    let work := sortKey (·.1) b.work
    let s := if work = [] then s
      else devWrite s p (rd64 s (seqPg sl + 0x158) + step % 2 * 0x20000) (work.map (·.2)).flatten
    let s := wr64 s (seqPg sl + 0x140) b.tail
    let s := putStatuses p sl b.statuses s
    let s := devWrite64 s p (rd64 s (seqPg sl + 0x150)) (step % 2 ^ 32 + work.length * 2 ^ 32 + b.flags * 2 ^ 45)
    let s := if (seqOf s sl).offDue then wrB s (seqPg sl + 0x100) 0 false else s
    let s := setSeq s sl { seqOf s sl with build := none, offDue := false }
    let s := intSet s (seqPg sl) 1
    .next { s with cal := { s.cal with called := cSet (fun _ => false) s.cal.called p true } }
  | _, _ => .next s

end Sys2Proof.Machine
end

