-- ==== Sys2Proof/Machine/BilletCore.lean ====
section
/-!
DEFINITION. Billets: the table, the groups and stripes, the layout of the region, the digests and the manifest, and the start of a
billet (15_billets_and_recovery.md R373 to R385).
-/
namespace Sys2Proof.Machine

def bltOf (s : State) (sl : Nat) : Billet := cGet (fun _ => {}) s.blt sl

def setBlt (s : State) (sl : Nat) (x : Billet) : State := { s with blt := cSet (fun _ => {}) s.blt sl x }

def bltEn (s : State) (sl : Nat) : Bool := rdB s (bltPg sl + 0x100) 0
def bltPhase (s : State) (sl : Nat) : Nat := rdF s (bltPg sl + 0x104) 3 0

/-- PHASE, and with it BUSY. -/
def setPhase (s : State) (sl n : Nat) : State := wrB (wrF s (bltPg sl + 0x104) 3 0 n) (bltPg sl + 0x104) 8 (n != 0)

/-- LAST_STATUS. -/
def setBltStatus (s : State) (sl code : Nat) : State := wrF s (bltPg sl + 0x104) 31 24 code

/-! ### The table (R373) -/

/-- An entry: its index, BASE, PAGES, METHOD. -/
structure BltEntry where
  idx    : Nat
  base   : Nat
  pages  : Nat
  method : Nat
deriving DecidableEq, Repr

def bltTab (s : State) (sl : Nat) : Nat := rd64 s (bltPg sl + 0x110)
def bltCount (s : State) (sl : Nat) : Nat := rdF s (bltPg sl + 0x118) 9 0

def readEntry (s : State) (p sl i : Nat) : BltEntry :=
  let a := bltTab s sl + 32 * i
  { idx := i, base := memNat s p a 8, pages := memNat s p (a + 8) 4, method := memNat s p (a + 12) 1 }

def bltEntries (s : State) (p sl : Nat) : List BltEntry := (List.range (bltCount s sl)).map (readEntry s p sl)

/-- The order of the image: PARITY entries, then MIRROR entries (R376). -/
def imageOrder (l : List BltEntry) : List BltEntry := l.filter (fun e => e.method == 0) ++ l.filter (fun e => e.method != 0)

/-- An image page: its number, the entry that it belongs to, and its live page's number in the partition. -/
structure ImgPage where
  num   : Nat
  entry : Nat
  page  : Nat
deriving DecidableEq, Repr

def numberPages : Nat → List BltEntry → List ImgPage
  | _, [] => []
  | k, e :: l =>
    (List.range e.pages).map (fun j => { num := k + j, entry := e.idx, page := e.base / pageBytes + j }) ++ numberPages (k + e.pages) l

/-- The image, in page order. -/
def imagePages (s : State) (p sl : Nat) : List ImgPage := numberPages 0 (imageOrder (bltEntries s p sl))

def sumPages (l : List BltEntry) : Nat := sumNat (l.map (·.pages))
/-- I, and the PARITY pages among it. -/
def imageCount (s : State) (p sl : Nat) : Nat := sumPages (bltEntries s p sl)
def parityImage (s : State) (p sl : Nat) : Nat := sumPages ((bltEntries s p sl).filter (fun e => e.method == 0))

/-! ### Groups and stripes (R375, R376) -/

/-- The membership count and this module's vote index. -/
def memberCnt (s : State) (sl : Nat) : Nat := rdF s (qchPg sl + 0x128) 11 0
def bltPos (s : State) (sl : Nat) : Nat := selfIdx s sl % 8
def groupBase (s : State) (sl : Nat) : Nat := selfIdx s sl - bltPos s sl
/-- G. -/
def bltGroup (s : State) (sl : Nat) : Nat := min 8 (memberCnt s sl - groupBase s sl)
/-- The buddy's vote index. -/
def buddyOf (s : State) (sl : Nat) : Nat := groupBase s sl + (bltPos s sl + 1) % bltGroup s sl
/-- The module id of a member: of the table that Quench has loaded, else of the table in memory. -/
def memberId (s : State) (p sl i : Nat) : W32 :=
  match (membersOf s sl)[i]? with
  | some m => m
  | none => BitVec.ofNat 32 (memNat s p (rd64 s (qchPg sl + 0x120) + 4 * i) 4)

def stripePages (s : State) (sl : Nat) : Nat := rdF s (bltPg sl + 0x12C) 26 0
def mirrorPages (s : State) (sl : Nat) : Nat := rdF s (bltPg sl + 0x130) 26 0
/-- The parity pages that this member holds. -/
def parityCount (s : State) (sl : Nat) : Nat := stripePages s sl / (bltGroup s sl - 1)
/-- The stripe of parity page r. -/
def stripeOf (s : State) (sl r : Nat) : Nat := r * bltGroup s sl + bltPos s sl

/-! ### The region (R383) -/

/-- The pages of one generation, BLT_GEN_PAGES. -/
def genPages (s : State) (p sl : Nat) : Nat := 2 + imageCount s p sl + parityCount s sl + mirrorPages s sl
/-- The address of generation g: its own manifest. -/
def genAddr (s : State) (p sl g : Nat) : Nat := rd64 s (bltPg sl + 0x120) + g * genPages s p sl * pageBytes
def buddyManifest (s : State) (p sl g : Nat) : Nat := genAddr s p sl g + pageBytes
def imageAddr (s : State) (p sl g j : Nat) : Nat := genAddr s p sl g + (2 + j) * pageBytes
def parityAddr (s : State) (p sl g r : Nat) : Nat := genAddr s p sl g + (2 + imageCount s p sl + r) * pageBytes
def mirrorAddr (s : State) (p sl g j : Nat) : Nat :=
  genAddr s p sl g + (2 + imageCount s p sl + parityCount s sl + j) * pageBytes
/-- The address of digest j of a manifest. -/
def digestAddr (manifest j : Nat) : Nat := manifest + 0x1000 + 32 * j

/-! ### Digests (R380) -/

def pageData (s : State) (p a : Nat) : List Byte := memBytes s p a pageBytes

/-- SHAKE256 over a page and its place. -/
def pageDigest (b : List Byte) (step member index : Nat) : List Byte :=
  shake256 (b ++ leBytes 8 step ++ leBytes 4 member ++ leBytes 4 index) 32

/-! ### Dirty bits (R379) -/

def dirtyBits (s : State) (p g : Nat) : Bool × Bool := cGet (fun _ => (true, true)) s.mem.dirty (2 ^ 27 * p + g)
/-- Dg of a page. -/
def dirtyIn (s : State) (p g gen : Nat) : Bool := if gen = 0 then (dirtyBits s p g).1 else (dirtyBits s p g).2
/-- Clear Dg. -/
def cleanIn (s : State) (p g gen : Nat) : State :=
  let d := dirtyBits s p g
  let d' := if gen = 0 then (false, d.2) else (d.1, false)
  { s with mem := { s.mem with dirty := cSet (fun _ => (true, true)) s.mem.dirty (2 ^ 27 * p + g) d' } }

/-! ### The engine's messages -/

/-- Post a put of bytes, in packets of at most 256 bytes, or one word to another member's partition; tile and tag are open. -/
def postOne (s : State) (p : Nat) (target : W32) (opc : ReqOpc) (addr : Nat) (data : List Byte) : State :=
  let f := drawFree s
  let s := f.2
  let m : ReqPkt :=
    { opc := opc, target := target, source := selfMod s p, job := BitVec.ofNat 32 (partJob s p), addr := BitVec.ofNat 64 addr,
      tile := BitVec.ofNat 8 f.1, tag := BitVec.ofNat 7 (f.1 / 256), etype := 3, len := data.length, data := data, step := none,
      inj := s.time / 256 % 2 ^ 24 }
  { s with qch := { s.qch with posted := s.qch.posted ++ [m] } }

def postBytes (p : Nat) (target : W32) : Nat → Nat → List Byte → State → State
  | 0, _, _, s => s
  | n + 1, addr, data, s =>
    if data = [] then s else postBytes p target n (addr + 256) (data.drop 256) (postOne s p target .put addr (data.take 256))

/-- PUT a range of bytes. -/
def postRange (s : State) (p : Nat) (target : W32) (addr : Nat) (data : List Byte) : State :=
  postBytes p target (data.length / 256 + 1) addr data s

/-! ### Start (R373, R374, R378) -/

/-- The table and the configuration keep the forms of R373, R375, R376 and R383. -/
def bltFormatOk (s : State) (p sl : Nat) : Bool :=
  let es := bltEntries s p sl
  let g := bltGroup s sl
  decide (1 ≤ bltCount s sl ∧ 2 ≤ g) && es.all (fun e => e.base % pageBytes == 0 && e.pages != 0 && decide (e.method ≤ 1)) &&
    stripePages s sl % (g - 1) == 0 && decide (parityImage s p sl ≤ stripePages s sl) &&
    decide (imageCount s p sl + parityCount s sl ≤ 65408 ∧ 2 * genPages s p sl ≤ rdF s (bltPg sl + 0x128) 26 0)

/-- Every listed page is in HBM. -/
def bltPagesOk (s : State) (p sl : Nat) : Bool :=
  (imagePages s p sl).all (fun i => inPart s p (i.page * pageBytes) pageBytes && tierAt s p (i.page * pageBytes) == 0)

/-- The entries that the next billet copies whole: all at the first, else those whose PAGES or METHOD changed. -/
def wholeEntries (s : State) (p sl : Nat) : List Nat :=
  let b := bltOf s sl
  ((bltEntries s p sl).filter (fun e => b.first || b.table[e.idx]? != some (e.pages, e.method))).map (·.idx)

/-- BILLET_START: an armed billet starts at a committed step at or beyond its due step, unless a listed page is outside HBM or the
configuration is malformed. A trickle of the same generation is abandoned (R385). -/
def billetStart (s : State) (p sl step : Nat) : State :=
  let pg := bltPg sl
  if !(bltEn s sl) || !(rdB s (pg + 0x100) 1) || decide (step < rd64 s (pg + 0x138)) || bltPhase s sl != 0 then s
  else if bltFormatOk s p sl = false then setBltStatus s sl 4
  else if bltPagesOk s p sl = false then setBltStatus s sl 5
  else
    let k := rd64 s (pg + 0x148) + 1
    let b := bltOf s sl
    let gone := b.trickles.filter (fun t => t.gen == k % 2)
    let run : BilletRun :=
      { billet := k, step := step, gen := k % 2, start := s.time, commits := rd64 s (qchPg sl + 0x180),
        skips := rd64 s (qchPg sl + 0x188), loss := rd s (qchPg sl + 0x10C), whole := wholeEntries s p sl, copied := [],
        opened := s.cln.next }
    let tab := (bltEntries s p sl).map (fun e => (e.pages, e.method))
    let s := setBlt s sl { b with run := some run, first := false, table := tab, trickles := b.trickles.filter (fun t => t.gen != k % 2) }
    let s := incBy s (pg + 0x1B4) gone.length
    let s := if gone = [] then s
      else
        let slot := (rdF s (pg + 0x158) 26 0 + (if k % 2 = 1 then 1 + imageCount s p sl else 0)) * pageBytes
        let s := { s with mem := { s.mem with billet := cDrop s.mem.billet (fun x => decide (slot ≤ x ∧ x < slot + pageBytes)) } }
        if (bltOf s sl).trickles = [] then wrB s (pg + 0x104) 9 false else s
    let s := wrB (setPhase s sl 1) (pg + 0x100) 1 false
    clinker s { cat := 7, code := 1, page := pg, part := p, opens := true, payload := some (leBytes 8 k ++ leBytes 8 step) }

/-- A billet or restore ends early with a status: nothing is sealed (R382). The caller applies a COMMIT that was waiting. -/
def billetEnd (s : State) (p sl code : Nat) : State :=
  let pg := bltPg sl
  let b := bltOf s sl
  match b.run with
  | some r =>
    let s := setBlt s sl { b with run := none }
    let s := inc (intSet (setBltStatus (setPhase s sl 0) sl code) pg 2) (pg + 0x1AC)
    clinker s { cat := 7, code := 3, page := pg, part := p, closes := some r.opened }
  | none =>
    match b.restore with
    | some _ => intSet (setBltStatus (setPhase (setBlt s sl { b with restore := none }) sl 0) sl code) pg (if code = 6 then 6 else 4)
    | none => s

end Sys2Proof.Machine
end

