-- ==== Sys2Proof/Machine/CalCore.lean ====
section
/-!
DEFINITION. Calibration records (17_startup_calibration.md R430 to R432): their kinds and instances, the load band, the records due.
-/
namespace Sys2Proof.Machine

/-- The compute dies that a UCIe pair joins: 0 to 3 with HD, 4 to 7 the ring, 8 SD's (PRESUMED, log entry 43). -/
def pairDies (n : Nat) : List Nat :=
  if n < 4 then [n] else if n < 8 then [n - 4, (n - 3) % 4] else [0, 1, 2, 3]

/-- The slices whose partitions a record belongs to, by 4096 * KIND + INSTANCE. -/
def recSlices (key : Nat) : List Nat :=
  let i := key % 4096
  let ofDies := fun (l : List Nat) => (l.map (fun d => [2 * d, 2 * d + 1])).flatten
  match key / 4096 with
  | 1 | 2 => [i / 4]
  | 3 => [i / 9 / 2]
  | 4 => ofDies (pairDies i)
  | 6 => ofDies [i]
  | _ => List.range 8

/-- The key of a record. -/
def recKey (kind inst : Nat) : Nat := 4096 * kind + inst

/-- The record of a key, if it is VALID. -/
def calRec (s : State) (k : Nat) : Option CalRec := cGet (fun _ => none) s.cal.recs k

def setCal (s : State) (c : Cal) : State := { s with cal := c }

/-- The present load band (R431, R437). -/
def loadNow (s : State) : Nat := rdF s (calPg + 0x110) 1 0

/-- SP_CAL_STAT.DUE shows the kinds of the records due. -/
def showDue (s : State) : State :=
  wrF s (calPg + 0x110) 21 16 (sumNat ((List.range 6).map (fun k => if s.cal.due.any (fun x => x / 4096 == k + 1) then 2 ^ k else 0)))

/-- A record is due. -/
def addDue (s : State) (k : Nat) : State :=
  if s.cal.due.contains k then s else showDue (setCal s { s.cal with due := s.cal.due ++ [k] })

/-- A new record is written: in band, taken now at a temperature and in the present load band; it is due no longer. -/
def takeRec (s : State) (k temp : Nat) : State :=
  let r : CalRec := { oob := false, load := loadNow s, temp := temp % 256, taken := s.time / 2 ^ 20 % 2 ^ 32 }
  showDue (setCal s { s.cal with recs := cSet (fun _ => none) s.cal.recs k (some r), due := s.cal.due.filter (fun x => x != k) })

/-- The temperature source of a record among readings in °C: the stacks 0 to 31, the compute dies at 32 to 35, HD at 36, SD at 37
(R430). -/
def recTemp (temps : List Nat) (k : Nat) : Nat :=
  let i := k % 4096
  let die := fun d => nth 0 temps (32 + d)
  match k / 4096 with
  | 1 | 2 => nth 0 temps i
  | 3 => die (i / 9 / 4)
  | 4 => (pairDies i).foldl (fun m d => max m (die d)) (if i < 4 then nth 0 temps 36 else if i < 8 then 0 else nth 0 temps 37)
  | 6 => die i
  | _ => (temps.drop 32).foldl max 0

/-- A record of a kind that widens the guard is out of band (R432). -/
def guardBad (s : State) : Bool :=
  s.cal.recs.any (fun c => [1, 2, 4, 5, 6].contains (c.1 / 4096) && match c.2 with
    | some r => r.oob
    | none => false)

/-- The estimator's set nearest a temperature and load band: 4 * band + load, bands centred at 33, 49, 65, 81, 97 °C (R431). -/
def nearestSet (temp load : Nat) : Nat :=
  4 * (if temp ≤ 41 then 0 else if temp ≤ 57 then 1 else if temp ≤ 73 then 2 else if temp ≤ 89 then 3 else 4) + load

/-- A window is gone: the stacks that it holds are released, and ACTIVE is clear with the last one. -/
def dropWindow (s : State) (k : Nat) : State :=
  match cGet (fun _ => none) s.cal.windows k with
  | none => s
  | some w =>
    let s := { s with mem := { s.mem with paused := w.stackIds.foldl (fun m c => cSet (fun _ => false) m c false) s.mem.paused } }
    let s := setCal s { s.cal with windows := cSet (fun _ => none) s.cal.windows k none }
    wrB s (calPg + 0x110) 31 (!s.cal.windows.isEmpty)

/-- The guard in force: HRT_STAT.GUARD_WIDE and its interrupt (16_hearth_power_thermal.md R403). -/
def evalGuard (s : State) : State :=
  let wide := guardBad s || rdB s (hrtPg + 0x104) 4
  let was := rdB s (hrtPg + 0x104) 3
  let s := wrB { s with hrt := { s.hrt with bandBad := guardBad s } } (hrtPg + 0x104) 3 wide
  if wide && !was then intSet s hrtPg 64 else s

end Sys2Proof.Machine
end

