-- ==== Sys2Proof/Machine/Outcome.lean ====
section
/-!
DEFINITION. Applying the outcome of a step (05_update_pass_quench_temper.md R135, R140, R142 to R144, R147; 04_formats_rounding_spark.md
R114, R115; 15_billets_and_recovery.md R378, R382; 17_startup_calibration.md R433).
-/
namespace Sys2Proof.Machine

/-! ### Calibration records of a partition (R433) -/

/-- The records due for the units of a partition. -/
def dueFor (s : State) (p : Nat) : List Nat :=
  s.cal.due.filter (fun k => (recSlices k).any (fun sl => (partMask s p).testBit sl))

/-! ### The actions of R143 -/

/-- SHADOW_COMMIT: the shadow of each written page becomes live; watched prefetches of it are invalidated and it is dirty (R135,
R237, R379). -/
def commitPages (s : State) (p sl : Nat) : State :=
  let s := ((shadowTable s p).filter (fun e => e.count != 0)).foldl (fun s e =>
    let a := swapOf s p e.page
    let b := swapOf s p e.shadow
    let s := setSwap (setSwap s p e.page b) p e.shadow a
    markDirty (sendInval s none (fun x => x.part == p && x.piece.mem / pageBytes == e.page)) p e.page) s
  discardPages s p sl

/-- Mark the step's pending Temper records COMMITTED or DISCARDED (R147). -/
def markTemper (s : State) (p sl step : Nat) (commit : Bool) : State :=
  if rdB s (tmpPg sl + 0x100) 0 then
    (List.range (2 ^ rdF s (tmpPg sl + 0x104) 4 0)).foldl (fun s i =>
      let a := temperAddr s sl i
      let fl := memNat s p (a + 10) 2
      if memNat s p a 8 = step ∧ fl.testBit 0 then
        let b := memBytes s p a 28
        devWrite s p a (withCheck (b.take 10 ++ leBytes 2 (putBits fl 2 0 (if commit then 2 else 4)) ++ b.drop 12))
      else s) s
  else s

/-- LOSS_SCALE_UPDATE (R144): a change of LS_EXP is signalled. -/
def lossScale (s : State) (sl : Nat) (commit nonfinite : Bool) : State :=
  let pg := qchPg sl
  let e := toSigned 8 (rdF s (pg + 0x10C) 7 0)
  let run := rdF s (pg + 0x10C) 23 8
  let growth := rdF s (pg + 0x104) 31 16
  let hi := toSigned 8 (rdF s (pg + 0x104) 15 8)
  let lo := toSigned 8 (rdF s (pg + 0x104) 7 0)
  let r : Int × Nat :=
    if commit then (if growth ≠ 0 ∧ run + 1 = growth then (min (e + 1) hi, 0) else (e, min (run + 1) 0xFFFF))
    else if nonfinite then (max (e - 1) lo, 0)
    else (e, run)
  let s' := wrF (wrF s (pg + 0x10C) 7 0 (ofSigned 8 r.1)) (pg + 0x10C) 23 8 r.2
  if r.1 ≠ e then intSet s' pg 32 else s'

/-- The sticky flag and the cause bits of the partition and its tiles give way to the detections held (R130, R143). -/
def replaceFlags (s : State) (p sl step : Nat) : State :=
  let pg := qchPg sl
  let held := heldAt s sl
  let s := wrF (wrB s (pg + 0x108) 0 false) (pg + 0x108) 31 24 0
  let s := (partTiles s p).foldl (fun s t => wrF s (qchTilePg t + 0x104) 23 16 0) s
  held.foldl (fun s d => applyDetection s pg d step) (setHeld s sl [])

/-- SPK_STEP_ADVANCE on the tiles of the partition; POS_WRAP (R114, R115). -/
def advanceSpark (s : State) (p : Nat) : State :=
  (partTiles s p).foldl (fun s t =>
    let pg := spkPg t
    if rdB s (pg + 0x100) 0 then
      let n := (rd64 s (pg + 0x120) + 1) % 2 ^ 64
      let s := wr64 s (pg + 0x120) n
      if n % 2 ^ 24 = 0 then intSet s pg 1 else s
    else s) s

/-- The payload of a QUENCH entry: the outcome word, then the first-location record. -/
def quenchPayload (s : State) (sl word : Nat) : List Byte :=
  let pg := qchPg sl
  leBytes 8 word ++ leBytes 1 (rdF s (pg + 0x160) 7 0) ++ leBytes 2 (rdF s (pg + 0x160) 31 16) ++ leBytes 2 (rd s (pg + 0x164)) ++
    leBytes 8 (rd64 s (pg + 0x168)) ++ leBytes 8 (rd64 s (pg + 0x170)) ++ leBytes 8 (rd64 s (pg + 0x178))

/-- The window that an outcome opens: the period of steps, or a record due for the partition (R433). -/
def callWindow (s : State) (p sl step : Nat) : State :=
  let due := (step + 1) % rdF s (calPg + 0x104) 15 0 == 0 || !(dueFor s p).isEmpty
  if armed s sl && due then { s with cal := { s.cal with called := cSet (fun _ => false) s.cal.called p true } } else s

/-- QCH_OUTCOME_APPLY: the seven actions of R143, the entry of a discard, and what follows the seventh: a billet's start (R378) and a window. -/
def applyOutcome (s : State) (p sl word : Nat) : State :=
  let pg := qchPg sl
  let n := qchStep s sl
  let commit := word.testBit 0
  let nonf := word.testBit 1
  let payload := quenchPayload s sl word
  let s := if commit then commitPages s p sl else discardPages s p sl
  let s := markTemper s p sl n commit
  let s := lossScale (inc64 s (pg + (if commit then 0x180 else 0x188)) 1) sl commit nonf
  let s := replaceFlags s p sl (n + 1)
  let s := initRecord s p sl (n + 2)
  let s := wr64 (advanceSpark s p) (pg + 0x110) ((n + 1) % 2 ^ 64)
  let s := wr64 (devWrite64 s p (rd64 s (pg + 0x148)) word) (pg + 0x150) word
  let s := wakeVote s p (if commit then 0 else 1)
  let s := if commit then s
    else clinker (intSet s pg (2 + (if word.testBit 2 then 4 else 0))) { cat := 6, code := 1, page := pg, part := p, payload := some payload }
  callWindow (if commit then billetStart s p sl n else s) p sl n

/-- The record's OUTCOME word and STATE; a leader sends the word on to the members of its group (R140). -/
def receiveOutcome (s : State) (p sl word : Nat) : State :=
  let r := qchStep s sl % 4
  let a := recordAt s sl r
  let s := setVoteRec (takeOwn s p (a + 0x18)) sl r { voteRec s sl r with got := true }
  let s := devWrite (devWrite64 s p (a + 0x18) word) p (a + 0x30) (leBytes 4 2)
  let s := { s with qch := { s.qch with castAt := cSet (fun _ => none) s.qch.castAt sl none } }
  let i := selfIdx s sl
  if i % 63 = 0 then
    (rangeFrom (i + 1) (groupSize s sl (i / 63) - 1)).foldl (fun s m => postTo s p m .notify (a + 0x18) word) s
  else s

/-- OUTCOME_ARRIVE: the outcome word of the present step reaches an armed partition that is not isolated; one that it already has, or that
serves another step, changes nothing. A COMMIT waits for a billet's IMAGE phase (R382). -/
def execOutcomeArrive (slice : Fin 8) (word : W64) (now : Nat) (s : State) : Out :=
  let s := tick s now
  let sl := slice.val
  let w := word.toNat
  match armedPart s sl with
  | none => .next s
  | some p =>
    let n := qchStep s sl
    if isolated s sl ∨ (voteRec s sl (n % 4)).got ∨ w / 2 ^ 32 ≠ n % 2 ^ 32 then .next s
    else
      let s := receiveOutcome s p sl w
      if w.testBit 0 ∧ bltPhase s sl = 1 then .next (setBlt s sl { bltOf s sl with outcome := some (w, s.time) })
      else .next (applyOutcome s p sl w)

/-- A COMMIT that waited for IMAGE is applied; its wait is counted (R382). -/
def releaseOutcome (s : State) (p sl : Nat) : State :=
  match (bltOf s sl).outcome with
  | some (w, at_) =>
    let s := setBlt s sl { bltOf s sl with outcome := none }
    applyOutcome (incBy s (bltPg sl + 0x1A8) ((s.time - at_) / 1000)) p sl w
  | none => s

end Sys2Proof.Machine
end

