-- ==== Sys2Proof/Machine/Billets.lean ====
section
/-!
DEFINITION. The commands of the billet engine (15_billets_and_recovery.md R379 to R388, R394): the phases of a billet, its early ends,
the flash trickle, restores and digests.
-/
namespace Sys2Proof.Machine

/-! ### Helpers -/

/-- The partition and slice of a BLT_CTL write; the page is live on the partition's lowest slice. -/
def bltCtl (s : State) (off : Nat) : Option (Nat × Nat) :=
  match pageAt off with
  | some pr =>
    let sl := sliceOfPage pr
    if pr.kind = .blt ∧ off % 4096 = 0x100 then
      match partOfSlice s sl with
      | some p => if lowSlice s p = sl then some (p, sl) else none
      | none => none
    else none
  | none => none

/-- The write names BLT_CTL and has bit n set. -/
def isBltCtl (off v n : Nat) : Bool :=
  match pageAt off with
  | some pr => pr.kind == .blt && off % 4096 == 0x100 && v.testBit n
  | none => false

/-- The partition whose billet engine a slice's is, in a phase. -/
def bltPart (s : State) (sl phase : Nat) : Option (Nat × BilletRun) :=
  match partOfSlice s sl, (bltOf s sl).run with
  | some p, some r => if lowSlice s p = sl ∧ bltPhase s sl = phase then some (p, r) else none
  | _, _ => none

/-- LAST_STATUS for a Tongs status of 07_tile_operations.md R193 (R382). -/
def bltCode (status : Byte) : Nat := if status = 1 then 5 else if status = 2 then 2 else 7

/-- End early, and apply a COMMIT that was waiting. -/
def bltStop (s : State) (p sl code : Nat) : State := releaseOutcome (billetEnd s p sl code) p sl

/-- Bytewise exclusive-or. -/
def xorBytes (a b : List Byte) : List Byte := List.zipWith (fun x y => x ^^^ y) a b

/-- A page of operand bytes, zero beyond what is listed. -/
def padPage (b : List Byte) : List Byte := b.take pageBytes ++ List.replicate (pageBytes - b.length) 0

/-- The exclusive-or of the operand pages whose keys, 16 * n + source, have this n. -/
def xorPages (l : List (Nat × List Byte)) (n : Nat) : List Byte :=
  (l.filter (fun c => c.1 / 16 == n)).foldl (fun a c => xorBytes a (padPage c.2)) (List.replicate pageBytes 0)

/-! ### The phases of a billet (R379) -/

/-- DIRTY and IMAGE_FIRST of every entry. -/
def writeTable (s : State) (p sl gen : Nat) : State :=
  let img := imagePages s p sl
  (bltEntries s p sl).foldl (fun s e =>
    let own := img.filter (fun i => i.entry == e.idx)
    let n := (own.filter (fun i => dirtyIn s p i.page (1 - gen))).length
    devWrite s p (bltTab s sl + 32 * e.idx + 16) (leBytes 4 n ++ leBytes 4 ((own.head?.map (·.num)).getD 0))) s

/-- Copy an image page, with its digest; its dirty bit is cleared. -/
def copyImage (s : State) (p sl gen step : Nat) (i : ImgPage) : State :=
  let b := pageData s p (i.page * pageBytes)
  let s := cleanIn (devWrite s p (imageAddr s p sl gen i.num) b) p i.page gen
  devWrite s p (digestAddr (genAddr s p sl gen) i.num) (pageDigest b step (selfIdx s sl) i.num)

/-- Add 1 to the READY word of every other member of the group; the word's address is open. -/
def signalReady (s : State) (p sl : Nat) : State :=
  ((rangeFrom (groupBase s sl) (bltGroup s sl)).filter (fun i => i != selfIdx s sl)).foldl (fun s i =>
    let f := drawFree s
    postOne f.2 p (memberId f.2 p sl i) .fadd f.1 (leBytes 8 1)) s

/-- PUT the copied MIRROR pages to the buddy's mirror area. -/
def sendMirror (s : State) (p sl gen : Nat) (img : List ImgPage) : State :=
  let k := parityImage s p sl
  (img.filter (fun i => decide (k ≤ i.num))).foldl (fun s i =>
    postRange s p (memberId s p sl (buddyOf s sl)) (mirrorAddr s p sl gen (i.num - k)) (pageData s p (imageAddr s p sl gen i.num))) s

/-- BILLET_IMAGE_DONE: the dirty pages have been copied; READY goes to the group, MIRROR begins, a waiting COMMIT is applied. -/
def execBilletImageDone (slice : Fin 8) (now : Nat) (s : State) : Out :=
  let s := tick s now
  let sl := slice.val
  match bltPart s sl 1 with
  | none => .next s
  | some (p, r) =>
    let todo := (imagePages s p sl).filter (fun i => r.whole.contains i.entry || dirtyIn s p i.page r.gen)
    let s := writeTable s p sl r.gen
    let s := todo.foldl (fun s i => copyImage s p sl r.gen r.step i) s
    let s := wr s (bltPg sl + 0x1A4) todo.length
    let s := setBlt s sl { bltOf s sl with run := some { r with copied := todo.map (·.num) } }
    let s := setPhase (sendMirror (signalReady s p sl) p sl r.gen todo) sl 2
    .next (releaseOutcome s p sl)

/-- BILLET_MIRROR_DONE: every put has completed, or one has failed and the billet aborts (R382). -/
def execBilletMirrorDone (slice : Fin 8) (fail : Option Byte) (now : Nat) (s : State) : Out :=
  let s := tick s now
  let sl := slice.val
  match bltPart s sl 2, fail with
  | some (p, _), some c => .next (bltStop s p sl (bltCode c))
  | some _, none => .next (setPhase s sl 3)
  | none, _ => .next s

/-- BILLET_PARITY_START: READY has risen by G − 1; each parity page held is the exclusive-or of the data pages of its stripe, which the
other members' generations give: data lists page r of position i under 16 * r + i. -/
def execBilletParityStart (slice : Fin 8) (fail : Option Byte) (data : List (Nat × List Byte)) (now : Nat) (s : State) : Out :=
  let s := tick s now
  let sl := slice.val
  match bltPart s sl 3, fail with
  | some (p, _), some c => .next (bltStop s p sl (bltCode c))
  | some (p, r), none =>
    let own := data.filter (fun c => decide (c.1 % 16 < bltGroup s sl) && c.1 % 16 != bltPos s sl)
    let s := (List.range (parityCount s sl)).foldl (fun s k =>
      let b := xorPages own k
      let s := devWrite s p (parityAddr s p sl r.gen k) b
      devWrite s p (digestAddr (genAddr s p sl r.gen) (imageCount s p sl + k))
        (pageDigest b r.step (selfIdx s sl) (stripeOf s sl k + 2 ^ 31))) s
    .next (setPhase s sl 4)
  | none, _ => .next s

/-- A manifest's header before HDR_CHECK (R384). -/
def manifestHead (s : State) (p sl : Nat) (r : BilletRun) : List Byte :=
  let i := imageCount s p sl
  let q := parityCount s sl
  let list := memBytes s p (digestAddr (genAddr s p sl r.gen) 0) (32 * (i + q))
  leBytes 2 2 ++ leBytes 2 1 ++ leBytes 4 (selfIdx s sl) ++ leBytes 8 r.billet ++ leBytes 8 r.step ++ leBytes 8 r.commits ++
    leBytes 8 r.skips ++ leBytes 1 (bitsOf r.loss 7 0) ++ leBytes 1 0 ++ leBytes 2 (bitsOf r.loss 23 8) ++ leBytes 1 (bltGroup s sl) ++
    leBytes 1 r.gen ++ leBytes 2 0 ++ leBytes 4 i ++ leBytes 4 q ++ leBytes 4 (stripePages s sl) ++
    leBytes 4 (crc32c (memBytes s p (bltTab s sl) (32 * bltCount s sl))).toNat ++ leBytes 4 (rd s (qchPg sl + 0x12C)) ++ leBytes 4 0 ++
    leBytes 8 s.time ++ shake256 list 32

/-- A header with its HDR_CHECK, 4 KiB. -/
def withHdrCheck (b : List Byte) : List Byte := b ++ leBytes 4 (crc32c b).toNat ++ List.replicate (4096 - 4 - b.length) 0

/-- The trickle that follows a seal (R385). -/
def startTrickle (s : State) (p sl : Nat) (r : BilletRun) : State :=
  if rdF s (bltPg sl + 0x108) 23 16 = 0 then s
  else
    let t : Trickle := { billet := r.billet, gen := r.gen, pages := imageCount s p sl }
    wrB (setBlt s sl { bltOf s sl with trickles := (bltOf s sl).trickles ++ [t] }) (bltPg sl + 0x104) 9 true

/-- Add 1 to the job seal word on member 0. -/
def addSeal (s : State) (p sl : Nat) : State :=
  let a := rd64 s (bltPg sl + 0x140)
  if selfIdx s sl = 0 then devWrite64 s p a ((memNat s p a 8 + 1) % 2 ^ 64)
  else postOne s p (memberId s p sl 0) .fadd a (leBytes 8 1)

/-- BILLET_SEAL: the manifest and its copy, BLT_LAST, the clinker entry, the seal word. -/
def execBilletSeal (slice : Fin 8) (fail : Option Byte) (now : Nat) (s : State) : Out :=
  let s := tick s now
  let sl := slice.val
  match bltPart s sl 4, fail with
  | some (p, _), some c => .next (bltStop s p sl (bltCode c))
  | some (p, r), none =>
    let pg := bltPg sl
    let s := devWrite s p (genAddr s p sl r.gen) (withHdrCheck (manifestHead s p sl r))
    let s := postRange s p (memberId s p sl (buddyOf s sl)) (buddyManifest s p sl r.gen)
      (memBytes s p (genAddr s p sl r.gen) (4096 + 32 * (imageCount s p sl + parityCount s sl)))
    let s := wr64 (wr64 s (pg + 0x148) r.billet) (pg + 0x150) r.step
    let s := clinker s { cat := 7, code := 2, page := pg, part := p, closes := some r.opened }
    let s := wr (addSeal s p sl) (pg + 0x1A0) ((s.time - r.start) / 1000)
    let s := setBlt s sl { bltOf s sl with run := none }
    .next (startTrickle (intSet (setBltStatus (setPhase s sl 0) sl 0) pg 1) p sl r)
  | none, _ => .next s

/-- BLT_DEADLINE_EXPIRE: the billet aborts, or the restore completes, with TIMEOUT. -/
def execBltDeadlineExpire (slice : Fin 8) (now : Nat) (s : State) : Out :=
  let s := tick s now
  let sl := slice.val
  let limit := 1000000 * rdF s (bltPg sl + 0x15C) 19 0 + 64
  match partOfSlice s sl, (bltOf s sl).run, (bltOf s sl).restore with
  | some p, some r, _ => .next (if r.start + limit < s.time then bltStop s p sl 2 else s)
  | some p, none, some r => .next (if r.start + limit < s.time then bltStop s p sl 2 else s)
  | _, _, _ => .next s

/-- BLT_ABORT: bit 6 of a BLT_CTL write. -/
def execBltAbort (r : RegWrite) (s : State) : Out :=
  let s := tick s r.now
  if isBltCtl r.off.toNat r.val.toNat 6 = false then .refused (.otherRow "BLT_ABORT")
  else
    match bltCtl s r.off.toNat with
    | some (p, sl) => .next (bltStop s p sl 6)
    | none => .next s

/-! ### The flash trickle (R385) -/

/-- The namespace address of flash slot g. -/
def flashSlot (s : State) (sl g pages : Nat) : Nat :=
  (rdF s (bltPg sl + 0x158) 26 0 + (if g = 1 then 1 + pages else 0)) * pageBytes

/-- Write bytes of the BILLET namespace. -/
def putBillet : Nat → List Byte → State → State
  | _, [], s => s
  | a, b :: bs, s => putBillet (a + 1) bs { s with mem := { s.mem with billet := cSet (fun _ => 0) s.mem.billet a b } }

def billetBytes (s : State) (a n : Nat) : List Byte := (rangeFrom a n).map (fun k => cGet (fun _ => 0) s.mem.billet k)

/-- A header with TRICKLED set. -/
def trickled (h : List Byte) : List Byte :=
  withHdrCheck (h.take 2 ++ leBytes 2 (leNat (slice h 2 2) ||| 2) ++ slice h 4 (0x70 - 4))

/-- TRICKLE_DONE: the oldest trickle has written its image, and last its manifest, to flash slot g. -/
def execTrickleDone (slice : Fin 8) (now : Nat) (s : State) : Out :=
  let s := tick s now
  let sl := slice.val
  match partOfSlice s sl, (bltOf s sl).trickles with
  | some p, t :: rest =>
    let a := flashSlot s sl t.gen t.pages
    let s := (List.range t.pages).foldl
      (fun s j => putBillet (a + (1 + j) * pageBytes) (pageData s p (imageAddr s p sl t.gen j)) s) s
    let m := pageData s p (genAddr s p sl t.gen)
    let s := ftlWrite (putBillet a (trickled (m.take 4096) ++ m.drop 4096) s) ((1 + t.pages) * pageBytes)
    let s := setBlt s sl { bltOf s sl with trickles := rest }
    let s := { s with mem := { s.mem with fresh := (a, (1 + t.pages) * pageBytes) :: s.mem.fresh } }
    .next (intSet (wrB s (bltPg sl + 0x104) 9 (!rest.isEmpty)) (bltPg sl) 16)
  | _, _ => .next s

/-! ### Restore (R386, R387) -/

/-- A manifest holds billet k with a flag set, and its HDR_CHECK matches. -/
def manifestOk (m : List Byte) (k flag : Nat) : Bool :=
  leNat (slice m 0 2) == 2 && (leNat (slice m 2 2)).testBit flag && leNat (slice m 8 8) == k &&
    leNat (slice m 0x70 4) == (crc32c (m.take 0x70)).toNat

/-- The restore completes at once or ends with a status. -/
def restoreEnd (s : State) (sl code bits : Nat) : State :=
  intSet (setBltStatus (setPhase (setBlt s sl { bltOf s sl with restore := none }) sl 0) sl code) (bltPg sl) (4 + bits)

/-- The manifest of the source, as it stands in this module. -/
def sourceManifest (s : State) (p sl mode k : Nat) : List Byte :=
  if mode = 2 then billetBytes s (flashSlot s sl (k % 2) (imageCount s p sl)) pageBytes else pageData s p (genAddr s p sl (k % 2))

/-- RESTORE_GO: bit 2 of a BLT_CTL write; RST_MODE as written. -/
def execRestoreGo (r : RegWrite) (s : State) : Out :=
  let s := tick s r.now
  if isBltCtl r.off.toNat r.val.toNat 2 = false then .refused (.otherRow "RESTORE_GO")
  else
    match bltCtl s r.off.toNat with
    | none => .next s
    | some (p, sl) =>
      let k := rd64 s (bltPg sl + 0x160)
      let mode := bitsOf r.val.toNat 4 3
      let s := wrF s (bltPg sl + 0x100) 4 3 mode
      if armed s sl ∨ bltEn s sl = false ∨ bltPhase s sl ≠ 0 then .next s
      else if mode = 3 ∨ bltFormatOk s p sl = false then .next (restoreEnd s sl 4 0)
      else if bltPagesOk s p sl = false then .next (restoreEnd s sl 5 0)
      else if mode ≠ 1 ∧ manifestOk (sourceManifest s p sl mode k) k (if mode = 0 then 0 else 1) = false then .next (restoreEnd s sl 3 0)
      else
        let x : Restore := { billet := k, mode := mode, start := s.time }
        .next (setPhase (setBlt s sl { bltOf s sl with restore := some x }) sl 5)

/-- Bring every page into the image of its generation: rebuilt lists the pages that give page j under 16 * j + source. -/
def bringPages (s : State) (p sl : Nat) (x : Restore) (rebuilt : List (Nat × List Byte)) : State :=
  let g := x.billet % 2
  (imagePages s p sl).foldl (fun s i =>
    match x.mode with
    | 0 => s
    | 1 => devWrite s p (imageAddr s p sl g i.num) (xorPages rebuilt i.num)
    | _ => devWrite s p (imageAddr s p sl g i.num)
        (billetBytes s (flashSlot s sl g (imageCount s p sl) + (1 + i.num) * pageBytes) pageBytes)) s

/-- The image pages that do not verify. -/
def badPages (s : State) (p sl : Nat) (x : Restore) (m : List Byte) : List ImgPage :=
  let step := leNat (slice m 0x10 8)
  (imagePages s p sl).filter (fun i =>
    pageDigest (pageData s p (imageAddr s p sl (x.billet % 2) i.num)) step (selfIdx s sl) i.num != slice m (0x1000 + 32 * i.num) 32)

/-- Copy the image to its live pages and load the step's state. -/
def loadBillet (s : State) (p sl : Nat) (x : Restore) (m : List Byte) : State :=
  let s := (imagePages s p sl).foldl (fun s i =>
    devWrite s p (i.page * pageBytes) (pageData s p (imageAddr s p sl (x.billet % 2) i.num))) s
  let step := leNat (slice m 0x10 8)
  let q := qchPg sl
  let s := wrF (wrF s (q + 0x10C) 7 0 (leNat (slice m 0x28 1))) (q + 0x10C) 23 8 (leNat (slice m 0x2A 2))
  let s := wr64 (wr64 (wr64 s (q + 0x110) ((step + 1) % 2 ^ 64)) (q + 0x180) (leNat (slice m 0x18 8))) (q + 0x188) (leNat (slice m 0x20 8))
  wr64 (wr64 s (bltPg sl + 0x148) x.billet) (bltPg sl + 0x150) step

/-- RESTORE_DONE: the pages are verified, and only if all verify are they copied live (R387). fail is a Tongs status with which a rebuild's
source failed; manifest is the buddy's copy of this member's manifest, for a rebuild. -/
def execRestoreDone (slice : Fin 8) (fail : Option Byte) (rebuilt : List (Nat × List Byte)) (manifest : List Byte) (now : Nat)
    (s : State) : Out :=
  let s := tick s now
  let sl := slice.val
  match partOfSlice s sl, (bltOf s sl).restore with
  | some p, some x =>
    let m := if x.mode = 1 then manifest else sourceManifest s p sl x.mode x.billet
    match fail with
    | some c => .next (restoreEnd s sl (bltCode c) 0)
    | none =>
      if x.mode = 1 ∧ manifestOk m x.billet 0 = false then .next (restoreEnd s sl 3 0)
      else
        let s := bringPages s p sl x rebuilt
        let bad := badPages s p sl x m
        if bad ≠ [] then .next (restoreEnd (incBy s (bltPg sl + 0x1B0) bad.length) sl 1 8)
        else
          let s := restoreEnd (loadBillet s p sl x m) sl 0 0
          .next (clinker s { cat := 7, code := 4, page := bltPg sl, part := p })
  | _, _ => .next s

/-! ### Digests (R394) -/

/-- The digest range. -/
def digAddr (s : State) (sl : Nat) : Nat := rd64 s (bltPg sl + 0x168)
def digBytes (s : State) (sl : Nat) : Nat := rdF s (bltPg sl + 0x170) 26 0 * pageBytes

/-- DIGEST_GO: bit 5 of a BLT_CTL write, while the engine is idle; a range that is not 2 MiB aligned or leaves the partition ends with
FORMAT or ADDR. -/
def execDigestGo (r : RegWrite) (s : State) : Out :=
  let s := tick s r.now
  if isBltCtl r.off.toNat r.val.toNat 5 = false then .refused (.otherRow "DIGEST_GO")
  else
    match bltCtl s r.off.toNat with
    | none => .next s
    | some (p, sl) =>
      if bltPhase s sl ≠ 0 then .next s
      else if digAddr s sl % pageBytes ≠ 0 then .next (intSet (setBltStatus s sl 4) (bltPg sl) 32)
      else if inPart s p (digAddr s sl) (digBytes s sl) = false then .next (intSet (setBltStatus s sl 5) (bltPg sl) 32)
      else .next (setPhase s sl 6)

/-- DIGEST_DONE: SHAKE256 over the pages in order, then 16 zero bytes for STEP, MEMBER and INDEX. -/
def execDigestDone (slice : Fin 8) (now : Nat) (s : State) : Out :=
  let s := tick s now
  let sl := slice.val
  match partOfSlice s sl with
  | some p =>
    if bltPhase s sl ≠ 6 then .next s
    else
      let d := pageDigest (memBytes s p (digAddr s sl) (digBytes s sl)) 0 0 0
      let s := (List.range 8).foldl (fun s n => wr s (bltPg sl + 0x180 + 4 * n) (leNat (Machine.slice d (4 * n) 4))) s
      .next (intSet (setBltStatus (setPhase s sl 0) sl 0) (bltPg sl) 32)
  | none => .next s

end Sys2Proof.Machine
end

