-- ==== Sys2Proof/Machine/FabricTime.lean ====
section
/-!
DEFINITION. Fabric time (13_mboano_link_fabric_time.md R337 to R345, R349; 20_electrical_mechanical.md R495): the states of the
fabric-time unit, the election of its root, the exchanges with its upstream module.
-/
namespace Sys2Proof.Machine

/-! ### The unit's state (R340) -/

def ftmState (s : State) : Nat := rdF s (ftmPg + 0x104) 2 0
def ftmUpstream (s : State) : Nat := rdF s (ftmPg + 0x104) 28 24
def ftmEn (s : State) : Bool := rdB s (ftmPg + 0x100) 0

def setFtm (s : State) (x : FabricTime) : State := { s with ftm := x }

/-- The ms spent in HOLDOVER or FREE since the state was entered are counted as it is left. -/
def countHold (s : State) : State :=
  if ftmState s = 3 ∨ ftmState s = 4 then incBy s (ftmPg + 0x13C) ((s.time - s.ftm.since) / 1000000) else s

/-- Enter a state: counts of exchanges start again. LOCKED sets LOCK; HOLDOVER and FREE set UNLOCK, are counted and written to the
clinker log, and FREE sets FREE (R340, R349). -/
def enterFtm (s : State) (st : Nat) : State :=
  if ftmState s = st then s
  else
    let s := wrF (countHold s) (ftmPg + 0x104) 2 0 st
    let s := setFtm s { s.ftm with good := 0, bad := 0, since := s.time }
    if st = 2 then intSet s ftmPg 1
    else if st = 3 then clinker (inc (intSet s ftmPg 2) (ftmPg + 0x138)) { cat := 9, code := 1, page := ftmPg }
    else if st = 4 then clinker (inc (intSet s ftmPg 18) (ftmPg + 0x138)) { cat := 9, code := 2, page := ftmPg }
    else s

/-- A LOCKED or HOLDOVER unit loses its time: ACQUIRING, UNLOCK, a clinker entry (R341). -/
def dropLock (s : State) : State := clinker (intSet (enterFtm s 1) ftmPg 2) { cat := 9, code := 1, page := ftmPg }

/-! ### The root (R338) -/

/-- What the UP ports offer: port, root, hops of the peer. -/
def rootOffers (s : State) : List (Nat × Nat × Nat) :=
  (List.range 16).filterMap (fun n =>
    if portState s n = 2 then (portOf s n).offer.map (fun o => (n, o.1.toNat, o.2)) else none)

/-- The module offers itself: ROOT_EN, and its reference clock is valid (R495). -/
def offersSelf (s : State) : Bool := ftmEn s && rdB s (ftmPg + 0x100) 1 && s.ftm.refclk

/-- The better of two offers of one root: fewer hops, then the lower port. -/
def betterOffer (a b : Nat × Nat × Nat) : Nat × Nat × Nat := if b.2.2 < a.2.2 then b else a

/-- The lowest root offered, with the best offer of it; the module's own id, which other ports repeat, is no offer. -/
def bestOffer (s : State) : Option (Nat × Nat × Nat) :=
  match (rootOffers s).filter (fun o => o.2.1 != moduleId s) with
  | [] => none
  | o :: os =>
    let r := os.foldl (fun m x => min m x.2.1) o.2.1
    match (o :: os).filter (fun x => x.2.1 == r) with
    | [] => none
    | x :: xs => some (xs.foldl betterOffer x)

/-- Record the root's id, the upstream port and the hops; a change of the root is signalled and logged. -/
def setRoot (s : State) (root up hops : Nat) : State :=
  let s' := wrF (wrF s (ftmPg + 0x104) 28 24 up) (ftmPg + 0x104) 20 16 hops
  if rd s (ftmPg + 0x128) = root then s'
  else clinker (intSet (wr s' (ftmPg + 0x128) root) ftmPg 8) { cat := 9, code := 3, page := ftmPg }

/-- No upstream port is left: LOCKED enters HOLDOVER; a root that is none any longer acquires; without a root within 16 hops the
unit is FREE. -/
def noUpstream (s : State) (far : Bool) : State :=
  let st := ftmState s
  let s := wrF (wrF s (ftmPg + 0x104) 28 24 0x1F) (ftmPg + 0x104) 20 16 0x1F
  if far then enterFtm s 4 else if st = 2 then enterFtm s 3 else if st = 5 then enterFtm s 1 else s

/-- ROOT_ELECTION: the module chooses its root and its upstream port. A LOCKED unit whose upstream port no longer offers its root enters
HOLDOVER. -/
def electRoot (s : State) : State :=
  if ftmEn s = false then s
  else
    let own := offersSelf s
    let up := ftmUpstream s
    let kept := (rootOffers s).any (fun o => o.1 == up && decide (o.2.1 ≤ rd s (ftmPg + 0x128)))
    match bestOffer s with
    | none =>
      if own then enterFtm (setRoot s (moduleId s) 0x1F 0) 5
      else noUpstream s false
    | some (n, r, h) =>
      if own && decide (moduleId s < r) then enterFtm (setRoot s (moduleId s) 0x1F 0) 5
      else if h + 1 > 16 then noUpstream s true
      else
        let st := ftmState s
        let s := setRoot s r n (h + 1)
        if st = 5 ∨ (st = 4 ∧ s.ftm.refclk = true) then enterFtm s 1 else if st = 2 ∧ kept = false then enterFtm s 3 else s

/-! ### Exchanges (R339 to R341) -/

/-- The delay and the offset of an exchange, in the unit of its stamps. -/
def syncDelay (t1 t2 t3 t4 : Nat) : Int := (((t4 : Int) - t1) - ((t3 : Int) - t2)) / 2
def syncOffset (t1 t2 t3 t4 : Nat) : Int := (t2 : Int) - t1 - syncDelay t1 t2 t3 t4

/-- 1 µs and 1 ns in 1/256 ns. -/
def oneMicro : Nat := 256000
def oneNano : Nat := 256

/-- The upstream's offset moves the unit: ACQUIRING steps by an offset above 1 µs; 64 exchanges below 1 ns lock; 4 above 1 µs unlock. -/
def applyOffset (s : State) (o : Int) : State :=
  let f := s.ftm
  let st := ftmState s
  let good := if o.natAbs < oneNano then f.good + 1 else 0
  let bad := if o.natAbs > oneMicro then f.bad + 1 else 0
  let s := setFtm s { f with good := good, bad := bad }
  if st = 1 ∧ o.natAbs > oneMicro then
    let s := { s with time := ((s.time : Int) - o / (oneNano : Int)).toNat }
    inc (intSet s ftmPg 4) (ftmPg + 0x134)
  else if (st = 1 ∨ st = 3) ∧ good ≥ 64 then (if f.refclk then enterFtm s 2 else s)
  else if (st = 2 ∨ st = 3) ∧ bad ≥ 4 then dropLock s
  else s

/-- The servo's correction is a free value within ±100 ppm: the spec gives no gains (R337, R339). -/
def servo (s : State) : State :=
  let v := drawFree s
  wr v.2 (ftmPg + 0x130) (ofSigned 32 ((v.1 % 200001 : Nat) - (100000 : Int)))

/-- SYNC_SEND: an UP port queues a SYNC packet with its root, its hops and the stamps of the previous exchange. -/
def execSyncSend (port : Fin 16) (now : Nat) (s : State) : Out :=
  let s := tick s now
  if portState s port = 2 then
    let x := portOf s port
    .next (setPort s port { x with ctl := x.ctl ++
      [.sync (rdW s (ftmPg + 0x128)) (rdF s (ftmPg + 0x104) 20 16) x.stamps.1 x.stamps.2.1 x.stamps.2.2.1 x.stamps.2.2.2] })
  else .next s

/-- SYNC_RECEIVE: a port's peer advertises its root and hops, and an exchange is complete: the delay is reported; the root is elected;
the upstream port's offset is recorded and applied. -/
def execSyncReceive (port : Fin 16) (root : W32) (hops : Nat) (t1 t2 t3 t4 : Nat) (now : Nat) (s : State) : Out :=
  let s := tick s now
  if portState s port ≠ 2 then .next s
  else
    let s := setPort s port { portOf s port with offer := some (root, hops), stamps := (t1, t2, t3, t4) }
    let s := wr s (lnkPg port + 0x118) (ofSigned 32 (syncDelay t1 t2 t3 t4))
    let s := electRoot s
    if ftmUpstream s = port.val ∧ ftmEn s then
      let o := syncOffset t1 t2 t3 t4
      let s := wr s (ftmPg + 0x12C) (ofSigned 32 o)
      .next (servo (applyOffset s o))
    else .next s

/-- FTM_HOLDOVER_EXPIRE: HOLDOVER has lasted HOLDOVER_MS. -/
def execFtmHoldoverExpire (now : Nat) (s : State) : Out :=
  let s := tick s now
  if ftmState s = 3 ∧ s.ftm.since + 1000000 * rdF s (ftmPg + 0x108) 23 16 ≤ s.time then .next (enterFtm s 4) else .next s

/-- FTM_SET: bit 2 of an FTM_CTL write: at the root, time steps forward to FTM_SET; a value below the present count is recorded as a
denial. -/
def execFtmSet (r : RegWrite) (s : State) : Out :=
  let s := tick s r.now
  if r.off.toNat ≠ ftmPg + 0x100 ∨ r.val.toNat.testBit 2 = false then .refused (.otherRow "FTM_SET")
  else if ftmState s ≠ 5 then .next s
  else
    let v := rd64 s (ftmPg + 0x120)
    if v < s.time then .next (denyWrite s ftmPg (ftmPg + 0x100) 2 r.who)
    else .next (inc (intSet { s with time := v } ftmPg 4) (ftmPg + 0x134))

/-- REFCLK_LOSS: a LOCKED unit enters HOLDOVER, and a root offers itself no more; a TIME entry (R495). -/
def execRefclkLoss (now : Nat) (s : State) : Out :=
  let s := tick s now
  if s.ftm.refclk = false then .next s
  else
    let s := setFtm s { s.ftm with refclk := false }
    if ftmState s = 2 then .next (enterFtm s 3)
    else .next (clinker (electRoot s) { cat := 9, code := 1, page := ftmPg })

/-- REFCLK_VALID: the module may offer itself again; a TIME entry. -/
def execRefclkValid (now : Nat) (s : State) : Out :=
  let s := tick s now
  if s.ftm.refclk then .next s
  else .next (electRoot (clinker (setFtm s { s.ftm with refclk := true }) { cat := 9, code := 1, page := ftmPg }))

/-- A write of FTM_CTL's EN or ROOT_EN has changed them: EN 0 is DISABLED, and ends it; the root is elected anew. -/
def ftmCtlWritten (s : State) (old new : Nat) : State :=
  if old % 4 = new % 4 then s
  else if new.testBit 0 = false then enterFtm (wrF (wrF s (ftmPg + 0x104) 28 24 0x1F) (ftmPg + 0x104) 20 16 0x1F) 0
  else electRoot (if old.testBit 0 then s else enterFtm s 1)

end Sys2Proof.Machine
end

