-- ==== Sys2Proof/Machine/Links.lean ====
section
/-!
DEFINITION. The Mboano ports (13_mboano_link_fabric_time.md R322 to R336, R346 to R348): flits with their retry and credits, packets and
streams, spare lanes, ports going up and down.
-/
namespace Sys2Proof.Machine

/-! ### Packets (R326 to R329) -/

/-- The bytes of data units. -/
def unitBytes (d : List Byte) : Nat := 32 * ceilDiv d.length 32

/-- The bytes of a packet. The spec gives SYNC and LINK no length; each takes one credit unit. -/
def pktBytes : LinkPkt → Nat
  | .req _ _ p => 32 + unitBytes p.data
  | .cont _ _ _ d => 4 + unitBytes d
  | .rsp _ p => 16 + unitBytes p.data
  | .sync .. => 64
  | .link .. => 64

/-- The 64-byte units of a packet. -/
def pktUnits (p : LinkPkt) : Nat := ceilDiv (pktBytes p) 64

/-- The virtual channel of a packet. -/
def pktVc : LinkPkt → Nat
  | .req v _ _ => v
  | .cont v _ _ _ => v
  | .rsp v _ => v
  | .sync .. => 4
  | .link .. => 4

/-- The packet follows the last one of its stream with nothing but its address, tag and data of its own (R328). -/
def continues (l p : ReqPkt) : Bool :=
  p.tag == l.tag + 1 && p.addr == l.addr + BitVec.ofNat 64 l.len && p.opc == l.opc && p.target == l.target &&
    p.source == l.source && p.job == l.job && p.tile == l.tile && p.etype == l.etype && p.step == l.step

/-- The lowest stream id that no stream of a virtual channel uses. -/
def freeStream (x : Port) (vc : Nat) : Option Nat :=
  (List.range 4096).find? (fun i => !(x.tx.any (fun t => t.vc == vc && t.id == i)))

/-- The streams after a packet: kept open with its last packet while more follow. -/
def streamSet (x : Port) (k : Nat × Nat) (vc id : Nat) (p : ReqPkt) (more : Bool) : Port :=
  let l := x.tx.filter (fun t => !(t.key == k && t.vc == vc))
  { x with tx := if more then l ++ [{ key := k, vc := vc, id := id, last := p }] else l }

/-- A queued packet as it is sent: a CONT where its stream allows it, else a full REQ, which opens a stream while more follow and an id is
free. -/
def toPacket (x : Port) (q : QPkt) : LinkPkt × Port :=
  let v := Fin.ofNat 5 q.vc
  match q.pkt with
  | .rsp p => (.rsp v p, x)
  | .req p =>
    match q.key with
    | none => (.req v { id := 0, more := false } p, x)
    | some k =>
      match x.tx.find? (fun t => t.key == k && t.vc == q.vc) with
      | some t =>
        if continues t.last p then
          (.cont v { id := t.id, more := q.more } p.len p.data, streamSet x k q.vc t.id { p with inj := t.last.inj } q.more)
        else (.req v { id := t.id, more := q.more } p, streamSet x k q.vc t.id p q.more)
      | none =>
        match (if q.more then freeStream x q.vc else none) with
        | some i => (.req v { id := i, more := true } p, streamSet x k q.vc i p true)
        | none => (.req v { id := 0, more := false } p, x)

/-! ### Sending (R325, R326) -/

/-- Spend credits. -/
def spendCredits (x : Port) (vc n : Nat) : Port := { x with credits := setNth x.credits vc (nth 0 x.credits vc - n) }

/-- The CTL packets that a flit takes first: the port, the room left, the packets. -/
def fillCtl : Nat → Port → Nat → Port × Nat × List LinkPkt
  | 0, x, room => (x, room, [])
  | fuel + 1, x, room =>
    match x.ctl with
    | [] => (x, room, [])
    | p :: ps =>
      if pktBytes p ≤ room ∧ pktUnits p ≤ nth 0 x.credits 4 then
        let r := fillCtl fuel (spendCredits { x with ctl := ps } 4 (pktUnits p)) (room - pktBytes p)
        (r.1, r.2.1, p :: r.2.2)
      else (x, room, [])

/-- The next packet in the rotation of the virtual channels that fits the room and the credits held: its channel, the queued packet, the
packet. -/
def nextPacket (x : Port) (room : Nat) : Option (Nat × QPkt × LinkPkt × Port) :=
  [1, 2, 3, 4].findSome? (fun i =>
    let v := (x.last + i) % 4
    match x.queue.find? (fun q => q.vc == v) with
    | none => none
    | some q =>
      let r := toPacket x q
      if pktBytes r.1 ≤ room ∧ pktUnits r.1 ≤ nth 0 x.credits v then some (v, q, r.1, r.2) else none)

/-- Fill a flit with queued packets. -/
def fillFlit : Nat → Port → Nat → Port × List LinkPkt
  | 0, x, _ => (x, [])
  | fuel + 1, x, room =>
    match nextPacket x room with
    | none => (x, [])
    | some (v, q, p, x) =>
      let r := fillFlit fuel (spendCredits { x with queue := x.queue.erase q, last := v } v (pktUnits p)) (room - pktBytes p)
      (r.1, p :: r.2)

/-- The control field of the next flit: the acknowledgement, a NAK that is due, the credits of one channel. -/
def withControl (x : Port) (f : Flit) : Flit × Port :=
  let c := (List.range 5).find? (fun v => nth 0 x.owed v != 0)
  let f := { f with ack := x.rxSeq, nak := x.nak, cvc := BitVec.ofNat 8 (c.getD 0xFF),
                    credits := BitVec.ofNat 16 (match c with
                      | some v => nth 0 x.owed v
                      | none => 0) }
  (f, { x with nak := false, owed := (match c with
      | some v => setNth x.owed v 0
      | none => x.owed), sent := some f })

/-- The messages of the Quench unit for other modules enter the queues. -/
def postAll : List ReqPkt → State → State
  | [], s => s
  | m :: ms, s =>
    let die := match partOfJob s m.job with
      | some p => lowSlice s p / 2
      | none => 0
    postAll ms
      (match hopTo s die m.target.toNat with
       | .noRoute => noteNoRoute s die
       | .ports _ _ _ => inject s { pkt := .req m, die := die, dim := none, vc := 0, key := none, more := false })

/-- What other modules are owed enters the queues: messages of the Quench unit, and answers to requests that are done. -/
def drainOut (s : State) : State :=
  let own := s.qch.posted.filter (fun m => m.target == m.source)
  let out := s.qch.posted.filter (fun m => m.target != m.source)
  let s := postAll out { s with qch := { s.qch with posted := own } }
  settleInbound s.tng.inbound s

/-- FLIT_SEND: an UP port sends a flit: one to be sent again, or, with room in the replay buffer, a new one with the packets for which it
holds credits. -/
def execFlitSend (port : Fin 16) (now : Nat) (s : State) : Out :=
  let s := tick s now
  if portState s port ≠ 2 then .next s
  else
    let s := drainOut s
    let x := portOf s port
    let pg := lnkPg port
    match x.again with
    | f :: fs =>
      let r := withControl { x with again := fs } f
      .next (inc64 (setPort s port r.2) (pg + 0x120) 1)
    | [] =>
      if x.replay.length ≥ 96 then .next s
      else
        let c := fillCtl x.ctl.length x 5128
        let q := fillFlit c.1.queue.length c.1 c.2.1
        let f : Flit := { seq := x.txSeq, ack := 0, nak := false, cvc := 0xFF, credits := 0, pkts := c.2.2 ++ q.2 }
        let r := withControl q.1 f
        .next (inc64 (setPort s port { r.2 with txSeq := x.txSeq + 1, replay := r.2.replay ++ [r.1] }) (pg + 0x120) 1)

/-! ### Ports going down and up (R334, R336) -/

/-- A port goes DOWN: its queues and its replay buffer are dropped, its streams and its offer are gone. -/
def portDown (s : State) (n : Nat) : State :=
  let x := portOf s n
  let pg := lnkPg n
  if portState s n = 0 then s
  else
    let lost := x.queue.length + x.ctl.length + sumNat (x.replay.map (fun f => f.pkts.length))
    let s := setPort s n {}
    let s := incBy (wrF s (pg + 0x104) 31 28 0) (pg + 0x148) lost
    let s := if lost = 0 then s else intSet s pg 16
    electRoot (portsChanged (inc (intSet s pg 1) (pg + 0x14C)))

/-- A port begins to train. -/
def portTrain (s : State) (n : Nat) : State := wrF s (lnkPg n + 0x104) 31 28 1

/-- The offset names LNK_CTL of a port. -/
def linkOf (off : Nat) : Option Nat := (List.range 16).find? (fun n => lnkPg n + 0x100 == off)

/-- LNK_EN_WRITE: EN 0 holds the port DOWN; EN 1 lets it train. -/
def execLnkEnWrite (r : RegWrite) (s : State) : Out :=
  let s := tick s r.now
  match linkOf r.off.toNat with
  | none => .refused (.otherRow "LNK_EN_WRITE")
  | some n =>
    let en := r.val.toNat.testBit 0
    let old := rdB s (lnkPg n + 0x100) 0
    let s := wrB s (lnkPg n + 0x100) 0 en
    if en = false then .next (portDown s n) else if old then .next s else .next (portTrain s n)

/-- LNK_RETRAIN: bit 1 of a LNK_CTL write: DOWN, and training while EN is 1. -/
def execLnkRetrain (r : RegWrite) (s : State) : Out :=
  let s := tick s r.now
  match linkOf r.off.toNat with
  | none => .refused (.otherRow "LNK_RETRAIN")
  | some n =>
    if r.val.toNat.testBit 1 = false then .refused (.otherRow "LNK_RETRAIN")
    else
      let s := portDown s n
      .next (if rdB s (lnkPg n + 0x100) 0 then portTrain s n else s)

/-- SP records the swapped lanes in BLK_SPARE_MAP (R346). -/
def spareMap (s : State) (n : Nat) : State :=
  let st := lnkPg n + 0x104
  wrF (wrF s (lnkPg n + hSpare) 7 4 (rdF s st 23 20)) (lnkPg n + hSpare) 3 0 (rdF s st 19 16)

/-- LINK_TRAIN_DONE: the port comes UP when 8 of its 9 lanes have trained, the spare taking the place of a data lane that has not; otherwise it
is FAILED. A new repair is recorded and logged, and the lanes' calibration records are new (17_startup_calibration.md R428, R430). -/
def execLinkTrainDone (port : Fin 16) (trained : BitVec 9) (peerMod : W32) (peerPort : BitVec 4) (now : Nat) (s : State) : Out :=
  let s := tick s now
  let n := port.val
  let pg := lnkPg n
  if rdB s (pg + 0x100) 0 = false ∨ portState s n ≥ 2 then .next s
  else if popCount 9 trained.toNat < 8 then .next (intSet (wrF s (pg + 0x104) 31 28 3) pg 32)
  else
    let k := ((List.range 8).find? (fun i => !(trained.toNat.testBit i))).getD 0xF
    let new := decide (k ≠ 0xF ∧ rdF s (pg + 0x104) 19 16 ≠ k)
    let s := setPort s n {}
    let s := wrF (wrF (wrF s (pg + 0x104) 31 28 2) (pg + 0x104) 23 20 k) (pg + 0x104) 19 16 k
    let s := spareMap (wr (wrW s (pg + 0x110) peerMod) (pg + 0x114) peerPort.toNat) n
    let s := (List.range 9).foldl (fun s m => takeRec s (recKey 3 (9 * n + m)) (rdF s (hrtDPg (n / 4) + 0x104) 7 0)) s
    let s := if new then rewriteDevice (clinker s { cat := 5, code := 6, page := pg, sub := k }) else s
    .next (portsChanged (intSet s pg 2))

/-- ROUTE_HOLD_EXPIRE: the hold has lasted its time: the new set of UP ports takes effect, and held packets go on. -/
def execRouteHoldExpire (now : Nat) (s : State) : Out :=
  let s := tick s now
  match s.lnk.hold with
  | some e => if e ≤ s.time then .next (retryWaiting { s with lnk := { s.lnk with upMask := upPorts s, hold := none } }) else .next s
  | none => .next s

/-! ### Spare lanes (R335, R336) -/

/-- A swap is signalled, counted, recorded by SP and logged. -/
def noteSwap (s : State) (n lane : Nat) : State :=
  let pg := lnkPg n
  rewriteDevice (clinker (spareMap (inc (intSet s pg 4) (pg + 0x144)) n) { cat := 5, code := 6, page := pg, sub := lane })

/-- The receiver marks a lane failed: the spare takes a data lane's place from flit S, and a LINK packet tells the sender; with the spare
in use the port goes DOWN. -/
def markLane (s : State) (n lane : Nat) : State :=
  let st := lnkPg n + 0x104
  let used := rdF s st 19 16
  if portState s n ≠ 2 ∨ lane = used then s
  else if used ≠ 0xF then portDown s n
  else if lane ≥ 8 then s
  else
    let x := portOf s n
    let sw := x.rxSeq + 17
    let s := setPort s n { x with rxSwitch := some (lane, sw), ctl := x.ctl ++ [.link (Fin.ofNat 9 lane) sw] }
    noteSwap (wrF s st 19 16 lane) n lane

/-- LANE_SIGNAL_LOSS: a lane has lost lock. -/
def execLaneSignalLoss (port : Fin 16) (lane : Fin 9) (now : Nat) (s : State) : Out := .next (markLane (tick s now) port lane)

/-- LANE_ERROR_WINDOW: the symbols corrected in a 1 ms window on each lane; a lane above LNK_LANE_THR is marked failed. -/
def execLaneErrorWindow (port : Fin 16) (errors : List Nat) (now : Nat) (s : State) : Out :=
  let s := tick s now
  let pg := lnkPg port
  let thr := rdF s (pg + 0x10C) 23 0
  let s := (List.range 9).foldl (fun s m => wr s (pg + 0x180 + 4 * m) (min (nth 0 errors m) 0xFFFFFF)) s
  let s := inc64 s (pg + 0x130) (sumNat (errors.take 9))
  .next (((List.range 9).filter (fun m => decide (nth 0 errors m > thr))).foldl (fun s m => markLane s port m) s)

/-- LINK_PACKET: the peer names a failed lane: the sender moves it to the spare from flit S; with the spare in use the port goes DOWN. -/
def execLinkPacket (port : Fin 16) (lane : Fin 9) (switchFlit : BitVec 16) (now : Nat) (s : State) : Out :=
  let s := tick s now
  let n := port.val
  let st := lnkPg n + 0x104
  let used := rdF s st 23 20
  if portState s n ≠ 2 ∨ lane.val = used then .next s
  else if used ≠ 0xF ∨ lane.val ≥ 8 then .next (portDown s n)
  else .next (noteSwap (wrF (setPort s n { portOf s n with txSwitch := some (lane.val, switchFlit) }) st 23 20 lane) n lane)

/-! ### Receiving (R325, R328, R331, R333) -/

/-- A packet's age is above LNK_RT_LIFE. -/
def tooOld (s : State) (inj : Nat) : Bool :=
  decide ((s.time / 256 % 2 ^ 24 + 2 ^ 24 - inj % 2 ^ 24) % 2 ^ 24 * 256 > 1000 * rdF s (rtPg 0 + 0x108) 15 0)

/-- The dimension in which a packet has arrived: a port of the table has none of its own. -/
def portDim (s : State) (n : Nat) : Nat :=
  let d := rdF s (lnkPg n + 0x108) 2 0
  if d < 6 then d / 2 else 3

/-- PACKET_DROP. -/
def dropPacket (s : State) (n : Nat) : State := inc (intSet s (lnkPg n) 16) (lnkPg n + 0x148)

/-- PACKET_ROUTE of a request: delivered, forwarded, or answered with ADDR where the table has no entry. -/
def routeReq (s : State) (n vc id : Nat) (p : ReqPkt) (more : Bool) : State :=
  if tooOld s p.inj then dropPacket s n
  else if p.target.toNat = moduleId s then { s with lnk := { s.lnk with arrivals := s.lnk.arrivals ++ [(n, p)] } }
  else
    match hopTo s (n / 4) p.target.toNat with
    | .noRoute => sendResponse (noteNoRoute s (n / 4)) (n / 4) p 1 0 []
    | .ports _ _ _ =>
      inject s { pkt := .req p, die := n / 4, dim := some (portDim s n), vc := vc, key := some (n, 4096 * vc + id), more := more }

/-- PACKET_ROUTE of a response, whose header has no INJ (R329). -/
def routeRsp (s : State) (n vc : Nat) (p : RspPkt) : State :=
  if p.target.toNat = moduleId s then { s with lnk := { s.lnk with answers := s.lnk.answers ++ [p] } }
  else
    match hopTo s (n / 4) p.target.toNat with
    | .noRoute => noteNoRoute s (n / 4)
    | .ports _ _ _ => inject s { pkt := .rsp p, die := n / 4, dim := some (portDim s n), vc := vc, key := none, more := false }

/-- The last packet of a stream that a port receives, or none when its last packet has come. -/
def setRxStream (s : State) (n k : Nat) (p : Option ReqPkt) : State :=
  let x := portOf s n
  setPort s n { x with rx := cSet (fun _ => none) x.rx k p }

/-- A packet of an accepted flit. SYNC and LINK packets act by their own commands. -/
def takePacket (n : Nat) (s : State) (p : LinkPkt) : State :=
  let x := portOf s n
  let v := pktVc p
  let s := setPort s n { x with owed := setNth x.owed v (nth 0 x.owed v + pktUnits p) }
  match p with
  | .req vc h r =>
    let s := if h.more then setRxStream s n (4096 * vc.val + h.id) (some r)
      else if h.id = 0 then s else setRxStream s n (4096 * vc.val + h.id) none
    routeReq s n vc h.id r h.more
  | .cont vc h len data =>
    let k := 4096 * vc.val + h.id
    match cGet (fun _ => none) (portOf s n).rx k with
    | none => s
    | some l =>
      let r : ReqPkt := { l with addr := l.addr + BitVec.ofNat 64 l.len, tag := l.tag + 1, len := len, data := data }
      routeReq (setRxStream s n k (if h.more then some r else none)) n vc h.id r h.more
  | .rsp vc r => routeRsp s n vc r
  | .sync .. => s
  | .link .. => s

/-- The acknowledged flits leave the replay buffer. -/
def ackFlits (x : Port) (ack : BitVec 16) : Port :=
  let left := x.replay.filter (fun f => decide ((f.seq - ack).toNat - 1 < 96 ∧ f.seq ≠ ack))
  { x with replay := left, again := x.again.filter (fun f => left.any (fun g => g.seq == f.seq)),
           retries := if left.length < x.replay.length then 0 else x.retries }

/-- A NAK: the flits not acknowledged are sent again; the eighth replay in a row takes the port DOWN. -/
def takeNak (s : State) (n : Nat) : State :=
  let x := portOf s n
  let pg := lnkPg n
  let s := inc (setPort s n { x with again := x.replay, retries := x.retries + 1 }) (pg + 0x140)
  if x.retries + 1 ≥ 8 then portDown (intSet s pg 8) n else s

/-- A flit has failed: it and those after it are dropped until the retry, and a NAK is due. -/
def failFlit (s : State) (n : Nat) : State := setPort s n { portOf s n with nak := true, dropping := true }

/-- Fault injection, site 5: a flit is the event; the lane that fails is a free value (18_safety_security_clinker.md R458). -/
def injectLane (s : State) (n : Nat) : State :=
  match injectEvent s (lnkPg n) [5] with
  | (some _, s) => let v := drawFree s; injected v.2 (fun s => markLane s n (v.1 % 8))
  | (none, s) => s

/-- FLIT_RECEIVE: a flit that decodes and matches its CRC, and is the next in order, is accepted with its acknowledgement, credits and packets.
Which check a failed flit fails is a free value. An injection of site 5 fails a data lane of the port. -/
def execFlitReceive (port : Fin 16) (flit : Flit) (intact : Bool) (now : Nat) (s : State) : Out :=
  let s := injectLane (tick s now) port
  let n := port.val
  let pg := lnkPg n
  if portState s n ≠ 2 then .next s
  else if intact = false then
    let v := drawFree s
    .next (failFlit (inc v.2 (if v.1 % 2 = 0 then pg + 0x138 else pg + 0x13C)) n)
  else
    let x := portOf s n
    if flit.seq ≠ x.rxSeq + 1 then .next (if x.dropping then s else failFlit s n)
    else
      let x := ackFlits { x with rxSeq := flit.seq, dropping := false } flit.ack
      let v := flit.cvc.toNat
      let x := if v < 5 then { x with credits := setNth x.credits v (nth 0 x.credits v + flit.credits.toNat) } else x
      let s := inc64 (setPort s n x) (pg + 0x128) 1
      let s := flit.pkts.foldl (takePacket n) s
      .next (if flit.nak then takeNak s n else s)

end Sys2Proof.Machine
end

