-- ==== Sys2Proof/Machine/Policy.lean ====
section
/-!
DEFINITION. The owner policy (18_safety_security_clinker.md R438, R446): a configuration section's checks, its items, and the registers
that SP writes from them.
-/
namespace Sys2Proof.Machine

/-! ### Sections and items (R446) -/

/-- KIND, SIGNER, SEQ and LENGTH of a section, and its payload. -/
def secKind (b : List Byte) : Nat := leNat (slice b 0 1)
def secSigner (b : List Byte) : Nat := leNat (slice b 1 1)
def secSeq (b : List Byte) : Nat := leNat (slice b 4 4)
def secLen (b : List Byte) : Nat := leNat (slice b 8 4)
def secPayload (b : List Byte) : List Byte := slice b 16 (secLen b)

/-- ASCII bytes. -/
def ascii (t : String) : List Byte := t.toList.map (fun c => BitVec.ofNat 8 c.toNat)

/-- A digest of 256 bits (R442). -/
def digest (b : List Byte) : List Byte := shake256 b 32

/-- A payload's items, as TYPE and value, packed at 4-byte alignment. -/
def secItems : Nat → List Byte → List (Nat × List Byte)
  | 0, _ => []
  | n + 1, b =>
    if b.length < 4 then []
    else
      let len := leNat (slice b 2 2)
      (leNat (slice b 0 2), slice b 4 len) :: secItems n (b.drop (4 + 4 * ceilDiv len 4))

/-- The value of the first item of a TYPE. -/
def secItem (b : List Byte) (type : Nat) : Option (List Byte) :=
  ((secItems (b.length) (secPayload b)).find? (fun i => i.1 == type)).map (·.2)

/-- An OWNER_POLICY section that SP accepts: its header is valid, its signature is the owner's, its SEQ is not below counter 3. -/
def policyOk (s : State) (b : List Byte) : Bool :=
  decide (secKind b = 2 ∧ secSigner b / 64 = 1 ∧ secSigner b % 64 = 0 ∧ leNat (slice b 2 2) = 0 ∧ leNat (slice b 12 4) = 0 ∧
    b.length = 16 + secLen b + 128 ∧ arc s 3 ≤ secSeq b) &&
  match s.sp.owner with
  | some d => Config.ownerVerify d (ascii "GRIRNO-CFG") (b.take (16 + secLen b)) (slice b (16 + secLen b) 114)
  | none => false

/-! ### What SP writes from the items (R438; DEDUCED, log entry 50) -/

/-- The 32-bit words of a value. -/
def valWords : Nat → List Byte → List Nat
  | 0, _ => []
  | n + 1, b => if b.length < 4 then [] else leNat (b.take 4) :: valWords n (b.drop 4)

def itemWords (v : List Byte) : List Nat := valWords v.length v

/-- SP writes one word to each of a group of registers. -/
def spPut (s : State) (offs : List Nat) (v : Nat) : State := offs.foldl (fun s o => writeReg s o v .sp) s

/-- SP writes words to the groups in turn; a value that ends early leaves the rest. -/
def spPutAll : List (List Nat) → List Nat → State → State
  | g :: gs, v :: vs, s => spPutAll gs vs (spPut s g v)
  | _, _, s => s

/-- SP writes a register pair. -/
def spPair (o : Nat) : List (List Nat) := [[o], [o + 4]]

/-- The registers of the LIMITS item: the rails' ILIM, HRT_GUARD, HRT_TLIM, HRT_D_DROOP_THR, HBM_THERM_LIM, SP_CAL_PERIOD, SP_CAL_DRIFT,
SP_CAL_IDLE_MS, SP_TRIAL_S, HRT_CAP. -/
def limitRegs : List (List Nat) :=
  (List.range 11).map (fun r => [hrtPg + 0x1C0 + 4 * r]) ++
    [[hrtPg + 0x11C], [hrtPg + 0x148], (List.range 4).map (fun d => hrtDPg d + 0x110), (List.range 32).map (fun c => ctlPg c 0 + 0x110),
     [calPg + 0x104], [calPg + 0x108], [calPg + 0x10C], [sp0Pg + 0x114], [hrtPg + 0x108]]

/-- The registers of the POOL item: FTL_BILLET_SIZE, FTL_MAP_BASE, FTL_POOL_CFG, FTL_POOL_HOST_BASE, FTL_POOL_HOST_FRAMES. -/
def poolRegs : List (List Nat) :=
  spPair (ftl0Pg + 0x110) ++ spPair (ftl0Pg + 0x120) ++ [[ftl1Pg + 0x100]] ++ spPair (ftl1Pg + 0x108) ++ [[ftl1Pg + 0x110]]

/-- The registers of the FABRIC item before its table: TNG_SELF_MOD, FTM_CTL.ROOT_EN, LNK_DIR by port, LNK_RT_CFG, LNK_RT_DIM. -/
def fabricRegs : List (List Nat) :=
  [(List.range 8).map (fun sl => tngPg sl + 0x10C), [ftmPg + 0x100]] ++ (List.range 16).map (fun p => [lnkPg p + 0x108]) ++
    [(List.range 4).map (fun d => rtPg d + 0x100), (List.range 4).map (fun d => rtPg d + 0x104)]

/-- The FABRIC item's table: its entries by index, the same on every die. -/
def putTable (words : List Nat) (s : State) : State :=
  { s with win := { s.win with rtData := (List.range 4).foldl (fun m d =>
      cSetList (fun _ => 0) m (4096 * d) ((words.take 4096).map (fun w => BitVec.ofNat 32 (w &&& 0x8001FFFF)))) s.win.rtData } }

/-- ROOT_EN of the FABRIC item: FTM_CTL's EN is not SP's to write. -/
def withEn (s : State) (ws : List Nat) : List Nat :=
  match ws with
  | a :: b :: r => a :: putBits (rd s (ftmPg + 0x100)) 1 1 (bitsOf b 1 1) :: r
  | l => l

/-- Entry k of the CLIENTS item: 12 bytes. -/
def putClient (v : List Byte) (s : State) (k : Nat) : State :=
  let e := slice v (12 * k) 12
  let w := leNat (slice e 0 2) * 2 ^ 16 + bitsOf (leNat (slice e 2 1)) 0 0 * 2 ^ 15 + bitsOf (leNat (slice e 2 1)) 1 1 * 2 ^ 14 +
    bitsOf (leNat (slice e 3 1)) 3 0
  let s := spPut (spPut s [partPg + 0x200] k) [partPg + 0x204] w
  spPut s [partPg + 0x208] (leNat (slice e 4 4))

/-- The CLIENTS item: all 64 entries; the select register keeps its value. -/
def putClients (v : List Byte) (s : State) : State :=
  let sel := rd s (partPg + 0x200)
  wr ((List.range 64).foldl (putClient v) s) (partPg + 0x200) sel

/-- The items that take effect when SP accepts the section: LIMITS, CLIENTS, FLAGS. -/
def applyNow (s : State) (b : List Byte) : State :=
  let s := match secItem b 4 with
    | some v => spPutAll limitRegs (itemWords v) s
    | none => s
  let s := match secItem b 2 with
    | some v => putClients v s
    | none => s
  match secItem b 5 with
  | some v => wrB s (sp0Pg + 0x140) 1 ((leNat (v.take 4)).testBit 0)
  | none => s

/-- The items that are applied only while no partition exists: FABRIC, POOL. -/
def applyLater (s : State) (b : List Byte) : State :=
  let s := match secItem b 1 with
    | some v =>
      let ws := withEn s (itemWords v)
      let old := rd s (ftmPg + 0x100)
      let s := putTable (ws.drop fabricRegs.length) (spPutAll fabricRegs ws s)
      ftmCtlWritten s old (rd s (ftmPg + 0x100))
    | none => s
  match secItem b 3 with
  | some v => spPutAll poolRegs (itemWords v) s
  | none => s

/-- Apply the policy's items; FABRIC and POOL wait while a partition exists, which PENDING reports. -/
def applyPolicy (s : State) (b : List Byte) : State :=
  let s := applyNow s b
  if anyPartition s then wrB { s with sp := { s.sp with pending := true } } (sp0Pg + 0x140) 2 true
  else applyLater s b

/-- The last partition has gone: the items that waited are applied. -/
def applyPending (s : State) : State :=
  if s.sp.pending && !(anyPartition s) then
    let s := wrB { s with sp := { s.sp with pending := false } } (sp0Pg + 0x140) 2 false
    match s.sp.policy with
    | some b => applyLater s b
    | none => s
  else s

end Sys2Proof.Machine
end

