-- ==== Sys2Proof/Machine/Stash.lean ====
section
/-!
DEFINITION. The activation stash (02_segments_and_stash.md R29 to R45, R54, R55): lanes and records, pushes with their one outcome, spills
and refills, pops, and the aborted state.
-/
namespace Sys2Proof.Machine

/-! ### Lanes -/

def laneOf (s : State) (sl l : Nat) : SthLane := cGet (fun _ => {}) s.sth.lanes (4 * sl + l)

def setLane (s : State) (sl l : Nat) (x : SthLane) : State :=
  { s with sth := { s.sth with lanes := cSet (fun _ => {}) s.sth.lanes (4 * sl + l) x } }

/-- The number of lanes (STH_CFG.LANES). -/
def sthLanes (s : State) (sl : Nat) : Nat := rdF s (sthPg sl + 0x104) 5 4 + 1

def laneBase (s : State) (sl l : Nat) : Nat := rd64 s (sthPg sl + 0x140 + 32 * l)
def laneSize (s : State) (sl l : Nat) : Nat := rd64 s (sthPg sl + 0x148 + 32 * l)

/-- A record's bytes: header and parts, up to a multiple of 4 KiB (R33). -/
def recSize (contrib pbytes : Nat) : Nat := 4096 + ceilDiv (contrib * pbytes) 4096 * 4096

def SthRec.size (r : SthRec) : Nat := recSize r.contrib r.pbytes

/-- The bytes of records. -/
def recsSize (l : List SthRec) : Nat := sumNat (l.map SthRec.size)

/-- The newest spilled record. -/
def newestSpilled (x : SthLane) : Option SthRec := x.spilled.getLast?

/-- The bytes of a lane in use, a refill's reservation counted (R36). -/
def laneUsed (x : SthLane) : Nat :=
  recsSize x.recs + (if x.refill then (match newestSpilled x with
                                       | some r => r.size
                                       | none => 0) else 0)

def laneFree (s : State) (sl l : Nat) : Nat := laneSize s sl l - laneUsed (laneOf s sl l)

/-- A lane's share of the spill area (R31), and where it starts. -/
def spillShare (s : State) (sl : Nat) : Nat := rd64 s (sthPg sl + 0x120) / sthLanes s sl
def shareBase (s : State) (sl l : Nat) : Nat := rd64 s (sthPg sl + 0x118) + l * spillShare s sl

/-- Where a spilled record stands in its share: above those spilled before it. -/
def spillOff (x : SthLane) (id : Nat) : Nat := recsSize (x.spilled.takeWhile (fun r => r.id != id))

/-- The parts of n bytes at ring offset o of a ring, each at its address. -/
def ringParts (base size o n : Nat) : List (Nat × Nat) :=
  if size = 0 then [] else (splitRange size (o % size) n).map (fun r => (base + r.1 % size, r.2))

/-- Write into a ring: traffic of the write class (R40). -/
def ringStore (s : State) (p base size o : Nat) (bs : List Byte) : State :=
  ((ringParts base size o bs.length).foldl (fun (a : State × List Byte) r =>
    (chargeRange (devWrite a.1 p r.1 (a.2.take r.2)) p r.1 r.2 1, a.2.drop r.2)) (s, bs)).1

/-- Read from a ring. -/
def ringLoad (s : State) (p base size o n : Nat) : List Byte :=
  ((ringParts base size o n).map (fun r => memBytes s p r.1 r.2)).flatten

/-- What a read of n bytes of a record in the ring meets in HBM (10_hbm4_memory.md R266); whether it is uncorrectable. -/
def recEcc (s : State) (p sl l : Nat) (r : SthRec) (o n : Nat) (e : Ecc) : Bool × State :=
  (ringParts (laneBase s sl l) (laneSize s sl l) (r.off + o) n).foldl (fun (x : Bool × State) c =>
    let u := unitErr x.2 p c.1 c.2 e
    (x.1 || u.1, u.2)) (false, s)

/-- Charge n bytes of a record in the ring to the read class, and count their sectors (R40); a record in the spill share is not in HBM's
ring. -/
def recTraffic (s : State) (p sl l : Nat) (r : SthRec) (o n : Nat) : State :=
  if (laneOf s sl l).recs.any (fun y => y.id == r.id) then
    (ringParts (laneBase s sl l) (laneSize s sl l) (r.off + o) n).foldl
      (fun s c => chargeRange (countHbm s p c.1 c.2 0x120) p c.1 c.2 0) s
  else s

/-- Write n bytes of a record at an offset in it, in the ring or in the spill share. -/
def recStore (s : State) (p sl l : Nat) (r : SthRec) (o : Nat) (bs : List Byte) : State :=
  let x := laneOf s sl l
  if x.recs.any (fun y => y.id == r.id) then ringStore s p (laneBase s sl l) (laneSize s sl l) (r.off + o) bs
  else devWrite s p (shareBase s sl l + spillOff x r.id + o) bs

/-- Read n bytes of a record. -/
def recLoad (s : State) (p sl l : Nat) (r : SthRec) (o n : Nat) : List Byte :=
  let x := laneOf s sl l
  if x.recs.any (fun y => y.id == r.id) then ringLoad s p (laneBase s sl l) (laneSize s sl l) (r.off + o) n
  else memBytes s p (shareBase s sl l + spillOff x r.id + o) n

/-! ### Headers (R34) -/

/-- The bytes of a header up to PUSH_TIME. -/
def hdrHead (l : Nat) (r : SthRec) (spilled : Bool) : List Byte :=
  leBytes 2 1 ++ leBytes 2 ((if r.valid then 1 else 0) + (if spilled then 2 else 0) + (if r.refill then 4 else 0)) ++
    leBytes 2 r.seg ++ leBytes 1 l ++ leBytes 1 r.folds ++ leBytes 4 r.mb ++ leBytes 4 r.epoch ++ leBytes 8 r.step ++
    leBytes 8 (r.contrib * r.pbytes) ++ leBytes 2 r.contrib ++ leBytes 2 r.fmt ++ leBytes 4 r.pbytes ++ leBytes 8 r.prev ++
    leBytes 8 r.time

/-- A header's first 64 bytes. -/
def hdrBytes (l : Nat) (r : SthRec) (spilled : Bool) : List Byte :=
  let h := hdrHead l r spilled
  h ++ leBytes 4 (crc32c h).toNat ++ leBytes 4 0

/-- Write a record's header where the record stands. -/
def putHeader (s : State) (p sl l : Nat) (r : SthRec) : State :=
  recStore s p sl l r 0 (hdrBytes l r ((laneOf s sl l).spilled.any (fun y => y.id == r.id)))

/-- Replace a record of a lane. -/
def putRec (s : State) (sl l : Nat) (r : SthRec) : State :=
  let x := laneOf s sl l
  let f := fun (y : SthRec) => if y.id = r.id then r else y
  setLane s sl l { x with recs := x.recs.map f, spilled := x.spilled.map f }

/-- A record of a lane by number. -/
def recOf (x : SthLane) (id : Nat) : Option SthRec := (x.recs ++ x.spilled).find? (fun r => r.id == id)

/-- The top record: the newest in HBM, else the newest spilled. -/
def topRec (x : SthLane) : Option SthRec :=
  match x.recs.getLast? with
  | some r => some r
  | none => newestSpilled x

/-! ### Completion -/

/-- A blocked thread goes on. -/
def unblockPart (s : State) (q : SthPart) : State :=
  let x := thrOf s q.tile q.thr
  if x.gen = q.gen ∧ x.st = .blockedSync (.stash q.desc) then setThr s q.tile q.thr { x with st := .runnable } else s

/-- The µs that a part has waited. -/
def waitedUs (s : State) (q : SthPart) : Nat :=
  match q.blocked with
  | some b => (s.time - b) / 1000
  | none => 0

/-- A push or pop completes: its place and tag are free, D receives the code (R37), and what waited on it is looked at again. -/
def sthDone (s : State) (q : SthPart) (code : Nat) : State :=
  let t := q.tile
  let s := setDescs s t ((descsOf s t).filter (fun d => d.id != q.desc))
  let s := unblockPart (lateWrite s t q.thr q.gen q.dest (markBlw q.desc) (BitVec.ofNat 64 code)) q
  let s := wakeFences s t
  settleDrains t (descsOf s t) s

/-- An ORDER, EMPTY or STALE outcome: its bit, and STH_ORDER_CNT. -/
def sthFault (s : State) (sl : Nat) (q : SthPart) (code : Nat) : State :=
  sthDone (inc (intSet s (sthPg sl) (if code = 6 then 4 else 2)) (sthPg sl + 0x1E8)) q code

/-- The aborted state (R44). -/
def sthAborted (s : State) (sl : Nat) : Bool := rdB s (sthPg sl + 0x108) 0

/-- Record the peak occupancy of a lane (R55). -/
def sthPeak (s : State) (sl l : Nat) : State :=
  let o := sthPg sl + 0x1F0 + 4 * l
  let m := ceilDiv (laneUsed (laneOf s sl l)) 1048576
  if m > rd s o then wr s o m else s

/-! ### Push: the parts of a record (R35) -/

/-- The part may be stored: its slots allow the read. -/
def partReadable (s : State) (q : SthPart) (pbytes : Nat) : Bool :=
  (firstBlocked s q.tile none (rangeUses (512 * q.slot) pbytes .read)).isNone

/-- Store a part whose slots allow the read; the last one sets VALID at STH_RECORD_VALID. A part with an uncorrectable error in
scratchpad sends nothing (08_scratchpad.md R223); R37 has no code for it, so its status is a free value (DESIGN CHOICE, log entry 47). -/
def landPart (s : State) (p sl l : Nat) (r : SthRec) (q : SthPart) (code : Nat) : State :=
  let e := spadEcc s q.tile [(512 * q.slot, r.pbytes)] q.ecc
  let s := spadEccNote e.2 q.tile 1 e.1
  match e.1 with
  | .uncorrectable _ =>
    let v := drawFree s
    sthDone v.2 q (v.1 % 16)
  | _ =>
    let bs := seeBytes s q.tile none (512 * q.slot) r.pbytes
    let s := recStore s p sl l r (4096 + q.idx * r.pbytes) bs
    sthDone (putRec s sl l { r with landed := r.landed ++ [q.idx] }) q code

/-- The record arriving on a lane is the newest in HBM. -/
def arriving (x : SthLane) : Option SthRec := x.recs.getLast?

/-- Store the parts that can be stored. -/
def landParts (p sl l code : Nat) : List SthPart → State → State
  | [], s => s
  | q :: qs, s =>
    let x := laneOf s sl l
    match x.opening, arriving x with
    | some g, some r =>
      if partReadable s q r.pbytes then
        landParts p sl l code qs
          (landPart (setLane s sl l { x with opening := some { g with parts := g.parts.filter (fun y => y.desc != q.desc) } })
            p sl l r q code)
      else landParts p sl l code qs s
    | _, _ => s

/-- A lane's record closes when every contributor's part has arrived and none waits. -/
def closeOpen (s : State) (sl l : Nat) : State :=
  let x := laneOf s sl l
  match x.opening with
  | some g =>
    match g.entry with
    | some e => if g.got.length ≥ e.2.2.2 ∧ g.parts.isEmpty then setLane s sl l { x with opening := none } else s
    | none => s
  | none => s

/-- Parts that share an outcome that stores nothing return it. -/
def answerParts (code : Nat) : List SthPart → State → State
  | [], s => s
  | q :: qs, s => answerParts code qs (sthDone s q code)

/-- Go on with the parts of a lane's arriving record, by its outcome. -/
def settleParts (s : State) (p sl l : Nat) : State :=
  let x := laneOf s sl l
  match x.opening with
  | none => s
  | some g =>
    match g.code with
    | none => s
    | some code =>
      if g.spill.isSome then s
      else if code = 0 ∨ code = 2 then closeOpen (landParts p sl l code g.parts s) sl l
      else closeOpen (answerParts code g.parts (setLane s sl l { x with opening := some { g with parts := [] } })) sl l

/-! ### Push: the outcome (R36) -/

/-- Enter the aborted state (R44). -/
def sthOverflow (s : State) (p sl l seg : Nat) : State :=
  let pg := sthPg sl
  let s := wr s (pg + 0x108) (seg % 65536 * 65536 + l * 256 + 1)
  let s := inc (intSet s pg 1) (pg + 0x1DC)
  let s := latchBlk s pg (seg % 65536 + l * 65536) (laneBase s sl l)
  detectPart s p 3 (laneBase s sl l)

/-- Open the record on the lane: header written, parts to follow. -/
def openRecord (s : State) (p sl l : Nat) (g : SthOpen) (fmt pbytes contrib : Nat) : State :=
  let x := laneOf s sl l
  let r : SthRec :=
    { id := s.sth.nextId, off := x.top, seg := g.seg, mb := g.mb, step := g.step, folds := 0, epoch := rd s (sthPg sl + hEpoch),
      fmt := fmt, pbytes := pbytes, contrib := contrib,
      prev := (match topRec x with
               | some y => y.off
               | none => 2 ^ 64 - 1),
      time := 0, landed := [], valid := false, refill := false, popped := [], done := [] }
  let s := { s with sth := { s.sth with nextId := s.sth.nextId + 1 } }
  let s := setLane s sl l { x with recs := x.recs ++ [r], top := (x.top + r.size) % laneSize s sl l }
  sthPeak (recStore s p sl l r 0 (hdrBytes l r false ++ List.replicate 4032 0)) sl l

/-- The number of oldest VALID records whose removal frees the bytes needed, with their bytes (R36). -/
def spillPlan : Nat → List SthRec → Option (Nat × Nat)
  | 0, _ => some (0, 0)
  | _, [] => none
  | need, r :: rs =>
    if r.valid then (spillPlan (need - r.size) rs).map (fun x => (x.1 + 1, x.2 + r.size)) else none

/-- Block the threads whose parts wait for a spill. -/
def blockParts (s : State) (sl l : Nat) : State :=
  let x := laneOf s sl l
  match x.opening with
  | none => s
  | some g =>
    let s := setLane s sl l { x with opening := some { g with parts := g.parts.map (fun q => { q with blocked := some s.time }) } }
    g.parts.foldl (fun s q =>
      let y := thrOf s q.tile q.thr
      if y.gen = q.gen ∧ y.st = .runnable then blockThread' s q else s) s
where
  /-- The pushing thread is BLOCKED_SYNC. -/
  blockThread' (s : State) (q : SthPart) : State :=
    setThr s q.tile q.thr { thrOf s q.tile q.thr with st := .blockedSync (.stash q.desc), since := s.time }

/-- Decide the outcome of the record whose first part has arrived; the refill that it awaits, if any, has ended when final is true. -/
def decideRecord (s : State) (p sl l : Nat) (g : SthOpen) (fmt flags pbytes contrib : Nat) : State :=
  let pg := sthPg sl
  let x := laneOf s sl l
  let put := fun (s : State) (g : SthOpen) => setLane s sl l { laneOf s sl l with opening := some g }
  let size := recSize contrib pbytes
  let free := laneFree s sl l
  let canFold := match topRec x with
    | some r => flags.testBit 0 && r.mb == g.mb && r.step == g.step && decide (r.folds + 1 < rdF s (pg + 0x104) 3 0)
    | none => false
  if size ≤ free then
    settleParts (openRecord (put s { g with code := some 0, refill := false }) p sl l g fmt pbytes contrib) p sl l
  else if canFold then
    match topRec x with
    | some r =>
      let r := { r with folds := r.folds + 1 }
      let s := putHeader (putRec (put s { g with code := some 1, refill := false }) sl l r) p sl l r
      settleParts (inc (intSet s pg 16) (pg + 0x1D0)) p sl l
    | none => s
  else if rdB s (pg + 0x104) 6 ∧ flags.testBit 1 ∧ x.refill then put s { g with refill := true }
  else
    match (if rdB s (pg + 0x104) 6 ∧ flags.testBit 1 ∧ size ≤ laneSize s sl l then spillPlan (size - free) x.recs else none) with
    | some (n, bytes) =>
      if recsSize x.spilled + bytes ≤ spillShare s sl then
        blockParts (intSet (put s { g with code := some 2, spill := some n, refill := false }) pg 8) sl l
      else settleParts (sthOverflow (put s { g with code := some 3, refill := false }) p sl l g.seg) p sl l
    | none => settleParts (sthOverflow (put s { g with code := some 3, refill := false }) p sl l g.seg) p sl l

/-- A part is refused with ORDER: its contributor is out of range, its slots run past slot 32,767, or it has arrived before (R35). -/
def partBad (got : List Nat) (contrib pbytes : Nat) (q : SthPart) : Bool :=
  decide (q.idx ≥ contrib) || decide (q.slot + pbytes / 512 > 32768) || got.contains q.idx

/-- Take the parts that the entry allows, in order of arrival; refuse the others. -/
def admitParts (sl contrib pbytes : Nat) : List SthPart → List Nat → List SthPart → State → List Nat × List SthPart × State
  | [], got, ok, s => (got, ok, s)
  | q :: qs, got, ok, s =>
    if partBad got contrib pbytes q then admitParts sl contrib pbytes qs got ok (sthFault s sl q 5)
    else admitParts sl contrib pbytes qs (got ++ [q.idx]) (ok ++ [q]) s

/-- STH_SEGTAB_READ: the segment-table entry of a lane's arriving record is there; the outcome is decided once (R29, R36). -/
def execSthSegtabRead (slice : Fin 8) (lane : Fin 4) (ecc : Ecc) (now : Nat) (s : State) : Out :=
  let s := tick s now
  let sl := slice.val
  let l := lane.val
  match partOfSlice s sl, (laneOf s sl l).opening with
  | some p, some g =>
    if g.entry.isSome then .next (settleParts s p sl l)
    else
      let a := rd64 s (sthPg sl + 0x110) + 16 * g.seg
      let u := unitRead (chargeRange s p a 16 0) p a 16 ecc
      let e := memBytes s p a 16
      let pbytes := leNat (slice_ e 8 4)
      let contrib := leNat (slice_ e 12 2)
      let s := u.2
      if !(inPart s p a 16) || u.1 || leNat (slice_ e 0 2) != g.seg || pbytes % 512 != 0 || contrib == 0 ||
          decide (contrib > (partTiles s p).length) then
        .next (g.parts.foldl (fun s q => sthFault s sl q 5) (setLane s sl l { laneOf s sl l with opening := none }))
      else
        let r := admitParts sl contrib pbytes g.parts [] [] s
        let s := r.2.2
        if r.2.1.isEmpty then .next (setLane s sl l { laneOf s sl l with opening := none })
        else
          .next (decideRecord s p sl l
            { g with entry := some (leNat (slice_ e 5 1), leNat (slice_ e 6 1), pbytes, contrib), got := r.1, parts := r.2.1 }
            (leNat (slice_ e 5 1)) (leNat (slice_ e 6 1)) pbytes contrib)
  | _, _ => .next s
where
  /-- n bytes from place i. -/
  slice_ (b : List Byte) (i n : Nat) : List Byte := Machine.slice b i n

/-- A part of a record that is already open, or the first of a new one. -/
def pushPart (s : State) (p sl l seg mb step : Nat) (q : SthPart) : State :=
  let x := laneOf s sl l
  match x.opening with
  | none =>
    setLane s sl l { x with opening := some { seg := seg, mb := mb, step := step, entry := none, code := none, got := [],
                                              parts := [q], spill := none, refill := false } }
  | some g =>
    if g.seg ≠ seg ∨ g.mb ≠ mb ∨ g.step ≠ step then sthFault s sl q 5
    else
      match g.entry with
      | none => setLane s sl l { x with opening := some { g with parts := g.parts ++ [q] } }
      | some e =>
        if partBad g.got e.2.2.2 e.2.2.1 q then sthFault s sl q 5
        else
          let s := setLane s sl l { x with opening := some { g with got := g.got ++ [q.idx], parts := g.parts ++ [q] } }
          if g.spill.isSome then blockParts s sl l else settleParts s p sl l

/-- The record open on a lane is the one that a push names. -/
def sameOpen (x : SthLane) (seg mb step code : Nat) : Bool :=
  match x.opening with
  | some g => g.seg == seg && g.mb == mb && g.step == step && g.code == some code
  | none => false

/-- A push or pop that Bellows takes: checks of R35, R55 and R44, and then eff. -/
def sthAccept (s : State) (sl l : Nat) (q : SthPart) (passes : Bool) (eff : State → State) : State :=
  if !(rdB s (sthPg sl + 0x100) 0) || decide (l ≥ sthLanes s sl) then sthFault s sl q 5
  else if sthAborted s sl && !passes then sthDone s q 4
  else eff s

/-- The place and tag of a push or pop. -/
def sthDesc (id : Nat) (k : BKind) (thr : Nat × Nat × Nat) (now : Nat) : BDesc :=
  { id := id, kind := k, thr := some thr, ring := none, task := none, src := 0, list := none, base := 0, sk := 0, pieces := [],
    live := [], slots := [], tag := false, capped := none, behind := false, fail := none, since := now, scope := false, drainId := 0,
    atDrain := false }

/-- STH.PUSH and STH.POP at issue (R192): a member of a task faults (R166), a tile of no partition receives ORDER (R502). -/
def sthOp (mn : String) (o : Nat) (legal : Nat → Bool) (k : BKind) (eff : OpCtx → Nat → Nat → SthPart → State → State) (i : Issue)
    (s : State) : Out :=
  issueOp mn 4 o (fun w => specOk (fD w) && specOk (bitsOf w 39 34) && specOk (bitsOf w 33 28) && specOk (bitsOf w 27 22) && legal w)
    (fun w => [bitsOf w 39 34, bitsOf w 33 28, bitsOf w 27 22, 32 + bitsOf w 21 19]) i s fun c s =>
      let slot := (xreg s c.t c.th (32 + bitsOf c.w 21 19)).toNat
      if (c.task s).isSome then .fault 6
      else if inPool s c.t slot then .fault 3
      else
        match partOfTile s c.t with
        | none => .done (setXreg s c.t c.th (fD c.w) 5)
        | some p =>
          if (descsOf s c.t).length ≥ 32 ∨ blwTags s c.t ≥ 96 then .wait
          else
            let f := freshBlw s
            let g := (thrOf s c.t c.th).gen
            let s := setDescs (addPend f.2 c.t c.th (fD c.w) (markBlw f.1)) c.t (descsOf f.2 c.t ++ [sthDesc f.1 k (c.th, g, fD c.w) s.time])
            let q : SthPart :=
              { desc := f.1, tile := c.t, thr := c.th, gen := g, dest := fD c.w, slot := slot,
                idx := partIndex s p (logicalOf s c.t), blocked := none, ecc := c.ecc }
            .done (eff c p (lowSlice s p) q s)

/-- STH_PUSH: this tile's part of B_s(SEG) is offered to its lane. -/
def execSthPush (i : Issue) (s : State) : Out :=
  sthOp "STH_PUSH" 0x10 (fun w => zero w 18 0) .push (fun c p sl q s =>
    let l := bitsOf c.w 41 40
    let seg := (xreg s c.t c.th (bitsOf c.w 39 34)).toNat
    let mb := (xreg s c.t c.th (bitsOf c.w 33 28)).toNat % 2 ^ 32
    let step := (xreg s c.t c.th (bitsOf c.w 27 22)).toNat
    sthAccept s sl l q (sameOpen (laneOf s sl l) seg mb step 3) (fun s => pushPart s p sl l seg mb step q)) i s

/-! ### Spills and refills (R36, R41, R42) -/

/-- Move the oldest record of a lane to its spill share. -/
def spillOne (p sl l : Nat) (s : State) : State :=
  let x := laneOf s sl l
  match x.recs with
  | [] => s
  | r :: rs =>
    let bs := recLoad s p sl l r 0 r.size
    let s := recTraffic s p sl l r 0 r.size
    let s := setLane s sl l { x with recs := rs, spilled := x.spilled ++ [{ r with refill := false }] }
    let s := recStore s p sl l r 0 bs
    putHeader (inc s (sthPg sl + 0x1D4)) p sl l { r with refill := false }

/-- Repeat. -/
def spillMany (p sl l : Nat) : Nat → State → State
  | 0, s => s
  | n + 1, s => spillMany p sl l n (spillOne p sl l s)

/-- Add the time that the blocked parts have waited to a counter and let their threads go on. -/
def freeParts (cnt : Nat) : List SthPart → State → State
  | [], s => s
  | q :: qs, s => freeParts cnt qs (unblockPart (incBy s cnt (waitedUs s q)) q)

/-- STH_SPILL_DONE: a lane's spill has moved its records; the new record is stored (R36). -/
def execSthSpillDone (slice : Fin 8) (lane : Fin 4) (now : Nat) (s : State) : Out :=
  let s := tick s now
  let sl := slice.val
  let l := lane.val
  match partOfSlice s sl, (laneOf s sl l).opening with
  | some p, some g =>
    match g.spill, g.entry with
    | some n, some e =>
      let s := freeParts (sthPg sl + 0x1E4) g.parts (spillMany p sl l n s)
      let g := { g with spill := none, parts := g.parts.map (fun q => { q with blocked := none }) }
      .next (settleParts (openRecord (setLane s sl l { laneOf s sl l with opening := some g }) p sl l g e.1 e.2.2.1 e.2.2.2) p sl l)
    | _, _ => .next s
  | _, _ => .next s

/-- A record of the lane is open for push: its outcome is not decided, its parts are arriving, or it is not VALID yet. -/
def openForPush (x : SthLane) : Bool :=
  (match x.opening with
   | some g => !(g.code == some 1 || g.code == some 3) && !g.refill
   | none => false) || x.recs.any (fun r => !r.valid)

/-- Start a refill of the lane's newest spilled record where R41 allows it. -/
def startRefill (s : State) (sl l : Nat) : State :=
  let x := laneOf s sl l
  match newestSpilled x with
  | some r =>
    if rdB s (sthPg sl + 0x104) 7 && !x.refill && !(openForPush x) && decide (laneFree s sl l ≥ r.size) then
      sthPeak (setLane s sl l { x with refill := true }) sl l
    else s
  | none => s

/-! ### Pop (R38, R39) -/

/-- A pop completes. -/
def popDone (s : State) (sl l : Nat) (o : SthPop) (code : Nat) : State :=
  let x := laneOf s sl l
  sthDone (setLane s sl l { x with pops := x.pops.filter (fun y => y.part.desc != o.part.desc) }) o.part code

/-- A pop ends with ORDER, EMPTY or STALE. -/
def popFault (s : State) (sl l : Nat) (o : SthPop) (code : Nat) : State :=
  let x := laneOf s sl l
  sthFault (setLane s sl l { x with pops := x.pops.filter (fun y => y.part.desc != o.part.desc) }) sl o.part code

/-- A pop waits, as it now stands. -/
def keepPop (s : State) (sl l : Nat) (o : SthPop) : State :=
  let x := laneOf s sl l
  let l' :=
    if x.pops.any (fun y => y.part.desc == o.part.desc) then x.pops.map (fun y => if y.part.desc = o.part.desc then o else y)
    else x.pops ++ [o]
  setLane s sl l { x with pops := l' }

/-- Records that all contributors have popped leave the top of the lane, and of its spill share. -/
def dropFreed (l : List SthRec) : List SthRec := (l.reverse.dropWhile (fun r => decide (r.done.length ≥ r.contrib))).reverse

/-- A contributor's pop of a record is done: a record whose last one it is is freed (R39). -/
def countPop (s : State) (sl l : Nat) (r : SthRec) (idx : Nat) : State :=
  let s := putRec s sl l { r with done := r.done ++ [idx] }
  let x := laneOf s sl l
  let recs := dropFreed x.recs
  let x := { x with recs := recs, top := (match (x.recs.drop recs.length).head? with
                                           | some y => y.off
                                           | none => x.top) }
  if x.recs.isEmpty then
    let sp := dropFreed x.spilled
    setLane s sl l { x with spilled := sp, refill := x.refill && decide (sp.length = x.spilled.length),
                            top := (match (x.spilled.drop sp.length).head? with
                                    | some y => y.off
                                    | none => x.top) }
  else setLane s sl l x

/-- Deliver a part once its slots allow it. A part with an uncorrectable error in HBM is not delivered and not counted; R37 has no code
for it, so its status is a free value (DESIGN CHOICE, log entry 47). -/
def deliverPop (s : State) (p sl l : Nat) (o : SthPop) (r : SthRec) (code : Nat) : State :=
  let q := o.part
  let uses := rangeUses (512 * q.slot) r.pbytes .produce
  if o.discard then popDone (if code = 0 then countPop s sl l r q.idx else s) sl l o code
  else
    match firstBlocked s q.tile none uses with
    | some _ => keepPop s sl l { o with found := some (r.id, code) }
    | none =>
      let e := recEcc (recTraffic s p sl l r (4096 + q.idx * r.pbytes) r.pbytes) p sl l r (4096 + q.idx * r.pbytes) r.pbytes q.ecc
      if e.1 then
        let v := drawFree e.2
        popDone (if code = 0 then putRec v.2 sl l { r with popped := r.popped.filter (fun x => x != q.idx) } else v.2) sl l o (v.1 % 16)
      else
        let bs := recLoad s p sl l r (4096 + q.idx * r.pbytes) r.pbytes
        let s := settleTags (pokeBytes e.2 q.tile none (512 * q.slot) bs) q.tile none uses
        popDone (if code = 0 then countPop s sl l r q.idx else s) sl l o code

/-- Block a pop's thread. -/
def blockPop (s : State) (sl l : Nat) (o : SthPop) : State :=
  let q := o.part
  let x := thrOf s q.tile q.thr
  let b := match q.blocked with
    | some b => b
    | none => s.time
  let s := keepPop s sl l { o with part := { q with blocked := some b } }
  if x.gen = q.gen ∧ x.st = .runnable then
    setThr s q.tile q.thr { x with st := .blockedSync (.stash q.desc), since := s.time }
  else s

/-- A pop that was blocked goes on. -/
def resumePop (s : State) (o : SthPop) : SthPop × State :=
  ({ o with part := { o.part with blocked := none } }, unblockPart s o.part)

/-- The record at the top of a lane as a pop sees it (R38): its header is checked where it stands; one that cannot be read fails its check. -/
def comparePop (s : State) (p sl l : Nat) (o : SthPop) : State :=
  let x := laneOf s sl l
  match topRec x with
  | none => popFault s sl l o 7
  | some r =>
    let h := recLoad s p sl l r 0 60
    let spilled := x.recs.isEmpty
    let e := if spilled then (false, s) else recEcc (if r.valid then recTraffic s p sl l r 0 64 else s) p sl l r 0 64 o.part.ecc
    let s := if r.valid || e.1 then e.2 else s
    if e.1 then popFault s sl l o 6
    else if crc32c (h.take 56) ≠ BitVec.ofNat 32 (leNat (slice h 56 4)) ∨ leNat (slice h 12 4) ≠ rd s (sthPg sl + hEpoch) then
      popFault s sl l o 6
    else if spilled ∧ o.discard = false then blockPop (startRefill s sl l) sl l o
    else if r.valid = false then blockPop s sl l o
    else
      let w := resumePop s o
      let o := w.1
      let s := w.2
      let seg := leNat (slice h 4 2)
      if leNat (slice h 8 4) ≠ o.mb ∨ seg > o.seg then popFault s sl l o 5
      else if o.part.idx ≥ r.contrib ∨ (o.discard = false ∧ o.part.slot + r.pbytes / 512 > 32768) then popFault s sl l o 5
      else if seg = o.seg then
        if r.popped.contains o.part.idx then popFault s sl l o 5
        else
          let r := { r with popped := r.popped ++ [o.part.idx] }
          deliverPop (putRec s sl l r) p sl l o r 0
      else deliverPop s p sl l o r 1

/-- A waiting pop tries again. -/
def retryPop (s : State) (p sl l : Nat) (o : SthPop) : State :=
  match o.found with
  | some (id, code) =>
    match recOf (laneOf s sl l) id with
    | some r => deliverPop s p sl l o r code
    | none => popFault s sl l o 5
  | none => comparePop s p sl l o

/-- Waiting pops of a lane try again, in order. -/
def retryPops (p sl l : Nat) : List SthPop → State → State
  | [], s => s
  | o :: os, s => retryPops p sl l os (retryPop s p sl l o)

/-- Look again at everything that waits on a lane. -/
def settleLane (s : State) (p sl l : Nat) : State :=
  let s := settleParts s p sl l
  retryPops p sl l (laneOf s sl l).pops s

/-- STH.POP, with or without DISCARD. -/
def sthPop (mn : String) (discard : Bool) (i : Issue) (s : State) : Out :=
  let w := i.word.toNat
  if fUnit w = 4 ∧ fOpc w = 0x11 ∧ w.testBit 18 ≠ discard ∧ (thrOf s i.tile i.thr).st = .runnable then .refused (.otherRow mn)
  else
    sthOp mn 0x11 (fun w => zero w 17 0) .pop (fun c p sl q s =>
      let l := bitsOf c.w 41 40
      let seg := (xreg s c.t c.th (bitsOf c.w 39 34)).toNat
      let mb := (xreg s c.t c.th (bitsOf c.w 33 28)).toNat % 2 ^ 32
      sthAccept s sl l q false (fun s => comparePop s p sl l { part := q, seg := seg, mb := mb, discard := discard, found := none }))
      i s

/-- STH_POP. -/
def execSthPop (i : Issue) (s : State) : Out := sthPop "STH_POP" false i s
/-- STH_POP_DISCARD: counts as a pop and delivers nothing. -/
def execSthPopDiscard (i : Issue) (s : State) : Out := sthPop "STH_POP_DISCARD" true i s

/-- STH_RECORD_VALID: the parts of a lane's arriving record that can be stored are; once all have landed, VALID is set with the time
(R34, R36), and pops that waited for it go on. -/
def execSthRecordValid (slice : Fin 8) (lane : Fin 4) (now : Nat) (s : State) : Out :=
  let s := tick s now
  let sl := slice.val
  let l := lane.val
  match partOfSlice s sl with
  | none => .next s
  | some p =>
    let s := settleParts s p sl l
    let s := match arriving (laneOf s sl l) with
      | some r =>
        if r.valid = false ∧ r.landed.length ≥ r.contrib then
          let r := { r with valid := true, time := s.time }
          putHeader (putRec s sl l r) p sl l r
        else s
      | none => s
    .next (retryPops p sl l (laneOf s sl l).pops s)

/-- STH_REFILL_START: a refill of a lane's newest spilled record starts once the conditions of R41 hold. -/
def execSthRefillStart (slice : Fin 8) (lane : Fin 4) (now : Nat) (s : State) : Out :=
  .next (startRefill (tick s now) slice.val lane.val)

/-- Return the newest spilled record to HBM, below the lane's oldest record. -/
def refillRecord (s : State) (p sl l : Nat) (r : SthRec) : State :=
  let x := laneOf s sl l
  let bs := recLoad s p sl l r 0 r.size
  let n := laneSize s sl l
  let low := match x.recs.head? with
    | some y => y.off
    | none => x.top
  let r := { r with off := (low + n - r.size) % n, refill := true }
  let s := setLane s sl l { x with recs := r :: x.recs, spilled := x.spilled.dropLast, refill := false }
  putHeader (recStore s p sl l r 0 bs) p sl l r

/-- STH_REFILL_DONE: the record is back in HBM; a push that awaited the refill is decided, and pops that waited go on (R41, R42). -/
def execSthRefillDone (slice : Fin 8) (lane : Fin 4) (now : Nat) (s : State) : Out :=
  let s := tick s now
  let sl := slice.val
  let l := lane.val
  let x := laneOf s sl l
  match partOfSlice s sl, newestSpilled x with
  | some p, some r =>
    if x.refill = false then .next s
    else
      let s := inc (refillRecord s p sl l r) (sthPg sl + 0x1D8)
      let s := match (laneOf s sl l).opening with
        | some g =>
          match g.refill, g.entry with
          | true, some e => decideRecord s p sl l g e.1 e.2.1 e.2.2.1 e.2.2.2
          | _, _ => s
        | none => s
      let s := if x.recs.isEmpty then
          (laneOf s sl l).pops.foldl (fun s o => incBy s (sthPg sl + 0x1E0) (waitedUs s o.part)) s
        else s
      .next (retryPops p sl l (laneOf s sl l).pops s)
  | _, _ => .next s

/-- The stash operation waits on a spill, or on a record that is spilled or being refilled. -/
def waitsOnMove (s : State) (op : Nat) : Bool :=
  s.sth.lanes.any (fun c =>
    (match c.2.opening with
     | some g => g.spill.isSome && g.parts.any (fun q => q.desc == op)
     | none => false) || (c.2.recs.isEmpty && c.2.pops.any (fun o => o.part.desc == op)))

/-- STH_WAIT: a thread that has been blocked on a spill or refill for more than 1 ms sets WAIT (R55). -/
def execSthWait (tile : Fin 288) (thr : Fin 64) (now : Nat) (s : State) : Out :=
  let s := tick s now
  let x := thrOf s tile thr
  match x.st, partOfTile s tile with
  | .blockedSync (.stash op), some p =>
    if s.time - x.since > 1000000 ∧ waitsOnMove s op then .next (intSet s (sthPg (lowSlice s p)) 32) else .next s
  | _, _ => .next s

/-! ### CLEAR (R44, R45) -/

/-- Complete what a lane has accepted with ABORTED and empty the lane. -/
def clearLane (s : State) (sl l : Nat) : State :=
  let x := laneOf s sl l
  let qs := (match x.opening with
             | some g => g.parts
             | none => []) ++ x.pops.map (·.part)
  qs.foldl (fun s q => sthDone s q 4) (setLane s sl l {})

/-- Empty every lane and spill share and leave the aborted state. -/
def clearStash (s : State) (sl : Nat) : State :=
  let s := [0, 1, 2, 3].foldl (fun s l => clearLane s sl l) s
  wrB s (sthPg sl + 0x108) 0 false

/-- STH_CLEAR. -/
def execSthClear (r : RegWrite) (s : State) : Out :=
  let s := tick s r.now
  match pageAt r.off.toNat with
  | some p =>
    if p.kind ≠ .sth ∨ r.off.toNat % 4096 ≠ 0x100 ∨ r.val.toNat.testBit 1 = false then .refused (.otherRow "STH_CLEAR")
    else
      let sl := 2 * p.die + p.idx
      let live := match partOfSlice s sl with
        | some n => lowSlice s n == sl
        | none => true
      .next (if live then clearStash s sl else s)
  | none => .refused (.otherRow "STH_CLEAR")

end Sys2Proof.Machine
end

