-- ==== Sys2Proof/Machine/TileCtl.lean ====
section
/-!
DEFINITION. Tile control (06_tiles_and_threads.md R156, R162, R171 to R173, R175, R176): starts and halts by HD, tile reset, failed
tiles, the watchdog, and the swap of a spare tile.
-/
namespace Sys2Proof.Machine

/-- The tile whose page of a type, at a page offset, a window offset names. -/
def tileReg (off : Nat) (k : PageKind) (o : Nat) : Option Nat :=
  match pageAt off with
  | some p => if p.kind = k ∧ off % 4096 = o then some (tileOfPage p) else none
  | none => none

/-! ### Starts and halts -/

/-- TILE_THR_START: HD starts a thread (R156). -/
def execTileThrStart (r : RegWrite) (s : State) : Out :=
  let s := tick s r.now
  match tileReg r.off.toNat .tile1 0x510 with
  | none => .refused (.otherRow "TILE_THR_START")
  | some t =>
    .next (startThread s t (bitsOf r.val.toNat 5 0) (rd s (tilePg t 1 + 0x500)) (BitVec.ofNat 64 (rd64 s (tilePg t 1 + 0x508))))

/-- TILE_THR_CLR: a FAULTED thread becomes HALTED. -/
def execTileThrClr (r : RegWrite) (s : State) : Out :=
  let s := tick s r.now
  match tileReg r.off.toNat .tile1 0x514 with
  | none => .refused (.otherRow "TILE_THR_CLR")
  | some t =>
    let th := bitsOf r.val.toNat 5 0
    let x := thrOf s t th
    .next (if x.st = .faulted then setThr s t th { x with st := .halted } else s)

/-- HALT_ALL: bit 2 of a TILE_CTL write: every thread is HALTED; what has issued completes (R175). -/
def execHaltAll (r : RegWrite) (s : State) : Out :=
  let s := tick s r.now
  match tileReg r.off.toNat .tile0 0x100 with
  | none => .refused (.otherRow "HALT_ALL")
  | some t =>
    if r.val.toNat.testBit 2 = false then .refused (.otherRow "HALT_ALL")
    else .next (mapThreads s t (fun _ x => { x with st := .halted }))

/-- The code of a thread state (R155), and the slot that it awaits. -/
def ThrState.code : ThrState → Nat
  | .halted => 0
  | .runnable => 1
  | .blockedSlot _ => 2
  | .blockedXfer _ => 3
  | .blockedSync _ => 4
  | .faulted => 5

def ThrState.slot : ThrState → Nat
  | .blockedSlot n => n
  | _ => 0

/-- TILE_WATCHDOG: a thread has been blocked for longer than TILE_WDOG: STUCK, and the thread recorded; it waits on (R162). -/
def execTileWatchdog (tile : Fin 288) (thr : Fin 64) (now : Nat) (s : State) : Out :=
  let s := tick s now
  let t := tile.val
  let x := thrOf s t thr
  let w := rdF s (tilePg t 0 + 0x11C) 19 0
  if w ≠ 0 ∧ 2 ≤ x.st.code ∧ x.st.code ≤ 4 ∧ x.since + 1000 * w < s.time then
    .next (wr (intSet s (tilePg t 0) 2) (tilePg t 0 + 0x124) (x.st.code * 2 ^ 29 + thr.val * 2 ^ 18 + x.st.slot % 2 ^ 15))
  else .next s

/-! ### Tile status -/

/-- TILE_STAT.IDLE: every thread HALTED, no transfer tag held, no pass queued, no task open (R173, R175). -/
def tileIdle (s : State) (t : Nat) : Bool :=
  !(tileRunning s t) && blwTags s t == 0 && tngTags s t == 0 &&
    [0, 1, 2].all (fun a => (cGet (fun _ => []) s.anv.queue (4 * t + a)).isEmpty && (cGet (fun _ => []) s.anv.running (4 * t + a)).isEmpty) &&
    (cGet (fun _ => []) s.anv.waiting t).isEmpty && (cGet (fun _ => []) s.anv.groups t).isEmpty &&
    (cGet (fun _ => []) s.anv.behind t).isEmpty && (List.range 4).all (fun k => (taskOf s t k).isNone)

/-! ### Tile reset (R171) -/

/-- Step 1: every thread HALTED, with no register state; results of the runs that end are dropped. -/
def resetThreads (s : State) (t : Nat) : State :=
  let s := mapThreads s t (fun _ x => { gen := x.gen + 1 })
  { s with tl := { s.tl with
      xr := cDrop s.tl.xr (fun k => k / 4096 == t)
      pr := cDrop s.tl.pr (fun k => k / 256 == t)
      pend := cDrop s.tl.pend (fun k => k / 4096 == t) } }

/-- Steps 2 and 5: tasks and barriers are gone, every slot EMPTY and unclaimed, every byte 0. -/
def resetScratch (s : State) (t : Nat) : State :=
  let s := { s with tl := { s.tl with
      tasks := cDrop s.tl.tasks (fun k => k / 4 == t)
      barriers := cDrop s.tl.barriers (fun k => k / 8 == t)
      spad := cDrop s.tl.spad (fun k => k / 2 ^ 24 == t)
      tags := cDrop s.tl.tags (fun k => k / 32768 == t)
      claims := cDrop s.tl.claims (fun k => k / 32768 == t) } }
  wr s (tilePg t 5 + 0x108) 0

/-- Step 4: no pass is left anywhere. -/
def resetAnvils (s : State) (t : Nat) : State :=
  { s with anv := { s.anv with
      queue := cDrop s.anv.queue (fun k => k / 4 == t)
      running := cDrop s.anv.running (fun k => k / 4 == t)
      waiting := cDrop s.anv.waiting (fun k => k == t)
      groups := cDrop s.anv.groups (fun k => k == t)
      behind := cDrop s.anv.behind (fun k => k == t) } }

/-- A lane without the parts and pops of a tile. -/
def laneWithout (t : Nat) (x : SthLane) : SthLane :=
  { x with opening := x.opening.map (fun g => { g with parts := g.parts.filter (fun q => q.tile != t) }),
           pops := x.pops.filter (fun o => o.part.tile != t) }

/-- The status of the command rings' descriptors that a reset drops is open. -/
def dropRings : List BDesc → State → State
  | [], s => s
  | d :: ds, s =>
    dropRings ds
      (match d.ring with
       | some r =>
         let v := drawFree s
         { v.2 with blw := { v.2.blw with xfers := cSet (fun _ => none) v.2.blw.xfers (4 * r.1 + r.2) (some (1 + v.1 % 6)) } }
       | none => s)

/-- Step 3: what the tile's units hold is dropped; requests outstanding run to completion, and the data that returns is dropped. -/
def resetTransfers (s : State) (t : Nat) : State :=
  let s := dropRings (descsOf s t) s
  { s with
    blw := { s.blw with
      descs := cDrop s.blw.descs (fun k => k == t)
      window := cDrop s.blw.window (fun k => k == t)
      reqs := s.blw.reqs.map (fun r => if r.tile = t then { r with desc := none, win := none } else r)
      awaits := cDrop s.blw.awaits (fun k => k / 32768 == t)
      stranded := s.blw.stranded.filter (fun k => k / 32768 != t) }
    tng := { s.tng with ops := s.tng.ops.filter (fun o => o.tile != t) }
    sth := { s.sth with lanes := (s.sth.lanes.map (fun c => (c.1, laneWithout t c.2))).filter (fun c => c.2 != ({} : SthLane)) } }

/-- The page types of a tile, page by page. -/
def tilePages : List (Nat × PageKind) :=
  [(0, .tile0), (1, .tile1), (2, .anv), (3, .anv), (4, .anv), (5, .spad), (6, .blwT), (7, .srt), (8, .spk), (9, .qchT), (10, .tngT)]

/-- Step 6: Spark is without seed and step, and every counter of the tile's pages is 0 (04_formats_rounding_spark.md R116). -/
def resetTileRegs (s : State) (t : Nat) : State :=
  let pg := tilePg t 8
  let s := wr64 (wr64 (wr64 (wrB (wrB s (pg + 0x100) 0 false) (pg + 0x104) 1 false) (pg + 0x110) 0) (pg + 0x118) 0) (pg + 0x120) 0
  tilePages.foldl (fun s p => clearCounters (tilePg t p.1) p.2.regs s) s

/-- A tile reset starts, unless one is in progress: steps 1 to 6. -/
def beginReset (s : State) (t : Nat) (test : Bool) : State :=
  if tileResetting s t then s
  else
    let s := wrB (wrB s (tilePg t 0 + 0x104) 3 true) (tilePg t 0 + 0x104) 2 test
    resetTileRegs (resetTransfers (resetAnvils (resetScratch (resetThreads s t) t) t) t) t

/-- The tile's requests that are still outstanding. -/
def tileTransfers (s : State) (t : Nat) : Bool :=
  s.blw.reqs.any (fun r => r.tile == t) || s.tng.reqs.any (fun r => r.tile == t)

/-- A tile is failed: FAILED, every running thread faulted with cause 0x08, and the sticky flag with cause ANVIL while its partition is in
a step (R172). -/
def failTile (s : State) (t : Nat) : State :=
  let s := intSet (wrB s (tilePg t 0 + 0x104) 4 true) (tilePg t 0) 16
  let s := (List.range 64).foldl (fun s th =>
    let x := thrOf s t th
    if x.st = .halted ∨ x.st = .faulted then s else threadFault s t th 8 x.pc.toNat) s
  let s := clinker s { cat := 5, code := 2, page := tilePg t 0 }
  match partOfTile s t with
  | some p => if armed s (lowSlice s p) then detectTile s t 2 0 else s
  | none => s

/-- The physical columns of an anvil that SP has marked failed (03_anvil_arrays.md R75). -/
def failedCols (s : State) (pg : Nat) : Nat :=
  sumNat ((List.range 4).map (fun n => popCount 32 (rd s (pg + 0x108 + 4 * n)))) + popCount 8 (rd s (pg + 0x118))

/-- The groups of an anvil with a repaired row (R73, R94). -/
def repairedRows (s : State) (pg : Nat) : Nat :=
  ((List.range 4).filter (fun g => rdF s (pg + hSpare) (8 * g + 5) (8 * g) != 32)).length

/-- The width that an anvil's maps leave it: min(128, 8 * ((136 - F) / 8)), and 0 below 64, which fails it (R75). -/
def mapWidth (s : State) (pg : Nat) : Nat :=
  let w := min 128 (8 * ((136 - failedCols s pg) / 8))
  if w < 64 then 0 else w

/-- The width at which a tile presents its anvils: the smallest of those that have not failed (R76). -/
def presentedWidth (s : State) (t : Nat) : Nat :=
  ([0, 1, 2].map (fun a => mapWidth s (anvPg t a))).foldl (fun m w => if w = 0 then m else min m w) 128

/-- An anvil's maps take effect, and BLK_CAP reports them: the tile's width, or 0 for a failed anvil (R75 to R77, R94). -/
def takeMap (s : State) (t : Nat) (pg : Nat) : State :=
  let w := if mapWidth s pg = 0 then 0 else presentedWidth s t
  wrF (wrF (wrF s (pg + hCap) 23 16 w) (pg + hCap) 15 8 (failedCols s pg)) (pg + hCap) 7 5 (repairedRows s pg)

/-- Steps 7 and 8, with the anvil maps that SP has written; an anvil that is left without a width fails its tile (R76). -/
def endReset (s : State) (t : Nat) : State :=
  let s := tilePages.foldl (fun s p => bumpEpoch s (tilePg t p.1)) s
  let s := [0, 1, 2].foldl (fun s a => takeMap s t (anvPg t a)) s
  let s := intSet (wrB (wrB s (tilePg t 0 + 0x104) 3 false) (tilePg t 0 + 0x104) 2 false) (tilePg t 0) 8
  if tileWidth s t = 0 ∧ tileFailed s t = false then failTile s t else s

/-- TILE_RESET: TILE_CTL.RST. -/
def execTileReset (tile : Fin 288) (now : Nat) (s : State) : Out := .next (beginReset (tick s now) tile false)

/-- TILE_RESET_TEST: TILE_CTL.RST with TEST: self-test runs first. -/
def execTileResetTest (tile : Fin 288) (now : Nat) (s : State) : Out := .next (beginReset (tick s now) tile true)

/-- TILE_RESET_DONE: a reset ends once the tile's transfers have; a self-test that its spares cannot repair fails the tile. -/
def execTileResetDone (tile : Fin 288) (testPassed : Bool) (now : Nat) (s : State) : Out :=
  let s := tick s now
  let t := tile.val
  if tileResetting s t = false ∨ tileTransfers s t then .next s
  else
    let tested := rdB s (tilePg t 0 + 0x104) 2
    let s := endReset s t
    .next (if tested && !testPassed then failTile s t else s)

/-! ### Spare swap (R173) -/

/-- The logical number that a swap gives: the failed tile's, or, once that tile has lost it, the lowest of the half that no tile holds. -/
def swapNumber (s : State) (failed : Nat) : Option Nat :=
  if isLogical s failed then some (logicalOf s failed)
  else (rangeFrom (32 * sliceOf failed) 32).find? (fun l => (physOf s l).isNone)

/-- The slice of a tile is idle: no partition holds it, or every one of its tiles is. -/
def sliceIdle (s : State) (sl : Nat) : Bool := (partOfSlice s sl).isNone || (sliceTiles sl).all (fun t => tileIdle s t)

/-- SP writes the die's route of a logical tile (19_register_map.md R481). -/
def setRoute (s : State) (l t : Nat) : State := wr s (nocPg (l / 64) + 0x200 + 4 * (l % 64)) (2 ^ 31 + t % 72)

/-- SPARE_SWAP: a failed tile of an idle slice gives its number to a spare of its half, which is reset with self-test; a spare that fails its
test is marked failed. While SP restarts swaps are deferred (18_safety_security_clinker.md R440). -/
def execSpareSwap (failed spare : Fin 288) (testPassed : Bool) (now : Nat) (s : State) : Out :=
  let s := tick s now
  let f := failed.val
  let t := spare.val
  match swapNumber s f with
  | none => .next s
  | some l =>
    if tileFailed s f = false ∨ logicalOf s t ≠ 0xFFFF ∨ tileFailed s t ∨ sliceOf f ≠ sliceOf t ∨ sliceIdle s (sliceOf f) = false ∨ spRestarting s then
      .next s
    else
      let s := wrF s (tilePg f 0 + 0x108) 15 0 0xFFFE
      let s := endReset (beginReset s t true) t
      if testPassed then
        let s := setRoute (wrF s (tilePg t 0 + 0x108) 15 0 l) l t
        .next (intSet (rewriteDevice (clinker s { cat := 5, code := 1, page := tilePg t 0, part := (partOfSlice s (sliceOf t)).getD 0xFF }))
          (tilePg t 0) 32)
      else .next (failTile (wrF s (tilePg t 0 + 0x108) 15 0 0xFFFE) t)

end Sys2Proof.Machine
end

