-- ==== Sys2Proof/Machine/Rings.lean ====
section
/-!
DEFINITION. Command rings (07_tile_operations.md R199 to R211): polling, fetch, the entries and their completion.
-/
namespace Sys2Proof.Machine

/-! ### A ring and its registers -/

def ringOf (s : State) (sl n : Nat) : Ring := cGet (fun _ => {}) s.rng (4 * sl + n)

def setRing (s : State) (sl n : Nat) (x : Ring) : State := { s with rng := cSet (fun _ => {}) s.rng (4 * sl + n) x }

/-- The window offset of ring n's registers (R211). -/
def ringReg (sl n : Nat) : Nat := ringPg sl + 0x100 + 0x40 * n

def ringEn (s : State) (sl n : Nat) : Bool := rdB s (ringReg sl n) 0
def ringStopped (s : State) (sl n : Nat) : Bool := rdB s (ringReg sl n + 0x0C) 0
def ringSize (s : State) (sl n : Nat) : Nat := 2 ^ rdF s (ringReg sl n + 0x04) 4 0
def ringHead (s : State) (sl n : Nat) : Nat := rd64 s (ringReg sl n + 0x28)
def ringFetch (s : State) (sl n : Nat) : Nat := rd64 s (ringReg sl n + 0x30)

/-- The partition whose ring engine this is (R199). -/
def ringPart (s : State) (sl : Nat) : Option Nat :=
  match partOfSlice s sl with
  | some p => if lowSlice s p = sl then some p else none
  | none => none

/-- Bytes of host memory. -/
def hostBytes (s : State) (a n : Nat) : List Byte := (rangeFrom a n).map (fun k => getLoc s (.host k))

/-- Store bytes in host memory. -/
def hostPut : Nat → List Byte → State → State
  | _, [], s => s
  | a, b :: bs, s => hostPut (a + 1) bs (setLoc s b (.host a))

/-- The head word is written (R207). -/
def writeHead (s : State) (sl n : Nat) : State := hostPut (rd64 s (ringReg sl n + 0x20)) (leBytes 8 (ringHead s sl n)) s

/-! ### Entries (R201, R202, R206) -/

/-- A field of an entry: n bytes at offset o. -/
def RingEntry.field (e : RingEntry) (o n : Nat) : Nat := leNat (slice e.bytes o n)
def RingEntry.op (e : RingEntry) : Nat := e.field 4 1
def RingEntry.deadline (e : RingEntry) : Nat := e.field 8 8
def RingEntry.notBefore (e : RingEntry) : Nat := e.field 0x10 8

/-- The reserved values of an entry's BODY. -/
def bodyOk (e : RingEntry) : Bool :=
  match e.op with
  | 0 => e.field 0x18 36 == 0
  | 1 => e.field 0x1D 3 == 0 && e.field 0x24 4 == 0 && e.field 0x38 4 == 0 && decide (e.field 0x1C 1 < 64)
  | 2 => e.field 0x1A 2 == 0
  | 3 => e.field 0x28 20 == 0 && e.field 0x18 8 % 8 == 0
  | 4 => decide (e.field 0x28 1 ≤ 2) && e.field 0x29 19 == 0
  | 5 => e.field 0x1C 32 == 0
  | _ => false

/-- SEQ, CHECK, and no reserved value (R206). -/
def entryOk (e : RingEntry) : Bool :=
  e.field 0 4 == e.idx % 2 ^ 32 && e.field 0x3C 4 == (crc32c (e.bytes.take 60)).toNat && decide (e.field 5 1 < 4) &&
    e.field 6 2 == 0 && bodyOk e

/-- The receive stamp of an entry: the poll time of the tail read that first showed it (R205). -/
def stampOf (x : Ring) (idx : Nat) : Nat := ((x.stamps.find? (fun t => decide (idx < t.1))).map (·.2)).getD 0

/-! ### Fetch (R206) and stops (R208) -/

/-- Issue the bursts for which the buffer has room: at most 64 entries, not across the ring's end. -/
def issueBursts : Nat → State → Nat → Nat → State
  | 0, s, _, _ => s
  | fuel + 1, s, sl, n =>
    let x := ringOf s sl n
    let f := ringFetch s sl n
    let z := ringSize s sl n
    let k := min 64 (min (x.seen - f) (z - f % z))
    if k = 0 ∨ x.buf.length + sumNat (x.bursts.map (·.2)) + k > 128 then s
    else issueBursts fuel (wr64 (setRing s sl n { x with bursts := x.bursts ++ [(f, k)] }) (ringReg sl n + 0x30) (f + k)) sl n

/-- The ring goes on fetching. -/
def fetchOn (s : State) (sl n : Nat) : State := if ringEn s sl n && !(ringStopped s sl n) then issueBursts 3 s sl n else s

/-- The ring stops with a code: STOPPED, and the head word is written. -/
def stopRing (s : State) (sl n : Nat) : State :=
  writeHead (intSet (wrB s (ringReg sl n + 0x0C) 0 true) (ringPg sl) 1) sl n

/-- Record a code other than OK. -/
def lastFail (s : State) (sl n code : Nat) : State := wrF s (ringReg sl n + 0x0C) 31 24 code

/-- An entry at the head whose checks failed stops the ring there. -/
def checkHead (s : State) (sl n : Nat) : State :=
  match (ringOf s sl n).buf with
  | e :: _ => if e.bad && !(ringStopped s sl n) then stopRing (inc (lastFail s sl n 3) (ringReg sl n + 0x38)) sl n else s
  | [] => s

/-- The interrupt bit of a code (R210). -/
def codeInt : Nat → Nat
  | 1 => 2
  | 2 => 4
  | 5 => 8
  | 6 => 16
  | _ => 0

/-- The entry at the head completes with a code (R207, R208). -/
def completeEntry (s : State) (sl n : Nat) (e : RingEntry) (code : Nat) : State :=
  let x := ringOf s sl n
  let h := ringHead s sl n + 1
  let s := setRing s sl n { x with buf := x.buf.drop 1, running := false, word := none,
                                   stamps := x.stamps.filter (fun t => decide (h < t.1)) }
  let s := wr64 s (ringReg sl n + 0x28) h
  let s := if code = 0 then s
    else intSet (inc (lastFail s sl n code) (ringReg sl n + 0x38)) (ringPg sl) (codeInt code)
  if code ≠ 0 ∧ (e.field 5 1).testBit 1 then stopRing s sl n
  else
    let s := if (e.field 5 1).testBit 0 ∨ h = x.seen then writeHead s sl n else s
    checkHead (fetchOn s sl n) sl n

/-- A running XFER completes once its descriptor has (R202, R208). -/
def settleXfer (s : State) (sl n : Nat) : State :=
  let x := ringOf s sl n
  match x.buf, cGet (fun _ => none) s.blw.xfers (4 * sl + n) with
  | e :: _, some code =>
    if x.running && e.op == 2 then
      let s := { s with blw := { s.blw with xfers := cSet (fun _ => none) s.blw.xfers (4 * sl + n) none } }
      if code = 0 then completeEntry s sl n e 0
      else completeEntry (wrF s (ringReg sl n + 0x0C) 23 16 code) sl n e 6
    else s
  | _, _ => s

/-! ### Polling (R204, R205) -/

/-- RING_POLL: at a poll time the engine reads the tail word, skips the poll, or does not use it; a waiting WAIT_WORD reads its word. -/
def execRingPoll (slice : Fin 8) (ring : Fin 4) (now : Nat) (s : State) : Out :=
  let s := tick s now
  let sl := slice.val
  let n := ring.val
  match ringPart s sl with
  | none => .next s
  | some _ =>
    let s := settleXfer s sl n
    if ringEn s sl n = false ∨ s.time % rdF s (ringReg sl n + 0x08) 23 0 ≠ 0 then .next s
    else
      let x := ringOf s sl n
      let wordDue : Bool := match x.buf with
        | e :: _ => x.running && e.op == 4 && x.word.isNone
        | [] => false
      let s := if wordDue then setRing s sl n { x with word := some s.time } else s
      if ringStopped s sl n then .next s
      else if x.reading.isSome then .next (inc s (ringReg sl n + 0x3C))
      else if ringFetch s sl n < x.seen ∨ x.bursts ≠ [] then .next s
      else .next (setRing s sl n { ringOf s sl n with reading := some s.time })

/-- RING_TAIL_READ: the tail read returns: a tail out of range stops the ring; new entries are fetched. -/
def execRingTailRead (slice : Fin 8) (ring : Fin 4) (now : Nat) (s : State) : Out :=
  let s := tick s now
  let sl := slice.val
  let n := ring.val
  match ringPart s sl, (ringOf s sl n).reading with
  | some _, some at_ =>
    let s := settleXfer s sl n
    let s := setRing s sl n { ringOf s sl n with reading := none }
    if ringEn s sl n = false ∨ ringStopped s sl n then .next s
    else
      let v := leNat (hostBytes s (rd64 s (ringReg sl n + 0x18)) 8)
      if v < ringFetch s sl n ∨ v > ringHead s sl n + ringSize s sl n then .next (stopRing (lastFail s sl n 7) sl n)
      else
        let x := ringOf s sl n
        if v = x.seen then .next s
        else .next (fetchOn (setRing s sl n { x with seen := v, stamps := x.stamps ++ [(v, at_)] }) sl n)
  | _, _ => .next s

/-- RING_BURST_ARRIVE: the oldest burst in flight arrives and each entry is checked. -/
def execRingBurstArrive (slice : Fin 8) (ring : Fin 4) (now : Nat) (s : State) : Out :=
  let s := tick s now
  let sl := slice.val
  let n := ring.val
  match ringPart s sl, (ringOf s sl n).bursts with
  | some _, b :: bs =>
    let s := settleXfer s sl n
    let x := ringOf s sl n
    let base := rd64 s (ringReg sl n + 0x10)
    let es := (rangeFrom b.1 b.2).map (fun i =>
      let e : RingEntry :=
        { idx := i, stamp := stampOf x i, bytes := hostBytes s (base + 64 * (i % ringSize s sl n)) 64, bad := false }
      { e with bad := !(entryOk e) })
    .next (checkHead (fetchOn (setRing s sl n { x with bursts := bs, buf := x.buf ++ es }) sl n) sl n)
  | _, _ => .next s

/-! ### Running entries (R202, R203, R205) -/

/-- Run the entry at the head when it is of a kind and may begin: a late one expires; body runs one that is in time, or looks at a running one
again. -/
def runEntry (op : Nat) (slice : Fin 8) (ring : Fin 4) (now : Nat) (s : State)
    (body : State → Nat → RingEntry → Bool → State) : Out :=
  let s := tick s now
  let sl := slice.val
  let n := ring.val
  match ringPart s sl with
  | none => .next s
  | some p =>
    let s := settleXfer s sl n
    let x := ringOf s sl n
    match x.buf with
    | [] => .next s
    | e :: _ =>
      if e.bad ∨ e.op ≠ op then .next s
      else if x.running then .next (body s p e true)
      else if ringEn s sl n = false ∨ ringStopped s sl n ∨ s.time < e.notBefore then .next s
      else if e.stamp > e.deadline then .next (completeEntry s sl n e 1)
      else .next (body s p e false)

/-- The entry at the head is running. -/
def beginEntry (s : State) (sl n : Nat) : State := setRing s sl n { ringOf s sl n with running := true }

/-- The number of tiles of a partition. -/
def tileCount (s : State) (p : Nat) : Nat := 32 * (partSlices s p).length

/-- The tile indices from FIRST_TILE to LAST_TILE of an entry; none where they are no range of the partition's. -/
def entryTiles (s : State) (p : Nat) (e : RingEntry) : Option (List Nat) :=
  let a := e.field 0x18 2
  let b := e.field 0x1A 2
  if a ≤ b ∧ b < tileCount s p then some (rangeFrom a (b + 1 - a)) else none

/-- RING_NOP. -/
def execRingNop (slice : Fin 8) (ring : Fin 4) (now : Nat) (s : State) : Out :=
  runEntry 0 slice ring now s fun s _ e _ => completeEntry s slice ring e 0

/-- Apply a START to one tile: whether the start was taken. -/
def startOne (p : Nat) (e : RingEntry) (r : State × Bool) (i : Nat) : State × Bool :=
  match partTileAt r.1 p i with
  | none => (r.1, false)
  | some t =>
    let th := e.field 0x1C 1
    let ok := canStart r.1 t th
    (startThread r.1 t th (e.field 0x20 4) (BitVec.ofNat 64 (e.field 0x28 8 + (i - e.field 0x18 2) * e.field 0x30 8)), r.2 && ok)

/-- RING_START: a thread starts on each tile of the range; REJECTED where one was not HALTED. -/
def execRingStart (slice : Fin 8) (ring : Fin 4) (now : Nat) (s : State) : Out :=
  runEntry 1 slice ring now s fun s p e _ =>
    match entryTiles s p e with
    | none => completeEntry s slice ring e 4
    | some is =>
      let r := is.foldl (startOne p e) (s, true)
      completeEntry r.1 slice ring e (if r.2 then 0 else 5)

/-- RING_XFER: the tile's Bellows runs the descriptor, once it has a place and a tag. -/
def execRingXfer (slice : Fin 8) (ring : Fin 4) (now : Nat) (s : State) : Out :=
  runEntry 2 slice ring now s fun s p e running =>
    if running then s
    else
      let i := e.field 0x18 2
      match (if i < tileCount s p then partTileAt s p i else none) with
      | none => completeEntry s slice ring e 4
      | some t =>
        let b := slice_ e
        if (descsOf s t).length ≥ 32 ∨ (dsOp b ≠ 5 ∧ blwTags s t ≥ 96) then s
        else
          let f := freshBlw (beginEntry s slice ring)
          settleXfer (acceptDesc f.2 t b false (dsMake b f.1 0 s.time none (some (slice.val, ring.val)) none)) slice ring
where
  /-- The descriptor's bytes. -/
  slice_ (e : RingEntry) : List Byte := Sys2Proof.Machine.slice e.bytes 0x1C 32

/-- RING_WRITE: 64 bits at an address of the partition; a page in flash is promoted first. -/
def execRingWrite (slice : Fin 8) (ring : Fin 4) (now : Nat) (s : State) : Out :=
  runEntry 3 slice ring now s fun s p e _ =>
    let a := e.field 0x18 8
    if inPart s p a 8 = false then completeEntry s slice ring e 4
    else
      match promote s p a true with
      | .waits s => s
      | .full s => completeEntry s slice ring e 4
      | .ready s => completeEntry (devWrite64 s p a (e.field 0x20 8)) slice ring e 0

/-- RING_WAIT_WORD: the entry waits; its word is read at the ring's poll times. -/
def execRingWaitWord (slice : Fin 8) (ring : Fin 4) (now : Nat) (s : State) : Out :=
  runEntry 4 slice ring now s fun s p e running =>
    if running then s
    else if inPart s p (e.field 0x18 8) 8 = false then completeEntry s slice ring e 4
    else beginEntry s slice ring

/-- Every thread of a tile is HALTED or FAULTED. -/
def tileQuiet (s : State) (t : Nat) : Bool :=
  !(s.tl.thr.any (fun c => decide (c.1 / 64 = t) && c.2.st != ThrState.halted && c.2.st != ThrState.faulted))

/-- RING_WAIT_IDLE: the entry completes once every thread of the range is HALTED or FAULTED. -/
def execRingWaitIdle (slice : Fin 8) (ring : Fin 4) (now : Nat) (s : State) : Out :=
  runEntry 5 slice ring now s fun s p e _ =>
    match entryTiles s p e with
    | none => completeEntry s slice ring e 4
    | some is =>
      if is.all (fun i => match partTileAt s p i with
          | some t => tileQuiet s t
          | none => true)
      then completeEntry s slice ring e 0
      else beginEntry s slice ring

/-- The comparison of a WAIT_WORD. -/
def wordHolds (cmp v x : Nat) : Bool :=
  match cmp with
  | 0 => decide (v ≥ x)
  | 1 => v == x
  | _ => v != x

/-- WAIT_WORD_READ: a read of the word returns; one issued by the deadline that satisfies the comparison completes the entry. -/
def execWaitWordRead (slice : Fin 8) (ring : Fin 4) (now : Nat) (s : State) : Out :=
  runEntry 4 slice ring now s fun s p e running =>
    match running, (ringOf s slice ring).word with
    | true, some at_ =>
      if at_ ≤ e.deadline ∧ wordHolds (e.field 0x28 1) (memNat s p (e.field 0x18 8) 8) (e.field 0x20 8) then
        completeEntry s slice ring e 0
      else setRing s slice ring { ringOf s slice ring with word := none }
    | _, _ => s

/-- WAIT_WORD_TIMEOUT: time has passed the deadline by more than 64 ns, and no read issued by it is outstanding. -/
def execWaitWordTimeout (slice : Fin 8) (ring : Fin 4) (now : Nat) (s : State) : Out :=
  runEntry 4 slice ring now s fun s _ e running =>
    let pending : Bool := match (ringOf s slice ring).word with
      | some at_ => decide (at_ ≤ e.deadline)
      | none => false
    if running && !pending && decide (e.deadline ≠ 2 ^ 64 - 1 ∧ s.time > e.deadline + 64) then completeEntry s slice ring e 2
    else s

/-! ### Enable, resume (R208, R211) -/

/-- The ring whose CTL register a window offset names, on a page that is live. -/
def ringCtl (s : State) (off : Nat) : Option (Nat × Nat × Bool) :=
  match pageAt off with
  | some p =>
    let o := off % 4096
    if p.kind = .ring ∧ 0x100 ≤ o ∧ o < 0x200 ∧ o % 0x40 = 0 then some (sliceOfPage p, (o - 0x100) / 0x40, placeOk s p .low) else none
  | none => none

/-- EN goes to 0: fetching stops, and of the buffered entries only a running one stays. -/
def disableRing (s : State) (sl n : Nat) : State :=
  let x := ringOf s sl n
  wrB (setRing s sl n { x with buf := if x.running then x.buf.take 1 else [], bursts := [], reading := none }) (ringReg sl n) 0 false

/-- EN goes to 1: the ring starts at its head. -/
def enableRing (s : State) (sl n : Nat) : State :=
  let h := ringHead s sl n
  let x := ringOf s sl n
  let s := setRing s sl n { x with seen := h, stamps := [], bursts := [] }
  wrB (wr64 s (ringReg sl n + 0x30) h) (ringReg sl n) 0 true

/-- RING_EN_WRITE: the EN bit of a BLW_RINGn_CTL write. -/
def execRingEnWrite (r : RegWrite) (s : State) : Out :=
  let s := tick s r.now
  match ringCtl s r.off.toNat with
  | none => .refused (.otherRow "RING_EN_WRITE")
  | some (sl, n, live) =>
    if live = false then .next s
    else
      let en := r.val.toNat.testBit 0
      if en = ringEn s sl n then .next s else .next (if en then enableRing s sl n else disableRing s sl n)

/-- RING_RESUME: bit 1 of a BLW_RINGn_CTL write: a stopped ring goes on at its head, which it fetches again. -/
def execRingResume (r : RegWrite) (s : State) : Out :=
  let s := tick s r.now
  match ringCtl s r.off.toNat with
  | none => .refused (.otherRow "RING_RESUME")
  | some (sl, n, live) =>
    if r.val.toNat.testBit 1 = false then .refused (.otherRow "RING_RESUME")
    else if live = false ∨ ringStopped s sl n = false then .next s
    else
      let s := setRing s sl n { ringOf s sl n with buf := [], bursts := [] }
      let s := wr64 s (ringReg sl n + 0x30) (ringHead s sl n)
      .next (fetchOn (wrB s (ringReg sl n + 0x0C) 0 false) sl n)

/-- A partition reset clears EN and empties the buffers; an entry that was running has no further effect (R209). -/
def resetRings (s : State) (sl : Nat) : State :=
  (List.range 4).foldl (fun s n =>
    let s := wrB (setRing s sl n {}) (ringReg sl n) 0 false
    { s with blw := { s.blw with xfers := cSet (fun _ => none) s.blw.xfers (4 * sl + n) none } }) s

end Sys2Proof.Machine
end

