-- ==== Sys2Proof/Machine/Partitions.lean ====
section
/-!
DEFINITION. Partitions (14_jobs_partitions_serving.md R350 to R358, R372; 17_startup_calibration.md R427): the requests that SP checks
and runs, the client table, and partition reset.
-/
namespace Sys2Proof.Machine

/-! ### Clients (R352, R358) -/

/-- The client-table entry of a client, if it is VALID. -/
def clientEntry (s : State) (client : Nat) : Option Nat :=
  (List.range 64).find? (fun k =>
    let v := (cGet (fun _ => 0) s.win.clim k).toNat
    v.testBit 15 && bitsOf v 31 16 == client)

def climWord (s : State) (k : Nat) : Nat := (cGet (fun _ => 0) s.win.clim k).toNat
def clientRun (s : State) (k : Nat) : Nat := cGet (fun _ => 0) s.win.climRun k
def clientStarted (s : State) (k : Nat) : Nat := (cGet (fun _ => 0) s.win.climStarted k).toNat

def setClientRun (s : State) (k n : Nat) : State := { s with win := { s.win with climRun := cSet (fun _ => 0) s.win.climRun k n } }

def setClientStarted (s : State) (k n : Nat) : State :=
  { s with win := { s.win with climStarted := cSet (fun _ => 0) s.win.climStarted k (BitVec.ofNat 32 n) } }

/-! ### The request registers (R372) -/

/-- SP accepts requests: READY, and neither restarting nor SAFE (R422, R439, R440). -/
def spReady (s : State) : Bool :=
  rdB s (bootPg + 0x100) 0 && !(spRestarting s) && !(spSafe s)

/-- The request as its registers stand, with the written control word. -/
def takeRequest (s : State) (v : Nat) : PartReq :=
  { op := bitsOf v 2 0, part := bitsOf v 10 8, slices := rdF s (partPg + 0x104) 7 0, mode := rdF s (partPg + 0x108) 3 0,
    split := rd s (partPg + 0x10C), client := rdF s (partPg + 0x110) 15 0, job := rd s (partPg + 0x114),
    range := rdF s (partPg + 0x118) 26 0, hostMin := rdF s (partPg + 0x11C) 17 0, flashMin := rdF s (partPg + 0x120) 24 0 }

def preqBusy (s : State) : Bool := rdB s (partPg + 0x124) 31
def setPreqBusy (s : State) (b : Bool) : State := wrB s (partPg + 0x124) 31 b

/-- A request completes with a status: REQ_DONE, and REQ_REFUSED for any but OK. -/
def endRequestWith (s : State) (code : Nat) : State :=
  intSet (wrF (setPreqBusy s false) (partPg + 0x124) 7 0 code) partPg (if code = 0 then 1 else 3)

/-- STATE of SP_PARTn. -/
def setPartState (s : State) (n st : Nat) : State := wrF s (partPg + 0x140 + 4 * n) 11 8 st

/-! ### CREATE (R351 to R353) -/

/-- The slices of a mask. -/
def maskSlices (m : Nat) : List Nat := (List.range 8).filter (fun sl => m.testBit sl)

/-- A stack is marked failed (R269). -/
def stackFailed (s : State) (ctl : Nat) : Bool := rdF s (ctlPg ctl 6 + 0x100) 31 28 == 3

/-- A slice is available (R351): in no partition, 32 working tiles, four stacks that have not failed. -/
def sliceAvailable (s : State) (sl : Nat) : Bool :=
  (partOfSlice s sl).isNone &&
    (rangeFrom (32 * sl) 32).all (fun l => match physOf s l with
      | some t => !(tileFailed s t)
      | none => false) &&
    (rangeFrom (4 * sl) 4).all (fun c => !(stackFailed s c)) &&
    (List.range 4).all (fun n => rdF s (uciPg (sl / 2) n + 0x104) 31 28 != 3)

/-- The reserves of all partitions in a pool (R290, R352). -/
def reserveSum (s : State) (tier : Nat) : Nat :=
  sumNat (((List.range 8).filter (fun n => partState s n != 0)).map (fun n => reserveOf s n tier))

/-- The checks of R352 in their order: the status of the first that fails. -/
def createCheck (s : State) (q : PartReq) : Option Nat :=
  if q.op ≠ 1 ∨ q.slices = 0 ∨ badSplit q.split ∨ q.job = 0 ∨ q.client = 0xFFFF ∨ (bitsOf q.mode 3 2 ≠ 0 ∧ q.range = 0) then some 8
  else
    match clientEntry s q.client with
    | none => some 9
    | some k =>
      if q.mode.testBit 1 ∧ (climWord s k).testBit 14 = false then some 5
      else if bitsOf (climWord s k) 3 0 ≤ clientRun s k then some 3
      else if (cGet (fun _ => 0) s.win.climStart k).toNat ≠ 0 ∧ (cGet (fun _ => 0) s.win.climStart k).toNat ≤ clientStarted s k then some 4
      else if (List.range 8).all (fun n => partState s n != 0) then some 7
      else if (maskSlices q.slices).any (fun sl => (partOfSlice s sl).isSome) then some 1
      else if (maskSlices q.slices).any (fun sl => !(sliceAvailable s sl)) then some 2
      else if tierFrames s 0 1 < reserveSum s 1 + q.hostMin ∨ flashFrames s < reserveSum s 2 + q.flashMin then some 6
      else none

/-- The per-partition pages of a slice with their types. -/
def slicePages (sl : Nat) : List (Nat × PageKind) :=
  [(sthPg sl, .sth), (qchPg sl, .qchP), (tmpPg sl, .tmp), (ringPg sl, .ring), (blwPg sl, .blwS), (tierPg sl, .tier), (tngPg sl, .tngS),
   (seqPg sl, .seq), (bltPg sl, .blt)]

/-- Zero-fill the stacks of a slice. -/
def zeroSlice (s : State) (sl : Nat) : State :=
  { s with mem := { s.mem with hbm := cDrop s.mem.hbm (fun k => k / 2 ^ 37 / 4 == sl) },
           prt := { s.prt with unzeroed := cSet (fun _ => false) s.prt.unzeroed sl false } }

/-- Action 2 of R353 on one slice; the counters of its pages start at 0. -/
def configureSlice (q : PartReq) (s : State) (sl : Nat) : State :=
  let s := if cGet (fun _ => false) s.prt.unzeroed sl then zeroSlice s sl else s
  let s := (slicePages sl).foldl (fun s c => clearCounters c.1 c.2.regs s) s
  let s := wr (wr s (blwPg sl + 0x100) q.split) (tierPg sl + 0x104) (bitsOf q.mode 3 2)
  let s := wr (wr (wr s (tierPg sl + 0x108) q.range) (tierPg sl + 0x118) q.hostMin) (tierPg sl + 0x11C) q.flashMin
  let s := wr s (tngPg sl + 0x108) q.job
  (sliceTiles sl).foldl (fun s t => if isLogical s t then wrB s (spkPg t + 0x104) 0 (q.mode.testBit 0) else s) s

/-- Actions 1 to 3: the id, the counts, the registers, the tile resets. -/
def beginCreate (s : State) (q : PartReq) : State :=
  match (List.range 8).find? (fun n => partState s n == 0), clientEntry s q.client with
  | some n, some k =>
    let s := setClientStarted (setClientRun s k (clientRun s k + 1)) k (min (clientStarted s k + 1) 0xFFFFFFFF)
    let s := wr s (partPg + 0x140 + 4 * n) (q.client * 2 ^ 16 + 1 * 2 ^ 8 + q.slices)
    let s := wrF (wr s (partPg + 0x160 + 4 * n) q.job) (partPg + 0x124) 10 8 n
    let s := { s with prt := { s.prt with fixed := cSet (fun _ => false) s.prt.fixed n (q.mode.testBit 1), running := some (1, n) } }
    let s := (maskSlices q.slices).foldl (configureSlice q) s
    setPreqBusy ((partTiles s n).foldl (fun s t => beginReset s t false) s) true
  | _, _ => s

/-- No page of partition n is mapped, no storage exchanged, every page dirty. -/
def clearPages (s : State) (n : Nat) : State :=
  let mine := fun k => k / 2 ^ 27 == n
  { s with mem := { s.mem with
      pages := cDrop s.mem.pages mine
      swap := cDrop s.mem.swap mine
      dirty := cDrop s.mem.dirty mine
      migs := s.mem.migs.filter (fun m => m.part != n)
      cmds := cSet (fun _ => none) s.mem.cmds n none } }

/-- Actions 4 to 6. -/
def endCreate (s : State) (n : Nat) : State :=
  let s := setPartState (clearPages (bumpPartEpoch s n) n) n 2
  let s := { s with cal := { s.cal with last := cSet (fun _ => 0) s.cal.last n s.time, called := cSet (fun _ => false) s.cal.called n false } }
  endRequestWith (clinker s { cat := 8, code := 1, page := partPg, part := n }) 0

/-! ### DESTROY (R355) -/

/-- Actions 1 and 2: requests are refused from now on, the rings stop, the tiles of the slices are reset. -/
def beginDestroy (s : State) (n : Nat) : State :=
  let s := resetRings (setPartState s n 4) (lowSlice s n)
  let tiles := ((partSlices s n).map sliceTiles).flatten
  tiles.foldl (fun s t => beginReset s t false) s

/-- Trim the flash frames of partition n. -/
def trimPages (s : State) (n : Nat) : State :=
  (s.mem.pages.filter (fun c => c.1 / 2 ^ 27 == n && c.2.tier == 2)).foldl (fun s c => zeroFrame s n 2 c.2.frame) s

/-- Actions 3, 4 and 6: pages, job tags, the client's count, the id. -/
def freePartition (s : State) (n : Nat) : State :=
  let s := clearPages (trimPages s n) n
  let s := (partSlices s n).foldl (fun s sl => wr s (tngPg sl + 0x108) 0) s
  let s := match clientEntry s (partClient s n) with
    | some k => setClientRun s k (clientRun s k - 1)
    | none => s
  let s := { s with prt := { s.prt with fixed := cSet (fun _ => false) s.prt.fixed n false } }
  wr (wr s (partPg + 0x140 + 4 * n) 0) (partPg + 0x160 + 4 * n) 0

/-- Actions 3 to 6. -/
def endDestroy (s : State) (n : Nat) : State :=
  let s := freePartition ((partSlices s n).foldl zeroSlice s) n
  let s := dropWindow s n
  let s := applyPending s
  endRequestWith (clinker s { cat := 8, code := 2, page := partPg, part := n }) 0

/-! ### RESET (R427) -/

/-- Action 4: the update task ends here; ARM, the sticky flag and the cause bits are clear. -/
def resetQuench (s : State) (n sl : Nat) : State :=
  let s := disarm (discardPages s n sl) sl
  let s := { s with qch := { s.qch with castAt := cSet (fun _ => none) s.qch.castAt sl none } }
  let s := wrF (wrB (setHeld s sl []) (qchPg sl + 0x108) 0 false) (qchPg sl + 0x108) 31 24 0
  (partTiles s n).foldl (fun s t => wrF s (qchTilePg t + 0x104) 23 16 0) s

/-- Actions 1 to 6. -/
def beginPartReset (s : State) (n : Nat) : State :=
  let sl := lowSlice s n
  let s := setPartState s n 3
  let s := (partTiles s n).foldl (fun s t => beginReset s t false) s
  let s := resetRings (clearStash s sl) sl
  let s := resetQuench s n sl
  let s := wrB (wrB s (tmpPg sl + 0x100) 0 false) (seqPg sl + 0x100) 0 false
  let s := setDrain (setSeq s sl {}) n none
  let s := setBlt s sl { bltOf s sl with outcome := none }
  wrB (billetEnd s n sl 6) (bltPg sl + 0x100) 1 false

/-- Action 7. -/
def endPartReset (s : State) (n : Nat) : State :=
  let s := setPartState (bumpPartEpoch s n) n 2
  endRequestWith (clinker s { cat := 8, code := 3, page := partPg, part := n }) 0

/-! ### Running a request -/

/-- A calibration window of the partition is in progress (R435). -/
def windowOpen (s : State) (n : Nat) : Bool := (cGet (fun _ => none) s.cal.windows n).isSome

/-- Run a request (R352): a refused one completes at once and changes nothing; a DESTROY or RESET of a FREE id is NO_PART; a RESET
waits for the end of a window of its partition. -/
def runRequest (s : State) (q : PartReq) : State :=
  if q.op = 2 ∨ q.op = 3 then
    if partState s q.part = 0 then endRequestWith s 7
    else
      let s := setPreqBusy { s with prt := { s.prt with running := some (q.op, q.part) } } true
      if q.op = 2 then beginDestroy s q.part
      else if windowOpen s q.part then s
      else beginPartReset s q.part
  else
    match createCheck s q with
    | some c => endRequestWith s c
    | none => beginCreate s q

/-- A write of GO: no effect while BUSY; held while SP restarts or READY is not set; refused in SAFE and during hold-up, with a status that
is open. -/
def requestGo (mn : String) (named : Nat → Bool) (r : RegWrite) (s : State) : Out :=
  let s := tick s r.now
  let v := r.val.toNat
  if r.off.toNat ≠ partPg + 0x100 ∨ v.testBit 31 = false ∨ named (bitsOf v 2 0) = false then .refused (.otherRow mn)
  else if preqBusy s then .next s
  else
    let s := wr s (partPg + 0x100) (v &&& 0x707)
    let q := takeRequest s v
    if spSafe s ∨ s.boot.phase = .holdup then
      let f := drawFree s
      .next (endRequestWith f.2 (1 + f.1 % 255))
    else if spReady s = false then .next (setPreqBusy { s with prt := { s.prt with held := some q } } true)
    else .next (runRequest s q)

/-- PARTITION_CREATE; an OP that is reserved completes with FORMAT. -/
def execPartitionCreate (r : RegWrite) (s : State) : Out := requestGo "PARTITION_CREATE" (fun o => o != 2 && o != 3) r s
/-- PARTITION_DESTROY. -/
def execPartitionDestroy (r : RegWrite) (s : State) : Out := requestGo "PARTITION_DESTROY" (fun o => o == 2) r s
/-- PARTITION_RESET. -/
def execPartitionReset (r : RegWrite) (s : State) : Out := requestGo "PARTITION_RESET" (fun o => o == 3) r s

/-- The request that was held runs, once SP accepts requests. -/
def runHeld (s : State) : State :=
  match s.prt.held with
  | some q => if spReady s then runRequest (setPreqBusy { s with prt := { s.prt with held := none } } false) q else s
  | none => s

/-- PARTITION_REQUEST_DONE: the tiles' transfers have ended, so their resets end, and the request completes. -/
def execPartitionRequestDone (now : Nat) (s : State) : Out :=
  let s := tick s now
  match s.prt.running with
  | none => .next s
  | some (op, n) =>
    let tiles := ((partSlices s n).map sliceTiles).flatten
    if partState s n = 2 ∨ tiles.any (fun t => tileTransfers s t) then .next s
    else
      let s := tiles.foldl (fun s t => if tileResetting s t then endReset s t else s) s
      let s := { s with prt := { s.prt with running := none } }
      .next (if op = 1 then endCreate s n else if op = 2 then endDestroy s n else endPartReset s n)

end Sys2Proof.Machine
end

