-- ==== Sys2Proof/Machine/SpCore.lean ====
section
/-!
DEFINITION. SP's own operations that several commands share (18_safety_security_clinker.md R439, R440, R449 to R453, R456, R464): its start, the
trial of an update and its end, the measurements, and the answers to management requests.
-/
namespace Sys2Proof.Machine

/-! ### Firmware in use (R449, R465) -/

/-- Component n of a list, as SP's own where the list is short. -/
def compAt (l : List FwComp) (n : Nat) : FwComp := nth ⟨0, []⟩ l n

/-- The digest of a component in use: 0 SP, 1 Hearth, 2 HD boot. -/
def compDigest (s : State) (n : Nat) : List Byte :=
  let d := (compAt s.sp.inUse n).digest
  if d = [] then Config.shippedDigest (n + 1) else d

/-- Take components into use: SP_FW_SVNn shows their SVNs. -/
def useComps (s : State) (l : List FwComp) : State :=
  let s := { s with sp := { s.sp with inUse := l } }
  (List.range 3).foldl (fun s n => wr s (sp0Pg + 0x130 + 4 * n) (compAt l n).svn) s

/-- The status of the last update. -/
def setFwStatus (s : State) (code : Nat) : State := wrF s (sp0Pg + 0x100) 31 24 code

/-- SP begins to restart. -/
def beginSpRestart (s : State) : State := wrB s (sp0Pg + 0x100) 9 true

/-! ### The end of a trial (R449, R451) -/

/-- Slot B is copied to slot A; the components of slot B in places that keep picks are in use; REVERTED; the opening entry is closed. -/
def revertWith (s : State) (keep : List Nat) : State :=
  match s.sp.trial with
  | none => s
  | some t =>
    let mix := (List.range 3).map (fun n => compAt (if keep.contains n then s.sp.inUse else s.sp.slotB.comps) n)
    let s := useComps { s with sp := { s.sp with slotA := s.sp.slotB, trial := none },
                               hrt := { s.hrt with newCode := false } } mix
    let s := intSet (wrB (setFwStatus s 7) (sp0Pg + 0x100) 8 false) sp0Pg 8
    clinker s { cat := 11, code := 4, page := sp0Pg, closes := some t.opened }

/-- The trial is reverted while SP runs: Hearth is handed back, SP restarts if its component changed; HD's firmware stays until the next
module reset. -/
def revertNow (s : State) : State :=
  match s.sp.trial with
  | none => s
  | some t => let s := revertWith s [2]; if t.changed.contains 0 then beginSpRestart s else s

/-- A failed attempt of the trial is counted; after the second the ROM boots slot B and SP copies it to slot A. -/
def trialAttempt (s : State) (keep : List Nat) : State :=
  match s.sp.trial with
  | none => s
  | some _ =>
    let s := incF s (sp0Pg + 0x100) 7 0 1
    if rdF s (sp0Pg + 0x100) 7 0 ≥ 2 then revertWith s keep else s

/-! ### SP's start (R449, R464) -/

/-- The newest entries whose CHECK fails are overwritten by the entries that follow. -/
def dropTorn (c : Clinker) : Clinker :=
  let bad := (c.perm ++ c.ring).filter (fun e => !e.good)
  match bad with
  | [] => c
  | e :: es =>
    let first := es.foldl (fun m x => min m x.seq) e.seq
    { c with perm := c.perm.filter (fun e => e.good), ring := c.ring.filter (fun e => e.good), next := first,
             opened := c.opened.filter (fun q => decide (q < first)) }

/-- With TRIAL clear, a counter below the SVN of slot A's component is raised: a commit that a power loss interrupted completes. -/
def finishCommit (s : State) : State :=
  if s.sp.trial.isSome then s else (List.range 3).foldl (fun s n => raiseArc s n (compAt s.sp.slotA.comps n).svn) s

/-- SP starts: CLINKER_CHECK, the interrupted commit, a BOOT entry. -/
def spStart (s : State) : State :=
  clinker (finishCommit { s with cln := dropTorn s.cln }) { cat := 1, code := 6, page := sp0Pg }

/-! ### Measurements and keys (R442, R452, R453) -/

def zeroDigest : List Byte := List.replicate 32 0

/-- The digest of the OWNER_POLICY section; of nothing where there is none. -/
def policyDigest (s : State) : List Byte := digest (s.sp.policy.getD [])

/-- Measurement i. -/
def measure (s : State) (i : Nat) : List Byte :=
  if i = 0 then Config.romDigest
  else if i ≤ 3 then compDigest s (i - 1)
  else if i = 4 then policyDigest s
  else if i = 5 then Config.deviceDigest (arc s 4)
  else if i = 6 then digest (BitVec.ofNat 8 s.sp.revoked.toNat :: s.sp.owner.getD [])
  else if i = 7 then zeroDigest
  else cGet (fun _ => zeroDigest) s.sp.meas i

/-- The SVN carried with measurement i. -/
def measureSvn (s : State) (i : Nat) : Nat := if 1 ≤ i ∧ i ≤ 3 then (compAt s.sp.inUse (i - 1)).svn else 0

/-- The seed of the device identity key, and of the alias key. -/
def dikSeed : List Byte := shake256 (Config.pufSecret ++ ascii "GRIRNO-DIK") 57
def aliasSeed (s : State) : List Byte := shake256 (dikSeed ++ compDigest s 0 ++ compDigest s 1 ++ policyDigest s) 57

/-- The evidence before its signature. -/
def evidenceBody (s : State) (nonce : List Byte) : List Byte :=
  let flags := (if rdB s (bootPg + 0x100) 1 then 1 else 0) + (if rdB s (sp0Pg + 0x140) 1 then 2 else 0) +
    (if rdB s (sp0Pg + 0x100) 8 then 4 else 0)
  leBytes 2 3 ++ leBytes 2 flags ++ leBytes 2 16 ++ leBytes 2 0 ++ (nonce ++ zeroDigest).take 32 ++ leBytes 8 s.time ++
    leBytes 4 (moduleId s) ++ leBytes 4 (rd s (sp0Pg + hEpoch)) ++ leBytes 8 (s.cln.next - 1) ++ chainEnd s.cln ++
    ((List.range 8).map (fun n => leBytes 4 (arc s n))).flatten ++
    ((List.range 16).map (fun i => leBytes 2 i ++ leBytes 2 0 ++ leBytes 4 (measureSvn s i) ++ measure s i)).flatten

/-- The evidence: its body and the alias key's signature of 114 bytes. -/
def evidence (s : State) (nonce : List Byte) : List Byte :=
  let b := evidenceBody s nonce
  b ++ (Config.ed448Sign (aliasSeed s) (ascii "GRIRNO-EVD") b ++ List.replicate 114 0).take 114

/-- The certificates of the device identity key and of the alias key. -/
def certs (s : State) : List Byte := Config.dikCert ++ Config.aliasCert (aliasSeed s)

/-! ### Management (R440, R455 to R457, R463, R468) -/

/-- A request is answered with a completion code and its data; the time that the answer took is a free value within 100 ms (R25). -/
def mgtReply (s : State) (code : Nat) (data : List Byte) : State :=
  let v := drawFree s
  let s := { v.2 with mgt := { v.2.mgt with response := BitVec.ofNat 8 code :: data } }
  let s := wr (inc s (mgtPg + 0x10C)) (mgtPg + 0x118) (v.1 % 101)
  if code = 0 then s else inc s (mgtPg + 0x110)

/-- A completion code other than success that the spec does not name. -/
def mgtError (s : State) : State :=
  let v := drawFree s
  mgtReply v.2 (1 + v.1 % 255) []

/-- A management request: ERROR_NOT_READY while SP restarts and during hold-up; refused in SAFE; otherwise it runs. -/
def mgtRequest (s : State) (f : State → State) : State :=
  if spRestarting s ∨ s.boot.phase = .holdup then mgtReply s 4 []
  else if spSafe s then mgtError s
  else f s

end Sys2Proof.Machine
end

