-- ==== Sys2Proof/Machine/Boot.lean ====
section
/-!
DEFINITION. Resets and start-up (17_startup_calibration.md R421 to R429, R436; 18_safety_security_clinker.md R463, R464;
20_electrical_mechanical.md R483 to R491): what each reset keeps, the stages, hold-up and standby.
-/
namespace Sys2Proof.Machine

/-! ### What a reset keeps (R425; DEDUCED, log entries 60, 61) -/

/-- Every field of the register is RWS. -/
def allRws (r : RegDef) : Bool := !r.fields.isEmpty && r.fields.all (fun f => f.acc == .rws)

/-- The bits of a word that a reset keeps on a compute die: epochs, spare maps, repair maps and failed tiles; at a module reset also what the
owner policy set and what the die's agent has in force. -/
def keepOnDie (cold : Bool) (k : PageKind) (o : Nat) : Nat :=
  if o = hEpoch ∨ o = hSpare then 0xFFFFFFFF
  else if o < 0x100 then 0
  else
    match k with
    | .tile0 => if o = 0x104 then 0x10 else if o = 0x108 then 0xFFFFFFFF else 0
    | .anv => if 0x108 ≤ o ∧ o < 0x11C then 0xFFFFFFFF else 0
    | .hbm => if o = 0x104 then 0x3000 else if o = 0x108 then 0xFFFFFFFF else if o = 0x110 ∧ cold = false then 0xFFFFFFFF else 0
    | .phy => if o = 0x100 then 0x003F00FF else if 0x180 ≤ o then 0xFFFFFFFF else 0
    | .noc => if 0x200 ≤ o then 0xFFFFFFFF else 0
    | .lnk => if o = 0x104 then 0x00FF0000 else if o = 0x108 ∧ cold = false then 0xFFFFFFFF else 0
    | .rt => if o ≤ 0x104 ∧ cold = false then 0xFFFFFFFF else 0
    | .tngS => if o = 0x10C ∧ cold = false then 0xFFFFFFFF else 0
    | .hrtD => if o = 0x10C then 0xFFFFFFFF else if (o = 0x104 ∨ o = 0x110) ∧ cold = false then 0xFFFFFFFF else 0
    | _ => 0

/-- The bits of a word of SD's pages that a cold start keeps: what MRAM and SYS hold. A module reset leaves SD's pages as they are. -/
def keepOnSd (k : PageKind) (o : Nat) : Nat :=
  match k with
  | .sp0 => if o = hEpoch then 0xFFFFFFFF else if o = 0x100 then 0xFF0001FF
            else if o = 0x128 ∨ (0x130 ≤ o ∧ o < 0x140) then 0xFFFFFFFF else if o = 0x140 then 1 else 0
  | .ftl0 => if o = 0x104 then 2 else if o = 0x130 ∨ o = 0x134 ∨ o = 0x144 then 0xFFFFFFFF else 0
  | _ => if o = hEpoch then 0xFFFFFFFF else 0

/-- A word after a reset. -/
def keptWord (cold : Bool) (off : Nat) (v : W32) : W32 :=
  match pageAt off with
  | none => 0
  | some p =>
    let m : W32 := BitVec.ofNat 32
      (if p.die = 15 then (if cold then keepOnSd p.kind (off % 4096) else 0xFFFFFFFF) else keepOnDie cold p.kind (off % 4096))
    (v &&& m) ||| (regReset off &&& ~~~m)

/-- The window after a reset; halves of pairs that were held are gone. -/
def resetWindow (cold : Bool) (w : Window) : Window :=
  let regs := w.regs.filterMap (fun c => let v := keptWord cold c.1 c.2; if v = regReset c.1 then none else some (c.1, v))
  { w with regs := regs, hiLatch := [], loHold := [], climRun := [], rtData := if cold then [] else w.rtData }

/-- The state of the units on the compute dies, of host memory, HBM and the flash pool is lost; BILLET is kept (R425). -/
def loseUnits (s : State) : State :=
  { s with
    tl := Tiles.reset, anv := Anvils.reset, qch := Quench.reset, tmp := [], blw := Bellows.reset, sth := Stash.reset,
    tng := Tongs.reset, lnk := Links.reset, rng := [], seq := [], blt := [],
    mem := { Memory.reset with billet := s.mem.billet, ftlSince := s.mem.ftlSince, fresh := s.mem.fresh },
    prt := { Parts.reset with held := s.prt.held, heldCap := s.prt.heldCap },
    cal := { s.cal with windows := [], called := [], lanes := [], last := [] } }

/-- A module-wide loss: units, registers, partitions. -/
def loseModule (cold : Bool) (s : State) : State :=
  let s := loseUnits { s with win := resetWindow cold s.win }
  let s := (List.range 8).foldl (fun s n => wr (wr s (partPg + 0x140 + 4 * n) 0) (partPg + 0x160 + 4 * n) 0) s
  if cold then { s with hrt := Hearth.reset, mgt := Mgt.reset, ftm := FabricTime.reset }
  else { s with hrt := { s.hrt with slow := [], period := [], episodes := [], runs := [],
                                    dies := s.hrt.dies.map (fun c => (c.1, { c.2 with hints := [], boost := none })) } }

/-- The epochs of the module and of everything below it, but for the tiles', which their reset in stage 7 increments (R390, R418). -/
def bumpModule (s : State) : State :=
  let s := bumpEpoch s sp0Pg
  let s := (List.range 4).foldl (fun s d => bumpEpoch s (hrtDPg d)) s
  let s := (List.range 32).foldl (fun s c => bumpEpoch (bumpEpoch s (ctlPg c 0)) (ctlPg c 6)) s
  (List.range 8).foldl (fun s sl => (slicePages sl).foldl (fun s c => bumpEpoch s c.1) s) s

/-- Every partition ends as a DESTROY ends it, with its clinker entry; a billet in progress is aborted (R426). -/
def endPartitions (s : State) : State :=
  (List.range 8).foldl (fun s n =>
    if partState s n = 0 then s
    else clinker (billetEnd s n (lowSlice s n) 6) { cat := 8, code := 2, page := partPg, part := n }) s

/-- The counters that hold their values from module reset start again. -/
def clearAllCounters (s : State) : State :=
  let s := [(hrtPg, PageKind.hrt), (calPg, .spCal), (ftl0Pg, .ftl0)].foldl (fun s c => clearCounters c.1 c.2.regs s) s
  wr (wr (wr s (mgtPg + 0x10C) 0) (mgtPg + 0x110) 0) (mgtPg + 0x114) 0

/-! ### The stages (R422) -/

def setBoot (s : State) (b : Boot) : State := { s with boot := b }

/-- STBY_OK (20_electrical_mechanical.md R490): high from stage 1 until hold-up ends. -/
def stbyOk (s : State) : Bool := s.boot.done.contains .s1

/-- The stages that a stage waits for. -/
def stageAfter : Stage → List Stage
  | .s1 => []
  | .s2 => [.s1]
  | .s3 => [.s2]
  | .s4 => [.s3]
  | .s5 => [.s4]
  | .s6a | .s6b | .s6c => [.s5]
  | .s6d => [.s6b]
  | .s7 => [.s6a]
  | .s8 => [.s7]
  | .s9 => [.s6b, .s6c, .s6d, .s8]

/-- SP_BOOT_STAT.STAGE of a stage, and its index in SP_STAGE_MS (R436). -/
def stageCode : Stage → Nat × Nat
  | .s1 => (1, 0)
  | .s2 => (2, 1)
  | .s3 => (3, 2)
  | .s4 => (4, 3)
  | .s5 => (5, 4)
  | .s6a => (6, 5)
  | .s6b => (6, 6)
  | .s6c => (6, 7)
  | .s6d => (6, 8)
  | .s7 => (7, 9)
  | .s8 => (8, 10)
  | .s9 => (9, 11)

/-- SP_BOOT_STAT.STAGE. -/
def setStage (s : State) (n : Nat) : State := wrF s (bootPg + 0x100) 31 28 n

/-- What a stage does as it begins: the training states of its units, the map's loading, the ports that train. -/
def stageActs (s : State) : Stage → State
  | .s5 => (List.range 4).foldl (fun s d => (List.range 4).foldl (fun s n => wrF s (uciPg d n + 0x104) 31 28 1) s) s
  | .s6a => (List.range 32).foldl (fun s c => wrF s (ctlPg c 6 + 0x100) 31 28 1) s
  | .s6c => (List.range 16).foldl (fun s p => if rdB s (lnkPg p + 0x100) 0 && portState s p == 0 then portTrain s p else s) s
  | .s6d => wrB s (ftl0Pg + 0x104) 2 true
  | _ => s

/-- A stage may begin: it has not, every stage before it has completed, and stage 4 has its hold-up bank charged and MOD_EN high (R422,
R486). -/
def mayBegin (b : Boot) (x : Stage) : Bool :=
  !(b.running.contains x) && !(b.done.contains x) && (stageAfter x).all (fun y => b.done.contains y) && (x != .s4 || (b.charged && b.modEn))

/-- Begin every stage that may begin. -/
def beginStages (s : State) : State :=
  [Stage.s1, .s2, .s3, .s4, .s5, .s6a, .s6b, .s6c, .s6d, .s7, .s8].foldl (fun s x =>
    if mayBegin s.boot x then
      stageActs (setStage (setBoot s { s.boot with running := s.boot.running ++ [x] }) (stageCode x).1) x
    else s) s

/-- SP_STAGE_MS of a stage that completes. -/
def stageTime (s : State) (x : Stage) : State :=
  wr s (bootPg + 0x110 + 4 * (stageCode x).2) (min ((s.time - s.boot.origin) / 1000000) 0xFFFE)

/-- A unit was marked failed or down. -/
def markBad (s : State) : State := setBoot s { s.boot with bad := true }

/-- Start-up stops (R424). -/
def failBoot (s : State) : State :=
  let s := setBoot s { s.boot with phase := .stopped, running := [] }
  clinker (intSet (wrB s (bootPg + 0x100) 2 true) bootPg 4) { cat := 1, code := 3, page := bootPg }

/-! ### Spare mapping (R429) -/

/-- The physical tile that takes logical number l: the working tile that holds it, its own place, or the lowest working spare of its
half. taken lists the tiles that have a number already. -/
def pickTile (s : State) (taken : List Nat) (l : Nat) : Option Nat :=
  let sl := l / 32
  let ok := fun t => !(tileFailed s t) && !(taken.contains t)
  let own := 72 * (sl / 2) + 36 * (sl % 2) + l % 32
  match (sliceTiles sl).find? (fun t => logicalOf s t == l && ok t) with
  | some t => some t
  | none =>
    if ok own && !(isLogical s own) then some own
    else (sliceTiles sl).find? (fun t => ok t && !(isLogical s t) && decide ((t - (72 * (sl / 2) + 36 * (sl % 2))) ≥ 32))

/-- Give out the logical numbers of a half. -/
def assignHalf (s : State) (sl : Nat) : State :=
  let got := (rangeFrom (32 * sl) 32).foldl (fun (acc : List (Nat × Nat)) l =>
    match pickTile s (acc.map (·.2)) l with
    | some t => acc ++ [(l, t)]
    | none => acc) []
  let s := (sliceTiles sl).foldl (fun s t => wrF s (tilePg t 0 + 0x108) 15 0 (if tileFailed s t then 0xFFFE else 0xFFFF)) s
  let s := got.foldl (fun s c => setRoute (wrF s (tilePg c.2 0 + 0x108) 15 0 c.1) c.1 c.2) s
  if got.length < 32 then markBad s else s

/-- SP_STd (R436). -/
def dieCounts (s : State) (d : Nat) : State :=
  let tiles := rangeFrom (72 * d) 72
  let spares := (tiles.filter (fun t => decide (t % 36 ≥ 32) && isLogical s t)).length
  let failed := (tiles.filter (fun t => tileFailed s t)).length
  let rows := sumNat (tiles.map (fun t => sumNat ([0, 1, 2].map (fun a => repairedRows s (anvPg t a)))))
  let narrow := sumNat (tiles.map (fun t => ([0, 1, 2].filter (fun a => decide (rdF s (anvPg t a + hCap) 23 16 < 128))).length))
  wr s (bootPg + 0x140 + 4 * d) (spares * 2 ^ 24 + failed * 2 ^ 16 + min rows 255 * 2 ^ 8 + min narrow 255)

/-- Stage 7: the tiles that failed self-test, the numbers, the reset of every tile. -/
def mapTiles (s : State) (fails : List Nat) : State :=
  let s := ((List.range 288).filter (fun t => fails.contains t && !(tileFailed s t))).foldl failTile s
  let s := (List.range 8).foldl assignHalf s
  let s := (List.range 288).foldl (fun s t => endReset (beginReset s t false) t) s
  let s := (List.range 4).foldl dieCounts s
  if fails = [] then s else rewriteDevice s

/-! ### READY (R423, R436) -/

/-- SP_ST_MEM and SP_ST_LINK. -/
def readyCounts (s : State) : State :=
  let ctl := List.range 32
  let failed := (ctl.filter (fun c => stackFailed s c)).length
  let low := (ctl.filter (fun c => rdF s (ctlPg c 0 + 0x104) 13 12 != 0)).length
  let lanes := sumNat (ctl.map (fun c => rdF s (ctlPg c 6 + 0x100) 7 0))
  let s := wr s (bootPg + 0x150) (failed * 2 ^ 24 + low * 2 ^ 16 + lanes)
  let spare := sumNat ((List.range 16).map (fun p =>
    if rdF s (lnkPg p + 0x104) 23 20 ≠ 0xF ∨ rdF s (lnkPg p + 0x104) 19 16 ≠ 0xF then 2 ^ p else 0))
  wr s (bootPg + 0x154) ((0xFFFF - upPorts s) * 2 ^ 16 + spare)

/-- The records of the estimator's set and of the dies' core margins, where none has been taken. -/
def firstRecs (s : State) : State :=
  let temp := fun d => rdF s (hrtDPg d + 0x104) 7 0
  let add := fun s k t => if (calRec s k).isSome then s else takeRec s k t
  let s := (List.range 4).foldl (fun s d => add s (recKey 6 d) (temp d)) s
  add s (recKey 5 s.hrt.wset) ((List.range 4).foldl (fun m d => max m (temp d)) 0)

/-- SP sets READY, with DEGRADED where a unit failed or is down; the held request runs. -/
def setReady (s : State) : State :=
  let s := stageTime (setStage s 9) .s9
  let s := setBoot s { s.boot with phase := .ready, running := [], done := s.boot.done ++ [.s9] }
  let s := wrB (wrB s (bootPg + 0x100) 0 true) (bootPg + 0x100) 1 s.boot.bad
  let s := intSet s bootPg (if s.boot.bad then 3 else 1)
  runHeld (clinker (readyCounts (firstRecs s)) { cat := 1, code := 2, page := bootPg })

/-! ### What a stage leaves as it completes (R422, R424, R428, R429) -/

/-- Stage 2: the slot that verified, whose components run. -/
def bootSlot (s : State) (b : Bool) : State :=
  let s := wrB s (bootPg + 0x100) 7 b
  if b then clinker (useComps s s.sp.slotB.comps) { cat := 11, code := 1, page := bootPg } else useComps s s.sp.slotA.comps

/-- Stage 3: the module epoch increments; the owner policy applies if it verifies, and is absent otherwise. -/
def loadConfig (s : State) : State :=
  let s := bumpModule s
  match s.sp.policy with
  | some b =>
    if policyOk s b then
      let keep := s.win
      let s := applyLater (applyNow s b) b
      { s with win := { s.win with climStarted := keep.climStarted } }
    else { s with sp := { s.sp with policy := none }, win := { s.win with clim := [], climStart := [] } }
  | none => { s with win := { s.win with clim := [], climStart := [] } }

/-- UCI_STAT of a page: STATE, MODULES and the rate by the page's pair (R428, R480). -/
def uciState (s : State) (d n : Nat) (st : Nat) : State :=
  wr s (uciPg d n + 0x104) (st * 2 ^ 28 + nth 1 [2, 8, 8, 1] n * 2 ^ 24 + nth 16 [32, 32, 32, 16] n * 2 ^ 16)

/-- The pages of a UCIe pair. -/
def pairPages (n : Nat) : List (Nat × Nat) :=
  if n < 4 then [(n, 0)] else if n < 8 then [(n - 4, 1), ((n - 3) % 4, 2)] else [(0, 3), (1, 3), (2, 3), (3, 3)]

/-- Stage 5: every pair is up, or failed, which makes its dies' slices unavailable. -/
def trainPairs (s : State) (fails : List Nat) : State :=
  let s := (List.range 4).foldl (fun s d => (List.range 4).foldl (fun s n => uciState s d n 2) s) s
  let bad := (List.range 9).filter (fun n => fails.contains n)
  let s := bad.foldl (fun s n => (pairPages n).foldl (fun s c => intSet (uciState s c.1 c.2 3) (uciPg c.1 c.2) 4) s) s
  let s := (List.range 9).foldl (fun s n => if fails.contains n then s
    else takeRec s (recKey 4 n) ((pairDies n).foldl (fun m d => max m (rdF s (hrtDPg d + 0x104) 7 0)) 0)) s
  if bad = [] then s else markBad s

/-- Stage 6a: every stack tracks, with new records, or is failed. -/
def trainStacks (s : State) (fails : List Nat) : State :=
  (List.range 32).foldl (fun s c =>
    if stackFailed s c then markBad s
    else if fails.contains c then markBad (failStack s c)
    else
      let temp := rdF s (ctlPg c 0 + 0x10C) 23 16
      let s := wrF (wrF s (ctlPg c 6 + 0x100) 31 28 2) (ctlPg c 6 + 0x108) 23 16 temp
      takeRec (takeRec s (recKey 1 c) temp) (recKey 2 c) temp) s

/-- Stage 6d: the map is loaded; a journal that fails its check makes what was written after the checkpoint unreadable. -/
def loadMap (s : State) (bad : Bool) : State :=
  let s := wrB (wrB s (ftl0Pg + 0x104) 2 false) (ftl0Pg + 0x104) 0 true
  if bad then
    let gone := fun a => s.mem.fresh.any (fun r => decide (r.1 ≤ a ∧ a < r.1 + r.2))
    let s := { s with mem := { s.mem with billet := cDrop s.mem.billet gone, fresh := [], ftlSince := 0 } }
    clinker s { cat := 10, code := 2, page := ftl0Pg }
  else s

/-- The effect of a stage's completion. -/
def stageEffect (s : State) (r : StageReport) : State :=
  match r.stage with
  | .s2 => bootSlot s r.slotB
  | .s3 => loadConfig s
  | .s4 =>
    let s := setBoot s { s.boot with rails := true }
    (List.range 4).foldl (fun s d => wrF s (hrtDPg d + 0x104) 31 28 0) s
  | .s5 => trainPairs s r.failPairs
  | .s6a => trainStacks s r.failStacks
  | .s6b =>
    let s := wr s (bootPg + 0x158) (min r.hdCores 68)
    if r.hdCores < 64 then markBad s else s
  | .s6d => loadMap s r.journalBad
  | .s7 => mapTiles s r.failTiles
  | .s8 => { s with mem := { s.mem with hbm := [], flash := [] }, prt := { s.prt with unzeroed := [] } }
  | _ => s

/-- Every stage before READY has completed. -/
def stagesDone (b : Boot) : Bool := (stageAfter .s9).all (fun x => b.done.contains x)

/-- A rail group that does not regulate stops start-up (R424): every rail but VSTBY is removed. -/
def stageFails (s : State) (r : StageReport) : Option State :=
  if r.failed = false then none
  else match r.stage with
    | .s2 => some (failBoot (clinker s { cat := 11, code := 1, page := bootPg }))
    | .s4 => some (failBoot (setBoot s { s.boot with rails := false }))
    | _ => none

/-- STARTUP_STAGE_DONE: a stage that is running completes: its time, its effect, its BOOT entry; the stages that waited for it begin, standby at
the end of stage 3 with MOD_EN low, or READY. -/
def execStartupStageDone (report : StageReport) (now : Nat) (s : State) : Out :=
  let s := tick s now
  let x := report.stage
  if s.boot.phase ≠ .starting ∨ s.boot.running.contains x = false then .next s
  else
    match stageFails s report with
    | some s' => .next s'
    | none =>
      let s := setBoot s { s.boot with running := s.boot.running.filter (fun y => y != x), done := s.boot.done ++ [x] }
      let s := stageEffect (stageTime s x) report
      let s := clinker s { cat := 1, code := 1, page := bootPg, sub := (stageCode x).2 }
      if x = .s3 ∧ s.boot.modEn = false then .next (setStage (setBoot s { s.boot with phase := .standby }) 0xA)
      else if stagesDone s.boot then .next (setReady s)
      else .next (beginStages s)

/-! ### The bound (R423) -/

/-- The units of a stage that its end at the bound leaves failed or down. -/
def endStage (s : State) (x : Stage) : State :=
  match x with
  | .s5 => (List.range 4).foldl (fun s d => (List.range 4).foldl (fun s n =>
      if rdF s (uciPg d n + 0x104) 31 28 = 2 then s else wrF s (uciPg d n + 0x104) 31 28 3) s) s
  | .s6a => (List.range 32).foldl (fun s c => if rdF s (ctlPg c 6 + 0x100) 31 28 = 2 ∨ stackFailed s c then s else failStack s c) s
  | .s6c => (List.range 16).foldl (fun s p => if portState s p = 1 then wrF s (lnkPg p + 0x104) 31 28 0 else s) s
  | .s6d => wrB s (ftl0Pg + 0x104) 2 false
  | .s7 => (List.range 288).foldl (fun s t => if tileFailed s t then s else failTile s t) s
  | _ => s

/-- STARTUP_BOUND_EXPIRE: 6,000 ms after the start of stage 1, or after a module reset's request, with MOD_EN high at the end of stage 3:
the stages that have not completed are ended, their units marked, and READY is set with DEGRADED. -/
def execStartupBoundExpire (now : Nat) (s : State) : Out :=
  let s := tick s now
  let b := s.boot
  if b.phase ≠ .starting ∨ b.done.contains .s3 = false ∨ s.time < b.origin + 6000000000 then .next s
  else
    let late := [Stage.s5, .s6a, .s6b, .s6c, .s6d, .s7, .s8].filter (fun x => !(b.done.contains x))
    .next (setReady (markBad (late.foldl endStage s)))

/-! ### Starts and resets (R421, R426) -/

/-- The stages start. -/
def startStages (s : State) (warm : Bool) (done : List Stage) : State :=
  let s := setBoot s { s.boot with phase := .starting, origin := s.time, warm := warm, running := [], done := done, bad := false }
  let s := wr s (bootPg + 0x100) (rd s (bootPg + 0x100) &&& 0xF0000080)
  let s := (List.range 12).foldl (fun s n => if done.any (fun x => (stageCode x).2 == n) then s else wr s (bootPg + 0x110 + 4 * n) 0xFFFF) s
  beginStages s

/-- A cold start: the state of R425 is lost; power lost during a trial is a failed attempt; SP starts. -/
def beginCold (s : State) : State :=
  let s := loseModule true s
  let s := { s with sp := { s.sp with meas := [], mismatch := [], heldReset := false, pending := false },
                    prt := Parts.reset }
  startStages (spStart (trialAttempt s [])) false []

/-- COLD_START: the input rises through 44 V, or an analog trip is followed by one; above 65 V nothing is specified. -/
def execColdStart (vinMv : Nat) (now : Nat) (s : State) : Out :=
  let s := tick s now
  if vinMv > 65000 then .fault .inputAboveMaximum
  else if vinMv < 44000 then .next s
  else if s.boot.phase = .off ∨ (s.boot.phase = .tripped ∧ s.boot.keepsOff = false) then
    .next (beginCold (setBoot s { s.boot with keepsOff := false }))
  else .next s

/-- INPUT_BACK_IN_RANGE: after an overvoltage trip the input is back within 44 to 59.5 V: a cold start (R484). -/
def execInputBackInRange (vinMv : Nat) (now : Nat) (s : State) : Out :=
  let s := tick s now
  if s.boot.phase = .tripped ∧ s.boot.keepsOff ∧ 44000 ≤ vinMv ∧ vinMv ≤ 59500 then
    .next (beginCold (setBoot s { s.boot with keepsOff := false }))
  else .next s

/-- What a module reset does beside its stages (R426, R452): a trial's failed attempt, HD's boot firmware of slot A, the measurements that HD
extends, the epochs. -/
def loseWarm (s : State) : State :=
  let s := loseModule false (endPartitions s)
  let s := { s with sp := { s.sp with meas := [] }, prt := { s.prt with running := none } }
  let s := applyPending (clearAllCounters s)
  let s := trialAttempt s []
  bumpModule (useComps s ((s.sp.inUse.take 2) ++ [compAt s.sp.slotA.comps 2]))

/-- A module reset: partitions end, a BOOT entry, stages 4 to 9; stage 4 is skipped while the rails are up. -/
def moduleResetNow (s : State) : State :=
  let s := clinker (loseWarm s) { cat := 1, code := 4, page := bootPg }
  startStages s true (if s.boot.rails then [.s1, .s2, .s3, .s4] else [.s1, .s2, .s3])

/-- The module can be reset: it is READY, or start-up has passed stage 3. -/
def canReset (s : State) : Bool := s.boot.phase == .ready || (s.boot.phase == .starting && s.boot.done.contains .s3)

/-- A request of a module reset: refused in SAFE; while SP restarts it waits. -/
def requestReset (s : State) : State :=
  if spSafe s ∨ canReset s = false then s
  else if spRestarting s then { s with sp := { s.sp with heldReset := true } }
  else moduleResetNow s

/-- MODULE_RESET: SP_RST_REQ with GO and OP MODULE; other OP codes are reserved and do nothing. -/
def execModuleReset (r : RegWrite) (s : State) : Out :=
  let s := tick s r.now
  let v := r.val.toNat
  if r.off.toNat ≠ bootPg + 0x104 ∨ v.testBit 31 = false then .refused (.otherRow "MODULE_RESET")
  else
    let s := wr s (bootPg + 0x104) (v &&& 3)
    .next (if v % 4 = 1 then requestReset s else s)

/-! ### MOD_EN (20_electrical_mechanical.md R491) -/

/-- MOD_EN_FALL: after stage 3, standby: partitions end, HBM contents are lost, the main rails go off, a BOOT entry. -/
def execModEnFall (now : Nat) (s : State) : Out :=
  let s := setBoot (tick s now) { s.boot with modEn := false }
  if canReset s then
    let s := loseModule false (endPartitions s)
    let s := wr s (bootPg + 0x100) (rd s (bootPg + 0x100) &&& 0xF0000080)
    let s := setStage (setBoot s { s.boot with phase := .standby, rails := false, running := [], done := [.s1, .s2, .s3] }) 0xA
    .next (clinker (applyPending s) { cat := 1, code := 5, page := bootPg })
  else .next s

/-- MOD_EN_RISE: in standby, a module reset. -/
def execModEnRise (now : Nat) (s : State) : Out :=
  let s := setBoot (tick s now) { s.boot with modEn := true }
  if s.boot.phase = .standby then .next (moduleResetNow s) else .next s

/-! ### Loss of the input (18_safety_security_clinker.md R463; 20_electrical_mechanical.md R484, R486) -/

/-- HOLDUP_CHARGED: the bank is charged; stage 4 may begin. -/
def execHoldupCharged (now : Nat) (s : State) : Out :=
  let s := tick s now
  if s.boot.phase = .off then .next s
  else
    let s := setBoot s { s.boot with charged := true }
    .next (if s.boot.phase = .starting then beginStages s else s)

/-- The category and code under which an open entry is closed: those of the entry itself (DEDUCED, log entry 62). -/
def openedAs (c : Clinker) (q : Nat) : Nat × Nat :=
  match (c.perm ++ c.ring).find? (fun e => e.seq == q) with
  | some e => (e.cat.toNat, e.code.toNat)
  | none => (2, 2)

/-- A CLOSE entry with CLOSED_BY_HOLDUP for every open entry. -/
def closeByHoldup (s : State) : State :=
  s.cln.opened.foldl (fun s q =>
    let c := openedAs s.cln q
    clinker s { cat := c.1, code := c.2, page := sp0Pg, closes := some q, flags := 4 }) s

/-- Whether the newest entry's storing was cut off is open where hold-up failed (R464). -/
def maybeTear (s : State) : State :=
  let v := drawFree s
  if v.1 % 2 = 0 then v.2
  else
    let cut := fun (e : ClinkerEntry) => if e.seq + 1 = v.2.cln.next then { e with good := false } else e
    { v.2 with cln := { v.2.cln with perm := v.2.cln.perm.map cut, ring := v.2.cln.ring.map cut } }

/-- INPUT_LOSS: the input falls below 40 V: without a charged bank every rail goes; otherwise SD closes the log on hold-up energy. -/
def execInputLoss (now : Nat) (s : State) : Out :=
  let s := tick s now
  if s.boot.phase = .off ∨ s.boot.phase = .holdup then .next s
  else if s.boot.charged = false then
    .next (setBoot (maybeTear s) { s.boot with phase := .off, rails := false, running := [], done := [] })
  else
    let s := clinker s { cat := 2, code := 1, page := bootPg }
    let n := s.cln.opened.length
    let s := wrB (loseModule false (closeByHoldup s)) (bootPg + 0x100) 0 false
    let s := clinker s { cat := 2, code := 2, page := bootPg, payload := some (leBytes 8 n) }
    .next (setBoot s { s.boot with phase := .holdup, rails := false, charged := false, running := [], lost := s.time })

/-- HOLDUP_END: 20 ms after the loss SD is held in reset, and STBY_OK is low. -/
def execHoldupEnd (now : Nat) (s : State) : Out :=
  let s := tick s now
  if s.boot.phase = .holdup ∧ s.boot.lost + 20000000 ≤ s.time then
    .next (setBoot s { s.boot with phase := .off, done := [] })
  else .next s

/-- Every rail except VSTBY is removed by an analog trip; SD writes a clinker entry (16_hearth_power_thermal.md R397). -/
def analogTrip (s : State) (sub : Nat) (keepsOff : Bool) : State :=
  let s := clinker (wrB (loseModule false s) (bootPg + 0x100) 0 false) { cat := 2, code := 5, page := hrtPg, sub := sub }
  setBoot s { s.boot with phase := .tripped, rails := false, running := [], keepsOff := keepsOff }

/-- The main power train can trip: it has power and has not tripped. -/
def canTrip (s : State) : Bool := s.boot.phase == .ready || s.boot.phase == .starting || s.boot.phase == .standby || s.boot.phase == .stopped

/-- INPUT_OVERVOLTAGE: the input is above 60.5 V for more than 10 µs. -/
def execInputOvervoltage (now : Nat) (s : State) : Out :=
  let s := tick s now
  .next (if canTrip s then analogTrip s 0xFFFF true else s)

/-- ANALOG_TRIP: a rail reaches its ILIM. -/
def execAnalogTrip (rail : Fin 11) (now : Nat) (s : State) : Out :=
  let s := tick s now
  .next (if canTrip s then analogTrip s rail false else s)

end Sys2Proof.Machine
end

