-- ==== Sys2Proof/Machine/Power.lean ====
section
/-!
DEFINITION. Hearth's arithmetic (16_hearth_power_thermal.md R395 to R408): exact fractions, the operating points, voltages, the estimate of a
period, and what it predicts of other settings.
-/
namespace Sys2Proof.Machine

/-! ### Exact fractions -/

/-- n / d in lowest terms; a division by 0 gives 0. -/
def fr (n : Int) (d : Nat) : Frac :=
  if d = 0 then ⟨0, 0⟩ else let g := Nat.gcd n.natAbs d; ⟨n / (g : Int), d / g - 1⟩

def frNat (n : Nat) : Frac := ⟨n, 0⟩
def frAdd (a b : Frac) : Frac := fr (a.num * (b.den + 1) + b.num * (a.den + 1)) ((a.den + 1) * (b.den + 1))
def frSub (a b : Frac) : Frac := fr (a.num * (b.den + 1) - b.num * (a.den + 1)) ((a.den + 1) * (b.den + 1))
def frMul (a b : Frac) : Frac := fr (a.num * b.num) ((a.den + 1) * (b.den + 1))
/-- A quotient; the sign of the divisor moves to the numerator. -/
def frDiv (a b : Frac) : Frac :=
  fr (a.num * (b.den + 1) * (if b.num < 0 then -1 else 1)) ((a.den + 1) * b.num.natAbs)
def frLe (a b : Frac) : Bool := decide (a.num * (b.den + 1) ≤ b.num * (a.den + 1))
def frLt (a b : Frac) : Bool := !(frLe b a)
def frMin (a b : Frac) : Frac := if frLe a b then a else b
def frMax (a b : Frac) : Frac := if frLe a b then b else a
def frSum (l : List Frac) : Frac := l.foldl frAdd ⟨0, 0⟩
/-- The whole part, not below 0. -/
def frFloor (a : Frac) : Nat := (a.num / ((a.den + 1 : Nat) : Int)).toNat
/-- Rounded up to a multiple of 10. -/
def frTens (a : Frac) : Nat := 10 * ((a.num + 10 * (a.den + 1 : Nat) - 1) / ((10 * (a.den + 1) : Nat) : Int)).toNat

/-- The value of an FP32 code; 0 where it is no number. -/
def frFp32 (bits : Nat) : Frac :=
  match fp32.decode bits with
  | .fin neg m e => let r := dyRat m e; fr (signedMant neg r.1) r.2
  | _ => ⟨0, 0⟩

/-! ### Dies, operating points, voltages (R398 to R400, R403) -/

/-- Clock in MHz and core voltage in mV of an operating point. -/
def opClock (p : Nat) : Nat := nth 1800 [400, 550, 700, 850, 1000, 1150, 1300, 1450, 1600, 1700, 1800] p
def opMv (p : Nat) : Nat := nth 820 [500, 530, 560, 590, 620, 650, 680, 710, 740, 780, 820] p

def dieAgent (s : State) (d : Nat) : DieAgent := cGet (fun _ => {}) s.hrt.dies d
def setAgent (s : State) (d : Nat) (a : DieAgent) : State := { s with hrt := { s.hrt with dies := cSet (fun _ => {}) s.hrt.dies d a } }

/-- The fields of HRT_D_STAT: the operating point in effect, the two ceilings, the hottest junction. -/
def dieOp (s : State) (d : Nat) : Nat := rdF s (hrtDPg d + 0x104) 31 28
def powerCeil (s : State) : Nat := rdF s (hrtDPg 0 + 0x104) 27 24
def thermCeil (s : State) (d : Nat) : Nat := rdF s (hrtDPg d + 0x104) 23 20
def junction (s : State) (d : Nat) : Nat := rdF s (hrtDPg d + 0x104) 7 0

/-- The lowest of the limits on a die's operating point but for the power ceiling. -/
def dieTop (s : State) (d : Nat) : Nat := min (rdF s (hrtPg + 0x118) 3 0) (min (thermCeil s d) (dieAgent s d).ageTop)

def guardWide (s : State) : Bool := rdB s (hrtPg + 0x104) 3

/-- The core voltage of a die at an operating point: with trim, rail-droop margin, the wide guard's 10 mV and a boost, at most 860 mV. -/
def setPoint (s : State) (d p : Nat) : Nat :=
  let a := dieAgent s d
  let boost := match a.boost with
    | some b => b.mv
    | none => 0
  min 860 (opMv p + rdF s (hrtDPg d + 0x10C) 5 0 + a.railMv + boost + (if guardWide s then 10 else 0))

/-- The core voltage now: during a transition it slews at 10 mV/µs. -/
def coreMv (s : State) (d : Nat) : Nat :=
  let a := dieAgent s d
  match a.target with
  | none => setPoint s d (dieOp s d)
  | some t =>
    let goal := setPoint s d t
    let slew := (s.time - a.began) / 100
    if a.mvOld ≤ goal then min goal (a.mvOld + slew) else max goal (a.mvOld - slew)

/-- A transition to an operating point begins (R399): a lowering takes the clock down at once, a raise leaves it until the voltage is up. -/
def beginMove (s : State) (d goalOp : Nat) : State :=
  let s' := setAgent s d { dieAgent s d with target := some goalOp, mvOld := coreMv s d, began := s.time }
  intSet (wrF s' (hrtDPg d + 0x104) 31 28 (min goalOp (dieOp s d))) (hrtDPg d) 8

/-- OP_CHANGE: the die follows its limits. During a transition only a lowering begins: the clock takes the new target at once, and the
voltage goes on to the lower of the two. -/
def applyOp (s : State) (d : Nat) : State :=
  let want := min (powerCeil s) (dieTop s d)
  match (dieAgent s d).target with
  | none => if want = dieOp s d then s else beginMove s d want
  | some t => if want < dieOp s d ∨ want < t then beginMove s d (min want t) else s

/-- The issue duty of half h of die d in sixteenths (R272, R400). -/
def halfDuty (s : State) (d h : Nat) : Nat :=
  let hbm := (List.range 4).foldl (fun m i => min m (max 1 (rdF s (ctlPg (4 * (2 * d + h) + i) 0 + 0x10C) 12 8))) 16
  let power := if dieOp s d = 0 then s.hrt.duty else 16
  min (min hbm power) (if (dieAgent s d).tripped then 1 else 16)

/-- HRT_D_STAT shows the duties. -/
def showDuty (s : State) (d : Nat) : State :=
  wrF (wrF s (hrtDPg d + 0x104) 19 15 (halfDuty s d 0)) (hrtDPg d + 0x104) 14 10 (halfDuty s d 1)

/-! ### The estimate (R401, R402) -/

/-- k. -/
def corrK (s : State) : Frac := fr (rdF s (hrtPg + 0x128) 15 0) 16384

/-- The voltage of a rail group's consumers in mV: the core voltage of a compute die, the rail's output elsewhere. -/
def railMv (s : State) (r : Nat) : Nat := if r < 4 then coreMv s r else (rail r).1

def sq (a : Frac) : Frac := frMul a a

/-- Dynamic power of a rail group in the period: w * n * (V / 0.74)^2 / 2 µs. -/
def railDyn (s : State) (x : PowerSample) (r : Nat) : Frac :=
  frMul (sq (fr (railMv s r) 740)) (frSum ((x.counts.filter (fun c => c.1 == r)).map (fun c =>
    frMul (frFp32 (Config.hearthWeight s.hrt.wset c.2.1)) (fr c.2.2 2000000))))

/-- Leakage of a rail group. -/
def railLeak (s : State) (x : PowerSample) (r : Nat) : Frac := Config.hearthLeakage r (railMv s r) (nth 0 x.temps r)

/-- Loss of a rail group's active phases. -/
def railLoss (s : State) (r : Nat) : Frac := Config.phaseLoss r (rdF s (hrtPg + 0x180 + 4 * r) 31 24)

def eta (s : State) : Frac := Config.efficiency s.hrt.rawPrev

/-- P_raw. -/
def rawEstimate (s : State) (x : PowerSample) : Frac :=
  frDiv (frSum ((List.range 11).map (fun r => frAdd (railDyn s x r) (frAdd (railLeak s x r) (railLoss s r))))) (eta s)

/-- The estimated power of rail groups: dynamic power and leakage, corrected. -/
def railsPower (s : State) (x : PowerSample) (l : List Nat) : Frac :=
  frMul (corrK s) (frSum (l.map (fun r => frAdd (railDyn s x r) (railLeak s x r))))

/-- The corrected current of a rail group in A. -/
def railCurrent (s : State) (x : PowerSample) (r : Nat) : Frac :=
  frDiv (frMul (corrK s) (frAdd (railDyn s x r) (frAdd (railLeak s x r) (railLoss s r)))) (fr (rail r).1 1000)

/-- 95 % of a group's ILIM, less the share of phases that failed beyond its spares (R396, R397). -/
def railLimit (s : State) (r : Nat) : Frac :=
  frMul (fr 95 100) (fr (rdF s (hrtPg + 0x1C0 + 4 * r) 15 0 * rdF s (hrtPg + 0x180 + 4 * r) 31 24) (rail r).2.1)

/-! ### Budgets (R397, R403 to R405, R485) -/

def domLink : List Nat := [8]
def domMem : List Nat := [4, 5, 6, 7]
def domComp : List Nat := [0, 1, 2, 3]

/-- The dies' hottest junctions, by which the floors are. -/
def junctions (s : State) : List Nat := (List.range 4).map (junction s)

/-- The floor of a domain: 0 LINK, 1 MEM, 2 COMPUTE. -/
def floorOf (s : State) (dom : Nat) : Frac := Config.domainFloor dom (junctions s)

def floors (s : State) : Frac := frSum ((List.range 3).map (floorOf s))

/-- The effective cap. -/
def effectiveCap (s : State) : Frac :=
  let g := if guardWide s then rdF s (hrtPg + 0x11C) 15 8 else rdF s (hrtPg + 0x11C) 7 0
  fr (rdF s (hrtPg + 0x108) 15 0 * (1000 - g)) 1000

/-- The electrical limit of the input: 6,500 W, 5,200 W with a converter lost, and V_in * 150 A * 0.95. -/
def inputLimit (s : State) (vinMv : Nat) : Frac :=
  frMin (frNat (if rdF s (hrtPg + 0x104) 11 8 < 4 then 5200 else 6500)) (fr (vinMv * 150 * 95) 100000)

/-- What is left of an input power for the three domains; below P_FLOOR it is the floors. -/
def budget (s : State) (x : PowerSample) (p : Frac) : Frac :=
  frMax (floors s) (frSub (frMul p (eta s)) (frNat x.fixedW))

/-! ### Predictions (R405, R406) -/

/-- COMPUTE's settings from the lowest: OP0 at duty 1 to 16, then OP1 to OP10. -/
def settingOf (i : Nat) : Nat × Nat := if i < 16 then (0, i + 1) else (i - 15, 16)
def settingAt (op duty : Nat) : Nat := if op = 0 then duty - 1 else op + 15
def presentSetting (s : State) : Nat := settingAt (powerCeil s) s.hrt.duty

/-- A die's power at setting i, within its own limits: its present dynamic power scaled by clock, duty and the square of the voltage, and
the leakage there. -/
def diePredict (s : State) (x : PowerSample) (i d : Nat) : Frac :=
  let p := min (settingOf i).1 (dieTop s d)
  let n := if p = 0 then (settingOf i).2 else 16
  let now := if dieOp s d = 0 then s.hrt.duty else 16
  let v := setPoint s d p
  let scale := frMul (fr (opClock p * n) (opClock (dieOp s d) * now)) (sq (fr v (coreMv s d)))
  frMul (corrK s) (frAdd (frMul (railDyn s x d) scale) (Config.hearthLeakage d v (nth 0 x.temps d)))

def compPredict (s : State) (x : PowerSample) (i : Nat) : Frac := frSum ((List.range 4).map (diePredict s x i))

/-- The VCORE groups stay within their limits at setting i. -/
def coreRailsOk (s : State) (x : PowerSample) (i : Nat) : Bool :=
  (List.range 4).all (fun d =>
    frLe (frAdd (diePredict s x i d) (frMul (corrK s) (railLoss s d))) (frMul (railLimit s d) (fr (rail d).1 1000)))

/-- LINK's or MEM's power at setting n of 16, from its estimate at the present one. -/
def dutyPredict (est : Frac) (n now : Nat) : Frac := frMul est (fr n now)

/-- The rail groups of LINK or MEM stay within their limits at setting n. -/
def dutyRailsOk (s : State) (x : PowerSample) (l : List Nat) (n now : Nat) : Bool :=
  l.all (fun r => frLe (frMul (railCurrent s x r) (fr n now)) (railLimit s r))

/-- The highest setting from n down to lo that a test admits; lo where none is. -/
def highest (ok : Nat → Bool) (lo : Nat) : Nat → Nat
  | 0 => lo
  | n + 1 => if n + 1 ≤ lo then lo else if ok (n + 1) then n + 1 else highest ok lo n

end Sys2Proof.Machine
end

