-- ==== Sys2Proof/Machine/Calibration.lean ====
section
/-!
DEFINITION. Calibration (17_startup_calibration.md R431 to R437; 16_hearth_power_thermal.md R413, R415): the check of every ms, the windows,
the live recalibration of lanes, the ageing trims.
-/
namespace Sys2Proof.Machine

/-! ### The check of every ms (R431, R432) -/

/-- The load band after a mean input power: it changes only more than 100 W beyond a boundary. -/
def nextBand (b mean : Nat) : Nat :=
  let up := ([1, 2, 3].filter (fun k => decide (mean > 1500 * k + 100))).length
  let down := ([1, 2, 3].filter (fun k => decide (mean + 100 ≥ 1500 * k))).length
  if up > b then up else if down < b then down else b

/-- A record is in band. -/
def inBand (s : State) (r : CalRec) (temp : Nat) : Bool :=
  r.load == loadNow s && decide (temp ≤ r.temp + rdF s (calPg + 0x108) 3 0 ∧ r.temp ≤ temp + rdF s (calPg + 0x108) 3 0)

/-- A record's evaluation: one that goes out of band is OOB, counted, and due. -/
def checkRec (temps : List Nat) (s : State) (k : Nat) : State :=
  match calRec s k with
  | none => s
  | some r =>
    let ok := inBand s r (recTemp temps k)
    let put := fun (s : State) o => setCal s { s.cal with recs := cSet (fun _ => none) s.cal.recs k (some { r with oob := o }) }
    if ok then put s false
    else if r.oob then s
    else addDue (inc (intSet (put s true) calPg 2) (calPg + 0x128)) k

/-- CAL_RECORD_CHECK: the load band, every record, the guard; a ms with the guard wide because of a record is counted. -/
def execCalRecordCheck (temps : List Nat) (meanPowerW : Nat) (now : Nat) (s : State) : Out :=
  let s := tick s now
  let s := wrF s (calPg + 0x110) 1 0 (nextBand (loadNow s) meanPowerW)
  let s := evalGuard ((s.cal.recs.map (·.1)).foldl (checkRec temps) s)
  .next (if guardBad s then inc s (calPg + 0x12C) else s)

/-- CAL_FORCE: every record is due. -/
def execCalForce (r : RegWrite) (s : State) : Out :=
  let s := tick s r.now
  if r.off.toNat ≠ calPg + 0x100 ∨ r.val.toNat.testBit 0 = false then .refused (.otherRow "CAL_FORCE")
  else .next ((s.cal.recs.map (·.1)).foldl addDue s)

/-! ### Windows (R433, R434) -/

/-- The key of a window: the partition, or 8 for the slices in none; and its slices. -/
def windowKey (p : Option (Fin 8)) : Nat :=
  match p with
  | some n => n.val
  | none => 8

def windowSlices (s : State) (p : Option (Fin 8)) : List Nat :=
  match p with
  | some n => partSlices s n
  | none => (List.range 8).filter (fun sl => (partOfSlice s sl).isNone)

def calWindowAt (s : State) (p : Option (Fin 8)) : Option CalWindow := cGet (fun _ => none) s.cal.windows (windowKey p)

/-- A record belongs to a window's slices. -/
def ofSlices (sls : List Nat) (k : Nat) : Bool := (recSlices k).any (fun sl => sls.contains sl)

/-- SP_CAL_IDLE_MS has passed since the last window. -/
def idleNs (s : State) : Nat := rdF s (calPg + 0x10C) 19 0 * 1000000
def idlePassed (s : State) (k : Nat) : Bool := decide (cGet (fun _ => 0) s.cal.last k + idleNs s ≤ s.time)

/-- A window may open: for an armed partition once an outcome has called for it, and no billet's IMAGE phase runs; for one whose ARM is 0 while
a record is due or IDLE_MS has passed, at a build's completion or a multiple of IDLE_MS; for other slices on a due record or after IDLE_MS.
While SP restarts windows wait (18_safety_security_clinker.md R440). -/
def mayOpen (s : State) (p : Option (Fin 8)) : Bool :=
  let k := windowKey p
  let due := s.cal.due.any (ofSlices (windowSlices s p))
  let called := cGet (fun _ => false) s.cal.called k
  !(spRestarting s) && (calWindowAt s p).isNone && !(windowSlices s p).isEmpty &&
    match p with
    | none => due || idlePassed s k
    | some n =>
      let sl := lowSlice s n
      partState s n == 2 &&
        if armed s sl then called && bltPhase s sl != 1
        else (due || idlePassed s k) && (called || s.time % max 1 (idleNs s) == 0)

/-- A stack's requested notch is not the one in effect (10_hbm4_memory.md R268). -/
def notchAsked (s : State) (c : Nat) : Bool :=
  decide (rdF s (ctlPg c 0 + 0x108) 1 0 ≠ rdF s (ctlPg c 0 + 0x104) 13 12) && !(stackFailed s c)

/-- The records of a window: those due, and all of its slices' records in a periodic one or one opened by IDLE_MS. -/
def windowRecs (s : State) (p : Option (Fin 8)) : List Nat :=
  let mine := ofSlices (windowSlices s p)
  let due := s.cal.due.filter mine
  let sl := lowSlice s (windowKey p)
  let all := match p with
    | some _ => if armed s sl then rd64 s (qchPg sl + 0x110) % max 1 (rdF s (calPg + 0x104) 15 0) == 0 else due.isEmpty
    | none => due.isEmpty
  if all then (s.cal.recs.map (·.1)).filter mine else due

/-- The stacks of a slice list. -/
def stacksOf (sls : List Nat) : List Nat := (sls.map (fun sl => rangeFrom (4 * sl) 4)).flatten

def setPaused (s : State) (l : List Nat) (b : Bool) : State :=
  { s with mem := { s.mem with paused := l.foldl (fun m c => cSet (fun _ => false) m c b) s.mem.paused } }

/-- The data lanes of the due ports whose spare is free begin their recalibration; lane 8 follows them (DEDUCED, log entry 66). -/
def startLanes (s : State) (recs : List Nat) : State :=
  let l := (recs.filter (fun k => k / 4096 == 3 &&
    let st := lnkPg (k % 4096 / 9) + 0x104
    (rdF s st 23 20 == 0xF && rdF s st 19 16 == 0xF))).map (fun k => 16 * (k % 4096 / 9) + k % 4096 % 9)
  setCal s { s.cal with lanes := s.cal.lanes ++ l.filter (fun x => !(s.cal.lanes.contains x)) }

/-- CAL_WINDOW: ACTIVE; the window's stacks are held at admission. -/
def execCalWindow (part : Option (Fin 8)) (now : Nat) (s : State) : Out :=
  let s := tick s now
  if mayOpen s part = false then .next s
  else
    let k := windowKey part
    let recs := windowRecs s part
    let stackIds := (stacksOf (windowSlices s part)).filter (fun c =>
      recs.contains (recKey 1 c) || recs.contains (recKey 2 c) || notchAsked s c)
    let w : CalWindow := { start := s.time, recs := recs, stackIds := stackIds, retrain := [] }
    let s := setCal s { s.cal with windows := cSet (fun _ => none) s.cal.windows k (some w), last := cSet (fun _ => 0) s.cal.last k s.time,
                                   called := cSet (fun _ => false) s.cal.called k false }
    .next (startLanes (setPaused (wrB s (calPg + 0x110) 31 true) stackIds true) recs)

/-- CAL_STACK_RELEASE: 150 µs after the opening the held operations are released, but for the stacks that need a spare lane or a notch change,
which begin to retrain. -/
def execCalStackRelease (part : Option (Fin 8)) (short : List Nat) (now : Nat) (s : State) : Out :=
  let s := tick s now
  match calWindowAt s part with
  | none => .next s
  | some w =>
    if s.time < w.start + 150000 then .next s
    else
      let again := w.stackIds.filter (fun c => short.contains c || notchAsked s c)
      let s := setPaused s (w.stackIds.filter (fun c => !(again.contains c))) false
      let s := again.foldl (fun s c => wrF s (ctlPg c 6 + 0x100) 31 28 1) s
      .next (setCal s { s.cal with windows := cSet (fun _ => none) s.cal.windows (windowKey part) (some { w with retrain := again }) })

/-! ### The close -/

/-- AGE_TRIM (R415): 5 mV for each 1 % of a die's monitor; beyond 40 mV the highest operating point is withdrawn. -/
def ageTrim (s : State) (d excess : Nat) : State :=
  let want := 5 * excess
  let a := dieAgent s d
  if want ≤ rdF s (hrtDPg d + 0x10C) 5 0 then s
  else if want ≤ 40 ∧ opMv a.ageTop + want ≤ 860 then
    clinker (intSet (wrF s (hrtDPg d + 0x10C) 5 0 want) hrtPg 16) { cat := 4, code := 1, page := hrtDPg d }
  else
    let s := setAgent s d { a with ageTop := a.ageTop - 1 }
    clinker (intSet (wrB s (hrtPg + 0x104) 5 true) hrtPg 32) { cat := 4, code := 2, page := hrtDPg d }

/-- The centre of a weight set's band in °C. -/
def setCentre (w : Nat) : Nat := 33 + 16 * (w / 4)

/-- Hearth takes the weight set nearest the present conditions, whose record replaces the old one. -/
def takeSet (s : State) (temp : Nat) : State :=
  let w := nearestSet temp (loadNow s)
  let old := recKey 5 s.hrt.wset
  let s := { s with hrt := { s.hrt with wset := w } }
  let s := setCal s { s.cal with recs := cSet (fun _ => none) s.cal.recs old none, due := s.cal.due.filter (fun x => x != old) }
  takeRec s (recKey 5 w) (setCentre w)

/-- A record of the window is written anew; the lanes' records are, as their recalibration completes. -/
def renew (temps : List Nat) (s : State) (k : Nat) : State :=
  if k / 4096 = 3 then s else if k / 4096 = 5 then takeSet s (recTemp temps k) else takeRec s k (recTemp temps k)

/-- A partition reset that waited for the window begins (R435). -/
def resumeReset (s : State) (k : Nat) : State :=
  if s.prt.running = some (3, k) ∧ partState s k = 2 then beginPartReset s k else s

/-- CAL_WINDOW_CLOSE: 200 µs after the opening, with no stack still retraining: trims, weight set, new records, the guard; ACTIVE, SP_CAL_LAST_US,
SP_CAL_WIN_CNT. -/
def execCalWindowClose (part : Option (Fin 8)) (temps : List Nat) (monitors : List Nat) (now : Nat) (s : State) : Out :=
  let s := tick s now
  match calWindowAt s part with
  | none => .next s
  | some w =>
    if s.time < w.start + 200000 ∨ w.stackIds.any (fun c => cGet (fun _ => false) s.mem.paused c) then .next s
    else
      let dies := (List.range 4).filter (fun d => (windowSlices s part).any (fun sl => sl / 2 == d))
      let s := dies.foldl (fun s d => ageTrim (setAgent s d { dieAgent s d with railMv := 0 }) d (nth 0 monitors d)) s
      let s := w.recs.foldl (renew temps) s
      let s := wrB { s with hrt := { s.hrt with drift := 0 } } (hrtPg + 0x104) 4 false
      let s := evalGuard (dropWindow s (windowKey part))
      let s := intSet (inc (wr s (calPg + 0x124) ((s.time - w.start) / 1000)) (calPg + 0x120)) calPg (if w.retrain = [] then 1 else 5)
      .next (resumeReset s (windowKey part))

/-- SERDES_LANE_RECAL: a lane has been equalised anew and has its traffic back. -/
def execSerdesLaneRecal (port : Fin 16) (lane : Fin 9) (temp : Nat) (now : Nat) (s : State) : Out :=
  let s := tick s now
  let x := 16 * port.val + lane.val
  if s.cal.lanes.contains x then
    .next (takeRec (setCal s { s.cal with lanes := s.cal.lanes.filter (fun y => y != x) }) (recKey 3 (9 * port.val + lane.val)) temp)
  else .next s

end Sys2Proof.Machine
end

