-- ==== Sys2Proof/Machine/Hearth.lean ====
section
/-!
DEFINITION. Hearth's commands (16_hearth_power_thermal.md R396 to R417): the 2 µs estimate and its decisions, the 1 ms correction, hints,
droop, heat, the cap, phases and converters.
-/
namespace Sys2Proof.Machine

/-! ### The cap and the floor (R408, R409) -/

/-- CAP_BELOW_FLOOR is entered or left (R408). -/
def floorCheck (s : State) : State :=
  let below := decide (rdF s (hrtPg + 0x108) 15 0 < rdF s (hrtPg + 0x110) 15 0)
  let was := rdB s (hrtPg + 0x104) 0
  if below && !was then
    clinker (inc (intSet (wrB s (hrtPg + 0x104) 0 true) hrtPg 1) (hrtPg + 0x168)) { cat := 2, code := 6, page := hrtPg }
  else if was && !below then wrB s (hrtPg + 0x104) 0 false
  else s

/-- SP writes HRT_CAP, or refuses a value outside 1,100 to 6,500 W. -/
def setCap (s : State) (w : Nat) : State :=
  if 1100 ≤ w ∧ w ≤ 6500 then wrB (wrF s (hrtPg + 0x108) 15 0 w) (hrtPg + 0x10C) 30 false
  else wrB s (hrtPg + 0x10C) 30 true

/-- CAP_REQUEST: HRT_CAP_REQ with GO: held while SP restarts, refused in SAFE. -/
def execCapRequest (r : RegWrite) (s : State) : Out :=
  let s := tick s r.now
  let v := r.val.toNat
  if r.off.toNat ≠ hrtPg + 0x10C ∨ v.testBit 31 = false then .refused (.otherRow "CAP_REQUEST")
  else
    let s := wrF s (hrtPg + 0x10C) 15 0 v
    let w := bitsOf v 15 0
    if spSafe s then .next (wrB s (hrtPg + 0x10C) 30 true)
    else if spRestarting s then .next { s with prt := { s.prt with heldCap := some w } }
    else .next (setCap s w)

/-! ### Hints (R410, R411) -/

/-- The full-load power of a tile at OP8, 12.9 W, scaled to the die's present point. -/
def tileFull (s : State) (d : Nat) : Frac :=
  frMul (fr (129 * opClock (dieOp s d)) 16000) (sq (fr (coreMv s d) 740))

/-- The power in mW that the last sample gives a tile. -/
def tileNow (s : State) (t : Nat) : Nat :=
  match s.hrt.sample.tileMw.find? (fun c => c.1 == t) with
  | some c => c.2
  | none => 0

/-- What a hint's phase adds, in W. -/
def hintPower (s : State) (d t : Nat) (h : Hint) : Frac :=
  frSub (frMul (fr (h.level + 1) 16) (tileFull s d)) (fr (tileNow s (72 * d + t)) 1000)

/-- The hints of a die for which no boost was decided and whose phases start within the next 10 µs. -/
def nearHints (s : State) (d : Nat) : List (Nat × Hint) :=
  (dieAgent s d).hints.filterMap (fun c => match c.2 with
    | some h => if !h.decided ∧ s.time ≤ h.start ∧ h.start ≤ s.time + 10000 then some (c.1, h) else none
    | none => none)

/-- A boost of b mV fits: under 0.86 V, and its predicted power within the allocation of R405. -/
def boostFits (s : State) (d b : Nat) (add : Frac) : Bool :=
  let x := s.hrt.sample
  let a := dieAgent s d
  let base := opMv (dieOp s d) + rdF s (hrtDPg d + 0x10C) 5 0 + a.railMv + (if guardWide s then 10 else 0)
  let v := coreMv s d
  let more := frMul (frMul (corrK s) (railDyn s x d)) (frSub (sq (fr (v + b) v)) (frNat 1))
  decide (base + b ≤ 860) &&
    frLe (frAdd (railsPower s x domComp) (frAdd add more)) (frNat (rdF s (hrtPg + 0x138) 31 16))

/-- The boost that a group of hints starts, complete at the earliest of their starts, until the latest end, for at most 2 ms. -/
def joinBoost (old : Option Boost) (b first stop : Nat) : Boost :=
  match old with
  | some o => { mv := max o.mv b, start := min o.start first, stop := min (max o.stop stop) (min o.start first + 2000000) }
  | none => { mv := b, start := first, stop := min stop (first + 2000000) }

/-- HINT_BOOST: the near hints of a die, once their powers reach HRT_HINT_THR, raise the core voltage or are counted as denied. -/
def hintCheck (s : State) (d : Nat) : State :=
  let l := nearHints s d
  let add := frSum (l.map (fun c => hintPower s d c.1 c.2))
  match l with
  | [] => s
  | c :: cs =>
    if frLt add (frNat (rdF s (hrtPg + 0x140) 15 0)) then s
    else
      let b := min 40 (rdF s (hrtPg + 0x144) 5 0)
      let a := dieAgent s d
      let hints := a.hints.map (fun y => (y.1, y.2.map (fun h => if (c :: cs).any (fun z => z.1 == y.1) then { h with decided := true } else h)))
      let first := cs.foldl (fun m z => min m z.2.start) c.2.start
      let stop := cs.foldl (fun m z => max m z.2.stop) c.2.stop
      if boostFits s d b add then setAgent s d { a with hints := hints, boost := some (joinBoost a.boost b first stop) }
      else inc (setAgent s d { a with hints := hints }) (hrtDPg d + 0x134)

/-- The estimate of a die at the end of a period: hints whose phase has begun are met by a rise of it, or missed after 5 µs. -/
def hintRises (s : State) (d : Nat) (est : Frac) : State :=
  let a := dieAgent s d
  let late := fun (h : Hint) => decide (h.start + 5000 ≤ s.time) && frLe est h.base
  let missed := (a.hints.filter (fun c => match c.2 with
    | some h => late h
    | none => false)).length
  let keep := a.hints.filterMap (fun c => match c.2 with
    | some h =>
      if s.time ≤ h.start then some (c.1, some { h with base := est })
      else if late h ∨ frLt h.base est then none else some (c.1, some h)
    | none => none)
  incBy (setAgent s d { a with hints := keep, est := est }) (hrtDPg d + 0x130) missed

/-- HRT_HINT: the tile's pending hint is replaced; one that comes too late for the slew starts the boost at once (R197, R410, R411). -/
def execHrtHint (i : Issue) (s : State) : Out :=
  issueOp "HRT_HINT" 7 0x30 (fun w => zero w 47 30) (fun _ => []) i s fun c s =>
    let d := c.t / 72
    let a := dieAgent s d
    let start := s.time + 1000 * bitsOf c.w 9 0
    let h : Hint := { start := start, stop := start + 1000 * bitsOf c.w 29 14, level := bitsOf c.w 13 10, base := a.est, decided := false }
    let s := setAgent s d { a with hints := cSet (fun _ => none) a.hints (c.t % 72) (some h) }
    let s := inc s (hrtDPg d + 0x128)
    if start < s.time + 100 * min 40 (rdF s (hrtPg + 0x144) 5 0) then
      .done (hintCheck (inc s (hrtDPg d + 0x12C)) d)
    else .done s

/-- HINT_BOOST_END: the boost's latest phase has ended, or 2 ms have passed. -/
def execHintBoostEnd (die : Fin 4) (now : Nat) (s : State) : Out :=
  let s := tick s now
  match (dieAgent s die).boost with
  | some b => if b.stop ≤ s.time then .next (setAgent s die { dieAgent s die with boost := none }) else .next s
  | none => .next s

/-! ### Phases and converters (R396) -/

/-- A phase of a group fails: a spare takes its place, or the group has one phase less. -/
def failPhase (s : State) (r : Nat) : State :=
  let o := hrtPg + 0x180 + 4 * r
  let spare := rdF s o 23 16
  if spare = 0 then intSet (wrF s o 31 24 (rdF s o 31 24 - 1)) hrtPg 8
  else
    clinker (intSet (inc (wrF s o 23 16 (spare - 1)) (hrtPg + 0x170)) hrtPg 8) { cat := 2, code := 3, page := hrtPg, sub := r }

/-- PHASE_FAIL. -/
def execPhaseFail (rail : Fin 11) (now : Nat) (s : State) : Out := .next (failPhase (tick s now) rail)

/-- CONVERTER_FAIL: CONV falls, and the electrical input limit with it. -/
def execConverterFail (now : Nat) (s : State) : Out :=
  let s := tick s now
  .next (clinker (wrF s (hrtPg + 0x104) 11 8 (rdF s (hrtPg + 0x104) 11 8 - 1)) { cat := 2, code := 4, page := hrtPg })

/-- Fault injection, site 6: a phase of a group that the spec does not name (18_safety_security_clinker.md R458). -/
def injectPhase (s : State) : State :=
  match injectEvent s hrtPg [6] with
  | (some _, s) => let v := drawFree s; injected v.2 (fun s => failPhase s (v.1 % 11))
  | (none, s) => s

/-! ### The 2 µs decision (R401, R404 to R406, R417) -/

/-- The powers, the budget and the allocation of a period. -/
structure Plan where
  est    : List Frac
  demand : List Frac
  alloc  : List Frac
  total  : Frac
  elec   : Bool
deriving DecidableEq, Repr

/-- The order of the domains by HRT_PRIO. -/
def prioOrder (s : State) : List Nat := [rdF s (hrtPg + 0x114) 5 4, rdF s (hrtPg + 0x114) 3 2, rdF s (hrtPg + 0x114) 1 0]

/-- R405: each domain's floor, then what its demand asks for, in priority order. -/
def allocate (floor demand : List Frac) : List Nat → Frac → List Frac → List Frac
  | [], _, acc => acc
  | d :: ds, left, acc =>
    let more := frMin left (frMax ⟨0, 0⟩ (frSub (nth ⟨0, 0⟩ demand d) (nth ⟨0, 0⟩ floor d)))
    allocate floor demand ds (frSub left more) (setNth acc d (frAdd (nth ⟨0, 0⟩ acc d) more))

/-- CAP_ALLOCATION. -/
def makePlan (s : State) (x : PowerSample) : Plan :=
  let cap := if rdB s (hrtPg + 0x104) 0 then floors s else budget s x (effectiveCap s)
  let lim := budget s x (inputLimit s x.vinMv)
  let total := frMin cap lim
  let est := [railsPower s x domLink, railsPower s x domMem, railsPower s x domComp]
  let demand := [frMul (nth ⟨0, 0⟩ est 0) (fr 16 s.hrt.linkDuty), frMul (nth ⟨0, 0⟩ est 1) (fr 16 s.hrt.memScale), compPredict s x 25]
  let floor := (List.range 3).map (floorOf s)
  { est := est, demand := demand, alloc := allocate floor demand (prioOrder s) (frSub total (floors s)) floor, total := total,
    elec := frLt lim cap }

/-- The setting of LINK, MEM or COMPUTE now, and its highest. -/
def settingNow (s : State) (dom : Nat) : Nat := if dom = 0 then s.hrt.linkDuty else if dom = 1 then s.hrt.memScale else presentSetting s
def settingTop (dom : Nat) : Nat := if dom = 2 then 25 else 16
def settingMin (dom : Nat) : Nat := if dom = 2 then 0 else 1

/-- A domain's predicted power at a setting, and whether its rails allow it. -/
def predictAt (s : State) (x : PowerSample) (p : Plan) (dom n : Nat) : Frac :=
  if dom = 2 then compPredict s x n else dutyPredict (nth ⟨0, 0⟩ p.est dom) n (settingNow s dom)
def railsAt (s : State) (x : PowerSample) (dom n : Nat) : Bool :=
  if dom = 2 then coreRailsOk s x n else dutyRailsOk s x (if dom = 0 then domLink else domMem) n (settingNow s dom)

/-- R406, lowering: the highest setting, not above the present one, whose prediction fits the allocation and the rails. -/
def lowered (s : State) (x : PowerSample) (p : Plan) (dom : Nat) : Nat :=
  let ok := fun n => frLe (predictAt s x p dom n) (nth ⟨0, 0⟩ p.alloc dom) && railsAt s x dom n
  if ok (settingNow s dom) then settingNow s dom else highest ok (settingMin dom) (settingNow s dom - 1)

/-- LINK or MEM power with its part above the floor scaled by a clock ratio. -/
def withClock (s : State) (p : Plan) (dom : Nat) (ratio : Frac) : Frac :=
  let f := floorOf s dom
  let e := nth ⟨0, 0⟩ p.est dom
  if frLe e f then e else frAdd f (frMul (frSub e f) ratio)

/-- R406, raising: the sum of the powers predicted with a domain one setting higher fits the budget. -/
def raiseFits (s : State) (x : PowerSample) (p : Plan) (dom : Nat) : Bool :=
  let n := settingNow s dom
  if n ≥ settingTop dom then false
  else
    let sum :=
      if dom = 2 then
        let ratio := fr (opClock (settingOf (n + 1)).1) (opClock (settingOf n).1)
        frAdd (compPredict s x (n + 1)) (frAdd (withClock s p 0 ratio) (withClock s p 1 ratio))
      else frAdd (predictAt s x p dom (n + 1)) (frSum ((List.range 3).map (fun d => if d = dom then ⟨0, 0⟩ else nth ⟨0, 0⟩ p.est d)))
    frLe sum p.total && railsAt s x dom (n + 1)

/-- Set a domain: LINK's duty, MEM_SCALE, or the power ceiling of every die and the power duty. -/
def setSetting (s : State) (dom n : Nat) : State :=
  if dom = 0 then { s with hrt := { s.hrt with linkDuty := n } }
  else if dom = 1 then { s with hrt := { s.hrt with memScale := n } }
  else
    let s := { s with hrt := { s.hrt with duty := (settingOf n).2 } }
    (List.range 4).foldl (fun s d => wrF s (hrtDPg d + 0x104) 27 24 (settingOf n).1) s

/-- A die's operating point has been moving in the period that ends. -/
def movedIn (s : State) : Bool :=
  (List.range 4).any (fun d => let a := dieAgent s d; a.target.isSome || decide (a.moved ≠ 0 ∧ s.time < a.moved + 2000))

/-- R406: lowerings at once; else one raise, in priority order, that has fitted on 16 consecutive estimates. -/
def actuate (s : State) (x : PowerSample) (p : Plan) : State :=
  let down := (List.range 3).map (lowered s x p)
  let cut := (List.range 3).any (fun d => decide (nth 0 down d < settingNow s d))
  let setFits := fun (s : State) l => { s with hrt := { s.hrt with fits := l } }
  if cut then setFits ((List.range 3).foldl (fun s d => if nth 0 down d < settingNow s d then setSetting s d (nth 0 down d) else s) s) [0, 0, 0]
  else if movedIn s then s
  else
    let fits := (List.range 3).map (fun d => if raiseFits s x p d then nth 0 s.hrt.fits d + 1 else 0)
    match (prioOrder s).find? (fun d => decide (nth 0 fits d ≥ 16)) with
    | some d => setFits (setSetting s d (settingNow s d + 1)) [0, 0, 0]
    | none => setFits s fits

/-- HRT_STAT.LIMIT: what binds now: an electrical limit or the cap where a domain is below full setting, else heat. -/
def limitCode (s : State) (p : Plan) : Nat :=
  if (List.range 3).any (fun d => decide (settingNow s d < settingTop d)) then (if p.elec then 3 else 1)
  else if (List.range 4).any (fun d => (dieAgent s d).tripped || decide (thermCeil s d < min (rdF s (hrtPg + 0x118) 3 0) (dieAgent s d).ageTop) ||
      decide (dieOp s d > 0 ∧ min (halfDuty s d 0) (halfDuty s d 1) < 16)) then 2
  else 0

/-- The registers of a period: HRT_EST, the allocations and demands, the rails' currents, LIMIT. -/
def showPeriod (s : State) (est : Frac) (p : Plan) (amps : List Frac) : State :=
  let s := wrF s (hrtPg + 0x120) 15 0 (min (frFloor est) 0xFFFF)
  let s := (List.range 3).foldl (fun s d =>
    wr s (hrtPg + 0x130 + 4 * d)
      (min (frFloor (nth ⟨0, 0⟩ p.alloc d)) 0xFFFF * 2 ^ 16 + min (frFloor (nth ⟨0, 0⟩ p.demand d)) 0xFFFF)) s
  let s := (List.range 11).foldl (fun s r => wrF s (hrtPg + 0x180 + 4 * r) 15 0 (min (frFloor (nth ⟨0, 0⟩ amps r)) 0xFFFF)) s
  wrF s (hrtPg + 0x104) 2 1 (limitCode s p)

/-- POWER_ESTIMATE: the estimate of the period just ended; then, from the same sampled state, cap and guard, ceilings and duties, allocation and
actuators, hint boosts. -/
def execPowerEstimate (sample : PowerSample) (now : Nat) (s : State) : Out :=
  let s := injectPhase (tick s now)
  let x := sample
  let raw := rawEstimate s x
  let est := frMul (corrK s) raw
  let s := floorCheck (evalGuard s)
  let p := makePlan s x
  let amps := (List.range 11).map (railCurrent s x)
  let dies := (List.range 4).map (fun d => railsPower s x [d])
  let s := actuate s x p
  let s := (List.range 4).foldl (fun s d => showDuty (applyOp s d) d) s
  let s := showPeriod s est p amps
  let s := { s with hrt := { s.hrt with sample := x, period := [], rawPrev := raw, rawSum := frAdd s.hrt.rawSum raw,
                                        rawCnt := s.hrt.rawCnt + 1 } }
  .next ((List.range 4).foldl (fun s d => hintCheck (hintRises s d (nth ⟨0, 0⟩ dies d)) d) s)

/-- OP_TRANSITION_DONE: the voltage has slewed; the clock of a raise follows; a raise that waited begins (R399). -/
def execOpTransitionDone (die : Fin 4) (now : Nat) (s : State) : Out :=
  let s := tick s now
  let d := die.val
  let a := dieAgent s d
  match a.target with
  | none => .next s
  | some t =>
    let s := wrF (setAgent s d { a with target := none, moved := s.time }) (hrtDPg d + 0x104) 31 28 t
    .next (showDuty (applyOp s d) d)

/-! ### The 1 ms correction (R402, R408, R416) -/

/-- k moves by a quarter of its difference from the ratio, within 0.75 to 1.50; the register holds it in 1/16,384. -/
def nextK (k ratio : Frac) : Nat :=
  let n := frAdd k (frDiv (frSub ratio k) (frNat 4))
  frFloor (frMul (frNat 16384) (frMin (fr 3 2) (frMax (fr 3 4) n)))

/-- |ratio - 1| is above 0.10. -/
def isDrift (ratio : Frac) : Bool := frLt ratio (fr 9 10) || frLt (fr 11 10) ratio

/-- A window's ratio off by more than 10 % counts; the eighth in a row is EST_DRIFT. -/
def noteDrift (s : State) (ratio : Frac) : State :=
  let n := if isDrift ratio then s.hrt.drift + 1 else 0
  let put := fun (s : State) n => { s with hrt := { s.hrt with drift := n } }
  if n ≥ 8 then
    let s := intSet (wrB (put s 0) (hrtPg + 0x104) 4 true) hrtPg 4
    evalGuard (clinker (inc s (hrtPg + 0x16C)) { cat := 2, code := 7, page := hrtPg })
  else put s n

/-- The correction of k by a measurement, where the ms has estimates. -/
def correct (s : State) (measW : Nat) : State :=
  if s.hrt.rawCnt = 0 ∨ frLe s.hrt.rawSum ⟨0, 0⟩ then s
  else
    let ratio := frDiv (frNat (measW * s.hrt.rawCnt)) s.hrt.rawSum
    noteDrift (wrF s (hrtPg + 0x128) 15 0 (nextK (corrK s) ratio)) ratio

/-- PACE of a die in 1/1,024 of 1.6 GHz at full duty (DEDUCED, log entry 70). -/
def diePace (s : State) (d : Nat) : Frac :=
  let cycles := 72 * opClock (dieOp s d) * 1000
  let duty := fr (halfDuty s d 0 + halfDuty s d 1) 32
  let free := fr ((cycles - (dieAgent s d).stretch : Nat) : Int) cycles
  frMul (fr (1024 * opClock (dieOp s d)) 1600) (frMul duty free)

/-- FLOOR_UPDATE: HRT_FLOOR and HRT_PACE. -/
def floorUpdate (s : State) (measW : Nat) : State :=
  let pf := frTens (frDiv (frAdd (frNat s.hrt.sample.fixedW) (floors s)) (eta s))
  let s := wrF s (hrtPg + 0x110) 15 0 (min pf 0xFFFF)
  let pace := (List.range 4).foldl (fun m d => min m (frFloor (diePace s d))) 2047
  let margin := rdF s (hrtPg + 0x108) 15 0 - measW
  floorCheck (wr s (hrtPg + 0x13C) (margin * 2 ^ 16 + pace))

/-- ESTIMATOR_CORRECTION: the input power of the ms is measured; k, P_FLOOR and PACE follow. -/
def execEstimatorCorrection (measW : Nat) (now : Nat) (s : State) : Out :=
  let s := wrF (tick s now) (hrtPg + 0x124) 15 0 (min measW 0xFFFF)
  let s := floorUpdate (correct s measW) measW
  let s := if rdF s (hrtPg + 0x104) 2 1 = 1 then inc s (hrtPg + 0x160) else s
  let dies := (s.hrt.dies.map (fun c => (c.1, { c.2 with stretch := 0 }))).filter (fun c => c.2 != ({} : DieAgent))
  .next { s with hrt := { s.hrt with rawSum := ⟨0, 0⟩, rawCnt := 0, dies := dies } }

/-! ### Heat and droop (R412 to R414) -/

/-- The thermal ceiling after a reading. -/
def nextCeil (ceil tj rel throt trip : Nat) : Nat :=
  if tj ≥ trip then 0 else if tj ≥ throt then ceil - 1 else if tj < rel then min 10 (ceil + 1) else ceil

/-- The readings of a die's tiles; the ms of episodes ends: runs of ms with more than 1,000 in a slice of fewer than 8 stretching tiles. -/
def tileReadings (s : State) (d : Nat) (temps : List Nat) : State :=
  let ep := fun t => cGet (fun _ => 0) s.hrt.episodes t
  let busy := fun sl => ((sliceTiles sl).filter (fun t => ep t != 0)).length
  let runs := (rangeFrom (72 * d) 72).foldl (fun m t =>
    let n := cGet (fun _ => 0) s.hrt.runs t
    cSet (fun _ => 0) m t (if ep t > 1000 ∧ busy (sliceOf t) < 8 then n + 1 else 0)) s.hrt.runs
  let s' := (List.range 72).foldl (fun s i =>
    wr s (hrtDPg d + 0x180 + 4 * i) (min (ep (72 * d + i)) 0xFFFF * 2 ^ 16 + nth 0 temps i % 256)) s
  { s' with hrt := { s'.hrt with runs := runs, episodes := cDrop s'.hrt.episodes (fun t => t / 72 == d) } }

/-- A ms in thermal throttle is counted once for all dies. -/
def countTherm (s : State) : State :=
  let m := s.time / 1000000 + 1
  if s.hrt.thermMs = m then s else inc { s with hrt := { s.hrt with thermMs := m } } (hrtPg + 0x164)

/-- The coolant's readings (R414). -/
def coolant (s : State) (inlet outlet : Nat) : State :=
  let hot := decide (inlet > 40)
  let was := rdB s (hrtPg + 0x104) 6
  let s := wrB (wr s (hrtPg + 0x14C) (outlet % 256 * 2 ^ 8 + inlet % 256)) (hrtPg + 0x104) 6 hot
  if hot && !was then intSet s hrtPg 128 else s

/-- THERMAL_TRIP and the rows of R414 for the hottest junction of a die. -/
def heatStep (s : State) (d tj : Nat) : State :=
  let lim := rd s (hrtPg + 0x148)
  let rel := bitsOf lim 7 0
  let throt := bitsOf lim 15 8
  let trip := bitsOf lim 23 16
  let a := dieAgent s d
  let s := wrF s (hrtDPg d + 0x104) 23 20 (if a.tripped ∧ tj > throt then 0 else nextCeil (thermCeil s d) tj rel throt trip)
  let s := if tj ≥ throt then countTherm (intSet s (hrtDPg d) 1) else s
  if tj ≥ trip then
    let s := setAgent s d { a with tripped := true }
    let s := if a.tripped then s
      else clinker (intSet (intSet s (hrtDPg d) 2) hrtPg 2) { cat := 3, code := 1, page := hrtDPg d }
    showDuty (applyOp s d) d
  else if a.tripped ∧ tj ≤ throt then showDuty (setAgent s d { a with tripped := false }) d
  else s

/-- THERMAL_LOOP: each ms a die agent reads its tiles' diodes. 115 °C trips the analog protection. -/
def execThermalLoop (die : Fin 4) (temps : List Nat) (inlet outlet : Nat) (now : Nat) (s : State) : Out :=
  let s := tick s now
  let d := die.val
  let read := (temps.take 72).foldl max 0
  let s := coolant (tileReadings s d temps) inlet outlet
  match injectEvent s (hrtDPg d) [7] with
  | (some _, s) =>
    let tj := max read (rdF s (hrtPg + 0x148) 23 16)
    .next (injected (wrF s (hrtDPg d + 0x104) 7 0 tj) (fun s => heatStep s d tj))
  | (none, s) =>
    let s := heatStep (wrF s (hrtDPg d + 0x104) 7 0 read) d read
    .next (if read ≥ 115 ∧ canTrip s then analogTrip s d false else s)

/-- DROOP_DETECT: an episode of a tile begins; the eighth tile of a slice in one period is a rail droop. -/
def execDroopDetect (tile : Fin 288) (now : Nat) (s : State) : Out :=
  let s := tick s now
  let t := tile.val
  let d := t / 72
  if s.hrt.slow.contains t then .next s
  else
    let s := inc s (hrtDPg d + 0x120)
    let n := cGet (fun _ => 0) s.hrt.episodes t
    let new := !(s.hrt.period.contains t)
    let period := if new then s.hrt.period ++ [t] else s.hrt.period
    let s := { s with hrt := { s.hrt with slow := s.hrt.slow ++ [t], period := period, episodes := cSet (fun _ => 0) s.hrt.episodes t (n + 1) } }
    let eighth := new && (period.filter (fun x => sliceOf x == sliceOf t)).length == 8
    let a := dieAgent s d
    .next (if eighth && decide (setPoint s d (dieOp s d) + 5 ≤ 860) then setAgent s d { a with railMv := a.railMv + 5 } else s)

/-- DROOP_RECOVER: the tile's clock is normal again after a number of stretched cycles. -/
def execDroopRecover (tile : Fin 288) (cycles : Nat) (now : Nat) (s : State) : Out :=
  let s := tick s now
  let t := tile.val
  let d := t / 72
  if s.hrt.slow.contains t then
    let s := incBy { s with hrt := { s.hrt with slow := s.hrt.slow.filter (fun x => x != t) } } (hrtDPg d + 0x124) cycles
    .next (setAgent s d { dieAgent s d with stretch := (dieAgent s d).stretch + cycles })
  else .next s

/-- DROOP_LOCAL: 16 consecutive ms with more than 1,000 episodes: SP treats the tile under R172. -/
def execDroopLocal (tile : Fin 288) (now : Nat) (s : State) : Out :=
  let s := tick s now
  let t := tile.val
  if cGet (fun _ => 0) s.hrt.runs t < 16 then .next s
  else
    let s := { s with hrt := { s.hrt with runs := cSet (fun _ => 0) s.hrt.runs t 0 } }
    let s := intSet s (hrtDPg (t / 72)) 4
    .next (if tileFailed s t then s else failTile s t)

end Sys2Proof.Machine
end

