-- ==== Sys2Proof/Machine/Security.lean ====
section
/-!
DEFINITION. SP's restarts, firmware updates, attestation and fault injection (18_safety_security_clinker.md R439, R440, R444 to R454, R458,
R465, R466).
-/
namespace Sys2Proof.Machine

/-! ### Restarts (R439, R440) -/

/-- LOCKSTEP_MISMATCH: SP restarts from its ROM; a third mismatch within one hour is SAFE; during a trial it is a failed attempt. -/
def execLockstepMismatch (now : Nat) (s : State) : Out :=
  let s := tick s now
  let recent := (s.sp.mismatch.filter (fun t => decide (s.time < t + 3600000000000))) ++ [s.time]
  let s := inc (intSet { s with sp := { s.sp with mismatch := recent } } sp0Pg 1) (sp0Pg + 0x128)
  let s := clinker (beginSpRestart s) { cat := 1, code := 6, page := sp0Pg }
  let s := if recent.length ≥ 3 ∧ spSafe s = false then
      clinker (wrB s (sp0Pg + 0x100) 10 true) { cat := 1, code := 7, page := sp0Pg }
    else s
  .next (trialAttempt s [2])

/-- What SP held runs: the cap, a module reset, the partition request; in SAFE they are refused. -/
def runAllHeld (s : State) : State :=
  let cap := s.prt.heldCap
  let reset := s.sp.heldReset
  let s := { s with prt := { s.prt with heldCap := none }, sp := { s.sp with heldReset := false } }
  if spSafe s then
    let s := if cap.isSome then wrB s (hrtPg + 0x10C) 30 true else s
    match s.prt.held with
    | some _ => let v := drawFree { s with prt := { s.prt with held := none } }; endRequestWith v.2 (1 + v.1 % 255)
    | none => s
  else
    let s := match cap with
      | some w => setCap s w
      | none => s
    runHeld (if reset then requestReset s else s)

/-- SP_RESTART_DONE: SP runs again. -/
def execSpRestartDone (now : Nat) (s : State) : Out :=
  let s := tick s now
  if spRestarting s = false then .next s
  else .next (runAllHeld (spStart (wrB s (sp0Pg + 0x100) 9 false)))

/-! ### Bundles (R444, R445) -/

/-- A component entry of a manifest. -/
structure BundleComp where
  comp   : Nat
  svn    : Nat
  len    : Nat
  off    : Nat
  digest : List Byte
  rsv    : Bool
deriving DecidableEq, Repr

def bndCount (b : List Byte) : Nat := leNat (slice b 0x0C 2)

/-- Entry i; rsv says whether its reserved fields are 0. -/
def bndComp (b : List Byte) (i : Nat) : BundleComp :=
  let e := slice b (0x20 + 0x40 * i) 0x40
  { comp := leNat (slice e 0 2), svn := leNat (slice e 4 4), len := leNat (slice e 12 4), off := leNat (slice e 16 4),
    digest := slice e 32 32, rsv := decide (leNat (slice e 2 2) = 0 ∧ leNat (slice e 20 12) = 0) }

def bndComps (b : List Byte) : List BundleComp := (List.range (bndCount b)).map (bndComp b)

def bndSigOff (b : List Byte) : Nat := 0x20 + 0x40 * bndCount b

/-- MAGIC, TYPE, the reserved fields, the sizes and places, and no COMP twice. -/
def bndFormatOk (b : List Byte) : Bool :=
  decide (leNat (slice b 0 4) = 0x57464C49 ∧ leNat (slice b 4 2) = 0x10 ∧ leNat (slice b 6 1) < 4 ∧ leNat (slice b 7 1) < 16 ∧
    1 ≤ bndCount b ∧ bndCount b ≤ 3 ∧ leNat (slice b 0x0E 2) = 0 ∧ leNat (slice b 0x18 8) = 0 ∧
    leNat (slice b 0x10 8) = b.length ∧ b.length ≤ 67108864 ∧ bndSigOff b + 128 ≤ b.length) &&
  (bndComps b).all (fun c => c.rsv && decide (1 ≤ c.comp ∧ c.comp ≤ 3 ∧ c.off % 4096 = 0 ∧ c.off + c.len ≤ b.length)) &&
  decide ((bndComps b).map (·.comp)).Nodup

/-- The status of the first check of R445 that fails. -/
def bndCheck (s : State) (b : List Byte) : Option Nat :=
  let key := leNat (slice b 6 1)
  if bndFormatOk b = false then some 1
  else if s.sp.revoked.toNat.testBit key ∨ (leNat (slice b 7 1)).testBit key then some 5
  else if Config.ed448Verify (Config.vendorKey key) (ascii "GRIRNO-FW") (b.take (bndSigOff b)) (slice b (bndSigOff b) 114) = false then some 2
  else if (bndComps b).any (fun c => digest (slice b c.off c.len) != c.digest) then some 3
  else if (bndComps b).any (fun c => decide (c.svn < arc s (c.comp - 1))) then some 4
  else none

/-! ### The update (R449 to R451) -/

/-- The slot that a bundle makes of slot A: components that it does not carry stay. -/
def bndSlot (old : FwSlot) (b : List Byte) : FwSlot :=
  { comps := (List.range 3).map (fun n => match (bndComps b).find? (fun c => c.comp == n + 1) with
      | some c => ⟨c.svn, c.digest⟩
      | none => compAt old.comps n),
    revoke := leNat (slice b 7 1), bytes := b }

/-- An update is refused or fails its checks. -/
def refuseUpdate (s : State) (code : Nat) : State := intSet (setFwStatus s code) sp0Pg 4

/-- Orders 2 to 5: slot B takes slot A, slot A the bundle; TRIAL; Hearth's handover; SP's restart if its component changed. -/
def activate (s : State) (b : List Byte) : State :=
  let new := bndSlot s.sp.slotA b
  let changed := (List.range 3).filter (fun n =>
    (bndComps b).any (fun c => c.comp == n + 1) && (compAt new.comps n).digest != compDigest s n)
  let t : Trial := { changed := changed, start := s.time, opened := s.cln.next }
  let s := clinker s { cat := 11, code := 2, page := sp0Pg, opens := true }
  let s := { s with sp := { s.sp with slotB := s.sp.slotA, slotA := new, trial := some t },
                    hrt := { s.hrt with newCode := changed.contains 1 } }
  let s := useComps s [compAt new.comps 0, compAt new.comps 1, compAt s.sp.inUse 2]
  let s := intSet (wrB (wrF (setFwStatus s 0) (sp0Pg + 0x100) 7 0 0) (sp0Pg + 0x100) 8 true) sp0Pg 18
  if changed.contains 0 then beginSpRestart s else s

/-- A bundle arrives: BUSY while an update or a trial runs; a failed check leaves both slots unchanged. -/
def takeBundle (s : State) (b : List Byte) : State :=
  if s.sp.trial.isSome ∨ spRestarting s then refuseUpdate s 6
  else
    match bndCheck s b with
    | some c => clinker (refuseUpdate s c) { cat := 11, code := 1, page := sp0Pg }
    | none => activate s b

/-- SP_UPD_CTL with a bit. -/
def isUpdCtl (r : RegWrite) (bit : Nat) : Bool := decide (r.off.toNat = sp0Pg + 0x104) && r.val.toNat.testBit bit

/-- UPDATE_GO: the bundle is read from host memory. In SAFE the request is refused with a status that is open. -/
def execUpdateGo (r : RegWrite) (s : State) : Out :=
  let s := tick s r.now
  if isUpdCtl r 31 = false then .refused (.otherRow "UPDATE_GO")
  else if spSafe s then let v := drawFree s; .next (refuseUpdate v.2 (1 + v.1 % 7))
  else
    let n := rd s (sp0Pg + 0x110)
    .next (takeBundle s (if n ≤ 67108864 then hostBytes s (rd64 s (sp0Pg + 0x108)) n else []))

/-- PLDM_FW_UPDATE: the bundle arrives by PLDM firmware update. -/
def execPldmFwUpdate (bundle : List Byte) (now : Nat) (s : State) : Out :=
  .next (mgtRequest (tick s now) (fun s =>
    let s := takeBundle s bundle
    if rdF s (sp0Pg + 0x100) 31 24 = 0 then mgtReply s 0 [] else mgtError s))

/-- HEARTH_WATCHDOG: the new code has not completed a period's decisions: the old code is back, and the update reverted. -/
def execHearthWatchdog (now : Nat) (s : State) : Out :=
  let s := tick s now
  .next (if s.hrt.newCode then revertNow s else s)

/-- TRIAL_EXPIRE: SP_TRIAL_S has passed without COMMIT. -/
def execTrialExpire (now : Nat) (s : State) : Out :=
  let s := tick s now
  match s.sp.trial with
  | some t => if t.start + rdF s (sp0Pg + 0x114) 16 0 * 1000000000 ≤ s.time then .next (revertNow s) else .next s
  | none => .next s

/-- Order 6: TRIAL clear, the counters raised, REVOKE applied, slot A copied to slot B, the closing entry. -/
def commitTrial (s : State) (t : Trial) : State :=
  let a := s.sp.slotA
  let s := (List.range 3).foldl (fun s n => raiseArc s n (compAt a.comps n).svn) s
  let s := { s with sp := { s.sp with trial := none, slotB := a, revoked := s.sp.revoked ||| BitVec.ofNat 4 a.revoke },
                    hrt := { s.hrt with newCode := false } }
  clinker (wrB s (sp0Pg + 0x100) 8 false) { cat := 11, code := 3, page := sp0Pg, closes := some t.opened }

/-- UPDATE_COMMIT: no effect without a trial, while SP restarts, or in SAFE. -/
def execUpdateCommit (r : RegWrite) (s : State) : Out :=
  let s := tick s r.now
  if isUpdCtl r 30 = false then .refused (.otherRow "UPDATE_COMMIT")
  else
    match s.sp.trial with
    | some t => if spRestarting s ∨ spSafe s then .next s else .next (commitTrial s t)
    | none => .next s

/-- UPDATE_ABORT. -/
def execUpdateAbort (r : RegWrite) (s : State) : Out :=
  let s := tick s r.now
  if isUpdCtl r 29 = false then .refused (.otherRow "UPDATE_ABORT")
  else if spRestarting s ∨ spSafe s then .next s
  else .next (revertNow s)

/-! ### Attestation (R452 to R454, R466) -/

/-- SP serves the ATT_ page: it neither restarts nor is in SAFE. -/
def spServes (s : State) : Bool := !(spRestarting s) && !(spSafe s)

/-- The 32 bytes of eight registers. -/
def wordsAt (s : State) (o : Nat) : List Byte := ((List.range 8).map (fun n => leBytes 4 (rd s (o + 4 * n)))).flatten

/-- Write bytes to host memory at ATT_DST; ATT_STAT counts them. -/
def attWrite (s : State) (b : List Byte) : State :=
  let a := rd64 s (attPg + 0x108)
  let s := { s with mem := { s.mem with host := cSetList (fun _ => 0) s.mem.host a b } }
  wrF s (attPg + 0x104) 15 0 b.length

/-- ATT_CTL with a bit; EXT_IDX is a plain field that the write sets. -/
def attCtl (mn : String) (bit : Nat) (r : RegWrite) (s : State) (f : State → State) : Out :=
  let s := tick s r.now
  if r.off.toNat ≠ attPg + 0x100 ∨ r.val.toNat.testBit bit = false then .refused (.otherRow mn)
  else
    let s := wrF s (attPg + 0x100) 3 0 (bitsOf r.val.toNat 3 0)
    .next (if spServes s then f s else s)

/-- ATT_GO: evidence for ATT_NONCE. -/
def execAttGo (r : RegWrite) (s : State) : Out :=
  attCtl "ATT_GO" 31 r s (fun s => intSet (attWrite s (evidence s (wordsAt s (attPg + 0x110)))) attPg 1)

/-- ATT_EXTEND: measurement EXT_IDX, 8 to 15, is extended by ATT_EXT. -/
def execAttExtend (r : RegWrite) (s : State) : Out :=
  attCtl "ATT_EXTEND" 30 r s (fun s =>
    let i := rdF s (attPg + 0x100) 3 0
    if i < 8 then s
    else
      let m := digest (measure s i ++ wordsAt s (attPg + 0x130))
      intSet { s with sp := { s.sp with meas := cSet (fun _ => zeroDigest) s.sp.meas i m } } attPg 2)

/-- ATT_CERTS: the certificates. -/
def execAttCerts (r : RegWrite) (s : State) : Out := attCtl "ATT_CERTS" 29 r s (fun s => attWrite s (certs s))

/-! ### Fault injection (R458) -/

/-- The sites that a page type has (DESIGN CHOICE, log entry 68). -/
def sitesOf : PageKind → List Nat
  | .spad => [1, 2]
  | .hbm => [1, 2, 7]
  | .anv => [3]
  | .tngT => [4]
  | .lnk => [5]
  | .hrt => [6]
  | .hrtD => [7]
  | _ => []

/-- FAULT_INJ_ARM: SP writes BLK_FAULT_INJ of the page that SP_FINJ names, or denies it. -/
def execFaultInjArm (r : RegWrite) (s : State) : Out :=
  let s := tick s r.now
  let v := r.val.toNat
  if r.off.toNat ≠ sp0Pg + 0x118 ∨ v.testBit 31 = false then .refused (.otherRow "FAULT_INJ_ARM")
  else
    let s := wr s (sp0Pg + 0x118) (v &&& 0xFFFF)
    let val := rd s (sp0Pg + 0x11C)
    let base := bitsOf v 15 0 * 4096
    if spServes s = false then .next s
    else
      match pageAt base with
      | some p =>
        if rdB s (sp0Pg + 0x140) 1 ∧ (sitesOf p.kind).contains (bitsOf val 23 20) then
          .next (clinker (wr s (p.base + hInj) (val &&& 0x80F0FFFF)) { cat := 11, code := 7, page := p.base })
        else .next (denyWrite s p.base (p.base + hInj) 2 r.who)
      | none => .next (denyWrite s sp0Pg (base + hInj) 2 r.who)

end Sys2Proof.Machine
end

