-- ==== Sys2Proof/Machine/Management.lean ====
section
/-!
DEFINITION. Requests that arrive over the management bus (18_safety_security_clinker.md R443, R448, R454 to R457, R468): enrolment and policy,
evidence, the log, sensors, effecters, events, the endpoint id.
-/
namespace Sys2Proof.Machine

/-- SP_POLICY.OWNER_ENROLLED. -/
def setEnrolled (s : State) : State := wrB s (sp0Pg + 0x140) 0 true

/-- An enrolment is signed as R443 asks: by an unrevoked vendor key, or by the current owner's key. -/
def enrollOk (s : State) (key serial sig : List Byte) : Bool :=
  let msg := key ++ serial
  let ctx := ascii "GRIRNO-ENR"
  decide (serial = Config.serial) &&
  match s.sp.owner with
  | none => (List.range 4).any (fun i => !(s.sp.revoked.toNat.testBit i) && Config.ed448Verify (Config.vendorKey i) ctx msg sig)
  | some d => Config.ownerVerify d ctx msg sig

/-- ENROLL: the new owner key's digest, counter 6, a SECURITY entry. -/
def execEnroll (key : List Byte) (serial : List Byte) (sig : List Byte) (now : Nat) (s : State) : Out :=
  .next (mgtRequest (tick s now) (fun s =>
    if enrollOk s key serial sig then
      let s := raiseArc { s with sp := { s.sp with owner := some (digest key) } } 6 (arc s 6 + 1)
      mgtReply (clinker (setEnrolled s) { cat := 11, code := 5, page := sp0Pg }) 0 []
    else mgtError s))

/-- SET_POLICY: a section that verifies is stored under counter 3 and takes effect. -/
def execSetPolicy (section_ : List Byte) (now : Nat) (s : State) : Out :=
  .next (mgtRequest (tick s now) (fun s =>
    if policyOk s section_ then
      let s := raiseArc { s with sp := { s.sp with policy := some section_ } } 3 (secSeq section_)
      mgtReply (clinker (applyPolicy s section_) { cat := 11, code := 6, page := sp0Pg }) 0 []
    else mgtError s))

/-- GET_EVIDENCE. -/
def execGetEvidence (nonce : List Byte) (now : Nat) (s : State) : Out :=
  .next (mgtRequest (tick s now) (fun s => mgtReply s 0 (evidence s nonce)))

/-- GET_CERTS. -/
def execGetCerts (now : Nat) (s : State) : Out := .next (mgtRequest (tick s now) (fun s => mgtReply s 0 (certs s)))

/-- The entry of a SEQ, while the log holds it. -/
def entryAt (c : Clinker) (q : Nat) : Option ClinkerEntry := (c.perm ++ c.ring).find? (fun e => e.seq == q)

/-- LOG_READ: the entries that the log holds of 1 to 4 from a SEQ; another count is an error. -/
def execLogRead (seq : Nat) (count : Nat) (now : Nat) (s : State) : Out :=
  .next (mgtRequest (tick s now) (fun s =>
    if 1 ≤ count ∧ count ≤ 4 then
      mgtReply s 0 ((rangeFrom seq count).map (fun q => match entryAt s.cln q with
        | some e => e.bytes
        | none => [])).flatten
    else mgtError s))

/-- The reading of a sensor (R456). -/
def sensorValue (s : State) : Sensor → Nat
  | .inputVoltage => s.hrt.sample.vinMv
  | .inputPower => rdF s (hrtPg + 0x124) 15 0
  | .cap => rdF s (hrtPg + 0x108) 15 0
  | .floor => rdF s (hrtPg + 0x110) 15 0
  | .pace => rdF s (hrtPg + 0x13C) 10 0
  | .hottestJunction d => junction s d
  | .hottestStack d => (rangeFrom (8 * d.val) 8).foldl (fun m c => max m (rdF s (ctlPg c 0 + 0x10C) 23 16)) 0
  | .coolantInlet => rdF s (hrtPg + 0x14C) 7 0
  | .coolantOutlet => rdF s (hrtPg + 0x14C) 15 8
  | .flashCapacity => Config.flashUsable
  | .flashLife => lifeUsed s

/-- PLDM_SENSOR_READ. -/
def execPldmSensorRead (sensor : Sensor) (now : Nat) (s : State) : Out :=
  .next (mgtRequest (tick s now) (fun s => mgtReply s 0 (leBytes 8 (sensorValue s sensor))))

/-- PLDM_SET_CAP: SP writes HRT_CAP, or refuses the value (16_hearth_power_thermal.md R409). -/
def execPldmSetCap (watts : Nat) (now : Nat) (s : State) : Out :=
  .next (mgtRequest (tick s now) (fun s =>
    let s := setCap s watts
    if 1100 ≤ watts ∧ watts ≤ 6500 then mgtReply s 0 [] else mgtError s))

/-- PLDM_MODULE_RESET: the request of a module reset (17_startup_calibration.md R421). -/
def execPldmModuleReset (now : Nat) (s : State) : Out :=
  .next (mgtRequest (tick s now) (fun s => requestReset (mgtReply s 0 [])))

/-- POLL_EVENT: the oldest event leaves the queue; its entry is the answer. -/
def execPollEvent (now : Nat) (s : State) : Out :=
  .next (mgtRequest (tick s now) (fun s =>
    match s.mgt.events with
    | [] => mgtReply s 0 []
    | q :: qs =>
      let s := { s with mgt := { s.mgt with events := qs } }
      mgtReply s 0 (leBytes 8 q ++ match entryAt s.cln q with
        | some e => e.bytes
        | none => [])))

/-- SET_ENDPOINT_ID: the MCTP endpoint id that the bus owner assigns. -/
def execSetEndpointId (eid : Byte) (now : Nat) (s : State) : Out :=
  .next (mgtRequest (tick s now) (fun s => mgtReply (wrF s (mgtPg + 0x100) 31 24 eid.toNat) 0 []))

end Sys2Proof.Machine
end

