-- ==== Sys2Proof/Machine/RegEffects.lean ====
section
/-!
DEFINITION. REG_WRITE: a write of the window by its requester, with what the fields start that have no row of their own: SEEDED of a
Spark page, EN of a sequence table and of a billet engine, FTM_CTL, HRT_CAP (00_scope.md R10 to R14, 04_formats_rounding_spark.md
R121, 13_mboano_link_fabric_time.md R340, 14_jobs_partitions_serving.md R369, R371, 15_billets_and_recovery.md R381, R394).
-/
namespace Sys2Proof.Machine

/-- The page is the SEQ_ page of a partition that has no sequence table (R369). -/
def noSeqTable (s : State) (p : PageRef) : Bool :=
  p.kind == .seq &&
    (match partOfSlice s (sliceOfPage p) with
     | some n => cGet (fun _ => false) s.prt.fixed n
     | none => false)

/-- A write of 0 to SEQ_CTL.EN during a build takes effect when the build completes; a 1 written meanwhile withdraws it (R371). -/
def seqEnWritten (s : State) (sl : Nat) (old new : Nat) : State :=
  let x := seqOf s sl
  if x.build.isSome && old.testBit 0 && !(new.testBit 0) then
    setSeq (wrB s (seqPg sl + 0x100) 0 true) sl { x with offDue := true }
  else if x.build.isSome && new.testBit 0 then setSeq s sl { x with offDue := false }
  else s

/-- EN of a billet engine goes to 1: the next billet is billet 1 and copies every page; until then BLT_LAST reads 0 (R374, R381). -/
def bltEnSet (s : State) (sl : Nat) : State :=
  let s := setBlt (wr64 s (bltPg sl + 0x148) 0) sl { bltOf s sl with first := true }
  match partOfSlice s sl with
  | some n => { s with mem := { s.mem with dirty := cDrop s.mem.dirty (fun k => k / 2 ^ 27 == n) } }
  | none => s

/-- What a write of a register starts, from the value the register held and the one it holds now. -/
def afterWrite (s : State) (p : PageRef) (o old new : Nat) : State :=
  match p.kind with
  | .ftm => if o = 0x100 then ftmCtlWritten s old new else s
  | .spk => if 0x110 ≤ o ∧ o < 0x120 ∧ rdB s (p.base + 0x100) 0 = false then wrB s (p.base + 0x104) 1 true else s
  | .seq => if o = 0x100 then seqEnWritten s (sliceOfPage p) old new else s
  | .blt => if o = 0x100 ∧ old.testBit 0 = false ∧ new.testBit 0 then bltEnSet s (sliceOfPage p) else s
  | .hrt => if o = 0x108 then floorCheck s else s
  | _ => s

/-- A write of a page, with what it starts. -/
def writePage (s : State) (p : PageRef) (off v : Nat) (who : Requester) : State :=
  let o := off % 4096
  if p.kind = .spad ∧ o = 0x120 then
    -- the debug window's low word is held while the tile is IDLE (08_scratchpad.md R226)
    if tileIdle s (tileOfPage p) then
      { s with win := { s.win with loHold := cIns (cDel s.win.loHold off) off (BitVec.ofNat 32 v) } }
    else s
  else if 0x100 ≤ o ∧ noSeqTable s p then s
  else
    let old := rd s off
    let s := writeReg s off v who
    afterWrite s p o old (rd s off)

/-- REG_WRITE: a write takes effect in the fields that have no row of their own, as their access codes state; a write of a reserved page
or range has no effect (R476), and SP writes nothing while it restarts (18_safety_security_clinker.md R440). An offset that is not a
multiple of 4 is a malformed access. -/
def execRegWrite (r : RegWrite) (s : State) : Out :=
  let s := tick s r.now
  if r.off.toNat % 4 ≠ 0 then .refused (.otherRow "REG_WRITE")
  else if r.who = .sp ∧ spRestarting s then .next s
  else
    match pageAt r.off.toNat with
    | some p => .next (writePage s p r.off.toNat r.val.toNat r.who)
    | none => .next s

end Sys2Proof.Machine
end

