-- ==== Sys2Proof/Machine/SpadPage.lean ====
section
/-!
DEFINITION. The scratchpad page's commands (08_scratchpad.md R221, R223, R226): the CRC engine and the debug window, both untagged
readers of class 6.
-/
namespace Sys2Proof.Machine

/-- The window offset of the scratchpad page of a tile. -/
def spadPg (t : Nat) : Nat := tilePg t 5

/-- The physical bytes of a scratchpad, read untagged. -/
def rawBytes (s : State) (t a n : Nat) : List Byte := (rangeFrom a n).map (spByte s t)

/-- What a class 6 read of a range meets: the error, counted and logged. -/
def debugEcc (s : State) (t a n : Nat) (e : Ecc) : Ecc × State :=
  let r := spadEcc s t [(a, n)] e
  (r.1, spadEccNote r.2 t 6 r.1)

/-- An uncorrectable error. -/
def eccBad : Ecc → Bool
  | .uncorrectable _ => true
  | _ => false

/-- SPAD_CRC_GO: bit 1 of a SPAD_CTL write starts a run over SPAD_CRC_RANGE; no effect during a run; a range that is empty or leaves the
scratchpad is a denial. -/
def execSpadCrcGo (r : RegWrite) (s : State) : Out :=
  let s := tick s r.now
  match tileReg r.off.toNat .spad 0x100 with
  | none => .refused (.otherRow "SPAD_CRC_GO")
  | some t =>
    let pg := spadPg t
    let count := rdF s (pg + 0x110) 31 16
    let base := rdF s (pg + 0x110) 14 0
    if r.val.toNat.testBit 1 = false then .refused (.otherRow "SPAD_CRC_GO")
    else if rdB s (pg + 0x104) 0 then .next s
    else if count = 0 ∨ 32768 < base + count then .next (denyWrite s pg (pg + 0x100) 2 r.who)
    else .next (wrB s (pg + 0x104) 0 true)

/-- SPAD_CRC_DONE: a run ends: the CRC-32C of the range's bytes; an uncorrectable error sets CRC_ERR and the result, which is not
valid, is open. -/
def execSpadCrcDone (tile : Fin 288) (ecc : Ecc) (now : Nat) (s : State) : Out :=
  let s := tick s now
  let t := tile.val
  let pg := spadPg t
  if rdB s (pg + 0x104) 0 = false then .next s
  else
    let a := 512 * rdF s (pg + 0x110) 14 0
    let n := 512 * rdF s (pg + 0x110) 31 16
    let q := debugEcc s t a n ecc
    let s := wrB (wrB q.2 (pg + 0x104) 0 false) (pg + 0x104) 1 (eccBad q.1)
    let s :=
      if eccBad q.1 then
        let v := drawFree s
        wr v.2 (pg + 0x114) v.1
      else wrW s (pg + 0x114) (crc32c (rawBytes s t a n))
    .next (intSet s pg 4)

/-- The byte address of the debug window. -/
def debugAddr (s : State) (t : Nat) : Nat := 8 * rdF s (spadPg t + 0x118) 23 3

/-- SPAD_DBG_READ: a read of SPAD_DBG_DATA_LO while the tile is IDLE performs the access; else it reads 0. -/
def execSpadDbgRead (r : RegRead) (ecc : Ecc) (s : State) : Out :=
  let s := tick s r.now
  match tileReg r.off.toNat .spad 0x120 with
  | none => .refused (.otherRow "SPAD_DBG_READ")
  | some t =>
    let pg := spadPg t
    if tileIdle s t = false then .next { s with win := { s.win with lastRead := 0 } }
    else
      let a := debugAddr s t
      let q := debugEcc s t a 8 ecc
      let s := wrB q.2 (pg + 0x104) 2 (eccBad q.1)
      let v := if eccBad q.1 then 2 ^ 64 - 1 else leNat (rawBytes s t a 8)
      .next { s with win := { s.win with
        lastRead := BitVec.ofNat 32 v
        hiLatch := cSet (fun _ => none) s.win.hiLatch (pg + 0x124) (some (BitVec.ofNat 32 (v / 2 ^ 32))) } }

/-- Write bytes untagged. -/
def rawPut (t : Nat) : Nat → List Byte → State → State
  | _, [], s => s
  | a, b :: bs, s => rawPut t (a + 1) bs (setSpByte s t a b)

/-- SPAD_DBG_WRITE: a write of SPAD_DBG_DATA_HI while the tile is IDLE writes the eight bytes, the low word as it was held; with none
held, the low word stays as it is. -/
def execSpadDbgWrite (r : RegWrite) (s : State) : Out :=
  let s := tick s r.now
  match tileReg r.off.toNat .spad 0x124 with
  | none => .refused (.otherRow "SPAD_DBG_WRITE")
  | some t =>
    if tileIdle s t = false then .next s
    else
      let lo := spadPg t + 0x120
      let low := match s.win.loHold.find? (fun c => c.1 == lo) with
        | some c => c.2.toNat
        | none => leNat (rawBytes s t (debugAddr s t) 4)
      let s := { s with win := { s.win with loHold := cDel s.win.loHold lo } }
      .next (rawPut t (debugAddr s t) (leBytes 8 (low + 2 ^ 32 * r.val.toNat)) s)

end Sys2Proof.Machine
end

