-- ==== Sys2Proof/Machine/Reads.lean ====
section
/-!
DEFINITION. Reads of the register window (00_scope.md R10 to R12, 19_register_map.md R472 to R482): what a register shows. A field that
reports a part of the machine (a queue's length, a pointer, a sum) is computed from that part; every other field reads as it is stored.
-/
namespace Sys2Proof.Machine

/-! ### Summaries -/

/-- Half h of a 64-bit value. -/
def half (h : RegHalf) (v : Nat) : Nat := if h = .high then v / 2 ^ 32 % 2 ^ 32 else v % 2 ^ 32

/-- A bit. -/
def bitIf (b : Bool) (n : Nat) : Nat := if b then 2 ^ n else 0

/-- A bit for each page of a list whose interrupt is active (R478). -/
def intBits (s : State) (pages : List (List Nat)) : Nat :=
  sumNat ((List.range pages.length).map (fun i => bitIf ((nth [] pages i).any (intActive s)) i))

/-- SP_IRQ_SUM (R482). -/
def sdSummary (s : State) : Nat :=
  intBits s [[sp0Pg], [bootPg], [partPg], [calPg], [hrtPg], [ftl0Pg], [ftl1Pg], [clnPg], [attPg], [ftmPg], [mgtPg]]

/-- NOC_IRQ_SUMn of a die (R481). -/
def dieSummary (s : State) (d n : Nat) : Nat :=
  if n < 3 then
    intBits s ((rangeFrom (32 * n) (min 32 (72 - 32 * n))).map (fun t => (List.range 16).map (tilePg (72 * d + t))))
  else
    intBits s ((List.range 8).map (fun c => (List.range 16).map (ctlPg (8 * d + c)))) +
      2 ^ 8 * intBits s ((List.range 4).map (fun p => [lnkPg (4 * d + p)])) +
      2 ^ 12 * intBits s ([[rtPg d]] ++ (List.range 4).map (fun n => [uciPg d n]) ++ [[nocPg d], [hrtDPg d]])

/-! ### Tiles (06_tiles_and_threads.md R175, R176) -/

/-- TILE_TASK_STAT of a task: an ending task reads 3 whether or not it has FAILED. -/
def taskCode (s : State) (t k : Nat) : Nat :=
  match taskOf s t k with
  | none => 0
  | some x => if x.ending.isSome then 3 else if x.failed then 2 else 1

/-- The members of a task. -/
def taskMembers (s : State) (t k : Nat) : Nat :=
  ((List.range 64).filter (fun th => (thrOf s t th).task.map (·.val) == some k)).length

def viewTile0 (s : State) (t o v : Nat) : Nat :=
  if o = 0x104 then
    v + min 255 (runningThreads s t) * 2 ^ 16 + bitIf (tileRunning s t) 1 - v % 4 + bitIf (tileIdle s t) 0
  else if o = 0x10C then
    sliceOf t * 2 ^ 8 + (match partOfTile s t with
      | some n => n
      | none => 8)
  else if o = 0x118 then tngTags s t * 2 ^ 16 + blwTags s t
  else if o = 0x120 then sumNat ((List.range 4).map (fun k => taskCode s t k * 4 ^ k))
  else if o = 0x128 then sumNat ((List.range 4).map (fun k => taskMembers s t k * 256 ^ k))
  else v

/-- The register that TILE_DBG_SEL selects, of a HALTED or FAULTED thread. -/
def debugReg (s : State) (t : Nat) : Nat :=
  let sel := rd s (tilePg t 1 + 0x520)
  let th := bitsOf sel 13 8
  let r := bitsOf sel 5 0
  let x := (thrOf s t th).st
  if x != .halted && x != .faulted then 0
  else if r < 0x28 then (xreg s t th r).toNat
  else if r = 0x28 then sumNat ((List.range 4).map (fun p => bitIf (preg s t th p) p))
  else 0

def viewTile1 (s : State) (t o : Nat) (h : RegHalf) (v : Nat) : Nat :=
  if o < 0x500 then
    let x := thrOf s t ((o - 0x100) / 16)
    if o % 16 = 0 then
      x.fault.toNat * 2 ^ 24 + (match x.task with
        | some k => k.val * 2 ^ 16 + 2 ^ 15
        | none => 0) + x.st.code
    else if o % 16 = 4 then x.pc.toNat
    else 0
  else if o = 0x528 ∨ o = 0x52C then half h (debugReg s t)
  else v

/-- ANV_STAT (03_anvil_arrays.md R95): a chunk is in the array from the first launch of a pass to its last, and the output stage writes from
the last launch to the pass's end. -/
def viewAnv (s : State) (key o v : Nat) : Nat :=
  if o = 0x104 then
    let q := (cGet (fun _ => []) s.anv.queue key).length
    let rs := cGet (fun _ => []) s.anv.running key
    let chunks := fun (r : Running) => match r.members with
      | p :: _ => dChunks p
      | [] => 0
    q * 2 ^ 8 + bitIf (rs.any (fun r => decide (chunks r ≤ r.launched))) 1 +
      bitIf (rs.any (fun r => decide (0 < r.launched ∧ r.launched < chunks r))) 0
  else v

def viewSpad (s : State) (t o v : Nat) : Nat :=
  if o = 0x104 then
    let n := (s.tl.tags.filter (fun c => decide (c.1 / 32768 = t) && c.2 == .retained)).length
    v % 2 ^ 16 + n * 2 ^ 16
  else if o = 0x12C then (cGet (fun _ => 0) s.win.repair (repairKey s t)).toNat
  else v

def viewBlwTile (s : State) (t o v : Nat) : Nat :=
  if o = 0x104 then (windowOf s t).length * 2 ^ 16 + (descsOf s t).length * 2 ^ 8 + blwTags s t else v

def viewSorter (s : State) (t o v : Nat) : Nat :=
  if o = 0x104 then
    let held := ((descsOf s t).filter (fun d => d.capped.isSome)).length +
      (s.tng.ops.filter (fun x => x.tile == t && x.capped.isSome)).length
    (sorterOps s t).length * 2 ^ 16 + held
  else v

def viewSpark (s : State) (t o v : Nat) : Nat :=
  if o = 0x128 then (crc32c (leBytes 8 (rd64 s (spkPg t + 0x110)) ++ leBytes 8 (rd64 s (spkPg t + 0x118)))).toNat else v

def viewTngTile (s : State) (t o v : Nat) : Nat :=
  if o = 0x104 then tngTags s t * 2 ^ 16 + (s.tng.ops.filter (fun x => x.tile == t)).length else v

/-! ### Slices -/

/-- STH_ (02_segments_and_stash.md R55). -/
def viewStash (s : State) (sl o : Nat) (h : RegHalf) (v : Nat) : Nat :=
  let lanes := (List.range 4).map (laneOf s sl)
  if o = 0x108 then
    v + bitIf (lanes.any (·.refill)) 2 +
      bitIf (lanes.any (fun x => match x.opening with
        | some g => g.spill.isSome
        | none => false)) 1
  else if o = 0x128 ∨ o = 0x12C then half h (sumNat (lanes.map (fun x => recsSize x.spilled)))
  else if 0x140 ≤ o ∧ o < 0x1C0 then
    let x := laneOf s sl ((o - 0x140) / 32)
    let k := (o - 0x140) % 32
    if k = 16 ∨ k = 20 then half h x.top
    else if k = 24 ∨ k = 28 then half h (match x.recs with
      | r :: _ => r.off
      | [] => x.top)
    else v
  else if 0x1C0 ≤ o ∧ o < 0x1D0 then
    let x := laneOf s sl ((o - 0x1C0) / 4)
    x.spilled.length % 2 ^ 16 * 2 ^ 16 + x.recs.length % 2 ^ 16
  else v

/-- Ring n is held by a wait: a WAIT_WORD or WAIT_IDLE that runs, or a NOT_BEFORE still to come (07_tile_operations.md R211). -/
def ringWaits (s : State) (x : Ring) : Bool :=
  match x.buf with
  | e :: _ => if x.running then e.op == 4 || e.op == 5 else decide (s.time < e.notBefore)
  | [] => false

def viewRing (s : State) (sl o v : Nat) : Nat :=
  if o < 0x200 ∧ o % 0x40 = 0x0C then
    let x := ringOf s sl ((o - 0x100) / 0x40)
    v + x.buf.length % 256 * 2 ^ 8 + bitIf x.reading.isSome 3 + bitIf (ringWaits s x) 2 + bitIf x.running 1
  else v

def viewBlwSlice (s : State) (sl o v : Nat) : Nat :=
  if o = 0x104 then
    match partOfSlice s sl with
    | some p => (match drainOf s p with
      | some (id, ts) => id % 2 ^ 16 * 2 ^ 16 + 2 ^ 15 + ts.length
      | none => 0)
    | none => 0
  else v

/-- The pages of partition p mapped in a tier; without a page map every page lies in HBM (11_tiers_and_pool.md R280). -/
def tierPages (s : State) (p tier : Nat) : Nat :=
  if tiered s p then heldFrames s p tier else if tier = 0 then partPages s p else 0

/-- TIER_ (11_tiers_and_pool.md R281, R298). -/
def viewTier (s : State) (sl o : Nat) (h : RegHalf) (v : Nat) : Nat :=
  match partOfSlice s sl with
  | none => v
  | some p =>
    if o = 0x110 ∨ o = 0x114 then (if tiered s p then half h ((hbmFrames s p - mapFrames s p) * pageBytes) else 0)
    else if o = 0x140 then tierPages s p 0
    else if o = 0x144 then tierPages s p 1
    else if o = 0x148 then tierPages s p 2
    else v

/-- SEQ_ (14_jobs_partitions_serving.md R371): the table's figures are those of its entries while EN is 1. -/
def viewSeq (s : State) (sl o v : Nat) : Nat :=
  let on := rdB s (seqPg sl + 0x100) 0
  match partOfSlice s sl with
  | none => v
  | some p =>
    if o = 0x108 then
      bitIf (seqOf s sl).build.isSome 31 +
        (if on then (seqSlots.filter (fun n => (readSlot s p sl n).state == 2)).length * 2 ^ 16 + (queuedSlots s p sl).length else 0)
    else if o = 0x16C then (if on then (freeSuspend s p sl).length else 0)
    else v

def viewBlt (s : State) (sl o v : Nat) : Nat :=
  if o = 0x134 then
    match partOfSlice s sl with
    | some p => genPages s p sl
    | none => 0
  else v

/-! ### Dies and links -/

/-- Operations in the queues of a controller's pseudo-channels (10_hbm4_memory.md R275). -/
def queuedAt (s : State) (ctl : Nat) : Nat :=
  (s.mem.ops.filter (fun x => x.ctl == ctl && x.stage == .admitted)).length

/-- A hold is in effect on a route through port n: some direction or table entry that holds the port has a port whose state the hold has
yet to show (13_mboano_link_fabric_time.md R334, R347). -/
def portHeld (s : State) (n : Nat) : Bool :=
  let changed := s.lnk.upMask ^^^ upPorts s
  let sets := (List.range 6).map (dirPorts s) ++ s.win.rtData.map (fun c => c.2.toNat % 2 ^ 16)
  s.lnk.hold.isSome && sets.any (fun m => m.testBit n && (m &&& changed) != 0)

def viewLink (s : State) (n o v : Nat) : Nat :=
  if o = 0x104 then v + min 255 (portOf s n).replay.length * 2 ^ 8 + bitIf (portHeld s n) 0 else v

def viewRouting (s : State) (d o v : Nat) : Nat :=
  if o = 0x114 then rtEntry s d (rdF s (rtPg d + 0x110) 11 0)
  else if o = 0x118 then (crc32c ((List.range 4096).map (fun i => leBytes 4 (rtEntry s d i))).flatten).toNat
  else v

/-! ### SD -/

/-- The SEQ of the oldest entry held, or of the next one where none is (18_safety_security_clinker.md R467). -/
def clnOldest (c : Clinker) : Nat := (c.perm ++ c.ring).foldl (fun m e => min m e.seq) c.next

/-- The entry that the window of the CLN_ page shows. -/
def clnShown (s : State) : Option ClinkerEntry :=
  (s.cln.perm ++ s.cln.ring).find? (fun e => e.seq == rd64 s (clnPg + 0x120))

def viewCln (s : State) (o : Nat) (h : RegHalf) (v : Nat) : Nat :=
  if o = 0x100 ∨ o = 0x104 then half h s.cln.next
  else if o = 0x108 ∨ o = 0x10C then half h (clnOldest s.cln)
  else if o = 0x110 then s.cln.perm.length
  else if o = 0x114 then s.cln.opened.length
  else if o = 0x128 then bitIf (clnShown s).isNone 0
  else if 0x200 ≤ o ∧ o < 0x280 then
    match clnShown s with
    | some e => leNat (slice e.bytes (o - 0x200) 4)
    | none => 0
  else v

/-- A calibration record's header (17_startup_calibration.md R430). -/
def calHeader (kind inst : Nat) (r : CalRec) : Nat :=
  kind * 2 ^ 60 + inst * 2 ^ 48 + 2 ^ 47 + bitIf r.oob 46 + r.load % 4 * 2 ^ 44 + r.temp % 256 * 2 ^ 32 + r.taken % 2 ^ 32

def viewCal (s : State) (o : Nat) (h : RegHalf) (v : Nat) : Nat :=
  if o = 0x118 ∨ o = 0x11C then
    let sel := rd s (calPg + 0x114)
    match calRec s (recKey (bitsOf sel 15 12) (bitsOf sel 11 0)) with
    | some r => half h (calHeader (bitsOf sel 15 12) (bitsOf sel 11 0) r)
    | none => 0
  else v

/-- The client table behind SP_CLIM_IDX (14_jobs_partitions_serving.md R372). -/
def viewPart (s : State) (o v : Nat) : Nat :=
  let k := rdF s (partPg + 0x200) 5 0
  if o = 0x204 then (cGet (fun _ => 0) s.win.clim k).toNat
  else if o = 0x208 then (cGet (fun _ => 0) s.win.climStart k).toNat
  else if o = 0x20C then cGet (fun _ => 0) s.win.climRun k
  else if o = 0x210 then (cGet (fun _ => 0) s.win.climStarted k).toNat
  else v

/-- The flash page (11_tiers_and_pool.md R299). -/
def viewFlash (s : State) (o : Nat) (h : RegHalf) (v : Nat) : Nat :=
  if o = 0x104 then v + lifeUsed s * 2 ^ 8
  else if o = 0x108 ∨ o = 0x10C then half h Config.flashUsable
  else if o = 0x118 ∨ o = 0x11C then half h (Config.flashUsable - rd64 s (ftl0Pg + 0x110))
  else if o = 0x140 then spareBlocks s
  else if o = 0x150 then ratedPbw
  else v

/-- The pool page (R299). -/
def viewPool (s : State) (o v : Nat) : Nat :=
  if o = 0x114 then tierFrames s 0 1 - (usedFrames s 0 1).eraseDups.length
  else if o = 0x118 then flashFrames s
  else if o = 0x11C then flashFrames s - (usedFrames s 0 2).eraseDups.length
  else v

def viewMgt (s : State) (o v : Nat) : Nat :=
  if o = 0x100 then bitsOf v 31 24 * 2 ^ 24 + bitIf (!s.mgt.events.isEmpty) 23 + s.mgt.events.length
  else if o = 0x104 then Config.ianaNumber.toNat
  else v

/-! ### A register's value -/

/-- What a register above the page header shows, from the value that it stores. -/
def viewReg (s : State) (p : PageRef) (o : Nat) (h : RegHalf) (v : Nat) : Nat :=
  match p.kind with
  | .tile0 => viewTile0 s (tileOfPage p) o v
  | .tile1 => viewTile1 s (tileOfPage p) o h v
  | .anv => viewAnv s (4 * tileOfPage p + p.idx % 4) o v
  | .spad => viewSpad s (tileOfPage p) o v
  | .blwT => viewBlwTile s (tileOfPage p) o v
  | .srt => viewSorter s (tileOfPage p) o v
  | .spk => viewSpark s (tileOfPage p) o v
  | .tngT => viewTngTile s (tileOfPage p) o v
  | .hbm => if o = 0x104 then v + queuedAt s (8 * p.die + p.idx) else v
  | .sth => viewStash s (sliceOfPage p) o h v
  | .tmp => if o = 0x120 then (cGet (fun _ => []) s.tmp (sliceOfPage p)).length else v
  | .ring => viewRing s (sliceOfPage p) o v
  | .blwS => viewBlwSlice s (sliceOfPage p) o v
  | .tier => viewTier s (sliceOfPage p) o h v
  | .seq => viewSeq s (sliceOfPage p) o v
  | .blt => viewBlt s (sliceOfPage p) o v
  | .lnk => viewLink s (4 * p.die + p.idx) o v
  | .rt => viewRouting s p.die o v
  | .noc => if 0x140 ≤ o ∧ o < 0x150 then dieSummary s p.die ((o - 0x140) / 4) else v
  | .hrtD => if o = 0x108 then coreMv s p.die else v
  | .sp0 => if o = 0x124 then arc s (rdF s (sp0Pg + 0x120) 3 0) else v
  | .spPart => viewPart s o v
  | .spCal => viewCal s o h v
  | .spIrq => if o = 0x100 then sdSummary s else v
  | .hrt => if o = 0x154 then Config.hearthWeight s.hrt.wset (rdF s (hrtPg + 0x150) 7 0) % 2 ^ 32 else v
  | .ftl0 => viewFlash s o h v
  | .ftl1 => viewPool s o v
  | .cln => viewCln s o h v
  | .ftm => if o = 0x110 ∨ o = 0x114 then half h s.time else v
  | .mgt => viewMgt s o v
  | .spBoot | .att | .qchT | .phy | .qchP | .tngS | .uci => v

/-- What a read of window offset off returns before any latch: 0 in a reserved page or range, at an RSV offset (R476), and at a register that
is not live on its page. -/
def shown (s : State) (off : Nat) : Nat :=
  match pageAt off with
  | none => 0
  | some p =>
    let o := off % 4096
    if o < 0x100 then (if o < 0x30 then rd s off else 0)
    else if noSeqTable s p then 0
    else
      match findReg p.kind.regs o with
      | none => 0
      | some (r, _, half) => if placeOk s p r.place then viewReg s p o half (rd s off) else 0

/-- The offset is the low half of a 64-bit pair (R12); BLK_ERR_ADDR_LO is one in every header. -/
def isLow (off : Nat) : Bool :=
  match pageAt off with
  | none => false
  | some p =>
    off % 4096 == hErrLo ||
      (match findReg p.kind.regs (off % 4096) with
       | some (_, _, .low) => decide (0x100 ≤ off % 4096)
       | _ => false)

/-- The value held for a later read. -/
def latch (s : State) (off v : Nat) : State :=
  { s with win := { s.win with hiLatch := cSet (fun _ => none) s.win.hiLatch off (some (BitVec.ofNat 32 v)) } }

/-- A read returns v. -/
def answer (s : State) (v : W32) : State := { s with win := { s.win with lastRead := v } }

/-- A read of the window: a latched value is returned once; reading the low half of a pair latches its high half, and reading FTM_TIME_LO
latches FTM_FRAC as well, whose value the model does not hold (13_mboano_link_fabric_time.md R349; DESIGN CHOICE, log entry 1). -/
def readReg (s : State) (off : Nat) : State :=
  match cGet (fun _ => none) s.win.hiLatch off with
  | some v => answer { s with win := { s.win with hiLatch := cSet (fun _ => none) s.win.hiLatch off none } } v
  | none =>
    if off = ftmPg + 0x118 then
      let v := drawFree s
      answer v.2 (BitVec.ofNat 32 (v.1 % 256))
    else
      let out := BitVec.ofNat 32 (shown s off)
      let s := if isLow off then latch s (off + 4) (shown s (off + 4)) else s
      if off = ftmPg + 0x110 then
        let v := drawFree s
        answer (latch v.2 (ftmPg + 0x118) (v.1 % 256)) out
      else answer s out

/-- LO_READ_LATCH: a read of the window, by which the low half of a pair latches the high half (R12). An offset that is not a multiple of
4 is a malformed access, and SPAD_DBG_DATA_LO has a row of its own. -/
def execLoReadLatch (r : RegRead) (s : State) : Out :=
  let s := tick s r.now
  let off := r.off.toNat
  if off % 4 ≠ 0 ∨ (tileReg off .spad 0x120).isSome then .refused (.otherRow "LO_READ_LATCH")
  else .next (readReg s off)

end Sys2Proof.Machine
end

