-- ==== Sys2Proof/Machine/Flags.lean ====
section
/-!
DEFINITION. The conditions that set a predicate (07_tile_operations.md R183) and the predicate logic of PLOG (R182). A thread has no
other flags.
-/
namespace Sys2Proof.Machine

/-- A COND b, by the code of COND (R183); codes 0xA to 0xF are reserved. -/
def condHolds (c : Nat) (a b : W64) : Bool :=
  match c with
  | 0x0 => a == b
  | 0x1 => a != b
  | 0x2 => a.ult b
  | 0x3 => !(a.ult b)
  | 0x4 => a.slt b
  | 0x5 => !(a.slt b)
  | 0x6 => a.ule b
  | 0x7 => !(a.ule b)
  | 0x8 => a.sle b
  | _ => !(a.sle b)

/-- PA op PB (R182). -/
def plogOp (o : Nat) (a b : Bool) : Bool :=
  match o with
  | 0 => a && b
  | 1 => a || b
  | 2 => a != b
  | _ => a && !b

end Sys2Proof.Machine
end

