-- ==== Sys2Proof/Machine/Scalar.lean ====
section
/-!
DEFINITION. The scalar unit, UNIT 0x0 (07_tile_operations.md R182, R183): integer, address and predicate arithmetic, branches, reads
of time, step and identity, and Spark draws.
-/
namespace Sys2Proof.Machine

/-- Form R with D, A and B: FN and the low bits are reserved. -/
def legalR (w : Nat) : Bool := specOk (fD w) && specOk (fA w) && specOk (fB w) && zero w 29 0

/-- Form R with D alone. -/
def legalRd (w : Nat) : Bool := specOk (fD w) && zero w 41 0

/-- Form I. -/
def legalI (w : Nat) : Bool := specOk (fD w) && specOk (fA w)

/-- Form C of CMP. -/
def legalCmp (w : Nat) : Bool := decide (fCond w ≤ 9) && specOk (fA w) && specOk (fB w) && zero w 29 0

/-- Form C of CMPI. -/
def legalCmpi (w : Nat) : Bool := decide (fCond w ≤ 9) && specOk (fA w)

/-- Form J of BRA: D and A are unused; OFF is a multiple of 8. -/
def legalBra (w : Nat) : Bool := zero w 47 36 && zero w 35 32 && zero w 2 0

/-- Form J of CALL: A is unused. -/
def legalCall (w : Nat) : Bool := specOk (fD w) && zero w 41 36 && zero w 35 32 && zero w 2 0

/-- Form J of JR: D and OFF are unused. -/
def legalJr (w : Nat) : Bool := zero w 47 42 && specOk (fA w) && zero w 35 0

/-- D = f A B (R182). -/
def aluR (mn : String) (o : Nat) (f : W64 → W64 → W64) (i : Issue) (s : State) : Out :=
  issueOp mn 0 o legalR (fun w => [fA w, fB w]) i s fun c s =>
    .done (setXreg s c.t c.th (fD c.w) (f (xreg s c.t c.th (fA c.w)) (xreg s c.t c.th (fB c.w))))

/-- Form I reads A. -/
def rA (w : Nat) : List Nat := [fA w]

/-- D = f A IMM (R182). -/
def aluI (mn : String) (o : Nat) (legal : Nat → Bool) (regs : Nat → List Nat) (f : W64 → W64 → W64) (i : Issue) (s : State) : Out :=
  issueOp mn 0 o legal regs i s fun c s =>
    .done (setXreg s c.t c.th (fD c.w) (f (xreg s c.t c.th (fA c.w)) (fImm c.w)))

/-- The amount of a shift: the low six bits (R182). -/
def shAmt (b : W64) : Nat := b.toNat % 64

/-- NOP. -/
def execNop (i : Issue) (s : State) : Out :=
  issueOp "NOP" 0 0x00 (fun w => zero w 47 0) (fun _ => []) i s fun _ s => .done s

def execAdd (i : Issue) (s : State) : Out := aluR "ADD" 0x01 (fun a b => a + b) i s
def execSub (i : Issue) (s : State) : Out := aluR "SUB" 0x02 (fun a b => a - b) i s
/-- MUL gives the low 64 bits. -/
def execMul (i : Issue) (s : State) : Out := aluR "MUL" 0x03 (fun a b => a * b) i s
def execAnd (i : Issue) (s : State) : Out := aluR "AND" 0x04 (fun a b => a &&& b) i s
def execOr (i : Issue) (s : State) : Out := aluR "OR" 0x05 (fun a b => a ||| b) i s
def execXor (i : Issue) (s : State) : Out := aluR "XOR" 0x06 (fun a b => a ^^^ b) i s
def execShl (i : Issue) (s : State) : Out := aluR "SHL" 0x07 (fun a b => a <<< shAmt b) i s
def execShr (i : Issue) (s : State) : Out := aluR "SHR" 0x08 (fun a b => a >>> shAmt b) i s
def execSra (i : Issue) (s : State) : Out := aluR "SRA" 0x09 (fun a b => a.sshiftRight (shAmt b)) i s
def execMinu (i : Issue) (s : State) : Out := aluR "MINU" 0x0A (fun a b => if a.ult b then a else b) i s
def execMaxu (i : Issue) (s : State) : Out := aluR "MAXU" 0x0B (fun a b => if a.ult b then b else a) i s
def execMins (i : Issue) (s : State) : Out := aluR "MINS" 0x0C (fun a b => if a.slt b then a else b) i s
def execMaxs (i : Issue) (s : State) : Out := aluR "MAXS" 0x0D (fun a b => if a.slt b then b else a) i s

def execAddi (i : Issue) (s : State) : Out := aluI "ADDI" 0x11 legalI rA (fun a b => a + b) i s
/-- LI: A must be 0. -/
def execLi (i : Issue) (s : State) : Out :=
  aluI "LI" 0x12 (fun w => specOk (fD w) && fA w == 0) (fun _ => []) (fun _ b => b) i s
/-- LIH: A[35:0] with IMM[27:0] in [63:36]; IMM[35:28] must be 0. -/
def execLih (i : Issue) (s : State) : Out :=
  aluI "LIH" 0x13 (fun w => legalI w && zero w 35 28) rA
    (fun a b => BitVec.ofNat 64 (a.toNat % 2 ^ 36 + b.toNat % 2 ^ 28 * 2 ^ 36)) i s
def execAndi (i : Issue) (s : State) : Out := aluI "ANDI" 0x14 legalI rA (fun a b => a &&& b) i s
def execOri (i : Issue) (s : State) : Out := aluI "ORI" 0x15 legalI rA (fun a b => a ||| b) i s
def execShli (i : Issue) (s : State) : Out := aluI "SHLI" 0x16 legalI rA (fun a b => a <<< shAmt b) i s
def execShri (i : Issue) (s : State) : Out := aluI "SHRI" 0x17 legalI rA (fun a b => a >>> shAmt b) i s

/-- CMP: PD = (A COND B). -/
def execCmp (i : Issue) (s : State) : Out :=
  issueOp "CMP" 0 0x20 legalCmp (fun w => [fA w, fB w]) i s fun c s =>
    .done (setPreg s c.t c.th (fPd c.w)
      (condHolds (fCond c.w) (xreg s c.t c.th (fA c.w)) (xreg s c.t c.th (fB c.w))))

/-- CMPI: PD = (A COND IMM). -/
def execCmpi (i : Issue) (s : State) : Out :=
  issueOp "CMPI" 0 0x21 legalCmpi (fun w => [fA w]) i s fun c s =>
    .done (setPreg s c.t c.th (fPd c.w) (condHolds (fCond c.w) (xreg s c.t c.th (fA c.w)) (fImm c.w)))

/-- PLOG: PD = PA op PB. -/
def execPlog (i : Issue) (s : State) : Out :=
  issueOp "PLOG" 0 0x22 (fun w => zero w 39 0) (fun _ => []) i s fun c s =>
    .done (setPreg s c.t c.th (fPd c.w)
      (plogOp (bitsOf c.w 41 40) (preg s c.t c.th (bitsOf c.w 45 44)) (preg s c.t c.th (bitsOf c.w 43 42))))

/-- The PC of the operation that the thread issues. -/
def opPc (s : State) (c : OpCtx) : Nat := (thrOf s c.t c.th).pc.toNat

/-- PC + OFF, in 32 bits. -/
def branchTarget (pc off : Nat) : Nat := (pc + off) % 2 ^ 32

/-- Move the thread to a new PC: a target outside the code region or misaligned faults on the target (R154, R182). -/
def execBra (i : Issue) (s : State) : Out :=
  issueOp "BRA" 0 0x30 legalBra (fun _ => []) i s fun c s => .jump s (branchTarget (opPc s c) (fOffJ c.w))

/-- JR: PC = A[31:0]. -/
def execJr (i : Issue) (s : State) : Out :=
  issueOp "JR" 0 0x31 legalJr (fun w => [fA w]) i s fun c s =>
    .jump s ((xreg s c.t c.th (fA c.w)).toNat % 2 ^ 32)

/-- CALL: D = PC + 8; PC = PC + OFF. -/
def execCall (i : Issue) (s : State) : Out :=
  issueOp "CALL" 0 0x32 legalCall (fun _ => []) i s fun c s =>
    .jump (setXreg s c.t c.th (fD c.w) (BitVec.ofNat 64 (opPc s c + 8))) (branchTarget (opPc s c) (fOffJ c.w))

/-- RDTIME: D = local fabric time in whole ns. -/
def execRdtime (i : Issue) (s : State) : Out :=
  issueOp "RDTIME" 0 0x40 legalRd (fun _ => []) i s fun c s =>
    .done (setXreg s c.t c.th (fD c.w) (BitVec.ofNat 64 s.time))

/-- RDSTEP: D = SPK_STEP. -/
def execRdstep (i : Issue) (s : State) : Out :=
  issueOp "RDSTEP" 0 0x41 legalRd (fun _ => []) i s fun c s =>
    .done (setXreg s c.t c.th (fD c.w) (spkStep s c.t))

/-- What RDID returns (R182, R502). -/
def tileIdent (s : State) (t th : Nat) : Nat :=
  let l := logicalOf s t
  match partOfTile s t with
  | some p => l + partIndex s p l % 256 * 2 ^ 16 + th * 2 ^ 24 + p * 2 ^ 32
  | none => l + th * 2 ^ 24 + 2 ^ 35

def execRdid (i : Issue) (s : State) : Out :=
  issueOp "RDID" 0 0x42 legalRd (fun _ => []) i s fun c s =>
    .done (setXreg s c.t c.th (fD c.w) (BitVec.ofNat 64 (tileIdent s c.t c.th)))

/-- SPK.DRAW: D = spark(seed, A[31:0], B). -/
def execSpkDraw (i : Issue) (s : State) : Out :=
  issueOp "SPK_DRAW" 0 0x50 legalR (fun w => [fA w, fB w]) i s fun c s =>
    .done (countDraws (setXreg s c.t c.th (fD c.w)
      (sparkAt s c.t ((xreg s c.t c.th (fA c.w)).setWidth 32) (xreg s c.t c.th (fB c.w)))) c.t 1)

/-- SPK.DRAWI: D = spark(seed, A[31:0], pos), the position from the step latched at issue and index B. -/
def execSpkDrawi (i : Issue) (s : State) : Out :=
  issueOp "SPK_DRAWI" 0 0x51 legalR (fun w => [fA w, fB w]) i s fun c s =>
    .done (countDraws (setXreg s c.t c.th (fD c.w)
      (sparkAt s c.t ((xreg s c.t c.th (fA c.w)).setWidth 32)
        (sparkPos (spkStep s c.t) (xreg s c.t c.th (fB c.w)).toNat))) c.t 1)

end Sys2Proof.Machine
end

