-- ==== Sys2Proof/Machine/SlotUnit.lean ====
section
/-!
DEFINITION. The slot unit, UNIT 0x6 (07_tile_operations.md R184, R185; 08_scratchpad.md R214 to R218, R222): loads and stores, fill,
copy and tag operations.
-/
namespace Sys2Proof.Machine

/-- Form M: the tag codes at most m, SEXT only where the operation has it. -/
def legalM (maxTag : Nat) (sext : Bool) (w : Nat) : Bool :=
  specOk (fD w) && decide (fTag w ≤ maxTag) && (sext || !(fSext w)) && zero w 33 24

/-- The address AB + OFF of form M. -/
def addrM (s : State) (c : OpCtx) : Nat := (xreg s c.t c.th (fAb c.w) + fOffM c.w).toNat

/-- The checks of a scratchpad address of a load or store: cause 0x03 before 0x05 (R181; DESIGN CHOICE, log entry 9). -/
def addrFault (s : State) (t a n : Nat) : Option Nat :=
  if badRange s t a n then some 3 else if a % n ≠ 0 then some 5 else none

/-- How TAG of a load treats the slot (R184). -/
def ldUse : Nat → Use
  | 0 => .look
  | 1 => .read
  | _ => .consume

/-- How TAG of a store treats the slot (R184). -/
def stUse : Nat → Use
  | 0 => .poke
  | _ => .produce

/-- LD: zero-extends, or sign-extends under SEXT. -/
def execLd (i : Issue) (s : State) : Out :=
  issueOp "LD" 6 0x01 (legalM 2 true) (fun w => [fAb w]) i s fun c s =>
    let n := 2 ^ fSize c.w
    let a := addrM s c
    match addrFault s c.t a n with
    | some f => .fault f
    | none =>
      let uses := [(a / 512, ldUse (fTag c.w))]
      withSlots c s uses fun s =>
        let k := c.task s
        let e := spadEcc s c.t [(a, n)] c.ecc
        let v := loadNat e.2 c.t k e.1 a n
        let r := if fSext c.w then ofSigned 64 (toSigned (8 * n) v) else v
        settleTags (setXreg (spadEccNote e.2 c.t 5 e.1) c.t c.th (fD c.w) (BitVec.ofNat 64 r)) c.t k uses

/-- ST: the low bytes of D. -/
def execSt (i : Issue) (s : State) : Out :=
  issueOp "ST" 6 0x02 (legalM 1 false) (fun w => [fD w, fAb w]) i s fun c s =>
    let n := 2 ^ fSize c.w
    let a := addrM s c
    match addrFault s c.t a n with
    | some f => .fault f
    | none =>
      let uses := [(a / 512, stUse (fTag c.w))]
      withSlots c s uses fun s =>
        let k := c.task s
        settleTags (pokeBytes s c.t k a (leBytes n (xreg s c.t c.th (fD c.w)).toNat)) c.t k uses

/-- The count of a fill or copy: a multiple of 32 from 32 to 16,777,216 (R185). -/
def fillCountOk (n : Nat) : Bool := decide (32 ≤ n ∧ n ≤ 16777216 ∧ n % 32 = 0)

/-- The bytes of a pattern repeated. -/
def patternBytes (v : W64) (n : Nat) : List Byte :=
  let p := leBytes 8 v.toNat
  (List.range n).map (fun i => nth 0 p (i % 8))

/-- SLOT.FILL: AA and SK are unused. -/
def execSlotFill (i : Issue) (s : State) : Out :=
  issueOp "SLOT_FILL" 6 0x10
    (fun w => zero w 44 42 && specOk (fV w) && decide (fDk w ≤ 1) && zero w 28 0)
    (fun w => [fAd w, fSnS w, fV w]) i s fun c s =>
    let n := (xreg s c.t c.th (fSnS c.w)).toNat
    let a := (xreg s c.t c.th (fAd c.w)).toNat
    if fillCountOk n = false then .fault 2
    else if badRange s c.t a n then .fault 3
    else if a % 32 ≠ 0 then .fault 5
    else
      let uses := rangeUses a n (if fDk c.w = 1 then .produce else .poke)
      withSlots c s uses fun s =>
        let k := c.task s
        settleTags (pokeBytes s c.t k a (patternBytes (xreg s c.t c.th (fV c.w)) n)) c.t k uses

/-- How SK of a copy treats its source (R185). -/
def skUse : Nat → Use
  | 0 => .look
  | 1 => .read
  | _ => .consume

/-- SLOT.COPY: V is unused; ranges that overlap fault with cause 0x02. -/
def execSlotCopy (i : Issue) (s : State) : Out :=
  issueOp "SLOT_COPY" 6 0x11
    (fun w => zero w 36 31 && decide (fDk w ≤ 1) && decide (fSk w ≤ 2) && zero w 26 0)
    (fun w => [fAd w, fAa w, fSnS w]) i s fun c s =>
    let n := (xreg s c.t c.th (fSnS c.w)).toNat
    let a := (xreg s c.t c.th (fAd c.w)).toNat
    let b := (xreg s c.t c.th (fAa c.w)).toNat
    if fillCountOk n = false then .fault 2
    else if badRange s c.t a n || badRange s c.t b n then .fault 3
    else if a % 32 ≠ 0 ∨ b % 32 ≠ 0 then .fault 5
    else if rangesOverlap a n b n then .fault 2
    else
      let uses := rangeUses a n (if fDk c.w = 1 then .produce else .poke) ++ rangeUses b n (skUse (fSk c.w))
      withSlots c s uses fun s =>
        let k := c.task s
        let e := spadEcc s c.t [(b, n)] c.ecc
        let bs := loadBytes e.2 c.t k e.1 b n
        settleTags (pokeBytes (spadEccNote e.2 c.t 5 e.1) c.t k a bs) c.t k uses

/-- The tag that SLOT.TAG gives a slot, by FN (R215). -/
def tagResult : Nat → Tag → Tag
  | 0, _ => .empty
  | 1, _ => .full
  | 2, .full => .retained
  | 2, g => g
  | _, .retained => .full
  | _, g => g

/-- Set the tags of slots, each once. -/
def retagSlots (fn : Nat) (t : Nat) (k : Option (Fin 4)) : List Nat → State → State
  | [], s => s
  | slot :: ss, s =>
    let s := if fn = 0 then unstrand s t k slot else s
    let g := tagAt s t k slot
    let g' := tagResult fn g
    retagSlots fn t k ss (if g' = g then s else setTag s t k slot g')

/-- A tag operation of function FN: a(AS) is a slot number, s(SN) the number of slots (R185). -/
def slotTagOp (mn : String) (fn : Nat) (i : Issue) (s : State) : Out :=
  if opDefined (fUnit i.word.toNat) (fOpc i.word.toNat) && fUnit i.word.toNat == 6 && fOpc i.word.toNat == 0x20 &&
      decide (bitsOf i.word.toNat 39 36 ≤ 3) && bitsOf i.word.toNat 39 36 != fn
  then .refused (.otherRow mn)
  else
    issueOp mn 6 0x20 (fun w => decide (bitsOf w 39 36 ≤ 3) && zero w 35 0)
      (fun w => [fAd w, bitsOf w 44 40]) i s fun c s =>
      let slot := (xreg s c.t c.th (fAd c.w)).toNat
      let n := (xreg s c.t c.th (bitsOf c.w 44 40)).toNat
      if n = 0 ∨ n > 32768 then .fault 2
      else if badRange s c.t (512 * slot) (512 * n) then .fault 3
      else
        let k := c.task s
        let ss := rangeFrom slot n
        let uses := (ss.filter (fun x => tagResult fn (tagAt s c.t k x) != tagAt s c.t k x)).map (fun x => (x, Use.poke))
        withSlots c s uses fun s => retagSlots fn c.t k ss s

/-- SLOT.TAG FN 0x0: set empty. -/
def execSlotTagEmpty (i : Issue) (s : State) : Out := slotTagOp "SLOT_TAG_EMPTY" 0 i s
/-- SLOT.TAG FN 0x1: set full. -/
def execSlotTagFull (i : Issue) (s : State) : Out := slotTagOp "SLOT_TAG_FULL" 1 i s
/-- SLOT.TAG FN 0x2: full to retained; a slot that becomes RETAINED sets SPAD_RET_EPOCH (R220). -/
def execSlotTagRetain (i : Issue) (s : State) : Out := slotTagOp "SLOT_TAG_RETAIN" 2 i s
/-- SLOT.TAG FN 0x3: retained to full. -/
def execSlotTagRelease (i : Issue) (s : State) : Out := slotTagOp "SLOT_TAG_RELEASE" 3 i s

/-- The code of a tag state (R214). -/
def tagCode : Tag → Nat
  | .empty => 0
  | .full => 1
  | .retained => 2

/-- SLOT.TEST: D = tag state code of slot a(AS), without waiting. -/
def execSlotTest (i : Issue) (s : State) : Out :=
  issueOp "SLOT_TEST" 6 0x21 (fun w => specOk (fD w) && zero w 38 0) (fun w => [32 + bitsOf w 41 39]) i s fun c s =>
    let slot := (xreg s c.t c.th (32 + bitsOf c.w 41 39)).toNat
    if badRange s c.t (512 * slot) 512 then .fault 3
    else .done (setXreg s c.t c.th (fD c.w) (BitVec.ofNat 64 (tagCode (tagAt s c.t (c.task s) slot))))

/-- A scratchpad request that has waited 16 cycles rises to class 0: SPAD_AGE_CNT (R222). -/
def execSpadAgePromote (tile : Fin 288) (now : Nat) (s : State) : Out :=
  .next (inc (tick s now) (tilePg tile 5 + 0x144))

end Sys2Proof.Machine
end

