-- ==== Sys2Proof/Machine/Dispatch.lean ====
section
/-!
DEFINITION. One arm per command: exec c s is the command's effect on everything but the queue.
-/
namespace Sys2Proof.Machine

def exec (i : Instr) (s : State) : Host.Outcome State Fault Refusal :=
  match i with
  | .regWrite r => Sys2Proof.Machine.execRegWrite r s
  | .malformedAccess who off width wr_ now => Sys2Proof.Machine.execMalformedAccess who off width wr_ now s
  | .loReadLatch r => Sys2Proof.Machine.execLoReadLatch r s
  | .intStatW1c r coincident => Sys2Proof.Machine.execIntStatW1c r coincident s
  | .errClr r coincident => Sys2Proof.Machine.execErrClr r coincident s
  | .cntClr r coincident => Sys2Proof.Machine.execCntClr r coincident s
  | .sthPush o => Sys2Proof.Machine.execSthPush o s
  | .sthSegtabRead slice lane ecc now => Sys2Proof.Machine.execSthSegtabRead slice lane ecc now s
  | .sthSpillDone slice lane now => Sys2Proof.Machine.execSthSpillDone slice lane now s
  | .sthRecordValid slice lane now => Sys2Proof.Machine.execSthRecordValid slice lane now s
  | .sthPop o => Sys2Proof.Machine.execSthPop o s
  | .sthPopDiscard o => Sys2Proof.Machine.execSthPopDiscard o s
  | .sthRefillStart slice lane now => Sys2Proof.Machine.execSthRefillStart slice lane now s
  | .sthRefillDone slice lane now => Sys2Proof.Machine.execSthRefillDone slice lane now s
  | .sthWait tile thr now => Sys2Proof.Machine.execSthWait tile thr now s
  | .sthClear r => Sys2Proof.Machine.execSthClear r s
  | .anvPass o => Sys2Proof.Machine.execAnvPass o s
  | .coalTimeout tile group now => Sys2Proof.Machine.execCoalTimeout tile group now s
  | .anvCoalCfgWrite r => Sys2Proof.Machine.execAnvCoalCfgWrite r s
  | .passDispatch tile index now => Sys2Proof.Machine.execPassDispatch tile index now s
  | .anvChunkLoad tile anvil fault ecc now => Sys2Proof.Machine.execAnvChunkLoad tile anvil fault ecc now s
  | .anvChunkLaunch tile anvil feedStalls loadStalls ecc now => Sys2Proof.Machine.execAnvChunkLaunch tile anvil feedStalls loadStalls ecc now s
  | .anvOutput tile anvil fault now => Sys2Proof.Machine.execAnvOutput tile anvil fault now s
  | .nop o => Sys2Proof.Machine.execNop o s
  | .add o => Sys2Proof.Machine.execAdd o s
  | .sub o => Sys2Proof.Machine.execSub o s
  | .mul o => Sys2Proof.Machine.execMul o s
  | .and o => Sys2Proof.Machine.execAnd o s
  | .or o => Sys2Proof.Machine.execOr o s
  | .xor o => Sys2Proof.Machine.execXor o s
  | .shl o => Sys2Proof.Machine.execShl o s
  | .shr o => Sys2Proof.Machine.execShr o s
  | .sra o => Sys2Proof.Machine.execSra o s
  | .minu o => Sys2Proof.Machine.execMinu o s
  | .maxu o => Sys2Proof.Machine.execMaxu o s
  | .mins o => Sys2Proof.Machine.execMins o s
  | .maxs o => Sys2Proof.Machine.execMaxs o s
  | .addi o => Sys2Proof.Machine.execAddi o s
  | .li o => Sys2Proof.Machine.execLi o s
  | .lih o => Sys2Proof.Machine.execLih o s
  | .andi o => Sys2Proof.Machine.execAndi o s
  | .ori o => Sys2Proof.Machine.execOri o s
  | .shli o => Sys2Proof.Machine.execShli o s
  | .shri o => Sys2Proof.Machine.execShri o s
  | .cmp o => Sys2Proof.Machine.execCmp o s
  | .cmpi o => Sys2Proof.Machine.execCmpi o s
  | .plog o => Sys2Proof.Machine.execPlog o s
  | .bra o => Sys2Proof.Machine.execBra o s
  | .jr o => Sys2Proof.Machine.execJr o s
  | .call o => Sys2Proof.Machine.execCall o s
  | .rdtime o => Sys2Proof.Machine.execRdtime o s
  | .rdstep o => Sys2Proof.Machine.execRdstep o s
  | .rdid o => Sys2Proof.Machine.execRdid o s
  | .spkDraw o => Sys2Proof.Machine.execSpkDraw o s
  | .spkDrawi o => Sys2Proof.Machine.execSpkDrawi o s
  | .ld o => Sys2Proof.Machine.execLd o s
  | .st o => Sys2Proof.Machine.execSt o s
  | .slotFill o => Sys2Proof.Machine.execSlotFill o s
  | .slotCopy o => Sys2Proof.Machine.execSlotCopy o s
  | .slotTagEmpty o => Sys2Proof.Machine.execSlotTagEmpty o s
  | .slotTagFull o => Sys2Proof.Machine.execSlotTagFull o s
  | .slotTagRetain o => Sys2Proof.Machine.execSlotTagRetain o s
  | .slotTagRelease o => Sys2Proof.Machine.execSlotTagRelease o s
  | .slotTest o => Sys2Proof.Machine.execSlotTest o s
  | .spadAgePromote tile now => Sys2Proof.Machine.execSpadAgePromote tile now s
  | .vadd o => Sys2Proof.Machine.execVadd o s
  | .vsub o => Sys2Proof.Machine.execVsub o s
  | .vmul o => Sys2Proof.Machine.execVmul o s
  | .vmax o => Sys2Proof.Machine.execVmax o s
  | .vmin o => Sys2Proof.Machine.execVmin o s
  | .vabs o => Sys2Proof.Machine.execVabs o s
  | .vfma o => Sys2Proof.Machine.execVfma o s
  | .vscale o => Sys2Proof.Machine.execVscale o s
  | .vcvt o => Sys2Proof.Machine.execVcvt o s
  | .vrsum o => Sys2Proof.Machine.execVrsum o s
  | .vrmax o => Sys2Proof.Machine.execVrmax o s
  | .vdot o => Sys2Proof.Machine.execVdot o s
  | .vdact o => Sys2Proof.Machine.execVdact o s
  | .vdsmax o => Sys2Proof.Machine.execVdsmax o s
  | .vdnorm o => Sys2Proof.Machine.execVdnorm o s
  | .vzmap o => Sys2Proof.Machine.execVzmap o s
  | .vroute o => Sys2Proof.Machine.execVroute o s
  | .optStep o => Sys2Proof.Machine.execOptStep o s
  | .sfuFn o => Sys2Proof.Machine.execSfuFn o s
  | .sfuDact o => Sys2Proof.Machine.execSfuDact o s
  | .sfuFns o => Sys2Proof.Machine.execSfuFns o s
  | .streamIn o => Sys2Proof.Machine.execStreamIn o s
  | .prefetch o => Sys2Proof.Machine.execPrefetch o s
  | .writeBack o => Sys2Proof.Machine.execWriteBack o s
  | .gather o => Sys2Proof.Machine.execGather o s
  | .drain o => Sys2Proof.Machine.execDrain o s
  | .prefetchFence o => Sys2Proof.Machine.execPrefetchFence o s
  | .blwRequestIssue tile desc ecc now => Sys2Proof.Machine.execBlwRequestIssue tile desc ecc now s
  | .blwRequestComplete tile req now => Sys2Proof.Machine.execBlwRequestComplete tile req now s
  | .prefetchInvalidate tile entry now => Sys2Proof.Machine.execPrefetchInvalidate tile entry now s
  | .hbmWindowStart now => Sys2Proof.Machine.execHbmWindowStart now s
  | .hbmOpArrive op now => Sys2Proof.Machine.execHbmOpArrive op now s
  | .hbmOpAdmit op ecc now => Sys2Proof.Machine.execHbmOpAdmit op ecc now s
  | .hbmBurstSlot ctl pc ecc now => Sys2Proof.Machine.execHbmBurstSlot ctl pc ecc now s
  | .hbmRefresh ctl pc bank now => Sys2Proof.Machine.execHbmRefresh ctl pc bank now s
  | .hbmAgePromote op now => Sys2Proof.Machine.execHbmAgePromote op now s
  | .patrolScrub ctl sector ecc now => Sys2Proof.Machine.execPatrolScrub ctl sector ecc now s
  | .sorterGatherRelease tile now => Sys2Proof.Machine.execSorterGatherRelease tile now s
  | .sorterHold tile desc now => Sys2Proof.Machine.execSorterHold tile desc now s
  | .hbmThermalRead ctl temp now => Sys2Proof.Machine.execHbmThermalRead ctl temp now s
  | .hbmTrackMove ctl now => Sys2Proof.Machine.execHbmTrackMove ctl now s
  | .hbmRetrainDone ctl outcome now => Sys2Proof.Machine.execHbmRetrainDone ctl outcome now s
  | .tierMap r => Sys2Proof.Machine.execTierMap r s
  | .tierUnmap r => Sys2Proof.Machine.execTierUnmap r s
  | .tierMigrate r => Sys2Proof.Machine.execTierMigrate r s
  | .tierHint r => Sys2Proof.Machine.execTierHint r s
  | .migrationDone part page now => Sys2Proof.Machine.execMigrationDone part page now s
  | .xlatMissFill part page now => Sys2Proof.Machine.execXlatMissFill part page now s
  | .flashUnitRead unit ecc now => Sys2Proof.Machine.execFlashUnitRead unit ecc now s
  | .ftlCheckpoint now => Sys2Proof.Machine.execFtlCheckpoint now s
  | .ftlRelocation block now => Sys2Proof.Machine.execFtlRelocation block now s
  | .ftlBlockRetire block now => Sys2Proof.Machine.execFtlBlockRetire block now s
  | .tngPut o => Sys2Proof.Machine.execTngPut o s
  | .tngGet o => Sys2Proof.Machine.execTngGet o s
  | .tngPutadd o => Sys2Proof.Machine.execTngPutadd o s
  | .tngFadd o => Sys2Proof.Machine.execTngFadd o s
  | .tngFand o => Sys2Proof.Machine.execTngFand o s
  | .tngCas o => Sys2Proof.Machine.execTngCas o s
  | .tngNotify o => Sys2Proof.Machine.execTngNotify o s
  | .tngDispatch o => Sys2Proof.Machine.execTngDispatch o s
  | .tngRequestIssue tile op ecc now => Sys2Proof.Machine.execTngRequestIssue tile op ecc now s
  | .tngRequestArrive port p ecc now => Sys2Proof.Machine.execTngRequestArrive port p ecc now s
  | .tngResponseArrive p stamp now => Sys2Proof.Machine.execTngResponseArrive p stamp now s
  | .tngTimeout tile tag now => Sys2Proof.Machine.execTngTimeout tile tag now s
  | .fence o => Sys2Proof.Machine.execFence o s
  | .barrier o => Sys2Proof.Machine.execBarrier o s
  | .taskBegin o => Sys2Proof.Machine.execTaskBegin o s
  | .taskJoin o => Sys2Proof.Machine.execTaskJoin o s
  | .taskCommit o => Sys2Proof.Machine.execTaskCommit o s
  | .taskDiscard o => Sys2Proof.Machine.execTaskDiscard o s
  | .taskCommitApply tile task now => Sys2Proof.Machine.execTaskCommitApply tile task now s
  | .taskDiscardApply tile task now => Sys2Proof.Machine.execTaskDiscardApply tile task now s
  | .qchOpen o => Sys2Proof.Machine.execQchOpen o s
  | .qchVote o => Sys2Proof.Machine.execQchVote o s
  | .qchRaise o => Sys2Proof.Machine.execQchRaise o s
  | .qchCtlRaise r => Sys2Proof.Machine.execQchCtlRaise r s
  | .qchLayer o => Sys2Proof.Machine.execQchLayer o s
  | .qchArm r => Sys2Proof.Machine.execQchArm r s
  | .isoClr r => Sys2Proof.Machine.execIsoClr r s
  | .qchMemberCntWrite r => Sys2Proof.Machine.execQchMemberCntWrite r s
  | .memberCrcDone slice ecc now => Sys2Proof.Machine.execMemberCrcDone slice ecc now s
  | .groupVoteArrive slice record operand now => Sys2Proof.Machine.execGroupVoteArrive slice record operand now s
  | .leaderTimeout slice record now => Sys2Proof.Machine.execLeaderTimeout slice record now s
  | .rootResultArrive slice record group word now => Sys2Proof.Machine.execRootResultArrive slice record group word now s
  | .rootTimeout slice record now => Sys2Proof.Machine.execRootTimeout slice record now s
  | .outcomeArrive slice word now => Sys2Proof.Machine.execOutcomeArrive slice word now s
  | .isolationTimeout slice now => Sys2Proof.Machine.execIsolationTimeout slice now s
  | .tmpClose o => Sys2Proof.Machine.execTmpClose o s
  | .hrtHint o => Sys2Proof.Machine.execHrtHint o s
  | .halt o => Sys2Proof.Machine.execHalt o s
  | .tileThrStart r => Sys2Proof.Machine.execTileThrStart r s
  | .tileThrClr r => Sys2Proof.Machine.execTileThrClr r s
  | .tileReset tile now => Sys2Proof.Machine.execTileReset tile now s
  | .tileResetTest tile now => Sys2Proof.Machine.execTileResetTest tile now s
  | .tileResetDone tile testPassed now => Sys2Proof.Machine.execTileResetDone tile testPassed now s
  | .haltAll r => Sys2Proof.Machine.execHaltAll r s
  | .tileWatchdog tile thr now => Sys2Proof.Machine.execTileWatchdog tile thr now s
  | .spareSwap failed spare testPassed now => Sys2Proof.Machine.execSpareSwap failed spare testPassed now s
  | .ringPoll slice ring now => Sys2Proof.Machine.execRingPoll slice ring now s
  | .ringTailRead slice ring now => Sys2Proof.Machine.execRingTailRead slice ring now s
  | .ringBurstArrive slice ring now => Sys2Proof.Machine.execRingBurstArrive slice ring now s
  | .ringNop slice ring now => Sys2Proof.Machine.execRingNop slice ring now s
  | .ringStart slice ring now => Sys2Proof.Machine.execRingStart slice ring now s
  | .ringXfer slice ring now => Sys2Proof.Machine.execRingXfer slice ring now s
  | .ringWrite slice ring now => Sys2Proof.Machine.execRingWrite slice ring now s
  | .ringWaitWord slice ring now => Sys2Proof.Machine.execRingWaitWord slice ring now s
  | .ringWaitIdle slice ring now => Sys2Proof.Machine.execRingWaitIdle slice ring now s
  | .waitWordRead slice ring now => Sys2Proof.Machine.execWaitWordRead slice ring now s
  | .waitWordTimeout slice ring now => Sys2Proof.Machine.execWaitWordTimeout slice ring now s
  | .ringEnWrite r => Sys2Proof.Machine.execRingEnWrite r s
  | .ringResume r => Sys2Proof.Machine.execRingResume r s
  | .spadCrcGo r => Sys2Proof.Machine.execSpadCrcGo r s
  | .spadCrcDone tile ecc now => Sys2Proof.Machine.execSpadCrcDone tile ecc now s
  | .spadDbgRead r ecc => Sys2Proof.Machine.execSpadDbgRead r ecc s
  | .spadDbgWrite r => Sys2Proof.Machine.execSpadDbgWrite r s
  | .flitSend port now => Sys2Proof.Machine.execFlitSend port now s
  | .flitReceive port flit intact now => Sys2Proof.Machine.execFlitReceive port flit intact now s
  | .laneSignalLoss port lane now => Sys2Proof.Machine.execLaneSignalLoss port lane now s
  | .laneErrorWindow port errors now => Sys2Proof.Machine.execLaneErrorWindow port errors now s
  | .linkPacket port lane switchFlit now => Sys2Proof.Machine.execLinkPacket port lane switchFlit now s
  | .linkTrainDone port trained peerMod peerPort now => Sys2Proof.Machine.execLinkTrainDone port trained peerMod peerPort now s
  | .lnkEnWrite r => Sys2Proof.Machine.execLnkEnWrite r s
  | .lnkRetrain r => Sys2Proof.Machine.execLnkRetrain r s
  | .routeHoldExpire now => Sys2Proof.Machine.execRouteHoldExpire now s
  | .syncSend port now => Sys2Proof.Machine.execSyncSend port now s
  | .syncReceive port root hops t1 t2 t3 t4 now => Sys2Proof.Machine.execSyncReceive port root hops t1 t2 t3 t4 now s
  | .ftmHoldoverExpire now => Sys2Proof.Machine.execFtmHoldoverExpire now s
  | .ftmSet r => Sys2Proof.Machine.execFtmSet r s
  | .refclkLoss now => Sys2Proof.Machine.execRefclkLoss now s
  | .refclkValid now => Sys2Proof.Machine.execRefclkValid now s
  | .partitionCreate r => Sys2Proof.Machine.execPartitionCreate r s
  | .partitionDestroy r => Sys2Proof.Machine.execPartitionDestroy r s
  | .partitionReset r => Sys2Proof.Machine.execPartitionReset r s
  | .build slice trigger now => Sys2Proof.Machine.execBuild slice trigger now s
  | .buildDone slice now => Sys2Proof.Machine.execBuildDone slice now s
  | .billetImageDone slice now => Sys2Proof.Machine.execBilletImageDone slice now s
  | .billetMirrorDone slice fail now => Sys2Proof.Machine.execBilletMirrorDone slice fail now s
  | .billetParityStart slice fail data now => Sys2Proof.Machine.execBilletParityStart slice fail data now s
  | .billetSeal slice fail now => Sys2Proof.Machine.execBilletSeal slice fail now s
  | .bltDeadlineExpire slice now => Sys2Proof.Machine.execBltDeadlineExpire slice now s
  | .bltAbort r => Sys2Proof.Machine.execBltAbort r s
  | .trickleDone slice now => Sys2Proof.Machine.execTrickleDone slice now s
  | .restoreGo r => Sys2Proof.Machine.execRestoreGo r s
  | .restoreDone slice fail rebuilt manifest now => Sys2Proof.Machine.execRestoreDone slice fail rebuilt manifest now s
  | .digestGo r => Sys2Proof.Machine.execDigestGo r s
  | .digestDone slice now => Sys2Proof.Machine.execDigestDone slice now s
  | .powerEstimate sample now => Sys2Proof.Machine.execPowerEstimate sample now s
  | .opTransitionDone die now => Sys2Proof.Machine.execOpTransitionDone die now s
  | .hintBoostEnd die now => Sys2Proof.Machine.execHintBoostEnd die now s
  | .estimatorCorrection measW now => Sys2Proof.Machine.execEstimatorCorrection measW now s
  | .thermalLoop die temps inlet outlet now => Sys2Proof.Machine.execThermalLoop die temps inlet outlet now s
  | .capRequest r => Sys2Proof.Machine.execCapRequest r s
  | .droopDetect tile now => Sys2Proof.Machine.execDroopDetect tile now s
  | .droopRecover tile cycles now => Sys2Proof.Machine.execDroopRecover tile cycles now s
  | .droopLocal tile now => Sys2Proof.Machine.execDroopLocal tile now s
  | .phaseFail rail now => Sys2Proof.Machine.execPhaseFail rail now s
  | .converterFail now => Sys2Proof.Machine.execConverterFail now s
  | .analogTrip rail now => Sys2Proof.Machine.execAnalogTrip rail now s
  | .coldStart vinMv now => Sys2Proof.Machine.execColdStart vinMv now s
  | .startupStageDone report now => Sys2Proof.Machine.execStartupStageDone report now s
  | .startupBoundExpire now => Sys2Proof.Machine.execStartupBoundExpire now s
  | .holdupCharged now => Sys2Proof.Machine.execHoldupCharged now s
  | .inputLoss now => Sys2Proof.Machine.execInputLoss now s
  | .holdupEnd now => Sys2Proof.Machine.execHoldupEnd now s
  | .inputOvervoltage now => Sys2Proof.Machine.execInputOvervoltage now s
  | .modEnFall now => Sys2Proof.Machine.execModEnFall now s
  | .modEnRise now => Sys2Proof.Machine.execModEnRise now s
  | .moduleReset r => Sys2Proof.Machine.execModuleReset r s
  | .calRecordCheck temps meanPowerW now => Sys2Proof.Machine.execCalRecordCheck temps meanPowerW now s
  | .calWindow part now => Sys2Proof.Machine.execCalWindow part now s
  | .calStackRelease part short now => Sys2Proof.Machine.execCalStackRelease part short now s
  | .calWindowClose part temps monitors now => Sys2Proof.Machine.execCalWindowClose part temps monitors now s
  | .serdesLaneRecal port lane temp now => Sys2Proof.Machine.execSerdesLaneRecal port lane temp now s
  | .calForce r => Sys2Proof.Machine.execCalForce r s
  | .lockstepMismatch now => Sys2Proof.Machine.execLockstepMismatch now s
  | .spRestartDone now => Sys2Proof.Machine.execSpRestartDone now s
  | .updateGo r => Sys2Proof.Machine.execUpdateGo r s
  | .pldmFwUpdate bundle now => Sys2Proof.Machine.execPldmFwUpdate bundle now s
  | .hearthWatchdog now => Sys2Proof.Machine.execHearthWatchdog now s
  | .trialExpire now => Sys2Proof.Machine.execTrialExpire now s
  | .updateCommit r => Sys2Proof.Machine.execUpdateCommit r s
  | .updateAbort r => Sys2Proof.Machine.execUpdateAbort r s
  | .enroll key serial sig now => Sys2Proof.Machine.execEnroll key serial sig now s
  | .setPolicy section_ now => Sys2Proof.Machine.execSetPolicy section_ now s
  | .getEvidence nonce now => Sys2Proof.Machine.execGetEvidence nonce now s
  | .getCerts now => Sys2Proof.Machine.execGetCerts now s
  | .logRead seq count now => Sys2Proof.Machine.execLogRead seq count now s
  | .attGo r => Sys2Proof.Machine.execAttGo r s
  | .attExtend r => Sys2Proof.Machine.execAttExtend r s
  | .attCerts r => Sys2Proof.Machine.execAttCerts r s
  | .pldmSensorRead sensor now => Sys2Proof.Machine.execPldmSensorRead sensor now s
  | .pldmSetCap watts now => Sys2Proof.Machine.execPldmSetCap watts now s
  | .pldmModuleReset now => Sys2Proof.Machine.execPldmModuleReset now s
  | .pollEvent now => Sys2Proof.Machine.execPollEvent now s
  | .setEndpointId eid now => Sys2Proof.Machine.execSetEndpointId eid now s
  | .faultInjArm r => Sys2Proof.Machine.execFaultInjArm r s
  | .inputBackInRange vinMv now => Sys2Proof.Machine.execInputBackInRange vinMv now s
  | .partitionRequestDone now => Sys2Proof.Machine.execPartitionRequestDone now s
  | .staticWearLevelling block now => Sys2Proof.Machine.execStaticWearLevelling block now s

end Sys2Proof.Machine
end

