-- ==== Sys2Proof/Safety.lean ====
section
/-!
DEFINITION. The terms in which statements speak of the machine: when a thread's next operation takes effect, what an operation leaves
unchanged outside its thread, and the canonical form of the machine's memories.
-/
namespace Sys2Proof

open Machine

/-- The operation word as a number. -/
abbrev Issue.w (i : Issue) : Nat := i.word.toNat

/-- The issuing thread. -/
abbrev Issue.thread (i : Issue) (s : State) : Thread := thrOf s i.tile.val i.thr.val

/-- The task of the issuing thread. -/
abbrev Issue.task (i : Issue) (s : State) : Option (Fin 4) := (i.thread s).task

/-- A register of the issuing thread, by specifier (07_tile_operations.md R179). -/
abbrev Issue.reg (i : Issue) (s : State) (r : Nat) : W64 := xreg s i.tile.val i.thr.val r

/-- A predicate of the issuing thread. -/
abbrev Issue.pred (i : Issue) (s : State) (p : Nat) : Bool := preg s i.tile.val i.thr.val p

/-- The operation at issue, as its meaning sees it. -/
abbrev Issue.ctx (i : Issue) : OpCtx := { t := i.tile.val, th := i.thr.val, w := i.word.toNat, ecc := i.ecc }

/-- The state in which an operation of the thread has its effect: fabric time has reached the command's. -/
abbrev Issue.here (i : Issue) (s : State) : State := tick s i.now

/-- The operation retires on a state: counted, the PC one operation further (R154). -/
abbrev Issue.retired (i : Issue) (s t : State) : State := retire t i.tile.val i.thr.val ((i.thread s).pc.toNat + 8)

namespace Machine

/-- The thread's next operation is the one of UNIT u and opcode o in the command's word, and it issues and takes effect: the thread
is RUNNABLE, its PC is a multiple of 8 in the code region, no reserved bit or value is set, no result is pending on a register that it
reads or writes, and its guard holds (R177, R178, R181, 06_tiles_and_threads.md R154, R157). -/
structure Ready (u o : Nat) (legal : Nat → Bool) (regs : Nat → List Nat) (i : Issue) (s : State) : Prop where
  unit     : fUnit i.w = u
  opcode   : fOpc i.w = o
  runnable : (i.thread s).st = .runnable
  pcOk     : pcFault s i.tile.val (i.thread s).pc.toNat = none
  fields   : legal i.w = true
  guardBits : fPen i.w = true ∨ bitsOf i.w 51 49 = 0
  regsFree : regsReady s i.tile.val i.thr.val (regs i.w) = true
  guard    : guardOk s i.tile.val i.thr.val i.w = true

/-- The window offset of the low word of TILE_ISSUE_CNT. -/
def issueCnt (t : Nat) : Nat := tilePg t 0 + 0x138

/-- Nothing but one thread of a tile and the tile's issue counter differs between two states: other threads, scratchpad bytes, tags,
claims, tasks, barriers, pending results, every other register of the window, memory and every other unit are the same. -/
structure OnlyThread (t th : Nat) (s s' : State) : Prop where
  threads  : ∀ k, k ≠ thKey t th → cGet (fun _ => ({} : Thread)) s'.tl.thr k = cGet (fun _ => {}) s.tl.thr k
  regs     : ∀ k, k / 64 ≠ thKey t th → cGet (fun _ => (0 : W64)) s'.tl.xr k = cGet (fun _ => 0) s.tl.xr k
  preds    : ∀ k, k / 4 ≠ thKey t th → cGet (fun _ => false) s'.tl.pr k = cGet (fun _ => false) s.tl.pr k
  tiles    : s'.tl = { s.tl with thr := s'.tl.thr, xr := s'.tl.xr, pr := s'.tl.pr }
  window   : ∀ o, o ≠ issueCnt t → o ≠ issueCnt t + 4 → rdW s' o = rdW s o
  others   : s' = { s with tl := s'.tl, win := { s.win with regs := s'.win.regs }, time := s'.time }

/-- The canonical form of the memories, of the thread list and of the register window (MEMORY: keys rise, nothing listed that an unlisted key reads as). -/
structure MemoryOk (s : State) : Prop where
  hbm    : cWf (fun _ => 0) s.mem.hbm = true
  host   : cWf (fun _ => 0) s.mem.host = true
  flash  : cWf (fun _ => 0) s.mem.flash = true
  billet : cWf (fun _ => 0) s.mem.billet = true
  spad   : cWf (fun _ => 0) s.tl.spad = true
  threads : cWf (fun _ => ({} : Thread)) s.tl.thr = true
  window : cWf regReset s.win.regs = true

end Machine

end Sys2Proof
end

