-- ==== Sys2Proof/WellFormed.lean ====
section
/-!
DEFINITION. Well-formed commands: the checks that make a command one of its own row. An operation word names the row's operation (its
descriptor, where the row is one of BLW.DESC, stands in scratchpad and is checked there); a register access names the row's register
and the bit that starts its action; a list has the length that its rule gives; a packet has the bytes that it announces. Operand
values that the spec calls reserved are well-formed: the machine gives them the outcome that the spec names (07_tile_operations.md
R181, 00_scope.md R10).
-/
namespace Sys2Proof

open Machine

/-- The word names the operation of UNIT u and opcode o (R177). -/
def isOp (u o : Nat) (i : Issue) : Bool := fUnit i.word.toNat == u && fOpc i.word.toNat == o

/-- The operation is SLOT.TAG with FN fn (R185); a reserved FN stands under FN 0. -/
def isTagOp (fn : Nat) (i : Issue) : Bool :=
  isOp 6 0x20 i && (bitsOf i.word.toNat 39 36 == fn || (fn == 0 && decide (3 < bitsOf i.word.toNat 39 36)))

/-- The operation is STH.POP, discarding or not (02_segments_and_stash.md R32). -/
def isPop (discard : Bool) (i : Issue) : Bool := isOp 4 0x11 i && (i.word.toNat.testBit 18 == discard)

/-- A write of a register by its window offset, with a bit set. -/
def writesBit (r : RegWrite) (off n : Nat) : Bool := r.off.toNat == off && r.val.toNat.testBit n

/-- A write of a register of a page type by its page offset. -/
def writesPage (r : RegWrite) (k : PageKind) (o : Nat) : Bool :=
  match pageAt r.off.toNat with
  | some p => p.kind == k && r.off.toNat % 4096 == o
  | none => false

/-- The same with a bit set. -/
def writesPageBit (r : RegWrite) (k : PageKind) (o n : Nat) : Bool := writesPage r k o && r.val.toNat.testBit n

/-- A write of a ring's control register (07_tile_operations.md R211). -/
def writesRing (r : RegWrite) : Bool := (List.range 4).any (fun n => writesPage r .ring (0x100 + 0x40 * n))

/-- A write of GO of TIER_CMD with an OP (11_tiers_and_pool.md R285, R298); a reserved OP stands under OP 1. -/
def tierCmd (r : RegWrite) (op : Nat) : Bool :=
  writesPageBit r .tier 0x12C 31 &&
    (bitsOf r.val.toNat 3 0 == op || (op == 1 && (bitsOf r.val.toNat 3 0 == 0 || decide (4 < bitsOf r.val.toNat 3 0))))

/-- A write of GO of SP_PREQ_CTL whose OP is one of a row's (14_jobs_partitions_serving.md R352). -/
def partCmd (r : RegWrite) (named : Nat → Bool) : Bool := writesBit r (partPg + 0x100) 31 && named (bitsOf r.val.toNat 2 0)

/-- A CNT_CLR bit is written (19_register_map.md R477). -/
def clearsCounters (r : RegWrite) : Bool :=
  match pageAt r.off.toNat with
  | some p => (match cntClrBit p.kind (r.off.toNat % 4096) with
    | some b => r.val.toNat.testBit b
    | none => false)
  | none => false

/-- A packet carries the bytes that its operation moves (13_mboano_link_fabric_time.md R327). -/
def reqPktOk (p : ReqPkt) : Bool :=
  match p.opc with
  | .put | .putadd => decide (1 ≤ p.len ∧ p.len ≤ 2048) && p.data.length == p.len
  | .get => decide (1 ≤ p.len ∧ p.len ≤ 2048) && p.data.isEmpty
  | .cas => p.data.length == 16
  | _ => p.data.length == 8

/-- A sensor or a list of a die's tiles has 72 readings, of a port's lanes 9. -/
def readings (n : Nat) (l : List Nat) : Bool := l.length == n

/-- A flit's packets are well-formed. -/
def flitOk (f : Flit) : Bool :=
  f.pkts.all (fun p => match p with
    | .req _ _ p => reqPktOk p
    | _ => true)

/-- The well-formed commands. -/
def wellFormed : Instr → Bool
  | .regWrite r => decide (r.off.toNat % 4 = 0)
  | .malformedAccess _ off width _ _ => decide (width ≠ 4 ∨ off.toNat % 4 ≠ 0)
  | .loReadLatch r => decide (r.off.toNat % 4 = 0) && (tileReg r.off.toNat .spad 0x120).isNone
  | .intStatW1c r _ => (pageAt r.off.toNat).isSome && decide (r.off.toNat % 4096 = hIntStat)
  | .errClr r _ => (pageAt r.off.toNat).isSome && decide (r.off.toNat % 4096 = hCtl) && r.val.toNat.testBit 0
  | .cntClr r _ => clearsCounters r
  | .sthPush i => isOp 4 0x10 i
  | .sthSegtabRead _ _ _ _ => true
  | .sthSpillDone _ _ _ => true
  | .sthRecordValid _ _ _ => true
  | .sthPop i => isPop false i
  | .sthPopDiscard i => isPop true i
  | .sthRefillStart _ _ _ => true
  | .sthRefillDone _ _ _ => true
  | .sthWait _ _ _ => true
  | .sthClear r => writesPageBit r .sth 0x100 1
  | .anvPass i => isOp 3 0x01 i
  | .coalTimeout _ _ _ => true
  | .anvCoalCfgWrite r => writesPage r .anv 0x180
  | .passDispatch _ _ _ => true
  | .anvChunkLoad _ _ _ _ _ => true
  | .anvChunkLaunch _ _ _ _ _ _ => true
  | .anvOutput _ _ _ _ => true
  | .nop i => isOp 0 0x00 i
  | .add i => isOp 0 0x01 i
  | .sub i => isOp 0 0x02 i
  | .mul i => isOp 0 0x03 i
  | .and i => isOp 0 0x04 i
  | .or i => isOp 0 0x05 i
  | .xor i => isOp 0 0x06 i
  | .shl i => isOp 0 0x07 i
  | .shr i => isOp 0 0x08 i
  | .sra i => isOp 0 0x09 i
  | .minu i => isOp 0 0x0A i
  | .maxu i => isOp 0 0x0B i
  | .mins i => isOp 0 0x0C i
  | .maxs i => isOp 0 0x0D i
  | .addi i => isOp 0 0x11 i
  | .li i => isOp 0 0x12 i
  | .lih i => isOp 0 0x13 i
  | .andi i => isOp 0 0x14 i
  | .ori i => isOp 0 0x15 i
  | .shli i => isOp 0 0x16 i
  | .shri i => isOp 0 0x17 i
  | .cmp i => isOp 0 0x20 i
  | .cmpi i => isOp 0 0x21 i
  | .plog i => isOp 0 0x22 i
  | .bra i => isOp 0 0x30 i
  | .jr i => isOp 0 0x31 i
  | .call i => isOp 0 0x32 i
  | .rdtime i => isOp 0 0x40 i
  | .rdstep i => isOp 0 0x41 i
  | .rdid i => isOp 0 0x42 i
  | .spkDraw i => isOp 0 0x50 i
  | .spkDrawi i => isOp 0 0x51 i
  | .ld i => isOp 6 0x01 i
  | .st i => isOp 6 0x02 i
  | .slotFill i => isOp 6 0x10 i
  | .slotCopy i => isOp 6 0x11 i
  | .slotTagEmpty i => isTagOp 0 i
  | .slotTagFull i => isTagOp 1 i
  | .slotTagRetain i => isTagOp 2 i
  | .slotTagRelease i => isTagOp 3 i
  | .slotTest i => isOp 6 0x21 i
  | .spadAgePromote _ _ => true
  | .vadd i => isOp 1 0x01 i
  | .vsub i => isOp 1 0x02 i
  | .vmul i => isOp 1 0x03 i
  | .vmax i => isOp 1 0x04 i
  | .vmin i => isOp 1 0x05 i
  | .vabs i => isOp 1 0x06 i
  | .vfma i => isOp 1 0x07 i
  | .vscale i => isOp 1 0x08 i
  | .vcvt i => isOp 1 0x10 i
  | .vrsum i => isOp 1 0x18 i
  | .vrmax i => isOp 1 0x19 i
  | .vdot i => isOp 1 0x1A i
  | .vdact i => isOp 1 0x20 i
  | .vdsmax i => isOp 1 0x21 i
  | .vdnorm i => isOp 1 0x22 i
  | .vzmap i => isOp 1 0x28 i
  | .vroute i => isOp 1 0x30 i
  | .optStep i => isOp 1 0x38 i
  | .sfuFn i => isOp 2 0x01 i
  | .sfuDact i => isOp 2 0x02 i
  | .sfuFns i => isOp 2 0x03 i
  | .streamIn i => isOp 4 0x01 i
  | .prefetch i => isOp 4 0x01 i
  | .writeBack i => isOp 4 0x01 i
  | .gather i => isOp 4 0x01 i
  | .drain i => isOp 4 0x01 i
  | .prefetchFence i => isOp 4 0x02 i
  | .blwRequestIssue _ _ _ _ => true
  | .blwRequestComplete _ _ _ => true
  | .prefetchInvalidate _ _ _ => true
  | .hbmWindowStart _ => true
  | .hbmOpArrive _ _ => true
  | .hbmOpAdmit _ _ _ => true
  | .hbmBurstSlot _ _ _ _ => true
  | .hbmRefresh _ _ _ _ => true
  | .hbmAgePromote _ _ => true
  | .patrolScrub _ _ _ _ => true
  | .sorterGatherRelease _ _ => true
  | .sorterHold _ _ _ => true
  | .hbmThermalRead _ _ _ => true
  | .hbmTrackMove _ _ => true
  | .hbmRetrainDone _ _ _ => true
  | .tierMap r => tierCmd r 1
  | .tierUnmap r => tierCmd r 2
  | .tierMigrate r => tierCmd r 3
  | .tierHint r => tierCmd r 4
  | .migrationDone _ _ _ => true
  | .xlatMissFill _ _ _ => true
  | .flashUnitRead _ _ _ => true
  | .ftlCheckpoint _ => true
  | .ftlRelocation _ _ => true
  | .ftlBlockRetire _ _ => true
  | .tngPut i => isOp 5 0x01 i
  | .tngGet i => isOp 5 0x02 i
  | .tngPutadd i => isOp 5 0x03 i
  | .tngFadd i => isOp 5 0x10 i
  | .tngFand i => isOp 5 0x11 i
  | .tngCas i => isOp 5 0x12 i
  | .tngNotify i => isOp 5 0x20 i
  | .tngDispatch i => isOp 5 0x30 i
  | .tngRequestIssue _ _ _ _ => true
  | .tngRequestArrive _ p _ _ => reqPktOk p
  | .tngResponseArrive _ _ _ => true
  | .tngTimeout _ _ _ => true
  | .fence i => isOp 7 0x01 i
  | .barrier i => isOp 7 0x02 i
  | .taskBegin i => isOp 7 0x10 i
  | .taskJoin i => isOp 7 0x11 i
  | .taskCommit i => isOp 7 0x12 i
  | .taskDiscard i => isOp 7 0x13 i
  | .taskCommitApply _ _ _ => true
  | .taskDiscardApply _ _ _ => true
  | .qchOpen i => isOp 7 0x20 i
  | .qchVote i => isOp 7 0x21 i
  | .qchRaise i => isOp 7 0x22 i
  | .qchCtlRaise r => isQuench r.off.toNat 0x100 && r.val.toNat.testBit 1
  | .qchLayer i => isOp 7 0x23 i
  | .qchArm r => isQuench r.off.toNat 0x100
  | .isoClr r => isQuench r.off.toNat 0x100 && r.val.toNat.testBit 3
  | .qchMemberCntWrite r => isQuench r.off.toNat 0x128 || isQuench r.off.toNat 0x124
  | .memberCrcDone _ _ _ => true
  | .groupVoteArrive _ _ _ _ => true
  | .leaderTimeout _ _ _ => true
  | .rootResultArrive _ _ _ _ _ => true
  | .rootTimeout _ _ _ => true
  | .outcomeArrive _ _ _ => true
  | .isolationTimeout _ _ => true
  | .tmpClose i => isOp 7 0x24 i
  | .hrtHint i => isOp 7 0x30 i
  | .halt i => isOp 7 0x3F i
  | .tileThrStart r => (tileReg r.off.toNat .tile1 0x510).isSome
  | .tileThrClr r => (tileReg r.off.toNat .tile1 0x514).isSome
  | .tileReset _ _ => true
  | .tileResetTest _ _ => true
  | .tileResetDone _ _ _ => true
  | .haltAll r => (tileReg r.off.toNat .tile0 0x100).isSome && r.val.toNat.testBit 2
  | .tileWatchdog _ _ _ => true
  | .spareSwap _ _ _ _ => true
  | .ringPoll _ _ _ => true
  | .ringTailRead _ _ _ => true
  | .ringBurstArrive _ _ _ => true
  | .ringNop _ _ _ => true
  | .ringStart _ _ _ => true
  | .ringXfer _ _ _ => true
  | .ringWrite _ _ _ => true
  | .ringWaitWord _ _ _ => true
  | .ringWaitIdle _ _ _ => true
  | .waitWordRead _ _ _ => true
  | .waitWordTimeout _ _ _ => true
  | .ringEnWrite r => writesRing r
  | .ringResume r => writesRing r && r.val.toNat.testBit 1
  | .spadCrcGo r => (tileReg r.off.toNat .spad 0x100).isSome && r.val.toNat.testBit 1
  | .spadCrcDone _ _ _ => true
  | .spadDbgRead r _ => (tileReg r.off.toNat .spad 0x120).isSome
  | .spadDbgWrite r => (tileReg r.off.toNat .spad 0x124).isSome
  | .flitSend _ _ => true
  | .flitReceive _ flit _ _ => flitOk flit
  | .laneSignalLoss _ _ _ => true
  | .laneErrorWindow _ errors _ => readings 9 errors
  | .linkPacket _ _ _ _ => true
  | .linkTrainDone _ _ _ _ _ => true
  | .lnkEnWrite r => (linkOf r.off.toNat).isSome
  | .lnkRetrain r => (linkOf r.off.toNat).isSome && r.val.toNat.testBit 1
  | .routeHoldExpire _ => true
  | .syncSend _ _ => true
  | .syncReceive _ _ _ _ _ _ _ _ => true
  | .ftmHoldoverExpire _ => true
  | .ftmSet r => writesBit r (ftmPg + 0x100) 2
  | .refclkLoss _ => true
  | .refclkValid _ => true
  | .partitionCreate r => partCmd r (fun o => o != 2 && o != 3)
  | .partitionDestroy r => partCmd r (fun o => o == 2)
  | .partitionReset r => partCmd r (fun o => o == 3)
  | .build _ _ _ => true
  | .buildDone _ _ => true
  | .billetImageDone _ _ => true
  | .billetMirrorDone _ _ _ => true
  | .billetParityStart _ _ _ _ => true
  | .billetSeal _ _ _ => true
  | .bltDeadlineExpire _ _ => true
  | .bltAbort r => isBltCtl r.off.toNat r.val.toNat 6
  | .trickleDone _ _ => true
  | .restoreGo r => isBltCtl r.off.toNat r.val.toNat 2
  | .restoreDone _ _ _ _ _ => true
  | .digestGo r => isBltCtl r.off.toNat r.val.toNat 5
  | .digestDone _ _ => true
  | .powerEstimate _ _ => true
  | .opTransitionDone _ _ => true
  | .hintBoostEnd _ _ => true
  | .estimatorCorrection _ _ => true
  | .thermalLoop _ temps _ _ _ => readings 72 temps
  | .capRequest r => writesBit r (hrtPg + 0x10C) 31
  | .droopDetect _ _ => true
  | .droopRecover _ _ _ => true
  | .droopLocal _ _ => true
  | .phaseFail _ _ => true
  | .converterFail _ => true
  | .analogTrip _ _ => true
  | .coldStart _ _ => true
  | .startupStageDone _ _ => true
  | .startupBoundExpire _ => true
  | .holdupCharged _ => true
  | .inputLoss _ => true
  | .holdupEnd _ => true
  | .inputOvervoltage _ => true
  | .modEnFall _ => true
  | .modEnRise _ => true
  | .moduleReset r => writesBit r (bootPg + 0x104) 31
  | .calRecordCheck _ _ _ => true
  | .calWindow _ _ => true
  | .calStackRelease _ _ _ => true
  | .calWindowClose _ _ _ _ => true
  | .serdesLaneRecal _ _ _ _ => true
  | .calForce r => writesBit r (calPg + 0x100) 0
  | .lockstepMismatch _ => true
  | .spRestartDone _ => true
  | .updateGo r => isUpdCtl r 31
  | .pldmFwUpdate _ _ => true
  | .hearthWatchdog _ => true
  | .trialExpire _ => true
  | .updateCommit r => isUpdCtl r 30
  | .updateAbort r => isUpdCtl r 29
  | .enroll _ _ _ _ => true
  | .setPolicy _ _ => true
  | .getEvidence _ _ => true
  | .getCerts _ => true
  | .logRead _ _ _ => true
  | .attGo r => writesBit r (attPg + 0x100) 31
  | .attExtend r => writesBit r (attPg + 0x100) 30
  | .attCerts r => writesBit r (attPg + 0x100) 29
  | .pldmSensorRead _ _ => true
  | .pldmSetCap _ _ => true
  | .pldmModuleReset _ => true
  | .pollEvent _ => true
  | .setEndpointId _ _ => true
  | .faultInjArm r => writesBit r (sp0Pg + 0x118) 31
  | .inputBackInRange _ _ => true
  | .partitionRequestDone _ => true
  | .staticWearLevelling _ _ => true

end Sys2Proof
end

