-- ==== Sys2Proof/Certificates/Slice0/Obligations.lean ====
section
/-!
DEFINITION. The statements for the provers, with the few predicates in which they are phrased.
-/
namespace Sys2Proof.Machine

/-- The command completes in a state of which P holds. -/
def Gives (c : Instr) (s : State) (P : State → Prop) : Prop := ∃ t, exec c s = .next t ∧ P t

/-! ### The scalar unit -/

/-- An operation of one thread has retired with the PC at pc: of the machine, nothing has changed but that thread and its tile's
issue counter, which has counted one. -/
structure Retired (i : Issue) (s t : State) (pc : Nat) : Prop where
  thread : i.thread t = { i.thread s with pc := BitVec.ofNat 32 pc }
  count  : rd64 t (issueCnt i.tile) = (rd64 s (issueCnt i.tile) + 1) % 2 ^ 64
  frame  : OnlyThread i.tile i.thr s t

/-- The PC of the thread's next operation, and the one after it. -/
abbrev pcOf (i : Issue) (s : State) : Nat := (i.thread s).pc.toNat

/-- The operation has written v to register r, to which no earlier operation owes a result any more (R157), no other register, and no
predicate. -/
structure WroteReg (i : Issue) (s t : State) (r : Nat) (v : W64) : Prop where
  value  : i.reg t r = v
  owed   : pendOf t i.tile i.thr r = 0
  regs   : ∀ r', r' ≠ r → i.reg t r' = i.reg s r' ∧ pendOf t i.tile i.thr r' = pendOf s i.tile i.thr r'
  preds  : ∀ p, i.pred t p = i.pred s p

/-- The operation has written b to predicate p, no other predicate, and no register. -/
structure WrotePred (i : Issue) (s t : State) (p : Nat) (b : Bool) : Prop where
  value  : i.pred t p = b
  preds  : ∀ q, q ≠ p → i.pred t q = i.pred s q
  regs   : ∀ r, i.reg t r = i.reg s r

/-- The operation has written no register and no predicate. -/
structure WroteNone (i : Issue) (s t : State) : Prop where
  preds  : ∀ p, i.pred t p = i.pred s p
  regs   : ∀ r, i.reg t r = i.reg s r

/-- Whenever the operation c of UNIT 0 and opcode o is ready, it completes: register D holds v, and the PC moves on by 8. -/
def RegResult (c : Issue → Instr) (o : Nat) (legal : Nat → Bool) (regs : Nat → List Nat) (v : Issue → State → W64) : Prop :=
  ∀ i s, Ready 0 o legal regs i s →
    Gives (c i) s (fun t => WroteReg i s t (fD i.w) (v i s) ∧ Retired i s t (pcOf i s + 8))

/-- Whenever the operation c of UNIT 0 and opcode o is ready, it completes: predicate PD holds b, and the PC moves on by 8. -/
def PredResult (c : Issue → Instr) (o : Nat) (legal : Nat → Bool) (regs : Nat → List Nat) (b : Issue → State → Bool) : Prop :=
  ∀ i s, Ready 0 o legal regs i s →
    Gives (c i) s (fun t => WrotePred i s t (fPd i.w) (b i s) ∧ Retired i s t (pcOf i s + 8))

/-- The operands A and B of forms R and C, and IMM. -/
abbrev opA (i : Issue) (s : State) : W64 := i.reg s (fA i.w)
abbrev opB (i : Issue) (s : State) : W64 := i.reg s (fB i.w)
abbrev opImm (i : Issue) : W64 := fImm i.w

/-- The registers that forms R and C, form I, and an operation with D alone read. -/
def regsC (w : Nat) : List Nat := [fA w, fB w]
def regsA (w : Nat) : List Nat := [fA w]
def regsN (_ : Nat) : List Nat := []
def noRegs (_ : Nat) : List Nat := []

/-- LI and LIH have reserved fields of their own; so do NOP and PLOG (R182). -/
def legalLi (w : Nat) : Bool := specOk (fD w) && fA w == 0
def legalLih (w : Nat) : Bool := legalI w && zero w 35 28
def legalNop (w : Nat) : Bool := zero w 47 0
def legalPlog (w : Nat) : Bool := zero w 39 0

/-- The relation of a COND code (R183). -/
def condRel : Nat → W64 → W64 → Prop
  | 0x0, a, b => a = b
  | 0x1, a, b => a ≠ b
  | 0x2, a, b => a.toNat < b.toNat
  | 0x3, a, b => b.toNat ≤ a.toNat
  | 0x4, a, b => a.toInt < b.toInt
  | 0x5, a, b => b.toInt ≤ a.toInt
  | 0x6, a, b => a.toNat ≤ b.toNat
  | 0x7, a, b => b.toNat < a.toNat
  | 0x8, a, b => a.toInt ≤ b.toInt
  | _, a, b => b.toInt < a.toInt

/-- A Spark draw has put v in register D and counted one value; nothing else has changed but the PC and the issue counter. -/
structure Drew (i : Issue) (s t : State) (v : W64) : Prop where
  wrote  : WroteReg i s t (fD i.w) v
  thread : i.thread t = { i.thread s with pc := BitVec.ofNat 32 (pcOf i s + 8) }
  drawn  : rd64 t (tilePg i.tile 8 + 0x130) = (rd64 s (tilePg i.tile 8 + 0x130) + 1) % 2 ^ 64
  tiles  : t.tl = { s.tl with thr := t.tl.thr, xr := t.tl.xr }
  window : ∀ o, o ∉ [issueCnt i.tile, issueCnt i.tile + 4, tilePg i.tile 8 + 0x130, tilePg i.tile 8 + 0x134] → rdW t o = rdW s o
  others : t = { s with tl := t.tl, win := { s.win with regs := t.win.regs }, time := t.time }

/-! ### Operations with slot operands -/

/-- Every slot operand allows its use, and s1 is the state with the shadows that the operation's changes need: at once a thread
outside tasks needs none, and s1 is s at the command's time. -/
structure SlotsOk (i : Issue) (s : State) (uses : List (Nat × Use)) (s1 : State) : Prop where
  allow  : firstBlocked s i.tile (i.task s) uses = none
  shadow : shadowAll (i.here s) i.tile (i.task s) uses = some s1

/-- What the check bits of the byte ranges read report, and the state with its counts, its record and its interrupt; cls is the class
of the reader. -/
def checked (i : Issue) (cls : Nat) (s1 : State) (rs : List (Nat × Nat)) : Ecc × State :=
  let e := spadEcc s1 i.tile rs i.ecc
  (e.1, spadEccNote e.2 i.tile cls e.1)

/-- The operation has had its effect t: the tags of its operands change, and it retires. -/
def settled (i : Issue) (s : State) (uses : List (Nat × Use)) (t : State) : State :=
  i.retired s (settleTags t i.tile (i.task s) uses)

/-- The bytes bs stored at a, where the thread sees them. -/
def stored (i : Issue) (s t : State) (a : Nat) (bs : List Byte) : State := pokeBytes t i.tile (i.task s) a bs

/-- The bytes a .. a + n - 1 as the thread reads them through the check bits e. -/
def loaded (i : Issue) (s : State) (e : Ecc × State) (a n : Nat) : List Byte := loadBytes e.2 i.tile (i.task s) e.1 a n

/-- The address AB + OFF of form M, and its width. -/
def lsAddr (i : Issue) (s : State) : Nat := (i.reg s (fAb i.w) + fOffM i.w).toNat
def lsBytes (i : Issue) : Nat := 2 ^ fSize i.w
def regsLd (w : Nat) : List Nat := [fAb w]
def regsSt (w : Nat) : List Nat := [fD w, fAb w]

/-- A 32-byte aligned byte range that lies in the scratchpad and not in the shadow pool. -/
def rangeOk (s : State) (t a n : Nat) : Prop := badRange s t a n = false ∧ a % 32 = 0

/-- The byte count of SLOT.FILL and SLOT.COPY, and the two addresses. -/
def slotN (i : Issue) (s : State) : Nat := (i.reg s (fSnS i.w)).toNat
def slotD (i : Issue) (s : State) : Nat := (i.reg s (fAd i.w)).toNat
def slotA (i : Issue) (s : State) : Nat := (i.reg s (fAa i.w)).toNat
def legalFill (w : Nat) : Bool := zero w 44 42 && specOk (fV w) && decide (fDk w ≤ 1) && zero w 28 0
def legalCopy (w : Nat) : Bool := zero w 36 31 && decide (fDk w ≤ 1) && decide (fSk w ≤ 2) && zero w 26 0
def regsFill (w : Nat) : List Nat := [fAd w, fSnS w, fV w]
def regsCopy (w : Nat) : List Nat := [fAd w, fAa w, fSnS w]

/-- SLOT.TAG of function fn on n slots from slot number a(AS): every slot of the range has the tag that fn gives it. The observable
tags are stated for a thread outside tasks; a member's changes go to its task's shadows. -/
def TagResult (c : Issue → Instr) (fn : Nat) (after : Tag → Tag) : Prop :=
  ∀ i s, Ready 6 0x20 (fun w => decide (bitsOf w 39 36 ≤ 3) && zero w 35 0) (fun w => [fAd w, bitsOf w 44 40]) i s →
    bitsOf i.w 39 36 = fn →
    let slot := slotD i s
    let n := (i.reg s (bitsOf i.w 44 40)).toNat
    1 ≤ n ∧ n ≤ 32768 → badRange s i.tile (512 * slot) (512 * n) = false → i.task s = none →
    (∀ x, slot ≤ x ∧ x < slot + n → shadowedByOther s i.tile none x = false) →
    Gives (c i) s (fun t =>
      (∀ x, slot ≤ x ∧ x < slot + n → tagRaw t i.tile x = after (tagRaw s i.tile x)) ∧
      (∀ tile x, tile < 288 → x < 32768 → (tile ≠ i.tile.val ∨ x < slot ∨ slot + n ≤ x) →
        tagRaw t tile x = tagRaw s tile x) ∧
      t.tl.spad = s.tl.spad ∧ t.tl.xr = s.tl.xr ∧ t.mem = s.mem ∧ (i.thread t).pc = BitVec.ofNat 32 (pcOf i s + 8))

/-! ### Operations over ranges: the vector and special-function units -/

/-- The element count s(SN), the values of s(SX) and s(SX+1), and the addresses D, A, B and C of form V. -/
def vN (i : Issue) (s : State) : Nat := (i.reg s (fSn i.w)).toNat
def vX (i : Issue) (s : State) : Nat := (i.reg s (fSx i.w)).toNat
def vX1 (i : Issue) (s : State) : Nat := (i.reg s (fSx i.w + 1)).toNat
def vD (i : Issue) (s : State) : Nat := (i.reg s (fAd i.w)).toNat
def vA (i : Issue) (s : State) : Nat := (i.reg s (fAa i.w)).toNat
def vB (i : Issue) (s : State) : Nat := (i.reg s (fAbV i.w)).toNat
def vC (i : Issue) (s : State) : Nat := (i.reg s (fAc i.w)).toNat

/-- The treatment of a source: its CONS bit is bit n. -/
def vUse (i : Issue) (n : Nat) : Use := if fCons i.w n then .consume else .read

/-- The slot operands of byte ranges, in operand order. -/
def usesOf (rs : List VRange) : List (Nat × Use) := (rs.map (fun r => rangeUses r.addr r.len r.use)).flatten

/-- The ranges read. -/
def sources (rs : List VRange) : List (Nat × Nat) := (rs.filter (fun r => r.use != .produce)).map (fun r => (r.addr, r.len))

/-- The ranges do not overlap, lie in the scratchpad outside the shadow pool, are 32-byte aligned, and their slots allow the uses
(R181, R186). -/
structure RangesOk (i : Issue) (s : State) (rs : List VRange) (s1 : State) : Prop where
  fits  : rangesFault s i.tile rs = none
  slots : SlotsOk i s (usesOf rs) s1

/-- The values of n elements of format f at a, and the lane format of FS. -/
def elems (i : Issue) (s : State) (e : Ecc × State) (f a n : Nat) : List FpVal :=
  (unpack f n (loaded i s e a (elemBytes f n))).map (elemVal f)
def laneFmtOf (i : Issue) : FpFmt := (laneFmt (fFs i.w)).getD fp32

/-- The registers and the ranges of an elementwise operation. -/
def regsV (u : VUses) (w : Nat) : List Nat :=
  [fAd w, fAa w, fSn w] ++ (if u.ab then [fAbV w] else []) ++ (if u.ac then [fAc w] else []) ++ (if u.sx then [fSx w] else [])
def rangesV (u : VUses) (i : Issue) (s : State) : List VRange :=
  let len := elemBytes (fFs i.w) (vN i s)
  [⟨vD i s, len, .produce⟩, ⟨vA i s, len, vUse i 16⟩] ++ (if u.ab then [⟨vB i s, len, vUse i 15⟩] else []) ++
    (if u.ac then [⟨vC i s, len, vUse i 14⟩] else [])

/-- The elementwise operation c of opcode o, with the fields u, completes whenever its count is 1 to 16,384 and its ranges allow it:
element j of D is val of the elements j of A, B and C, rounded once to the lane format under RNE (R107, R187). -/
def MapResult (c : Issue → Instr) (o : Nat) (u : VUses) (val : Issue → State → FpFmt → FpVal → FpVal → FpVal → FpVal) : Prop :=
  ∀ i s s1, Ready 1 o (legalArith u) (regsV u) i s → 1 ≤ vN i s ∧ vN i s ≤ 16384 → RangesOk i s (rangesV u i s) s1 →
    let f := fFs i.w
    let n := vN i s
    let e := checked i 4 s1 (sources (rangesV u i s))
    let a := elems i s e f (vA i s) n
    let b := if u.ab then elems i s e f (vB i s) n else a
    let cc := if u.ac then elems i s e f (vC i s) n else a
    exec (c i) s = .next (settled i s (usesOf (rangesV u i s)) (stored i s e.2 (vD i s)
      (pack f ((a.zip (b.zip cc)).map (fun p => (laneFmtOf i).convert .rne (val i s (laneFmtOf i) p.1 p.2.1 p.2.2))))))

/-- The reduction c of opcode o completes whenever its count is 1 to 16,384 and its ranges allow it: s(SX) holds val of the elements
in FP32, zero-extended (R187). -/
def ReduceResult (c : Issue → Instr) (o : Nat) (two : Bool) (val : List FpVal → List FpVal → FpVal) : Prop :=
  ∀ i s s1, Ready 1 o (legalReduce two) (fun w => [fAa w, fSn w] ++ (if two then [fAbV w] else [])) i s →
    let n := vN i s
    let f := fFs i.w
    let rs := [VRange.mk (vA i s) (elemBytes f n) (vUse i 16)] ++
      (if two then [VRange.mk (vB i s) (elemBytes f n) (vUse i 15)] else [])
    1 ≤ n ∧ n ≤ 16384 → RangesOk i s rs s1 →
    let e := checked i 4 s1 (sources rs)
    exec (c i) s = .next (settled i s (usesOf rs) (setXreg e.2 i.tile i.thr (fSx i.w) (BitVec.ofNat 64
      (fp32.convert .rne (val (elems i s e f (vA i s) n) (if two then elems i s e f (vB i s) n else []))))))

/-- The values of an operand of any format: an MX operand takes its block scales from B (R186). -/
def operandVals (i : Issue) (s : State) (e : Ecc × State) (f n : Nat) : List FpVal :=
  let codes := unpack f n (loaded i s e (vA i s) (elemBytes f n))
  if isMx f then mxVals f ((loaded i s e (vB i s) (ceilDiv n 32)).map (·.toNat)) codes else codes.map (elemVal f)

/-- The roundings of n elements under GRAD: stochastic with stream s(SX)[31:0], the step latched at issue and index s(SX+1) + j
(R112, R186); otherwise to nearest even. -/
def vRound (i : Issue) (s : State) (sr : Bool) (n : Nat) : List Rounding :=
  (List.range n).map (fun j => if sr then .sr (sparkU s i.tile (BitVec.ofNat 32 (vX i s)) (spkStep s i.tile) (vX1 i s + j)) else .rne)

/-! ### HBM, tiers and flash -/

/-- No injection is armed at a page (R458). -/
abbrev notArmed (s : State) (pg : Nat) : Prop := rdB s (pg + hInj) 31 = false

/-- A counter register has counted n more, saturating (R477). -/
def Counted (s t : State) (o n : Nat) : Prop := rd t o = min (rd s o + n) 0xFFFFFFFF

/-- A 64-bit counter has counted n more, wrapping (R477). -/
def Counted64 (s t : State) (o n : Nat) : Prop := rd64 t o = (rd64 s o + n) % 2 ^ 64

/-- The write r gives TIER_CMD with GO and operation op to the TIER page of slice sl, the lowest of partition p, which is idle, has
pages mapped through a page map, and names one page, g (R284, R285, R298). -/
structure TierCommand (op : Nat) (r : RegWrite) (s : State) (sl : Fin 8) (p g : Nat) : Prop where
  here  : r.off.toNat = tierPg sl + 0x12C
  owner : partOfSlice s sl = some p
  low   : lowSlice s p = sl
  idle  : rdB s (tierPg sl + 0x130) 8 = false
  go    : r.val.toNat.testBit 31 = true
  code  : bitsOf r.val.toNat 3 0 = op
  one   : rdF s (tierPg sl + 0x128) 26 0 = 1
  page  : rd64 s (tierPg sl + 0x120) = g
  inMap : g < partPages s p
  maps  : tiered s p = true

/-- The state in which the command works: its operand latched, no page completed, and the page BUSY. -/
def tierBusy (r : RegWrite) (s : State) (sl : Nat) : State :=
  wr (wr (wr (tick s r.now) (tierPg sl + 0x12C) (r.val.toNat &&& 0x1ECF)) (tierPg sl + 0x134) 0) (tierPg sl + 0x130) 0x100

/-- The fields TIER, HINT and USER of TIER_CMD. -/
def cmdTier (r : RegWrite) : Nat := bitsOf r.val.toNat 7 6
def cmdHint (r : RegWrite) : Nat := bitsOf r.val.toNat 11 9
def cmdUser (r : RegWrite) : Bool := r.val.toNat.testBit 12

/-- A command has ended with status OK after one page: TIER_STAT 0, CMD_DONE set. -/
structure TierDone (t : State) (sl : Nat) : Prop where
  status : rd t (tierPg sl + 0x130) = 0
  done   : rdB t (tierPg sl + hIntStat) 0 = true

/-! ### Bellows and Tongs -/

/-- Only registers of the window, messages of interrupts and the time differ between two states. -/
def WindowOnly (s t : State) : Prop :=
  t = { s with win := { s.win with regs := t.win.regs, msiSent := t.win.msiSent }, time := t.time }

/-- The address of a BLW.DESC's descriptor, and its 32 bytes. -/
def descAt (i : Issue) (s : State) : Nat := (i.reg s (fAb i.w)).toNat
def descBytes (i : Issue) (s : State) : List Byte := seeBytes s i.tile (i.task s) (descAt i s) 32

/-- A BLW.DESC of OP op on a thread outside tasks is ready, its descriptor is valid and reads clean, and Bellows has a place for it
(R192, R228, R229). -/
structure DescReady (op : Nat) (i : Issue) (s : State) : Prop where
  ready   : Ready 4 1 (fun w => specOk (fD w) && zero w 38 0) (fun w => [fAb w]) i s
  range   : rangeOk s i.tile (descAt i s) 32
  noTask  : i.task s = none
  code    : dsOp (descBytes i s) = op
  valid   : dsValid s i.tile (descBytes i s) = true
  clean   : i.ecc = .clean
  unarmed : notArmed s (tilePg i.tile 5)
  room    : (descsOf s i.tile).length < 32

/-- A request that Bellows may issue now: d is the descriptor, c its next piece, rest what follows; a tag is free, the bank cap and the
sorter let it pass, and c lies in HBM (R230, R231, R255, R256). -/
structure NextPiece (s : State) (t : Nat) (id p : Nat) (d : BDesc) (c : BPiece) (rest : List BPiece) : Prop where
  desc   : (descsOf s t).find? (fun d => d.id == id) = some d
  owner  : partOfTile s t = some p
  sound  : d.fail = none
  listed : d.list = none
  pieces : d.pieces = c :: rest
  tagged : blwTags s t < 96
  capped : pieceCapped s t p c = false
  room   : sorterRoom s t p c = true
  hbm    : tierAt s p c.mem = 0

/-- The slots that a piece touches for the first time. -/
def firstSlots (d : BDesc) (c : BPiece) : List Nat := c.slots.filter (fun x => !d.slots.contains x)

/-- The Tongs operation c of UNIT 5 and opcode o, outside tasks and with a place and a tag free, is taken with the requests of its plan
(R163, R302, R303, R320); D, and D + 1 for a fetch, wait for the result. -/
def TngResult (c : Issue → Instr) (o : Nat) (legal : Nat → Bool) (regs : Nat → List Nat) (ok : Issue → State → Prop)
    (pl : Issue → State → TPlan) : Prop :=
  ∀ i s p, Ready 5 o legal regs i s → ok i s → i.task s = none → tngActive s i.tile < 32 → tngTags s i.tile < 32 →
    partOfTile s i.tile = some p →
    Gives (c i) s (fun t =>
      (∃ op, t.tng.ops = s.tng.ops ++ [op] ∧ op.tile = i.tile.val ∧ op.thr = i.thr.val ∧ op.gen = (i.thread s).gen ∧ op.dest = fD i.w ∧
        op.opc = (pl i s).opc ∧ op.pieces = (pl i s).pieces ∧ op.newVal = (pl i s).newVal ∧ op.dispatch = (pl i s).dispatch ∧
        op.lk = fLk i.w ∧ op.etype = fType i.w ∧ op.live = [] ∧ op.fail = none) ∧
      pendOf t i.tile i.thr (fD i.w) ≠ 0 ∧ (i.thread t).pc = BitVec.ofNat 32 (pcOf i s + 8) ∧
      t.tl.spad = s.tl.spad ∧ t.tl.tags = s.tl.tags ∧ t.tl.xr = s.tl.xr ∧ t.mem = s.mem ∧ t.tng.reqs = s.tng.reqs)

/-- The operands of form T. -/
def tMod (i : Issue) (s : State) : W32 := (i.reg s (fMod i.w)).setWidth 32
def tTarget (i : Issue) (s : State) : Nat := (i.reg s (fAr i.w)).toNat
def tLocal (i : Issue) (s : State) : Nat := (i.reg s (fAl i.w)).toNat
def tCount (i : Issue) (s : State) : Nat := (i.reg s (fN i.w)).toNat
def tVal (i : Issue) (s : State) : Nat := (i.reg s (fVal i.w)).toNat

/-- The operands of PUT, GET and PUTADD are allowed (R302). -/
def bulkOk (i : Issue) (s : State) : Prop :=
  1 ≤ tCount i s ∧ tCount i s ≤ 16777216 ∧ tCount i s % 32 = 0 ∧ rangeOk s i.tile (tLocal i s) (tCount i s) ∧ tTarget i s % 32 = 0

/-- The plan of a bulk operation, and of a word operation of n bytes with operand x and new value v. -/
def bulkPlan (opc : ReqOpc) (double : Bool) (i : Issue) (s : State) : TPlan :=
  { opc := opc, pieces := tPieces (tMod i s) opc (tTarget i s) (tLocal i s) (tCount i s) 0 double }
def wordPlan (opc : ReqOpc) (n x v : Nat) (i : Issue) (s : State) : TPlan :=
  { opc := opc, newVal := v,
    pieces := [{ mod := tMod i s, opc := opc, target := tTarget i s, tlen := n, loc := 0, llen := 0, off := 0, value := x, last := false }] }

/-- The operands of a dispatch. -/
def dispatchOf (i : Issue) (s : State) : TList :=
  let m := (i.reg s (fMod i.w)).toNat
  { list := tLocal i s, table := tTarget i s, e := bitsOf m 8 0, n := bitsOf m 25 16, rb := bitsOf (tCount i s) 23 0,
    t0 := bitsOf (tCount i s) 63 32, row := tVal i s }

/-- A dispatch's list, placement table and rows read clean and are allowed (R315, R316). -/
def dispatchOk (i : Issue) (s : State) : Prop :=
  let d := dispatchOf i s
  let c := i.ctx
  i.ecc = .clean ∧ notArmed s (tilePg i.tile 5) ∧
  (1 ≤ d.e ∧ d.e ≤ 256 ∧ 1 ≤ d.n ∧ d.n ≤ 512 ∧ 1 ≤ d.rb ∧ d.rb ≤ 65536 ∧ d.rb % 32 = 0 ∧ d.row % 32 = 0) ∧
  badRange s i.tile d.list (listHead d.e + 4 * d.n * d.e) = false ∧ badRange s i.tile d.table (32 * d.e) = false ∧
  ∀ x < d.e, seeNat s i.tile (i.task s) (d.list + 4 * x) 4 ≤ d.n ∧ placeRsv s c d x = true ∧
    (∀ k ∈ expertTokens s c d x, badRow s c d k = false) ∧ placeRow s c d x % 32 = 0 ∧ placeNote s c d x % 8 = 0

/-! ### Control, tasks, tile control and Quench -/

/-- Task k of the issuing tile, by the bits of the TASK operations. -/
def taskK (i : Issue) : Nat := bitsOf i.w 41 40

/-- The words of the TASK operations but TASK.BEGIN. -/
def legalTask (w : Nat) : Bool := specOk (fD w) && zero w 39 0
def legalBegin (w : Nat) : Bool := specOk (fD w) && zero w 39 13 && decide (1 ≤ bitsOf w 12 0 ∧ bitsOf w 12 0 ≤ 4096)

/-- The thread list is in its canonical form. -/
def ThreadsOk (s : State) : Prop := cWf (fun _ => ({} : Thread)) s.tl.thr = true

/-- The operation blocks its thread from now on; the PC stands behind it, and no register or predicate is written. -/
structure Blocks (i : Issue) (s t : State) (st : ThrState) : Prop where
  thread : i.thread t = { i.thread s with st := st, since := max s.time i.now, pc := BitVec.ofNat 32 (pcOf i s + 8) }
  wrote  : WroteNone i s t

/-- A write of QCH_CTL of the page that holds for partition p, the page of its lowest slice sl. -/
structure QchWrite (r : RegWrite) (s : State) (sl : Fin 8) (p o : Nat) : Prop where
  here  : r.off.toNat = qchPg sl + o
  owner : partOfSlice s sl = some p
  low   : lowSlice s p = sl

/-- The armed partition p of slice sl has a vote record that is WAITING (R137, R138). -/
structure VoteAt (s : State) (sl : Fin 8) (p : Nat) (rec : Fin 4) : Prop where
  armed   : armedPart s sl = some p
  waiting : memNat s p (recordAt s sl rec + 0x30) 4 = 1

/-- A unit's message. -/
def IsPost (m : ReqPkt) (opc : ReqOpc) (addr word : Nat) : Prop :=
  m.opc = opc ∧ m.addr = BitVec.ofNat 64 addr ∧ m.data = leBytes 8 word

/-! ### The stash, the anvils and the scratchpad page -/

/-- The lane, and SEG, MICROBATCH and STEP of a stash operation. -/
def sLane (i : Issue) : Nat := bitsOf i.w 41 40
def sSeg (i : Issue) (s : State) : Nat := (i.reg s (bitsOf i.w 39 34)).toNat
def sMb (i : Issue) (s : State) : Nat := (i.reg s (bitsOf i.w 33 28)).toNat % 2 ^ 32
def sStep (i : Issue) (s : State) : Nat := (i.reg s (bitsOf i.w 27 22)).toNat
def sSlot (i : Issue) (s : State) : Nat := (i.reg s (32 + bitsOf i.w 21 19)).toNat

/-- A stash operation of opcode o on a thread outside tasks that Bellows takes: it has a place and a tag, its slot lies outside the shadow
pool, the unit of partition p is enabled and not aborted, and it has the lane (R35, R44, R192). -/
structure StashReady (o : Nat) (legal : Nat → Bool) (i : Issue) (s : State) (p : Nat) : Prop where
  ready   : Ready 4 o (fun w => specOk (fD w) && specOk (bitsOf w 39 34) && specOk (bitsOf w 33 28) && specOk (bitsOf w 27 22) && legal w)
    (fun w => [bitsOf w 39 34, bitsOf w 33 28, bitsOf w 27 22, 32 + bitsOf w 21 19]) i s
  noTask  : i.task s = none
  noPool  : inPool s i.tile (sSlot i s) = false
  owner   : partOfTile s i.tile = some p
  room    : (descsOf s i.tile).length < 32
  tags    : blwTags s i.tile < 96
  enabled : rdB s (sthPg (lowSlice s p) + 0x100) 0 = true
  lane    : sLane i < sthLanes s (lowSlice s p)
  normal  : sthAborted s (lowSlice s p) = false

/-- The part of the issuing tile, whose place has number id. -/
def stashPart (i : Issue) (s : State) (p id : Nat) : SthPart :=
  { desc := id, tile := i.tile, thr := i.thr, gen := (i.thread s).gen, dest := fD i.w, slot := sSlot i s,
    idx := partIndex s p (logicalOf s i.tile), blocked := none, ecc := i.ecc }

/-- The record on top of a lane, in HBM, as a pop of its segment and microbatch accepts it: valid, its header sound and of the present
epoch, read without error, and not yet popped by this contributor (R38). -/
structure PopMatch (i : Issue) (s : State) (p : Nat) (r : SthRec) : Prop where
  top    : (laneOf s (lowSlice s p) (sLane i)).recs.getLast? = some r
  valid  : r.valid = true
  check  : crc32c ((recLoad s p (lowSlice s p) (sLane i) r 0 60).take 56) =
    BitVec.ofNat 32 (leNat (slice (recLoad s p (lowSlice s p) (sLane i) r 0 60) 56 4))
  epoch  : leNat (slice (recLoad s p (lowSlice s p) (sLane i) r 0 60) 12 4) = rd s (sthPg (lowSlice s p) + hEpoch)
  mb     : leNat (slice (recLoad s p (lowSlice s p) (sLane i) r 0 60) 8 4) = sMb i s
  seg    : leNat (slice (recLoad s p (lowSlice s p) (sLane i) r 0 60) 4 2) = sSeg i s
  part   : partIndex s p (logicalOf s i.tile) < r.contrib
  first  : r.popped.contains (partIndex s p (logicalOf s i.tile)) = false
  clean  : i.ecc = .clean

/-- The read of a segment-table entry, charged to the read class and counted (R40, R274). -/
def tableRead (s : State) (p a : Nat) : State := countHbm (chargeRange s p a 16 0) p a 16 0x120

/-- The oldest pass of an anvil that still loads or launches chunks is r, behind older. -/
def LastRun (s : State) (t a : Nat) (older : List Running) (r : Running) : Prop := anvRunning s t a = older ++ [r]

/-! ### Command rings, links and fabric time -/

/-- The entry e, of operation op, stands at the head of ring n of slice sl, the lowest of partition p; its checks have passed, no report of
its descriptor is waiting, and HEAD is not at the end of its 64 bits. -/
structure RingHead (op : Nat) (s : State) (sl : Fin 8) (n : Fin 4) (p : Nat) (e : RingEntry) : Prop where
  owner : partOfSlice s sl = some p
  low   : lowSlice s p = sl
  head  : (ringOf s sl n).buf.head? = some e
  sound : e.bad = false
  op    : e.op = op
  quiet : cGet (fun _ => none) s.blw.xfers (4 * sl + n) = none
  fits  : ringHead s sl n + 1 < 2 ^ 64

/-- It may begin at time now: the ring is enabled and not stopped, NOT_BEFORE has come, and the entry arrived by its deadline (R202, R205,
R208). -/
structure RingBegins (s : State) (sl : Fin 8) (n : Fin 4) (e : RingEntry) (now : Nat) : Prop where
  idle    : (ringOf s sl n).running = false
  enabled : ringEn s sl n = true
  going   : ringStopped s sl n = false
  due     : e.notBefore ≤ max s.time now
  inTime  : e.stamp ≤ e.deadline

/-- The entry at the head has completed: HEAD has moved on, and the next entry stands there (R207). -/
structure RingDone (s t : State) (sl : Fin 8) (n : Fin 4) : Prop where
  head : ringHead t sl n = ringHead s sl n + 1
  buf  : (ringOf t sl n).buf = (ringOf s sl n).buf.drop 1
  idle : (ringOf t sl n).running = false

/-- A ring that its partition's engine polls: slice sl is the lowest of a partition, and no report of a descriptor is waiting. -/
structure RingAt (s : State) (sl : Fin 8) (n : Fin 4) : Prop where
  owner : ∃ p, partOfSlice s sl = some p ∧ lowSlice s p = sl
  quiet : cGet (fun _ => none) s.blw.xfers (4 * sl + n) = none

/-- The entry that a burst brings for index i: its bytes, its receive stamp, and whether its checks failed (R205, R206). -/
def arrivedEntry (s : State) (sl n i : Nat) : RingEntry :=
  let e : RingEntry :=
    { idx := i, stamp := stampOf (ringOf s sl n) i,
      bytes := hostBytes s (rd64 s (ringReg sl n + 0x10) + 64 * (i % ringSize s sl n)) 64, bad := false }
  { e with bad := !(entryOk e) }

/-! ### Partitions, the build of a step's work list, billets -/

/-- The write r gives SP_PART_REQ with GO and operation op, while no request runs or waits, and SP takes requests (R351, R372). -/
structure PartCommand (op : Nat) (r : RegWrite) (s : State) : Prop where
  here  : r.off.toNat = partPg + 0x100
  go    : r.val.toNat.testBit 31 = true
  op    : bitsOf r.val.toNat 2 0 = op
  idle  : preqBusy s = false
  safe  : spSafe s = false
  phase : s.boot.phase ≠ .holdup

/-- The request that the write r makes. -/
def reqOf (r : RegWrite) (s : State) : PartReq := takeRequest s r.val.toNat

/-- A request has completed with a status other than OK, and has changed nothing but that. -/
structure Turned (s t : State) (code : Nat) : Prop where
  status : rdF t (partPg + 0x124) 7 0 = code
  idle   : preqBusy t = false
  bits   : rdB t (partPg + hIntStat) 0 = true ∧ rdB t (partPg + hIntStat) 1 = true
  parts  : ∀ n < 8, rd t (partPg + 0x140 + 4 * n) = rd s (partPg + 0x140 + 4 * n)
  frame  : t = { s with win := { s.win with regs := t.win.regs, msiSent := t.win.msiSent }, time := t.time }

/-- The running request may complete: every transfer of the partition's tiles has ended. -/
def partReady (s : State) (op n : Nat) : Prop :=
  s.prt.running = some (op, n) ∧ partState s n ≠ 2 ∧ ∀ t ∈ ((partSlices s n).map sliceTiles).flatten, tileTransfers s t = false

/-- The partition of a slice whose lowest slice it is, with a billet in a phase, and no outcome waiting. -/
structure BilletAt (s : State) (sl : Fin 8) (phase p : Nat) (r : BilletRun) : Prop where
  part : bltPart s sl phase = some (p, r)
  free : (bltOf s sl).outcome = none

/-- A billet has ended early with a status, and nothing is sealed (R382). -/
structure BilletStopped (s t : State) (sl : Fin 8) (code : Nat) : Prop where
  phase  : bltPhase t sl = 0
  status : rdF t (bltPg sl + 0x104) 31 24 = code
  run    : (bltOf t sl).run = none
  count  : Counted s t (bltPg sl + 0x1AC) 1
  bit    : rdB t (bltPg sl + hIntStat) 1 = true
  last   : rd64 t (bltPg sl + 0x148) = rd64 s (bltPg sl + 0x148) ∧ rd64 t (bltPg sl + 0x150) = rd64 s (bltPg sl + 0x150)
  mem    : t.mem = s.mem

/-- The image pages that a billet copies (R379). -/
def imageTodo (s : State) (p : Nat) (sl : Fin 8) (r : BilletRun) : List ImgPage :=
  (imagePages s p sl).filter (fun i => r.whole.contains i.entry || dirtyIn s p i.page r.gen)

/-- The manifest by which a restore verifies its image. -/
def restoreManifest (s : State) (p : Nat) (sl : Fin 8) (x : Restore) (given : List Byte) : List Byte :=
  if x.mode = 1 then given else sourceManifest s p sl x.mode x.billet

/-! ### Hearth, power, start-up, calibration -/

/-- An issue of HRT.HINT is too late for the slew of its boost (R410). -/
def hintLate (i : Issue) (s : State) : Bool :=
  decide (1000 * bitsOf i.w 9 0 < 100 * min 40 (rdF s (hrtPg + 0x144) 5 0))

/-- The stages run from nothing, on a state whose compute dies have lost theirs (R421, R422, R425). -/
structure ColdStarted (s t : State) (now : Nat) : Prop where
  phase   : t.boot.phase = .starting
  running : t.boot.running = [.s1]
  done    : t.boot.done = []
  origin  : t.boot.origin = max s.time now
  tiles   : t.tl = Tiles.reset
  hbm     : t.mem.hbm = []
  parts   : ∀ n < 8, partState t n = 0
  ready   : rdB t (bootPg + 0x100) 0 = false

/-- The stages run again from stage 4, or from stage 5 while the main rails are up, on a state whose compute dies have lost theirs (R425,
R426). -/
structure WarmStarted (s t : State) (now : Nat) : Prop where
  phase  : t.boot.phase = .starting
  done   : t.boot.done = if s.boot.rails then [.s1, .s2, .s3, .s4] else [.s1, .s2, .s3]
  origin : t.boot.origin = max s.time now
  tiles  : t.tl = Tiles.reset
  hbm    : t.mem.hbm = []
  parts  : ∀ n < 8, partState t n = 0
  ready  : rdB t (bootPg + 0x100) 0 = false

/-- The main power train has tripped (R397, R484). -/
structure Tripped (t : State) (keepsOff : Bool) : Prop where
  phase : t.boot.phase = .tripped
  rails : t.boot.rails = false
  keepsOff  : t.boot.keepsOff = keepsOff
  ready : rdB t (bootPg + 0x100) 0 = false
  tiles : t.tl = Tiles.reset

/-! ### SP, management, the window -/

/-- SP answers management requests: it does not restart, it is not in SAFE, and no hold-up runs (R439, R440, R463). -/
structure MgtOpen (s : State) : Prop where
  run   : spRestarting s = false
  safe  : spSafe s = false
  phase : s.boot.phase ≠ .holdup

/-- A request is answered with success and its data. -/
def Answered (t : State) (data : List Byte) : Prop := t.mgt.response = 0 :: data

/-- A request is answered with a completion code that is an error, the request refused. -/
def Refused (t : State) : Prop := ∃ c, t.mgt.response = [c] ∧ c ≠ 0

/-- A trial has ended with the earlier firmware (R449, R451). -/
structure Reverted (s t : State) : Prop where
  slot   : t.sp.slotA = s.sp.slotB
  trial  : t.sp.trial = none
  status : rdF t (sp0Pg + 0x100) 31 24 = 7
  bit    : rdB t (sp0Pg + 0x100) 8 = false
  int    : rdB t (sp0Pg + hIntStat) 3 = true

/-- A bundle is on trial (R449): slot B holds what slot A held, slot A what the bundle makes of it. -/
structure OnTrial (s t : State) (b : List Byte) : Prop where
  slotA  : t.sp.slotA = bndSlot s.sp.slotA b
  slotB  : t.sp.slotB = s.sp.slotA
  trial  : t.sp.trial.isSome = true
  status : rdF t (sp0Pg + 0x100) 31 24 = 0
  bit    : rdB t (sp0Pg + 0x100) 8 = true

/-- A bundle is turned away with a status, and both slots are as they were (R445, R451). -/
structure BundleRefused (s t : State) (code : Nat) : Prop where
  slots  : t.sp = s.sp
  status : rdF t (sp0Pg + 0x100) 31 24 = code
  int    : rdB t (sp0Pg + hIntStat) 2 = true

/-- The bundle that UPDATE_GO reads: none where its length exceeds 64 MiB. -/
def updBundle (s : State) : List Byte :=
  if rd s (sp0Pg + 0x110) ≤ 67108864 then hostBytes s (rd64 s (sp0Pg + 0x108)) (rd s (sp0Pg + 0x110)) else []

/-- A write of ATT_CTL with a bit, while SP serves. -/
def AttCommand (r : RegWrite) (s : State) (bit : Nat) : Prop :=
  r.off.toNat = attPg + 0x100 ∧ r.val.toNat.testBit bit = true ∧ spServes s = true

/-- The message that a change of page pg's interrupt registers sends: none, but when its interrupt becomes active and the summarising page has
an address. -/
def MessageSent (s t : State) (pg : Nat) : Prop :=
  let n := summaryPg pg
  t.win.msiSent = if intActive s pg = false ∧ intActive t pg = true ∧ rd64 s (n + 0x108) ≠ 0 then
    s.win.msiSent ++ [(BitVec.ofNat 64 (rd64 s (n + 0x108)), rdW s (n + 0x110))] else s.win.msiSent

/-- The page types none of whose registers start an action at a plain write, or combine their fields. -/
def plainKind (k : PageKind) : Bool :=
  !([PageKind.hrt, .rt, .qchP, .hbm, .ftm, .spk, .seq, .blt, .lnk, .anv, .ring, .spad, .spPart, .blwS].contains k)

/-- A write by any requester but a restarting SP to offset off, which lies on the page p, live there, in the register g. -/
structure PlainWrite (r : RegWrite) (s : State) (p : PageRef) (g : RegDef) (j : Nat) (half : RegHalf) : Prop where
  off    : r.off.toNat % 4 = 0
  who    : r.who = .sp → spRestarting s = false
  page   : pageAt r.off.toNat = some p
  body   : 0x100 ≤ r.off.toNat % 4096
  plain  : plainKind p.kind = true
  reg    : findReg p.kind.regs (r.off.toNat % 4096) = some (g, j, half)
  place  : placeOk s p g.place = true

/-- The place of the register at a page offset. -/
def regPlace (k : PageKind) (o : Nat) : Place :=
  match findReg k.regs o with
  | some (g, _, _) => g.place
  | none => .every

/-! ### All commands -/

/-- The rows of the tile operations but those of BLW.DESC (R182 to R197). -/
def opRows : List (Issue → Instr) :=
  [Instr.sthPush, .sthPop, .sthPopDiscard, .anvPass, .nop, .add, .sub, .mul, .and, .or, .xor, .shl, .shr, .sra, .minu, .maxu,
    .mins, .maxs, .addi, .li, .lih, .andi, .ori, .shli, .shri, .cmp, .cmpi, .plog, .bra, .jr, .call, .rdtime, .rdstep, .rdid,
    .spkDraw, .spkDrawi, .ld, .st, .slotFill, .slotCopy, .slotTagEmpty, .slotTagFull, .slotTagRetain, .slotTagRelease,
    .slotTest, .vadd, .vsub, .vmul, .vmax, .vmin, .vabs, .vfma, .vscale, .vcvt, .vrsum, .vrmax, .vdot, .vdact, .vdsmax, .vdnorm,
    .vzmap, .vroute, .optStep, .sfuFn, .sfuDact, .sfuFns, .prefetchFence, .tngPut, .tngGet, .tngPutadd, .tngFadd, .tngFand,
    .tngCas, .tngNotify, .tngDispatch, .fence, .barrier, .taskBegin, .taskJoin, .taskCommit, .taskDiscard, .qchOpen, .qchVote,
    .qchRaise, .qchLayer, .tmpClose, .hrtHint, .halt]

/-- The rows of BLW.DESC, which the descriptor tells apart (R192). -/
def descRows : List (Issue → Instr) := [.streamIn, .prefetch, .writeBack, .gather, .drain]

end Sys2Proof.Machine

open Sys2Proof Sys2Proof.Machine

/-- The operations of form R (R182). -/
def Obligations.ScalarArithmetic : Prop :=
  RegResult .add 0x01 legalR regsC (fun i s => opA i s + opB i s) ∧
  RegResult .sub 0x02 legalR regsC (fun i s => opA i s - opB i s) ∧
  RegResult .mul 0x03 legalR regsC (fun i s => opA i s * opB i s) ∧
  RegResult .and 0x04 legalR regsC (fun i s => opA i s &&& opB i s) ∧
  RegResult .or 0x05 legalR regsC (fun i s => opA i s ||| opB i s) ∧
  RegResult .xor 0x06 legalR regsC (fun i s => opA i s ^^^ opB i s) ∧
  RegResult .shl 0x07 legalR regsC (fun i s => opA i s <<< ((opB i s).toNat % 64)) ∧
  RegResult .shr 0x08 legalR regsC (fun i s => opA i s >>> ((opB i s).toNat % 64)) ∧
  RegResult .sra 0x09 legalR regsC (fun i s => (opA i s).sshiftRight ((opB i s).toNat % 64)) ∧
  RegResult .minu 0x0A legalR regsC (fun i s => if (opA i s).toNat < (opB i s).toNat then opA i s else opB i s) ∧
  RegResult .maxu 0x0B legalR regsC (fun i s => if (opA i s).toNat < (opB i s).toNat then opB i s else opA i s) ∧
  RegResult .mins 0x0C legalR regsC (fun i s => if (opA i s).toInt < (opB i s).toInt then opA i s else opB i s) ∧
  RegResult .maxs 0x0D legalR regsC (fun i s => if (opA i s).toInt < (opB i s).toInt then opB i s else opA i s)

/-- The operations of form I (R182). -/
def Obligations.ScalarImmediate : Prop :=
  RegResult .addi 0x11 legalI regsA (fun i s => opA i s + opImm i) ∧
  RegResult .li 0x12 legalLi regsN (fun i _ => opImm i) ∧
  RegResult .lih 0x13 legalLih regsA
    (fun i s => BitVec.ofNat 64 ((opA i s).toNat % 2 ^ 36 + (opImm i).toNat % 2 ^ 28 * 2 ^ 36)) ∧
  RegResult .andi 0x14 legalI regsA (fun i s => opA i s &&& opImm i) ∧
  RegResult .ori 0x15 legalI regsA (fun i s => opA i s ||| opImm i) ∧
  RegResult .shli 0x16 legalI regsA (fun i s => opA i s <<< ((opImm i).toNat % 64)) ∧
  RegResult .shri 0x17 legalI regsA (fun i s => opA i s >>> ((opImm i).toNat % 64))

/-- CMP and CMPI set PD by the relation of COND, and a word with a reserved code of COND faults its thread with cause 0x02 (R181 to R183);
PLOG combines two predicates. -/
def Obligations.PredicateOperations : Prop :=
  (∀ i s, Ready 0 0x20 legalCmp regsC i s →
    Gives (.cmp i) s (fun t => (i.pred t (fPd i.w) = true ↔ condRel (fCond i.w) (opA i s) (opB i s)) ∧
      WrotePred i s t (fPd i.w) (i.pred t (fPd i.w)) ∧ Retired i s t (pcOf i s + 8))) ∧
  (∀ i s, Ready 0 0x21 legalCmpi regsA i s →
    Gives (.cmpi i) s (fun t => (i.pred t (fPd i.w) = true ↔ condRel (fCond i.w) (opA i s) (opImm i)) ∧
      WrotePred i s t (fPd i.w) (i.pred t (fPd i.w)) ∧ Retired i s t (pcOf i s + 8))) ∧
  PredResult .plog 0x22 legalPlog noRegs (fun i s =>
    let a := i.pred s (bitsOf i.w 45 44)
    let b := i.pred s (bitsOf i.w 43 42)
    match bitsOf i.w 41 40 with
    | 0 => a && b
    | 1 => a || b
    | 2 => xor a b
    | _ => a && !b) ∧
  (∀ c ∈ [(Instr.cmp, 0x20), (.cmpi, 0x21)], ∀ i s, fUnit i.w = 0 → fOpc i.w = c.2 → (i.thread s).st = .runnable →
    pcFault s i.tile (pcOf i s) = none → 9 < fCond i.w →
    exec (c.1 i) s = .next (threadFault (tick s i.now) i.tile i.thr 2 (pcOf i s)))

/-- NOP, BRA, JR and CALL (R182): the new PC, taken whatever it is; the target's own check comes when the thread would fetch there. -/
def Obligations.ControlTransfers : Prop :=
  (∀ i s, Ready 0 0x00 legalNop noRegs i s →
    Gives (.nop i) s (fun t => WroteNone i s t ∧ Retired i s t (pcOf i s + 8))) ∧
  (∀ i s, Ready 0 0x30 legalBra noRegs i s →
    Gives (.bra i) s (fun t => WroteNone i s t ∧ Retired i s t ((pcOf i s + bitsOf i.w 31 0) % 2 ^ 32))) ∧
  (∀ i s, Ready 0 0x31 legalJr regsA i s →
    Gives (.jr i) s (fun t => WroteNone i s t ∧ Retired i s t ((opA i s).toNat % 2 ^ 32))) ∧
  (∀ i s, Ready 0 0x32 legalCall regsN i s →
    Gives (.call i) s (fun t => WroteReg i s t (fD i.w) (BitVec.ofNat 64 (pcOf i s + 8)) ∧
      Retired i s t ((pcOf i s + bitsOf i.w 31 0) % 2 ^ 32)))

/-- RDTIME, RDSTEP and RDID (R182, R502). SPK.DRAW takes its position from B, SPK.DRAWI from the tile's step and index B (R111, R112, R182). -/
def Obligations.IdentityTimeAndSpark : Prop :=
  RegResult .rdtime 0x40 legalRd regsN (fun i s => BitVec.ofNat 64 (max s.time i.now)) ∧
  RegResult .rdstep 0x41 legalRd regsN (fun i s => BitVec.ofNat 64 (rd64 s (tilePg i.tile 8 + 0x120))) ∧
  (∀ i s, Ready 0 0x42 legalRd regsN i s →
    Gives (.rdid i) s (fun t => Retired i s t (pcOf i s + 8) ∧
      (∀ p, partOfTile s i.tile = some p → WroteReg i s t (fD i.w) (BitVec.ofNat 64
        (logicalOf s i.tile + 2 ^ 16 * (partIndex s p (logicalOf s i.tile) % 256) + 2 ^ 24 * i.thr.val + 2 ^ 32 * p))) ∧
      (partOfTile s i.tile = none → WroteReg i s t (fD i.w) (BitVec.ofNat 64
        (logicalOf s i.tile + 2 ^ 24 * i.thr.val + 2 ^ 35))))) ∧
  (∀ i s, Ready 0 0x50 legalR regsC i s →
    Gives (.spkDraw i) s (fun t => Drew i s t
      (spark (seedLo s i.tile) (seedHi s i.tile) ((opA i s).setWidth 32) (opB i s)))) ∧
  (∀ i s, Ready 0 0x51 legalR regsC i s →
    Gives (.spkDrawi i) s (fun t => Drew i s t
      (spark (seedLo s i.tile) (seedHi s i.tile) ((opA i s).setWidth 32)
        (BitVec.ofNat 64 (rd64 s (tilePg i.tile 8 + 0x120) % 2 ^ 24 * 2 ^ 40 + (opB i s).toNat % 2 ^ 40)))))

/-- LD and ST (R184): LD puts the aligned bytes at AB + OFF, zero- or sign-extended, in D, and ST stores the low bytes of D there; TAG says
how the slot is used. SLOT.FILL writes the pattern of register V over and over, SLOT.COPY the bytes at AA, to AD (R185). -/
def Obligations.LoadsStoresFillCopy : Prop :=
  (∀ i s s1, Ready 6 0x01 (legalM 2 true) regsLd i s →
    let a := lsAddr i s
    let n := lsBytes i
    let uses := [(a / 512, ldUse (fTag i.w))]
    badRange s i.tile a n = false → a % n = 0 → SlotsOk i s uses s1 →
    let e := checked i 5 s1 [(a, n)]
    let v := leNat (loaded i s e a n)
    exec (.ld i) s = .next (settled i s uses (setXreg e.2 i.tile i.thr (fD i.w)
      (BitVec.ofNat 64 (if fSext i.w then ofSigned 64 (toSigned (8 * n) v) else v))))) ∧
  (∀ i s s1, Ready 6 0x02 (legalM 1 false) regsSt i s →
    let a := lsAddr i s
    let n := lsBytes i
    let uses := [(a / 512, stUse (fTag i.w))]
    badRange s i.tile a n = false → a % n = 0 → SlotsOk i s uses s1 →
    exec (.st i) s = .next (settled i s uses (stored i s s1 a (leBytes n (i.reg s (fD i.w)).toNat)))) ∧
  (∀ i s s1, Ready 6 0x10 legalFill regsFill i s →
    let n := slotN i s
    let a := slotD i s
    let uses := rangeUses a n (if fDk i.w = 1 then .produce else .poke)
    32 ≤ n ∧ n ≤ 16777216 ∧ n % 32 = 0 → rangeOk s i.tile a n → SlotsOk i s uses s1 →
    exec (.slotFill i) s = .next (settled i s uses
      (stored i s s1 a ((List.range n).map (fun j => nth 0 (leBytes 8 (i.reg s (fV i.w)).toNat) (j % 8)))))) ∧
  (∀ i s s1, Ready 6 0x11 legalCopy regsCopy i s →
    let n := slotN i s
    let a := slotD i s
    let b := slotA i s
    let uses := rangeUses a n (if fDk i.w = 1 then .produce else .poke) ++ rangeUses b n (skUse (fSk i.w))
    32 ≤ n ∧ n ≤ 16777216 ∧ n % 32 = 0 → rangesOverlap a n b n = false → rangeOk s i.tile a n → rangeOk s i.tile b n →
    SlotsOk i s uses s1 →
    let e := checked i 5 s1 [(b, n)]
    exec (.slotCopy i) s = .next (settled i s uses (stored i s e.2 a (loaded i s e b n))))

/-- SLOT.TAG sets empty, sets full, retains and releases; SLOT.TEST returns the tag's code; a request that waited counts once (R185, R214,
R215, R222). -/
def Obligations.SlotTags : Prop :=
  TagResult .slotTagEmpty 0 (fun _ => .empty) ∧
  TagResult .slotTagFull 1 (fun _ => .full) ∧
  TagResult .slotTagRetain 2 (fun g => if g = .full then .retained else g) ∧
  TagResult .slotTagRelease 3 (fun g => if g = .retained then .full else g) ∧
  (∀ i s, Ready 6 0x21 (fun w => specOk (fD w) && zero w 38 0) (fun w => [32 + bitsOf w 41 39]) i s →
    let slot := (i.reg s (32 + bitsOf i.w 41 39)).toNat
    badRange s i.tile (512 * slot) 512 = false →
    Gives (.slotTest i) s (fun t => Retired i s t (pcOf i s + 8) ∧ WroteReg i s t (fD i.w)
      (match tagAt s i.tile (i.task s) slot with
       | .empty => 0
       | .full => 1
       | .retained => 2))) ∧
  (∀ tile now s, Gives (.spadAgePromote tile now) s (fun t =>
    rd t (tilePg tile 5 + 0x144) = min (rd s (tilePg tile 5 + 0x144) + 1) 0xFFFFFFFF ∧ t.tl = s.tl ∧ t.mem = s.mem))

/-- A store changes exactly the bytes it names: in a range that no running code region drops, a thread outside tasks stores its bytes and no
others; into a running code region nothing is stored and CODE_WR is set (R154). -/
def Obligations.StoresChangeTheirBytes : Prop :=
  ∀ (s : State) (t a : Nat) (bs : List Byte),
    (rangeHitsCode s t none a bs.length = false →
      (∀ x, cGet (fun _ => (0 : Byte)) (pokeBytes s t none a bs).tl.spad x =
        if 2 ^ 24 * t + a ≤ x ∧ x < 2 ^ 24 * t + a + bs.length then nth 0 bs (x - (2 ^ 24 * t + a))
        else cGet (fun _ => (0 : Byte)) s.tl.spad x) ∧
      (pokeBytes s t none a bs).win = s.win) ∧
    (tileRunning s t = true → bs ≠ [] → (∀ x, a ≤ x ∧ x < a + bs.length → inCode s t (x / 512) = true) →
      (pokeBytes s t none a bs).tl = s.tl ∧ rdB (pokeBytes s t none a bs) (tilePg t 0 + hIntStat) 6 = true)

/-- Once its accesses are complete, an operation of a thread outside tasks has set every slot that it produced full and every slot that it
consumed empty, and has left every other tag, every byte and every register as it was (R160, R215). -/
def Obligations.TagsSettle : Prop :=
  ∀ (s : State) (t : Nat) (uses : List (Nat × Use)), t < 288 → (∀ u ∈ uses, u.1 < 32768) →
    firstBlocked s t none uses = none →
    let s' := settleTags s t none uses
    (∀ x, (x, Use.produce) ∈ uses → tagRaw s' t x = .full) ∧
    (∀ x, (x, Use.consume) ∈ uses → tagRaw s' t x = .empty) ∧
    (∀ t' x, t' < 288 → x < 32768 → (t' ≠ t ∨ ((x, Use.produce) ∉ uses ∧ (x, Use.consume) ∉ uses)) →
      tagRaw s' t' x = tagRaw s t' x) ∧
    s'.tl.spad = s.tl.spad ∧ s'.tl.xr = s.tl.xr ∧ s'.win = s.win ∧ s'.mem = s.mem

/-- The elementwise operations of the vector unit (R187). VCVT (R101 to R105, R186, R187): the elements of D, with the block scales of an MX
destination at C, the draws of stochastic rounding counted, and each non-finite element of a gradient conversion detected at its index. -/
def Obligations.VectorElementwise : Prop :=
  MapResult .vadd 0x01 { ab := true } (fun _ _ _ a b _ => fpAdd a b) ∧
  MapResult .vsub 0x02 { ab := true } (fun _ _ _ a b _ => fpAdd a (fpNeg b)) ∧
  MapResult .vmul 0x03 { ab := true } (fun _ _ _ a b _ => fpMul a b) ∧
  MapResult .vmax 0x04 { ab := true } (fun _ _ _ a b _ => fpMax a b) ∧
  MapResult .vmin 0x05 { ab := true } (fun _ _ _ a b _ => fpMin a b) ∧
  MapResult .vabs 0x06 {} (fun _ _ _ a _ _ => fpAbs a) ∧
  MapResult .vfma 0x07 { ab := true, ac := true, consC := true } (fun _ _ _ a b c => fpAdd (fpMul a b) c) ∧
  MapResult .vscale 0x08 { sx := true } (fun i s _ a _ _ => fpMul a (fp32.decode (vX i s % 2 ^ 32))) ∧
  (∀ i s s1, Ready 1 0x10 legalVcvt (fun w => [fAd w, fAa w, fSn w] ++ (if isMx (fFs w) then [fAbV w] else []) ++
      (if isMx (fFd w) then [fAc w] else []) ++ (if fGrad w then [fSx w, fSx w + 1] else [])) i s →
    let n := vN i s
    let fs := fFs i.w
    let fd := fFd i.w
    let rs := [VRange.mk (vD i s) (elemBytes fd n) .produce, ⟨vA i s, elemBytes fs n, vUse i 16⟩] ++
      (if isMx fs then [VRange.mk (vB i s) (ceilDiv n 32) (vUse i 15)] else []) ++
      (if isMx fd then [VRange.mk (vC i s) (ceilDiv n 32) .produce] else [])
    1 ≤ n ∧ n ≤ 16384 → RangesOk i s rs s1 →
    let e := checked i 4 s1 (sources rs)
    let vals := operandVals i s e fs n
    let sr := fGrad i.w && decide (fs ≤ 9) && fd != 0
    let rnd := vRound i e.2 sr n
    let t := if sr then countSr e.2 i.tile n ((vals.zip rnd).filter (fun p => convUp fd p.2 p.1)).length else e.2
    let m := convMx fd rnd vals
    let q := convPlain fd rnd vals
    let t' := if isMx fd then stored i s (stored i s t (vD i s) (pack fd m.2.1)) (vC i s) (m.1.map (BitVec.ofNat 8))
      else stored i s t (vD i s) (pack fd q.1)
    let bad := (vals.map FpVal.nonFinite).zip (if isMx fd then m.2.2 else q.2)
    exec (.vcvt i) s = .next (settled i s (usesOf rs)
      (if fGrad i.w then detectGrad i.tile (vX1 i s) 0 (bad.map (fun p => p.1 || p.2)) t' else t')))

/-- VRSUM and VRMAX reduce A, VDOT the products of A and B rounded to FP32 (R107, R187). The backward operations (R49, R187): VDACT
multiplies f′(A) by B, with α = s(SX)[31:0] for the leaky form; VDSMAX and VDNORM work on rows of L = s(SX)[15:0] elements. -/
def Obligations.VectorReductionsAndBackward : Prop :=
  ReduceResult .vrsum 0x18 false (fun a _ => reduce addRne a) ∧
  ReduceResult .vrmax 0x19 false (fun a _ => reduce fpMax a) ∧
  ReduceResult .vdot 0x1A true (fun a b => reduce addRne (List.zipWith mulRne a b)) ∧
  (∀ i s s1,
    let u : VUses := { ab := true, sx := fFnV i.w == 1, maxFn := 4 }
    Ready 1 0x20 (legalArith u) (regsV u) i s → 1 ≤ vN i s ∧ vN i s ≤ 16384 → RangesOk i s (rangesV u i s) s1 →
    let f := fFs i.w
    let l := laneFmtOf i
    let n := vN i s
    let e := checked i 4 s1 (sources (rangesV u i s))
    let alpha := if fFnV i.w = 1 then fp32.decode (vX i s % 2 ^ 32) else oneF
    exec (.vdact i) s = .next (settled i s (usesOf (rangesV u i s)) (stored i s e.2 (vD i s)
      (pack f (List.zipWith (fun y dy => l.convert .rne (fpMul (l.rnd (vdactDeriv (fFnV i.w) alpha y)) dy))
        (elems i s e f (vA i s) n) (elems i s e f (vB i s) n)))))) ∧
  (∀ i s s1, Ready 1 0x21 (legalArith { ab := true, sx := true }) (fun w => [fAd w, fAa w, fAbV w, fSn w, fSx w]) i s →
    let f := fFs i.w
    let n := vN i s
    let row := vX i s % 65536
    let by_ := elemBytes f n
    let rs := [VRange.mk (vD i s) by_ .produce, ⟨vA i s, by_, vUse i 16⟩, ⟨vB i s, by_, vUse i 15⟩]
    1 ≤ n ∧ n ≤ 16384 ∧ 1 ≤ row ∧ n % row = 0 → RangesOk i s rs s1 →
    let e := checked i 4 s1 (sources rs)
    exec (.vdsmax i) s = .next (settled i s (usesOf rs) (stored i s e.2 (vD i s)
      (pack f (List.zipWith (softmaxRow (laneFmtOf i)) (rowsOf row (n / row) (elems i s e f (vA i s) n))
        (rowsOf row (n / row) (elems i s e f (vB i s) n))).flatten)))) ∧
  (∀ i s s1, Ready 1 0x22 (legalArith { ab := true, ac := true, sx := true, consC := true, maxFn := 1 })
      (fun w => [fAd w, fAa w, fAbV w, fAc w, fSn w, fSx w]) i s →
    let f := fFs i.w
    let n := vN i s
    let row := vX i s % 65536
    let by_ := elemBytes f n
    let rs := [VRange.mk (vD i s) by_ .produce, ⟨vA i s, by_, vUse i 16⟩, ⟨vB i s, by_, vUse i 15⟩,
      ⟨vC i s, elemBytes f row, vUse i 14⟩]
    1 ≤ n ∧ n ≤ 16384 ∧ 1 ≤ row ∧ n % row = 0 → RangesOk i s rs s1 →
    let e := checked i 4 s1 (sources rs)
    let eps := fp32.decode (vX i s / 2 ^ 32)
    let g := elems i s e f (vC i s) row
    exec (.vdnorm i) s = .next (settled i s (usesOf rs) (stored i s e.2 (vD i s)
      (pack f (List.zipWith (fun x dy => if fFnV i.w = 0 then rmsRow (laneFmtOf i) eps g x dy else layerRow (laneFmtOf i) eps g x dy)
        (rowsOf row (n / row) (elems i s e f (vA i s) n)) (rowsOf row (n / row) (elems i s e f (vB i s) n))).flatten))))

/-- VZMAP writes the zero map of A (R85, R187), VROUTE the k best experts of each row at D and the dispatch list at C (R188). -/
def Obligations.VectorMapsAndRoutes : Prop :=
  (∀ i s s1, Ready 1 0x28 (fun w => vFieldsOk { ab := isMx (fFs w), sx := true, fd := false } w && decide (1 ≤ fFs w) &&
      decide (fFs w ≤ 0xA) && !(fGrad w))
      (fun w => [fAd w, fAa w, fSn w, fSx w] ++ (if isMx (fFs w) then [fAbV w] else [])) i s →
    let n := vN i s
    let f := fFs i.w
    let kc := vX i s % 65536
    let m := n / kc
    let rs := [VRange.mk (vD i s) (8 * ceilDiv (ceilDiv m 16 * (kc / 16)) 64) .produce, ⟨vA i s, elemBytes f n, vUse i 16⟩] ++
      (if isMx f then [VRange.mk (vB i s) (ceilDiv n 32) (vUse i 15)] else [])
    1 ≤ n ∧ n ≤ 16384 ∧ 1 ≤ kc ∧ kc % (if isMx f then 32 else 16) = 0 ∧ n % kc = 0 → RangesOk i s rs s1 →
    let e := checked i 4 s1 (sources rs)
    exec (.vzmap i) s = .next (settled i s (usesOf rs) (stored i s e.2 (vD i s)
      (bitsToBytes (zeroMapBits kc (rowsOf kc m ((operandVals i s e f n).map FpVal.isZero))))))) ∧
  (∀ i s s1, Ready 1 0x30 (fun w => vFieldsOk { ac := true, sx := true, fd := false } w && zero w 25 22 && !(fGrad w) &&
      decide (fSx w ≤ 30)) (fun w => [fAd w, fAa w, fAc w, fSn w, fSx w, fSx w + 1]) i s →
    let n := vN i s
    let x := vX i s
    let ex := x % 512
    let k := bitsOf x 19 16
    let rs := [VRange.mk (vD i s) (8 * n * k) .produce, ⟨vA i s, 4 * n * ex, vUse i 16⟩,
      ⟨vC i s, 32 * ceilDiv (4 * ex) 32 + 4 * n * ex, .produce⟩]
    1 ≤ n ∧ n ≤ 512 ∧ 1 ≤ ex ∧ ex ≤ 256 ∧ 1 ≤ k ∧ k ≤ 8 ∧ k ≤ ex → RangesOk i s rs s1 →
    let e := checked i 4 s1 (sources rs)
    let sels := (rowsOf ex n (elems i s e 0 (vA i s) (n * ex))).map (topK k)
    exec (.vroute i) s = .next (settled i s (usesOf rs)
      (stored i s (stored i s e.2 (vD i s) ((sels.map (routeEntries (x.testBit 24))).flatten)) (vC i s)
        (dispatchList ex n (vX1 i s % 2 ^ 32) sels))))

/-- The special-function unit (R108, R190): SFU.FN on lanes, SFU.DACT times the derivative, SFU.FNS on a register. -/
def Obligations.SpecialFunctions : Prop :=
  (∀ i s s1, Ready 2 0x01 legalSfuFn (fun w => [fAd w, fAa w, fSn w] ++ (if fGrad w then [fSx w, fSx w + 1] else [])) i s →
    let n := vN i s
    let f := fFs i.w
    let rs := [VRange.mk (vD i s) (elemBytes f n) .produce, ⟨vA i s, elemBytes f n, vUse i 16⟩]
    1 ≤ n ∧ n ≤ 16384 → RangesOk i s rs s1 →
    let e := checked i 4 s1 (sources rs)
    let src := elems i s e f (vA i s) n
    let res := src.map (fun v => fp32.decode (sfuEval ((SfuFn.ofCode (fFnV i.w)).getD .exp) (fp32.convert .rne v)))
    let sr := fGrad i.w && f != 0
    let rnd := vRound i e.2 sr n
    let t := if sr then countSr e.2 i.tile n ((res.zip rnd).filter (fun p => convUp f p.2 p.1)).length else e.2
    let q := convPlain f rnd res
    let t' := stored i s t (vD i s) (pack f q.1)
    exec (.sfuFn i) s = .next (settled i s (usesOf rs)
      (if fGrad i.w then detectGrad i.tile (vX1 i s) 0 ((src.zip q.2).map (fun p => p.1.nonFinite || p.2)) t' else t'))) ∧
  (∀ i s s1, Ready 2 0x02 (legalArith { ab := true, maxFn := 3 }) (fun w => [fAd w, fAa w, fAbV w, fSn w]) i s →
    let n := vN i s
    let f := fFs i.w
    let by_ := elemBytes f n
    let l := laneFmtOf i
    let rs := [VRange.mk (vD i s) by_ .produce, ⟨vA i s, by_, vUse i 16⟩, ⟨vB i s, by_, vUse i 15⟩]
    1 ≤ n ∧ n ≤ 16384 → RangesOk i s rs s1 →
    let e := checked i 4 s1 (sources rs)
    exec (.sfuDact i) s = .next (settled i s (usesOf rs) (stored i s e.2 (vD i s)
      (pack f (List.zipWith (fun x dy => l.convert .rne (fpMul (l.rnd (fp32.decode (sfuDeriv (fFnV i.w) (fp32.convert .rne x)))) dy))
        (elems i s e f (vA i s) n) (elems i s e f (vB i s) n)))))) ∧
  (∀ i s, Ready 2 0x03 (fun w => specOk (fD w) && specOk (fA w) && fB w == 0 && decide (bitsOf w 29 25 ≤ 9) && zero w 24 0)
      regsA i s →
    Gives (.sfuFns i) s (fun t => Retired i s t (pcOf i s + 8) ∧ WroteReg i s t (fD i.w) (BitVec.ofNat 64
      (sfuEval ((SfuFn.ofCode (bitsOf i.w 29 25)).getD .exp) ((i.reg s (fA i.w)).toNat % 2 ^ 32)))))

/-- OPT.STEP (R124, R125, R189): a span whose parameter block and slot list hold no reserved value runs the microprogram of R126 on its
elements (optElem) once its slots allow it and Temper has room for its layer; a faulted block is detected and writes nothing. -/
def Obligations.OptimizerStep : Prop :=
  ∀ i s, Ready 1 0x38 (fun w => zero w 36 0) (fun w => [fAd w, fAa w, bitsOf w 41 37]) i s →
    let ap := vD i s
    let al := vA i s
    let n := (i.reg s (bitsOf i.w 41 37)).toNat
    let s0 := i.here s
    let e0 := spadEcc s0 i.tile [(ap, 64), (al, 32)] i.ecc
    let b := loadBytes s i.tile (i.task s) e0.1 ap 64
    let l := loadBytes s i.tile (i.task s) e0.1 al 32
    let base := leNat (slice l 24 8)
    1 ≤ n ∧ n ≤ 4096 → badRange s i.tile ap 64 = false → badRange s i.tile al 32 = false → ap % 64 = 0 → al % 32 = 0 →
    (pbOk b l = false →
      exec (.optStep i) s = .next (i.retired s (detectTile (spadEccNote e0.2 i.tile 4 e0.1) i.tile 1 base))) ∧
    (∀ s1, pbOk b l = true → (∀ o ∈ optOperands b n, badRange s i.tile (512 * optSlot l o.1) o.2 = false) →
      ninthLayer s i.tile = false → SlotsOk i s (optUses b l n) s1 →
      let ins := ((optOperands b n).filter (fun o => optUse o.1 != .produce)).map (fun o => (512 * optSlot l o.1, o.2))
      let e := checked i 4 s1 ([(ap, 64), (al, 32)] ++ ins)
      exec (.optStep i) s = .next (settled i s (optUses b l n) (optRun e.2 i.ctx e.1 b l n base)))

/-- An HBM operation from its port to its bytes: it arrives at the controller that its address names, is admitted while its class has
allowance, when it is charged and takes effect, and a burst slot serves the operation that the controller chooses (R250 to R254, R262 to
R264). The request sorter: gather operations that are due are merged and leave the sorter, and a request that the bank cap has held for
more than 2 µs sets HOLD (R256 to R258). -/
def Obligations.HbmOperations : Prop :=
  (∀ op now s o, findOp s op = some o → o.stage = .released →
    heldByMigration s o.part o.addr o.kind.changes = false → behindSource s o = false → tierAt s o.part o.addr = 0 →
    Gives (.hbmOpArrive op now) s (fun t =>
      findOp t op = some { o with stage := .arrived, arrived := max s.time now, ctl := (ctlOf s o.part o.addr).1,
                                  q := (ctlOf s o.part o.addr).2 } ∧
      t.mem.hbm = s.mem.hbm)) ∧
  (∀ op ecc now s o, findOp s op = some o → o.stage = .arrived → canAdmit s o = true →
    let s0 := chargeClass (tick s now) o.ctl o.cls o.charge
    (o.kind = .read → exec (.hbmOpAdmit op ecc now) s =
      .next (notePeak (putOp (opEffect s0 o).2 { o with stage := .admitted, data := (opEffect s0 o).1 }) o.ctl)) ∧
    (o.kind = .write → exec (.hbmOpAdmit op ecc now) s =
      .next (inc64 (putOp (opEffect s0 o).2 { o with stage := .admitted }) (ctlPg o.ctl 0 + 0x128) o.sectors)) ∧
    (o.kind ≠ .read → o.kind ≠ .write → ecc = .clean → notArmed s0 (ctlPg o.ctl 0) → exec (.hbmOpAdmit op ecc now) s =
      .next (inc64 (putOp (opEffect s0 o).2 { o with stage := .admitted, data := (opEffect s0 o).1 }) (ctlPg o.ctl 0 + 0x130)
        o.sectors))) ∧
  (∀ (ctl : Fin 32) (pc : Fin 64) now s o, chooseOp (tick s now) ctl pc = some o → notArmed s (ctlPg ctl 0) →
    Gives (.hbmBurstSlot ctl pc .clean now) s (fun t =>
      rowOf t ctl pc o.bank = some o.row ∧ (chanOf t ctl pc).writing = o.kind.changes ∧
      t.mem.ops = (if o.owners.isEmpty then s.mem.ops.filter (fun x => x.id != o.id)
        else s.mem.ops.map (fun x => if x.id = o.id then { o with stage := .served } else x)) ∧
      t.mem.hbm = s.mem.hbm)) ∧
  (∀ op now s o, findOp s op = some o → o.stage = .admitted → o.arrived + 2000 < max s.time now → o.aged = false →
    Gives (.hbmAgePromote op now) s (fun t =>
      t.mem.ops = s.mem.ops.map (fun x => if x.id = o.id then { o with aged := true } else x) ∧
      Counted s t (ctlPg o.ctl 0 + 0x148) 1)) ∧
  (∀ (tile : Fin 288) now s, gatherDue (tick s now) tile = true → Gives (.sorterGatherRelease tile now) s (fun t =>
    (∀ o ∈ t.mem.ops, o.tile = some tile.val → o.stage ≠ .sorter) ∧
    (∀ o ∈ s.mem.ops, o.tile ≠ some tile.val → o ∈ t.mem.ops))) ∧
  (∀ (tile : Fin 288) desc now s d since, d ∈ cGet (fun _ => []) s.blw.descs tile → d.id = desc → d.capped = some since →
    since + 2000 < max s.time now →
    Gives (.sorterHold tile desc now) s (fun t => rdB t (tilePg tile 7 + hIntStat) 0 = true ∧ t.mem = s.mem))

/-- What a controller does by itself: allowances and the rotation renewed at each window, refresh, patrol scrubbing, heat, tracking and
training (R244, R253, R266, R269, R270, R272). -/
def Obligations.HbmUpkeep : Prop :=
  (∀ now s, Gives (.hbmWindowStart now) s (fun t =>
    t.mem.used = [] ∧ (∀ c ∈ t.mem.chans, c.2.grants = [0, 0, 0]) ∧ t.mem.ops = s.mem.ops ∧ t.mem.hbm = s.mem.hbm)) ∧
  (∀ (ctl : Fin 32) (pc bank : Fin 64) now s, Gives (.hbmRefresh ctl pc bank now) s (fun t =>
    rowOf t ctl pc bank = none ∧ Counted s t (ctlPg ctl 0 + 0x144) 1 ∧ t.mem.hbm = s.mem.hbm)) ∧
  (∀ (ctl : Fin 32) sector a now s, rdB s (ctlPg ctl 0 + 0x100) 1 = true → notArmed s (ctlPg ctl 0) →
    Gives (.patrolScrub ctl sector (.corrected a) now) s (fun t =>
      Counted s t (ctlPg ctl 0 + 0x150) 1 ∧ rdB t (ctlPg ctl 0 + hIntStat) 0 = true ∧ t.mem = s.mem)) ∧
  (∀ (ctl : Fin 32) temp now s, temp < 95 → notArmed s (ctlPg ctl 0) →
    Gives (.hbmThermalRead ctl temp now) s (fun t =>
      rdF t (ctlPg ctl 0 + 0x10C) 23 16 = temp ∧
      rdF t (ctlPg ctl 0 + 0x10C) 12 8 = nextScale (rdF s (ctlPg ctl 0 + 0x10C) 12 8) temp (rdF s (ctlPg ctl 0 + 0x110) 15 8)
        (rdF s (ctlPg ctl 0 + 0x110) 7 0) (rdB s (ctlPg ctl 0 + 0x104) 15) ∧ t.mem = s.mem)) ∧
  (∀ (ctl : Fin 32) now s, Gives (.hbmTrackMove ctl now) s (fun t => Counted s t (ctlPg ctl 6 + 0x104) 1 ∧ t.mem = s.mem)) ∧
  (∀ (ctl : Fin 32) now s, Gives (.hbmRetrainDone ctl .trained now) s (fun t =>
    rdF t (ctlPg ctl 0 + 0x104) 13 12 = rdF s (ctlPg ctl 0 + 0x108) 1 0 ∧
    cGet (fun _ => false) t.mem.paused ctl = false ∧ t.mem.hbm = s.mem.hbm))

/-- The commands of the TIER page on one page (R283 to R287): MAP takes a frame and zeroes it, UNMAP frees the page, HINT sets its hint,
MIGRATE takes a frame of the tier and holds the page's writes until the copy completes. A page's copy completes once no write to it is
on its way: the page is in its new frame, and the migration is over (R287). -/
def Obligations.TierCommands : Prop :=
  (∀ r s sl p g f sF, TierCommand 1 r s sl p g → (pageEntry s p g).tier = 3 → cmdTier r < 3 → cmdHint r ≤ 3 →
    tierOn s p (cmdTier r) = true → takeFrame 3 (tierBusy r s sl) p (cmdTier r) = some (f, sF) →
    lowSlice sF p = sl →
    Gives (.tierMap r) s (fun t => TierDone t sl ∧ cGet (fun _ => {}) t.mem.pages (2 ^ 27 * p + g) =
      { touch := 0, tier := cmdTier r, hint := cmdHint r, user := cmdUser r, frame := f })) ∧
  (∀ r s sl p g, TierCommand 2 r s sl p g → (pageEntry s p g).tier < 3 → pinned s p g = false →
    ((pageEntry s p g).user = true → cmdUser r = true) → (pageEntry s p g).migrating = false →
    Gives (.tierUnmap r) s (fun t => TierDone t sl ∧ cGet (fun _ => {}) t.mem.pages (2 ^ 27 * p + g) = {})) ∧
  (∀ r s sl p g f sF, TierCommand 3 r s sl p g → (pageEntry s p g).tier < 3 → (pageEntry s p g).tier ≠ cmdTier r → cmdTier r < 3 →
    tierOn s p (cmdTier r) = true → pinned s p g = false → ((pageEntry s p g).user = true → cmdUser r = true) →
    (pageEntry s p g).migrating = false → ((pageEntry s p g).hint = 1 → cmdUser r = true) →
    ((pageEntry s p g).hint = 2 → cmdTier r ≠ 2) → migrating s p < 32 →
    takeFrame 3 (tierBusy r s sl) p (cmdTier r) = some (f, sF) →
    Gives (.tierMigrate r) s (fun t =>
      { part := p, page := g, tier := cmdTier r, frame := f } ∈ t.mem.migs ∧
      (cGet (fun _ => {}) t.mem.pages (2 ^ 27 * p + g)).migrating = true ∧ (cmdOf t p).isSome = true)) ∧
  (∀ r s sl p g, TierCommand 4 r s sl p g → (pageEntry s p g).tier < 3 → cmdHint r ≤ 3 → pinned s p g = false →
    ((pageEntry s p g).user = true → cmdUser r = true) → (pageEntry s p g).migrating = false →
    Gives (.tierHint r) s (fun t => TierDone t sl ∧ cGet (fun _ => {}) t.mem.pages (2 ^ 27 * p + g) =
      { pageEntry s p g with hint := cmdHint r, user := cmdUser r })) ∧
  (∀ (part : Fin 8) page now s m, s.mem.migs.find? (fun m => m.part == part.val && m.page == page) = some m →
    (∀ o ∈ s.mem.ops, o.part = part.val → swapOf s part (o.addr / pageBytes) = page → o.kind.changes = true → o.stage ≠ .arrived) →
    cmdOf s part = none →
    Gives (.migrationDone part page now) s (fun t =>
      cGet (fun _ => {}) t.mem.pages (2 ^ 27 * part.val + page) =
        { pageEntry s part page with tier := m.tier, frame := m.frame, migrating := false } ∧
      (∀ x ∈ t.mem.migs, ¬ (x.part = part.val ∧ x.page = page))))

/-- Flash: a unit reaches SD's buffer, a checkpoint writes the map after 16 GiB, relocation and wear levelling write what the block holds, a
failed block is retired; a translation point reads a page's entry (R282, R292, R295 to R297). -/
def Obligations.FlashAndTranslation : Prop :=
  (∀ (part : Fin 8) page now s, tiered s part = true → page < partPages s part →
    Gives (.xlatMissFill part page now) s (fun t => Counted s t (tierPg (lowSlice s part) + 0x160) 1 ∧ t.mem.hbm = s.mem.hbm)) ∧
  (∀ unit now s, Gives (.flashUnitRead unit .clean now) s (fun t =>
    (unit, false) ∈ t.mem.flashBuf ∧ t.mem.flashBuf.length ≤ 1024 ∧ Counted64 s t (ftl0Pg + 0x128) 16384 ∧
    t.mem.flash = s.mem.flash)) ∧
  (∀ now s, 17179869184 ≤ s.mem.ftlSince → Gives (.ftlCheckpoint now) s (fun t =>
    t.mem.ftlSince = s.mem.ftlSince - 17179869184 ∧ t.mem.fresh = [] ∧ Counted64 s t (ftl0Pg + 0x130) ftlMapBytes)) ∧
  (∀ block now s, Gives (.ftlRelocation block now) s (fun t =>
    Counted s t (ftl0Pg + 0x148) 1 ∧ Counted64 s t (ftl0Pg + 0x138) (Config.freeValue s.free) ∧ t.mem = s.mem)) ∧
  (∀ block now s, Gives (.ftlBlockRetire block now) s (fun t =>
    rd t (ftl0Pg + 0x144) = (rd s (ftl0Pg + 0x144) + 1) % 2 ^ 32 ∧ t.mem = s.mem)) ∧
  (∀ block now s, Gives (.staticWearLevelling block now) s (fun t =>
    Counted64 s t (ftl0Pg + 0x138) (Config.freeValue s.free) ∧ t.mem = s.mem))

/-- STREAM_IN, PREFETCH, WRITE_BACK and GATHER: a valid descriptor whose transfer lies in the partition, and which reads into no running
code, is taken (R228 to R231); its register waits for the status, and no byte has moved yet. DRAIN and PREFETCH_FENCE. With no write of
the tile on its way a tile's DRAIN completes at once with status OK, counted with a wait of 0 µs (R241); with no entry on its range a
fence completes at once with status OK, and an entry of its range it marks for invalidation (R239). -/
def Obligations.BellowsDescriptors : Prop :=
  (∀ c ∈ [(Instr.streamIn, 1), (.prefetch, 2), (.writeBack, 3), (.gather, 4)], ∀ i s p, DescReady c.2 i s →
    blwTags s i.tile < 96 → partOfTile s i.tile = some p →
    (c.2 ≠ 4 → badPiece s p (dsPieces (descBytes i s)) = none) →
    (c.2 ≤ 2 → ∀ x ∈ dsPieces (descBytes i s), rangeHitsCode s i.tile none x.spad x.len = false) →
    Gives (c.1 i) s (fun t =>
      descsOf t i.tile = descsOf s i.tile ++ [dsMake (descBytes i s) s.blw.nextId (descAt i s) (max s.time i.now)
        (some (i.thr, (i.thread s).gen, fD i.w)) none none] ∧
      pendOf t i.tile i.thr (fD i.w) ≠ 0 ∧ (i.thread t).pc = BitVec.ofNat 32 (pcOf i s + 8) ∧
      t.tl.spad = s.tl.spad ∧ t.tl.tags = s.tl.tags ∧ t.tl.xr = s.tl.xr ∧ t.mem = s.mem)) ∧
  (∀ i s, DescReady 5 i s → (dsFlags (descBytes i s)).testBit 2 = false →
    (∀ d ∈ descsOf s i.tile, d.kind ≠ .writeBack ∧ d.kind ≠ .push ∧ d.id ≠ s.blw.nextId) →
    Gives (.drain i) s (fun t =>
      i.reg t (fD i.w) = 0 ∧ (∀ r, r ≠ fD i.w → i.reg t r = i.reg s r) ∧
      descsOf t i.tile = descsOf s i.tile ∧ Counted s t (blwTPg i.tile + 0x134) 1 ∧
      t.tl.spad = s.tl.spad ∧ t.mem = s.mem)) ∧
  (∀ i s p, Ready 4 0x02 (fun w => specOk (fD w) && zero w 33 0) (fun w => [fAb w, bitsOf w 38 34]) i s →
    (descsOf s i.tile).length < 32 → partOfTile s i.tile = some p →
    let a := (i.reg s (fAb i.w)).toNat
    let n := (i.reg s (bitsOf i.w 38 34)).toNat
    a + n ≤ partPages s p * pageBytes →
    Gives (.prefetchFence i) s (fun t =>
      (∀ c ∈ t.blw.window, ∀ e ∈ c.2, e.part = p → rangesOverlap a n e.piece.mem e.piece.len = true → e.inval.isSome = true) ∧
      ((∀ c ∈ s.blw.window, ∀ e ∈ c.2, e.fences = [] ∧ (e.part = p → rangesOverlap a n e.piece.mem e.piece.len = false)) →
        s.blw.descs = [] → i.reg t (fD i.w) = 0) ∧
      t.tl.spad = s.tl.spad ∧ t.mem = s.mem))

/-- Requests of Bellows: a read of HBM issues with its piece, a completed read lands its bytes, a completed write leaves, and an invalidated
prefetch is refilled (R230 to R232, R238). -/
def Obligations.BellowsRequests : Prop :=
  (∀ (tile : Fin 288) id ecc now s p d c rest, NextPiece s tile id p d c rest → d.kind = .streamIn ∨ d.kind = .gather →
    firstBlocked s tile d.task ((firstSlots d c).map (fun x => (x, Use.produce))) = none → behindWrite s tile p c = false →
    Gives (.blwRequestIssue tile id ecc now) s (fun t =>
      t.blw.reqs = s.blw.reqs ++ [{ id := s.blw.nextId, tile := tile, desc := some d.id, part := p, piece := c, write := false,
                                    task := d.task, tier := 0, data := [], win := none, failed := false }] ∧
      t.tl.spad = s.tl.spad ∧ t.mem.hbm = s.mem.hbm)) ∧
  (∀ (tile : Fin 288) id now s r, s.blw.reqs.find? (fun r => r.id == id && r.tile == tile.val) = some r → r.write = false →
    requestReady s r = some false → r.win = none → r.desc.isSome = true →
    rangeHitsCode s tile r.task r.piece.spad r.piece.len = false →
    Gives (.blwRequestComplete tile id now) s (fun t =>
      t.blw.reqs = s.blw.reqs.filter (fun x => x.id != r.id) ∧
      t.tl.spad = (pokeBytes s tile r.task r.piece.spad (requestData s r)).tl.spad ∧ t.mem.hbm = s.mem.hbm)) ∧
  (∀ (tile : Fin 288) id now s r, s.blw.reqs.find? (fun r => r.id == id && r.tile == tile.val) = some r → r.write = true →
    requestReady s r = some false →
    Gives (.blwRequestComplete tile id now) s (fun t =>
      t.blw.reqs = s.blw.reqs.filter (fun x => x.id != r.id) ∧ t.tl.spad = s.tl.spad ∧ t.mem.hbm = s.mem.hbm)) ∧
  (∀ (tile : Fin 288) id now s e fence, (windowOf s tile).find? (fun e => e.id == id) = some e → e.inval = some fence →
    e.reissue = false → e.filled = false →
    Gives (.prefetchInvalidate tile id now) s (fun t =>
      (windowOf t tile).find? (fun e => e.id == id) = some { e with inval := none, fences := [], stale := true } ∧
      t.tl.spad = s.tl.spad ∧ t.mem = s.mem))

/-- PUT, GET and PUTADD (R302, R303). FADD, FAND, CAS and NOTIFY, one request of one aligned word; DISPATCH, whose requests follow its list
(R302, R303, R315, R316). -/
def Obligations.TongsOperations : Prop :=
  TngResult .tngPut 0x01 (tLegal true true false [0] [0, 1, 2] 39) (tRegs true true false) bulkOk (bulkPlan .put false) ∧
  TngResult .tngGet 0x02 (tLegal true true false [0] [0, 1] 39) (tRegs true true false) bulkOk (bulkPlan .get false) ∧
  TngResult .tngPutadd 0x03 (tLegal true true false [0, 1, 2, 3] [0, 1, 2] 39) (tRegs true true false) bulkOk
    (fun i s => bulkPlan .putadd (fType i.w == 1) i s) ∧
  (∀ c ∈ [(Instr.tngFadd, 0x10, ReqOpc.fadd), (.tngFand, 0x11, .fand)],
    TngResult c.1 c.2.1 (tLegal false true false [2, 3] [0] 30) (tRegs false true false)
      (fun i s => tTarget i s % targetSize (fType i.w) = 0)
      (fun i s => wordPlan c.2.2 (targetSize (fType i.w)) (tCount i s) 0 i s)) ∧
  TngResult .tngCas 0x12 (tLegal false true true [2, 3] [0] 30) (tRegs false true true)
    (fun i s => tTarget i s % targetSize (fType i.w) = 0)
    (fun i s => wordPlan .cas (targetSize (fType i.w)) (tCount i s) (tVal i s) i s) ∧
  TngResult .tngNotify 0x20 (tLegal false false true [0] [0] 39) (tRegs false false true)
    (fun i s => tTarget i s % 8 = 0) (fun i s => wordPlan .notify 8 (tVal i s) 0 i s) ∧
  TngResult .tngDispatch 0x30 (tLegal true true true [0] [0] 39) (tRegs true true true) dispatchOk
    (fun i s => { opc := .put, dispatch := true, pieces := listPieces s i.ctx (dispatchOf i s) (dispatchOf i s).e 0 0 })

/-- Requests of Tongs: one to another module issues with its tag and its deadline, a response on time ends it with its status, and one that
stays out longer than TNG_TIMEOUT and 64 ns ends with TIMEOUT (R303, R308, R309). -/
def Obligations.TongsRequests : Prop :=
  (∀ (tile : Fin 288) op ecc now s p o c rest, findTOp s tile op = some o → partOfTile s tile = some p → o.pieces = c :: rest →
    o.fail = none → tngTags s tile < 32 → (c.last = true → o.live = []) → c.mod ≠ selfMod s p →
    hopTo s (tile.val / 72) c.mod.toNat ≠ .noRoute → o.opc = .get →
    firstBlocked s tile o.task ((c.slots.filter (fun x => !o.slots.contains x)).map (fun x => (x, o.use))) = none →
    Gives (.tngRequestIssue tile op ecc now) s (fun t =>
      t.tng.reqs = s.tng.reqs ++ [⟨s.tng.nextId, tile, o.id, pickTag s tile, max s.time now + rd s (tngTPg tile + 0x108), c, false, [],
        none⟩] ∧
      t.tl.spad = s.tl.spad ∧ t.mem = s.mem)) ∧
  (∀ p stamp now s tile r, physOf s p.tile.toNat = some tile →
    s.tng.reqs.find? (fun r => r.tile == tile && r.tag == p.tag.toNat) = some r → r.own = false →
    notArmed s (tilePg tile 10) → stamp ≤ r.deadline →
    exec (.tngResponseArrive p stamp now) s =
      .next (endReq { tick s now with lnk := { s.lnk with answers := s.lnk.answers.erase p } } r p.status.toNat p.sub.toNat p.data)) ∧
  (∀ (tile : Fin 288) (tag : BitVec 7) now s r, s.tng.reqs.find? (fun r => r.tile == tile.val && r.tag == tag.toNat) = some r →
    r.deadline + 64 < max s.time now → (∀ p ∈ s.lnk.answers, p.tag ≠ tag) → r.answer = none →
    Gives (.tngTimeout tile tag now) s (fun t =>
      t = endReq { inc (intSet (tick s now) (tngTPg tile) 2) (tngTPg tile + 0x128) with
        tng := { s.tng with stale := s.tng.stale ++ [(tile.val, r.tag)] } } r 2 0 [])) ∧
  (∀ (port : Fin 16) p ecc now s q, partOfJob s p.job = some q → partState s q = 2 →
    inPart s q p.addr.toNat (reqSpan p.opc p.etype.toNat p.len) = true → p.opc = .get →
    Gives (.tngRequestArrive (some port) p ecc now) s (fun t =>
      (∃ x, t.tng.inbound = s.tng.inbound ++ [x] ∧ x.pkt = p ∧ x.part = q ∧ x.port = port.val ∧ x.answer = none) ∧
      t.mem.hbm = s.mem.hbm))

/-- FENCE and BARRIER (R195, R196): a fence whose transfers are complete goes on; otherwise the thread is BLOCKED_XFER. A barrier holds its
threads until COUNT have arrived, and releases all in one step. HALT ends the run (R156). TASK.BEGIN, TASK.JOIN, TASK.COMMIT and
TASK.DISCARD (R168, R197). A task ends once every member's operation is complete: a commit gives each live slot its shadow's bytes, a
discard leaves every byte, and each is counted (R167, R168). -/
def Obligations.BarriersAndTasks : Prop :=
  (∀ i s, Ready 7 0x01 (fun w => bitsOf w 2 0 != 0 && zero w 47 3) noRegs i s →
    (fencePending s i.tile i.thr (i.thread s).gen (bitsOf i.w 2 0) = false →
      Gives (.fence i) s (fun t => WroteNone i s t ∧ Retired i s t (pcOf i s + 8))) ∧
    (fencePending s i.tile i.thr (i.thread s).gen (bitsOf i.w 2 0) = true →
      Gives (.fence i) s (fun t => Blocks i s t (.blockedXfer (bitsOf i.w 2 0))))) ∧
  (∀ i s, Ready 7 0x02 (fun w => decide (1 ≤ bitsOf w 44 38 ∧ bitsOf w 44 38 ≤ 64) && zero w 37 0) noRegs i s →
    let id := bitsOf i.w 47 45
    let n := bitsOf i.w 44 38
    let b := (barrierOf s i.tile id).getD { count := n, arrived := [] }
    b.count = n →
    (b.arrived.length + 1 < n → Gives (.barrier i) s (fun t =>
      Blocks i s t (.blockedSync (.barrier id)) ∧ barrierOf t i.tile id = some { b with arrived := b.arrived ++ [i.thr.val] })) ∧
    (n ≤ b.arrived.length + 1 → ThreadsOk s → Gives (.barrier i) s (fun t => WroteNone i s t ∧ barrierOf t i.tile id = none ∧
      (i.thread t).pc = BitVec.ofNat 32 (pcOf i s + 8) ∧
      ∀ th < 64, (thrOf t i.tile th).st =
        if (thrOf s i.tile th).st = .blockedSync (.barrier id) then .runnable else (thrOf s i.tile th).st))) ∧
  (∀ i s, Ready 7 0x3F (fun w => zero w 47 0) noRegs i s →
    Gives (.halt i) s (fun t => WroteNone i s t ∧
      i.thread t = { i.thread s with st := .halted, pc := BitVec.ofNat 32 (pcOf i s + 8) })) ∧
  (∀ i s, Ready 7 0x10 legalBegin regsN i s → i.task s = none →
    let k := taskK i
    let n := bitsOf i.w 12 0
    ((taskOf s i.tile k).isSome = true →
      Gives (.taskBegin i) s (fun t => WroteReg i s t (fD i.w) 3 ∧ Retired i s t (pcOf i s + 8))) ∧
    (taskOf s i.tile k = none → poolSlots s i.tile < n →
      Gives (.taskBegin i) s (fun t => WroteReg i s t (fD i.w) 4 ∧ Retired i s t (pcOf i s + 8))) ∧
    (taskOf s i.tile k = none → poolReserved s i.tile + n ≤ poolSlots s i.tile →
      Gives (.taskBegin i) s (fun t => WroteReg i s t (fD i.w) 0 ∧
        taskOf t i.tile k = some { failed := false, ending := none, reserved := n, shadows := [] } ∧
        i.thread t = { i.thread s with task := some (Fin.ofNat 4 k), pc := BitVec.ofNat 32 (pcOf i s + 8) })) ∧
    (taskOf s i.tile k = none → n ≤ poolSlots s i.tile → poolSlots s i.tile < poolReserved s i.tile + n →
      Gives (.taskBegin i) s (fun t => Blocks i s t (.blockedSync (.taskBegin k n (fD i.w))) ∧
        pendOf t i.tile i.thr (fD i.w) ≠ 0))) ∧
  (∀ i s, Ready 7 0x11 legalTask regsN i s → i.task s = none →
    ((∃ x, taskOf s i.tile (taskK i) = some x ∧ x.ending = none) →
      Gives (.taskJoin i) s (fun t => WroteReg i s t (fD i.w) 0 ∧
        i.thread t = { i.thread s with task := some (Fin.ofNat 4 (taskK i)), pc := BitVec.ofNat 32 (pcOf i s + 8) })) ∧
    (taskOf s i.tile (taskK i) = none →
      Gives (.taskJoin i) s (fun t => WroteReg i s t (fD i.w) 2 ∧ Retired i s t (pcOf i s + 8)))) ∧
  (∀ c ∈ [(Instr.taskCommit, 0x12, true), (.taskDiscard, 0x13, false)], ∀ i s, Ready 7 c.2.1 legalTask regsN i s →
    (∀ x, taskOf s i.tile (taskK i) = some x → i.task s = some (Fin.ofNat 4 (taskK i)) → x.ending = none →
      Gives (c.1 i) s (fun t => taskOf t i.tile (taskK i) = some { x with ending := some c.2.2 } ∧
        Blocks i s t (.blockedSync (.taskEnd (taskK i) c.2.2 (fD i.w))))) ∧
    (i.task s ≠ some (Fin.ofNat 4 (taskK i)) →
      Gives (c.1 i) s (fun t => WroteReg i s t (fD i.w) 2 ∧ Retired i s t (pcOf i s + 8)))) ∧
  (∀ (tile : Fin 288) (k : Fin 4) now s x, taskOf s tile k = some x → x.ending = some true → taskBusy s tile k = false →
    (x.failed = false → Gives (.taskCommitApply tile k now) s (fun t => Counted s t (tilePg tile 0 + 0x14C) 1 ∧
      t.tl.spad = (x.shadows.foldl (commitSlot tile) s).tl.spad ∧ t.mem = s.mem)) ∧
    (x.failed = true → Gives (.taskCommitApply tile k now) s (fun t => Counted s t (tilePg tile 0 + 0x150) 1 ∧
      t.tl.spad = s.tl.spad ∧ t.mem = s.mem))) ∧
  (∀ (tile : Fin 288) (k : Fin 4) now s x, taskOf s tile k = some x → x.ending = some false → taskBusy s tile k = false →
    Gives (.taskDiscardApply tile k now) s (fun t => Counted s t (tilePg tile 0 + 0x150) 1 ∧
      t.tl.spad = s.tl.spad ∧ t.mem = s.mem))

/-- HD's control of threads (R156, R162, R175): a start loads PC and a0 and clears every other register; a start of a thread that is not
HALTED is counted; THR_CLR clears a fault; HALT_ALL halts; the watchdog records a thread blocked for too long. Tile reset (R171): every
thread of the tile HALTED with no register state, every slot EMPTY, every byte 0, no request of its Bellows or Tongs waiting; the other
tiles' bytes, and memory, as they were. It ends once its transfers have. A spare takes a failed tile's number, and the route of it
(R173). -/
def Obligations.ThreadControlAndResets : Prop :=
  (∀ r s (tile : Fin 288), r.off.toNat = tilePg tile 1 + 0x510 →
    let th := bitsOf r.val.toNat 5 0
    let pc := rd s (tilePg tile 1 + 0x500)
    (canStart s tile th = true → pcFault s tile pc = none → Gives (.tileThrStart r) s (fun t =>
      thrOf t tile th = { st := .runnable, pc := BitVec.ofNat 32 pc, task := (thrOf s tile th).task, gen := (thrOf s tile th).gen + 1 } ∧
      xreg t tile th 32 = BitVec.ofNat 64 (rd64 s (tilePg tile 1 + 0x508)) ∧
      (∀ x, x < 64 → x ≠ 32 → xreg t tile th x = 0) ∧ (∀ x, x < 4 → preg t tile th x = false) ∧
      t.tl.spad = s.tl.spad ∧ t.tl.tags = s.tl.tags ∧ t.mem = s.mem)) ∧
    (canStart s tile th = false → Gives (.tileThrStart r) s (fun t =>
      Counted s t (tilePg tile 0 + 0x154) 1 ∧ t.tl = s.tl ∧ t.mem = s.mem))) ∧
  (∀ r s (tile : Fin 288), r.off.toNat = tilePg tile 1 + 0x514 →
    Gives (.tileThrClr r) s (fun t =>
      (thrOf t tile (bitsOf r.val.toNat 5 0)).st =
        (if (thrOf s tile (bitsOf r.val.toNat 5 0)).st = .faulted then .halted else (thrOf s tile (bitsOf r.val.toNat 5 0)).st) ∧
      t.win = s.win ∧ t.mem = s.mem)) ∧
  (∀ r s (tile : Fin 288), r.off.toNat = tilePg tile 0 + 0x100 → r.val.toNat.testBit 2 = true →
    Gives (.haltAll r) s (fun t => (∀ th < 64, (thrOf t tile th).st = .halted) ∧
      t.tl.xr = s.tl.xr ∧ t.tl.pr = s.tl.pr ∧ t.tl.spad = s.tl.spad ∧ t.blw = s.blw ∧ t.tng = s.tng ∧ t.mem = s.mem)) ∧
  (∀ (tile : Fin 288) (thr : Fin 64) now s,
    let x := thrOf s tile thr
    let w := rdF s (tilePg tile 0 + 0x11C) 19 0
    w ≠ 0 → 2 ≤ x.st.code → x.st.code ≤ 4 → x.since + 1000 * w < max s.time now →
    Gives (.tileWatchdog tile thr now) s (fun t =>
      rd t (tilePg tile 0 + 0x124) = x.st.code * 2 ^ 29 + thr.val * 2 ^ 18 + x.st.slot % 2 ^ 15 ∧
      rdB t (tilePg tile 0 + hIntStat) 1 = true ∧ t.tl = s.tl ∧ t.mem = s.mem)) ∧
  (∀ c ∈ [Instr.tileReset, .tileResetTest], ∀ (tile : Fin 288) now s, tileResetting s tile = false →
    Gives (c tile now) s (fun t =>
      (∀ th < 64, (thrOf t tile th).st = .halted ∧ ∀ x < 64, xreg t tile th x = 0) ∧
      (∀ x < 32768, tagRaw t tile x = .empty) ∧ (∀ a < 2 ^ 24, spByte t tile a = 0) ∧
      (∀ (u : Fin 288) a, u ≠ tile → a < 2 ^ 24 → spByte t u a = spByte s u a) ∧
      descsOf t tile = [] ∧ (∀ o ∈ t.tng.ops, o.tile ≠ tile.val) ∧ t.mem = s.mem)) ∧
  (∀ (tile : Fin 288) passed now s, tileResetting s tile = true → tileTransfers s tile = false →
    exec (.tileResetDone tile passed now) s = .next
      (if rdB s (tilePg tile 0 + 0x104) 2 = true ∧ passed = false then failTile (endReset (tick s now) tile) tile
       else endReset (tick s now) tile)) ∧
  (∀ (failed spare : Fin 288) now s l, swapNumber s failed = some l → l < 256 → tileFailed s failed = true →
    logicalOf s spare = 0xFFFF → tileFailed s spare = false → sliceOf failed = sliceOf spare → sliceIdle s (sliceOf failed) = true →
    spRestarting s = false →
    Gives (.spareSwap failed spare true now) s (fun t =>
      logicalOf t spare = l ∧ rd t (nocPg (l / 64) + 0x200 + 4 * (l % 64)) = 2 ^ 31 + spare.val % 72))

/-- Arming, isolation and the membership table (R132, R136, R150). Detections by software set the sticky flag with cause SOFT, or are held
while a vote's outcome is awaited; QCH.LAYER sets the tile's layer tag (R129 to R131). -/
def Obligations.QuenchArmingAndDetections : Prop :=
  (∀ r s sl p, QchWrite r s sl p 0x100 → r.val.toNat.testBit 0 = true → armed s sl = false →
    (armOk s p sl = true → Gives (.qchArm r) s (fun t => armed t sl = true ∧
      membersOf t sl = (List.range (rdF s (qchPg sl + 0x128) 11 0)).map (fun i =>
        BitVec.ofNat 32 (memNat s p (rd64 s (qchPg sl + 0x120) + 4 * i) 4)))) ∧
    (armOk s p sl = false → Gives (.qchArm r) s (fun t => WindowOnly s t ∧ armed t sl = false ∧
      rdB t (qchPg sl + hIntStat) 6 = true))) ∧
  (∀ r s sl p, QchWrite r s sl p 0x100 → r.val.toNat.testBit 0 = false → armed s sl = true → taskState s sl = 0 →
    Gives (.qchArm r) s (fun t => armed t sl = false ∧ membersOf t sl = [] ∧ t.mem = s.mem)) ∧
  (∀ r s sl p, QchWrite r s sl p 0x100 → r.val.toNat.testBit 3 = true →
    Gives (.isoClr r) s (fun t => WindowOnly s t ∧ isolated t sl = false)) ∧
  (∀ r s sl p, QchWrite r s sl p 0x128 → armed s sl = false →
    Gives (.qchMemberCntWrite r) s (fun t => rd t (qchPg sl + 0x128) = r.val.toNat % 4096 ∧ rd t (qchPg sl + 0x12C) = 0 ∧
      cGet (fun _ => false) t.qch.crcDue sl = true ∧ t.mem = s.mem)) ∧
  (∀ (sl : Fin 8) now s p,
    let n := rdF s (qchPg sl + 0x128) 11 0
    let a := rd64 s (qchPg sl + 0x120)
    cGet (fun _ => false) s.qch.crcDue sl = true → partOfSlice s sl = some p → 1 ≤ n → n ≤ 3969 → inPart s p a (4 * n) = true →
    Gives (.memberCrcDone sl .clean now) s (fun t => rdW t (qchPg sl + 0x12C) = crc32c (memBytes s p a (4 * n)) ∧
      cGet (fun _ => false) t.qch.crcDue sl = false ∧ t.mem = s.mem)) ∧
  (∀ r s sl p, QchWrite r s sl p 0x100 → r.val.toNat.testBit 1 = true → taskState s sl ≠ 2 →
    Gives (.qchCtlRaise r) s (fun t => rdB t (qchPg sl + 0x108) 0 = true ∧ rdB t (qchPg sl + 0x108) 31 = true ∧
      rdB t (qchPg sl + hIntStat) 0 = true ∧ t.tl = s.tl ∧ t.mem = s.mem ∧ t.qch = s.qch)) ∧
  (∀ i s p, Ready 7 0x22 (fun w => zero w 47 0) noRegs i s → partOfTile s i.tile = some p →
    (taskState s (lowSlice s p) ≠ 2 → Gives (.qchRaise i) s (fun t => WroteNone i s t ∧
      rdB t (qchPg (lowSlice s p) + 0x108) 0 = true ∧ rdB t (qchPg (lowSlice s p) + 0x108) 31 = true ∧ t.mem = s.mem)) ∧
    (taskState s (lowSlice s p) = 2 → Gives (.qchRaise i) s (fun t => WroteNone i s t ∧
      rd t (qchPg (lowSlice s p) + 0x108) = rd s (qchPg (lowSlice s p) + 0x108) ∧
      (∃ d, heldAt t (lowSlice s p) = heldAt s (lowSlice s p) ++ [d] ∧ d.cause = 7 ∧ d.stamp = asStamp (max s.time i.now))))) ∧
  (∀ i s, Ready 7 0x23 (fun w => zero w 47 16) noRegs i s →
    Gives (.qchLayer i) s (fun t => layerTag t i.tile = bitsOf i.w 15 0 ∧ WroteNone i s t ∧
      (i.thread t).pc = BitVec.ofNat 32 (pcOf i s + 8) ∧ t.tl.spad = s.tl.spad ∧ t.mem = s.mem))

/-- The update task and the vote (R133, R134, R139, R198): QCH.OPEN opens the task of an armed partition, or answers ORDER; QCH.VOTE casts
the vote, whose operand clears PENDING, and FINITE too when the sticky flag is set, and blocks; an isolated module answers at once.
TMP.CLOSE (R145, R198): the layer's record is written and the layer is open no more; a tag that is not open answers NOT_OPEN. -/
def Obligations.UpdateTask : Prop :=
  (∀ i s p, Ready 7 0x20 (fun w => specOk (fD w) && zero w 41 0) regsN i s → i.task s = none → partOfTile s i.tile = some p →
    (taskState s (lowSlice s p) = 0 → armed s (lowSlice s p) = true → Gives (.qchOpen i) s (fun t =>
      WroteReg i s t (fD i.w) 0 ∧ taskState t (lowSlice s p) = 1 ∧ t.mem = s.mem)) ∧
    ((taskState s (lowSlice s p) ≠ 0 ∨ armed s (lowSlice s p) = false) → Gives (.qchOpen i) s (fun t =>
      WroteReg i s t (fD i.w) 3 ∧ Retired i s t (pcOf i s + 8)))) ∧
  (∀ i s p, Ready 7 0x21 (fun w => specOk (fD w) && zero w 41 0) regsN i s → i.task s = none → partOfTile s i.tile = some p →
    let sl := lowSlice s p
    (isolated s sl = true → Gives (.qchVote i) s (fun t => WroteReg i s t (fD i.w) 2 ∧ taskState t sl = 0 ∧ t.mem = s.mem)) ∧
    (isolated s sl = false → taskState s sl ≠ 1 → Gives (.qchVote i) s (fun t =>
      WroteReg i s t (fD i.w) 3 ∧ Retired i s t (pcOf i s + 8))) ∧
    (isolated s sl = false → taskState s sl = 1 → (∀ e ∈ shadowTable s p, e.count = 0 ∨ e.count = 65536) →
      Gives (.qchVote i) s (fun t => Blocks i s t (.blockedSync (.vote (fD i.w))) ∧ taskState t sl = 2 ∧ t.mem = s.mem ∧
        ∃ m, t.qch.posted = s.qch.posted ++ [m] ∧ IsPost m .fand (recordAt s sl (qchStep s sl % 4) + 8)
          (voteOperand (selfIdx s sl % 63) (!(rdB s (qchPg sl + 0x108) 0)))))) ∧
  (∀ i s, Ready 7 0x24 (fun w => specOk (fD w) && zero w 41 16) regsN i s → i.task s = none →
    (∀ p sl x, partOfTile s i.tile = some p → temperOf s i.tile = some sl →
      (layersOf s sl).find? (fun x => x.tag == bitsOf i.w 15 0) = some x →
      Gives (.tmpClose i) s (fun t => i.reg t (fD i.w) = 0 ∧ (∀ y ∈ layersOf t sl, y.tag ≠ bitsOf i.w 15 0) ∧
        cGet (fun _ => 0) t.qch.lastTag sl = bitsOf i.w 15 0)) ∧
    ((partOfTile s i.tile = none ∨ ∃ sl, temperOf s i.tile = some sl ∧ ∀ y ∈ layersOf s sl, y.tag ≠ bitsOf i.w 15 0) →
      Gives (.tmpClose i) s (fun t => WroteReg i s t (fD i.w) 1 ∧ Retired i s t (pcOf i s + 8))))

/-- Votes and results at a record (R137, R138, R140): one on time is taken with its stamp, one that comes after the decision is late and
changes no record; the leader and the root decide when their time has passed. An outcome is applied once, to the step that it names; a
DISCARD leaves LS_EXP's step counted and the task closed, and without an outcome in time the module is isolated (R142, R143). -/
def Obligations.VotesAndOutcomes : Prop :=
  (∀ (sl : Fin 8) (rec : Fin 4) (x : W64) now s p, armedPart s sl = some p →
    (memNat s p (recordAt s sl rec + 0x30) 4 ≠ 1 → Gives (.groupVoteArrive sl rec x now) s (fun t =>
      Counted s t (qchPg sl + 0x194) 1 ∧ rdB t (qchPg sl + hIntStat) 4 = true ∧ t.mem = s.mem ∧ t.qch.recs = s.qch.recs)) ∧
    (memNat s p (recordAt s sl rec + 0x30) 4 = 1 → (voteRec s sl rec).gdone = false → (voteRec s sl rec).firstG = none →
      pendingOf (memNat s p (recordAt s sl rec + 8) 8) ≠
        (pendingOf (memNat s p (recordAt s sl rec + 8) 8) &&& x.toNat) →
      Gives (.groupVoteArrive sl rec x now) s (fun t => (voteRec t sl rec).firstG = some (max s.time now)))) ∧
  (∀ (sl : Fin 8) (rec : Fin 4) now s p f, VoteAt s sl p rec → (voteRec s sl rec).firstG = some f → selfIdx s sl % 63 = 0 →
    (voteRec s sl rec).gdone = false → f + voteWindow s sl + 64 < max s.time now →
    let w := memNat s p (recordAt s sl rec + 8) 8
    let g := selfIdx s sl / 63
    Gives (.leaderTimeout sl rec now) s (fun t => (voteRec t sl rec).gdone = true ∧
      Counted s t (qchPg sl + 0x190) (popCount 63 w) ∧ t.mem = s.mem ∧
      ∃ a b, t.qch.posted = s.qch.posted ++ [a, b] ∧ IsPost a .put (recordAt s sl rec + 0x40 + 8 * g) w ∧
        IsPost b .fand (recordAt s sl rec + 0x10) (voteOperand g (w.testBit 63)))) ∧
  (∀ (sl : Fin 8) (rec : Fin 4) (g : Fin 63) (w : W64) now s p, armedPart s sl = some p →
    memNat s p (recordAt s sl rec + 0x30) 4 ≠ 1 →
    Gives (.rootResultArrive sl rec g w now) s (fun t =>
      Counted s t (qchPg sl + 0x194) 1 ∧ t.mem = s.mem ∧ t.qch.recs = s.qch.recs)) ∧
  (∀ (sl : Fin 8) (rec : Fin 4) (g : Fin 63) (w : W64) now s p, VoteAt s sl p rec → (voteRec s sl rec).rdone = false →
    (voteRec s sl rec).firstR = none →
    (memNat s p (recordAt s sl rec + 0x10) 8).testBit g = true →
    Gives (.rootResultArrive sl rec g w now) s (fun t => (voteRec t sl rec).firstR = some (max s.time now))) ∧
  (∀ (sl : Fin 8) (rec : Fin 4) now s p f, VoteAt s sl p rec → (voteRec s sl rec).firstR = some f → selfIdx s sl = 0 →
    (voteRec s sl rec).rdone = false → f + 2 * voteWindow s sl + 64 < max s.time now →
    Gives (.rootTimeout sl rec now) s (fun t => (voteRec t sl rec).rdone = true)) ∧
  (∀ (sl : Fin 8) (word : W64) now s p, armedPart s sl = some p → isolated s sl = false →
    (voteRec s sl (qchStep s sl % 4)).got = false → word.toNat / 2 ^ 32 = qchStep s sl % 2 ^ 32 →
    (word.toNat.testBit 0 = false ∨ bltPhase s sl ≠ 1) →
    exec (.outcomeArrive sl word now) s = .next (applyOutcome (receiveOutcome (tick s now) p sl word.toNat) p sl word.toNat)) ∧
  (∀ (sl : Fin 8) (word : W64) now s p, armedPart s sl = some p →
    (isolated s sl = true ∨ (voteRec s sl (qchStep s sl % 4)).got = true ∨ word.toNat / 2 ^ 32 ≠ qchStep s sl % 2 ^ 32) →
    exec (.outcomeArrive sl word now) s = .next (tick s now)) ∧
  (∀ (sl : Fin 8) now s p cast, partOfSlice s sl = some p → cGet (fun _ => none) s.qch.castAt sl = some cast →
    taskState s sl = 2 → cast + 4 * voteWindow s sl + 64 < max s.time now → lowSlice s p = sl →
    Gives (.isolationTimeout sl now) s (fun t => isolated t sl = true ∧ taskState t sl = 0 ∧
      Counted s t (qchPg sl + 0x19C) 1 ∧ t.mem = s.mem))

/-- STH.PUSH: the first part of a record is offered to its lane, and waits for the record's outcome (R35, R36, R192). STH.POP delivers the
contributor's part of the record on top when segment and microbatch are its, and answers EMPTY for an empty lane; with DISCARD it counts
and delivers nothing (R38, R39). -/
def Obligations.StashOperations : Prop :=
  (∀ i s p, StashReady 0x10 (fun w => zero w 18 0) i s p → (laneOf s (lowSlice s p) (sLane i)).opening = none →
    Gives (.sthPush i) s (fun t =>
      (laneOf t (lowSlice s p) (sLane i)).opening = some { seg := sSeg i s, mb := sMb i s, step := sStep i s, entry := none, code := none,
                                                           got := [], parts := [stashPart i s p s.blw.nextId], spill := none,
                                                           refill := false } ∧
      (laneOf t (lowSlice s p) (sLane i)).recs = (laneOf s (lowSlice s p) (sLane i)).recs ∧
      pendOf t i.tile i.thr (fD i.w) ≠ 0 ∧ (i.thread t).pc = BitVec.ofNat 32 (pcOf i s + 8) ∧ t.tl.spad = s.tl.spad ∧ t.mem = s.mem)) ∧
  (∀ i s p r, StashReady 0x11 (fun w => zero w 17 0) i s p → i.w.testBit 18 = false → PopMatch i s p r →
    (∀ d ∈ descsOf s i.tile, d.kind ≠ .drain) → sSlot i s + r.pbytes / 512 ≤ 32768 →
    firstBlocked s i.tile none (rangeUses (512 * sSlot i s) r.pbytes .produce) = none →
    Gives (.sthPop i) s (fun t => i.reg t (fD i.w) = 0 ∧
      t.tl.spad = (pokeBytes s i.tile none (512 * sSlot i s) (recLoad s p (lowSlice s p) (sLane i) r
        (4096 + partIndex s p (logicalOf s i.tile) * r.pbytes) r.pbytes)).tl.spad ∧ t.mem = { s.mem with used := t.mem.used })) ∧
  (∀ i s p r, StashReady 0x11 (fun w => zero w 17 0) i s p → i.w.testBit 18 = true → PopMatch i s p r →
    (∀ d ∈ descsOf s i.tile, d.kind ≠ .drain) →
    Gives (.sthPopDiscard i) s (fun t => i.reg t (fD i.w) = 0 ∧ t.tl.spad = s.tl.spad ∧ t.mem = { s.mem with used := t.mem.used })) ∧
  (∀ i s p, StashReady 0x11 (fun w => zero w 17 0) i s p → i.w.testBit 18 = false →
    (laneOf s (lowSlice s p) (sLane i)).recs = [] → (laneOf s (lowSlice s p) (sLane i)).spilled = [] →
    (∀ d ∈ descsOf s i.tile, d.kind ≠ .drain) →
    Gives (.sthPop i) s (fun t => i.reg t (fD i.w) = 7 ∧ Counted s t (sthPg (lowSlice s p) + 0x1E8) 1 ∧
      rdB t (sthPg (lowSlice s p) + hIntStat) 1 = true ∧ t.tl.spad = s.tl.spad ∧ t.mem = s.mem))

/-- What the stash unit does by itself: it reads the segment-table entry of an arriving record and decides once (R29, R36), refusing the
parts of an entry that is not the segment's; sets VALID; starts and ends refills (R41, R42); and signals a thread that has waited on a
spill or refill for more than 1 ms (R55). STH_CTL.CLEAR empties every lane and ends the aborted state (R44, R45). -/
def Obligations.StashEngine : Prop :=
  (∀ (sl : Fin 8) (l : Fin 4) now s p g, partOfSlice s sl = some p → (laneOf s sl l).opening = some g → g.entry = none →
    let e := memBytes s p (rd64 s (sthPg sl + 0x110) + 16 * g.seg) 16
    let fl := leNat (slice e 6 1)
    let pbytes := leNat (slice e 8 4)
    let contrib := leNat (slice e 12 2)
    inPart s p (rd64 s (sthPg sl + 0x110) + 16 * g.seg) 16 = true → leNat (slice e 0 2) = g.seg → pbytes % 512 = 0 →
    1 ≤ contrib → contrib ≤ (partTiles s p).length → (∀ q ∈ g.parts, partBad [] contrib pbytes q = false) →
    (∀ q, g.parts = [q] →
      exec (.sthSegtabRead sl l .clean now) s = .next (decideRecord (tableRead (tick s now) p (rd64 s (sthPg sl + 0x110) + 16 * g.seg)) p sl l
        { g with entry := some (leNat (slice e 5 1), fl, pbytes, contrib), got := [q.idx], parts := [q] }
        (leNat (slice e 5 1)) fl pbytes contrib))) ∧
  (∀ (sl : Fin 8) (l : Fin 4) ecc now s p g, partOfSlice s sl = some p → (laneOf s sl l).opening = some g → g.entry = none →
    inPart s p (rd64 s (sthPg sl + 0x110) + 16 * g.seg) 16 = false →
    Gives (.sthSegtabRead sl l ecc now) s (fun t => (laneOf t sl l).opening = none ∧ (laneOf t sl l).recs = (laneOf s sl l).recs)) ∧
  (∀ (sl : Fin 8) (l : Fin 4) now s p g n e, partOfSlice s sl = some p → (laneOf s sl l).opening = some g → g.spill = some n →
    g.entry = some e →
    let s1 := freeParts (sthPg sl + 0x1E4) g.parts (spillMany p sl l n (tick s now))
    let g1 := { g with spill := none, parts := g.parts.map (fun q => { q with blocked := none }) }
    exec (.sthSpillDone sl l now) s = .next (settleParts
      (openRecord (setLane s1 sl l { laneOf s1 sl l with opening := some g1 }) p sl l g1 e.1 e.2.2.1 e.2.2.2) p sl l)) ∧
  (∀ (sl : Fin 8) (l : Fin 4) now s p r, partOfSlice s sl = some p → (laneOf s sl l).opening = none → (laneOf s sl l).pops = [] →
    (laneOf s sl l).recs.getLast? = some r → r.valid = false → r.contrib ≤ r.landed.length →
    Gives (.sthRecordValid sl l now) s (fun t =>
      (laneOf t sl l).recs.getLast? = some { r with valid := true, time := max s.time now })) ∧
  (∀ (sl : Fin 8) (l : Fin 4) now s r, newestSpilled (laneOf s sl l) = some r → rdB s (sthPg sl + 0x104) 7 = true →
    (laneOf s sl l).refill = false → openForPush (laneOf s sl l) = false → r.size ≤ laneFree s sl l →
    Gives (.sthRefillStart sl l now) s (fun t => (laneOf t sl l).refill = true ∧ t.mem = s.mem)) ∧
  (∀ (sl : Fin 8) (l : Fin 4) now s p r, partOfSlice s sl = some p → newestSpilled (laneOf s sl l) = some r →
    (laneOf s sl l).refill = true → (laneOf s sl l).opening = none → (laneOf s sl l).pops = [] →
    Gives (.sthRefillDone sl l now) s (fun t => (laneOf t sl l).spilled = (laneOf s sl l).spilled.dropLast ∧
      (laneOf t sl l).refill = false ∧ (laneOf t sl l).recs.length = (laneOf s sl l).recs.length + 1 ∧
      Counted s t (sthPg sl + 0x1D8) 1)) ∧
  (∀ (tile : Fin 288) (thr : Fin 64) now s p op, partOfTile s tile = some p → (thrOf s tile thr).st = .blockedSync (.stash op) →
    (thrOf s tile thr).since + 1000000 < max s.time now → waitsOnMove s op = true →
    Gives (.sthWait tile thr now) s (fun t => rdB t (sthPg (lowSlice s p) + hIntStat) 5 = true ∧ t.tl = s.tl ∧ t.mem = s.mem)) ∧
  (∀ r s (sl : Fin 8) p, r.off.toNat = sthPg sl + 0x100 → r.val.toNat.testBit 1 = true → partOfSlice s sl = some p → lowSlice s p = sl →
    Gives (.sthClear r) s (fun t => (∀ l < 4, laneOf t sl l = {}) ∧ sthAborted t sl = false ∧ t.mem = s.mem))

/-- ANV.PASS (R46, R71, R152, R191): a valid pass that the coalescer does not hold goes to an anvil with room and is ACCEPTED; an invalid
descriptor is INVALID, counted on the page of the anvil it would have gone to. Dispatch and the coalescer (R46, R89 to R91): a waiting
pass goes to an anvil with room; a group whose deadline has passed issues; a write of ANV_COAL_CFG sets the fields whose codes are
allowed. -/
def Obligations.AnvilPasses : Prop :=
  (∀ i s, Ready 3 0x01 (fun w => specOk (fD w) && zero w 38 0) (fun w => [32 + bitsOf w 41 39]) i s →
    let a := (i.reg s (32 + bitsOf i.w 41 39)).toNat
    let p := readPass (i.here s) i.ctx .clean a
    badRange s i.tile a 64 = false → a % 64 = 0 → heldPasses s i.tile < 32 → i.ecc = .clean → notArmed s (tilePg i.tile 5) →
    (descFault (tileWidth s i.tile) p = none → passInPool s i.tile (tileWidth s i.tile) p = false → i.task s = none →
      coalHolds s i.tile p = false → threadHeld s i.tile i.thr = false → anvBehind s i.tile = [] → anvWaiting s i.tile = [] →
      ∀ v, dispatchTo s i.tile [p] = some v →
        Gives (.anvPass i) s (fun t => WroteReg i s t (fD i.w) 0 ∧ anvQueue t i.tile v = anvQueue s i.tile v ++ [[p]] ∧
          t.tl.spad = s.tl.spad ∧ t.tl.tags = s.tl.tags ∧ t.mem = s.mem)) ∧
    (∀ code, descFault (tileWidth s i.tile) p = some code →
      Gives (.anvPass i) s (fun t => WroteReg i s t (fD i.w) 1 ∧ t.anv = s.anv ∧
        Counted s t (formatPage s i.tile p + 0x140) 1 ∧ t.mem = s.mem))) ∧
  (∀ (tile : Fin 288) n now s ps v, (anvWaiting s tile)[n]? = some ps → sharesThread ps ((anvWaiting s tile).take n) = false →
    dispatchTo s tile ps = some v →
    Gives (.passDispatch tile n now) s (fun t => anvQueue t tile v = anvQueue s tile v ++ [ps] ∧
      anvWaiting t tile = (anvWaiting s tile).eraseIdx n ∧ t.tl = s.tl ∧ t.mem = s.mem)) ∧
  (∀ (tile : Fin 288) id now s g, (anvGroups s tile).find? (fun g => g.id == id) = some g → g.deadline + 64 < max s.time now →
    Gives (.coalTimeout tile id now) s (fun t => Counted s t (anvPg tile 0 + 0x190) 1 ∧ t.tl = s.tl ∧ t.mem = s.mem)) ∧
  (∀ r s (tile : Fin 288), r.off.toNat = anvPg tile 0 + 0x180 →
    Gives (.anvCoalCfgWrite r) s (fun t =>
      rdB t (anvPg tile 0 + 0x180) 31 = r.val.toNat.testBit 31 ∧
      rdF t (anvPg tile 0 + 0x180) 25 16 = (if 1 ≤ bitsOf r.val.toNat 25 16 ∧ bitsOf r.val.toNat 25 16 ≤ 512 then bitsOf r.val.toNat 25 16
        else rdF s (anvPg tile 0 + 0x180) 25 16) ∧
      rdF t (anvPg tile 0 + 0x180) 9 0 = (if 1 ≤ bitsOf r.val.toNat 9 0 ∧ bitsOf r.val.toNat 9 0 ≤ 512 then bitsOf r.val.toNat 9 0
        else rdF s (anvPg tile 0 + 0x180) 9 0) ∧ t.tl = s.tl ∧ t.mem = s.mem))

/-- A running pass (R64, R68, R70): its next chunk loads into the idle weight buffer, a loaded chunk is added to the accumulator of every
launched row and counted, and once every chunk has launched the output stage writes Y and sets its slots full. -/
def Obligations.AnvilRuns : Prop :=
  (∀ (tile : Fin 288) (anvil : Fin 3) now s older r, LastRun s tile anvil older r →
    let p := leadPass r.members
    r.nextLoad < dChunks p → r.loaded.length < 2 → firstBlocked s tile p.task (wUses p r.nextLoad) = none →
    notArmed s (tilePg tile 5) → notArmed s (anvPg tile anvil) → chunkBitmapsOk s tile p r.nextLoad = true →
    Gives (.anvChunkLoad tile anvil .none .clean now) s (fun t =>
      LastRun t tile anvil older { r with loaded := r.loaded ++ [loadW s tile (dN (tileWidth s tile) p) p r.nextLoad],
                                          nextLoad := r.nextLoad + 1 } ∧ t.tl = s.tl ∧ t.mem = s.mem)) ∧
  (∀ (tile : Fin 288) (anvil : Fin 3) feed load now s older r b rest, LastRun s tile anvil older r → r.loaded = b :: rest →
    usesReady s tile r.members (fun p => xUses p b.chunk) = true → notArmed s (tilePg tile 5) →
    let n := dN (tileWidth s tile) (leadPass r.members)
    Gives (.anvChunkLaunch tile anvil feed load .clean now) s (fun t =>
      LastRun t tile anvil older { r with loaded := rest, launched := r.launched + 1,
                                          acc := launchRows s tile n (refMode s tile) b 0 (entryRows r.members) r.acc } ∧
      Counted64 s t (anvPg tile anvil + 0x120) 1 ∧ Counted s t (anvPg tile anvil + 0x130) feed ∧
      Counted s t (anvPg tile anvil + 0x134) load ∧ t.tl = s.tl ∧ t.mem = s.mem)) ∧
  (∀ (tile : Fin 288) (anvil : Fin 3) now s r rest, anvRunning s tile anvil = r :: rest →
    dChunks (leadPass r.members) ≤ r.launched →
    usesReady s tile r.members (fun q => ySlots (tileWidth s tile) q .produce) = true →
    Gives (.anvOutput tile anvil .none now) s (fun t => anvRunning t tile anvil = rest ∧
      t.tl.spad = (outRows tile (dN (tileWidth s tile) (leadPass r.members)) (refMode s tile) r.faulted r.acc 0 (entryRows r.members)
        (tick s now)).tl.spad ∧ t.mem = s.mem))

/-- The scratchpad page (R221, R226): a CRC run ends with the CRC-32C of its range; the debug window reads and writes eight bytes of an IDLE
tile. -/
def Obligations.ScratchpadPage : Prop :=
  (∀ r s (tile : Fin 288), r.off.toNat = spadPg tile + 0x100 → r.val.toNat.testBit 1 = true → rdB s (spadPg tile + 0x104) 0 = false →
    let base := rdF s (spadPg tile + 0x110) 14 0
    let count := rdF s (spadPg tile + 0x110) 31 16
    1 ≤ count → base + count ≤ 32768 →
    Gives (.spadCrcGo r) s (fun t => WindowOnly s t ∧ rdB t (spadPg tile + 0x104) 0 = true)) ∧
  (∀ (tile : Fin 288) now s, rdB s (spadPg tile + 0x104) 0 = true → notArmed s (tilePg tile 5) →
    Gives (.spadCrcDone tile .clean now) s (fun t => WindowOnly s t ∧ rdB t (spadPg tile + 0x104) 0 = false ∧
      rdB t (spadPg tile + 0x104) 1 = false ∧ rdB t (spadPg tile + hIntStat) 2 = true ∧
      rdW t (spadPg tile + 0x114) = crc32c (rawBytes s tile (512 * rdF s (spadPg tile + 0x110) 14 0)
        (512 * rdF s (spadPg tile + 0x110) 31 16)))) ∧
  (∀ (r : RegRead) s (tile : Fin 288), r.off.toNat = spadPg tile + 0x120 → tileIdle s tile = true → notArmed s (tilePg tile 5) →
    Gives (.spadDbgRead r .clean) s (fun t => t.win.lastRead = BitVec.ofNat 32 (leNat (rawBytes s tile (debugAddr s tile) 8)) ∧
      cGet (fun _ => none) t.win.hiLatch (spadPg tile + 0x124) =
        some (BitVec.ofNat 32 (leNat (rawBytes s tile (debugAddr s tile) 8) / 2 ^ 32)) ∧ t.tl = s.tl)) ∧
  (∀ r s (tile : Fin 288) low, r.off.toNat = spadPg tile + 0x124 → tileIdle s tile = true →
    s.win.loHold.find? (fun c => c.1 == spadPg tile + 0x120) = some low →
    Gives (.spadDbgWrite r) s (fun t =>
      rawBytes t tile (debugAddr s tile) 8 = leBytes 8 (low.2.toNat + 2 ^ 32 * r.val.toNat) ∧ t.mem = s.mem ∧
      t.tl.tags = s.tl.tags))

/-- The entries of a command ring (R201, R202): NOP, START, XFER and WRITE have their effect and complete in order, WAIT_WORD and WAIT_IDLE
run until what they await has come. WAIT_WORD (R202, R205): a read issued by the deadline that satisfies the comparison completes the
entry; past the deadline it ends with TIMEOUT. An entry that arrived after its deadline expires. Polling and fetching (R204 to R206),
and the enable and resume of a ring (R208, R211). -/
def Obligations.CommandRings : Prop :=
  (∀ sl n now s p e, RingHead 0 s sl n p e → RingBegins s sl n e now →
    Gives (.ringNop sl n now) s (fun t => RingDone s t sl n ∧ t.tl = s.tl ∧ t.mem.hbm = s.mem.hbm)) ∧
  (∀ sl n now s p e is, RingHead 1 s sl n p e → RingBegins s sl n e now → entryTiles s p e = some is →
    Gives (.ringStart sl n now) s (fun t => RingDone s t sl n ∧ t.tl = (is.foldl (startOne p e) (tick s now, true)).1.tl)) ∧
  (∀ sl n now s p e tile, RingHead 2 s sl n p e → RingBegins s sl n e now → e.field 0x18 2 < tileCount s p →
    partTileAt s p (e.field 0x18 2) = some tile → (descsOf s tile).length < 32 → blwTags s tile < 96 →
    let b := slice e.bytes 0x1C 32
    dsOp b = 1 ∨ dsOp b = 2 ∨ dsOp b = 3 → dsValid s tile b = true → partOfTile s tile = some p → badPiece s p (dsPieces b) = none →
    (∀ x ∈ dsPieces b, rangeHitsCode s tile none x.spad x.len = false) →
    Gives (.ringXfer sl n now) s (fun t => (ringOf t sl n).running = true ∧ t.tl = s.tl ∧ t.mem = s.mem ∧
      descsOf t tile = descsOf s tile ++
        [dsMake b s.blw.nextId 0 (max s.time now) none (some (sl.val, n.val)) none])) ∧
  (∀ sl n now s p e, RingHead 3 s sl n p e → RingBegins s sl n e now → inPart s p (e.field 0x18 8) 8 = true →
    promote (tick s now) p (e.field 0x18 8) true = .ready (tick s now) →
    Gives (.ringWrite sl n now) s (fun t => RingDone s t sl n ∧
      t.mem.hbm = (devWrite64 (tick s now) p (e.field 0x18 8) (e.field 0x20 8)).mem.hbm)) ∧
  (∀ sl n now s p e, RingHead 4 s sl n p e → RingBegins s sl n e now → inPart s p (e.field 0x18 8) 8 = true →
    Gives (.ringWaitWord sl n now) s (fun t => (ringOf t sl n).running = true ∧ ringHead t sl n = ringHead s sl n ∧ t.mem = s.mem)) ∧
  (∀ sl n now s p e is, RingHead 5 s sl n p e → RingBegins s sl n e now → entryTiles s p e = some is →
    ((∀ i ∈ is, ∀ tile, partTileAt s p i = some tile → tileQuiet s tile = true) →
      Gives (.ringWaitIdle sl n now) s (fun t => RingDone s t sl n)) ∧
    ((∃ i ∈ is, ∃ tile, partTileAt s p i = some tile ∧ tileQuiet s tile = false) →
      Gives (.ringWaitIdle sl n now) s (fun t => (ringOf t sl n).running = true ∧ ringHead t sl n = ringHead s sl n))) ∧
  (∀ sl n now s p e issued, RingHead 4 s sl n p e → (ringOf s sl n).running = true → (ringOf s sl n).word = some issued →
    issued ≤ e.deadline → wordHolds (e.field 0x28 1) (memNat s p (e.field 0x18 8) 8) (e.field 0x20 8) = true →
    Gives (.waitWordRead sl n now) s (fun t => RingDone s t sl n)) ∧
  (∀ sl n now s p e issued, RingHead 4 s sl n p e → (ringOf s sl n).running = true → (ringOf s sl n).word = some issued →
    wordHolds (e.field 0x28 1) (memNat s p (e.field 0x18 8) 8) (e.field 0x20 8) = false →
    Gives (.waitWordRead sl n now) s (fun t => (ringOf t sl n).word = none ∧ (ringOf t sl n).running = true ∧ t.win = s.win)) ∧
  (∀ sl n now s p e, RingHead 4 s sl n p e → (ringOf s sl n).running = true → (ringOf s sl n).word = none →
    e.deadline ≠ 2 ^ 64 - 1 → e.deadline + 64 < max s.time now →
    Gives (.waitWordTimeout sl n now) s (fun t => RingDone s t sl n ∧ rdB t (ringPg sl + hIntStat) 2 = true)) ∧
  (∀ sl n now s p e, RingHead 0 s sl n p e → (ringOf s sl n).running = false → ringEn s sl n = true → ringStopped s sl n = false →
    e.notBefore ≤ max s.time now → e.deadline < e.stamp →
    Gives (.ringNop sl n now) s (fun t => RingDone s t sl n ∧ rdB t (ringPg sl + hIntStat) 1 = true)) ∧
  (∀ sl n now s, RingAt s sl n → ringEn s sl n = true → ringStopped s sl n = false →
    max s.time now % rdF s (ringReg sl n + 0x08) 23 0 = 0 → (ringOf s sl n).reading = none →
    (ringOf s sl n).seen ≤ ringFetch s sl n → (ringOf s sl n).bursts = [] →
    Gives (.ringPoll sl n now) s (fun t => (ringOf t sl n).reading = some (max s.time now) ∧ t.mem = s.mem ∧ t.win = s.win)) ∧
  (∀ sl n now s since, RingAt s sl n → ringEn s sl n = true → ringStopped s sl n = false → (ringOf s sl n).reading = some since →
    let v := leNat (hostBytes s (rd64 s (ringReg sl n + 0x18)) 8)
    ringFetch s sl n ≤ v → v ≤ ringHead s sl n + ringSize s sl n →
    Gives (.ringTailRead sl n now) s (fun t => (ringOf t sl n).reading = none ∧ (ringOf t sl n).seen = v ∧
      (ringOf t sl n).buf = (ringOf s sl n).buf ∧ t.mem = s.mem)) ∧
  (∀ sl n now s b bs, RingAt s sl n → (ringOf s sl n).bursts = b :: bs →
    Gives (.ringBurstArrive sl n now) s (fun t => (ringOf t sl n).buf =
      (ringOf s sl n).buf ++ (rangeFrom b.1 b.2).map (arrivedEntry s sl n))) ∧
  (∀ r s (sl : Fin 8) (n : Fin 4) p, r.off.toNat = ringReg sl n → partOfSlice s sl = some p → lowSlice s p = sl →
    (r.val.toNat.testBit 0 = true → ringEn s sl n = false → Gives (.ringEnWrite r) s (fun t =>
      ringEn t sl n = true ∧ (ringOf t sl n).seen = ringHead s sl n ∧ ringFetch t sl n = ringHead s sl n ∧ t.mem = s.mem)) ∧
    (r.val.toNat.testBit 0 = false → ringEn s sl n = true → Gives (.ringEnWrite r) s (fun t =>
      ringEn t sl n = false ∧ (ringOf t sl n).bursts = [] ∧ t.mem = s.mem))) ∧
  (∀ r s (sl : Fin 8) (n : Fin 4) p, r.off.toNat = ringReg sl n → partOfSlice s sl = some p → lowSlice s p = sl →
    r.val.toNat.testBit 1 = true → ringStopped s sl n = true →
    Gives (.ringResume r) s (fun t => ringStopped t sl n = false ∧ (ringOf t sl n).buf = [] ∧
      ringHead t sl n = ringHead s sl n ∧ t.mem = s.mem))

/-- Flits (R325, R326): an UP port sends a new flit under the next SEQ and keeps it for replay, and sends again what a NAK asks for; a flit
next in order is accepted; one that fails its checks is dropped and a NAK is due. Lanes (R335, R336): a failed data lane's place is
taken by the spare, at the receiver and, by its LINK packet, at the sender; the errors of a window are recorded; a port comes UP on 8
trained lanes, and fails on fewer. Ports going up and down, the hold, and LNK_CTL (R334, R336). -/
def Obligations.LinkTraffic : Prop :=
  (∀ (n : Fin 16) now s, portState s n = 2 → (portOf s n).again = [] → (portOf s n).replay.length < 96 →
    Gives (.flitSend n now) s (fun t => (portOf t n).txSeq = (portOf s n).txSeq + 1 ∧
      (portOf t n).replay.length = (portOf s n).replay.length + 1 ∧
      ((portOf t n).sent.map (·.seq)) = some (portOf s n).txSeq ∧ Counted64 s t (lnkPg n + 0x120) 1)) ∧
  (∀ (n : Fin 16) now s f fs, portState s n = 2 → (portOf s n).again = f :: fs →
    Gives (.flitSend n now) s (fun t => (portOf t n).again = fs ∧ (portOf t n).txSeq = (portOf s n).txSeq ∧
      ((portOf t n).sent.map (·.pkts)) = some f.pkts)) ∧
  (∀ (n : Fin 16) f now s, portState s n = 2 → notArmed s (lnkPg n) → f.seq = (portOf s n).rxSeq + 1 → f.nak = false →
    Gives (.flitReceive n f true now) s (fun t => (portOf t n).rxSeq = f.seq ∧ (portOf t n).dropping = false ∧
      Counted64 s t (lnkPg n + 0x128) 1)) ∧
  (∀ (n : Fin 16) f now s, portState s n = 2 → notArmed s (lnkPg n) →
    Gives (.flitReceive n f false now) s (fun t => (portOf t n).nak = true ∧ (portOf t n).dropping = true ∧
      (portOf t n).rxSeq = (portOf s n).rxSeq ∧ t.lnk.arrivals = s.lnk.arrivals ∧ t.mem = s.mem)) ∧
  (∀ (n : Fin 16) (lane : Fin 9) now s, portState s n = 2 → rdF s (lnkPg n + 0x104) 19 16 = 0xF → lane.val < 8 →
    Gives (.laneSignalLoss n lane now) s (fun t => rdF t (lnkPg n + 0x104) 19 16 = lane ∧ Counted s t (lnkPg n + 0x144) 1 ∧
      (portOf t n).ctl = (portOf s n).ctl ++ [.link (Fin.ofNat 9 lane.val) ((portOf s n).rxSeq + 17)] ∧ portState t n = 2)) ∧
  (∀ (n : Fin 16) errors now s, (∀ m < 9, nth 0 errors m ≤ rdF s (lnkPg n + 0x10C) 23 0) →
    Gives (.laneErrorWindow n errors now) s (fun t => (∀ m < 9, rd t (lnkPg n + 0x180 + 4 * m) = nth 0 errors m) ∧
      Counted64 s t (lnkPg n + 0x130) (sumNat (errors.take 9)) ∧ t.lnk = s.lnk)) ∧
  (∀ (n : Fin 16) (lane : Fin 9) sw now s, portState s n = 2 → rdF s (lnkPg n + 0x104) 23 20 = 0xF → lane.val < 8 →
    Gives (.linkPacket n lane sw now) s (fun t => rdF t (lnkPg n + 0x104) 23 20 = lane ∧
      (portOf t n).txSwitch = some (lane.val, sw) ∧ Counted s t (lnkPg n + 0x144) 1)) ∧
  (∀ (n : Fin 16) (trained : BitVec 9) peer port now s, rdB s (lnkPg n + 0x100) 0 = true → portState s n < 2 →
    (8 ≤ popCount 9 trained.toNat → Gives (.linkTrainDone n trained peer port now) s (fun t =>
      portState t n = 2 ∧ rdW t (lnkPg n + 0x110) = peer ∧ rdB t (lnkPg n + hIntStat) 1 = true)) ∧
    (popCount 9 trained.toNat < 8 → Gives (.linkTrainDone n trained peer port now) s (fun t =>
      portState t n = 3 ∧ rdB t (lnkPg n + hIntStat) 5 = true))) ∧
  (∀ r s (n : Fin 16), r.off.toNat = lnkPg n + 0x100 →
    (r.val.toNat.testBit 0 = true → rdB s (lnkPg n + 0x100) 0 = false →
      Gives (.lnkEnWrite r) s (fun t => portState t n = 1 ∧ rdB t (lnkPg n + 0x100) 0 = true)) ∧
    (r.val.toNat.testBit 0 = false → Gives (.lnkEnWrite r) s (fun t => portState t n = 0 ∧ rdB t (lnkPg n + 0x100) 0 = false))) ∧
  (∀ r s (n : Fin 16), r.off.toNat = lnkPg n + 0x100 → r.val.toNat.testBit 1 = true →
    Gives (.lnkRetrain r) s (fun t => portState t n = if rdB s (lnkPg n + 0x100) 0 then 1 else 0)) ∧
  (∀ now s e, s.lnk.hold = some e → e ≤ max s.time now →
    Gives (.routeHoldExpire now) s (fun t => t.lnk.hold = none ∧ t.lnk.upMask = upPorts s ∧ t.mem = s.mem))

/-- Fabric time (R338 to R341, R495): a SYNC packet carries the unit's root and hops, an exchange records its delay, HOLDOVER ends in FREE,
FTM_SET steps the root's time forward only, and the loss of the reference clock is met with HOLDOVER. -/
def Obligations.FabricTimeUnit : Prop :=
  (∀ (n : Fin 16) now s, portState s n = 2 → Gives (.syncSend n now) s (fun t => ∃ a b c d, (portOf t n).ctl = (portOf s n).ctl ++
    [.sync (rdW s (ftmPg + 0x128)) (rdF s (ftmPg + 0x104) 20 16) a b c d] ∧ (a, b, c, d) = (portOf s n).stamps)) ∧
  (∀ (n : Fin 16) root hops t1 t2 t3 t4 now s, portState s n = 2 → Gives (.syncReceive n root hops t1 t2 t3 t4 now) s (fun t =>
    (portOf t n).offer = some (root, hops) ∧ rd t (lnkPg n + 0x118) = ofSigned 32 (syncDelay t1 t2 t3 t4))) ∧
  (∀ now s, ftmState s = 3 → s.ftm.since + 1000000 * rdF s (ftmPg + 0x108) 23 16 ≤ max s.time now →
    Gives (.ftmHoldoverExpire now) s (fun t => ftmState t = 4 ∧ Counted s t (ftmPg + 0x138) 1)) ∧
  (∀ r s, r.off.toNat = ftmPg + 0x100 → r.val.toNat.testBit 2 = true → ftmState s = 5 → max s.time r.now ≤ rd64 s (ftmPg + 0x120) →
    Gives (.ftmSet r) s (fun t => t.time = rd64 s (ftmPg + 0x120) ∧ Counted s t (ftmPg + 0x134) 1)) ∧
  (∀ now s, s.ftm.refclk = true → ftmState s = 2 → Gives (.refclkLoss now) s (fun t => t.ftm.refclk = false ∧ ftmState t = 3)) ∧
  (∀ now s, s.ftm.refclk = false → Gives (.refclkValid now) s (fun t => t.ftm.refclk = true))

/-- Requests for partitions (R351 to R353, R355, R372, R427): a request that a check refuses completes at once with its status and changes
nothing; CREATE gives the first free id the client, the job and the slices, STARTING; DESTROY and RESET of a FREE id are refused;
DESTROY ends, RESET resets; while SP does not accept requests a request is held; and a request that runs completes, once the transfers
of its tiles have ended, with the partition RUNNING, or FREE with its memory zero. -/
def Obligations.PartitionRequests : Prop :=
  (∀ r s, PartCommand 1 r s → spReady s = true →
    (∀ code, createCheck s (reqOf r s) = some code → Gives (.partitionCreate r) s (fun t => Turned s t code)) ∧
    (createCheck s (reqOf r s) = none → Gives (.partitionCreate r) s (fun t => ∃ n < 8, partState s n = 0 ∧
      rd t (partPg + 0x140 + 4 * n) = (reqOf r s).client * 2 ^ 16 + 2 ^ 8 + (reqOf r s).slices ∧
      rd t (partPg + 0x160 + 4 * n) = (reqOf r s).job ∧ rdF t (partPg + 0x124) 10 8 = n ∧ preqBusy t = true ∧
      t.prt.running = some (1, n)))) ∧
  (∀ c ∈ [(Instr.partitionDestroy, 2), (.partitionReset, 3)], ∀ r s, PartCommand c.2 r s → spReady s = true →
    partState s (reqOf r s).part = 0 → Gives (c.1 r) s (fun t => Turned s t 7)) ∧
  (∀ r s, PartCommand 2 r s → spReady s = true → partState s (reqOf r s).part ≠ 0 →
    Gives (.partitionDestroy r) s (fun t => partState t (reqOf r s).part = 4 ∧ preqBusy t = true ∧
      t.prt.running = some (2, (reqOf r s).part))) ∧
  (∀ r s, PartCommand 3 r s → spReady s = true → partState s (reqOf r s).part ≠ 0 → windowOpen s (reqOf r s).part = false →
    Gives (.partitionReset r) s (fun t => partState t (reqOf r s).part = 3 ∧ preqBusy t = true ∧
      t.prt.running = some (3, (reqOf r s).part) ∧
      rdB t (tmpPg (lowSlice s (reqOf r s).part) + 0x100) 0 = false ∧ rdB t (seqPg (lowSlice s (reqOf r s).part) + 0x100) 0 = false)) ∧
  (∀ c ∈ [(Instr.partitionCreate, 1), (.partitionDestroy, 2), (.partitionReset, 3)], ∀ r s, PartCommand c.2 r s → spReady s = false →
    Gives (c.1 r) s (fun t => t.prt = { s.prt with held := some (reqOf r s) } ∧ preqBusy t = true ∧ t.tl = s.tl ∧ t.mem = s.mem)) ∧
  (∀ now s (n : Fin 8),
    (partReady s 1 n → Gives (.partitionRequestDone now) s (fun t => partState t n = 2 ∧ preqBusy t = false ∧
      rdF t (partPg + 0x124) 7 0 = 0 ∧ rdB t (partPg + hIntStat) 0 = true ∧ t.prt.running = none ∧
      ∀ g < 2 ^ 27, cGet (fun _ => {}) t.mem.pages (2 ^ 27 * n.val + g) = {})) ∧
    (partReady s 2 n → Gives (.partitionRequestDone now) s (fun t => partState t n = 0 ∧ preqBusy t = false ∧
      rdF t (partPg + 0x124) 7 0 = 0 ∧ rdB t (partPg + hIntStat) 0 = true ∧ t.prt.running = none ∧
      ∀ sl ∈ partSlices s n, ∀ c ∈ t.mem.hbm, c.1 / 2 ^ 37 / 4 ≠ sl)) ∧
    (partReady s 3 n → Gives (.partitionRequestDone now) s (fun t => partState t n = 2 ∧ preqBusy t = false ∧
      rdF t (partPg + 0x124) 7 0 = 0 ∧ rdB t (partPg + hIntStat) 0 = true ∧ t.prt.running = none)))

/-- The build of a step's work list (R365 to R367): BUILD takes the next step when the unit is enabled and no build is in progress, and is
rejected and counted while one is, or in FIXED_BATCH; BUILD_DONE writes the list and the done word, sets HEAD to the tail that the build
took, and sets bit 0. -/
def Obligations.SequenceBuilds : Prop :=
  (∀ (sl : Fin 8) trigger now s p, partOfSlice s sl = some p → lowSlice s p = sl → (trigger = .notify → (seqOf s sl).notified = true) →
    ((fixedBatch s p = true ∨ (seqEn s sl = true ∧ (seqOf s sl).build.isSome = true)) →
      Gives (.build sl trigger now) s (fun t => Counted s t (seqPg sl + 0x198) 1 ∧ t.mem = s.mem ∧ t.tl = s.tl ∧
        (seqOf t sl).build = (seqOf s sl).build)) ∧
    (fixedBatch s p = false → seqEn s sl = true → (seqOf s sl).build = none →
      Gives (.build sl trigger now) s (fun t => Counted64 s t (seqPg sl + 0x170) 1 ∧ (seqOf t sl).notified = false ∧
        ∃ b, (seqOf t sl).build = some b ∧ b.tail = memNat s p (rd64 s (seqPg sl + 0x138)) 8))) ∧
  (∀ (sl : Fin 8) now s p b, partOfSlice s sl = some p → (seqOf s sl).build = some b → b.tail < 2 ^ 64 →
    Gives (.buildDone sl now) s (fun t => (seqOf t sl).build = none ∧ rd64 t (seqPg sl + 0x140) = b.tail ∧
      rdB t (seqPg sl + hIntStat) 0 = true ∧ t.tl = s.tl ∧ (b.work = [] → b.statuses = [] →
        t.mem = (devWrite64 s p (rd64 s (seqPg sl + 0x150)) (seqStep s sl % 2 ^ 32 + b.flags * 2 ^ 45)).mem)))

/-- The phases of a billet (R379 to R382, R384): IMAGE copies the pages that are new or dirty and goes on to MIRROR; MIRROR to PARITY;
PARITY to SEAL; the seal names the billet and its step in BLT_LAST and BLT_STEP. A failing transfer, the deadline and an abort end it
early with their status, and nothing is sealed. -/
def Obligations.BilletPhases : Prop :=
  (∀ (sl : Fin 8) now s p r, BilletAt s sl 1 p r → Gives (.billetImageDone sl now) s (fun t =>
    bltPhase t sl = 2 ∧ rd t (bltPg sl + 0x1A4) = (imageTodo s p sl r).length % 2 ^ 32 ∧
    (bltOf t sl).run = some { r with copied := (imageTodo s p sl r).map (·.num) } ∧ t.tl = s.tl)) ∧
  (∀ (sl : Fin 8) now s p r, BilletAt s sl 2 p r → Gives (.billetMirrorDone sl none now) s (fun t =>
    bltPhase t sl = 3 ∧ t.mem = s.mem ∧ t.blt = s.blt)) ∧
  (∀ (sl : Fin 8) data now s p r, BilletAt s sl 3 p r → Gives (.billetParityStart sl none data now) s (fun t =>
    bltPhase t sl = 4 ∧ t.blt = s.blt ∧ t.tl = s.tl)) ∧
  (∀ (sl : Fin 8) now s p r, BilletAt s sl 4 p r → Gives (.billetSeal sl none now) s (fun t =>
    bltPhase t sl = 0 ∧ rd64 t (bltPg sl + 0x148) = r.billet % 2 ^ 64 ∧ rd64 t (bltPg sl + 0x150) = r.step % 2 ^ 64 ∧
    rdF t (bltPg sl + 0x104) 31 24 = 0 ∧ (bltOf t sl).run = none ∧ rdB t (bltPg sl + hIntStat) 0 = true ∧ t.tl = s.tl)) ∧
  (∀ (sl : Fin 8) (c : Byte) data now s p r,
    (BilletAt s sl 2 p r → Gives (.billetMirrorDone sl (some c) now) s (fun t => BilletStopped s t sl (bltCode c))) ∧
    (BilletAt s sl 3 p r → Gives (.billetParityStart sl (some c) data now) s (fun t => BilletStopped s t sl (bltCode c))) ∧
    (BilletAt s sl 4 p r → Gives (.billetSeal sl (some c) now) s (fun t => BilletStopped s t sl (bltCode c)))) ∧
  (∀ (sl : Fin 8) now s p r, partOfSlice s sl = some p → (bltOf s sl).run = some r → (bltOf s sl).outcome = none →
    r.start + 1000000 * rdF s (bltPg sl + 0x15C) 19 0 + 64 < max s.time now →
    Gives (.bltDeadlineExpire sl now) s (fun t => BilletStopped s t sl 2)) ∧
  (∀ w s (sl : Fin 8) p r, w.off.toNat = bltPg sl + 0x100 → w.val.toNat.testBit 6 = true → partOfSlice s sl = some p → lowSlice s p = sl →
    (bltOf s sl).run = some r → (bltOf s sl).outcome = none →
    Gives (.bltAbort w) s (fun t => BilletStopped s t sl 6))

/-- The trickle, restores and digests (R385 to R388, R394): a trickle's image goes to flash; a restore of a disarmed, idle engine starts
when its manifest holds the billet, copies its image live only if every page verifies, and leaves QCH_STEP one above the billet's step;
a digest run leaves SHAKE256 of its range in DIG0 to DIG7. -/
def Obligations.BilletCopies : Prop :=
  (∀ (sl : Fin 8) now s p x rest, partOfSlice s sl = some p → (bltOf s sl).trickles = x :: rest →
    Gives (.trickleDone sl now) s (fun t => (bltOf t sl).trickles = rest ∧ rdB t (bltPg sl + 0x104) 9 = !rest.isEmpty ∧
      rdB t (bltPg sl + hIntStat) 4 = true ∧ t.mem.hbm = s.mem.hbm ∧ t.tl = s.tl)) ∧
  (∀ w s (sl : Fin 8) p, w.off.toNat = bltPg sl + 0x100 → w.val.toNat.testBit 2 = true → partOfSlice s sl = some p → lowSlice s p = sl →
    armed s sl = false → bltEn s sl = true → bltPhase s sl = 0 →
    let mode := bitsOf w.val.toNat 4 3
    let k := rd64 s (bltPg sl + 0x160)
    bltFormatOk s p sl = true → bltPagesOk s p sl = true →
    (mode < 3 → (mode ≠ 1 → manifestOk (sourceManifest s p sl mode k) k (if mode = 0 then 0 else 1) = true) →
      Gives (.restoreGo w) s (fun t => bltPhase t sl = 5 ∧
        (bltOf t sl).restore = some { billet := k, mode := mode, start := max s.time w.now } ∧ t.mem = s.mem)) ∧
    (mode = 3 → Gives (.restoreGo w) s (fun t => bltPhase t sl = 0 ∧ rdF t (bltPg sl + 0x104) 31 24 = 4 ∧ t.mem = s.mem)) ∧
    (mode = 0 → manifestOk (sourceManifest s p sl 0 k) k 0 = false →
      Gives (.restoreGo w) s (fun t => bltPhase t sl = 0 ∧ rdF t (bltPg sl + 0x104) 31 24 = 3 ∧ t.mem = s.mem))) ∧
  (∀ (sl : Fin 8) rebuilt given now s p x, partOfSlice s sl = some p → (bltOf s sl).restore = some x →
    (x.mode = 1 → manifestOk given x.billet 0 = true) →
    let m := restoreManifest s p sl x given
    let s1 := bringPages (tick s now) p sl x rebuilt
    Gives (.restoreDone sl none rebuilt given now) s (fun t => bltPhase t sl = 0 ∧ (bltOf t sl).restore = none ∧
      (if badPages s1 p sl x m = [] then rdF t (bltPg sl + 0x104) 31 24 = 0 ∧
          rd64 t (bltPg sl + 0x148) = x.billet % 2 ^ 64 ∧ rd64 t (bltPg sl + 0x150) = leNat (slice m 0x10 8) % 2 ^ 64 ∧
          rd64 t (qchPg sl + 0x110) = (leNat (slice m 0x10 8) + 1) % 2 ^ 64
        else rdF t (bltPg sl + 0x104) 31 24 = 1 ∧ Counted s t (bltPg sl + 0x1B0) (badPages s1 p sl x m).length ∧ t.mem = s1.mem))) ∧
  (∀ (sl : Fin 8) (c : Byte) rebuilt given now s p x, partOfSlice s sl = some p → (bltOf s sl).restore = some x →
    Gives (.restoreDone sl (some c) rebuilt given now) s (fun t => bltPhase t sl = 0 ∧
      rdF t (bltPg sl + 0x104) 31 24 = bltCode c ∧ (bltOf t sl).restore = none ∧ t.mem = s.mem)) ∧
  (∀ w s (sl : Fin 8) p, w.off.toNat = bltPg sl + 0x100 → w.val.toNat.testBit 5 = true → partOfSlice s sl = some p → lowSlice s p = sl →
    bltPhase s sl = 0 →
    (digAddr s sl % pageBytes = 0 → inPart s p (digAddr s sl) (digBytes s sl) = true →
      Gives (.digestGo w) s (fun t => bltPhase t sl = 6 ∧ t.mem = s.mem)) ∧
    (digAddr s sl % pageBytes ≠ 0 → Gives (.digestGo w) s (fun t => bltPhase t sl = 0 ∧ rdF t (bltPg sl + 0x104) 31 24 = 4 ∧
      rdB t (bltPg sl + hIntStat) 5 = true ∧ t.mem = s.mem))) ∧
  (∀ (sl : Fin 8) now s p, partOfSlice s sl = some p → bltPhase s sl = 6 →
    Gives (.digestDone sl now) s (fun t =>
      (∀ n < 8, rd t (bltPg sl + 0x180 + 4 * n) =
        leNat (slice (pageDigest (memBytes s p (digAddr s sl) (digBytes s sl)) 0 0 0) (4 * n) 4)) ∧
      bltPhase t sl = 0 ∧ rdB t (bltPg sl + hIntStat) 5 = true ∧ t.mem = s.mem))

/-- Hearth's periods (R399, R401, R402, R410, R411): the 2 µs estimate is k times P_raw of the period's sample, and enters the ms's sum; a
transition that ends leaves its operating point in effect; a boost ends when its phases have; a ms's measurement moves k by a quarter of
its difference from the ratio, within 0.75 to 1.50; a hint is held with its start, its end and its level. -/
def Obligations.HearthPeriods : Prop :=
  (∀ sample now s, notArmed s hrtPg → Gives (.powerEstimate sample now) s (fun t =>
    rdF t (hrtPg + 0x120) 15 0 = min (frFloor (frMul (corrK s) (rawEstimate (tick s now) sample))) 0xFFFF ∧
    t.hrt.sample = sample ∧ t.hrt.rawCnt = s.hrt.rawCnt + 1 ∧
    t.hrt.rawSum = frAdd s.hrt.rawSum (rawEstimate (tick s now) sample) ∧ t.tl = s.tl ∧ t.mem = s.mem)) ∧
  (∀ (die : Fin 4) now s goalOp, (dieAgent s die).target = some goalOp → goalOp < 16 → min (powerCeil s) (dieTop s die) = goalOp →
    Gives (.opTransitionDone die now) s (fun t => (dieAgent t die).target = none ∧ dieOp t die = goalOp ∧
      (dieAgent t die).moved = max s.time now ∧ t.tl = s.tl ∧ t.mem = s.mem)) ∧
  (∀ (die : Fin 4) now s b, (dieAgent s die).boost = some b → b.stop ≤ max s.time now →
    Gives (.hintBoostEnd die now) s (fun t => (dieAgent t die).boost = none ∧ t.win = s.win ∧ t.tl = s.tl ∧ t.mem = s.mem)) ∧
  (∀ measW now s, Gives (.estimatorCorrection measW now) s (fun t =>
    rdF t (hrtPg + 0x124) 15 0 = min measW 0xFFFF ∧ t.hrt.rawCnt = 0 ∧ t.hrt.rawSum = ⟨0, 0⟩ ∧
    ((s.hrt.rawCnt = 0 ∨ frLe s.hrt.rawSum ⟨0, 0⟩ = true) → rd t (hrtPg + 0x128) = rd s (hrtPg + 0x128)) ∧
    (s.hrt.rawCnt ≠ 0 → frLe s.hrt.rawSum ⟨0, 0⟩ = false →
      rdF t (hrtPg + 0x128) 15 0 = nextK (corrK s) (frDiv (frNat (measW * s.hrt.rawCnt)) s.hrt.rawSum) ∧
      12288 ≤ rdF t (hrtPg + 0x128) 15 0 ∧ rdF t (hrtPg + 0x128) 15 0 ≤ 24576) ∧ t.tl = s.tl ∧ t.mem = s.mem)) ∧
  (∀ i s, Ready 7 0x30 (fun w => zero w 47 30) noRegs i s → Gives (.hrtHint i) s (fun t =>
    (∃ h, cGet (fun _ => none) (dieAgent t (i.tile.val / 72)).hints (i.tile.val % 72) = some h ∧
      h.start = max s.time i.now + 1000 * bitsOf i.w 9 0 ∧ h.stop = h.start + 1000 * bitsOf i.w 29 14 ∧ h.level = bitsOf i.w 13 10 ∧
      (hintLate i s = false → h.decided = false)) ∧
    Counted s t (hrtDPg (i.tile.val / 72) + 0x128) 1 ∧
    (hintLate i s = true → Counted s t (hrtDPg (i.tile.val / 72) + 0x12C) 1) ∧
    WroteNone i s t ∧ (i.thread t).pc = BitVec.ofNat 32 (pcOf i s + 8) ∧ t.tl.spad = s.tl.spad ∧ t.mem = s.mem))

/-- The cap and the power train (R396, R408, R409): SP takes a cap of 1,100 to 6,500 W, refuses any other and holds it while it restarts; a
failing phase is replaced by a spare, or its group loses one; a converter less lowers CONV. The input (R397, R463, R484, R486): the bank
charges; a loss of the input with a charged bank begins the hold-up sequence, which closes every open entry of the log, and 20 ms later
power is gone; without one it is gone at once; a rail at its limit, or an overvoltage, trips the power train. -/
def Obligations.PowerInput : Prop :=
  (∀ r s, r.off.toNat = hrtPg + 0x10C → r.val.toNat.testBit 31 = true → spSafe s = false →
    let w := bitsOf r.val.toNat 15 0
    (spRestarting s = false → 1100 ≤ w → w ≤ 6500 → Gives (.capRequest r) s (fun t =>
      rdF t (hrtPg + 0x108) 15 0 = w ∧ rdB t (hrtPg + 0x10C) 30 = false ∧ t.prt = s.prt)) ∧
    (spRestarting s = false → ¬ (1100 ≤ w ∧ w ≤ 6500) → Gives (.capRequest r) s (fun t =>
      rd t (hrtPg + 0x108) = rd s (hrtPg + 0x108) ∧ rdB t (hrtPg + 0x10C) 30 = true ∧ t.prt = s.prt)) ∧
    (spRestarting s = true → Gives (.capRequest r) s (fun t =>
      rd t (hrtPg + 0x108) = rd s (hrtPg + 0x108) ∧ t.prt = { s.prt with heldCap := some w }))) ∧
  (∀ (rail : Fin 11) now s,
    let o := hrtPg + 0x180 + 4 * rail.val
    (rdF s o 23 16 ≠ 0 → Gives (.phaseFail rail now) s (fun t => rdF t o 23 16 = rdF s o 23 16 - 1 ∧ rdF t o 31 24 = rdF s o 31 24 ∧
      Counted s t (hrtPg + 0x170) 1 ∧ rdB t (hrtPg + hIntStat) 3 = true ∧ t.hrt = s.hrt ∧ t.tl = s.tl ∧ t.mem = s.mem)) ∧
    (rdF s o 23 16 = 0 → Gives (.phaseFail rail now) s (fun t => WindowOnly s t ∧ rdF t o 31 24 = rdF s o 31 24 - 1 ∧
      rdB t (hrtPg + hIntStat) 3 = true))) ∧
  (∀ now s, Gives (.converterFail now) s (fun t =>
    rdF t (hrtPg + 0x104) 11 8 = rdF s (hrtPg + 0x104) 11 8 - 1 ∧ t.hrt = s.hrt ∧ t.tl = s.tl ∧ t.mem = s.mem)) ∧
  (∀ now s, s.boot.phase ≠ .off → Gives (.holdupCharged now) s (fun t => t.boot.charged = true ∧ t.boot.phase = s.boot.phase ∧
    t.tl = s.tl)) ∧
  (∀ now s, s.boot.phase ≠ .off → s.boot.phase ≠ .holdup →
    (s.boot.charged = false → Gives (.inputLoss now) s (fun t => t.boot.phase = .off ∧ t.boot.rails = false ∧ t.boot.done = [])) ∧
    (s.boot.charged = true → Gives (.inputLoss now) s (fun t => t.boot.phase = .holdup ∧ t.boot.rails = false ∧
      t.boot.charged = false ∧ t.boot.lost = max s.time now ∧ rdB t (bootPg + 0x100) 0 = false ∧ t.cln.opened = [] ∧
      t.tl = Tiles.reset ∧ t.mem.hbm = []))) ∧
  (∀ now s, s.boot.phase = .holdup →
    (s.boot.lost + 20000000 ≤ max s.time now → Gives (.holdupEnd now) s (fun t =>
      t = { tick s now with boot := { s.boot with phase := .off, done := [] } })) ∧
    (max s.time now < s.boot.lost + 20000000 → exec (.holdupEnd now) s = .next (tick s now))) ∧
  (∀ (rail : Fin 11) now s, canTrip s = true →
    Gives (.analogTrip rail now) s (fun t => Tripped t false) ∧ Gives (.inputOvervoltage now) s (fun t => Tripped t true)) ∧
  (∀ (rail : Fin 11) now s, canTrip s = false →
    exec (.analogTrip rail now) s = .next (tick s now) ∧ exec (.inputOvervoltage now) s = .next (tick s now))

/-- Heat and droop (R412 to R414): each ms a die's hottest junction, its tiles' readings and its thermal ceiling follow the readings, the
trip holds until the junction is at THROTTLE or below, and 115 °C trips the power train; a droop slows a tile's clock until it recovers,
and 16 ms of them fail the tile. -/
def Obligations.HeatAndDroop : Prop :=
  (∀ (die : Fin 4) temps inlet outlet now s, notArmed s (hrtDPg die) →
    let tj := (temps.take 72).foldl max 0
    let rel := bitsOf (rd s (hrtPg + 0x148)) 7 0
    let throt := bitsOf (rd s (hrtPg + 0x148)) 15 8
    let trip := bitsOf (rd s (hrtPg + 0x148)) 23 16
    (tj < 115 → Gives (.thermalLoop die temps inlet outlet now) s (fun t =>
      junction t die = tj ∧
      thermCeil t die = (if (dieAgent s die).tripped = true ∧ throt < tj then 0 else nextCeil (thermCeil s die) tj rel throt trip) ∧
      (dieAgent t die).tripped = (decide (trip ≤ tj) || ((dieAgent s die).tripped && decide (throt < tj))) ∧
      (throt ≤ tj → rdB t (hrtDPg die + hIntStat) 0 = true) ∧
      (∀ i < 72, rdF t (hrtDPg die + 0x180 + 4 * i) 7 0 = nth 0 temps i % 256) ∧
      rdF t (hrtPg + 0x14C) 7 0 = inlet % 256 ∧ rdF t (hrtPg + 0x14C) 15 8 = outlet % 256 ∧
      rdB t (hrtPg + 0x104) 6 = decide (40 < inlet) ∧ t.tl = s.tl ∧ t.mem = s.mem)) ∧
    (115 ≤ tj → canTrip s = true → Gives (.thermalLoop die temps inlet outlet now) s (fun t => Tripped t false))) ∧
  (∀ (tile : Fin 288) now s,
    (tile.val ∉ s.hrt.slow → Gives (.droopDetect tile now) s (fun t => t.hrt.slow = s.hrt.slow ++ [tile.val] ∧
      Counted s t (hrtDPg (tile.val / 72) + 0x120) 1 ∧
      cGet (fun _ => 0) t.hrt.episodes tile = cGet (fun _ => 0) s.hrt.episodes tile + 1 ∧ t.tl = s.tl ∧ t.mem = s.mem)) ∧
    (tile.val ∈ s.hrt.slow → exec (.droopDetect tile now) s = .next (tick s now))) ∧
  (∀ (tile : Fin 288) cycles now s, tile.val ∈ s.hrt.slow →
    Gives (.droopRecover tile cycles now) s (fun t => tile.val ∉ t.hrt.slow ∧
      (dieAgent t (tile.val / 72)).stretch = (dieAgent s (tile.val / 72)).stretch + cycles ∧
      Counted s t (hrtDPg (tile.val / 72) + 0x124) cycles ∧ t.tl = s.tl ∧ t.mem = s.mem)) ∧
  (∀ (tile : Fin 288) now s,
    (16 ≤ cGet (fun _ => 0) s.hrt.runs tile → Gives (.droopLocal tile now) s (fun t => tileFailed t tile = true ∧
      cGet (fun _ => 0) t.hrt.runs tile = 0 ∧ rdB t (hrtDPg (tile.val / 72) + hIntStat) 2 = true ∧ t.mem = s.mem)) ∧
    (cGet (fun _ => 0) s.hrt.runs tile < 16 → exec (.droopLocal tile now) s = .next (tick s now)))

/-- Start-up (R421 to R426, R484, R490, R491): a cold start at 44 V or more begins stage 1 (above 65 V nothing is specified, and the model
stops); a stage that completes is timed, and the last of them sets READY; stage 3 with MOD_EN low is standby; a stage 2 or 4 that fails
stops start-up; the bound sets READY with DEGRADED; module reset and MOD_EN start it again without stages 1 to 3. -/
def Obligations.StartUp : Prop :=
  (∀ vinMv now s,
    (65000 < vinMv → exec (.coldStart vinMv now) s = .fault .inputAboveMaximum) ∧
    (44000 ≤ vinMv → vinMv ≤ 65000 → (s.boot.phase = .off ∨ (s.boot.phase = .tripped ∧ s.boot.keepsOff = false)) →
      Gives (.coldStart vinMv now) s (fun t => ColdStarted s t now)) ∧
    (vinMv < 44000 → exec (.coldStart vinMv now) s = .next (tick s now)) ∧
    (44000 ≤ vinMv → vinMv ≤ 59500 → s.boot.phase = .tripped → s.boot.keepsOff = true →
      Gives (.inputBackInRange vinMv now) s (fun t => ColdStarted s t now)) ∧
    ((s.boot.phase ≠ .tripped ∨ s.boot.keepsOff = false ∨ vinMv < 44000 ∨ 59500 < vinMv) →
      exec (.inputBackInRange vinMv now) s = .next (tick s now))) ∧
  (∀ report now s, s.boot.phase = .starting → report.stage ∈ s.boot.running →
    (report.failed = false ∨ (report.stage ≠ .s2 ∧ report.stage ≠ .s4) → Gives (.startupStageDone report now) s (fun t =>
      report.stage ∈ t.boot.done ∧ rd t (bootPg + 0x110 + 4 * (stageCode report.stage).2) =
        min ((max s.time now - s.boot.origin) / 1000000) 0xFFFE ∧
      (report.stage = .s3 → s.boot.modEn = false → t.boot.phase = .standby ∧ rdF t (bootPg + 0x100) 31 28 = 0xA) ∧
      ((report.stage ≠ .s3 ∨ s.boot.modEn = true) → (∀ y ∈ stageAfter .s9, y ∈ s.boot.done ∨ y = report.stage) →
        t.boot.phase = .ready ∧ rdB t (bootPg + 0x100) 0 = true))) ∧
    (report.failed = true → (report.stage = .s2 ∨ report.stage = .s4) → Gives (.startupStageDone report now) s (fun t =>
      t.boot.phase = .stopped ∧ t.boot.running = [] ∧ rdB t (bootPg + 0x100) 2 = true ∧ t.tl = s.tl ∧ t.mem = s.mem))) ∧
  (∀ now s, s.boot.phase = .starting → .s3 ∈ s.boot.done → s.boot.origin + 6000000000 ≤ max s.time now →
    Gives (.startupBoundExpire now) s (fun t => t.boot.phase = .ready ∧ t.boot.running = [] ∧
      rdB t (bootPg + 0x100) 0 = true ∧ rdB t (bootPg + 0x100) 1 = true)) ∧
  (∀ r s, r.off.toNat = bootPg + 0x104 → r.val.toNat.testBit 31 = true →
    (r.val.toNat % 4 = 1 → spSafe s = false → spRestarting s = false → canReset s = true →
      Gives (.moduleReset r) s (fun t => WarmStarted s t r.now)) ∧
    (r.val.toNat % 4 = 1 → spSafe s = false → spRestarting s = true → canReset s = true →
      Gives (.moduleReset r) s (fun t => t.sp = { s.sp with heldReset := true } ∧ t.boot = s.boot ∧ t.tl = s.tl ∧ t.mem = s.mem)) ∧
    (r.val.toNat % 4 ≠ 1 → Gives (.moduleReset r) s (fun t => WindowOnly s t ∧ rd t (bootPg + 0x104) = r.val.toNat % 4))) ∧
  (∀ now s,
    (canReset s = true → Gives (.modEnFall now) s (fun t => t.boot.phase = .standby ∧ t.boot.rails = false ∧ t.boot.modEn = false ∧
      t.boot.done = [.s1, .s2, .s3] ∧ rdF t (bootPg + 0x100) 31 28 = 0xA ∧ t.tl = Tiles.reset ∧ t.mem.hbm = [] ∧
      ∀ n < 8, partState t n = 0)) ∧
    (s.boot.phase = .standby → Gives (.modEnRise now) s (fun t => WarmStarted s t now ∧ t.boot.modEn = true)) ∧
    (s.boot.phase ≠ .standby → Gives (.modEnRise now) s (fun t => t = { tick s now with boot := { s.boot with modEn := true } })))

/-- Calibration (R431 to R434, R437): each ms a record is in band or out of it by the load band and its source's temperature; CAL_FORCE
makes every record due; a window that may open holds its stacks and is ACTIVE; 150 µs later it releases those that need no training; it
closes 200 µs after it opened, counted; a lane that is equalised anew has a new record. -/
def Obligations.CalibrationWindows : Prop :=
  (∀ temps mean now s, Gives (.calRecordCheck temps mean now) s (fun t =>
    rdF t (calPg + 0x110) 1 0 = nextBand (loadNow s) mean ∧
    (∀ k r, calRec s k = some r → calRec t k =
      some { r with oob := !(inBand (wrF s (calPg + 0x110) 1 0 (nextBand (loadNow s) mean)) r (recTemp temps k)) }) ∧
    t.tl = s.tl ∧ t.mem = s.mem)) ∧
  (∀ r s, r.off.toNat = calPg + 0x100 → r.val.toNat.testBit 0 = true →
    Gives (.calForce r) s (fun t => (∀ k ∈ s.cal.recs.map (·.1), k ∈ t.cal.due) ∧ t.cal.recs = s.cal.recs ∧ t.tl = s.tl ∧
      t.mem = s.mem)) ∧
  (∀ part now s,
    (mayOpen (tick s now) part = true → Gives (.calWindow part now) s (fun t =>
      (∃ w, calWindowAt t part = some w ∧ w.start = max s.time now ∧ w.recs = windowRecs s part ∧
        ∀ c ∈ w.stackIds, cGet (fun _ => false) t.mem.paused c = true) ∧
      rdB t (calPg + 0x110) 31 = true ∧ t.tl = s.tl ∧ t.mem.hbm = s.mem.hbm)) ∧
    (mayOpen (tick s now) part = false → exec (.calWindow part now) s = .next (tick s now))) ∧
  (∀ part short now s w, calWindowAt s part = some w → w.start + 150000 ≤ max s.time now →
    Gives (.calStackRelease part short now) s (fun t =>
      (∀ c ∈ w.stackIds, c ∉ short → notchAsked s c = false → cGet (fun _ => false) t.mem.paused c = false) ∧
      (∀ c ∈ w.stackIds, (c ∈ short ∨ notchAsked s c = true) →
        cGet (fun _ => false) t.mem.paused c = cGet (fun _ => false) s.mem.paused c ∧ rdF t (ctlPg c 6 + 0x100) 31 28 = 1) ∧
      t.tl = s.tl ∧ t.mem.hbm = s.mem.hbm)) ∧
  (∀ part temps monitors now s w, calWindowAt s part = some w → w.start + 200000 ≤ max s.time now →
    (∀ c ∈ w.stackIds, cGet (fun _ => false) s.mem.paused c = false) →
    Gives (.calWindowClose part temps monitors now) s (fun t => calWindowAt t part = none ∧ Counted s t (calPg + 0x120) 1 ∧
      rd t (calPg + 0x124) = (max s.time now - w.start) / 1000 % 2 ^ 32 ∧ rdB t (calPg + hIntStat) 0 = true)) ∧
  (∀ (port : Fin 16) (lane : Fin 9) temp now s, 16 * port.val + lane.val ∈ s.cal.lanes →
    Gives (.serdesLaneRecal port lane temp now) s (fun t =>
      calRec t (recKey 3 (9 * port.val + lane.val)) =
        some { oob := false, load := loadNow s, temp := temp % 256, taken := max s.time now / 2 ^ 20 % 2 ^ 32 } ∧
      16 * port.val + lane.val ∉ t.cal.lanes ∧ t.tl = s.tl ∧ t.mem = s.mem))

/-- SP's restarts and the firmware update (R439, R440, R445, R449 to R451): a lockstep mismatch restarts SP, the third within an hour is
SAFE; a restart ends with what SP held; a bundle is refused with the first check that fails, or goes on trial; a trial ends by commit,
or by abort, expiry or Hearth's watchdog with the earlier firmware. -/
def Obligations.RestartsAndUpdates : Prop :=
  (∀ now s,
    let recent := (s.sp.mismatch.filter (fun x => decide (max s.time now < x + 3600000000000))) ++ [max s.time now]
    Gives (.lockstepMismatch now) s (fun t => spRestarting t = true ∧ Counted s t (sp0Pg + 0x128) 1 ∧ t.sp.mismatch = recent ∧
      spSafe t = (spSafe s || decide (3 ≤ recent.length)) ∧ rdB t (sp0Pg + hIntStat) 0 = true ∧ t.tl = s.tl ∧ t.mem = s.mem)) ∧
  (∀ now s, spRestarting s = true → Gives (.spRestartDone now) s (fun t => spRestarting t = false ∧ t.prt.heldCap = none ∧
    t.sp.heldReset = false ∧
    ∀ w, s.prt.heldCap = some w → spSafe s = false → 1100 ≤ w → w ≤ 6500 → rdF t (hrtPg + 0x108) 15 0 = w)) ∧
  (∀ r s, isUpdCtl r 31 = true → spSafe s = false →
    ((s.sp.trial.isSome = true ∨ spRestarting s = true) → Gives (.updateGo r) s (fun t => BundleRefused s t 6)) ∧
    (s.sp.trial = none → spRestarting s = false → Gives (.updateGo r) s (fun t =>
      match bndCheck s (updBundle s) with
      | some code => BundleRefused s t code
      | none => OnTrial s t (updBundle s)))) ∧
  (∀ b now s, MgtOpen s → s.sp.trial = none →
    Gives (.pldmFwUpdate b now) s (fun t =>
      match bndCheck s b with
      | some code => BundleRefused s t code ∧ Refused t
      | none => OnTrial s t b ∧ Answered t [])) ∧
  (∀ now s x, s.sp.trial = some x →
    (s.hrt.newCode = true → Gives (.hearthWatchdog now) s (fun t => Reverted s t)) ∧
    (x.start + rdF s (sp0Pg + 0x114) 16 0 * 1000000000 ≤ max s.time now → Gives (.trialExpire now) s (fun t => Reverted s t)) ∧
    (max s.time now < x.start + rdF s (sp0Pg + 0x114) 16 0 * 1000000000 → exec (.trialExpire now) s = .next (tick s now))) ∧
  (∀ r s x, s.sp.trial = some x → spServes s = true →
    (isUpdCtl r 29 = true → Gives (.updateAbort r) s (fun t => Reverted s t)) ∧
    (isUpdCtl r 30 = true → Gives (.updateCommit r) s (fun t => t.sp.slotA = s.sp.slotA ∧ t.sp.slotB = s.sp.slotA ∧
      t.sp.trial = none ∧ t.sp.revoked = s.sp.revoked ||| BitVec.ofNat 4 s.sp.slotA.revoke ∧ rdB t (sp0Pg + 0x100) 8 = false ∧
      ∀ n < 3, (compAt s.sp.slotA.comps n).svn < 2 ^ 32 → arc t n = max (arc s n) (compAt s.sp.slotA.comps n).svn))) ∧
  (∀ r s, s.sp.trial = none →
    (isUpdCtl r 29 = true → exec (.updateAbort r) s = .next (tick s r.now)) ∧
    (isUpdCtl r 30 = true → exec (.updateCommit r) s = .next (tick s r.now)))

/-- Requests over management (R440, R443, R446, R454 to R457, R463, R468): while SP restarts and in hold-up each is answered
ERROR_NOT_READY; else it is answered with its data, or refused. -/
def Obligations.ManagementRequests : Prop :=
  (∀ key serial sig sec nonce seq count sensor watts eid bundle now s, spRestarting s = true ∨ s.boot.phase = .holdup →
    ∀ c ∈ [Instr.enroll key serial sig now, .setPolicy sec now, .getEvidence nonce now, .getCerts now, .logRead seq count now,
      .pldmSensorRead sensor now, .pldmSetCap watts now, .pldmModuleReset now, .pollEvent now, .setEndpointId eid now,
      .pldmFwUpdate bundle now],
    Gives c s (fun t => t.mgt = { s.mgt with response := [4] } ∧ t.sp = s.sp ∧ t.boot = s.boot ∧ t.tl = s.tl ∧ t.mem = s.mem ∧
      rd t (hrtPg + 0x108) = rd s (hrtPg + 0x108))) ∧
  (∀ key serial sig now s, MgtOpen s →
    Gives (.enroll key serial sig now) s (fun t =>
      if enrollOk s key serial sig then t.sp.owner = some (digest key) ∧ rdB t (sp0Pg + 0x140) 0 = true ∧
        arc t 6 = min (arc s 6 + 1) 0xFFFFFFFF ∧ Answered t []
      else t.sp = s.sp ∧ Refused t)) ∧
  (∀ sec now s, MgtOpen s →
    Gives (.setPolicy sec now) s (fun t =>
      if policyOk s sec then t.sp.policy = some sec ∧ arc t 3 = secSeq sec ∧ Answered t [] else t.sp = s.sp ∧ Refused t)) ∧
  (∀ nonce sensor now s, MgtOpen s →
    Gives (.getEvidence nonce now) s (fun t => Answered t (evidence (tick s now) nonce) ∧ t.sp = s.sp ∧ t.mem = s.mem) ∧
    Gives (.getCerts now) s (fun t => Answered t (certs s) ∧ t.sp = s.sp ∧ t.mem = s.mem) ∧
    Gives (.pldmSensorRead sensor now) s (fun t => Answered t (leBytes 8 (sensorValue s sensor)) ∧ t.hrt = s.hrt ∧ t.mem = s.mem)) ∧
  (∀ seq count now s, MgtOpen s →
    (1 ≤ count → count ≤ 4 → (∀ q, seq ≤ q → q < seq + count → (entryAt s.cln q).isSome = true) →
      Gives (.logRead seq count now) s (fun t => Answered t ((rangeFrom seq count).map (fun q =>
        ((entryAt s.cln q).map (·.bytes)).getD [])).flatten ∧ t.cln = s.cln)) ∧
    ((count = 0 ∨ 4 < count) → Gives (.logRead seq count now) s (fun t => Refused t ∧ t.cln = s.cln))) ∧
  (∀ watts now s, MgtOpen s →
    (1100 ≤ watts → watts ≤ 6500 → Gives (.pldmSetCap watts now) s (fun t => rdF t (hrtPg + 0x108) 15 0 = watts ∧ Answered t [])) ∧
    (¬ (1100 ≤ watts ∧ watts ≤ 6500) → Gives (.pldmSetCap watts now) s (fun t =>
      rd t (hrtPg + 0x108) = rd s (hrtPg + 0x108) ∧ rdB t (hrtPg + 0x10C) 30 = true ∧ Refused t))) ∧
  (∀ now s, MgtOpen s → canReset s = true → Gives (.pldmModuleReset now) s (fun t => Answered t [] ∧
    t.boot.phase = .starting ∧ t.tl = Tiles.reset ∧ t.mem.hbm = [] ∧ ∀ n < 8, partState t n = 0)) ∧
  (∀ now s, MgtOpen s →
    (s.mgt.events = [] → Gives (.pollEvent now) s (fun t => Answered t [] ∧ t.mgt.events = [])) ∧
    (∀ q qs, s.mgt.events = q :: qs → Gives (.pollEvent now) s (fun t => t.mgt.events = qs ∧
      Answered t (leBytes 8 q ++ ((entryAt s.cln q).map (·.bytes)).getD [])))) ∧
  (∀ eid now s, MgtOpen s → Gives (.setEndpointId eid now) s (fun t => rdF t (mgtPg + 0x100) 31 24 = eid.toNat ∧ Answered t [] ∧
    t.tl = s.tl ∧ t.mem = s.mem))

/-- Attestation and fault injection (R442, R452, R453, R458, R466): ATT_GO leaves the evidence, ATT_CERTS the certificates in host memory;
ATT_EXTEND extends one measurement of 8 to 15; SP arms an injector only where the policy allows it and the block has the site. -/
def Obligations.AttestationAndFaults : Prop :=
  (∀ r s, AttCommand r s 31 → Gives (.attGo r) s (fun t =>
    t.mem.host = cSetList (fun _ => 0) s.mem.host (rd64 s (attPg + 0x108)) (evidence (tick s r.now) (wordsAt s (attPg + 0x110))) ∧
    rdB t (attPg + hIntStat) 0 = true ∧ t.mem.hbm = s.mem.hbm ∧ t.sp = s.sp ∧ t.tl = s.tl)) ∧
  (∀ r s, AttCommand r s 30 →
    let x := bitsOf r.val.toNat 3 0
    (8 ≤ x → Gives (.attExtend r) s (fun t => measure t x = digest (measure s x ++ wordsAt s (attPg + 0x130)) ∧
      (∀ y, y ≠ x → measure t y = measure s y) ∧ rdB t (attPg + hIntStat) 1 = true ∧ t.mem = s.mem)) ∧
    (x < 8 → Gives (.attExtend r) s (fun t => WindowOnly s t))) ∧
  (∀ r s, AttCommand r s 29 → Gives (.attCerts r) s (fun t =>
    t.mem.host = cSetList (fun _ => 0) s.mem.host (rd64 s (attPg + 0x108)) (certs s) ∧ t.mem.hbm = s.mem.hbm ∧ t.sp = s.sp ∧
    t.tl = s.tl)) ∧
  (∀ r s p, r.off.toNat = sp0Pg + 0x118 → r.val.toNat.testBit 31 = true → spServes s = true →
    pageAt (bitsOf r.val.toNat 15 0 * 4096) = some p →
    let v := rd s (sp0Pg + 0x11C)
    let allowed := rdB s (sp0Pg + 0x140) 1 && (sitesOf p.kind).contains (bitsOf v 23 20)
    (allowed = true → Gives (.faultInjArm r) s (fun t => rd t (p.base + hInj) = v &&& 0x80F0FFFF ∧ t.tl = s.tl ∧ t.mem = s.mem)) ∧
    (allowed = false → Gives (.faultInjArm r) s (fun t => WindowOnly s t ∧ rd t (p.base + hInj) = rd s (p.base + hInj))))

/-- Writes of the window (R10, R12, R14, R476): a plain register takes the written value of each field while it is not locked, and keeps it
while it is; a RWS register refuses a requester other than SP, which its page records; the halves of a pair take effect together; a
reserved page takes no write. -/
def Obligations.WindowWrites : Prop :=
  (∀ r s, r.off.toNat % 4 = 0 → pageAt r.off.toNat = none → (r.who = .sp → spRestarting s = false) →
    exec (.regWrite r) s = .next (tick s r.now)) ∧
  (∀ r s p g j half, PlainWrite r s p g j half → g.shape = .word → (∀ f ∈ g.fields, f.acc = .rw ∧ f.legal = none) →
    let locked := isLocked s p (r.off.toNat % 4096) g.lock
    Gives (.regWrite r) s (fun t => WindowOnly s t ∧ (∀ o, o ≠ r.off.toNat → rdW t o = rdW s o) ∧
      (locked = false → ∀ f ∈ g.fields, rdF t r.off.toNat f.hi f.lo = bitsOf r.val.toNat f.hi f.lo) ∧
      (locked = true → rd t r.off.toNat = rd s r.off.toNat))) ∧
  (∀ r s p g j half, PlainWrite r s p g j half → g.shape = .word → g.fields ≠ [] → (∀ f ∈ g.fields, f.acc = .rws) → r.who ≠ .sp →
    rdB s (p.base + hStat) 0 = false →
    let same := ∀ f ∈ g.fields, bitsOf r.val.toNat f.hi f.lo = rdF s r.off.toNat f.hi f.lo
    (¬ same → Gives (.regWrite r) s (fun t => WindowOnly s t ∧ rd t r.off.toNat = rd s r.off.toNat ∧ rdB t (p.base + hStat) 0 = true ∧
      rd t (p.base + hErrSyn) = 2 * 2 ^ 24 + 256 + Requester.code r.who ∧ rd64 t (p.base + hErrLo) = r.off.toNat)) ∧
    (same → Gives (.regWrite r) s (fun t => WindowOnly s t ∧ ∀ o, rdW t o = rdW s o))) ∧
  (∀ r s p g j half, PlainWrite r s p g j half → g.shape = .pair → (∀ f ∈ g.fields, f.acc = .rw) → g.fields ≠ [] →
    (half = .low → Gives (.regWrite r) s (fun t => heldLow t r.off.toNat = r.val.toNat ∧ ∀ o, rdW t o = rdW s o)) ∧
    (half = .high → isLocked s p (r.off.toNat % 4096) g.lock = false → Gives (.regWrite r) s (fun t =>
      rd64 t (r.off.toNat - 4) = heldLow s (r.off.toNat - 4) + 2 ^ 32 * r.val.toNat ∧ t.tl = s.tl ∧ t.mem = s.mem)))

/-- Reads of the window (R11, R12, R474): a read returns the register, and the low half of a pair latches its high half for the next read of
it; a malformed access has no effect, reads 0, and is recorded. -/
def Obligations.WindowReadsAndHeader : Prop :=
  (∀ r s, r.off.toNat % 4 = 0 → tileReg r.off.toNat .spad 0x120 = none → r.off.toNat ≠ ftmPg + 0x118 → r.off.toNat ≠ ftmPg + 0x110 →
    cGet (fun _ => none) s.win.hiLatch r.off.toNat = none →
    Gives (.loReadLatch r) s (fun t => t.win.lastRead = BitVec.ofNat 32 (shown (tick s r.now) r.off.toNat) ∧
      (isLow r.off.toNat = true → cGet (fun _ => none) t.win.hiLatch (r.off.toNat + 4) =
        some (BitVec.ofNat 32 (shown (tick s r.now) (r.off.toNat + 4)))) ∧
      t = { s with win := { s.win with lastRead := t.win.lastRead, hiLatch := t.win.hiLatch }, time := t.time })) ∧
  (∀ r s v, r.off.toNat % 4 = 0 → tileReg r.off.toNat .spad 0x120 = none → cGet (fun _ => none) s.win.hiLatch r.off.toNat = some v →
    Gives (.loReadLatch r) s (fun t => t.win.lastRead = v ∧ cGet (fun _ => none) t.win.hiLatch r.off.toNat = none ∧
      t = { s with win := { s.win with lastRead := t.win.lastRead, hiLatch := t.win.hiLatch }, time := t.time })) ∧
  (∀ who (off : WinOff) width write now s p, width ≠ 4 ∨ off.toNat % 4 ≠ 0 → pageAt off.toNat = some p →
    Gives (.malformedAccess who off width write now) s (fun t =>
      (write = false → t.win.lastRead = 0) ∧
      (rdB s (p.base + hStat) 0 = false → rdB t (p.base + hStat) 0 = true ∧ rd64 t (p.base + hErrLo) = off.toNat ∧
        rd t (p.base + hErrSyn) = 3 * 2 ^ 24 + (if width ≠ 4 then 1 else 2) * 256 + Requester.code who) ∧
      (rdB s (p.base + hStat) 0 = true → rdB t (p.base + hStat) 1 = true ∧ rd t (p.base + hErrSyn) = rd s (p.base + hErrSyn)) ∧
      t.tl = s.tl ∧ t.mem = s.mem))

/-- The error latch (R475): an event is latched while ERR_VALID is 0 and sets it; one that comes while it is 1 sets ERR_OVF and changes
nothing else; ERR_CLR clears, and an event of its cycle is latched after the clear. -/
def Obligations.ErrorLatch : Prop :=
  (∀ s pg cls low addr, cls < 256 → low < 2 ^ 24 → addr < 2 ^ 64 →
    let t := latchErr s pg cls low addr
    (rdB s (pg + hStat) 0 = false → rd t (pg + hErrSyn) = cls * 2 ^ 24 + low ∧ rd64 t (pg + hErrLo) = addr ∧
      rdB t (pg + hStat) 0 = true ∧ WindowOnly s t) ∧
    (rdB s (pg + hStat) 0 = true → rdB t (pg + hStat) 1 = true ∧ rdB t (pg + hStat) 0 = true ∧
      (∀ o, o ≠ pg + hStat → rdW t o = rdW s o) ∧ WindowOnly s t)) ∧
  (∀ r s p, pageAt r.off.toNat = some p → r.off.toNat % 4096 = hCtl → r.val.toNat.testBit 0 = true →
    Gives (.errClr r none) s (fun t => WindowOnly s t ∧ rd t (p.base + hStat) = 0 ∧ rd t (p.base + hErrSyn) = 0 ∧
      rd64 t (p.base + hErrLo) = 0) ∧
    ∀ (syn : W32) (addr : W64), Gives (.errClr r (some (syn, addr))) s (fun t => WindowOnly s t ∧ rd t (p.base + hStat) = 1 ∧
      rd t (p.base + hErrSyn) = syn.toNat ∧ rd64 t (p.base + hErrLo) = addr.toNat))

/-- Interrupt messages (R478): when a page's interrupt becomes active, by hardware's setting of a bit, by an enable or in the cycle of a
clear, its summarising page's data go to its message address, unless that is 0; a page whose interrupt stays active sends nothing. -/
def Obligations.InterruptMessages : Prop :=
  (∀ s pg bits, pg % 4096 = 0 → bits < 2 ^ 32 →
    let t := intSet s pg bits
    (∀ n < 32, rdB t (pg + hIntStat) n = (rdB s (pg + hIntStat) n || bits.testBit n)) ∧ WindowOnly s t ∧
    MessageSent s t pg) ∧
  (∀ r s p, pageAt r.off.toNat = some p → r.off.toNat % 4096 = hIntEn → (r.who = .sp → spRestarting s = false) →
    Gives (.regWrite r) s (fun t => rd t r.off.toNat = r.val.toNat &&& p.kind.intMask ∧ WindowOnly s t ∧ MessageSent s t p.base)) ∧
  (∀ r coin s p, pageAt r.off.toNat = some p → r.off.toNat % 4096 = hIntStat →
    Gives (.intStatW1c r coin) s (fun t => MessageSent s t p.base))

/-- The block takes its commands first in, first out: a step runs the command at the front on the state with the rest of the queue, and with
no command waiting the block idles (DESIGN CHOICE, log entry 2). -/
def Obligations.StepRunsFrontCommand : Prop :=
  (∀ s c rest, s.pending = c :: rest → step s = exec c { s with pending := rest }) ∧
  (∀ s, s.pending = [] → step s = .next s)

/-- A well-formed command is executed: the only stop is a cold start above the highest specified input voltage; only a BLW.DESC, whose
descriptor in scratchpad may name another of its rows, can prove to be another row's. -/
def Obligations.WellFormedCommandsRun : Prop :=
  (∀ c s f, exec c s = .fault f → ∃ vinMv now, c = .coldStart vinMv now ∧ 65000 < vinMv) ∧
  (∀ c s r, wellFormed c = true → exec c s = .refused r → ∃ d ∈ descRows, ∃ i, c = d i)

/-- No command changes the queue. -/
def Obligations.CommandsKeepQueue : Prop :=
  ∀ c s t, exec c s = .next t → t.pending = s.pending

/-- After reset (R171, R425; the empty memory is a DESIGN CHOICE, log entry 20): no partition, every thread HALTED with no register state,
every slot empty, every scratchpad byte 0, every page's error registers and interrupts clear, no command waiting. -/
def Obligations.ResetState : Prop :=
  State.reset.pending = [] ∧ (∀ n < 8, partState State.reset n = 0) ∧
  (∀ t th, (thrOf State.reset t th).st = .halted ∧ (∀ r, xreg State.reset t th r = 0) ∧ ∀ p, preg State.reset t th p = false) ∧
  (∀ t, (∀ slot, tagRaw State.reset t slot = .empty) ∧ ∀ a, spByte State.reset t a = 0) ∧
  (∀ off p, pageAt off = some p → ∀ o ∈ [hStat, hIntStat, hIntEn, hErrSyn, hErrLo, hErrLo + 4, hInj], rd State.reset (p.base + o) = 0)

/-- The memories, the thread list and the window are in their canonical form after reset. -/
def Obligations.ResetMemoryOk : Prop :=
  MemoryOk State.reset

/-- Every step keeps the memories, the thread list and the window in their canonical form, so that states that read the same there are the
same data. -/
def Obligations.StepKeepsMemory : Prop :=
  ∀ s t, MemoryOk s → step s = .next t → MemoryOk t

/-- When an operation does not take effect (R154, R155, R178, R181): a thread that is not RUNNABLE issues nothing; a PC at which no
operation can be fetched faults the thread; a reserved unit or opcode faults it with cause 0x01; a false guard leaves everything but the
PC and the issue counter as it is, unless the word is reserved or waits for a register. -/
def Obligations.OperationsWithheld : Prop :=
  (∀ c ∈ opRows ++ descRows, ∀ i s, wellFormed (c i) = true → (i.thread s).st ≠ .runnable →
    exec (c i) s = .next (tick s i.now)) ∧
  (∀ c ∈ opRows, ∀ i s, wellFormed (c i) = true → (i.thread s).st = .runnable →
    (∀ code, pcFault s i.tile (pcOf i s) = some code →
      exec (c i) s = .next (threadFault (tick s i.now) i.tile i.thr code (pcOf i s))) ∧
    (pcFault s i.tile (pcOf i s) = none → guardOk s i.tile i.thr i.w = false →
      exec (c i) s = .next (i.retired s (tick s i.now)) ∨ exec (c i) s = .next (tick s i.now) ∨
      exec (c i) s = .next (threadFault (tick s i.now) i.tile i.thr 2 (pcOf i s)))) ∧
  (∀ c ∈ opRows, ∀ i s, opDefined (fUnit i.w) (fOpc i.w) = false → (i.thread s).st = .runnable →
    pcFault s i.tile (pcOf i s) = none →
    exec (c i) s = .next (threadFault (tick s i.now) i.tile i.thr 1 (pcOf i s)))

/-- The set wins (R13): a write of BLK_INT_STAT clears the bits written 1, and a bit that hardware sets in the same cycle reads 1
afterwards; no other register changes. -/
def Obligations.SetWinsOverClear : Prop :=
  ∀ r (coin : W32) s p, pageAt r.off.toNat = some p → r.off.toNat % 4096 = hIntStat →
    Gives (.intStatW1c r coin) s (fun t => WindowOnly s t ∧ (∀ o, o ≠ r.off.toNat → rdW t o = rdW s o) ∧
      ∀ n < 32, rdB t r.off.toNat n =
        (if coin.toNat.testBit n && p.kind.intMask.testBit n then true
         else if r.val.toNat.testBit n && p.kind.intMask.testBit n then false else rdB s r.off.toNat n))

/-- Counters (R477): a saturating counter stops at all ones; a 64-bit counter wraps; CNT_CLR clears a page's counters, and an increment of
its cycle is what the counter reads afterwards. -/
def Obligations.CounterRules : Prop :=
  (∀ s o n, rd (incBy s o n) o = min (rd s o + n) 0xFFFFFFFF) ∧
  (∀ s o n, rd64 (inc64 s o n) o = (rd64 s o + n) % 2 ^ 64) ∧
  (∀ r s p b, pageAt r.off.toNat = some p → cntClrBit p.kind (r.off.toNat % 4096) = some b → r.val.toNat.testBit b = true →
    placeOk s p (regPlace p.kind (r.off.toNat % 4096)) = true →
    ∀ g ∈ cntClrRegs p.kind (r.off.toNat % 4096), g.shape = .cnt → ∀ n < g.count,
      Gives (.cntClr r []) s (fun t => WindowOnly s t ∧ rd t (p.base + g.off + n * g.stride) = 0) ∧
      ∀ k, (p.base + g.off + n * g.stride) / 4096 = p.base / 4096 →
        Gives (.cntClr r [(p.base + g.off + n * g.stride, k)]) s (fun t => WindowOnly s t ∧
          rd t (p.base + g.off + n * g.stride) = min k 0xFFFFFFFF))
end

