-- ==== Sys2Proof/Laws/State.lean ====
section
/-!
SUPPORT. What each setter of State leaves as it was: one lemma per field and setter, true by rfl, so that a proof about a field
never unfolds a record update.
-/
namespace Sys2Proof.Machine


/-! wrW -/

@[simp] theorem wrW_pending (s : State) (o : Nat) (v : W32) : (wrW s o v).pending = s.pending := Eq.trans rfl rfl
@[simp] theorem wrW_time (s : State) (o : Nat) (v : W32) : (wrW s o v).time = s.time := Eq.trans rfl rfl
@[simp] theorem wrW_free (s : State) (o : Nat) (v : W32) : (wrW s o v).free = s.free := Eq.trans rfl rfl
@[simp] theorem wrW_tl (s : State) (o : Nat) (v : W32) : (wrW s o v).tl = s.tl := Eq.trans rfl rfl
@[simp] theorem wrW_anv (s : State) (o : Nat) (v : W32) : (wrW s o v).anv = s.anv := Eq.trans rfl rfl
@[simp] theorem wrW_cln (s : State) (o : Nat) (v : W32) : (wrW s o v).cln = s.cln := Eq.trans rfl rfl
@[simp] theorem wrW_mgt (s : State) (o : Nat) (v : W32) : (wrW s o v).mgt = s.mgt := Eq.trans rfl rfl
@[simp] theorem wrW_qch (s : State) (o : Nat) (v : W32) : (wrW s o v).qch = s.qch := Eq.trans rfl rfl
@[simp] theorem wrW_tmp (s : State) (o : Nat) (v : W32) : (wrW s o v).tmp = s.tmp := Eq.trans rfl rfl
@[simp] theorem wrW_mem (s : State) (o : Nat) (v : W32) : (wrW s o v).mem = s.mem := Eq.trans rfl rfl
@[simp] theorem wrW_blw (s : State) (o : Nat) (v : W32) : (wrW s o v).blw = s.blw := Eq.trans rfl rfl
@[simp] theorem wrW_sth (s : State) (o : Nat) (v : W32) : (wrW s o v).sth = s.sth := Eq.trans rfl rfl
@[simp] theorem wrW_tng (s : State) (o : Nat) (v : W32) : (wrW s o v).tng = s.tng := Eq.trans rfl rfl
@[simp] theorem wrW_lnk (s : State) (o : Nat) (v : W32) : (wrW s o v).lnk = s.lnk := Eq.trans rfl rfl
@[simp] theorem wrW_ftm (s : State) (o : Nat) (v : W32) : (wrW s o v).ftm = s.ftm := Eq.trans rfl rfl
@[simp] theorem wrW_rng (s : State) (o : Nat) (v : W32) : (wrW s o v).rng = s.rng := Eq.trans rfl rfl
@[simp] theorem wrW_seq (s : State) (o : Nat) (v : W32) : (wrW s o v).seq = s.seq := Eq.trans rfl rfl
@[simp] theorem wrW_blt (s : State) (o : Nat) (v : W32) : (wrW s o v).blt = s.blt := Eq.trans rfl rfl
@[simp] theorem wrW_prt (s : State) (o : Nat) (v : W32) : (wrW s o v).prt = s.prt := Eq.trans rfl rfl
@[simp] theorem wrW_hrt (s : State) (o : Nat) (v : W32) : (wrW s o v).hrt = s.hrt := Eq.trans rfl rfl
@[simp] theorem wrW_boot (s : State) (o : Nat) (v : W32) : (wrW s o v).boot = s.boot := Eq.trans rfl rfl
@[simp] theorem wrW_cal (s : State) (o : Nat) (v : W32) : (wrW s o v).cal = s.cal := Eq.trans rfl rfl
@[simp] theorem wrW_sp (s : State) (o : Nat) (v : W32) : (wrW s o v).sp = s.sp := Eq.trans rfl rfl
@[simp] theorem wrW_win_hiLatch (s : State) (o : Nat) (v : W32) : (wrW s o v).win.hiLatch = s.win.hiLatch := Eq.trans rfl rfl
@[simp] theorem wrW_win_loHold (s : State) (o : Nat) (v : W32) : (wrW s o v).win.loHold = s.win.loHold := Eq.trans rfl rfl
@[simp] theorem wrW_win_lastRead (s : State) (o : Nat) (v : W32) : (wrW s o v).win.lastRead = s.win.lastRead := Eq.trans rfl rfl
@[simp] theorem wrW_win_msiSent (s : State) (o : Nat) (v : W32) : (wrW s o v).win.msiSent = s.win.msiSent := Eq.trans rfl rfl
@[simp] theorem wrW_win_repair (s : State) (o : Nat) (v : W32) : (wrW s o v).win.repair = s.win.repair := Eq.trans rfl rfl
@[simp] theorem wrW_win_rtData (s : State) (o : Nat) (v : W32) : (wrW s o v).win.rtData = s.win.rtData := Eq.trans rfl rfl
@[simp] theorem wrW_win_clim (s : State) (o : Nat) (v : W32) : (wrW s o v).win.clim = s.win.clim := Eq.trans rfl rfl
@[simp] theorem wrW_win_climStart (s : State) (o : Nat) (v : W32) : (wrW s o v).win.climStart = s.win.climStart := Eq.trans rfl rfl
@[simp] theorem wrW_win_climRun (s : State) (o : Nat) (v : W32) : (wrW s o v).win.climRun = s.win.climRun := Eq.trans rfl rfl
@[simp] theorem wrW_win_climStarted (s : State) (o : Nat) (v : W32) : (wrW s o v).win.climStarted = s.win.climStarted := Eq.trans rfl rfl

/-! wr -/

@[simp] theorem wr_pending (s : State) (o v : Nat) : (wr s o v).pending = s.pending := Eq.trans rfl rfl
@[simp] theorem wr_time (s : State) (o v : Nat) : (wr s o v).time = s.time := Eq.trans rfl rfl
@[simp] theorem wr_free (s : State) (o v : Nat) : (wr s o v).free = s.free := Eq.trans rfl rfl
@[simp] theorem wr_tl (s : State) (o v : Nat) : (wr s o v).tl = s.tl := Eq.trans rfl rfl
@[simp] theorem wr_anv (s : State) (o v : Nat) : (wr s o v).anv = s.anv := Eq.trans rfl rfl
@[simp] theorem wr_cln (s : State) (o v : Nat) : (wr s o v).cln = s.cln := Eq.trans rfl rfl
@[simp] theorem wr_mgt (s : State) (o v : Nat) : (wr s o v).mgt = s.mgt := Eq.trans rfl rfl
@[simp] theorem wr_qch (s : State) (o v : Nat) : (wr s o v).qch = s.qch := Eq.trans rfl rfl
@[simp] theorem wr_tmp (s : State) (o v : Nat) : (wr s o v).tmp = s.tmp := Eq.trans rfl rfl
@[simp] theorem wr_mem (s : State) (o v : Nat) : (wr s o v).mem = s.mem := Eq.trans rfl rfl
@[simp] theorem wr_blw (s : State) (o v : Nat) : (wr s o v).blw = s.blw := Eq.trans rfl rfl
@[simp] theorem wr_sth (s : State) (o v : Nat) : (wr s o v).sth = s.sth := Eq.trans rfl rfl
@[simp] theorem wr_tng (s : State) (o v : Nat) : (wr s o v).tng = s.tng := Eq.trans rfl rfl
@[simp] theorem wr_lnk (s : State) (o v : Nat) : (wr s o v).lnk = s.lnk := Eq.trans rfl rfl
@[simp] theorem wr_ftm (s : State) (o v : Nat) : (wr s o v).ftm = s.ftm := Eq.trans rfl rfl
@[simp] theorem wr_rng (s : State) (o v : Nat) : (wr s o v).rng = s.rng := Eq.trans rfl rfl
@[simp] theorem wr_seq (s : State) (o v : Nat) : (wr s o v).seq = s.seq := Eq.trans rfl rfl
@[simp] theorem wr_blt (s : State) (o v : Nat) : (wr s o v).blt = s.blt := Eq.trans rfl rfl
@[simp] theorem wr_prt (s : State) (o v : Nat) : (wr s o v).prt = s.prt := Eq.trans rfl rfl
@[simp] theorem wr_hrt (s : State) (o v : Nat) : (wr s o v).hrt = s.hrt := Eq.trans rfl rfl
@[simp] theorem wr_boot (s : State) (o v : Nat) : (wr s o v).boot = s.boot := Eq.trans rfl rfl
@[simp] theorem wr_cal (s : State) (o v : Nat) : (wr s o v).cal = s.cal := Eq.trans rfl rfl
@[simp] theorem wr_sp (s : State) (o v : Nat) : (wr s o v).sp = s.sp := Eq.trans rfl rfl
@[simp] theorem wr_win_hiLatch (s : State) (o v : Nat) : (wr s o v).win.hiLatch = s.win.hiLatch := Eq.trans rfl rfl
@[simp] theorem wr_win_loHold (s : State) (o v : Nat) : (wr s o v).win.loHold = s.win.loHold := Eq.trans rfl rfl
@[simp] theorem wr_win_lastRead (s : State) (o v : Nat) : (wr s o v).win.lastRead = s.win.lastRead := Eq.trans rfl rfl
@[simp] theorem wr_win_msiSent (s : State) (o v : Nat) : (wr s o v).win.msiSent = s.win.msiSent := Eq.trans rfl rfl
@[simp] theorem wr_win_repair (s : State) (o v : Nat) : (wr s o v).win.repair = s.win.repair := Eq.trans rfl rfl
@[simp] theorem wr_win_rtData (s : State) (o v : Nat) : (wr s o v).win.rtData = s.win.rtData := Eq.trans rfl rfl
@[simp] theorem wr_win_clim (s : State) (o v : Nat) : (wr s o v).win.clim = s.win.clim := Eq.trans rfl rfl
@[simp] theorem wr_win_climStart (s : State) (o v : Nat) : (wr s o v).win.climStart = s.win.climStart := Eq.trans rfl rfl
@[simp] theorem wr_win_climRun (s : State) (o v : Nat) : (wr s o v).win.climRun = s.win.climRun := Eq.trans rfl rfl
@[simp] theorem wr_win_climStarted (s : State) (o v : Nat) : (wr s o v).win.climStarted = s.win.climStarted := Eq.trans rfl rfl

/-! wrF -/

@[simp] theorem wrF_pending (s : State) (o hi lo f : Nat) : (wrF s o hi lo f).pending = s.pending := Eq.trans rfl rfl
@[simp] theorem wrF_time (s : State) (o hi lo f : Nat) : (wrF s o hi lo f).time = s.time := Eq.trans rfl rfl
@[simp] theorem wrF_free (s : State) (o hi lo f : Nat) : (wrF s o hi lo f).free = s.free := Eq.trans rfl rfl
@[simp] theorem wrF_tl (s : State) (o hi lo f : Nat) : (wrF s o hi lo f).tl = s.tl := Eq.trans rfl rfl
@[simp] theorem wrF_anv (s : State) (o hi lo f : Nat) : (wrF s o hi lo f).anv = s.anv := Eq.trans rfl rfl
@[simp] theorem wrF_cln (s : State) (o hi lo f : Nat) : (wrF s o hi lo f).cln = s.cln := Eq.trans rfl rfl
@[simp] theorem wrF_mgt (s : State) (o hi lo f : Nat) : (wrF s o hi lo f).mgt = s.mgt := Eq.trans rfl rfl
@[simp] theorem wrF_qch (s : State) (o hi lo f : Nat) : (wrF s o hi lo f).qch = s.qch := Eq.trans rfl rfl
@[simp] theorem wrF_tmp (s : State) (o hi lo f : Nat) : (wrF s o hi lo f).tmp = s.tmp := Eq.trans rfl rfl
@[simp] theorem wrF_mem (s : State) (o hi lo f : Nat) : (wrF s o hi lo f).mem = s.mem := Eq.trans rfl rfl
@[simp] theorem wrF_blw (s : State) (o hi lo f : Nat) : (wrF s o hi lo f).blw = s.blw := Eq.trans rfl rfl
@[simp] theorem wrF_sth (s : State) (o hi lo f : Nat) : (wrF s o hi lo f).sth = s.sth := Eq.trans rfl rfl
@[simp] theorem wrF_tng (s : State) (o hi lo f : Nat) : (wrF s o hi lo f).tng = s.tng := Eq.trans rfl rfl
@[simp] theorem wrF_lnk (s : State) (o hi lo f : Nat) : (wrF s o hi lo f).lnk = s.lnk := Eq.trans rfl rfl
@[simp] theorem wrF_ftm (s : State) (o hi lo f : Nat) : (wrF s o hi lo f).ftm = s.ftm := Eq.trans rfl rfl
@[simp] theorem wrF_rng (s : State) (o hi lo f : Nat) : (wrF s o hi lo f).rng = s.rng := Eq.trans rfl rfl
@[simp] theorem wrF_seq (s : State) (o hi lo f : Nat) : (wrF s o hi lo f).seq = s.seq := Eq.trans rfl rfl
@[simp] theorem wrF_blt (s : State) (o hi lo f : Nat) : (wrF s o hi lo f).blt = s.blt := Eq.trans rfl rfl
@[simp] theorem wrF_prt (s : State) (o hi lo f : Nat) : (wrF s o hi lo f).prt = s.prt := Eq.trans rfl rfl
@[simp] theorem wrF_hrt (s : State) (o hi lo f : Nat) : (wrF s o hi lo f).hrt = s.hrt := Eq.trans rfl rfl
@[simp] theorem wrF_boot (s : State) (o hi lo f : Nat) : (wrF s o hi lo f).boot = s.boot := Eq.trans rfl rfl
@[simp] theorem wrF_cal (s : State) (o hi lo f : Nat) : (wrF s o hi lo f).cal = s.cal := Eq.trans rfl rfl
@[simp] theorem wrF_sp (s : State) (o hi lo f : Nat) : (wrF s o hi lo f).sp = s.sp := Eq.trans rfl rfl
@[simp] theorem wrF_win_hiLatch (s : State) (o hi lo f : Nat) : (wrF s o hi lo f).win.hiLatch = s.win.hiLatch := Eq.trans rfl rfl
@[simp] theorem wrF_win_loHold (s : State) (o hi lo f : Nat) : (wrF s o hi lo f).win.loHold = s.win.loHold := Eq.trans rfl rfl
@[simp] theorem wrF_win_lastRead (s : State) (o hi lo f : Nat) : (wrF s o hi lo f).win.lastRead = s.win.lastRead := Eq.trans rfl rfl
@[simp] theorem wrF_win_msiSent (s : State) (o hi lo f : Nat) : (wrF s o hi lo f).win.msiSent = s.win.msiSent := Eq.trans rfl rfl
@[simp] theorem wrF_win_repair (s : State) (o hi lo f : Nat) : (wrF s o hi lo f).win.repair = s.win.repair := Eq.trans rfl rfl
@[simp] theorem wrF_win_rtData (s : State) (o hi lo f : Nat) : (wrF s o hi lo f).win.rtData = s.win.rtData := Eq.trans rfl rfl
@[simp] theorem wrF_win_clim (s : State) (o hi lo f : Nat) : (wrF s o hi lo f).win.clim = s.win.clim := Eq.trans rfl rfl
@[simp] theorem wrF_win_climStart (s : State) (o hi lo f : Nat) : (wrF s o hi lo f).win.climStart = s.win.climStart := Eq.trans rfl rfl
@[simp] theorem wrF_win_climRun (s : State) (o hi lo f : Nat) : (wrF s o hi lo f).win.climRun = s.win.climRun := Eq.trans rfl rfl
@[simp] theorem wrF_win_climStarted (s : State) (o hi lo f : Nat) : (wrF s o hi lo f).win.climStarted = s.win.climStarted := Eq.trans rfl rfl

/-! wrB -/

@[simp] theorem wrB_pending (s : State) (o n : Nat) (b : Bool) : (wrB s o n b).pending = s.pending := Eq.trans rfl rfl
@[simp] theorem wrB_time (s : State) (o n : Nat) (b : Bool) : (wrB s o n b).time = s.time := Eq.trans rfl rfl
@[simp] theorem wrB_free (s : State) (o n : Nat) (b : Bool) : (wrB s o n b).free = s.free := Eq.trans rfl rfl
@[simp] theorem wrB_tl (s : State) (o n : Nat) (b : Bool) : (wrB s o n b).tl = s.tl := Eq.trans rfl rfl
@[simp] theorem wrB_anv (s : State) (o n : Nat) (b : Bool) : (wrB s o n b).anv = s.anv := Eq.trans rfl rfl
@[simp] theorem wrB_cln (s : State) (o n : Nat) (b : Bool) : (wrB s o n b).cln = s.cln := Eq.trans rfl rfl
@[simp] theorem wrB_mgt (s : State) (o n : Nat) (b : Bool) : (wrB s o n b).mgt = s.mgt := Eq.trans rfl rfl
@[simp] theorem wrB_qch (s : State) (o n : Nat) (b : Bool) : (wrB s o n b).qch = s.qch := Eq.trans rfl rfl
@[simp] theorem wrB_tmp (s : State) (o n : Nat) (b : Bool) : (wrB s o n b).tmp = s.tmp := Eq.trans rfl rfl
@[simp] theorem wrB_mem (s : State) (o n : Nat) (b : Bool) : (wrB s o n b).mem = s.mem := Eq.trans rfl rfl
@[simp] theorem wrB_blw (s : State) (o n : Nat) (b : Bool) : (wrB s o n b).blw = s.blw := Eq.trans rfl rfl
@[simp] theorem wrB_sth (s : State) (o n : Nat) (b : Bool) : (wrB s o n b).sth = s.sth := Eq.trans rfl rfl
@[simp] theorem wrB_tng (s : State) (o n : Nat) (b : Bool) : (wrB s o n b).tng = s.tng := Eq.trans rfl rfl
@[simp] theorem wrB_lnk (s : State) (o n : Nat) (b : Bool) : (wrB s o n b).lnk = s.lnk := Eq.trans rfl rfl
@[simp] theorem wrB_ftm (s : State) (o n : Nat) (b : Bool) : (wrB s o n b).ftm = s.ftm := Eq.trans rfl rfl
@[simp] theorem wrB_rng (s : State) (o n : Nat) (b : Bool) : (wrB s o n b).rng = s.rng := Eq.trans rfl rfl
@[simp] theorem wrB_seq (s : State) (o n : Nat) (b : Bool) : (wrB s o n b).seq = s.seq := Eq.trans rfl rfl
@[simp] theorem wrB_blt (s : State) (o n : Nat) (b : Bool) : (wrB s o n b).blt = s.blt := Eq.trans rfl rfl
@[simp] theorem wrB_prt (s : State) (o n : Nat) (b : Bool) : (wrB s o n b).prt = s.prt := Eq.trans rfl rfl
@[simp] theorem wrB_hrt (s : State) (o n : Nat) (b : Bool) : (wrB s o n b).hrt = s.hrt := Eq.trans rfl rfl
@[simp] theorem wrB_boot (s : State) (o n : Nat) (b : Bool) : (wrB s o n b).boot = s.boot := Eq.trans rfl rfl
@[simp] theorem wrB_cal (s : State) (o n : Nat) (b : Bool) : (wrB s o n b).cal = s.cal := Eq.trans rfl rfl
@[simp] theorem wrB_sp (s : State) (o n : Nat) (b : Bool) : (wrB s o n b).sp = s.sp := Eq.trans rfl rfl
@[simp] theorem wrB_win_hiLatch (s : State) (o n : Nat) (b : Bool) : (wrB s o n b).win.hiLatch = s.win.hiLatch := Eq.trans rfl rfl
@[simp] theorem wrB_win_loHold (s : State) (o n : Nat) (b : Bool) : (wrB s o n b).win.loHold = s.win.loHold := Eq.trans rfl rfl
@[simp] theorem wrB_win_lastRead (s : State) (o n : Nat) (b : Bool) : (wrB s o n b).win.lastRead = s.win.lastRead := Eq.trans rfl rfl
@[simp] theorem wrB_win_msiSent (s : State) (o n : Nat) (b : Bool) : (wrB s o n b).win.msiSent = s.win.msiSent := Eq.trans rfl rfl
@[simp] theorem wrB_win_repair (s : State) (o n : Nat) (b : Bool) : (wrB s o n b).win.repair = s.win.repair := Eq.trans rfl rfl
@[simp] theorem wrB_win_rtData (s : State) (o n : Nat) (b : Bool) : (wrB s o n b).win.rtData = s.win.rtData := Eq.trans rfl rfl
@[simp] theorem wrB_win_clim (s : State) (o n : Nat) (b : Bool) : (wrB s o n b).win.clim = s.win.clim := Eq.trans rfl rfl
@[simp] theorem wrB_win_climStart (s : State) (o n : Nat) (b : Bool) : (wrB s o n b).win.climStart = s.win.climStart := Eq.trans rfl rfl
@[simp] theorem wrB_win_climRun (s : State) (o n : Nat) (b : Bool) : (wrB s o n b).win.climRun = s.win.climRun := Eq.trans rfl rfl
@[simp] theorem wrB_win_climStarted (s : State) (o n : Nat) (b : Bool) : (wrB s o n b).win.climStarted = s.win.climStarted := Eq.trans rfl rfl

/-! wr64 -/

@[simp] theorem wr64_pending (s : State) (o v : Nat) : (wr64 s o v).pending = s.pending := Eq.trans rfl rfl
@[simp] theorem wr64_time (s : State) (o v : Nat) : (wr64 s o v).time = s.time := Eq.trans rfl rfl
@[simp] theorem wr64_free (s : State) (o v : Nat) : (wr64 s o v).free = s.free := Eq.trans rfl rfl
@[simp] theorem wr64_tl (s : State) (o v : Nat) : (wr64 s o v).tl = s.tl := Eq.trans rfl rfl
@[simp] theorem wr64_anv (s : State) (o v : Nat) : (wr64 s o v).anv = s.anv := Eq.trans rfl rfl
@[simp] theorem wr64_cln (s : State) (o v : Nat) : (wr64 s o v).cln = s.cln := Eq.trans rfl rfl
@[simp] theorem wr64_mgt (s : State) (o v : Nat) : (wr64 s o v).mgt = s.mgt := Eq.trans rfl rfl
@[simp] theorem wr64_qch (s : State) (o v : Nat) : (wr64 s o v).qch = s.qch := Eq.trans rfl rfl
@[simp] theorem wr64_tmp (s : State) (o v : Nat) : (wr64 s o v).tmp = s.tmp := Eq.trans rfl rfl
@[simp] theorem wr64_mem (s : State) (o v : Nat) : (wr64 s o v).mem = s.mem := Eq.trans rfl rfl
@[simp] theorem wr64_blw (s : State) (o v : Nat) : (wr64 s o v).blw = s.blw := Eq.trans rfl rfl
@[simp] theorem wr64_sth (s : State) (o v : Nat) : (wr64 s o v).sth = s.sth := Eq.trans rfl rfl
@[simp] theorem wr64_tng (s : State) (o v : Nat) : (wr64 s o v).tng = s.tng := Eq.trans rfl rfl
@[simp] theorem wr64_lnk (s : State) (o v : Nat) : (wr64 s o v).lnk = s.lnk := Eq.trans rfl rfl
@[simp] theorem wr64_ftm (s : State) (o v : Nat) : (wr64 s o v).ftm = s.ftm := Eq.trans rfl rfl
@[simp] theorem wr64_rng (s : State) (o v : Nat) : (wr64 s o v).rng = s.rng := Eq.trans rfl rfl
@[simp] theorem wr64_seq (s : State) (o v : Nat) : (wr64 s o v).seq = s.seq := Eq.trans rfl rfl
@[simp] theorem wr64_blt (s : State) (o v : Nat) : (wr64 s o v).blt = s.blt := Eq.trans rfl rfl
@[simp] theorem wr64_prt (s : State) (o v : Nat) : (wr64 s o v).prt = s.prt := Eq.trans rfl rfl
@[simp] theorem wr64_hrt (s : State) (o v : Nat) : (wr64 s o v).hrt = s.hrt := Eq.trans rfl rfl
@[simp] theorem wr64_boot (s : State) (o v : Nat) : (wr64 s o v).boot = s.boot := Eq.trans rfl rfl
@[simp] theorem wr64_cal (s : State) (o v : Nat) : (wr64 s o v).cal = s.cal := Eq.trans rfl rfl
@[simp] theorem wr64_sp (s : State) (o v : Nat) : (wr64 s o v).sp = s.sp := Eq.trans rfl rfl
@[simp] theorem wr64_win_hiLatch (s : State) (o v : Nat) : (wr64 s o v).win.hiLatch = s.win.hiLatch := Eq.trans rfl rfl
@[simp] theorem wr64_win_loHold (s : State) (o v : Nat) : (wr64 s o v).win.loHold = s.win.loHold := Eq.trans rfl rfl
@[simp] theorem wr64_win_lastRead (s : State) (o v : Nat) : (wr64 s o v).win.lastRead = s.win.lastRead := Eq.trans rfl rfl
@[simp] theorem wr64_win_msiSent (s : State) (o v : Nat) : (wr64 s o v).win.msiSent = s.win.msiSent := Eq.trans rfl rfl
@[simp] theorem wr64_win_repair (s : State) (o v : Nat) : (wr64 s o v).win.repair = s.win.repair := Eq.trans rfl rfl
@[simp] theorem wr64_win_rtData (s : State) (o v : Nat) : (wr64 s o v).win.rtData = s.win.rtData := Eq.trans rfl rfl
@[simp] theorem wr64_win_clim (s : State) (o v : Nat) : (wr64 s o v).win.clim = s.win.clim := Eq.trans rfl rfl
@[simp] theorem wr64_win_climStart (s : State) (o v : Nat) : (wr64 s o v).win.climStart = s.win.climStart := Eq.trans rfl rfl
@[simp] theorem wr64_win_climRun (s : State) (o v : Nat) : (wr64 s o v).win.climRun = s.win.climRun := Eq.trans rfl rfl
@[simp] theorem wr64_win_climStarted (s : State) (o v : Nat) : (wr64 s o v).win.climStarted = s.win.climStarted := Eq.trans rfl rfl

/-! incBy -/

@[simp] theorem incBy_pending (s : State) (o n : Nat) : (incBy s o n).pending = s.pending := Eq.trans rfl rfl
@[simp] theorem incBy_time (s : State) (o n : Nat) : (incBy s o n).time = s.time := Eq.trans rfl rfl
@[simp] theorem incBy_free (s : State) (o n : Nat) : (incBy s o n).free = s.free := Eq.trans rfl rfl
@[simp] theorem incBy_tl (s : State) (o n : Nat) : (incBy s o n).tl = s.tl := Eq.trans rfl rfl
@[simp] theorem incBy_anv (s : State) (o n : Nat) : (incBy s o n).anv = s.anv := Eq.trans rfl rfl
@[simp] theorem incBy_cln (s : State) (o n : Nat) : (incBy s o n).cln = s.cln := Eq.trans rfl rfl
@[simp] theorem incBy_mgt (s : State) (o n : Nat) : (incBy s o n).mgt = s.mgt := Eq.trans rfl rfl
@[simp] theorem incBy_qch (s : State) (o n : Nat) : (incBy s o n).qch = s.qch := Eq.trans rfl rfl
@[simp] theorem incBy_tmp (s : State) (o n : Nat) : (incBy s o n).tmp = s.tmp := Eq.trans rfl rfl
@[simp] theorem incBy_mem (s : State) (o n : Nat) : (incBy s o n).mem = s.mem := Eq.trans rfl rfl
@[simp] theorem incBy_blw (s : State) (o n : Nat) : (incBy s o n).blw = s.blw := Eq.trans rfl rfl
@[simp] theorem incBy_sth (s : State) (o n : Nat) : (incBy s o n).sth = s.sth := Eq.trans rfl rfl
@[simp] theorem incBy_tng (s : State) (o n : Nat) : (incBy s o n).tng = s.tng := Eq.trans rfl rfl
@[simp] theorem incBy_lnk (s : State) (o n : Nat) : (incBy s o n).lnk = s.lnk := Eq.trans rfl rfl
@[simp] theorem incBy_ftm (s : State) (o n : Nat) : (incBy s o n).ftm = s.ftm := Eq.trans rfl rfl
@[simp] theorem incBy_rng (s : State) (o n : Nat) : (incBy s o n).rng = s.rng := Eq.trans rfl rfl
@[simp] theorem incBy_seq (s : State) (o n : Nat) : (incBy s o n).seq = s.seq := Eq.trans rfl rfl
@[simp] theorem incBy_blt (s : State) (o n : Nat) : (incBy s o n).blt = s.blt := Eq.trans rfl rfl
@[simp] theorem incBy_prt (s : State) (o n : Nat) : (incBy s o n).prt = s.prt := Eq.trans rfl rfl
@[simp] theorem incBy_hrt (s : State) (o n : Nat) : (incBy s o n).hrt = s.hrt := Eq.trans rfl rfl
@[simp] theorem incBy_boot (s : State) (o n : Nat) : (incBy s o n).boot = s.boot := Eq.trans rfl rfl
@[simp] theorem incBy_cal (s : State) (o n : Nat) : (incBy s o n).cal = s.cal := Eq.trans rfl rfl
@[simp] theorem incBy_sp (s : State) (o n : Nat) : (incBy s o n).sp = s.sp := Eq.trans rfl rfl
@[simp] theorem incBy_win_hiLatch (s : State) (o n : Nat) : (incBy s o n).win.hiLatch = s.win.hiLatch := Eq.trans rfl rfl
@[simp] theorem incBy_win_loHold (s : State) (o n : Nat) : (incBy s o n).win.loHold = s.win.loHold := Eq.trans rfl rfl
@[simp] theorem incBy_win_lastRead (s : State) (o n : Nat) : (incBy s o n).win.lastRead = s.win.lastRead := Eq.trans rfl rfl
@[simp] theorem incBy_win_msiSent (s : State) (o n : Nat) : (incBy s o n).win.msiSent = s.win.msiSent := Eq.trans rfl rfl
@[simp] theorem incBy_win_repair (s : State) (o n : Nat) : (incBy s o n).win.repair = s.win.repair := Eq.trans rfl rfl
@[simp] theorem incBy_win_rtData (s : State) (o n : Nat) : (incBy s o n).win.rtData = s.win.rtData := Eq.trans rfl rfl
@[simp] theorem incBy_win_clim (s : State) (o n : Nat) : (incBy s o n).win.clim = s.win.clim := Eq.trans rfl rfl
@[simp] theorem incBy_win_climStart (s : State) (o n : Nat) : (incBy s o n).win.climStart = s.win.climStart := Eq.trans rfl rfl
@[simp] theorem incBy_win_climRun (s : State) (o n : Nat) : (incBy s o n).win.climRun = s.win.climRun := Eq.trans rfl rfl
@[simp] theorem incBy_win_climStarted (s : State) (o n : Nat) : (incBy s o n).win.climStarted = s.win.climStarted := Eq.trans rfl rfl

/-! inc -/

@[simp] theorem inc_pending (s : State) (o : Nat) : (inc s o).pending = s.pending := Eq.trans rfl rfl
@[simp] theorem inc_time (s : State) (o : Nat) : (inc s o).time = s.time := Eq.trans rfl rfl
@[simp] theorem inc_free (s : State) (o : Nat) : (inc s o).free = s.free := Eq.trans rfl rfl
@[simp] theorem inc_tl (s : State) (o : Nat) : (inc s o).tl = s.tl := Eq.trans rfl rfl
@[simp] theorem inc_anv (s : State) (o : Nat) : (inc s o).anv = s.anv := Eq.trans rfl rfl
@[simp] theorem inc_cln (s : State) (o : Nat) : (inc s o).cln = s.cln := Eq.trans rfl rfl
@[simp] theorem inc_mgt (s : State) (o : Nat) : (inc s o).mgt = s.mgt := Eq.trans rfl rfl
@[simp] theorem inc_qch (s : State) (o : Nat) : (inc s o).qch = s.qch := Eq.trans rfl rfl
@[simp] theorem inc_tmp (s : State) (o : Nat) : (inc s o).tmp = s.tmp := Eq.trans rfl rfl
@[simp] theorem inc_mem (s : State) (o : Nat) : (inc s o).mem = s.mem := Eq.trans rfl rfl
@[simp] theorem inc_blw (s : State) (o : Nat) : (inc s o).blw = s.blw := Eq.trans rfl rfl
@[simp] theorem inc_sth (s : State) (o : Nat) : (inc s o).sth = s.sth := Eq.trans rfl rfl
@[simp] theorem inc_tng (s : State) (o : Nat) : (inc s o).tng = s.tng := Eq.trans rfl rfl
@[simp] theorem inc_lnk (s : State) (o : Nat) : (inc s o).lnk = s.lnk := Eq.trans rfl rfl
@[simp] theorem inc_ftm (s : State) (o : Nat) : (inc s o).ftm = s.ftm := Eq.trans rfl rfl
@[simp] theorem inc_rng (s : State) (o : Nat) : (inc s o).rng = s.rng := Eq.trans rfl rfl
@[simp] theorem inc_seq (s : State) (o : Nat) : (inc s o).seq = s.seq := Eq.trans rfl rfl
@[simp] theorem inc_blt (s : State) (o : Nat) : (inc s o).blt = s.blt := Eq.trans rfl rfl
@[simp] theorem inc_prt (s : State) (o : Nat) : (inc s o).prt = s.prt := Eq.trans rfl rfl
@[simp] theorem inc_hrt (s : State) (o : Nat) : (inc s o).hrt = s.hrt := Eq.trans rfl rfl
@[simp] theorem inc_boot (s : State) (o : Nat) : (inc s o).boot = s.boot := Eq.trans rfl rfl
@[simp] theorem inc_cal (s : State) (o : Nat) : (inc s o).cal = s.cal := Eq.trans rfl rfl
@[simp] theorem inc_sp (s : State) (o : Nat) : (inc s o).sp = s.sp := Eq.trans rfl rfl
@[simp] theorem inc_win_hiLatch (s : State) (o : Nat) : (inc s o).win.hiLatch = s.win.hiLatch := Eq.trans rfl rfl
@[simp] theorem inc_win_loHold (s : State) (o : Nat) : (inc s o).win.loHold = s.win.loHold := Eq.trans rfl rfl
@[simp] theorem inc_win_lastRead (s : State) (o : Nat) : (inc s o).win.lastRead = s.win.lastRead := Eq.trans rfl rfl
@[simp] theorem inc_win_msiSent (s : State) (o : Nat) : (inc s o).win.msiSent = s.win.msiSent := Eq.trans rfl rfl
@[simp] theorem inc_win_repair (s : State) (o : Nat) : (inc s o).win.repair = s.win.repair := Eq.trans rfl rfl
@[simp] theorem inc_win_rtData (s : State) (o : Nat) : (inc s o).win.rtData = s.win.rtData := Eq.trans rfl rfl
@[simp] theorem inc_win_clim (s : State) (o : Nat) : (inc s o).win.clim = s.win.clim := Eq.trans rfl rfl
@[simp] theorem inc_win_climStart (s : State) (o : Nat) : (inc s o).win.climStart = s.win.climStart := Eq.trans rfl rfl
@[simp] theorem inc_win_climRun (s : State) (o : Nat) : (inc s o).win.climRun = s.win.climRun := Eq.trans rfl rfl
@[simp] theorem inc_win_climStarted (s : State) (o : Nat) : (inc s o).win.climStarted = s.win.climStarted := Eq.trans rfl rfl

/-! inc64 -/

@[simp] theorem inc64_pending (s : State) (o n : Nat) : (inc64 s o n).pending = s.pending := Eq.trans rfl rfl
@[simp] theorem inc64_time (s : State) (o n : Nat) : (inc64 s o n).time = s.time := Eq.trans rfl rfl
@[simp] theorem inc64_free (s : State) (o n : Nat) : (inc64 s o n).free = s.free := Eq.trans rfl rfl
@[simp] theorem inc64_tl (s : State) (o n : Nat) : (inc64 s o n).tl = s.tl := Eq.trans rfl rfl
@[simp] theorem inc64_anv (s : State) (o n : Nat) : (inc64 s o n).anv = s.anv := Eq.trans rfl rfl
@[simp] theorem inc64_cln (s : State) (o n : Nat) : (inc64 s o n).cln = s.cln := Eq.trans rfl rfl
@[simp] theorem inc64_mgt (s : State) (o n : Nat) : (inc64 s o n).mgt = s.mgt := Eq.trans rfl rfl
@[simp] theorem inc64_qch (s : State) (o n : Nat) : (inc64 s o n).qch = s.qch := Eq.trans rfl rfl
@[simp] theorem inc64_tmp (s : State) (o n : Nat) : (inc64 s o n).tmp = s.tmp := Eq.trans rfl rfl
@[simp] theorem inc64_mem (s : State) (o n : Nat) : (inc64 s o n).mem = s.mem := Eq.trans rfl rfl
@[simp] theorem inc64_blw (s : State) (o n : Nat) : (inc64 s o n).blw = s.blw := Eq.trans rfl rfl
@[simp] theorem inc64_sth (s : State) (o n : Nat) : (inc64 s o n).sth = s.sth := Eq.trans rfl rfl
@[simp] theorem inc64_tng (s : State) (o n : Nat) : (inc64 s o n).tng = s.tng := Eq.trans rfl rfl
@[simp] theorem inc64_lnk (s : State) (o n : Nat) : (inc64 s o n).lnk = s.lnk := Eq.trans rfl rfl
@[simp] theorem inc64_ftm (s : State) (o n : Nat) : (inc64 s o n).ftm = s.ftm := Eq.trans rfl rfl
@[simp] theorem inc64_rng (s : State) (o n : Nat) : (inc64 s o n).rng = s.rng := Eq.trans rfl rfl
@[simp] theorem inc64_seq (s : State) (o n : Nat) : (inc64 s o n).seq = s.seq := Eq.trans rfl rfl
@[simp] theorem inc64_blt (s : State) (o n : Nat) : (inc64 s o n).blt = s.blt := Eq.trans rfl rfl
@[simp] theorem inc64_prt (s : State) (o n : Nat) : (inc64 s o n).prt = s.prt := Eq.trans rfl rfl
@[simp] theorem inc64_hrt (s : State) (o n : Nat) : (inc64 s o n).hrt = s.hrt := Eq.trans rfl rfl
@[simp] theorem inc64_boot (s : State) (o n : Nat) : (inc64 s o n).boot = s.boot := Eq.trans rfl rfl
@[simp] theorem inc64_cal (s : State) (o n : Nat) : (inc64 s o n).cal = s.cal := Eq.trans rfl rfl
@[simp] theorem inc64_sp (s : State) (o n : Nat) : (inc64 s o n).sp = s.sp := Eq.trans rfl rfl
@[simp] theorem inc64_win_hiLatch (s : State) (o n : Nat) : (inc64 s o n).win.hiLatch = s.win.hiLatch := Eq.trans rfl rfl
@[simp] theorem inc64_win_loHold (s : State) (o n : Nat) : (inc64 s o n).win.loHold = s.win.loHold := Eq.trans rfl rfl
@[simp] theorem inc64_win_lastRead (s : State) (o n : Nat) : (inc64 s o n).win.lastRead = s.win.lastRead := Eq.trans rfl rfl
@[simp] theorem inc64_win_msiSent (s : State) (o n : Nat) : (inc64 s o n).win.msiSent = s.win.msiSent := Eq.trans rfl rfl
@[simp] theorem inc64_win_repair (s : State) (o n : Nat) : (inc64 s o n).win.repair = s.win.repair := Eq.trans rfl rfl
@[simp] theorem inc64_win_rtData (s : State) (o n : Nat) : (inc64 s o n).win.rtData = s.win.rtData := Eq.trans rfl rfl
@[simp] theorem inc64_win_clim (s : State) (o n : Nat) : (inc64 s o n).win.clim = s.win.clim := Eq.trans rfl rfl
@[simp] theorem inc64_win_climStart (s : State) (o n : Nat) : (inc64 s o n).win.climStart = s.win.climStart := Eq.trans rfl rfl
@[simp] theorem inc64_win_climRun (s : State) (o n : Nat) : (inc64 s o n).win.climRun = s.win.climRun := Eq.trans rfl rfl
@[simp] theorem inc64_win_climStarted (s : State) (o n : Nat) : (inc64 s o n).win.climStarted = s.win.climStarted := Eq.trans rfl rfl

/-! tick -/

@[simp] theorem tick_pending (s : State) (n : Nat) : (tick s n).pending = s.pending := Eq.trans rfl rfl
@[simp] theorem tick_free (s : State) (n : Nat) : (tick s n).free = s.free := Eq.trans rfl rfl
@[simp] theorem tick_win (s : State) (n : Nat) : (tick s n).win = s.win := Eq.trans rfl rfl
@[simp] theorem tick_tl (s : State) (n : Nat) : (tick s n).tl = s.tl := Eq.trans rfl rfl
@[simp] theorem tick_anv (s : State) (n : Nat) : (tick s n).anv = s.anv := Eq.trans rfl rfl
@[simp] theorem tick_cln (s : State) (n : Nat) : (tick s n).cln = s.cln := Eq.trans rfl rfl
@[simp] theorem tick_mgt (s : State) (n : Nat) : (tick s n).mgt = s.mgt := Eq.trans rfl rfl
@[simp] theorem tick_qch (s : State) (n : Nat) : (tick s n).qch = s.qch := Eq.trans rfl rfl
@[simp] theorem tick_tmp (s : State) (n : Nat) : (tick s n).tmp = s.tmp := Eq.trans rfl rfl
@[simp] theorem tick_mem (s : State) (n : Nat) : (tick s n).mem = s.mem := Eq.trans rfl rfl
@[simp] theorem tick_blw (s : State) (n : Nat) : (tick s n).blw = s.blw := Eq.trans rfl rfl
@[simp] theorem tick_sth (s : State) (n : Nat) : (tick s n).sth = s.sth := Eq.trans rfl rfl
@[simp] theorem tick_tng (s : State) (n : Nat) : (tick s n).tng = s.tng := Eq.trans rfl rfl
@[simp] theorem tick_lnk (s : State) (n : Nat) : (tick s n).lnk = s.lnk := Eq.trans rfl rfl
@[simp] theorem tick_ftm (s : State) (n : Nat) : (tick s n).ftm = s.ftm := Eq.trans rfl rfl
@[simp] theorem tick_rng (s : State) (n : Nat) : (tick s n).rng = s.rng := Eq.trans rfl rfl
@[simp] theorem tick_seq (s : State) (n : Nat) : (tick s n).seq = s.seq := Eq.trans rfl rfl
@[simp] theorem tick_blt (s : State) (n : Nat) : (tick s n).blt = s.blt := Eq.trans rfl rfl
@[simp] theorem tick_prt (s : State) (n : Nat) : (tick s n).prt = s.prt := Eq.trans rfl rfl
@[simp] theorem tick_hrt (s : State) (n : Nat) : (tick s n).hrt = s.hrt := Eq.trans rfl rfl
@[simp] theorem tick_boot (s : State) (n : Nat) : (tick s n).boot = s.boot := Eq.trans rfl rfl
@[simp] theorem tick_cal (s : State) (n : Nat) : (tick s n).cal = s.cal := Eq.trans rfl rfl
@[simp] theorem tick_sp (s : State) (n : Nat) : (tick s n).sp = s.sp := Eq.trans rfl rfl

/-! setThr -/

@[simp] theorem setThr_pending (s : State) (t th : Nat) (x : Thread) : (setThr s t th x).pending = s.pending := Eq.trans rfl rfl
@[simp] theorem setThr_time (s : State) (t th : Nat) (x : Thread) : (setThr s t th x).time = s.time := Eq.trans rfl rfl
@[simp] theorem setThr_free (s : State) (t th : Nat) (x : Thread) : (setThr s t th x).free = s.free := Eq.trans rfl rfl
@[simp] theorem setThr_win (s : State) (t th : Nat) (x : Thread) : (setThr s t th x).win = s.win := Eq.trans rfl rfl
@[simp] theorem setThr_anv (s : State) (t th : Nat) (x : Thread) : (setThr s t th x).anv = s.anv := Eq.trans rfl rfl
@[simp] theorem setThr_cln (s : State) (t th : Nat) (x : Thread) : (setThr s t th x).cln = s.cln := Eq.trans rfl rfl
@[simp] theorem setThr_mgt (s : State) (t th : Nat) (x : Thread) : (setThr s t th x).mgt = s.mgt := Eq.trans rfl rfl
@[simp] theorem setThr_qch (s : State) (t th : Nat) (x : Thread) : (setThr s t th x).qch = s.qch := Eq.trans rfl rfl
@[simp] theorem setThr_tmp (s : State) (t th : Nat) (x : Thread) : (setThr s t th x).tmp = s.tmp := Eq.trans rfl rfl
@[simp] theorem setThr_mem (s : State) (t th : Nat) (x : Thread) : (setThr s t th x).mem = s.mem := Eq.trans rfl rfl
@[simp] theorem setThr_blw (s : State) (t th : Nat) (x : Thread) : (setThr s t th x).blw = s.blw := Eq.trans rfl rfl
@[simp] theorem setThr_sth (s : State) (t th : Nat) (x : Thread) : (setThr s t th x).sth = s.sth := Eq.trans rfl rfl
@[simp] theorem setThr_tng (s : State) (t th : Nat) (x : Thread) : (setThr s t th x).tng = s.tng := Eq.trans rfl rfl
@[simp] theorem setThr_lnk (s : State) (t th : Nat) (x : Thread) : (setThr s t th x).lnk = s.lnk := Eq.trans rfl rfl
@[simp] theorem setThr_ftm (s : State) (t th : Nat) (x : Thread) : (setThr s t th x).ftm = s.ftm := Eq.trans rfl rfl
@[simp] theorem setThr_rng (s : State) (t th : Nat) (x : Thread) : (setThr s t th x).rng = s.rng := Eq.trans rfl rfl
@[simp] theorem setThr_seq (s : State) (t th : Nat) (x : Thread) : (setThr s t th x).seq = s.seq := Eq.trans rfl rfl
@[simp] theorem setThr_blt (s : State) (t th : Nat) (x : Thread) : (setThr s t th x).blt = s.blt := Eq.trans rfl rfl
@[simp] theorem setThr_prt (s : State) (t th : Nat) (x : Thread) : (setThr s t th x).prt = s.prt := Eq.trans rfl rfl
@[simp] theorem setThr_hrt (s : State) (t th : Nat) (x : Thread) : (setThr s t th x).hrt = s.hrt := Eq.trans rfl rfl
@[simp] theorem setThr_boot (s : State) (t th : Nat) (x : Thread) : (setThr s t th x).boot = s.boot := Eq.trans rfl rfl
@[simp] theorem setThr_cal (s : State) (t th : Nat) (x : Thread) : (setThr s t th x).cal = s.cal := Eq.trans rfl rfl
@[simp] theorem setThr_sp (s : State) (t th : Nat) (x : Thread) : (setThr s t th x).sp = s.sp := Eq.trans rfl rfl
@[simp] theorem setThr_tl_xr (s : State) (t th : Nat) (x : Thread) : (setThr s t th x).tl.xr = s.tl.xr := Eq.trans rfl rfl
@[simp] theorem setThr_tl_pr (s : State) (t th : Nat) (x : Thread) : (setThr s t th x).tl.pr = s.tl.pr := Eq.trans rfl rfl
@[simp] theorem setThr_tl_pend (s : State) (t th : Nat) (x : Thread) : (setThr s t th x).tl.pend = s.tl.pend := Eq.trans rfl rfl
@[simp] theorem setThr_tl_spad (s : State) (t th : Nat) (x : Thread) : (setThr s t th x).tl.spad = s.tl.spad := Eq.trans rfl rfl
@[simp] theorem setThr_tl_tags (s : State) (t th : Nat) (x : Thread) : (setThr s t th x).tl.tags = s.tl.tags := Eq.trans rfl rfl
@[simp] theorem setThr_tl_claims (s : State) (t th : Nat) (x : Thread) : (setThr s t th x).tl.claims = s.tl.claims := Eq.trans rfl rfl
@[simp] theorem setThr_tl_tasks (s : State) (t th : Nat) (x : Thread) : (setThr s t th x).tl.tasks = s.tl.tasks := Eq.trans rfl rfl
@[simp] theorem setThr_tl_barriers (s : State) (t th : Nat) (x : Thread) : (setThr s t th x).tl.barriers = s.tl.barriers := Eq.trans rfl rfl

/-! setXreg -/

@[simp] theorem setXreg_pending (s : State) (t th r : Nat) (v : W64) : (setXreg s t th r v).pending = s.pending := Eq.trans rfl rfl
@[simp] theorem setXreg_time (s : State) (t th r : Nat) (v : W64) : (setXreg s t th r v).time = s.time := Eq.trans rfl rfl
@[simp] theorem setXreg_free (s : State) (t th r : Nat) (v : W64) : (setXreg s t th r v).free = s.free := Eq.trans rfl rfl
@[simp] theorem setXreg_win (s : State) (t th r : Nat) (v : W64) : (setXreg s t th r v).win = s.win := Eq.trans rfl rfl
@[simp] theorem setXreg_anv (s : State) (t th r : Nat) (v : W64) : (setXreg s t th r v).anv = s.anv := Eq.trans rfl rfl
@[simp] theorem setXreg_cln (s : State) (t th r : Nat) (v : W64) : (setXreg s t th r v).cln = s.cln := Eq.trans rfl rfl
@[simp] theorem setXreg_mgt (s : State) (t th r : Nat) (v : W64) : (setXreg s t th r v).mgt = s.mgt := Eq.trans rfl rfl
@[simp] theorem setXreg_qch (s : State) (t th r : Nat) (v : W64) : (setXreg s t th r v).qch = s.qch := Eq.trans rfl rfl
@[simp] theorem setXreg_tmp (s : State) (t th r : Nat) (v : W64) : (setXreg s t th r v).tmp = s.tmp := Eq.trans rfl rfl
@[simp] theorem setXreg_mem (s : State) (t th r : Nat) (v : W64) : (setXreg s t th r v).mem = s.mem := Eq.trans rfl rfl
@[simp] theorem setXreg_blw (s : State) (t th r : Nat) (v : W64) : (setXreg s t th r v).blw = s.blw := Eq.trans rfl rfl
@[simp] theorem setXreg_sth (s : State) (t th r : Nat) (v : W64) : (setXreg s t th r v).sth = s.sth := Eq.trans rfl rfl
@[simp] theorem setXreg_tng (s : State) (t th r : Nat) (v : W64) : (setXreg s t th r v).tng = s.tng := Eq.trans rfl rfl
@[simp] theorem setXreg_lnk (s : State) (t th r : Nat) (v : W64) : (setXreg s t th r v).lnk = s.lnk := Eq.trans rfl rfl
@[simp] theorem setXreg_ftm (s : State) (t th r : Nat) (v : W64) : (setXreg s t th r v).ftm = s.ftm := Eq.trans rfl rfl
@[simp] theorem setXreg_rng (s : State) (t th r : Nat) (v : W64) : (setXreg s t th r v).rng = s.rng := Eq.trans rfl rfl
@[simp] theorem setXreg_seq (s : State) (t th r : Nat) (v : W64) : (setXreg s t th r v).seq = s.seq := Eq.trans rfl rfl
@[simp] theorem setXreg_blt (s : State) (t th r : Nat) (v : W64) : (setXreg s t th r v).blt = s.blt := Eq.trans rfl rfl
@[simp] theorem setXreg_prt (s : State) (t th r : Nat) (v : W64) : (setXreg s t th r v).prt = s.prt := Eq.trans rfl rfl
@[simp] theorem setXreg_hrt (s : State) (t th r : Nat) (v : W64) : (setXreg s t th r v).hrt = s.hrt := Eq.trans rfl rfl
@[simp] theorem setXreg_boot (s : State) (t th r : Nat) (v : W64) : (setXreg s t th r v).boot = s.boot := Eq.trans rfl rfl
@[simp] theorem setXreg_cal (s : State) (t th r : Nat) (v : W64) : (setXreg s t th r v).cal = s.cal := Eq.trans rfl rfl
@[simp] theorem setXreg_sp (s : State) (t th r : Nat) (v : W64) : (setXreg s t th r v).sp = s.sp := Eq.trans rfl rfl
@[simp] theorem setXreg_tl_thr (s : State) (t th r : Nat) (v : W64) : (setXreg s t th r v).tl.thr = s.tl.thr := Eq.trans rfl rfl
@[simp] theorem setXreg_tl_pr (s : State) (t th r : Nat) (v : W64) : (setXreg s t th r v).tl.pr = s.tl.pr := Eq.trans rfl rfl
@[simp] theorem setXreg_tl_spad (s : State) (t th r : Nat) (v : W64) : (setXreg s t th r v).tl.spad = s.tl.spad := Eq.trans rfl rfl
@[simp] theorem setXreg_tl_tags (s : State) (t th r : Nat) (v : W64) : (setXreg s t th r v).tl.tags = s.tl.tags := Eq.trans rfl rfl
@[simp] theorem setXreg_tl_claims (s : State) (t th r : Nat) (v : W64) : (setXreg s t th r v).tl.claims = s.tl.claims := Eq.trans rfl rfl
@[simp] theorem setXreg_tl_tasks (s : State) (t th r : Nat) (v : W64) : (setXreg s t th r v).tl.tasks = s.tl.tasks := Eq.trans rfl rfl
@[simp] theorem setXreg_tl_barriers (s : State) (t th r : Nat) (v : W64) : (setXreg s t th r v).tl.barriers = s.tl.barriers := Eq.trans rfl rfl

/-! setPreg -/

@[simp] theorem setPreg_pending (s : State) (t th p : Nat) (b : Bool) : (setPreg s t th p b).pending = s.pending := Eq.trans rfl rfl
@[simp] theorem setPreg_time (s : State) (t th p : Nat) (b : Bool) : (setPreg s t th p b).time = s.time := Eq.trans rfl rfl
@[simp] theorem setPreg_free (s : State) (t th p : Nat) (b : Bool) : (setPreg s t th p b).free = s.free := Eq.trans rfl rfl
@[simp] theorem setPreg_win (s : State) (t th p : Nat) (b : Bool) : (setPreg s t th p b).win = s.win := Eq.trans rfl rfl
@[simp] theorem setPreg_anv (s : State) (t th p : Nat) (b : Bool) : (setPreg s t th p b).anv = s.anv := Eq.trans rfl rfl
@[simp] theorem setPreg_cln (s : State) (t th p : Nat) (b : Bool) : (setPreg s t th p b).cln = s.cln := Eq.trans rfl rfl
@[simp] theorem setPreg_mgt (s : State) (t th p : Nat) (b : Bool) : (setPreg s t th p b).mgt = s.mgt := Eq.trans rfl rfl
@[simp] theorem setPreg_qch (s : State) (t th p : Nat) (b : Bool) : (setPreg s t th p b).qch = s.qch := Eq.trans rfl rfl
@[simp] theorem setPreg_tmp (s : State) (t th p : Nat) (b : Bool) : (setPreg s t th p b).tmp = s.tmp := Eq.trans rfl rfl
@[simp] theorem setPreg_mem (s : State) (t th p : Nat) (b : Bool) : (setPreg s t th p b).mem = s.mem := Eq.trans rfl rfl
@[simp] theorem setPreg_blw (s : State) (t th p : Nat) (b : Bool) : (setPreg s t th p b).blw = s.blw := Eq.trans rfl rfl
@[simp] theorem setPreg_sth (s : State) (t th p : Nat) (b : Bool) : (setPreg s t th p b).sth = s.sth := Eq.trans rfl rfl
@[simp] theorem setPreg_tng (s : State) (t th p : Nat) (b : Bool) : (setPreg s t th p b).tng = s.tng := Eq.trans rfl rfl
@[simp] theorem setPreg_lnk (s : State) (t th p : Nat) (b : Bool) : (setPreg s t th p b).lnk = s.lnk := Eq.trans rfl rfl
@[simp] theorem setPreg_ftm (s : State) (t th p : Nat) (b : Bool) : (setPreg s t th p b).ftm = s.ftm := Eq.trans rfl rfl
@[simp] theorem setPreg_rng (s : State) (t th p : Nat) (b : Bool) : (setPreg s t th p b).rng = s.rng := Eq.trans rfl rfl
@[simp] theorem setPreg_seq (s : State) (t th p : Nat) (b : Bool) : (setPreg s t th p b).seq = s.seq := Eq.trans rfl rfl
@[simp] theorem setPreg_blt (s : State) (t th p : Nat) (b : Bool) : (setPreg s t th p b).blt = s.blt := Eq.trans rfl rfl
@[simp] theorem setPreg_prt (s : State) (t th p : Nat) (b : Bool) : (setPreg s t th p b).prt = s.prt := Eq.trans rfl rfl
@[simp] theorem setPreg_hrt (s : State) (t th p : Nat) (b : Bool) : (setPreg s t th p b).hrt = s.hrt := Eq.trans rfl rfl
@[simp] theorem setPreg_boot (s : State) (t th p : Nat) (b : Bool) : (setPreg s t th p b).boot = s.boot := Eq.trans rfl rfl
@[simp] theorem setPreg_cal (s : State) (t th p : Nat) (b : Bool) : (setPreg s t th p b).cal = s.cal := Eq.trans rfl rfl
@[simp] theorem setPreg_sp (s : State) (t th p : Nat) (b : Bool) : (setPreg s t th p b).sp = s.sp := Eq.trans rfl rfl
@[simp] theorem setPreg_tl_thr (s : State) (t th p : Nat) (b : Bool) : (setPreg s t th p b).tl.thr = s.tl.thr := Eq.trans rfl rfl
@[simp] theorem setPreg_tl_xr (s : State) (t th p : Nat) (b : Bool) : (setPreg s t th p b).tl.xr = s.tl.xr := Eq.trans rfl rfl
@[simp] theorem setPreg_tl_pend (s : State) (t th p : Nat) (b : Bool) : (setPreg s t th p b).tl.pend = s.tl.pend := Eq.trans rfl rfl
@[simp] theorem setPreg_tl_spad (s : State) (t th p : Nat) (b : Bool) : (setPreg s t th p b).tl.spad = s.tl.spad := Eq.trans rfl rfl
@[simp] theorem setPreg_tl_tags (s : State) (t th p : Nat) (b : Bool) : (setPreg s t th p b).tl.tags = s.tl.tags := Eq.trans rfl rfl
@[simp] theorem setPreg_tl_claims (s : State) (t th p : Nat) (b : Bool) : (setPreg s t th p b).tl.claims = s.tl.claims := Eq.trans rfl rfl
@[simp] theorem setPreg_tl_tasks (s : State) (t th p : Nat) (b : Bool) : (setPreg s t th p b).tl.tasks = s.tl.tasks := Eq.trans rfl rfl
@[simp] theorem setPreg_tl_barriers (s : State) (t th p : Nat) (b : Bool) : (setPreg s t th p b).tl.barriers = s.tl.barriers := Eq.trans rfl rfl

/-! setPend -/

@[simp] theorem setPend_pending (s : State) (t th r n : Nat) : (setPend s t th r n).pending = s.pending := Eq.trans rfl rfl
@[simp] theorem setPend_time (s : State) (t th r n : Nat) : (setPend s t th r n).time = s.time := Eq.trans rfl rfl
@[simp] theorem setPend_free (s : State) (t th r n : Nat) : (setPend s t th r n).free = s.free := Eq.trans rfl rfl
@[simp] theorem setPend_win (s : State) (t th r n : Nat) : (setPend s t th r n).win = s.win := Eq.trans rfl rfl
@[simp] theorem setPend_anv (s : State) (t th r n : Nat) : (setPend s t th r n).anv = s.anv := Eq.trans rfl rfl
@[simp] theorem setPend_cln (s : State) (t th r n : Nat) : (setPend s t th r n).cln = s.cln := Eq.trans rfl rfl
@[simp] theorem setPend_mgt (s : State) (t th r n : Nat) : (setPend s t th r n).mgt = s.mgt := Eq.trans rfl rfl
@[simp] theorem setPend_qch (s : State) (t th r n : Nat) : (setPend s t th r n).qch = s.qch := Eq.trans rfl rfl
@[simp] theorem setPend_tmp (s : State) (t th r n : Nat) : (setPend s t th r n).tmp = s.tmp := Eq.trans rfl rfl
@[simp] theorem setPend_mem (s : State) (t th r n : Nat) : (setPend s t th r n).mem = s.mem := Eq.trans rfl rfl
@[simp] theorem setPend_blw (s : State) (t th r n : Nat) : (setPend s t th r n).blw = s.blw := Eq.trans rfl rfl
@[simp] theorem setPend_sth (s : State) (t th r n : Nat) : (setPend s t th r n).sth = s.sth := Eq.trans rfl rfl
@[simp] theorem setPend_tng (s : State) (t th r n : Nat) : (setPend s t th r n).tng = s.tng := Eq.trans rfl rfl
@[simp] theorem setPend_lnk (s : State) (t th r n : Nat) : (setPend s t th r n).lnk = s.lnk := Eq.trans rfl rfl
@[simp] theorem setPend_ftm (s : State) (t th r n : Nat) : (setPend s t th r n).ftm = s.ftm := Eq.trans rfl rfl
@[simp] theorem setPend_rng (s : State) (t th r n : Nat) : (setPend s t th r n).rng = s.rng := Eq.trans rfl rfl
@[simp] theorem setPend_seq (s : State) (t th r n : Nat) : (setPend s t th r n).seq = s.seq := Eq.trans rfl rfl
@[simp] theorem setPend_blt (s : State) (t th r n : Nat) : (setPend s t th r n).blt = s.blt := Eq.trans rfl rfl
@[simp] theorem setPend_prt (s : State) (t th r n : Nat) : (setPend s t th r n).prt = s.prt := Eq.trans rfl rfl
@[simp] theorem setPend_hrt (s : State) (t th r n : Nat) : (setPend s t th r n).hrt = s.hrt := Eq.trans rfl rfl
@[simp] theorem setPend_boot (s : State) (t th r n : Nat) : (setPend s t th r n).boot = s.boot := Eq.trans rfl rfl
@[simp] theorem setPend_cal (s : State) (t th r n : Nat) : (setPend s t th r n).cal = s.cal := Eq.trans rfl rfl
@[simp] theorem setPend_sp (s : State) (t th r n : Nat) : (setPend s t th r n).sp = s.sp := Eq.trans rfl rfl
@[simp] theorem setPend_tl_thr (s : State) (t th r n : Nat) : (setPend s t th r n).tl.thr = s.tl.thr := Eq.trans rfl rfl
@[simp] theorem setPend_tl_xr (s : State) (t th r n : Nat) : (setPend s t th r n).tl.xr = s.tl.xr := Eq.trans rfl rfl
@[simp] theorem setPend_tl_pr (s : State) (t th r n : Nat) : (setPend s t th r n).tl.pr = s.tl.pr := Eq.trans rfl rfl
@[simp] theorem setPend_tl_spad (s : State) (t th r n : Nat) : (setPend s t th r n).tl.spad = s.tl.spad := Eq.trans rfl rfl
@[simp] theorem setPend_tl_tags (s : State) (t th r n : Nat) : (setPend s t th r n).tl.tags = s.tl.tags := Eq.trans rfl rfl
@[simp] theorem setPend_tl_claims (s : State) (t th r n : Nat) : (setPend s t th r n).tl.claims = s.tl.claims := Eq.trans rfl rfl
@[simp] theorem setPend_tl_tasks (s : State) (t th r n : Nat) : (setPend s t th r n).tl.tasks = s.tl.tasks := Eq.trans rfl rfl
@[simp] theorem setPend_tl_barriers (s : State) (t th r n : Nat) : (setPend s t th r n).tl.barriers = s.tl.barriers := Eq.trans rfl rfl

/-! setTask -/

@[simp] theorem setTask_pending (s : State) (t k : Nat) (x : Option Task) : (setTask s t k x).pending = s.pending := Eq.trans rfl rfl
@[simp] theorem setTask_time (s : State) (t k : Nat) (x : Option Task) : (setTask s t k x).time = s.time := Eq.trans rfl rfl
@[simp] theorem setTask_free (s : State) (t k : Nat) (x : Option Task) : (setTask s t k x).free = s.free := Eq.trans rfl rfl
@[simp] theorem setTask_win (s : State) (t k : Nat) (x : Option Task) : (setTask s t k x).win = s.win := Eq.trans rfl rfl
@[simp] theorem setTask_anv (s : State) (t k : Nat) (x : Option Task) : (setTask s t k x).anv = s.anv := Eq.trans rfl rfl
@[simp] theorem setTask_cln (s : State) (t k : Nat) (x : Option Task) : (setTask s t k x).cln = s.cln := Eq.trans rfl rfl
@[simp] theorem setTask_mgt (s : State) (t k : Nat) (x : Option Task) : (setTask s t k x).mgt = s.mgt := Eq.trans rfl rfl
@[simp] theorem setTask_qch (s : State) (t k : Nat) (x : Option Task) : (setTask s t k x).qch = s.qch := Eq.trans rfl rfl
@[simp] theorem setTask_tmp (s : State) (t k : Nat) (x : Option Task) : (setTask s t k x).tmp = s.tmp := Eq.trans rfl rfl
@[simp] theorem setTask_mem (s : State) (t k : Nat) (x : Option Task) : (setTask s t k x).mem = s.mem := Eq.trans rfl rfl
@[simp] theorem setTask_blw (s : State) (t k : Nat) (x : Option Task) : (setTask s t k x).blw = s.blw := Eq.trans rfl rfl
@[simp] theorem setTask_sth (s : State) (t k : Nat) (x : Option Task) : (setTask s t k x).sth = s.sth := Eq.trans rfl rfl
@[simp] theorem setTask_tng (s : State) (t k : Nat) (x : Option Task) : (setTask s t k x).tng = s.tng := Eq.trans rfl rfl
@[simp] theorem setTask_lnk (s : State) (t k : Nat) (x : Option Task) : (setTask s t k x).lnk = s.lnk := Eq.trans rfl rfl
@[simp] theorem setTask_ftm (s : State) (t k : Nat) (x : Option Task) : (setTask s t k x).ftm = s.ftm := Eq.trans rfl rfl
@[simp] theorem setTask_rng (s : State) (t k : Nat) (x : Option Task) : (setTask s t k x).rng = s.rng := Eq.trans rfl rfl
@[simp] theorem setTask_seq (s : State) (t k : Nat) (x : Option Task) : (setTask s t k x).seq = s.seq := Eq.trans rfl rfl
@[simp] theorem setTask_blt (s : State) (t k : Nat) (x : Option Task) : (setTask s t k x).blt = s.blt := Eq.trans rfl rfl
@[simp] theorem setTask_prt (s : State) (t k : Nat) (x : Option Task) : (setTask s t k x).prt = s.prt := Eq.trans rfl rfl
@[simp] theorem setTask_hrt (s : State) (t k : Nat) (x : Option Task) : (setTask s t k x).hrt = s.hrt := Eq.trans rfl rfl
@[simp] theorem setTask_boot (s : State) (t k : Nat) (x : Option Task) : (setTask s t k x).boot = s.boot := Eq.trans rfl rfl
@[simp] theorem setTask_cal (s : State) (t k : Nat) (x : Option Task) : (setTask s t k x).cal = s.cal := Eq.trans rfl rfl
@[simp] theorem setTask_sp (s : State) (t k : Nat) (x : Option Task) : (setTask s t k x).sp = s.sp := Eq.trans rfl rfl
@[simp] theorem setTask_tl_thr (s : State) (t k : Nat) (x : Option Task) : (setTask s t k x).tl.thr = s.tl.thr := Eq.trans rfl rfl
@[simp] theorem setTask_tl_xr (s : State) (t k : Nat) (x : Option Task) : (setTask s t k x).tl.xr = s.tl.xr := Eq.trans rfl rfl
@[simp] theorem setTask_tl_pr (s : State) (t k : Nat) (x : Option Task) : (setTask s t k x).tl.pr = s.tl.pr := Eq.trans rfl rfl
@[simp] theorem setTask_tl_pend (s : State) (t k : Nat) (x : Option Task) : (setTask s t k x).tl.pend = s.tl.pend := Eq.trans rfl rfl
@[simp] theorem setTask_tl_spad (s : State) (t k : Nat) (x : Option Task) : (setTask s t k x).tl.spad = s.tl.spad := Eq.trans rfl rfl
@[simp] theorem setTask_tl_tags (s : State) (t k : Nat) (x : Option Task) : (setTask s t k x).tl.tags = s.tl.tags := Eq.trans rfl rfl
@[simp] theorem setTask_tl_claims (s : State) (t k : Nat) (x : Option Task) : (setTask s t k x).tl.claims = s.tl.claims := Eq.trans rfl rfl
@[simp] theorem setTask_tl_barriers (s : State) (t k : Nat) (x : Option Task) : (setTask s t k x).tl.barriers = s.tl.barriers := Eq.trans rfl rfl

/-! setSpByte -/

@[simp] theorem setSpByte_pending (s : State) (t a : Nat) (b : Byte) : (setSpByte s t a b).pending = s.pending := Eq.trans rfl rfl
@[simp] theorem setSpByte_time (s : State) (t a : Nat) (b : Byte) : (setSpByte s t a b).time = s.time := Eq.trans rfl rfl
@[simp] theorem setSpByte_free (s : State) (t a : Nat) (b : Byte) : (setSpByte s t a b).free = s.free := Eq.trans rfl rfl
@[simp] theorem setSpByte_win (s : State) (t a : Nat) (b : Byte) : (setSpByte s t a b).win = s.win := Eq.trans rfl rfl
@[simp] theorem setSpByte_anv (s : State) (t a : Nat) (b : Byte) : (setSpByte s t a b).anv = s.anv := Eq.trans rfl rfl
@[simp] theorem setSpByte_cln (s : State) (t a : Nat) (b : Byte) : (setSpByte s t a b).cln = s.cln := Eq.trans rfl rfl
@[simp] theorem setSpByte_mgt (s : State) (t a : Nat) (b : Byte) : (setSpByte s t a b).mgt = s.mgt := Eq.trans rfl rfl
@[simp] theorem setSpByte_qch (s : State) (t a : Nat) (b : Byte) : (setSpByte s t a b).qch = s.qch := Eq.trans rfl rfl
@[simp] theorem setSpByte_tmp (s : State) (t a : Nat) (b : Byte) : (setSpByte s t a b).tmp = s.tmp := Eq.trans rfl rfl
@[simp] theorem setSpByte_mem (s : State) (t a : Nat) (b : Byte) : (setSpByte s t a b).mem = s.mem := Eq.trans rfl rfl
@[simp] theorem setSpByte_blw (s : State) (t a : Nat) (b : Byte) : (setSpByte s t a b).blw = s.blw := Eq.trans rfl rfl
@[simp] theorem setSpByte_sth (s : State) (t a : Nat) (b : Byte) : (setSpByte s t a b).sth = s.sth := Eq.trans rfl rfl
@[simp] theorem setSpByte_tng (s : State) (t a : Nat) (b : Byte) : (setSpByte s t a b).tng = s.tng := Eq.trans rfl rfl
@[simp] theorem setSpByte_lnk (s : State) (t a : Nat) (b : Byte) : (setSpByte s t a b).lnk = s.lnk := Eq.trans rfl rfl
@[simp] theorem setSpByte_ftm (s : State) (t a : Nat) (b : Byte) : (setSpByte s t a b).ftm = s.ftm := Eq.trans rfl rfl
@[simp] theorem setSpByte_rng (s : State) (t a : Nat) (b : Byte) : (setSpByte s t a b).rng = s.rng := Eq.trans rfl rfl
@[simp] theorem setSpByte_seq (s : State) (t a : Nat) (b : Byte) : (setSpByte s t a b).seq = s.seq := Eq.trans rfl rfl
@[simp] theorem setSpByte_blt (s : State) (t a : Nat) (b : Byte) : (setSpByte s t a b).blt = s.blt := Eq.trans rfl rfl
@[simp] theorem setSpByte_prt (s : State) (t a : Nat) (b : Byte) : (setSpByte s t a b).prt = s.prt := Eq.trans rfl rfl
@[simp] theorem setSpByte_hrt (s : State) (t a : Nat) (b : Byte) : (setSpByte s t a b).hrt = s.hrt := Eq.trans rfl rfl
@[simp] theorem setSpByte_boot (s : State) (t a : Nat) (b : Byte) : (setSpByte s t a b).boot = s.boot := Eq.trans rfl rfl
@[simp] theorem setSpByte_cal (s : State) (t a : Nat) (b : Byte) : (setSpByte s t a b).cal = s.cal := Eq.trans rfl rfl
@[simp] theorem setSpByte_sp (s : State) (t a : Nat) (b : Byte) : (setSpByte s t a b).sp = s.sp := Eq.trans rfl rfl
@[simp] theorem setSpByte_tl_thr (s : State) (t a : Nat) (b : Byte) : (setSpByte s t a b).tl.thr = s.tl.thr := Eq.trans rfl rfl
@[simp] theorem setSpByte_tl_xr (s : State) (t a : Nat) (b : Byte) : (setSpByte s t a b).tl.xr = s.tl.xr := Eq.trans rfl rfl
@[simp] theorem setSpByte_tl_pr (s : State) (t a : Nat) (b : Byte) : (setSpByte s t a b).tl.pr = s.tl.pr := Eq.trans rfl rfl
@[simp] theorem setSpByte_tl_pend (s : State) (t a : Nat) (b : Byte) : (setSpByte s t a b).tl.pend = s.tl.pend := Eq.trans rfl rfl
@[simp] theorem setSpByte_tl_tags (s : State) (t a : Nat) (b : Byte) : (setSpByte s t a b).tl.tags = s.tl.tags := Eq.trans rfl rfl
@[simp] theorem setSpByte_tl_claims (s : State) (t a : Nat) (b : Byte) : (setSpByte s t a b).tl.claims = s.tl.claims := Eq.trans rfl rfl
@[simp] theorem setSpByte_tl_tasks (s : State) (t a : Nat) (b : Byte) : (setSpByte s t a b).tl.tasks = s.tl.tasks := Eq.trans rfl rfl
@[simp] theorem setSpByte_tl_barriers (s : State) (t a : Nat) (b : Byte) : (setSpByte s t a b).tl.barriers = s.tl.barriers := Eq.trans rfl rfl

/-! setClaim -/

@[simp] theorem setClaim_pending (s : State) (t slot : Nat) (c : Claim) : (setClaim s t slot c).pending = s.pending := Eq.trans rfl rfl
@[simp] theorem setClaim_time (s : State) (t slot : Nat) (c : Claim) : (setClaim s t slot c).time = s.time := Eq.trans rfl rfl
@[simp] theorem setClaim_free (s : State) (t slot : Nat) (c : Claim) : (setClaim s t slot c).free = s.free := Eq.trans rfl rfl
@[simp] theorem setClaim_win (s : State) (t slot : Nat) (c : Claim) : (setClaim s t slot c).win = s.win := Eq.trans rfl rfl
@[simp] theorem setClaim_anv (s : State) (t slot : Nat) (c : Claim) : (setClaim s t slot c).anv = s.anv := Eq.trans rfl rfl
@[simp] theorem setClaim_cln (s : State) (t slot : Nat) (c : Claim) : (setClaim s t slot c).cln = s.cln := Eq.trans rfl rfl
@[simp] theorem setClaim_mgt (s : State) (t slot : Nat) (c : Claim) : (setClaim s t slot c).mgt = s.mgt := Eq.trans rfl rfl
@[simp] theorem setClaim_qch (s : State) (t slot : Nat) (c : Claim) : (setClaim s t slot c).qch = s.qch := Eq.trans rfl rfl
@[simp] theorem setClaim_tmp (s : State) (t slot : Nat) (c : Claim) : (setClaim s t slot c).tmp = s.tmp := Eq.trans rfl rfl
@[simp] theorem setClaim_mem (s : State) (t slot : Nat) (c : Claim) : (setClaim s t slot c).mem = s.mem := Eq.trans rfl rfl
@[simp] theorem setClaim_blw (s : State) (t slot : Nat) (c : Claim) : (setClaim s t slot c).blw = s.blw := Eq.trans rfl rfl
@[simp] theorem setClaim_sth (s : State) (t slot : Nat) (c : Claim) : (setClaim s t slot c).sth = s.sth := Eq.trans rfl rfl
@[simp] theorem setClaim_tng (s : State) (t slot : Nat) (c : Claim) : (setClaim s t slot c).tng = s.tng := Eq.trans rfl rfl
@[simp] theorem setClaim_lnk (s : State) (t slot : Nat) (c : Claim) : (setClaim s t slot c).lnk = s.lnk := Eq.trans rfl rfl
@[simp] theorem setClaim_ftm (s : State) (t slot : Nat) (c : Claim) : (setClaim s t slot c).ftm = s.ftm := Eq.trans rfl rfl
@[simp] theorem setClaim_rng (s : State) (t slot : Nat) (c : Claim) : (setClaim s t slot c).rng = s.rng := Eq.trans rfl rfl
@[simp] theorem setClaim_seq (s : State) (t slot : Nat) (c : Claim) : (setClaim s t slot c).seq = s.seq := Eq.trans rfl rfl
@[simp] theorem setClaim_blt (s : State) (t slot : Nat) (c : Claim) : (setClaim s t slot c).blt = s.blt := Eq.trans rfl rfl
@[simp] theorem setClaim_prt (s : State) (t slot : Nat) (c : Claim) : (setClaim s t slot c).prt = s.prt := Eq.trans rfl rfl
@[simp] theorem setClaim_hrt (s : State) (t slot : Nat) (c : Claim) : (setClaim s t slot c).hrt = s.hrt := Eq.trans rfl rfl
@[simp] theorem setClaim_boot (s : State) (t slot : Nat) (c : Claim) : (setClaim s t slot c).boot = s.boot := Eq.trans rfl rfl
@[simp] theorem setClaim_cal (s : State) (t slot : Nat) (c : Claim) : (setClaim s t slot c).cal = s.cal := Eq.trans rfl rfl
@[simp] theorem setClaim_sp (s : State) (t slot : Nat) (c : Claim) : (setClaim s t slot c).sp = s.sp := Eq.trans rfl rfl
@[simp] theorem setClaim_tl_thr (s : State) (t slot : Nat) (c : Claim) : (setClaim s t slot c).tl.thr = s.tl.thr := Eq.trans rfl rfl
@[simp] theorem setClaim_tl_xr (s : State) (t slot : Nat) (c : Claim) : (setClaim s t slot c).tl.xr = s.tl.xr := Eq.trans rfl rfl
@[simp] theorem setClaim_tl_pr (s : State) (t slot : Nat) (c : Claim) : (setClaim s t slot c).tl.pr = s.tl.pr := Eq.trans rfl rfl
@[simp] theorem setClaim_tl_pend (s : State) (t slot : Nat) (c : Claim) : (setClaim s t slot c).tl.pend = s.tl.pend := Eq.trans rfl rfl
@[simp] theorem setClaim_tl_spad (s : State) (t slot : Nat) (c : Claim) : (setClaim s t slot c).tl.spad = s.tl.spad := Eq.trans rfl rfl
@[simp] theorem setClaim_tl_tags (s : State) (t slot : Nat) (c : Claim) : (setClaim s t slot c).tl.tags = s.tl.tags := Eq.trans rfl rfl
@[simp] theorem setClaim_tl_tasks (s : State) (t slot : Nat) (c : Claim) : (setClaim s t slot c).tl.tasks = s.tl.tasks := Eq.trans rfl rfl
@[simp] theorem setClaim_tl_barriers (s : State) (t slot : Nat) (c : Claim) : (setClaim s t slot c).tl.barriers = s.tl.barriers := Eq.trans rfl rfl

/-! mapThreads -/

@[simp] theorem mapThreads_pending (s : State) (t : Nat) (f : Nat → Thread → Thread) : (mapThreads s t f).pending = s.pending := Eq.trans rfl rfl
@[simp] theorem mapThreads_time (s : State) (t : Nat) (f : Nat → Thread → Thread) : (mapThreads s t f).time = s.time := Eq.trans rfl rfl
@[simp] theorem mapThreads_free (s : State) (t : Nat) (f : Nat → Thread → Thread) : (mapThreads s t f).free = s.free := Eq.trans rfl rfl
@[simp] theorem mapThreads_win (s : State) (t : Nat) (f : Nat → Thread → Thread) : (mapThreads s t f).win = s.win := Eq.trans rfl rfl
@[simp] theorem mapThreads_anv (s : State) (t : Nat) (f : Nat → Thread → Thread) : (mapThreads s t f).anv = s.anv := Eq.trans rfl rfl
@[simp] theorem mapThreads_cln (s : State) (t : Nat) (f : Nat → Thread → Thread) : (mapThreads s t f).cln = s.cln := Eq.trans rfl rfl
@[simp] theorem mapThreads_mgt (s : State) (t : Nat) (f : Nat → Thread → Thread) : (mapThreads s t f).mgt = s.mgt := Eq.trans rfl rfl
@[simp] theorem mapThreads_qch (s : State) (t : Nat) (f : Nat → Thread → Thread) : (mapThreads s t f).qch = s.qch := Eq.trans rfl rfl
@[simp] theorem mapThreads_tmp (s : State) (t : Nat) (f : Nat → Thread → Thread) : (mapThreads s t f).tmp = s.tmp := Eq.trans rfl rfl
@[simp] theorem mapThreads_mem (s : State) (t : Nat) (f : Nat → Thread → Thread) : (mapThreads s t f).mem = s.mem := Eq.trans rfl rfl
@[simp] theorem mapThreads_blw (s : State) (t : Nat) (f : Nat → Thread → Thread) : (mapThreads s t f).blw = s.blw := Eq.trans rfl rfl
@[simp] theorem mapThreads_sth (s : State) (t : Nat) (f : Nat → Thread → Thread) : (mapThreads s t f).sth = s.sth := Eq.trans rfl rfl
@[simp] theorem mapThreads_tng (s : State) (t : Nat) (f : Nat → Thread → Thread) : (mapThreads s t f).tng = s.tng := Eq.trans rfl rfl
@[simp] theorem mapThreads_lnk (s : State) (t : Nat) (f : Nat → Thread → Thread) : (mapThreads s t f).lnk = s.lnk := Eq.trans rfl rfl
@[simp] theorem mapThreads_ftm (s : State) (t : Nat) (f : Nat → Thread → Thread) : (mapThreads s t f).ftm = s.ftm := Eq.trans rfl rfl
@[simp] theorem mapThreads_rng (s : State) (t : Nat) (f : Nat → Thread → Thread) : (mapThreads s t f).rng = s.rng := Eq.trans rfl rfl
@[simp] theorem mapThreads_seq (s : State) (t : Nat) (f : Nat → Thread → Thread) : (mapThreads s t f).seq = s.seq := Eq.trans rfl rfl
@[simp] theorem mapThreads_blt (s : State) (t : Nat) (f : Nat → Thread → Thread) : (mapThreads s t f).blt = s.blt := Eq.trans rfl rfl
@[simp] theorem mapThreads_prt (s : State) (t : Nat) (f : Nat → Thread → Thread) : (mapThreads s t f).prt = s.prt := Eq.trans rfl rfl
@[simp] theorem mapThreads_hrt (s : State) (t : Nat) (f : Nat → Thread → Thread) : (mapThreads s t f).hrt = s.hrt := Eq.trans rfl rfl
@[simp] theorem mapThreads_boot (s : State) (t : Nat) (f : Nat → Thread → Thread) : (mapThreads s t f).boot = s.boot := Eq.trans rfl rfl
@[simp] theorem mapThreads_cal (s : State) (t : Nat) (f : Nat → Thread → Thread) : (mapThreads s t f).cal = s.cal := Eq.trans rfl rfl
@[simp] theorem mapThreads_sp (s : State) (t : Nat) (f : Nat → Thread → Thread) : (mapThreads s t f).sp = s.sp := Eq.trans rfl rfl
@[simp] theorem mapThreads_tl_xr (s : State) (t : Nat) (f : Nat → Thread → Thread) : (mapThreads s t f).tl.xr = s.tl.xr := Eq.trans rfl rfl
@[simp] theorem mapThreads_tl_pr (s : State) (t : Nat) (f : Nat → Thread → Thread) : (mapThreads s t f).tl.pr = s.tl.pr := Eq.trans rfl rfl
@[simp] theorem mapThreads_tl_pend (s : State) (t : Nat) (f : Nat → Thread → Thread) : (mapThreads s t f).tl.pend = s.tl.pend := Eq.trans rfl rfl
@[simp] theorem mapThreads_tl_spad (s : State) (t : Nat) (f : Nat → Thread → Thread) : (mapThreads s t f).tl.spad = s.tl.spad := Eq.trans rfl rfl
@[simp] theorem mapThreads_tl_tags (s : State) (t : Nat) (f : Nat → Thread → Thread) : (mapThreads s t f).tl.tags = s.tl.tags := Eq.trans rfl rfl
@[simp] theorem mapThreads_tl_claims (s : State) (t : Nat) (f : Nat → Thread → Thread) : (mapThreads s t f).tl.claims = s.tl.claims := Eq.trans rfl rfl
@[simp] theorem mapThreads_tl_tasks (s : State) (t : Nat) (f : Nat → Thread → Thread) : (mapThreads s t f).tl.tasks = s.tl.tasks := Eq.trans rfl rfl
@[simp] theorem mapThreads_tl_barriers (s : State) (t : Nat) (f : Nat → Thread → Thread) : (mapThreads s t f).tl.barriers = s.tl.barriers := Eq.trans rfl rfl

end Sys2Proof.Machine
end

