-- ==== Sys2Proof/Laws/Store.lean ====
section
/-!
SUPPORT. Laws of the sparse maps: a read after a write, and the canonical form that every operation keeps.
-/
namespace Sys2Proof.Machine

variable {α : Type}

/-! ### Reads after writes -/

@[simp] theorem cGet_nil (d : Nat → α) (k : Nat) : cGet d [] k = d k := rfl

theorem cGet_cDel_same (d : Nat → α) (m : Cells α) (k : Nat) : cGet d (cDel m k) k = d k := by
  induction m with
  | nil => rfl
  | cons p m ih =>
    by_cases h : p.1 = k
    · simpa [cDel, List.filter_cons, h] using ih
    · simpa [cDel, List.filter_cons, h, cGet] using ih

theorem cGet_cDel_ne (d : Nat → α) (m : Cells α) {k j : Nat} (hne : j ≠ k) : cGet d (cDel m k) j = cGet d m j := by
  induction m with
  | nil => rfl
  | cons p m ih =>
    by_cases h : p.1 = k
    · have : ¬ p.1 = j := fun e => hne (e.symm.trans h)
      simpa [cDel, List.filter_cons, h, cGet, this, Ne.symm hne] using ih
    · by_cases hj : p.1 = j
      · simp [cDel, cGet, hj, hne]
      · simpa [cDel, List.filter_cons, h, cGet, hj] using ih

theorem cGet_cIns_same (d : Nat → α) (m : Cells α) (k : Nat) (v : α) (h : ∀ p ∈ m, p.1 ≠ k) : cGet d (cIns m k v) k = v := by
  induction m with
  | nil => simp [cIns, cGet]
  | cons p m ih =>
    obtain ⟨k', v'⟩ := p
    have hk : k' ≠ k := h _ (List.mem_cons_self ..)
    have ih := ih (fun q hq => h q (List.mem_cons_of_mem _ hq))
    by_cases hlt : k < k' <;> simp [cIns, hlt, cGet, hk, ih]

theorem cGet_cIns_ne (d : Nat → α) (m : Cells α) {k j : Nat} (v : α) (hne : j ≠ k) : cGet d (cIns m k v) j = cGet d m j := by
  induction m with
  | nil => simp [cIns, cGet, Ne.symm hne]
  | cons p m ih =>
    obtain ⟨k', v'⟩ := p
    by_cases hlt : k < k'
    · simp [cIns, hlt, cGet, Ne.symm hne]
    · simp [cIns, hlt, cGet, ih]

theorem mem_cDel {m : Cells α} {k : Nat} {p : Nat × α} (h : p ∈ cDel m k) : p ∈ m ∧ p.1 ≠ k := by
  simpa [cDel] using h

/-- A read of the key just written. -/
@[simp] theorem cGet_cSet_same [DecidableEq α] (d : Nat → α) (m : Cells α) (k : Nat) (v : α) : cGet d (cSet d m k v) k = v := by
  unfold cSet
  split
  · next h => rw [cGet_cDel_same, h]
  · exact cGet_cIns_same d _ k v (fun p hp => (mem_cDel hp).2)

/-- A read of another key. -/
theorem cGet_cSet_ne [DecidableEq α] (d : Nat → α) (m : Cells α) {k j : Nat} (v : α) (h : j ≠ k) :
    cGet d (cSet d m k v) j = cGet d m j := by
  unfold cSet
  split
  · exact cGet_cDel_ne d m h
  · rw [cGet_cIns_ne d _ v h, cGet_cDel_ne d m h]

theorem cGet_cSet [DecidableEq α] (d : Nat → α) (m : Cells α) (k j : Nat) (v : α) :
    cGet d (cSet d m k v) j = if j = k then v else cGet d m j := by
  by_cases h : j = k
  · subst h; simp
  · simp [h, cGet_cSet_ne]

/-- A read after keys are dropped. -/
theorem cGet_cDrop (d : Nat → α) (m : Cells α) (p : Nat → Bool) (k : Nat) :
    cGet d (cDrop m p) k = if p k then d k else cGet d m k := by
  induction m with
  | nil => simp [cDrop]
  | cons q m ih =>
    obtain ⟨k', v'⟩ := q
    have ih' : cGet d (List.filter (fun q => !p q.1) m) k = if p k then d k else cGet d m k := ih
    cases hp : p k' <;> by_cases hk : k' = k
    · subst hk; simp [cDrop, hp, cGet]
    · simp [cDrop, hp, cGet, hk, ih']
    · subst hk; simpa [cDrop, List.filter_cons, hp, cGet] using ih'
    · simpa [cDrop, List.filter_cons, hp, cGet, hk] using ih'

/-! ### The canonical form -/

/-- The canonical form as a statement about the list: keys rise pairwise, and no pair is one that an unlisted key reads as. -/
theorem cSorted_iff (m : Cells α) : cSorted m = true ↔ m.Pairwise (fun a b => a.1 < b.1) := by
  induction m with
  | nil => simp [cSorted]
  | cons p m ih =>
    cases m with
    | nil => simp [cSorted]
    | cons q m =>
      obtain ⟨k, v⟩ := p
      obtain ⟨k', v'⟩ := q
      rw [List.pairwise_cons, ← ih]
      constructor
      · intro h
        simp only [cSorted, Bool.and_eq_true, decide_eq_true_eq] at h
        refine ⟨fun a ha => ?_, h.2⟩
        rcases List.mem_cons.1 ha with rfl | ha
        · exact h.1
        · exact Nat.lt_trans h.1 ((List.pairwise_cons.1 (ih.1 h.2)).1 a ha)
      · intro h
        simp only [cSorted, Bool.and_eq_true, decide_eq_true_eq]
        exact ⟨h.1 (k', v') (List.mem_cons_self ..), h.2⟩

theorem cWf_iff [DecidableEq α] (d : Nat → α) (m : Cells α) :
    cWf d m = true ↔ m.Pairwise (fun a b => a.1 < b.1) ∧ ∀ p ∈ m, p.2 ≠ d p.1 := by
  simp [cWf, cSorted_iff]

@[simp] theorem cWf_nil [DecidableEq α] (d : Nat → α) : cWf d [] = true := rfl

/-- Dropping keys keeps the form. -/
theorem cWf_cDrop [DecidableEq α] {d : Nat → α} {m : Cells α} (p : Nat → Bool) (h : cWf d m = true) : cWf d (cDrop m p) = true := by
  rw [cWf_iff] at *
  exact ⟨h.1.filter _, fun q hq => h.2 q (List.mem_filter.1 hq).1⟩

theorem cWf_cDel [DecidableEq α] {d : Nat → α} {m : Cells α} (k : Nat) (h : cWf d m = true) : cWf d (cDel m k) = true := by
  rw [cWf_iff] at *
  exact ⟨h.1.filter _, fun q hq => h.2 q (List.mem_filter.1 hq).1⟩

theorem mem_cIns {m : Cells α} {k : Nat} {v : α} {p : Nat × α} (h : p ∈ cIns m k v) : p = (k, v) ∨ p ∈ m := by
  induction m with
  | nil => simpa [cIns] using h
  | cons q m ih =>
    obtain ⟨k', v'⟩ := q
    by_cases hlt : k < k'
    · simpa [cIns, hlt] using h
    · simp only [cIns, if_neg hlt, List.mem_cons] at h
      rcases h with h | h
      · exact .inr (h ▸ List.mem_cons_self ..)
      · rcases ih h with h | h
        · exact .inl h
        · exact .inr (List.mem_cons_of_mem _ h)

theorem sorted_cIns {m : Cells α} {k : Nat} (v : α) (h : m.Pairwise (fun a b => a.1 < b.1)) (hk : ∀ p ∈ m, p.1 ≠ k) :
    (cIns m k v).Pairwise (fun a b => a.1 < b.1) := by
  induction m with
  | nil => simp [cIns]
  | cons q m ih =>
    obtain ⟨k', v'⟩ := q
    have hq := List.pairwise_cons.1 h
    by_cases hlt : k < k'
    · simp only [cIns, if_pos hlt]
      refine List.pairwise_cons.2 ⟨fun a ha => ?_, h⟩
      rcases List.mem_cons.1 ha with rfl | ha
      · exact hlt
      · exact Nat.lt_trans hlt (hq.1 a ha)
    · simp only [cIns, if_neg hlt]
      refine List.pairwise_cons.2 ⟨fun a ha => ?_, ih hq.2 (fun p hp => hk p (List.mem_cons_of_mem _ hp))⟩
      rcases mem_cIns ha with rfl | ha
      · have := hk (k', v') (List.mem_cons_self ..)
        simp only at this ⊢
        omega
      · exact hq.1 a ha

/-- A write keeps the form. -/
theorem cWf_cSet [DecidableEq α] {d : Nat → α} {m : Cells α} (k : Nat) (v : α) (h : cWf d m = true) : cWf d (cSet d m k v) = true := by
  unfold cSet
  split
  · exact cWf_cDel k h
  · next hv =>
    have hd := (cWf_iff d _).1 (cWf_cDel k h)
    refine (cWf_iff d _).2 ⟨sorted_cIns v hd.1 (fun p hp => (mem_cDel hp).2), fun p hp => ?_⟩
    rcases mem_cIns hp with rfl | hp
    · exact hv
    · exact hd.2 p hp

theorem cWf_cSetList [DecidableEq α] {d : Nat → α} (vs : List α) : ∀ {m : Cells α} (k : Nat), cWf d m = true →
    cWf d (cSetList d m k vs) = true := by
  induction vs with
  | nil => intro m k h; exact h
  | cons v vs ih => intro m k h; exact ih (k + 1) (cWf_cSet k v h)

end Sys2Proof.Machine
end

