-- ==== Sys2Proof/Laws/Ops.lean ====
section
/-!
SUPPORT. Laws of the shared operations: a register of the window read after a write of it and after a write of another, and the
threads and registers of a tile in the same way.
-/
namespace Sys2Proof.Machine

/-! ### The window -/

@[simp] theorem rdW_wr_same (s : State) (o v : Nat) : rdW (wr s o v) o = BitVec.ofNat 32 v := by simp [rdW, wr, wrW]

theorem rdW_wr_ne (s : State) {o o' : Nat} (v : Nat) (h : o' ≠ o) : rdW (wr s o v) o' = rdW s o' := by
  simp [rdW, wr, wrW, cGet_cSet_ne _ _ _ h]

@[simp] theorem rd_wr_same (s : State) (o v : Nat) : rd (wr s o v) o = v % 2 ^ 32 := by simp [rd]

theorem rd_wr_ne (s : State) {o o' : Nat} (v : Nat) (h : o' ≠ o) : rd (wr s o v) o' = rd s o' := by
  simp [rd, rdW_wr_ne s v h]

/-- A pair read after it is written. -/
theorem rd64_wr64 (s : State) (o v : Nat) (h : v < 2 ^ 64) : rd64 (wr64 s o v) o = v := by
  have h1 : o ≠ o + 4 := by omega
  simp only [rd64, wr64]
  rw [rd_wr_ne _ _ h1, rd_wr_same, rd_wr_same]
  omega

theorem rdW_wr64_ne (s : State) {o o' : Nat} (v : Nat) (h : o' ≠ o) (h' : o' ≠ o + 4) : rdW (wr64 s o v) o' = rdW s o' := by
  rw [wr64, rdW_wr_ne _ _ h', rdW_wr_ne _ _ h]

theorem rd_wr64_ne (s : State) {o o' : Nat} (v : Nat) (h : o' ≠ o) (h' : o' ≠ o + 4) : rd (wr64 s o v) o' = rd s o' := by
  simp [rd, rdW_wr64_ne s v h h']

/-- A register depends on the window alone. -/
theorem rdW_congr {s t : State} (h : s.win.regs = t.win.regs) (o : Nat) : rdW s o = rdW t o := by simp [rdW, h]

theorem rd_congr {s t : State} (h : s.win.regs = t.win.regs) (o : Nat) : rd s o = rd t o := by simp [rd, rdW_congr h]

/-! ### Threads, registers and predicates -/

@[simp] theorem thrOf_setThr (s : State) (t h : Nat) (x : Thread) : thrOf (setThr s t h x) t h = x := by simp [thrOf, setThr]

theorem thrOf_setThr_ne (s : State) {t h t' h' : Nat} (x : Thread) (hk : thKey t' h' ≠ thKey t h) :
    thrOf (setThr s t h x) t' h' = thrOf s t' h' := by simp [thrOf, setThr, cGet_cSet_ne _ _ _ hk]

@[simp] theorem xreg_setXreg (s : State) (t h r : Nat) (v : W64) : xreg (setXreg s t h r v) t h r = v := by simp [xreg, setXreg]

theorem xreg_setXreg_ne (s : State) {t h r r' : Nat} (v : W64) (hr : r' ≠ r) : xreg (setXreg s t h r v) t h r' = xreg s t h r' := by
  simp only [xreg, setXreg]; exact cGet_cSet_ne _ _ _ (by omega)

@[simp] theorem preg_setPreg (s : State) (t h p : Nat) (b : Bool) : preg (setPreg s t h p b) t h p = b := by simp [preg, setPreg]

theorem preg_setPreg_ne (s : State) {t h p p' : Nat} (b : Bool) (hp : p' ≠ p) : preg (setPreg s t h p b) t h p' = preg s t h p' := by
  simp only [preg, setPreg]; exact cGet_cSet_ne _ _ _ (by omega)

/-! ### Retiring -/

theorem retire_thr (s : State) (t h pc : Nat) : thrOf (retire s t h pc) t h = { thrOf s t h with pc := BitVec.ofNat 32 pc } := by
  simp [retire, thrOf]; simp [setThr]

theorem retire_tl (s : State) (t h pc : Nat) :
    (retire s t h pc).tl = (setThr s t h { thrOf s t h with pc := BitVec.ofNat 32 pc }).tl := by rw [retire, inc64_tl]

@[simp] theorem retire_xreg (s : State) (t h pc t' h' r : Nat) : xreg (retire s t h pc) t' h' r = xreg s t' h' r := by
  rw [xreg, retire_tl, setThr_tl_xr, xreg]

@[simp] theorem retire_preg (s : State) (t h pc t' h' p : Nat) : preg (retire s t h pc) t' h' p = preg s t' h' p := by
  rw [preg, retire_tl, setThr_tl_pr, preg]

@[simp] theorem retire_pending (s : State) (t h pc : Nat) : (retire s t h pc).pending = s.pending := by rw [retire, inc64_pending, setThr_pending]
@[simp] theorem retire_time (s : State) (t h pc : Nat) : (retire s t h pc).time = s.time := by rw [retire, inc64_time, setThr_time]
@[simp] theorem retire_free (s : State) (t h pc : Nat) : (retire s t h pc).free = s.free := by rw [retire, inc64_free, setThr_free]
@[simp] theorem retire_anv (s : State) (t h pc : Nat) : (retire s t h pc).anv = s.anv := by rw [retire, inc64_anv, setThr_anv]
@[simp] theorem retire_cln (s : State) (t h pc : Nat) : (retire s t h pc).cln = s.cln := by rw [retire, inc64_cln, setThr_cln]
@[simp] theorem retire_mgt (s : State) (t h pc : Nat) : (retire s t h pc).mgt = s.mgt := by rw [retire, inc64_mgt, setThr_mgt]
@[simp] theorem retire_qch (s : State) (t h pc : Nat) : (retire s t h pc).qch = s.qch := by rw [retire, inc64_qch, setThr_qch]
@[simp] theorem retire_tmp (s : State) (t h pc : Nat) : (retire s t h pc).tmp = s.tmp := by rw [retire, inc64_tmp, setThr_tmp]
@[simp] theorem retire_mem (s : State) (t h pc : Nat) : (retire s t h pc).mem = s.mem := by rw [retire, inc64_mem, setThr_mem]
@[simp] theorem retire_blw (s : State) (t h pc : Nat) : (retire s t h pc).blw = s.blw := by rw [retire, inc64_blw, setThr_blw]
@[simp] theorem retire_sth (s : State) (t h pc : Nat) : (retire s t h pc).sth = s.sth := by rw [retire, inc64_sth, setThr_sth]
@[simp] theorem retire_tng (s : State) (t h pc : Nat) : (retire s t h pc).tng = s.tng := by rw [retire, inc64_tng, setThr_tng]
@[simp] theorem retire_lnk (s : State) (t h pc : Nat) : (retire s t h pc).lnk = s.lnk := by rw [retire, inc64_lnk, setThr_lnk]
@[simp] theorem retire_ftm (s : State) (t h pc : Nat) : (retire s t h pc).ftm = s.ftm := by rw [retire, inc64_ftm, setThr_ftm]
@[simp] theorem retire_rng (s : State) (t h pc : Nat) : (retire s t h pc).rng = s.rng := by rw [retire, inc64_rng, setThr_rng]
@[simp] theorem retire_seq (s : State) (t h pc : Nat) : (retire s t h pc).seq = s.seq := by rw [retire, inc64_seq, setThr_seq]
@[simp] theorem retire_blt (s : State) (t h pc : Nat) : (retire s t h pc).blt = s.blt := by rw [retire, inc64_blt, setThr_blt]
@[simp] theorem retire_prt (s : State) (t h pc : Nat) : (retire s t h pc).prt = s.prt := by rw [retire, inc64_prt, setThr_prt]
@[simp] theorem retire_hrt (s : State) (t h pc : Nat) : (retire s t h pc).hrt = s.hrt := by rw [retire, inc64_hrt, setThr_hrt]
@[simp] theorem retire_boot (s : State) (t h pc : Nat) : (retire s t h pc).boot = s.boot := by rw [retire, inc64_boot, setThr_boot]
@[simp] theorem retire_cal (s : State) (t h pc : Nat) : (retire s t h pc).cal = s.cal := by rw [retire, inc64_cal, setThr_cal]
@[simp] theorem retire_sp (s : State) (t h pc : Nat) : (retire s t h pc).sp = s.sp := by rw [retire, inc64_sp, setThr_sp]
@[simp] theorem retire_tl_xr (s : State) (t h pc : Nat) : (retire s t h pc).tl.xr = s.tl.xr := by rw [retire_tl, setThr_tl_xr]
@[simp] theorem retire_tl_pr (s : State) (t h pc : Nat) : (retire s t h pc).tl.pr = s.tl.pr := by rw [retire_tl, setThr_tl_pr]
@[simp] theorem retire_tl_pend (s : State) (t h pc : Nat) : (retire s t h pc).tl.pend = s.tl.pend := by rw [retire_tl, setThr_tl_pend]
@[simp] theorem retire_tl_spad (s : State) (t h pc : Nat) : (retire s t h pc).tl.spad = s.tl.spad := by rw [retire_tl, setThr_tl_spad]
@[simp] theorem retire_tl_tags (s : State) (t h pc : Nat) : (retire s t h pc).tl.tags = s.tl.tags := by rw [retire_tl, setThr_tl_tags]
@[simp] theorem retire_tl_claims (s : State) (t h pc : Nat) : (retire s t h pc).tl.claims = s.tl.claims := by rw [retire_tl, setThr_tl_claims]
@[simp] theorem retire_tl_tasks (s : State) (t h pc : Nat) : (retire s t h pc).tl.tasks = s.tl.tasks := by rw [retire_tl, setThr_tl_tasks]
@[simp] theorem retire_tl_barriers (s : State) (t h pc : Nat) : (retire s t h pc).tl.barriers = s.tl.barriers := by rw [retire_tl, setThr_tl_barriers]

theorem retire_count (s : State) (t h pc : Nat) :
    rd64 (retire s t h pc) (tilePg t 0 + 0x138) = (rd64 s (tilePg t 0 + 0x138) + 1) % 2 ^ 64 := by
  rw [retire, inc64, rd64_wr64 _ _ _ (by omega)]; rfl

theorem retire_rdW (s : State) (t h pc : Nat) {o : Nat} (h1 : o ≠ tilePg t 0 + 0x138) (h2 : o ≠ tilePg t 0 + 0x138 + 4) :
    rdW (retire s t h pc) o = rdW s o := by
  rw [retire, inc64, rdW_wr64_ne _ _ h1 h2]; rfl

/-! ### What lies outside the window and the thread -/

theorem wr_win (s : State) (o v : Nat) : wr s o v = { s with win := { s.win with regs := (wr s o v).win.regs } } := rfl
theorem win_trans {a b c : State} (h1 : b = { a with win := { a.win with regs := b.win.regs } })
    (h2 : c = { b with win := { b.win with regs := c.win.regs } }) : c = { a with win := { a.win with regs := c.win.regs } } := by
  rw [h2, h1]
theorem wr64_win (s : State) (o v : Nat) : wr64 s o v = { s with win := { s.win with regs := (wr64 s o v).win.regs } } := by
  rw [wr64]; exact win_trans (wr_win _ _ _) (wr_win _ _ _)
theorem only_trans {a b c : State} (h1 : b = { a with tl := b.tl, time := b.time })
    (h2 : c = { b with tl := c.tl, win := { b.win with regs := c.win.regs } }) :
    c = { a with tl := c.tl, win := { a.win with regs := c.win.regs }, time := c.time } := by
  rw [h2, h1]
theorem setThr_tl_only (s : State) (t h : Nat) (x : Thread) : setThr s t h x = { s with tl := (setThr s t h x).tl } := rfl
theorem tl_trans {a b c : State} (h1 : b = { a with tl := b.tl })
    (h2 : c = { b with win := { b.win with regs := c.win.regs } }) :
    c = { a with tl := c.tl, win := { a.win with regs := c.win.regs } } := by
  rw [h2, h1]
theorem retire_win (s : State) (t h pc : Nat) :
    retire s t h pc = { s with tl := (retire s t h pc).tl, win := { s.win with regs := (retire s t h pc).win.regs } } := by
  rw [retire, inc64]; exact tl_trans (setThr_tl_only _ _ _ _) (wr64_win _ _ _)
theorem retire_only {t h pc : Nat} {s s' : State}
    (hx : ∀ k, k / 64 ≠ thKey t h → cGet (fun _ => (0 : W64)) s'.tl.xr k = cGet (fun _ => 0) s.tl.xr k)
    (hp : ∀ k, k / 4 ≠ thKey t h → cGet (fun _ => false) s'.tl.pr k = cGet (fun _ => false) s.tl.pr k)
    (ht : s'.tl = { s.tl with xr := s'.tl.xr, pr := s'.tl.pr })
    (ho : s' = { s with tl := s'.tl, time := s'.time }) : OnlyThread t h s (retire s' t h pc) := by
  constructor
  · intro k hk
    rw [retire_tl, setThr, cGet_cSet_ne _ _ _ hk, ht]
  · intro k hk; rw [retire_tl, setThr_tl_xr]; exact hx k hk
  · intro k hk; rw [retire_tl, setThr_tl_pr]; exact hp k hk
  · rw [retire_tl, setThr]; rw [ht]
  · intro o h1 h2; rw [issueCnt] at h1 h2; rw [retire_rdW _ _ _ _ h1 h2, ho]; rfl
  · exact only_trans ho (retire_win _ _ _ _)

end Sys2Proof.Machine
end

