-- ==== Sys2Proof/Laws/Frames.lean ====
section
/-!
SUPPORT. What the operations on interrupts, errors, slots, tags, scratchpad bytes and check bits leave as it was, one lemma per field.
-/
namespace Sys2Proof.Machine

-- One theorem at a time: the proofs below wait on one another, and each wait would hold a thread with its stack.
set_option Elab.async false

/-! sendMsi -/

@[simp] theorem sendMsi_pending (s : State) (pg : Nat) : (sendMsi s pg).pending = s.pending := by
  simp only [sendMsi]; split
  · rfl
  · exact Eq.trans rfl rfl
@[simp] theorem sendMsi_time (s : State) (pg : Nat) : (sendMsi s pg).time = s.time := by
  simp only [sendMsi]; split
  · rfl
  · exact Eq.trans rfl rfl
@[simp] theorem sendMsi_free (s : State) (pg : Nat) : (sendMsi s pg).free = s.free := by
  simp only [sendMsi]; split
  · rfl
  · exact Eq.trans rfl rfl
@[simp] theorem sendMsi_tl (s : State) (pg : Nat) : (sendMsi s pg).tl = s.tl := by
  simp only [sendMsi]; split
  · rfl
  · exact Eq.trans rfl rfl
@[simp] theorem sendMsi_anv (s : State) (pg : Nat) : (sendMsi s pg).anv = s.anv := by
  simp only [sendMsi]; split
  · rfl
  · exact Eq.trans rfl rfl
@[simp] theorem sendMsi_cln (s : State) (pg : Nat) : (sendMsi s pg).cln = s.cln := by
  simp only [sendMsi]; split
  · rfl
  · exact Eq.trans rfl rfl
@[simp] theorem sendMsi_mgt (s : State) (pg : Nat) : (sendMsi s pg).mgt = s.mgt := by
  simp only [sendMsi]; split
  · rfl
  · exact Eq.trans rfl rfl
@[simp] theorem sendMsi_qch (s : State) (pg : Nat) : (sendMsi s pg).qch = s.qch := by
  simp only [sendMsi]; split
  · rfl
  · exact Eq.trans rfl rfl
@[simp] theorem sendMsi_tmp (s : State) (pg : Nat) : (sendMsi s pg).tmp = s.tmp := by
  simp only [sendMsi]; split
  · rfl
  · exact Eq.trans rfl rfl
@[simp] theorem sendMsi_mem (s : State) (pg : Nat) : (sendMsi s pg).mem = s.mem := by
  simp only [sendMsi]; split
  · rfl
  · exact Eq.trans rfl rfl
@[simp] theorem sendMsi_blw (s : State) (pg : Nat) : (sendMsi s pg).blw = s.blw := by
  simp only [sendMsi]; split
  · rfl
  · exact Eq.trans rfl rfl
@[simp] theorem sendMsi_sth (s : State) (pg : Nat) : (sendMsi s pg).sth = s.sth := by
  simp only [sendMsi]; split
  · rfl
  · exact Eq.trans rfl rfl
@[simp] theorem sendMsi_tng (s : State) (pg : Nat) : (sendMsi s pg).tng = s.tng := by
  simp only [sendMsi]; split
  · rfl
  · exact Eq.trans rfl rfl
@[simp] theorem sendMsi_lnk (s : State) (pg : Nat) : (sendMsi s pg).lnk = s.lnk := by
  simp only [sendMsi]; split
  · rfl
  · exact Eq.trans rfl rfl
@[simp] theorem sendMsi_ftm (s : State) (pg : Nat) : (sendMsi s pg).ftm = s.ftm := by
  simp only [sendMsi]; split
  · rfl
  · exact Eq.trans rfl rfl
@[simp] theorem sendMsi_rng (s : State) (pg : Nat) : (sendMsi s pg).rng = s.rng := by
  simp only [sendMsi]; split
  · rfl
  · exact Eq.trans rfl rfl
@[simp] theorem sendMsi_seq (s : State) (pg : Nat) : (sendMsi s pg).seq = s.seq := by
  simp only [sendMsi]; split
  · rfl
  · exact Eq.trans rfl rfl
@[simp] theorem sendMsi_blt (s : State) (pg : Nat) : (sendMsi s pg).blt = s.blt := by
  simp only [sendMsi]; split
  · rfl
  · exact Eq.trans rfl rfl
@[simp] theorem sendMsi_prt (s : State) (pg : Nat) : (sendMsi s pg).prt = s.prt := by
  simp only [sendMsi]; split
  · rfl
  · exact Eq.trans rfl rfl
@[simp] theorem sendMsi_hrt (s : State) (pg : Nat) : (sendMsi s pg).hrt = s.hrt := by
  simp only [sendMsi]; split
  · rfl
  · exact Eq.trans rfl rfl
@[simp] theorem sendMsi_boot (s : State) (pg : Nat) : (sendMsi s pg).boot = s.boot := by
  simp only [sendMsi]; split
  · rfl
  · exact Eq.trans rfl rfl
@[simp] theorem sendMsi_cal (s : State) (pg : Nat) : (sendMsi s pg).cal = s.cal := by
  simp only [sendMsi]; split
  · rfl
  · exact Eq.trans rfl rfl
@[simp] theorem sendMsi_sp (s : State) (pg : Nat) : (sendMsi s pg).sp = s.sp := by
  simp only [sendMsi]; split
  · rfl
  · exact Eq.trans rfl rfl

/-! intSet -/

@[simp] theorem intSet_pending (s : State) (pg b : Nat) : (intSet s pg b).pending = s.pending := by
  simp only [intSet, withIntEdge]; split <;> simp
@[simp] theorem intSet_time (s : State) (pg b : Nat) : (intSet s pg b).time = s.time := by
  simp only [intSet, withIntEdge]; split <;> simp
@[simp] theorem intSet_free (s : State) (pg b : Nat) : (intSet s pg b).free = s.free := by
  simp only [intSet, withIntEdge]; split <;> simp
@[simp] theorem intSet_tl (s : State) (pg b : Nat) : (intSet s pg b).tl = s.tl := by
  simp only [intSet, withIntEdge]; split <;> simp
@[simp] theorem intSet_anv (s : State) (pg b : Nat) : (intSet s pg b).anv = s.anv := by
  simp only [intSet, withIntEdge]; split <;> simp
@[simp] theorem intSet_cln (s : State) (pg b : Nat) : (intSet s pg b).cln = s.cln := by
  simp only [intSet, withIntEdge]; split <;> simp
@[simp] theorem intSet_mgt (s : State) (pg b : Nat) : (intSet s pg b).mgt = s.mgt := by
  simp only [intSet, withIntEdge]; split <;> simp
@[simp] theorem intSet_qch (s : State) (pg b : Nat) : (intSet s pg b).qch = s.qch := by
  simp only [intSet, withIntEdge]; split <;> simp
@[simp] theorem intSet_tmp (s : State) (pg b : Nat) : (intSet s pg b).tmp = s.tmp := by
  simp only [intSet, withIntEdge]; split <;> simp
@[simp] theorem intSet_mem (s : State) (pg b : Nat) : (intSet s pg b).mem = s.mem := by
  simp only [intSet, withIntEdge]; split <;> simp
@[simp] theorem intSet_blw (s : State) (pg b : Nat) : (intSet s pg b).blw = s.blw := by
  simp only [intSet, withIntEdge]; split <;> simp
@[simp] theorem intSet_sth (s : State) (pg b : Nat) : (intSet s pg b).sth = s.sth := by
  simp only [intSet, withIntEdge]; split <;> simp
@[simp] theorem intSet_tng (s : State) (pg b : Nat) : (intSet s pg b).tng = s.tng := by
  simp only [intSet, withIntEdge]; split <;> simp
@[simp] theorem intSet_lnk (s : State) (pg b : Nat) : (intSet s pg b).lnk = s.lnk := by
  simp only [intSet, withIntEdge]; split <;> simp
@[simp] theorem intSet_ftm (s : State) (pg b : Nat) : (intSet s pg b).ftm = s.ftm := by
  simp only [intSet, withIntEdge]; split <;> simp
@[simp] theorem intSet_rng (s : State) (pg b : Nat) : (intSet s pg b).rng = s.rng := by
  simp only [intSet, withIntEdge]; split <;> simp
@[simp] theorem intSet_seq (s : State) (pg b : Nat) : (intSet s pg b).seq = s.seq := by
  simp only [intSet, withIntEdge]; split <;> simp
@[simp] theorem intSet_blt (s : State) (pg b : Nat) : (intSet s pg b).blt = s.blt := by
  simp only [intSet, withIntEdge]; split <;> simp
@[simp] theorem intSet_prt (s : State) (pg b : Nat) : (intSet s pg b).prt = s.prt := by
  simp only [intSet, withIntEdge]; split <;> simp
@[simp] theorem intSet_hrt (s : State) (pg b : Nat) : (intSet s pg b).hrt = s.hrt := by
  simp only [intSet, withIntEdge]; split <;> simp
@[simp] theorem intSet_boot (s : State) (pg b : Nat) : (intSet s pg b).boot = s.boot := by
  simp only [intSet, withIntEdge]; split <;> simp
@[simp] theorem intSet_cal (s : State) (pg b : Nat) : (intSet s pg b).cal = s.cal := by
  simp only [intSet, withIntEdge]; split <;> simp
@[simp] theorem intSet_sp (s : State) (pg b : Nat) : (intSet s pg b).sp = s.sp := by
  simp only [intSet, withIntEdge]; split <;> simp

/-! latchErr -/

@[simp] theorem latchErr_pending (s : State) (pg c l a : Nat) : (latchErr s pg c l a).pending = s.pending := by
  simp only [latchErr]; split <;> simp
@[simp] theorem latchErr_time (s : State) (pg c l a : Nat) : (latchErr s pg c l a).time = s.time := by
  simp only [latchErr]; split <;> simp
@[simp] theorem latchErr_free (s : State) (pg c l a : Nat) : (latchErr s pg c l a).free = s.free := by
  simp only [latchErr]; split <;> simp
@[simp] theorem latchErr_tl (s : State) (pg c l a : Nat) : (latchErr s pg c l a).tl = s.tl := by
  simp only [latchErr]; split <;> simp
@[simp] theorem latchErr_anv (s : State) (pg c l a : Nat) : (latchErr s pg c l a).anv = s.anv := by
  simp only [latchErr]; split <;> simp
@[simp] theorem latchErr_cln (s : State) (pg c l a : Nat) : (latchErr s pg c l a).cln = s.cln := by
  simp only [latchErr]; split <;> simp
@[simp] theorem latchErr_mgt (s : State) (pg c l a : Nat) : (latchErr s pg c l a).mgt = s.mgt := by
  simp only [latchErr]; split <;> simp
@[simp] theorem latchErr_qch (s : State) (pg c l a : Nat) : (latchErr s pg c l a).qch = s.qch := by
  simp only [latchErr]; split <;> simp
@[simp] theorem latchErr_tmp (s : State) (pg c l a : Nat) : (latchErr s pg c l a).tmp = s.tmp := by
  simp only [latchErr]; split <;> simp
@[simp] theorem latchErr_mem (s : State) (pg c l a : Nat) : (latchErr s pg c l a).mem = s.mem := by
  simp only [latchErr]; split <;> simp
@[simp] theorem latchErr_blw (s : State) (pg c l a : Nat) : (latchErr s pg c l a).blw = s.blw := by
  simp only [latchErr]; split <;> simp
@[simp] theorem latchErr_sth (s : State) (pg c l a : Nat) : (latchErr s pg c l a).sth = s.sth := by
  simp only [latchErr]; split <;> simp
@[simp] theorem latchErr_tng (s : State) (pg c l a : Nat) : (latchErr s pg c l a).tng = s.tng := by
  simp only [latchErr]; split <;> simp
@[simp] theorem latchErr_lnk (s : State) (pg c l a : Nat) : (latchErr s pg c l a).lnk = s.lnk := by
  simp only [latchErr]; split <;> simp
@[simp] theorem latchErr_ftm (s : State) (pg c l a : Nat) : (latchErr s pg c l a).ftm = s.ftm := by
  simp only [latchErr]; split <;> simp
@[simp] theorem latchErr_rng (s : State) (pg c l a : Nat) : (latchErr s pg c l a).rng = s.rng := by
  simp only [latchErr]; split <;> simp
@[simp] theorem latchErr_seq (s : State) (pg c l a : Nat) : (latchErr s pg c l a).seq = s.seq := by
  simp only [latchErr]; split <;> simp
@[simp] theorem latchErr_blt (s : State) (pg c l a : Nat) : (latchErr s pg c l a).blt = s.blt := by
  simp only [latchErr]; split <;> simp
@[simp] theorem latchErr_prt (s : State) (pg c l a : Nat) : (latchErr s pg c l a).prt = s.prt := by
  simp only [latchErr]; split <;> simp
@[simp] theorem latchErr_hrt (s : State) (pg c l a : Nat) : (latchErr s pg c l a).hrt = s.hrt := by
  simp only [latchErr]; split <;> simp
@[simp] theorem latchErr_boot (s : State) (pg c l a : Nat) : (latchErr s pg c l a).boot = s.boot := by
  simp only [latchErr]; split <;> simp
@[simp] theorem latchErr_cal (s : State) (pg c l a : Nat) : (latchErr s pg c l a).cal = s.cal := by
  simp only [latchErr]; split <;> simp
@[simp] theorem latchErr_sp (s : State) (pg c l a : Nat) : (latchErr s pg c l a).sp = s.sp := by
  simp only [latchErr]; split <;> simp

/-! latchBlk -/

@[simp] theorem latchBlk_pending (s : State) (pg l a : Nat) : (latchBlk s pg l a).pending = s.pending := by
  simp [latchBlk]
@[simp] theorem latchBlk_time (s : State) (pg l a : Nat) : (latchBlk s pg l a).time = s.time := by
  simp [latchBlk]
@[simp] theorem latchBlk_free (s : State) (pg l a : Nat) : (latchBlk s pg l a).free = s.free := by
  simp [latchBlk]
@[simp] theorem latchBlk_tl (s : State) (pg l a : Nat) : (latchBlk s pg l a).tl = s.tl := by
  simp [latchBlk]
@[simp] theorem latchBlk_anv (s : State) (pg l a : Nat) : (latchBlk s pg l a).anv = s.anv := by
  simp [latchBlk]
@[simp] theorem latchBlk_cln (s : State) (pg l a : Nat) : (latchBlk s pg l a).cln = s.cln := by
  simp [latchBlk]
@[simp] theorem latchBlk_mgt (s : State) (pg l a : Nat) : (latchBlk s pg l a).mgt = s.mgt := by
  simp [latchBlk]
@[simp] theorem latchBlk_qch (s : State) (pg l a : Nat) : (latchBlk s pg l a).qch = s.qch := by
  simp [latchBlk]
@[simp] theorem latchBlk_tmp (s : State) (pg l a : Nat) : (latchBlk s pg l a).tmp = s.tmp := by
  simp [latchBlk]
@[simp] theorem latchBlk_mem (s : State) (pg l a : Nat) : (latchBlk s pg l a).mem = s.mem := by
  simp [latchBlk]
@[simp] theorem latchBlk_blw (s : State) (pg l a : Nat) : (latchBlk s pg l a).blw = s.blw := by
  simp [latchBlk]
@[simp] theorem latchBlk_sth (s : State) (pg l a : Nat) : (latchBlk s pg l a).sth = s.sth := by
  simp [latchBlk]
@[simp] theorem latchBlk_tng (s : State) (pg l a : Nat) : (latchBlk s pg l a).tng = s.tng := by
  simp [latchBlk]
@[simp] theorem latchBlk_lnk (s : State) (pg l a : Nat) : (latchBlk s pg l a).lnk = s.lnk := by
  simp [latchBlk]
@[simp] theorem latchBlk_ftm (s : State) (pg l a : Nat) : (latchBlk s pg l a).ftm = s.ftm := by
  simp [latchBlk]
@[simp] theorem latchBlk_rng (s : State) (pg l a : Nat) : (latchBlk s pg l a).rng = s.rng := by
  simp [latchBlk]
@[simp] theorem latchBlk_seq (s : State) (pg l a : Nat) : (latchBlk s pg l a).seq = s.seq := by
  simp [latchBlk]
@[simp] theorem latchBlk_blt (s : State) (pg l a : Nat) : (latchBlk s pg l a).blt = s.blt := by
  simp [latchBlk]
@[simp] theorem latchBlk_prt (s : State) (pg l a : Nat) : (latchBlk s pg l a).prt = s.prt := by
  simp [latchBlk]
@[simp] theorem latchBlk_hrt (s : State) (pg l a : Nat) : (latchBlk s pg l a).hrt = s.hrt := by
  simp [latchBlk]
@[simp] theorem latchBlk_boot (s : State) (pg l a : Nat) : (latchBlk s pg l a).boot = s.boot := by
  simp [latchBlk]
@[simp] theorem latchBlk_cal (s : State) (pg l a : Nat) : (latchBlk s pg l a).cal = s.cal := by
  simp [latchBlk]
@[simp] theorem latchBlk_sp (s : State) (pg l a : Nat) : (latchBlk s pg l a).sp = s.sp := by
  simp [latchBlk]

/-! denyWrite -/

@[simp] theorem denyWrite_pending (s : State) (pg o r : Nat) (w : Requester) : (denyWrite s pg o r w).pending = s.pending := by
  simp [denyWrite]
@[simp] theorem denyWrite_time (s : State) (pg o r : Nat) (w : Requester) : (denyWrite s pg o r w).time = s.time := by
  simp [denyWrite]
@[simp] theorem denyWrite_free (s : State) (pg o r : Nat) (w : Requester) : (denyWrite s pg o r w).free = s.free := by
  simp [denyWrite]
@[simp] theorem denyWrite_tl (s : State) (pg o r : Nat) (w : Requester) : (denyWrite s pg o r w).tl = s.tl := by
  simp [denyWrite]
@[simp] theorem denyWrite_anv (s : State) (pg o r : Nat) (w : Requester) : (denyWrite s pg o r w).anv = s.anv := by
  simp [denyWrite]
@[simp] theorem denyWrite_cln (s : State) (pg o r : Nat) (w : Requester) : (denyWrite s pg o r w).cln = s.cln := by
  simp [denyWrite]
@[simp] theorem denyWrite_mgt (s : State) (pg o r : Nat) (w : Requester) : (denyWrite s pg o r w).mgt = s.mgt := by
  simp [denyWrite]
@[simp] theorem denyWrite_qch (s : State) (pg o r : Nat) (w : Requester) : (denyWrite s pg o r w).qch = s.qch := by
  simp [denyWrite]
@[simp] theorem denyWrite_tmp (s : State) (pg o r : Nat) (w : Requester) : (denyWrite s pg o r w).tmp = s.tmp := by
  simp [denyWrite]
@[simp] theorem denyWrite_mem (s : State) (pg o r : Nat) (w : Requester) : (denyWrite s pg o r w).mem = s.mem := by
  simp [denyWrite]
@[simp] theorem denyWrite_blw (s : State) (pg o r : Nat) (w : Requester) : (denyWrite s pg o r w).blw = s.blw := by
  simp [denyWrite]
@[simp] theorem denyWrite_sth (s : State) (pg o r : Nat) (w : Requester) : (denyWrite s pg o r w).sth = s.sth := by
  simp [denyWrite]
@[simp] theorem denyWrite_tng (s : State) (pg o r : Nat) (w : Requester) : (denyWrite s pg o r w).tng = s.tng := by
  simp [denyWrite]
@[simp] theorem denyWrite_lnk (s : State) (pg o r : Nat) (w : Requester) : (denyWrite s pg o r w).lnk = s.lnk := by
  simp [denyWrite]
@[simp] theorem denyWrite_ftm (s : State) (pg o r : Nat) (w : Requester) : (denyWrite s pg o r w).ftm = s.ftm := by
  simp [denyWrite]
@[simp] theorem denyWrite_rng (s : State) (pg o r : Nat) (w : Requester) : (denyWrite s pg o r w).rng = s.rng := by
  simp [denyWrite]
@[simp] theorem denyWrite_seq (s : State) (pg o r : Nat) (w : Requester) : (denyWrite s pg o r w).seq = s.seq := by
  simp [denyWrite]
@[simp] theorem denyWrite_blt (s : State) (pg o r : Nat) (w : Requester) : (denyWrite s pg o r w).blt = s.blt := by
  simp [denyWrite]
@[simp] theorem denyWrite_prt (s : State) (pg o r : Nat) (w : Requester) : (denyWrite s pg o r w).prt = s.prt := by
  simp [denyWrite]
@[simp] theorem denyWrite_hrt (s : State) (pg o r : Nat) (w : Requester) : (denyWrite s pg o r w).hrt = s.hrt := by
  simp [denyWrite]
@[simp] theorem denyWrite_boot (s : State) (pg o r : Nat) (w : Requester) : (denyWrite s pg o r w).boot = s.boot := by
  simp [denyWrite]
@[simp] theorem denyWrite_cal (s : State) (pg o r : Nat) (w : Requester) : (denyWrite s pg o r w).cal = s.cal := by
  simp [denyWrite]
@[simp] theorem denyWrite_sp (s : State) (pg o r : Nat) (w : Requester) : (denyWrite s pg o r w).sp = s.sp := by
  simp [denyWrite]

/-! wakeSlot -/

@[simp] theorem wakeSlot_pending (s : State) (t x : Nat) : (wakeSlot s t x).pending = s.pending := by
  simp [wakeSlot]
@[simp] theorem wakeSlot_time (s : State) (t x : Nat) : (wakeSlot s t x).time = s.time := by
  simp [wakeSlot]
@[simp] theorem wakeSlot_free (s : State) (t x : Nat) : (wakeSlot s t x).free = s.free := by
  simp [wakeSlot]
@[simp] theorem wakeSlot_win (s : State) (t x : Nat) : (wakeSlot s t x).win = s.win := by
  simp [wakeSlot]
@[simp] theorem wakeSlot_anv (s : State) (t x : Nat) : (wakeSlot s t x).anv = s.anv := by
  simp [wakeSlot]
@[simp] theorem wakeSlot_cln (s : State) (t x : Nat) : (wakeSlot s t x).cln = s.cln := by
  simp [wakeSlot]
@[simp] theorem wakeSlot_mgt (s : State) (t x : Nat) : (wakeSlot s t x).mgt = s.mgt := by
  simp [wakeSlot]
@[simp] theorem wakeSlot_qch (s : State) (t x : Nat) : (wakeSlot s t x).qch = s.qch := by
  simp [wakeSlot]
@[simp] theorem wakeSlot_tmp (s : State) (t x : Nat) : (wakeSlot s t x).tmp = s.tmp := by
  simp [wakeSlot]
@[simp] theorem wakeSlot_mem (s : State) (t x : Nat) : (wakeSlot s t x).mem = s.mem := by
  simp [wakeSlot]
@[simp] theorem wakeSlot_blw (s : State) (t x : Nat) : (wakeSlot s t x).blw = s.blw := by
  simp [wakeSlot]
@[simp] theorem wakeSlot_sth (s : State) (t x : Nat) : (wakeSlot s t x).sth = s.sth := by
  simp [wakeSlot]
@[simp] theorem wakeSlot_tng (s : State) (t x : Nat) : (wakeSlot s t x).tng = s.tng := by
  simp [wakeSlot]
@[simp] theorem wakeSlot_lnk (s : State) (t x : Nat) : (wakeSlot s t x).lnk = s.lnk := by
  simp [wakeSlot]
@[simp] theorem wakeSlot_ftm (s : State) (t x : Nat) : (wakeSlot s t x).ftm = s.ftm := by
  simp [wakeSlot]
@[simp] theorem wakeSlot_rng (s : State) (t x : Nat) : (wakeSlot s t x).rng = s.rng := by
  simp [wakeSlot]
@[simp] theorem wakeSlot_seq (s : State) (t x : Nat) : (wakeSlot s t x).seq = s.seq := by
  simp [wakeSlot]
@[simp] theorem wakeSlot_blt (s : State) (t x : Nat) : (wakeSlot s t x).blt = s.blt := by
  simp [wakeSlot]
@[simp] theorem wakeSlot_prt (s : State) (t x : Nat) : (wakeSlot s t x).prt = s.prt := by
  simp [wakeSlot]
@[simp] theorem wakeSlot_hrt (s : State) (t x : Nat) : (wakeSlot s t x).hrt = s.hrt := by
  simp [wakeSlot]
@[simp] theorem wakeSlot_boot (s : State) (t x : Nat) : (wakeSlot s t x).boot = s.boot := by
  simp [wakeSlot]
@[simp] theorem wakeSlot_cal (s : State) (t x : Nat) : (wakeSlot s t x).cal = s.cal := by
  simp [wakeSlot]
@[simp] theorem wakeSlot_sp (s : State) (t x : Nat) : (wakeSlot s t x).sp = s.sp := by
  simp [wakeSlot]
@[simp] theorem wakeSlot_tl_xr (s : State) (t x : Nat) : (wakeSlot s t x).tl.xr = s.tl.xr := by
  simp [wakeSlot]
@[simp] theorem wakeSlot_tl_pr (s : State) (t x : Nat) : (wakeSlot s t x).tl.pr = s.tl.pr := by
  simp [wakeSlot]
@[simp] theorem wakeSlot_tl_pend (s : State) (t x : Nat) : (wakeSlot s t x).tl.pend = s.tl.pend := by
  simp [wakeSlot]
@[simp] theorem wakeSlot_tl_spad (s : State) (t x : Nat) : (wakeSlot s t x).tl.spad = s.tl.spad := by
  simp [wakeSlot]
@[simp] theorem wakeSlot_tl_tags (s : State) (t x : Nat) : (wakeSlot s t x).tl.tags = s.tl.tags := by
  simp [wakeSlot]
@[simp] theorem wakeSlot_tl_claims (s : State) (t x : Nat) : (wakeSlot s t x).tl.claims = s.tl.claims := by
  simp [wakeSlot]
@[simp] theorem wakeSlot_tl_tasks (s : State) (t x : Nat) : (wakeSlot s t x).tl.tasks = s.tl.tasks := by
  simp [wakeSlot]
@[simp] theorem wakeSlot_tl_barriers (s : State) (t x : Nat) : (wakeSlot s t x).tl.barriers = s.tl.barriers := by
  simp [wakeSlot]

/-! leaveFull -/

@[simp] theorem leaveFull_pending (s : State) (t x : Nat) : (leaveFull s t x).pending = s.pending := by
  exact Eq.trans rfl rfl
@[simp] theorem leaveFull_time (s : State) (t x : Nat) : (leaveFull s t x).time = s.time := by
  exact Eq.trans rfl rfl
@[simp] theorem leaveFull_free (s : State) (t x : Nat) : (leaveFull s t x).free = s.free := by
  exact Eq.trans rfl rfl
@[simp] theorem leaveFull_win (s : State) (t x : Nat) : (leaveFull s t x).win = s.win := by
  exact Eq.trans rfl rfl
@[simp] theorem leaveFull_tl (s : State) (t x : Nat) : (leaveFull s t x).tl = s.tl := by
  exact Eq.trans rfl rfl
@[simp] theorem leaveFull_anv (s : State) (t x : Nat) : (leaveFull s t x).anv = s.anv := by
  exact Eq.trans rfl rfl
@[simp] theorem leaveFull_cln (s : State) (t x : Nat) : (leaveFull s t x).cln = s.cln := by
  exact Eq.trans rfl rfl
@[simp] theorem leaveFull_mgt (s : State) (t x : Nat) : (leaveFull s t x).mgt = s.mgt := by
  exact Eq.trans rfl rfl
@[simp] theorem leaveFull_qch (s : State) (t x : Nat) : (leaveFull s t x).qch = s.qch := by
  exact Eq.trans rfl rfl
@[simp] theorem leaveFull_tmp (s : State) (t x : Nat) : (leaveFull s t x).tmp = s.tmp := by
  exact Eq.trans rfl rfl
@[simp] theorem leaveFull_mem (s : State) (t x : Nat) : (leaveFull s t x).mem = s.mem := by
  exact Eq.trans rfl rfl
@[simp] theorem leaveFull_sth (s : State) (t x : Nat) : (leaveFull s t x).sth = s.sth := by
  exact Eq.trans rfl rfl
@[simp] theorem leaveFull_tng (s : State) (t x : Nat) : (leaveFull s t x).tng = s.tng := by
  exact Eq.trans rfl rfl
@[simp] theorem leaveFull_lnk (s : State) (t x : Nat) : (leaveFull s t x).lnk = s.lnk := by
  exact Eq.trans rfl rfl
@[simp] theorem leaveFull_ftm (s : State) (t x : Nat) : (leaveFull s t x).ftm = s.ftm := by
  exact Eq.trans rfl rfl
@[simp] theorem leaveFull_rng (s : State) (t x : Nat) : (leaveFull s t x).rng = s.rng := by
  exact Eq.trans rfl rfl
@[simp] theorem leaveFull_seq (s : State) (t x : Nat) : (leaveFull s t x).seq = s.seq := by
  exact Eq.trans rfl rfl
@[simp] theorem leaveFull_blt (s : State) (t x : Nat) : (leaveFull s t x).blt = s.blt := by
  exact Eq.trans rfl rfl
@[simp] theorem leaveFull_prt (s : State) (t x : Nat) : (leaveFull s t x).prt = s.prt := by
  exact Eq.trans rfl rfl
@[simp] theorem leaveFull_hrt (s : State) (t x : Nat) : (leaveFull s t x).hrt = s.hrt := by
  exact Eq.trans rfl rfl
@[simp] theorem leaveFull_boot (s : State) (t x : Nat) : (leaveFull s t x).boot = s.boot := by
  exact Eq.trans rfl rfl
@[simp] theorem leaveFull_cal (s : State) (t x : Nat) : (leaveFull s t x).cal = s.cal := by
  exact Eq.trans rfl rfl
@[simp] theorem leaveFull_sp (s : State) (t x : Nat) : (leaveFull s t x).sp = s.sp := by
  exact Eq.trans rfl rfl

/-! setTagRaw -/

@[simp] theorem setTagRaw_pending (s : State) (t x : Nat) (g : Tag) : (setTagRaw s t x g).pending = s.pending := by
  simp only [setTagRaw]; repeat' split
  all_goals simp
@[simp] theorem setTagRaw_time (s : State) (t x : Nat) (g : Tag) : (setTagRaw s t x g).time = s.time := by
  simp only [setTagRaw]; repeat' split
  all_goals simp
@[simp] theorem setTagRaw_free (s : State) (t x : Nat) (g : Tag) : (setTagRaw s t x g).free = s.free := by
  simp only [setTagRaw]; repeat' split
  all_goals simp
@[simp] theorem setTagRaw_anv (s : State) (t x : Nat) (g : Tag) : (setTagRaw s t x g).anv = s.anv := by
  simp only [setTagRaw]; repeat' split
  all_goals simp
@[simp] theorem setTagRaw_cln (s : State) (t x : Nat) (g : Tag) : (setTagRaw s t x g).cln = s.cln := by
  simp only [setTagRaw]; repeat' split
  all_goals simp
@[simp] theorem setTagRaw_mgt (s : State) (t x : Nat) (g : Tag) : (setTagRaw s t x g).mgt = s.mgt := by
  simp only [setTagRaw]; repeat' split
  all_goals simp
@[simp] theorem setTagRaw_qch (s : State) (t x : Nat) (g : Tag) : (setTagRaw s t x g).qch = s.qch := by
  simp only [setTagRaw]; repeat' split
  all_goals simp
@[simp] theorem setTagRaw_tmp (s : State) (t x : Nat) (g : Tag) : (setTagRaw s t x g).tmp = s.tmp := by
  simp only [setTagRaw]; repeat' split
  all_goals simp
@[simp] theorem setTagRaw_mem (s : State) (t x : Nat) (g : Tag) : (setTagRaw s t x g).mem = s.mem := by
  simp only [setTagRaw]; repeat' split
  all_goals simp
@[simp] theorem setTagRaw_sth (s : State) (t x : Nat) (g : Tag) : (setTagRaw s t x g).sth = s.sth := by
  simp only [setTagRaw]; repeat' split
  all_goals simp
@[simp] theorem setTagRaw_tng (s : State) (t x : Nat) (g : Tag) : (setTagRaw s t x g).tng = s.tng := by
  simp only [setTagRaw]; repeat' split
  all_goals simp
@[simp] theorem setTagRaw_lnk (s : State) (t x : Nat) (g : Tag) : (setTagRaw s t x g).lnk = s.lnk := by
  simp only [setTagRaw]; repeat' split
  all_goals simp
@[simp] theorem setTagRaw_ftm (s : State) (t x : Nat) (g : Tag) : (setTagRaw s t x g).ftm = s.ftm := by
  simp only [setTagRaw]; repeat' split
  all_goals simp
@[simp] theorem setTagRaw_rng (s : State) (t x : Nat) (g : Tag) : (setTagRaw s t x g).rng = s.rng := by
  simp only [setTagRaw]; repeat' split
  all_goals simp
@[simp] theorem setTagRaw_seq (s : State) (t x : Nat) (g : Tag) : (setTagRaw s t x g).seq = s.seq := by
  simp only [setTagRaw]; repeat' split
  all_goals simp
@[simp] theorem setTagRaw_blt (s : State) (t x : Nat) (g : Tag) : (setTagRaw s t x g).blt = s.blt := by
  simp only [setTagRaw]; repeat' split
  all_goals simp
@[simp] theorem setTagRaw_prt (s : State) (t x : Nat) (g : Tag) : (setTagRaw s t x g).prt = s.prt := by
  simp only [setTagRaw]; repeat' split
  all_goals simp
@[simp] theorem setTagRaw_hrt (s : State) (t x : Nat) (g : Tag) : (setTagRaw s t x g).hrt = s.hrt := by
  simp only [setTagRaw]; repeat' split
  all_goals simp
@[simp] theorem setTagRaw_boot (s : State) (t x : Nat) (g : Tag) : (setTagRaw s t x g).boot = s.boot := by
  simp only [setTagRaw]; repeat' split
  all_goals simp
@[simp] theorem setTagRaw_cal (s : State) (t x : Nat) (g : Tag) : (setTagRaw s t x g).cal = s.cal := by
  simp only [setTagRaw]; repeat' split
  all_goals simp
@[simp] theorem setTagRaw_sp (s : State) (t x : Nat) (g : Tag) : (setTagRaw s t x g).sp = s.sp := by
  simp only [setTagRaw]; repeat' split
  all_goals simp
@[simp] theorem setTagRaw_tl_thr (s : State) (t x : Nat) (g : Tag) : (setTagRaw s t x g).tl.thr = s.tl.thr := by
  simp only [setTagRaw]; repeat' split
  all_goals simp
@[simp] theorem setTagRaw_tl_xr (s : State) (t x : Nat) (g : Tag) : (setTagRaw s t x g).tl.xr = s.tl.xr := by
  simp only [setTagRaw]; repeat' split
  all_goals simp
@[simp] theorem setTagRaw_tl_pr (s : State) (t x : Nat) (g : Tag) : (setTagRaw s t x g).tl.pr = s.tl.pr := by
  simp only [setTagRaw]; repeat' split
  all_goals simp
@[simp] theorem setTagRaw_tl_pend (s : State) (t x : Nat) (g : Tag) : (setTagRaw s t x g).tl.pend = s.tl.pend := by
  simp only [setTagRaw]; repeat' split
  all_goals simp
@[simp] theorem setTagRaw_tl_spad (s : State) (t x : Nat) (g : Tag) : (setTagRaw s t x g).tl.spad = s.tl.spad := by
  simp only [setTagRaw]; repeat' split
  all_goals simp
@[simp] theorem setTagRaw_tl_claims (s : State) (t x : Nat) (g : Tag) : (setTagRaw s t x g).tl.claims = s.tl.claims := by
  simp only [setTagRaw]; repeat' split
  all_goals simp
@[simp] theorem setTagRaw_tl_tasks (s : State) (t x : Nat) (g : Tag) : (setTagRaw s t x g).tl.tasks = s.tl.tasks := by
  simp only [setTagRaw]; repeat' split
  all_goals simp
@[simp] theorem setTagRaw_tl_barriers (s : State) (t x : Nat) (g : Tag) : (setTagRaw s t x g).tl.barriers = s.tl.barriers := by
  simp only [setTagRaw]; repeat' split
  all_goals simp

/-! setTag -/

@[simp] theorem setTag_pending (s : State) (t : Nat) (k : Option (Fin 4)) (x : Nat) (g : Tag) : (setTag s t k x g).pending = s.pending := by
  simp [setTag]
@[simp] theorem setTag_time (s : State) (t : Nat) (k : Option (Fin 4)) (x : Nat) (g : Tag) : (setTag s t k x g).time = s.time := by
  simp [setTag]
@[simp] theorem setTag_free (s : State) (t : Nat) (k : Option (Fin 4)) (x : Nat) (g : Tag) : (setTag s t k x g).free = s.free := by
  simp [setTag]
@[simp] theorem setTag_anv (s : State) (t : Nat) (k : Option (Fin 4)) (x : Nat) (g : Tag) : (setTag s t k x g).anv = s.anv := by
  simp [setTag]
@[simp] theorem setTag_cln (s : State) (t : Nat) (k : Option (Fin 4)) (x : Nat) (g : Tag) : (setTag s t k x g).cln = s.cln := by
  simp [setTag]
@[simp] theorem setTag_mgt (s : State) (t : Nat) (k : Option (Fin 4)) (x : Nat) (g : Tag) : (setTag s t k x g).mgt = s.mgt := by
  simp [setTag]
@[simp] theorem setTag_qch (s : State) (t : Nat) (k : Option (Fin 4)) (x : Nat) (g : Tag) : (setTag s t k x g).qch = s.qch := by
  simp [setTag]
@[simp] theorem setTag_tmp (s : State) (t : Nat) (k : Option (Fin 4)) (x : Nat) (g : Tag) : (setTag s t k x g).tmp = s.tmp := by
  simp [setTag]
@[simp] theorem setTag_mem (s : State) (t : Nat) (k : Option (Fin 4)) (x : Nat) (g : Tag) : (setTag s t k x g).mem = s.mem := by
  simp [setTag]
@[simp] theorem setTag_sth (s : State) (t : Nat) (k : Option (Fin 4)) (x : Nat) (g : Tag) : (setTag s t k x g).sth = s.sth := by
  simp [setTag]
@[simp] theorem setTag_tng (s : State) (t : Nat) (k : Option (Fin 4)) (x : Nat) (g : Tag) : (setTag s t k x g).tng = s.tng := by
  simp [setTag]
@[simp] theorem setTag_lnk (s : State) (t : Nat) (k : Option (Fin 4)) (x : Nat) (g : Tag) : (setTag s t k x g).lnk = s.lnk := by
  simp [setTag]
@[simp] theorem setTag_ftm (s : State) (t : Nat) (k : Option (Fin 4)) (x : Nat) (g : Tag) : (setTag s t k x g).ftm = s.ftm := by
  simp [setTag]
@[simp] theorem setTag_rng (s : State) (t : Nat) (k : Option (Fin 4)) (x : Nat) (g : Tag) : (setTag s t k x g).rng = s.rng := by
  simp [setTag]
@[simp] theorem setTag_seq (s : State) (t : Nat) (k : Option (Fin 4)) (x : Nat) (g : Tag) : (setTag s t k x g).seq = s.seq := by
  simp [setTag]
@[simp] theorem setTag_blt (s : State) (t : Nat) (k : Option (Fin 4)) (x : Nat) (g : Tag) : (setTag s t k x g).blt = s.blt := by
  simp [setTag]
@[simp] theorem setTag_prt (s : State) (t : Nat) (k : Option (Fin 4)) (x : Nat) (g : Tag) : (setTag s t k x g).prt = s.prt := by
  simp [setTag]
@[simp] theorem setTag_hrt (s : State) (t : Nat) (k : Option (Fin 4)) (x : Nat) (g : Tag) : (setTag s t k x g).hrt = s.hrt := by
  simp [setTag]
@[simp] theorem setTag_boot (s : State) (t : Nat) (k : Option (Fin 4)) (x : Nat) (g : Tag) : (setTag s t k x g).boot = s.boot := by
  simp [setTag]
@[simp] theorem setTag_cal (s : State) (t : Nat) (k : Option (Fin 4)) (x : Nat) (g : Tag) : (setTag s t k x g).cal = s.cal := by
  simp [setTag]
@[simp] theorem setTag_sp (s : State) (t : Nat) (k : Option (Fin 4)) (x : Nat) (g : Tag) : (setTag s t k x g).sp = s.sp := by
  simp [setTag]
@[simp] theorem setTag_tl_xr (s : State) (t : Nat) (k : Option (Fin 4)) (x : Nat) (g : Tag) : (setTag s t k x g).tl.xr = s.tl.xr := by
  simp [setTag]
@[simp] theorem setTag_tl_pr (s : State) (t : Nat) (k : Option (Fin 4)) (x : Nat) (g : Tag) : (setTag s t k x g).tl.pr = s.tl.pr := by
  simp [setTag]
@[simp] theorem setTag_tl_pend (s : State) (t : Nat) (k : Option (Fin 4)) (x : Nat) (g : Tag) : (setTag s t k x g).tl.pend = s.tl.pend := by
  simp [setTag]
@[simp] theorem setTag_tl_spad (s : State) (t : Nat) (k : Option (Fin 4)) (x : Nat) (g : Tag) : (setTag s t k x g).tl.spad = s.tl.spad := by
  simp [setTag]
@[simp] theorem setTag_tl_claims (s : State) (t : Nat) (k : Option (Fin 4)) (x : Nat) (g : Tag) : (setTag s t k x g).tl.claims = s.tl.claims := by
  simp [setTag]
@[simp] theorem setTag_tl_tasks (s : State) (t : Nat) (k : Option (Fin 4)) (x : Nat) (g : Tag) : (setTag s t k x g).tl.tasks = s.tl.tasks := by
  simp [setTag]
@[simp] theorem setTag_tl_barriers (s : State) (t : Nat) (k : Option (Fin 4)) (x : Nat) (g : Tag) : (setTag s t k x g).tl.barriers = s.tl.barriers := by
  simp [setTag]

/-! pokeByte -/

@[simp] theorem pokeByte_pending (s : State) (t : Nat) (k : Option (Fin 4)) (a : Nat) (b : Byte) : (pokeByte s t k a b).pending = s.pending := by
  simp only [pokeByte]; split <;> simp
@[simp] theorem pokeByte_time (s : State) (t : Nat) (k : Option (Fin 4)) (a : Nat) (b : Byte) : (pokeByte s t k a b).time = s.time := by
  simp only [pokeByte]; split <;> simp
@[simp] theorem pokeByte_free (s : State) (t : Nat) (k : Option (Fin 4)) (a : Nat) (b : Byte) : (pokeByte s t k a b).free = s.free := by
  simp only [pokeByte]; split <;> simp
@[simp] theorem pokeByte_win (s : State) (t : Nat) (k : Option (Fin 4)) (a : Nat) (b : Byte) : (pokeByte s t k a b).win = s.win := by
  simp only [pokeByte]; split <;> simp
@[simp] theorem pokeByte_anv (s : State) (t : Nat) (k : Option (Fin 4)) (a : Nat) (b : Byte) : (pokeByte s t k a b).anv = s.anv := by
  simp only [pokeByte]; split <;> simp
@[simp] theorem pokeByte_cln (s : State) (t : Nat) (k : Option (Fin 4)) (a : Nat) (b : Byte) : (pokeByte s t k a b).cln = s.cln := by
  simp only [pokeByte]; split <;> simp
@[simp] theorem pokeByte_mgt (s : State) (t : Nat) (k : Option (Fin 4)) (a : Nat) (b : Byte) : (pokeByte s t k a b).mgt = s.mgt := by
  simp only [pokeByte]; split <;> simp
@[simp] theorem pokeByte_qch (s : State) (t : Nat) (k : Option (Fin 4)) (a : Nat) (b : Byte) : (pokeByte s t k a b).qch = s.qch := by
  simp only [pokeByte]; split <;> simp
@[simp] theorem pokeByte_tmp (s : State) (t : Nat) (k : Option (Fin 4)) (a : Nat) (b : Byte) : (pokeByte s t k a b).tmp = s.tmp := by
  simp only [pokeByte]; split <;> simp
@[simp] theorem pokeByte_mem (s : State) (t : Nat) (k : Option (Fin 4)) (a : Nat) (b : Byte) : (pokeByte s t k a b).mem = s.mem := by
  simp only [pokeByte]; split <;> simp
@[simp] theorem pokeByte_blw (s : State) (t : Nat) (k : Option (Fin 4)) (a : Nat) (b : Byte) : (pokeByte s t k a b).blw = s.blw := by
  simp only [pokeByte]; split <;> simp
@[simp] theorem pokeByte_sth (s : State) (t : Nat) (k : Option (Fin 4)) (a : Nat) (b : Byte) : (pokeByte s t k a b).sth = s.sth := by
  simp only [pokeByte]; split <;> simp
@[simp] theorem pokeByte_tng (s : State) (t : Nat) (k : Option (Fin 4)) (a : Nat) (b : Byte) : (pokeByte s t k a b).tng = s.tng := by
  simp only [pokeByte]; split <;> simp
@[simp] theorem pokeByte_lnk (s : State) (t : Nat) (k : Option (Fin 4)) (a : Nat) (b : Byte) : (pokeByte s t k a b).lnk = s.lnk := by
  simp only [pokeByte]; split <;> simp
@[simp] theorem pokeByte_ftm (s : State) (t : Nat) (k : Option (Fin 4)) (a : Nat) (b : Byte) : (pokeByte s t k a b).ftm = s.ftm := by
  simp only [pokeByte]; split <;> simp
@[simp] theorem pokeByte_rng (s : State) (t : Nat) (k : Option (Fin 4)) (a : Nat) (b : Byte) : (pokeByte s t k a b).rng = s.rng := by
  simp only [pokeByte]; split <;> simp
@[simp] theorem pokeByte_seq (s : State) (t : Nat) (k : Option (Fin 4)) (a : Nat) (b : Byte) : (pokeByte s t k a b).seq = s.seq := by
  simp only [pokeByte]; split <;> simp
@[simp] theorem pokeByte_blt (s : State) (t : Nat) (k : Option (Fin 4)) (a : Nat) (b : Byte) : (pokeByte s t k a b).blt = s.blt := by
  simp only [pokeByte]; split <;> simp
@[simp] theorem pokeByte_prt (s : State) (t : Nat) (k : Option (Fin 4)) (a : Nat) (b : Byte) : (pokeByte s t k a b).prt = s.prt := by
  simp only [pokeByte]; split <;> simp
@[simp] theorem pokeByte_hrt (s : State) (t : Nat) (k : Option (Fin 4)) (a : Nat) (b : Byte) : (pokeByte s t k a b).hrt = s.hrt := by
  simp only [pokeByte]; split <;> simp
@[simp] theorem pokeByte_boot (s : State) (t : Nat) (k : Option (Fin 4)) (a : Nat) (b : Byte) : (pokeByte s t k a b).boot = s.boot := by
  simp only [pokeByte]; split <;> simp
@[simp] theorem pokeByte_cal (s : State) (t : Nat) (k : Option (Fin 4)) (a : Nat) (b : Byte) : (pokeByte s t k a b).cal = s.cal := by
  simp only [pokeByte]; split <;> simp
@[simp] theorem pokeByte_sp (s : State) (t : Nat) (k : Option (Fin 4)) (a : Nat) (b : Byte) : (pokeByte s t k a b).sp = s.sp := by
  simp only [pokeByte]; split <;> simp
@[simp] theorem pokeByte_tl_thr (s : State) (t : Nat) (k : Option (Fin 4)) (a : Nat) (b : Byte) : (pokeByte s t k a b).tl.thr = s.tl.thr := by
  simp only [pokeByte]; split <;> simp
@[simp] theorem pokeByte_tl_xr (s : State) (t : Nat) (k : Option (Fin 4)) (a : Nat) (b : Byte) : (pokeByte s t k a b).tl.xr = s.tl.xr := by
  simp only [pokeByte]; split <;> simp
@[simp] theorem pokeByte_tl_pr (s : State) (t : Nat) (k : Option (Fin 4)) (a : Nat) (b : Byte) : (pokeByte s t k a b).tl.pr = s.tl.pr := by
  simp only [pokeByte]; split <;> simp
@[simp] theorem pokeByte_tl_pend (s : State) (t : Nat) (k : Option (Fin 4)) (a : Nat) (b : Byte) : (pokeByte s t k a b).tl.pend = s.tl.pend := by
  simp only [pokeByte]; split <;> simp
@[simp] theorem pokeByte_tl_tags (s : State) (t : Nat) (k : Option (Fin 4)) (a : Nat) (b : Byte) : (pokeByte s t k a b).tl.tags = s.tl.tags := by
  simp only [pokeByte]; split <;> simp
@[simp] theorem pokeByte_tl_claims (s : State) (t : Nat) (k : Option (Fin 4)) (a : Nat) (b : Byte) : (pokeByte s t k a b).tl.claims = s.tl.claims := by
  simp only [pokeByte]; split <;> simp
@[simp] theorem pokeByte_tl_tasks (s : State) (t : Nat) (k : Option (Fin 4)) (a : Nat) (b : Byte) : (pokeByte s t k a b).tl.tasks = s.tl.tasks := by
  simp only [pokeByte]; split <;> simp
@[simp] theorem pokeByte_tl_barriers (s : State) (t : Nat) (k : Option (Fin 4)) (a : Nat) (b : Byte) : (pokeByte s t k a b).tl.barriers = s.tl.barriers := by
  simp only [pokeByte]; split <;> simp

/-! pokeAll -/

@[simp] theorem pokeAll_pending (s : State) (t : Nat) (k : Option (Fin 4)) (a : Nat) (bs : List Byte) : (pokeAll s t k a bs).pending = s.pending := by
  induction bs generalizing s a with
  | nil => rfl
  | cons b bs ih => simp [pokeAll, ih]
@[simp] theorem pokeAll_time (s : State) (t : Nat) (k : Option (Fin 4)) (a : Nat) (bs : List Byte) : (pokeAll s t k a bs).time = s.time := by
  induction bs generalizing s a with
  | nil => rfl
  | cons b bs ih => simp [pokeAll, ih]
@[simp] theorem pokeAll_free (s : State) (t : Nat) (k : Option (Fin 4)) (a : Nat) (bs : List Byte) : (pokeAll s t k a bs).free = s.free := by
  induction bs generalizing s a with
  | nil => rfl
  | cons b bs ih => simp [pokeAll, ih]
@[simp] theorem pokeAll_win (s : State) (t : Nat) (k : Option (Fin 4)) (a : Nat) (bs : List Byte) : (pokeAll s t k a bs).win = s.win := by
  induction bs generalizing s a with
  | nil => rfl
  | cons b bs ih => simp [pokeAll, ih]
@[simp] theorem pokeAll_anv (s : State) (t : Nat) (k : Option (Fin 4)) (a : Nat) (bs : List Byte) : (pokeAll s t k a bs).anv = s.anv := by
  induction bs generalizing s a with
  | nil => rfl
  | cons b bs ih => simp [pokeAll, ih]
@[simp] theorem pokeAll_cln (s : State) (t : Nat) (k : Option (Fin 4)) (a : Nat) (bs : List Byte) : (pokeAll s t k a bs).cln = s.cln := by
  induction bs generalizing s a with
  | nil => rfl
  | cons b bs ih => simp [pokeAll, ih]
@[simp] theorem pokeAll_mgt (s : State) (t : Nat) (k : Option (Fin 4)) (a : Nat) (bs : List Byte) : (pokeAll s t k a bs).mgt = s.mgt := by
  induction bs generalizing s a with
  | nil => rfl
  | cons b bs ih => simp [pokeAll, ih]
@[simp] theorem pokeAll_qch (s : State) (t : Nat) (k : Option (Fin 4)) (a : Nat) (bs : List Byte) : (pokeAll s t k a bs).qch = s.qch := by
  induction bs generalizing s a with
  | nil => rfl
  | cons b bs ih => simp [pokeAll, ih]
@[simp] theorem pokeAll_tmp (s : State) (t : Nat) (k : Option (Fin 4)) (a : Nat) (bs : List Byte) : (pokeAll s t k a bs).tmp = s.tmp := by
  induction bs generalizing s a with
  | nil => rfl
  | cons b bs ih => simp [pokeAll, ih]
@[simp] theorem pokeAll_mem (s : State) (t : Nat) (k : Option (Fin 4)) (a : Nat) (bs : List Byte) : (pokeAll s t k a bs).mem = s.mem := by
  induction bs generalizing s a with
  | nil => rfl
  | cons b bs ih => simp [pokeAll, ih]
@[simp] theorem pokeAll_blw (s : State) (t : Nat) (k : Option (Fin 4)) (a : Nat) (bs : List Byte) : (pokeAll s t k a bs).blw = s.blw := by
  induction bs generalizing s a with
  | nil => rfl
  | cons b bs ih => simp [pokeAll, ih]
@[simp] theorem pokeAll_sth (s : State) (t : Nat) (k : Option (Fin 4)) (a : Nat) (bs : List Byte) : (pokeAll s t k a bs).sth = s.sth := by
  induction bs generalizing s a with
  | nil => rfl
  | cons b bs ih => simp [pokeAll, ih]
@[simp] theorem pokeAll_tng (s : State) (t : Nat) (k : Option (Fin 4)) (a : Nat) (bs : List Byte) : (pokeAll s t k a bs).tng = s.tng := by
  induction bs generalizing s a with
  | nil => rfl
  | cons b bs ih => simp [pokeAll, ih]
@[simp] theorem pokeAll_lnk (s : State) (t : Nat) (k : Option (Fin 4)) (a : Nat) (bs : List Byte) : (pokeAll s t k a bs).lnk = s.lnk := by
  induction bs generalizing s a with
  | nil => rfl
  | cons b bs ih => simp [pokeAll, ih]
@[simp] theorem pokeAll_ftm (s : State) (t : Nat) (k : Option (Fin 4)) (a : Nat) (bs : List Byte) : (pokeAll s t k a bs).ftm = s.ftm := by
  induction bs generalizing s a with
  | nil => rfl
  | cons b bs ih => simp [pokeAll, ih]
@[simp] theorem pokeAll_rng (s : State) (t : Nat) (k : Option (Fin 4)) (a : Nat) (bs : List Byte) : (pokeAll s t k a bs).rng = s.rng := by
  induction bs generalizing s a with
  | nil => rfl
  | cons b bs ih => simp [pokeAll, ih]
@[simp] theorem pokeAll_seq (s : State) (t : Nat) (k : Option (Fin 4)) (a : Nat) (bs : List Byte) : (pokeAll s t k a bs).seq = s.seq := by
  induction bs generalizing s a with
  | nil => rfl
  | cons b bs ih => simp [pokeAll, ih]
@[simp] theorem pokeAll_blt (s : State) (t : Nat) (k : Option (Fin 4)) (a : Nat) (bs : List Byte) : (pokeAll s t k a bs).blt = s.blt := by
  induction bs generalizing s a with
  | nil => rfl
  | cons b bs ih => simp [pokeAll, ih]
@[simp] theorem pokeAll_prt (s : State) (t : Nat) (k : Option (Fin 4)) (a : Nat) (bs : List Byte) : (pokeAll s t k a bs).prt = s.prt := by
  induction bs generalizing s a with
  | nil => rfl
  | cons b bs ih => simp [pokeAll, ih]
@[simp] theorem pokeAll_hrt (s : State) (t : Nat) (k : Option (Fin 4)) (a : Nat) (bs : List Byte) : (pokeAll s t k a bs).hrt = s.hrt := by
  induction bs generalizing s a with
  | nil => rfl
  | cons b bs ih => simp [pokeAll, ih]
@[simp] theorem pokeAll_boot (s : State) (t : Nat) (k : Option (Fin 4)) (a : Nat) (bs : List Byte) : (pokeAll s t k a bs).boot = s.boot := by
  induction bs generalizing s a with
  | nil => rfl
  | cons b bs ih => simp [pokeAll, ih]
@[simp] theorem pokeAll_cal (s : State) (t : Nat) (k : Option (Fin 4)) (a : Nat) (bs : List Byte) : (pokeAll s t k a bs).cal = s.cal := by
  induction bs generalizing s a with
  | nil => rfl
  | cons b bs ih => simp [pokeAll, ih]
@[simp] theorem pokeAll_sp (s : State) (t : Nat) (k : Option (Fin 4)) (a : Nat) (bs : List Byte) : (pokeAll s t k a bs).sp = s.sp := by
  induction bs generalizing s a with
  | nil => rfl
  | cons b bs ih => simp [pokeAll, ih]
@[simp] theorem pokeAll_tl_thr (s : State) (t : Nat) (k : Option (Fin 4)) (a : Nat) (bs : List Byte) : (pokeAll s t k a bs).tl.thr = s.tl.thr := by
  induction bs generalizing s a with
  | nil => rfl
  | cons b bs ih => simp [pokeAll, ih]
@[simp] theorem pokeAll_tl_xr (s : State) (t : Nat) (k : Option (Fin 4)) (a : Nat) (bs : List Byte) : (pokeAll s t k a bs).tl.xr = s.tl.xr := by
  induction bs generalizing s a with
  | nil => rfl
  | cons b bs ih => simp [pokeAll, ih]
@[simp] theorem pokeAll_tl_pr (s : State) (t : Nat) (k : Option (Fin 4)) (a : Nat) (bs : List Byte) : (pokeAll s t k a bs).tl.pr = s.tl.pr := by
  induction bs generalizing s a with
  | nil => rfl
  | cons b bs ih => simp [pokeAll, ih]
@[simp] theorem pokeAll_tl_pend (s : State) (t : Nat) (k : Option (Fin 4)) (a : Nat) (bs : List Byte) : (pokeAll s t k a bs).tl.pend = s.tl.pend := by
  induction bs generalizing s a with
  | nil => rfl
  | cons b bs ih => simp [pokeAll, ih]
@[simp] theorem pokeAll_tl_tags (s : State) (t : Nat) (k : Option (Fin 4)) (a : Nat) (bs : List Byte) : (pokeAll s t k a bs).tl.tags = s.tl.tags := by
  induction bs generalizing s a with
  | nil => rfl
  | cons b bs ih => simp [pokeAll, ih]
@[simp] theorem pokeAll_tl_claims (s : State) (t : Nat) (k : Option (Fin 4)) (a : Nat) (bs : List Byte) : (pokeAll s t k a bs).tl.claims = s.tl.claims := by
  induction bs generalizing s a with
  | nil => rfl
  | cons b bs ih => simp [pokeAll, ih]
@[simp] theorem pokeAll_tl_tasks (s : State) (t : Nat) (k : Option (Fin 4)) (a : Nat) (bs : List Byte) : (pokeAll s t k a bs).tl.tasks = s.tl.tasks := by
  induction bs generalizing s a with
  | nil => rfl
  | cons b bs ih => simp [pokeAll, ih]
@[simp] theorem pokeAll_tl_barriers (s : State) (t : Nat) (k : Option (Fin 4)) (a : Nat) (bs : List Byte) : (pokeAll s t k a bs).tl.barriers = s.tl.barriers := by
  induction bs generalizing s a with
  | nil => rfl
  | cons b bs ih => simp [pokeAll, ih]

/-! pokeBytes -/

@[simp] theorem pokeBytes_pending (s : State) (t : Nat) (k : Option (Fin 4)) (a : Nat) (bs : List Byte) : (pokeBytes s t k a bs).pending = s.pending := by
  simp only [pokeBytes]; split <;> simp
@[simp] theorem pokeBytes_time (s : State) (t : Nat) (k : Option (Fin 4)) (a : Nat) (bs : List Byte) : (pokeBytes s t k a bs).time = s.time := by
  simp only [pokeBytes]; split <;> simp
@[simp] theorem pokeBytes_free (s : State) (t : Nat) (k : Option (Fin 4)) (a : Nat) (bs : List Byte) : (pokeBytes s t k a bs).free = s.free := by
  simp only [pokeBytes]; split <;> simp
@[simp] theorem pokeBytes_anv (s : State) (t : Nat) (k : Option (Fin 4)) (a : Nat) (bs : List Byte) : (pokeBytes s t k a bs).anv = s.anv := by
  simp only [pokeBytes]; split <;> simp
@[simp] theorem pokeBytes_cln (s : State) (t : Nat) (k : Option (Fin 4)) (a : Nat) (bs : List Byte) : (pokeBytes s t k a bs).cln = s.cln := by
  simp only [pokeBytes]; split <;> simp
@[simp] theorem pokeBytes_mgt (s : State) (t : Nat) (k : Option (Fin 4)) (a : Nat) (bs : List Byte) : (pokeBytes s t k a bs).mgt = s.mgt := by
  simp only [pokeBytes]; split <;> simp
@[simp] theorem pokeBytes_qch (s : State) (t : Nat) (k : Option (Fin 4)) (a : Nat) (bs : List Byte) : (pokeBytes s t k a bs).qch = s.qch := by
  simp only [pokeBytes]; split <;> simp
@[simp] theorem pokeBytes_tmp (s : State) (t : Nat) (k : Option (Fin 4)) (a : Nat) (bs : List Byte) : (pokeBytes s t k a bs).tmp = s.tmp := by
  simp only [pokeBytes]; split <;> simp
@[simp] theorem pokeBytes_mem (s : State) (t : Nat) (k : Option (Fin 4)) (a : Nat) (bs : List Byte) : (pokeBytes s t k a bs).mem = s.mem := by
  simp only [pokeBytes]; split <;> simp
@[simp] theorem pokeBytes_blw (s : State) (t : Nat) (k : Option (Fin 4)) (a : Nat) (bs : List Byte) : (pokeBytes s t k a bs).blw = s.blw := by
  simp only [pokeBytes]; split <;> simp
@[simp] theorem pokeBytes_sth (s : State) (t : Nat) (k : Option (Fin 4)) (a : Nat) (bs : List Byte) : (pokeBytes s t k a bs).sth = s.sth := by
  simp only [pokeBytes]; split <;> simp
@[simp] theorem pokeBytes_tng (s : State) (t : Nat) (k : Option (Fin 4)) (a : Nat) (bs : List Byte) : (pokeBytes s t k a bs).tng = s.tng := by
  simp only [pokeBytes]; split <;> simp
@[simp] theorem pokeBytes_lnk (s : State) (t : Nat) (k : Option (Fin 4)) (a : Nat) (bs : List Byte) : (pokeBytes s t k a bs).lnk = s.lnk := by
  simp only [pokeBytes]; split <;> simp
@[simp] theorem pokeBytes_ftm (s : State) (t : Nat) (k : Option (Fin 4)) (a : Nat) (bs : List Byte) : (pokeBytes s t k a bs).ftm = s.ftm := by
  simp only [pokeBytes]; split <;> simp
@[simp] theorem pokeBytes_rng (s : State) (t : Nat) (k : Option (Fin 4)) (a : Nat) (bs : List Byte) : (pokeBytes s t k a bs).rng = s.rng := by
  simp only [pokeBytes]; split <;> simp
@[simp] theorem pokeBytes_seq (s : State) (t : Nat) (k : Option (Fin 4)) (a : Nat) (bs : List Byte) : (pokeBytes s t k a bs).seq = s.seq := by
  simp only [pokeBytes]; split <;> simp
@[simp] theorem pokeBytes_blt (s : State) (t : Nat) (k : Option (Fin 4)) (a : Nat) (bs : List Byte) : (pokeBytes s t k a bs).blt = s.blt := by
  simp only [pokeBytes]; split <;> simp
@[simp] theorem pokeBytes_prt (s : State) (t : Nat) (k : Option (Fin 4)) (a : Nat) (bs : List Byte) : (pokeBytes s t k a bs).prt = s.prt := by
  simp only [pokeBytes]; split <;> simp
@[simp] theorem pokeBytes_hrt (s : State) (t : Nat) (k : Option (Fin 4)) (a : Nat) (bs : List Byte) : (pokeBytes s t k a bs).hrt = s.hrt := by
  simp only [pokeBytes]; split <;> simp
@[simp] theorem pokeBytes_boot (s : State) (t : Nat) (k : Option (Fin 4)) (a : Nat) (bs : List Byte) : (pokeBytes s t k a bs).boot = s.boot := by
  simp only [pokeBytes]; split <;> simp
@[simp] theorem pokeBytes_cal (s : State) (t : Nat) (k : Option (Fin 4)) (a : Nat) (bs : List Byte) : (pokeBytes s t k a bs).cal = s.cal := by
  simp only [pokeBytes]; split <;> simp
@[simp] theorem pokeBytes_sp (s : State) (t : Nat) (k : Option (Fin 4)) (a : Nat) (bs : List Byte) : (pokeBytes s t k a bs).sp = s.sp := by
  simp only [pokeBytes]; split <;> simp
@[simp] theorem pokeBytes_tl_thr (s : State) (t : Nat) (k : Option (Fin 4)) (a : Nat) (bs : List Byte) : (pokeBytes s t k a bs).tl.thr = s.tl.thr := by
  simp only [pokeBytes]; split <;> simp
@[simp] theorem pokeBytes_tl_xr (s : State) (t : Nat) (k : Option (Fin 4)) (a : Nat) (bs : List Byte) : (pokeBytes s t k a bs).tl.xr = s.tl.xr := by
  simp only [pokeBytes]; split <;> simp
@[simp] theorem pokeBytes_tl_pr (s : State) (t : Nat) (k : Option (Fin 4)) (a : Nat) (bs : List Byte) : (pokeBytes s t k a bs).tl.pr = s.tl.pr := by
  simp only [pokeBytes]; split <;> simp
@[simp] theorem pokeBytes_tl_pend (s : State) (t : Nat) (k : Option (Fin 4)) (a : Nat) (bs : List Byte) : (pokeBytes s t k a bs).tl.pend = s.tl.pend := by
  simp only [pokeBytes]; split <;> simp
@[simp] theorem pokeBytes_tl_tags (s : State) (t : Nat) (k : Option (Fin 4)) (a : Nat) (bs : List Byte) : (pokeBytes s t k a bs).tl.tags = s.tl.tags := by
  simp only [pokeBytes]; split <;> simp
@[simp] theorem pokeBytes_tl_claims (s : State) (t : Nat) (k : Option (Fin 4)) (a : Nat) (bs : List Byte) : (pokeBytes s t k a bs).tl.claims = s.tl.claims := by
  simp only [pokeBytes]; split <;> simp
@[simp] theorem pokeBytes_tl_tasks (s : State) (t : Nat) (k : Option (Fin 4)) (a : Nat) (bs : List Byte) : (pokeBytes s t k a bs).tl.tasks = s.tl.tasks := by
  simp only [pokeBytes]; split <;> simp
@[simp] theorem pokeBytes_tl_barriers (s : State) (t : Nat) (k : Option (Fin 4)) (a : Nat) (bs : List Byte) : (pokeBytes s t k a bs).tl.barriers = s.tl.barriers := by
  simp only [pokeBytes]; split <;> simp

/-! settleTags -/

@[simp] theorem settleTags_pending (s : State) (t : Nat) (k : Option (Fin 4)) (us : List (Nat × Use)) : (settleTags s t k us).pending = s.pending := by
  induction us generalizing s with
  | nil => rfl
  | cons u us ih => obtain ⟨x, u⟩ := u; cases u <;> simp [settleTags, ih]
@[simp] theorem settleTags_time (s : State) (t : Nat) (k : Option (Fin 4)) (us : List (Nat × Use)) : (settleTags s t k us).time = s.time := by
  induction us generalizing s with
  | nil => rfl
  | cons u us ih => obtain ⟨x, u⟩ := u; cases u <;> simp [settleTags, ih]
@[simp] theorem settleTags_free (s : State) (t : Nat) (k : Option (Fin 4)) (us : List (Nat × Use)) : (settleTags s t k us).free = s.free := by
  induction us generalizing s with
  | nil => rfl
  | cons u us ih => obtain ⟨x, u⟩ := u; cases u <;> simp [settleTags, ih]
@[simp] theorem settleTags_anv (s : State) (t : Nat) (k : Option (Fin 4)) (us : List (Nat × Use)) : (settleTags s t k us).anv = s.anv := by
  induction us generalizing s with
  | nil => rfl
  | cons u us ih => obtain ⟨x, u⟩ := u; cases u <;> simp [settleTags, ih]
@[simp] theorem settleTags_cln (s : State) (t : Nat) (k : Option (Fin 4)) (us : List (Nat × Use)) : (settleTags s t k us).cln = s.cln := by
  induction us generalizing s with
  | nil => rfl
  | cons u us ih => obtain ⟨x, u⟩ := u; cases u <;> simp [settleTags, ih]
@[simp] theorem settleTags_mgt (s : State) (t : Nat) (k : Option (Fin 4)) (us : List (Nat × Use)) : (settleTags s t k us).mgt = s.mgt := by
  induction us generalizing s with
  | nil => rfl
  | cons u us ih => obtain ⟨x, u⟩ := u; cases u <;> simp [settleTags, ih]
@[simp] theorem settleTags_qch (s : State) (t : Nat) (k : Option (Fin 4)) (us : List (Nat × Use)) : (settleTags s t k us).qch = s.qch := by
  induction us generalizing s with
  | nil => rfl
  | cons u us ih => obtain ⟨x, u⟩ := u; cases u <;> simp [settleTags, ih]
@[simp] theorem settleTags_tmp (s : State) (t : Nat) (k : Option (Fin 4)) (us : List (Nat × Use)) : (settleTags s t k us).tmp = s.tmp := by
  induction us generalizing s with
  | nil => rfl
  | cons u us ih => obtain ⟨x, u⟩ := u; cases u <;> simp [settleTags, ih]
@[simp] theorem settleTags_mem (s : State) (t : Nat) (k : Option (Fin 4)) (us : List (Nat × Use)) : (settleTags s t k us).mem = s.mem := by
  induction us generalizing s with
  | nil => rfl
  | cons u us ih => obtain ⟨x, u⟩ := u; cases u <;> simp [settleTags, ih]
@[simp] theorem settleTags_sth (s : State) (t : Nat) (k : Option (Fin 4)) (us : List (Nat × Use)) : (settleTags s t k us).sth = s.sth := by
  induction us generalizing s with
  | nil => rfl
  | cons u us ih => obtain ⟨x, u⟩ := u; cases u <;> simp [settleTags, ih]
@[simp] theorem settleTags_tng (s : State) (t : Nat) (k : Option (Fin 4)) (us : List (Nat × Use)) : (settleTags s t k us).tng = s.tng := by
  induction us generalizing s with
  | nil => rfl
  | cons u us ih => obtain ⟨x, u⟩ := u; cases u <;> simp [settleTags, ih]
@[simp] theorem settleTags_lnk (s : State) (t : Nat) (k : Option (Fin 4)) (us : List (Nat × Use)) : (settleTags s t k us).lnk = s.lnk := by
  induction us generalizing s with
  | nil => rfl
  | cons u us ih => obtain ⟨x, u⟩ := u; cases u <;> simp [settleTags, ih]
@[simp] theorem settleTags_ftm (s : State) (t : Nat) (k : Option (Fin 4)) (us : List (Nat × Use)) : (settleTags s t k us).ftm = s.ftm := by
  induction us generalizing s with
  | nil => rfl
  | cons u us ih => obtain ⟨x, u⟩ := u; cases u <;> simp [settleTags, ih]
@[simp] theorem settleTags_rng (s : State) (t : Nat) (k : Option (Fin 4)) (us : List (Nat × Use)) : (settleTags s t k us).rng = s.rng := by
  induction us generalizing s with
  | nil => rfl
  | cons u us ih => obtain ⟨x, u⟩ := u; cases u <;> simp [settleTags, ih]
@[simp] theorem settleTags_seq (s : State) (t : Nat) (k : Option (Fin 4)) (us : List (Nat × Use)) : (settleTags s t k us).seq = s.seq := by
  induction us generalizing s with
  | nil => rfl
  | cons u us ih => obtain ⟨x, u⟩ := u; cases u <;> simp [settleTags, ih]
@[simp] theorem settleTags_blt (s : State) (t : Nat) (k : Option (Fin 4)) (us : List (Nat × Use)) : (settleTags s t k us).blt = s.blt := by
  induction us generalizing s with
  | nil => rfl
  | cons u us ih => obtain ⟨x, u⟩ := u; cases u <;> simp [settleTags, ih]
@[simp] theorem settleTags_prt (s : State) (t : Nat) (k : Option (Fin 4)) (us : List (Nat × Use)) : (settleTags s t k us).prt = s.prt := by
  induction us generalizing s with
  | nil => rfl
  | cons u us ih => obtain ⟨x, u⟩ := u; cases u <;> simp [settleTags, ih]
@[simp] theorem settleTags_hrt (s : State) (t : Nat) (k : Option (Fin 4)) (us : List (Nat × Use)) : (settleTags s t k us).hrt = s.hrt := by
  induction us generalizing s with
  | nil => rfl
  | cons u us ih => obtain ⟨x, u⟩ := u; cases u <;> simp [settleTags, ih]
@[simp] theorem settleTags_boot (s : State) (t : Nat) (k : Option (Fin 4)) (us : List (Nat × Use)) : (settleTags s t k us).boot = s.boot := by
  induction us generalizing s with
  | nil => rfl
  | cons u us ih => obtain ⟨x, u⟩ := u; cases u <;> simp [settleTags, ih]
@[simp] theorem settleTags_cal (s : State) (t : Nat) (k : Option (Fin 4)) (us : List (Nat × Use)) : (settleTags s t k us).cal = s.cal := by
  induction us generalizing s with
  | nil => rfl
  | cons u us ih => obtain ⟨x, u⟩ := u; cases u <;> simp [settleTags, ih]
@[simp] theorem settleTags_sp (s : State) (t : Nat) (k : Option (Fin 4)) (us : List (Nat × Use)) : (settleTags s t k us).sp = s.sp := by
  induction us generalizing s with
  | nil => rfl
  | cons u us ih => obtain ⟨x, u⟩ := u; cases u <;> simp [settleTags, ih]
@[simp] theorem settleTags_tl_xr (s : State) (t : Nat) (k : Option (Fin 4)) (us : List (Nat × Use)) : (settleTags s t k us).tl.xr = s.tl.xr := by
  induction us generalizing s with
  | nil => rfl
  | cons u us ih => obtain ⟨x, u⟩ := u; cases u <;> simp [settleTags, ih]
@[simp] theorem settleTags_tl_pr (s : State) (t : Nat) (k : Option (Fin 4)) (us : List (Nat × Use)) : (settleTags s t k us).tl.pr = s.tl.pr := by
  induction us generalizing s with
  | nil => rfl
  | cons u us ih => obtain ⟨x, u⟩ := u; cases u <;> simp [settleTags, ih]
@[simp] theorem settleTags_tl_pend (s : State) (t : Nat) (k : Option (Fin 4)) (us : List (Nat × Use)) : (settleTags s t k us).tl.pend = s.tl.pend := by
  induction us generalizing s with
  | nil => rfl
  | cons u us ih => obtain ⟨x, u⟩ := u; cases u <;> simp [settleTags, ih]
@[simp] theorem settleTags_tl_spad (s : State) (t : Nat) (k : Option (Fin 4)) (us : List (Nat × Use)) : (settleTags s t k us).tl.spad = s.tl.spad := by
  induction us generalizing s with
  | nil => rfl
  | cons u us ih => obtain ⟨x, u⟩ := u; cases u <;> simp [settleTags, ih]
@[simp] theorem settleTags_tl_claims (s : State) (t : Nat) (k : Option (Fin 4)) (us : List (Nat × Use)) : (settleTags s t k us).tl.claims = s.tl.claims := by
  induction us generalizing s with
  | nil => rfl
  | cons u us ih => obtain ⟨x, u⟩ := u; cases u <;> simp [settleTags, ih]
@[simp] theorem settleTags_tl_tasks (s : State) (t : Nat) (k : Option (Fin 4)) (us : List (Nat × Use)) : (settleTags s t k us).tl.tasks = s.tl.tasks := by
  induction us generalizing s with
  | nil => rfl
  | cons u us ih => obtain ⟨x, u⟩ := u; cases u <;> simp [settleTags, ih]
@[simp] theorem settleTags_tl_barriers (s : State) (t : Nat) (k : Option (Fin 4)) (us : List (Nat × Use)) : (settleTags s t k us).tl.barriers = s.tl.barriers := by
  induction us generalizing s with
  | nil => rfl
  | cons u us ih => obtain ⟨x, u⟩ := u; cases u <;> simp [settleTags, ih]

/-! injectEvent -/

@[simp] theorem injectEvent_pending (s : State) (pg : Nat) (l : List Nat) : ((injectEvent s pg l).2).pending = s.pending := by
  simp only [injectEvent]; repeat' split
  all_goals simp
@[simp] theorem injectEvent_time (s : State) (pg : Nat) (l : List Nat) : ((injectEvent s pg l).2).time = s.time := by
  simp only [injectEvent]; repeat' split
  all_goals simp
@[simp] theorem injectEvent_free (s : State) (pg : Nat) (l : List Nat) : ((injectEvent s pg l).2).free = s.free := by
  simp only [injectEvent]; repeat' split
  all_goals simp
@[simp] theorem injectEvent_tl (s : State) (pg : Nat) (l : List Nat) : ((injectEvent s pg l).2).tl = s.tl := by
  simp only [injectEvent]; repeat' split
  all_goals simp
@[simp] theorem injectEvent_anv (s : State) (pg : Nat) (l : List Nat) : ((injectEvent s pg l).2).anv = s.anv := by
  simp only [injectEvent]; repeat' split
  all_goals simp
@[simp] theorem injectEvent_cln (s : State) (pg : Nat) (l : List Nat) : ((injectEvent s pg l).2).cln = s.cln := by
  simp only [injectEvent]; repeat' split
  all_goals simp
@[simp] theorem injectEvent_mgt (s : State) (pg : Nat) (l : List Nat) : ((injectEvent s pg l).2).mgt = s.mgt := by
  simp only [injectEvent]; repeat' split
  all_goals simp
@[simp] theorem injectEvent_qch (s : State) (pg : Nat) (l : List Nat) : ((injectEvent s pg l).2).qch = s.qch := by
  simp only [injectEvent]; repeat' split
  all_goals simp
@[simp] theorem injectEvent_tmp (s : State) (pg : Nat) (l : List Nat) : ((injectEvent s pg l).2).tmp = s.tmp := by
  simp only [injectEvent]; repeat' split
  all_goals simp
@[simp] theorem injectEvent_mem (s : State) (pg : Nat) (l : List Nat) : ((injectEvent s pg l).2).mem = s.mem := by
  simp only [injectEvent]; repeat' split
  all_goals simp
@[simp] theorem injectEvent_blw (s : State) (pg : Nat) (l : List Nat) : ((injectEvent s pg l).2).blw = s.blw := by
  simp only [injectEvent]; repeat' split
  all_goals simp
@[simp] theorem injectEvent_sth (s : State) (pg : Nat) (l : List Nat) : ((injectEvent s pg l).2).sth = s.sth := by
  simp only [injectEvent]; repeat' split
  all_goals simp
@[simp] theorem injectEvent_tng (s : State) (pg : Nat) (l : List Nat) : ((injectEvent s pg l).2).tng = s.tng := by
  simp only [injectEvent]; repeat' split
  all_goals simp
@[simp] theorem injectEvent_lnk (s : State) (pg : Nat) (l : List Nat) : ((injectEvent s pg l).2).lnk = s.lnk := by
  simp only [injectEvent]; repeat' split
  all_goals simp
@[simp] theorem injectEvent_ftm (s : State) (pg : Nat) (l : List Nat) : ((injectEvent s pg l).2).ftm = s.ftm := by
  simp only [injectEvent]; repeat' split
  all_goals simp
@[simp] theorem injectEvent_rng (s : State) (pg : Nat) (l : List Nat) : ((injectEvent s pg l).2).rng = s.rng := by
  simp only [injectEvent]; repeat' split
  all_goals simp
@[simp] theorem injectEvent_seq (s : State) (pg : Nat) (l : List Nat) : ((injectEvent s pg l).2).seq = s.seq := by
  simp only [injectEvent]; repeat' split
  all_goals simp
@[simp] theorem injectEvent_blt (s : State) (pg : Nat) (l : List Nat) : ((injectEvent s pg l).2).blt = s.blt := by
  simp only [injectEvent]; repeat' split
  all_goals simp
@[simp] theorem injectEvent_prt (s : State) (pg : Nat) (l : List Nat) : ((injectEvent s pg l).2).prt = s.prt := by
  simp only [injectEvent]; repeat' split
  all_goals simp
@[simp] theorem injectEvent_hrt (s : State) (pg : Nat) (l : List Nat) : ((injectEvent s pg l).2).hrt = s.hrt := by
  simp only [injectEvent]; repeat' split
  all_goals simp
@[simp] theorem injectEvent_boot (s : State) (pg : Nat) (l : List Nat) : ((injectEvent s pg l).2).boot = s.boot := by
  simp only [injectEvent]; repeat' split
  all_goals simp
@[simp] theorem injectEvent_cal (s : State) (pg : Nat) (l : List Nat) : ((injectEvent s pg l).2).cal = s.cal := by
  simp only [injectEvent]; repeat' split
  all_goals simp
@[simp] theorem injectEvent_sp (s : State) (pg : Nat) (l : List Nat) : ((injectEvent s pg l).2).sp = s.sp := by
  simp only [injectEvent]; repeat' split
  all_goals simp

/-! spadEcc -/

@[simp] theorem spadEcc_pending (s : State) (t : Nat) (rs : List (Nat × Nat)) (e : Ecc) : ((spadEcc s t rs e).2).pending = s.pending := by
  have h := injectEvent_pending s (tilePg t 5) [1, 2]
  simp only [spadEcc]; revert h; generalize injectEvent s (tilePg t 5) [1, 2] = p; obtain ⟨a, b⟩ := p
  intro h; rcases a with _ | _ | _ | a <;> cases e <;> exact h
@[simp] theorem spadEcc_time (s : State) (t : Nat) (rs : List (Nat × Nat)) (e : Ecc) : ((spadEcc s t rs e).2).time = s.time := by
  have h := injectEvent_time s (tilePg t 5) [1, 2]
  simp only [spadEcc]; revert h; generalize injectEvent s (tilePg t 5) [1, 2] = p; obtain ⟨a, b⟩ := p
  intro h; rcases a with _ | _ | _ | a <;> cases e <;> exact h
@[simp] theorem spadEcc_free (s : State) (t : Nat) (rs : List (Nat × Nat)) (e : Ecc) : ((spadEcc s t rs e).2).free = s.free := by
  have h := injectEvent_free s (tilePg t 5) [1, 2]
  simp only [spadEcc]; revert h; generalize injectEvent s (tilePg t 5) [1, 2] = p; obtain ⟨a, b⟩ := p
  intro h; rcases a with _ | _ | _ | a <;> cases e <;> exact h
@[simp] theorem spadEcc_tl (s : State) (t : Nat) (rs : List (Nat × Nat)) (e : Ecc) : ((spadEcc s t rs e).2).tl = s.tl := by
  have h := injectEvent_tl s (tilePg t 5) [1, 2]
  simp only [spadEcc]; revert h; generalize injectEvent s (tilePg t 5) [1, 2] = p; obtain ⟨a, b⟩ := p
  intro h; rcases a with _ | _ | _ | a <;> cases e <;> exact h
@[simp] theorem spadEcc_anv (s : State) (t : Nat) (rs : List (Nat × Nat)) (e : Ecc) : ((spadEcc s t rs e).2).anv = s.anv := by
  have h := injectEvent_anv s (tilePg t 5) [1, 2]
  simp only [spadEcc]; revert h; generalize injectEvent s (tilePg t 5) [1, 2] = p; obtain ⟨a, b⟩ := p
  intro h; rcases a with _ | _ | _ | a <;> cases e <;> exact h
@[simp] theorem spadEcc_cln (s : State) (t : Nat) (rs : List (Nat × Nat)) (e : Ecc) : ((spadEcc s t rs e).2).cln = s.cln := by
  have h := injectEvent_cln s (tilePg t 5) [1, 2]
  simp only [spadEcc]; revert h; generalize injectEvent s (tilePg t 5) [1, 2] = p; obtain ⟨a, b⟩ := p
  intro h; rcases a with _ | _ | _ | a <;> cases e <;> exact h
@[simp] theorem spadEcc_mgt (s : State) (t : Nat) (rs : List (Nat × Nat)) (e : Ecc) : ((spadEcc s t rs e).2).mgt = s.mgt := by
  have h := injectEvent_mgt s (tilePg t 5) [1, 2]
  simp only [spadEcc]; revert h; generalize injectEvent s (tilePg t 5) [1, 2] = p; obtain ⟨a, b⟩ := p
  intro h; rcases a with _ | _ | _ | a <;> cases e <;> exact h
@[simp] theorem spadEcc_qch (s : State) (t : Nat) (rs : List (Nat × Nat)) (e : Ecc) : ((spadEcc s t rs e).2).qch = s.qch := by
  have h := injectEvent_qch s (tilePg t 5) [1, 2]
  simp only [spadEcc]; revert h; generalize injectEvent s (tilePg t 5) [1, 2] = p; obtain ⟨a, b⟩ := p
  intro h; rcases a with _ | _ | _ | a <;> cases e <;> exact h
@[simp] theorem spadEcc_tmp (s : State) (t : Nat) (rs : List (Nat × Nat)) (e : Ecc) : ((spadEcc s t rs e).2).tmp = s.tmp := by
  have h := injectEvent_tmp s (tilePg t 5) [1, 2]
  simp only [spadEcc]; revert h; generalize injectEvent s (tilePg t 5) [1, 2] = p; obtain ⟨a, b⟩ := p
  intro h; rcases a with _ | _ | _ | a <;> cases e <;> exact h
@[simp] theorem spadEcc_mem (s : State) (t : Nat) (rs : List (Nat × Nat)) (e : Ecc) : ((spadEcc s t rs e).2).mem = s.mem := by
  have h := injectEvent_mem s (tilePg t 5) [1, 2]
  simp only [spadEcc]; revert h; generalize injectEvent s (tilePg t 5) [1, 2] = p; obtain ⟨a, b⟩ := p
  intro h; rcases a with _ | _ | _ | a <;> cases e <;> exact h
@[simp] theorem spadEcc_blw (s : State) (t : Nat) (rs : List (Nat × Nat)) (e : Ecc) : ((spadEcc s t rs e).2).blw = s.blw := by
  have h := injectEvent_blw s (tilePg t 5) [1, 2]
  simp only [spadEcc]; revert h; generalize injectEvent s (tilePg t 5) [1, 2] = p; obtain ⟨a, b⟩ := p
  intro h; rcases a with _ | _ | _ | a <;> cases e <;> exact h
@[simp] theorem spadEcc_sth (s : State) (t : Nat) (rs : List (Nat × Nat)) (e : Ecc) : ((spadEcc s t rs e).2).sth = s.sth := by
  have h := injectEvent_sth s (tilePg t 5) [1, 2]
  simp only [spadEcc]; revert h; generalize injectEvent s (tilePg t 5) [1, 2] = p; obtain ⟨a, b⟩ := p
  intro h; rcases a with _ | _ | _ | a <;> cases e <;> exact h
@[simp] theorem spadEcc_tng (s : State) (t : Nat) (rs : List (Nat × Nat)) (e : Ecc) : ((spadEcc s t rs e).2).tng = s.tng := by
  have h := injectEvent_tng s (tilePg t 5) [1, 2]
  simp only [spadEcc]; revert h; generalize injectEvent s (tilePg t 5) [1, 2] = p; obtain ⟨a, b⟩ := p
  intro h; rcases a with _ | _ | _ | a <;> cases e <;> exact h
@[simp] theorem spadEcc_lnk (s : State) (t : Nat) (rs : List (Nat × Nat)) (e : Ecc) : ((spadEcc s t rs e).2).lnk = s.lnk := by
  have h := injectEvent_lnk s (tilePg t 5) [1, 2]
  simp only [spadEcc]; revert h; generalize injectEvent s (tilePg t 5) [1, 2] = p; obtain ⟨a, b⟩ := p
  intro h; rcases a with _ | _ | _ | a <;> cases e <;> exact h
@[simp] theorem spadEcc_ftm (s : State) (t : Nat) (rs : List (Nat × Nat)) (e : Ecc) : ((spadEcc s t rs e).2).ftm = s.ftm := by
  have h := injectEvent_ftm s (tilePg t 5) [1, 2]
  simp only [spadEcc]; revert h; generalize injectEvent s (tilePg t 5) [1, 2] = p; obtain ⟨a, b⟩ := p
  intro h; rcases a with _ | _ | _ | a <;> cases e <;> exact h
@[simp] theorem spadEcc_rng (s : State) (t : Nat) (rs : List (Nat × Nat)) (e : Ecc) : ((spadEcc s t rs e).2).rng = s.rng := by
  have h := injectEvent_rng s (tilePg t 5) [1, 2]
  simp only [spadEcc]; revert h; generalize injectEvent s (tilePg t 5) [1, 2] = p; obtain ⟨a, b⟩ := p
  intro h; rcases a with _ | _ | _ | a <;> cases e <;> exact h
@[simp] theorem spadEcc_seq (s : State) (t : Nat) (rs : List (Nat × Nat)) (e : Ecc) : ((spadEcc s t rs e).2).seq = s.seq := by
  have h := injectEvent_seq s (tilePg t 5) [1, 2]
  simp only [spadEcc]; revert h; generalize injectEvent s (tilePg t 5) [1, 2] = p; obtain ⟨a, b⟩ := p
  intro h; rcases a with _ | _ | _ | a <;> cases e <;> exact h
@[simp] theorem spadEcc_blt (s : State) (t : Nat) (rs : List (Nat × Nat)) (e : Ecc) : ((spadEcc s t rs e).2).blt = s.blt := by
  have h := injectEvent_blt s (tilePg t 5) [1, 2]
  simp only [spadEcc]; revert h; generalize injectEvent s (tilePg t 5) [1, 2] = p; obtain ⟨a, b⟩ := p
  intro h; rcases a with _ | _ | _ | a <;> cases e <;> exact h
@[simp] theorem spadEcc_prt (s : State) (t : Nat) (rs : List (Nat × Nat)) (e : Ecc) : ((spadEcc s t rs e).2).prt = s.prt := by
  have h := injectEvent_prt s (tilePg t 5) [1, 2]
  simp only [spadEcc]; revert h; generalize injectEvent s (tilePg t 5) [1, 2] = p; obtain ⟨a, b⟩ := p
  intro h; rcases a with _ | _ | _ | a <;> cases e <;> exact h
@[simp] theorem spadEcc_hrt (s : State) (t : Nat) (rs : List (Nat × Nat)) (e : Ecc) : ((spadEcc s t rs e).2).hrt = s.hrt := by
  have h := injectEvent_hrt s (tilePg t 5) [1, 2]
  simp only [spadEcc]; revert h; generalize injectEvent s (tilePg t 5) [1, 2] = p; obtain ⟨a, b⟩ := p
  intro h; rcases a with _ | _ | _ | a <;> cases e <;> exact h
@[simp] theorem spadEcc_boot (s : State) (t : Nat) (rs : List (Nat × Nat)) (e : Ecc) : ((spadEcc s t rs e).2).boot = s.boot := by
  have h := injectEvent_boot s (tilePg t 5) [1, 2]
  simp only [spadEcc]; revert h; generalize injectEvent s (tilePg t 5) [1, 2] = p; obtain ⟨a, b⟩ := p
  intro h; rcases a with _ | _ | _ | a <;> cases e <;> exact h
@[simp] theorem spadEcc_cal (s : State) (t : Nat) (rs : List (Nat × Nat)) (e : Ecc) : ((spadEcc s t rs e).2).cal = s.cal := by
  have h := injectEvent_cal s (tilePg t 5) [1, 2]
  simp only [spadEcc]; revert h; generalize injectEvent s (tilePg t 5) [1, 2] = p; obtain ⟨a, b⟩ := p
  intro h; rcases a with _ | _ | _ | a <;> cases e <;> exact h
@[simp] theorem spadEcc_sp (s : State) (t : Nat) (rs : List (Nat × Nat)) (e : Ecc) : ((spadEcc s t rs e).2).sp = s.sp := by
  have h := injectEvent_sp s (tilePg t 5) [1, 2]
  simp only [spadEcc]; revert h; generalize injectEvent s (tilePg t 5) [1, 2] = p; obtain ⟨a, b⟩ := p
  intro h; rcases a with _ | _ | _ | a <;> cases e <;> exact h

/-! spadEccNote -/

@[simp] theorem spadEccNote_pending (s : State) (t c : Nat) (e : Ecc) : (spadEccNote s t c e).pending = s.pending := by
  cases e <;> simp [spadEccNote]
@[simp] theorem spadEccNote_time (s : State) (t c : Nat) (e : Ecc) : (spadEccNote s t c e).time = s.time := by
  cases e <;> simp [spadEccNote]
@[simp] theorem spadEccNote_free (s : State) (t c : Nat) (e : Ecc) : (spadEccNote s t c e).free = s.free := by
  cases e <;> simp [spadEccNote]
@[simp] theorem spadEccNote_tl (s : State) (t c : Nat) (e : Ecc) : (spadEccNote s t c e).tl = s.tl := by
  cases e <;> simp [spadEccNote]
@[simp] theorem spadEccNote_anv (s : State) (t c : Nat) (e : Ecc) : (spadEccNote s t c e).anv = s.anv := by
  cases e <;> simp [spadEccNote]
@[simp] theorem spadEccNote_cln (s : State) (t c : Nat) (e : Ecc) : (spadEccNote s t c e).cln = s.cln := by
  cases e <;> simp [spadEccNote]
@[simp] theorem spadEccNote_mgt (s : State) (t c : Nat) (e : Ecc) : (spadEccNote s t c e).mgt = s.mgt := by
  cases e <;> simp [spadEccNote]
@[simp] theorem spadEccNote_qch (s : State) (t c : Nat) (e : Ecc) : (spadEccNote s t c e).qch = s.qch := by
  cases e <;> simp [spadEccNote]
@[simp] theorem spadEccNote_tmp (s : State) (t c : Nat) (e : Ecc) : (spadEccNote s t c e).tmp = s.tmp := by
  cases e <;> simp [spadEccNote]
@[simp] theorem spadEccNote_mem (s : State) (t c : Nat) (e : Ecc) : (spadEccNote s t c e).mem = s.mem := by
  cases e <;> simp [spadEccNote]
@[simp] theorem spadEccNote_blw (s : State) (t c : Nat) (e : Ecc) : (spadEccNote s t c e).blw = s.blw := by
  cases e <;> simp [spadEccNote]
@[simp] theorem spadEccNote_sth (s : State) (t c : Nat) (e : Ecc) : (spadEccNote s t c e).sth = s.sth := by
  cases e <;> simp [spadEccNote]
@[simp] theorem spadEccNote_tng (s : State) (t c : Nat) (e : Ecc) : (spadEccNote s t c e).tng = s.tng := by
  cases e <;> simp [spadEccNote]
@[simp] theorem spadEccNote_lnk (s : State) (t c : Nat) (e : Ecc) : (spadEccNote s t c e).lnk = s.lnk := by
  cases e <;> simp [spadEccNote]
@[simp] theorem spadEccNote_ftm (s : State) (t c : Nat) (e : Ecc) : (spadEccNote s t c e).ftm = s.ftm := by
  cases e <;> simp [spadEccNote]
@[simp] theorem spadEccNote_rng (s : State) (t c : Nat) (e : Ecc) : (spadEccNote s t c e).rng = s.rng := by
  cases e <;> simp [spadEccNote]
@[simp] theorem spadEccNote_seq (s : State) (t c : Nat) (e : Ecc) : (spadEccNote s t c e).seq = s.seq := by
  cases e <;> simp [spadEccNote]
@[simp] theorem spadEccNote_blt (s : State) (t c : Nat) (e : Ecc) : (spadEccNote s t c e).blt = s.blt := by
  cases e <;> simp [spadEccNote]
@[simp] theorem spadEccNote_prt (s : State) (t c : Nat) (e : Ecc) : (spadEccNote s t c e).prt = s.prt := by
  cases e <;> simp [spadEccNote]
@[simp] theorem spadEccNote_hrt (s : State) (t c : Nat) (e : Ecc) : (spadEccNote s t c e).hrt = s.hrt := by
  cases e <;> simp [spadEccNote]
@[simp] theorem spadEccNote_boot (s : State) (t c : Nat) (e : Ecc) : (spadEccNote s t c e).boot = s.boot := by
  cases e <;> simp [spadEccNote]
@[simp] theorem spadEccNote_cal (s : State) (t c : Nat) (e : Ecc) : (spadEccNote s t c e).cal = s.cal := by
  cases e <;> simp [spadEccNote]
@[simp] theorem spadEccNote_sp (s : State) (t c : Nat) (e : Ecc) : (spadEccNote s t c e).sp = s.sp := by
  cases e <;> simp [spadEccNote]

/-! Interrupt bits -/

@[simp] theorem sendMsi_rdW (s : State) (pg o : Nat) : rdW (sendMsi s pg) o = rdW s o := by
  simp only [sendMsi]; split
  · rfl
  · exact Eq.trans rfl rfl

/-- Of the registers, an interrupt changes BLK_INT_STAT alone. -/
theorem intSet_rdW (s : State) (pg b o : Nat) : rdW (intSet s pg b) o = rdW (wr s (pg + hIntStat) (rd s (pg + hIntStat) ||| b)) o := by
  simp only [intSet, withIntEdge]; split
  · exact sendMsi_rdW _ _ _
  · rfl

theorem intSet_rd (s : State) (pg b : Nat) : rd (intSet s pg b) (pg + hIntStat) = (rd s (pg + hIntStat) ||| b) % 2 ^ 32 := by
  rw [rd, intSet_rdW]; exact rd_wr_same _ _ _

/-- The bit is set afterwards. -/
theorem intSet_bit (s : State) (pg n : Nat) (h : n < 32) : rdB (intSet s pg (2 ^ n)) (pg + hIntStat) n = true := by
  rw [rdB, intSet_rd, Nat.testBit_mod_two_pow, Nat.testBit_or, Nat.testBit_two_pow_self]
  simp [h]


end Sys2Proof.Machine
end

