-- ==== Sys2Proof/Laws/Issue.lean ====
section
/-!
SUPPORT. What the issue of an operation can do, said once: issueOp_ready gives the outcome of an operation that takes effect.
-/
namespace Sys2Proof.Machine

/-- Reaching a fabric time changes no register, thread or memory. -/
@[simp] theorem tick_time (s : State) (n : Nat) : (tick s n).time = max s.time n := rfl
@[simp] theorem thrOf_tick (s : State) (n t h : Nat) : thrOf (tick s n) t h = thrOf s t h := rfl
@[simp] theorem xreg_tick (s : State) (n t h r : Nat) : xreg (tick s n) t h r = xreg s t h r := rfl
@[simp] theorem preg_tick (s : State) (n t h p : Nat) : preg (tick s n) t h p = preg s t h p := rfl
@[simp] theorem rdW_tick (s : State) (n o : Nat) : rdW (tick s n) o = rdW s o := rfl
@[simp] theorem rd_tick (s : State) (n o : Nat) : rd (tick s n) o = rd s o := rfl
@[simp] theorem rd64_tick (s : State) (n o : Nat) : rd64 (tick s n) o = rd64 s o := rfl
@[simp] theorem pcFault_tick (s : State) (n t pc : Nat) : pcFault (tick s n) t pc = pcFault s t pc := rfl
@[simp] theorem regsReady_tick (s : State) (n t h : Nat) (l : List Nat) : regsReady (tick s n) t h l = regsReady s t h l := rfl
@[simp] theorem guardOk_tick (s : State) (n t h w : Nat) : guardOk (tick s n) t h w = guardOk s t h w := rfl

/-- The outcome of an operation that takes effect, from what its body answers. -/
def issued (i : Issue) (s : State) : OpRes → Out
  | .done t => .next (i.retired s t)
  | .jump t pc => .next (retire t i.tile.val i.thr.val pc)
  | .blocked slot => .next (setThr (i.here s) i.tile.val i.thr.val { i.thread s with st := .blockedSlot slot, since := (i.here s).time })
  | .wait => .next (i.here s)
  | .sync w => .next (setThr (i.here s) i.tile.val i.thr.val { i.thread s with st := .blockedSync w, since := (i.here s).time })
  | .fault c => .next (threadFault (i.here s) i.tile.val i.thr.val c (i.thread s).pc.toNat)

/-- An operation that is ready does what its body says. -/
theorem issueOp_ready {mn : String} {u o : Nat} {legal : Nat → Bool} {regs : Nat → List Nat} {i : Issue} {s : State}
    {body : OpCtx → State → OpRes} (h : Ready u o legal regs i s) (hd : opDefined u o = true) :
    issueOp mn u o legal regs i s body = issued i s (body i.ctx (i.here s)) := by
  obtain ⟨hu, ho, hr, hp, hl, hg, hf, hgd⟩ := h
  simp only [Issue.w, Issue.thread] at *
  have hg' : ¬ (fPen i.word.toNat = false ∧ bitsOf i.word.toNat 51 49 ≠ 0) := by
    rcases hg with h | h <;> simp [h]
  simp only [issueOp, thrOf_tick, pcFault_tick, regsReady_tick, guardOk_tick, hr, hp, hu, ho, hd, hl, hf, hgd]
  simp only [ne_eq, not_true_eq_false, if_false, Bool.true_eq_false, or_self, false_or, if_neg hg']
  simp only [issued]
  all_goals (cases body i.ctx (i.here s) <;> rfl)

end Sys2Proof.Machine
end

