-- ==== Sys2Proof/Laws/Slots.lean ====
section
/-!
SUPPORT. Laws of slots: what the shadows of a task leave as it was, the bytes that a store changes, and the tags that completed
accesses leave.
-/
namespace Sys2Proof.Machine

/-! ### Shadows -/

/-- Outside tasks nothing is shadowed. -/
@[simp] theorem shadowAll_none (s : State) (t : Nat) (us : List (Nat × Use)) : shadowAll s t none us = some s := by
  induction us with
  | nil => rfl
  | cons u us ih => obtain ⟨x, u⟩ := u; simp [shadowAll]

theorem viewSlot_none (s : State) (t x : Nat) : viewSlot s t none x = x := rfl

/-- A shadow touches scratchpad bytes, tags and tasks alone. -/
theorem shadowSlot_keeps {s s' : State} {t : Nat} {k : Fin 4} {x : Nat} (h : shadowSlot s t k x = some s') :
    s' = { s with tl := { s.tl with spad := s'.tl.spad, tags := s'.tl.tags, tasks := s'.tl.tasks } } := by
  simp only [shadowSlot] at h
  repeat' split at h
  all_goals first | contradiction | skip
  · injection h with h; subst h; rfl
  · injection h with h; subst h; rfl
  · injection h with h; subst h; simp only [setTask, copySlot]

theorem shadowAll_keeps {t : Nat} {k : Option (Fin 4)} {us : List (Nat × Use)} : ∀ {s s' : State}, shadowAll s t k us = some s' →
    s' = { s with tl := { s.tl with spad := s'.tl.spad, tags := s'.tl.tags, tasks := s'.tl.tasks } } := by
  induction us with
  | nil => intro s s' h; injection h with h; subst h; rfl
  | cons u us ih =>
    obtain ⟨x, u⟩ := u
    intro s s' h
    cases k with
    | none => simp only [shadowAll] at h; injection h with h; subst h; rfl
    | some j =>
      simp only [shadowAll] at h
      split at h
      · cases hs : shadowSlot s t j x with
        | none => simp [hs] at h
        | some m =>
          simp only [hs, Option.bind_some] at h
          rw [ih h, shadowSlot_keeps hs]
      · exact ih h

/-! ### What depends on what -/

@[simp] theorem firstBlocked_tick (s : State) (n t : Nat) (k : Option (Fin 4)) (us : List (Nat × Use)) :
    firstBlocked (tick s n) t k us = firstBlocked s t k us := by
  induction us with
  | nil => rfl
  | cons u us ih => obtain ⟨x, u⟩ := u; simp only [firstBlocked, ih]; rfl

/-- What a thread reads depends on the tiles' state alone. -/
theorem seeByte_congr {s s' : State} (h : s'.tl = s.tl) (t : Nat) (k : Option (Fin 4)) (a : Nat) :
    seeByte s' t k a = seeByte s t k a := by
  simp only [seeByte, spByte, viewAddr, viewSlot, taskOf, h]

theorem loadBytes_congr {s s' : State} (h : s'.tl = s.tl) (t : Nat) (k : Option (Fin 4)) (e : Ecc) (a n : Nat) :
    loadBytes s' t k e a n = loadBytes s t k e a n := by
  simp only [loadBytes, seeByte_congr h]

theorem loadNat_congr {s s' : State} (h : s'.tl = s.tl) (t : Nat) (k : Option (Fin 4)) (e : Ecc) (a n : Nat) :
    loadNat s' t k e a n = loadNat s t k e a n := by
  simp only [loadNat, loadBytes_congr h]

theorem xreg_congr {s s' : State} (h : s'.tl = s.tl) (t th r : Nat) : xreg s' t th r = xreg s t th r := by simp only [xreg, h]

/-! ### Stores -/

@[simp] theorem nth_cons_zero {α : Type} (d a : α) (l : List α) : nth d (a :: l) 0 = a := rfl

@[simp] theorem nth_cons_succ {α : Type} (d a : α) (l : List α) (n : Nat) : nth d (a :: l) (n + 1) = nth d l n := by
  simp [nth]

theorem viewAddr_none (s : State) (t a : Nat) : viewAddr s t none a = a := by
  simp only [viewAddr, viewSlot_none]; omega

theorem codeHit_congr {s s' : State} {t a : Nat} (h1 : s'.win.regs = s.win.regs) (h2 : s'.tl.thr = s.tl.thr) :
    codeHit s' t a = codeHit s t a := by
  simp only [codeHit, inCode, codeBase, codeSlots, rdF, rd_congr h1, tileRunning, h2]
  rfl

/-- A store outside the running code region writes its bytes in order. -/
theorem pokeAll_get (t : Nat) (bs : List Byte) : ∀ (s : State) (a : Nat),
    (∀ x, a ≤ x ∧ x < a + bs.length → codeHit s t x = false) → ∀ x,
    cGet (fun _ => (0 : Byte)) (pokeAll s t none a bs).tl.spad x =
      if 2 ^ 24 * t + a ≤ x ∧ x < 2 ^ 24 * t + a + bs.length then nth 0 bs (x - (2 ^ 24 * t + a))
      else cGet (fun _ => (0 : Byte)) s.tl.spad x := by
  induction bs with
  | nil => intro s a _ x; simp only [pokeAll, List.length_nil]; rw [if_neg (by omega)]
  | cons b bs ih =>
    intro s a h x
    have h0 : codeHit s t a = false := h a ⟨Nat.le_refl _, by simp⟩
    have hp : pokeByte s t none a b = setSpByte s t a b := by simp [pokeByte, viewAddr_none, h0]
    have hs : ∀ y, a + 1 ≤ y ∧ y < a + 1 + bs.length → codeHit (setSpByte s t a b) t y = false := by
      intro y hy
      rw [codeHit_congr (s := s) (by simp) (by simp)]
      exact h y ⟨by omega, by simp; omega⟩
    rw [pokeAll, hp, ih _ _ hs]
    simp only [setSpByte, List.length_cons]
    by_cases hx : x = 2 ^ 24 * t + a
    · subst hx
      rw [if_neg (by omega), if_pos (by omega), cGet_cSet_same, Nat.sub_self, nth_cons_zero]
    · rw [cGet_cSet_ne _ _ _ hx]
      by_cases hr : 2 ^ 24 * t + (a + 1) ≤ x ∧ x < 2 ^ 24 * t + (a + 1) + bs.length
      · rw [if_pos hr, if_pos (by omega), show x - (2 ^ 24 * t + a) = x - (2 ^ 24 * t + (a + 1)) + 1 by omega, nth_cons_succ]
      · rw [if_neg hr, if_neg (by omega)]

/-- A store into a running code region writes nothing. -/
theorem pokeAll_code (t : Nat) (bs : List Byte) : ∀ (s : State) (a : Nat),
    (∀ x, a ≤ x ∧ x < a + bs.length → codeHit s t x = true) → pokeAll s t none a bs = s := by
  induction bs with
  | nil => intro s a _; rfl
  | cons b bs ih =>
    intro s a h
    have h0 : codeHit s t a = true := h a ⟨Nat.le_refl _, by simp⟩
    rw [pokeAll]
    simp only [pokeByte, viewAddr_none, h0, if_true]
    exact ih s (a + 1) (fun x hx => h x ⟨by omega, by simp; omega⟩)

theorem mem_rangeFrom {x a n : Nat} : x ∈ rangeFrom a n ↔ a ≤ x ∧ x < a + n := by
  induction n generalizing a with
  | zero => simp [rangeFrom]
  | succ n ih => simp only [rangeFrom, List.mem_cons, ih]; omega

/-- A range that no running code region drops meets it nowhere. -/
theorem codeHit_of_range {s : State} {t a n : Nat} (h : rangeHitsCode s t none a n = false) :
    ∀ x, a ≤ x ∧ x < a + n → codeHit s t x = false := by
  intro x hx
  cases hr : tileRunning s t with
  | false => simp [codeHit, hr]
  | true =>
    have hn : (n != 0) = true := by simp; omega
    simp only [rangeHitsCode, hr, hn, viewSlot_none, Bool.true_and, Bool.and_true, List.any_eq_false, mem_rangeFrom] at h
    have hq := h (x / 512) (by
      have h1 := Nat.div_le_div_right (c := 512) hx.1
      have h2 : x / 512 ≤ (a + n - 1) / 512 := Nat.div_le_div_right (by omega)
      omega)
    simpa [codeHit] using fun hc => absurd hc hq

/-! ### Tags -/

theorem setTagRaw_tags (s : State) (t x : Nat) (g : Tag) :
    (setTagRaw s t x g).tl.tags = cSet (fun _ => .empty) s.tl.tags (32768 * t + x) g := by
  simp only [setTagRaw]; repeat' split
  all_goals simp

theorem tagRaw_setTag (s : State) (t x : Nat) (g : Tag) (t' x' : Nat) :
    tagRaw (setTag s t none x g) t' x' = if 32768 * t' + x' = 32768 * t + x then g else tagRaw s t' x' := by
  simp only [setTag, viewSlot_none, tagRaw, wakeSlot, mapThreads_tl_tags, setTagRaw_tags, cGet_cSet]

theorem tagRaw_setTag_same (s : State) (t x : Nat) (g : Tag) : tagRaw (setTag s t none x g) t x = g := by
  rw [tagRaw_setTag, if_pos rfl]

theorem tagRaw_setTag_ne (s : State) {t x t' x' : Nat} (g : Tag) (h : 32768 * t' + x' ≠ 32768 * t + x) :
    tagRaw (setTag s t none x g) t' x' = tagRaw s t' x' := by
  rw [tagRaw_setTag, if_neg h]

end Sys2Proof.Machine
end

