-- ==== Sys2Proof/Laws/Window.lean ====
section
/-!
SUPPORT. The register window under every operation that writes it, as one write of the sparse map each, so that a read after any
number of them is settled by comparing offsets; and the fields and bits of a register that has just been written.
-/
namespace Sys2Proof.Machine

theorem wrW_regs (s : State) (o : Nat) (v : W32) : (wrW s o v).win.regs = cSet regReset s.win.regs o v := Eq.trans rfl rfl

theorem wr_regs (s : State) (o v : Nat) : (wr s o v).win.regs = cSet regReset s.win.regs o (BitVec.ofNat 32 v) := Eq.trans rfl rfl

theorem wrF_regs (s : State) (o hi lo f : Nat) :
    (wrF s o hi lo f).win.regs = cSet regReset s.win.regs o (BitVec.ofNat 32 (putBits (rd s o) hi lo f)) := Eq.trans rfl rfl

theorem wrB_regs (s : State) (o n : Nat) (b : Bool) :
    (wrB s o n b).win.regs = cSet regReset s.win.regs o (BitVec.ofNat 32 (putBits (rd s o) n n (if b then 1 else 0))) := Eq.trans rfl rfl

theorem incBy_regs (s : State) (o n : Nat) :
    (incBy s o n).win.regs = cSet regReset s.win.regs o (BitVec.ofNat 32 (min (rd s o + n) 0xFFFFFFFF)) := by rw [incBy, wr_regs]

theorem inc_regs (s : State) (o : Nat) :
    (inc s o).win.regs = cSet regReset s.win.regs o (BitVec.ofNat 32 (min (rd s o + 1) 0xFFFFFFFF)) := by rw [inc, incBy_regs]

theorem wr64_regs (s : State) (o v : Nat) :
    (wr64 s o v).win.regs = cSet regReset (cSet regReset s.win.regs o (BitVec.ofNat 32 (v % 2 ^ 32))) (o + 4)
      (BitVec.ofNat 32 (v / 2 ^ 32 % 2 ^ 32)) := by rw [wr64, wr_regs, wr_regs]

theorem inc64_regs (s : State) (o n : Nat) :
    (inc64 s o n).win.regs = cSet regReset (cSet regReset s.win.regs o (BitVec.ofNat 32 ((rd64 s o + n) % 2 ^ 64 % 2 ^ 32))) (o + 4)
      (BitVec.ofNat 32 ((rd64 s o + n) % 2 ^ 64 / 2 ^ 32 % 2 ^ 32)) := by rw [inc64, wr64_regs]

theorem sendMsi_regs (s : State) (pg : Nat) : (sendMsi s pg).win.regs = s.win.regs := by
  simp only [sendMsi]; split
  · rfl
  · exact Eq.trans rfl rfl

theorem intSet_regs (s : State) (pg b : Nat) :
    (intSet s pg b).win.regs = cSet regReset s.win.regs (pg + hIntStat) (BitVec.ofNat 32 (rd s (pg + hIntStat) ||| b)) := by
  simp only [intSet, withIntEdge]; split
  · rw [sendMsi_regs, wr_regs]
  · rw [wr_regs]

/-- Outside STAT and the error registers of the page, latching an error changes no register. -/
theorem latchErr_get (s : State) (pg c l a : Nat) {o : Nat} (h1 : o ≠ pg + hStat) (h2 : o ≠ pg + hErrSyn) (h3 : o ≠ pg + hErrLo)
    (h4 : o ≠ pg + hErrLo + 4) : cGet regReset (latchErr s pg c l a).win.regs o = cGet regReset s.win.regs o := by
  simp only [latchErr]; split
  · rw [wrB_regs, cGet_cSet_ne _ _ _ h1]
  · rw [wrB_regs, cGet_cSet_ne _ _ _ h1, wr64_regs, cGet_cSet_ne _ _ _ h4, cGet_cSet_ne _ _ _ h3, wr_regs, cGet_cSet_ne _ _ _ h2]

theorem latchBlk_get (s : State) (pg l a : Nat) {o : Nat} (h1 : o ≠ pg + hStat) (h2 : o ≠ pg + hErrSyn) (h3 : o ≠ pg + hErrLo)
    (h4 : o ≠ pg + hErrLo + 4) : cGet regReset (latchBlk s pg l a).win.regs o = cGet regReset s.win.regs o := by
  rw [latchBlk, latchErr_get s pg 1 l a h1 h2 h3 h4]

/-! ### Fields -/

theorem bitsOf_lt (v hi lo : Nat) : bitsOf v hi lo < 2 ^ (hi + 1 - lo) := Nat.mod_lt _ (Nat.two_pow_pos _)

/-- A bit of a field. -/
theorem bitsOf_testBit (v hi lo n : Nat) : (bitsOf v hi lo).testBit n = (decide (n < hi + 1 - lo) && v.testBit (lo + n)) := by
  rw [bitsOf, Nat.testBit_mod_two_pow, Nat.testBit_shiftRight]

/-- A register with a field replaced, taken apart. -/
theorem putBits_eq (v hi lo f : Nat) :
    putBits v hi lo f = v % 2 ^ lo + 2 ^ lo * (f % 2 ^ (hi + 1 - lo) + 2 ^ (hi + 1 - lo) * (v / 2 ^ lo / 2 ^ (hi + 1 - lo))) := by
  have h1 := Nat.div_add_mod v (2 ^ lo)
  have h2 := Nat.div_add_mod (v / 2 ^ lo) (2 ^ (hi + 1 - lo))
  rw [putBits, bitsOf, Nat.shiftRight_eq_div_pow]
  generalize v / 2 ^ lo / 2 ^ (hi + 1 - lo) = q at *
  generalize v / 2 ^ lo % 2 ^ (hi + 1 - lo) = r at *
  generalize f % 2 ^ (hi + 1 - lo) = g at *
  generalize v % 2 ^ lo = m at *
  generalize 2 ^ (hi + 1 - lo) = w at *
  generalize 2 ^ lo = l at *
  rw [← h2, Nat.mul_add] at h1
  rw [Nat.mul_add, ← h1, Nat.mul_comm r l, Nat.mul_comm g l]
  omega

/-- A bit of a register with a field replaced: the field's inside it, the old one outside. -/
theorem putBits_testBit (v hi lo f n : Nat) (h : lo ≤ hi) :
    (putBits v hi lo f).testBit n = if lo ≤ n ∧ n ≤ hi then f.testBit (n - lo) else v.testBit n := by
  have hm : v % 2 ^ lo < 2 ^ lo := Nat.mod_lt _ (Nat.two_pow_pos _)
  have hf : f % 2 ^ (hi + 1 - lo) < 2 ^ (hi + 1 - lo) := Nat.mod_lt _ (Nat.two_pow_pos _)
  rw [putBits_eq, Nat.add_comm, Nat.testBit_two_pow_mul_add _ hm]
  by_cases h1 : n < lo
  · rw [if_pos h1, if_neg (by omega), Nat.testBit_mod_two_pow]; simp [h1]
  · rw [if_neg h1, Nat.add_comm, Nat.testBit_two_pow_mul_add _ hf]
    by_cases h2 : n ≤ hi
    · rw [if_pos (by omega), if_pos (by omega), Nat.testBit_mod_two_pow]
      simp; omega
    · rw [if_neg (by omega), if_neg (by omega), ← Nat.shiftRight_eq_div_pow, ← Nat.shiftRight_eq_div_pow, Nat.testBit_shiftRight,
        Nat.testBit_shiftRight, show lo + (hi + 1 - lo + (n - lo - (hi + 1 - lo))) = n by omega]

/-- The field just written. -/
theorem bitsOf_putBits (v hi lo f : Nat) (h : lo ≤ hi) : bitsOf (putBits v hi lo f) hi lo = f % 2 ^ (hi + 1 - lo) := by
  apply Nat.eq_of_testBit_eq
  intro n
  rw [bitsOf_testBit, putBits_testBit _ _ _ _ _ h, Nat.testBit_mod_two_pow]
  by_cases hn : n < hi + 1 - lo
  · rw [if_pos (by omega), show lo + n - lo = n by omega]
  · simp [hn]

/-- Another field. -/
theorem bitsOf_putBits_ne (v : Nat) {hi lo hi' lo' : Nat} (f : Nat) (h : lo ≤ hi) (hd : hi' < lo ∨ hi < lo') :
    bitsOf (putBits v hi lo f) hi' lo' = bitsOf v hi' lo' := by
  apply Nat.eq_of_testBit_eq
  intro n
  rw [bitsOf_testBit, bitsOf_testBit, putBits_testBit _ _ _ _ _ h]
  by_cases hn : n < hi' + 1 - lo'
  · rw [if_neg (by omega)]
  · simp [hn]

/-- A field of a 32-bit register. -/
theorem bitsOf_mod (v hi lo : Nat) (h : hi < 32) : bitsOf (v % 2 ^ 32) hi lo = bitsOf v hi lo := by
  apply Nat.eq_of_testBit_eq
  intro n
  rw [bitsOf_testBit, bitsOf_testBit, Nat.testBit_mod_two_pow]
  by_cases hn : n < hi + 1 - lo
  · have : lo + n < 32 := by omega
    simp [this]
  · simp [hn]

/-- A field read after it is written. -/
theorem rdF_wrF (s : State) (o hi lo f : Nat) (h : lo ≤ hi) (h32 : hi < 32) :
    rdF (wrF s o hi lo f) o hi lo = f % 2 ^ (hi + 1 - lo) := by
  rw [rdF, wrF, rd_wr_same, bitsOf_mod _ _ _ h32, bitsOf_putBits _ _ _ _ h]

/-- A bit read after it is written. -/
theorem rdB_wrB (s : State) (o n : Nat) (b : Bool) (h : n < 32) : rdB (wrB s o n b) o n = b := by
  rw [rdB, wrB, wrF, rd_wr_same, Nat.testBit_mod_two_pow, putBits_testBit _ _ _ _ _ (Nat.le_refl n), if_pos ⟨Nat.le_refl n, Nat.le_refl n⟩]
  cases b <;> simp [h]

end Sys2Proof.Machine
end

