-- ==== Sys2Proof/Tests/Slice0.lean ====
section
/-!
SUPPORT. The modeller's own tests. For each obligation, wit_ and its name is a theorem by which concrete states and operands meet its
hypotheses, clause by clause, at boundary values of their ranges; test_ theorems run one command on a small state and compare what
changes with what the spec's rule says; wf_ theorems give an ill-formed command for each kind of check of WellFormed, which the check
refuses.
-/
open Sys2Proof Sys2Proof.Machine
namespace Sys2Proof.Tests
set_option Elab.async false

/-! ### States and words -/

/-- Thread 0 of tile 0, logical tile 0 of partition 0 (slice 0, RUNNING), is RUNNABLE at PC 0 of a code region of 8 slots at slot 32,760. -/
def st : State :=
  let s := wr (wr (wr State.reset (tilePg 0 0 + 0x110) (8 * 2 ^ 16 + 32760)) (tilePg 0 0 + 0x108) 0) (partPg + 0x140) 0x201
  { s with tl := { s.tl with thr := [(0, { st := .runnable })] } }

/-- st with registers of thread 0, keyed by specifier. -/
def stR (rs : Cells W64) : State := { st with tl := { st.tl with xr := rs } }

/-- A word from fields, given as low bit and value. -/
def fields (l : List (Nat × Nat)) : Nat := l.foldl (fun a f => a + f.2 * 2 ^ f.1) 0

/-- The operation of UNIT u and opcode o with operand fields l, at issue by thread 0 of tile 0. -/
def op (u o : Nat) (l : List (Nat × Nat)) : Issue :=
  { tile := 0, thr := 0, word := BitVec.ofNat 64 (o * 2 ^ 56 + u * 2 ^ 52 + fields l), now := 0 }

/-- Ready, computed. -/
def readyB (u o : Nat) (legal : Nat → Bool) (regs : Nat → List Nat) (i : Issue) (s : State) : Bool :=
  fUnit i.w == u && fOpc i.w == o && decide ((i.thread s).st = .runnable) &&
    (pcFault s i.tile.val (i.thread s).pc.toNat).isNone && legal i.w && (fPen i.w || bitsOf i.w 51 49 == 0) &&
    regsReady s i.tile.val i.thr.val (regs i.w) && guardOk s i.tile.val i.thr.val i.w

theorem rdy {u o : Nat} {legal : Nat → Bool} {regs : Nat → List Nat} {i : Issue} {s : State}
    (h : readyB u o legal regs i s = true := by decide +kernel) : Ready u o legal regs i s := by
  simp only [readyB, Bool.and_eq_true, beq_iff_eq, decide_eq_true_eq, Option.isNone_iff_eq_none, Bool.or_eq_true] at h
  obtain ⟨⟨⟨⟨⟨⟨⟨a, b⟩, c⟩, d⟩, e⟩, f⟩, g⟩, k⟩ := h
  exact ⟨a, b, c, d, e, f, g, k⟩

/-! ### The scalar unit: hypotheses that hold together -/

theorem wit_ScalarArithmetic : ∀ o ∈ List.range' 1 13, Ready 0 o legalR regsC (op 0 o [(42, 39), (36, 39), (30, 0)]) st := by
  intro o ho
  refine rdy ?_
  revert o; decide +kernel

theorem wit_ScalarImmediate :
    (∀ o ∈ [0x11, 0x14, 0x15, 0x16, 0x17], Ready 0 o legalI regsA (op 0 o [(42, 39), (36, 39), (0, 2 ^ 36 - 1)]) st) ∧
    Ready 0 0x12 legalLi regsN (op 0 0x12 [(42, 39), (0, 2 ^ 36 - 1)]) st ∧
    Ready 0 0x13 legalLih regsA (op 0 0x13 [(42, 39), (0, 2 ^ 28 - 1)]) st := by
  refine ⟨?_, rdy, rdy⟩
  intro o ho
  refine rdy ?_
  revert o; decide +kernel

theorem wit_PredicateOperations :
    (∀ c ∈ List.range 10, Ready 0 0x20 legalCmp regsC (op 0 0x20 [(42, c), (46, 3)]) st ∧
      Ready 0 0x21 legalCmpi regsA (op 0 0x21 [(42, c), (46, 3)]) st) ∧
    (∀ f ∈ List.range 4, Ready 0 0x22 legalPlog noRegs (op 0 0x22 [(46, 1), (44, 2), (42, 3), (40, f)]) st) ∧
    (∀ o ∈ [0x20, 0x21], ∀ c ∈ [10, 15], fUnit (op 0 o [(42, c)]).w = 0 ∧ fOpc (op 0 o [(42, c)]).w = o ∧
      (((op 0 o [(42, c)])).thread st).st = .runnable ∧ pcFault st 0 (pcOf (op 0 o []) st) = none ∧ 9 < fCond (op 0 o [(42, c)]).w) := by
  refine ⟨fun c hc => ⟨rdy ?_, rdy ?_⟩, fun f hf => rdy ?_, ?_⟩
  · revert c; decide +kernel
  · revert c; decide +kernel
  · revert f; decide +kernel
  · decide +kernel

theorem wit_ControlTransfers :
    Ready 0 0x00 legalNop noRegs (op 0 0 []) st ∧ Ready 0 0x30 legalBra noRegs (op 0 0x30 [(0, 2 ^ 32 - 8)]) st ∧
    Ready 0 0x31 legalJr regsA (op 0 0x31 [(36, 39)]) st ∧ Ready 0 0x32 legalCall regsN (op 0 0x32 [(42, 1), (0, 8)]) st :=
  ⟨rdy, rdy, rdy, rdy⟩

/-- st in which tile 0 belongs to no partition. -/
def stNone : State := wr st (partPg + 0x140) 0

theorem wit_IdentityTimeAndSpark :
    Ready 0 0x40 legalRd regsN (op 0 0x40 [(42, 1)]) st ∧ Ready 0 0x41 legalRd regsN (op 0 0x41 [(42, 1)]) st ∧
    Ready 0 0x42 legalRd regsN (op 0 0x42 [(42, 1)]) st ∧ partOfTile st 0 = some 0 ∧
    Ready 0 0x42 legalRd regsN (op 0 0x42 [(42, 1)]) stNone ∧ partOfTile stNone 0 = none ∧
    Ready 0 0x50 legalR regsC (op 0 0x50 [(42, 1), (36, 2), (30, 3)]) st ∧
    Ready 0 0x51 legalR regsC (op 0 0x51 [(42, 1), (36, 2), (30, 3)]) st :=
  ⟨rdy, rdy, rdy, by decide +kernel, rdy, by decide +kernel, rdy, rdy⟩

/-- The command answers a next state of which P holds. -/
def gives (o : Out) (P : State → Bool) : Bool :=
  match o with
  | .next t => P t
  | _ => false

/-! ### Operations with slot operands -/

/-- st with slots 1, 2 and 3 FULL, whose addresses are in a1, a2 and a3; s1 holds n, s2 x, s3 y. -/
def stV (n x y : W64) : State :=
  let s := stR [(1, n), (2, x), (3, y), (33, 512), (34, 1024), (35, 1536)]
  { s with tl := { s.tl with tags := [(1, .full), (2, .full), (3, .full)] } }

/-- No slot waits, and no shadow is needed. -/
theorem okSlots {i : Issue} {s : State} {uses : List (Nat × Use)}
    (h : firstBlocked s i.tile (i.task s) uses = none ∧ (shadowAll (i.here s) i.tile (i.task s) uses == some (i.here s)) = true := by
      decide +kernel) : SlotsOk i s uses (i.here s) := ⟨h.1, by simpa using h.2⟩

theorem okRanges {i : Issue} {s : State} {rs : List VRange}
    (h : rangesFault s i.tile rs = none ∧ firstBlocked s i.tile (i.task s) (usesOf rs) = none ∧
      (shadowAll (i.here s) i.tile (i.task s) (usesOf rs) == some (i.here s)) = true := by decide +kernel) :
    RangesOk i s rs (i.here s) := ⟨h.1, h.2.1, by simpa using h.2.2⟩

/-- LD of 8 bytes at the last of slot 1, and ST of one byte at the last of slot 0, tagged. -/
def ldW : Issue := op 6 0x01 [(42, 5), (39, 1), (37, 3), (35, 2), (0, 504)]
def stW : Issue := op 6 0x02 [(42, 5), (39, 0), (37, 0), (35, 1), (0, 511)]
/-- SLOT.FILL of 512 bytes at slot 0, and SLOT.COPY of 512 bytes from slot 1 to it. -/
def fillW : Issue := op 6 0x10 [(45, 0), (37, 1), (31, 5), (29, 1)]
def copyW : Issue := op 6 0x11 [(45, 0), (42, 1), (37, 1), (29, 1), (27, 2)]

theorem wit_LoadsStoresFillCopy :
    (Ready 6 0x01 (legalM 2 true) regsLd ldW (stV 0 0 0) ∧ badRange (stV 0 0 0) 0 (lsAddr ldW (stV 0 0 0)) (lsBytes ldW) = false ∧
      lsAddr ldW (stV 0 0 0) % lsBytes ldW = 0 ∧
      SlotsOk ldW (stV 0 0 0) [(lsAddr ldW (stV 0 0 0) / 512, ldUse (fTag ldW.w))] (ldW.here (stV 0 0 0))) ∧
    (Ready 6 0x02 (legalM 1 false) regsSt stW (stV 0 0 0) ∧ badRange (stV 0 0 0) 0 (lsAddr stW (stV 0 0 0)) (lsBytes stW) = false ∧
      lsAddr stW (stV 0 0 0) % lsBytes stW = 0 ∧
      SlotsOk stW (stV 0 0 0) [(lsAddr stW (stV 0 0 0) / 512, stUse (fTag stW.w))] (stW.here (stV 0 0 0))) ∧
    (Ready 6 0x10 legalFill regsFill fillW (stV 512 0 0) ∧ slotN fillW (stV 512 0 0) = 512 ∧
      (badRange (stV 512 0 0) 0 (slotD fillW (stV 512 0 0)) 512 = false ∧ slotD fillW (stV 512 0 0) % 32 = 0) ∧
      SlotsOk fillW (stV 512 0 0) (rangeUses (slotD fillW (stV 512 0 0)) 512 .produce) (fillW.here (stV 512 0 0))) ∧
    (Ready 6 0x11 legalCopy regsCopy copyW (stV 512 0 0) ∧ slotN copyW (stV 512 0 0) = 512 ∧
      rangesOverlap (slotD copyW (stV 512 0 0)) 512 (slotA copyW (stV 512 0 0)) 512 = false ∧
      (badRange (stV 512 0 0) 0 (slotD copyW (stV 512 0 0)) 512 = false ∧ slotD copyW (stV 512 0 0) % 32 = 0) ∧
      (badRange (stV 512 0 0) 0 (slotA copyW (stV 512 0 0)) 512 = false ∧ slotA copyW (stV 512 0 0) % 32 = 0) ∧
      SlotsOk copyW (stV 512 0 0) (rangeUses (slotD copyW (stV 512 0 0)) 512 .produce ++
        rangeUses (slotA copyW (stV 512 0 0)) 512 (skUse (fSk copyW.w))) (copyW.here (stV 512 0 0))) :=
  ⟨⟨rdy, by decide +kernel, by decide +kernel, okSlots⟩, ⟨rdy, by decide +kernel, by decide +kernel, okSlots⟩,
    ⟨rdy, by decide +kernel, by decide +kernel, okSlots⟩,
    ⟨rdy, by decide +kernel, by decide +kernel, by decide +kernel, by decide +kernel, okSlots⟩⟩

/-- SLOT.TAG of function f on s1 slots from slot a1. -/
def tagW (f : Nat) : Issue := op 6 0x20 [(45, 1), (40, 1), (36, f)]

/-- The four functions on one slot, and on all 32,768; SLOT.TEST of the last slot. -/
theorem wit_SlotTags :
    (∀ f ∈ [0, 1, 2, 3], ∀ c ∈ [(1, 32767), (32768, 0)],
      let s := stR [(1, BitVec.ofNat 64 c.1), (33, BitVec.ofNat 64 c.2), (34, 32767)]
      Ready 6 0x20 (fun w => decide (bitsOf w 39 36 ≤ 3) && zero w 35 0) (fun w => [fAd w, bitsOf w 44 40]) (tagW f) s ∧
      bitsOf (tagW f).w 39 36 = f ∧ slotD (tagW f) s = c.2 ∧ ((tagW f).reg s 1).toNat = c.1 ∧
      badRange s 0 (512 * c.2) (512 * c.1) = false ∧ (tagW f).task s = none ∧
      ∀ x, shadowedByOther s 0 none x = false) ∧
    (Ready 6 0x21 (fun w => specOk (fD w) && zero w 38 0) (fun w => [32 + bitsOf w 41 39]) (op 6 0x21 [(42, 5), (39, 2)])
        (stR [(34, 32767)]) ∧ badRange (stR [(34, 32767)]) 0 (512 * 32767) 512 = false) := by
  refine ⟨fun f hf c hc => ⟨rdy ?_, ?_, ?_, ?_, ?_, ?_, fun x => rfl⟩, rdy, by decide +kernel⟩ <;> revert c <;> revert f <;> decide +kernel

theorem wit_StoresChangeTheirBytes :
    rangeHitsCode st 0 none (16773119 - 512) 512 = false ∧
    (tileRunning st 0 = true ∧ ∀ x, 512 * 32760 ≤ x ∧ x < 512 * 32760 + 4096 → inCode st 0 (x / 512) = true) := by
  refine ⟨by decide +kernel, by decide +kernel, ?_⟩
  intro x hx
  have h : ∀ y < 8, inCode st 0 (32760 + y) = true := by decide +kernel
  have e : x / 512 = 32760 + (x / 512 - 32760) := by omega
  rw [e]; exact h _ (by omega)

theorem wit_TagsSettle :
    firstBlocked (stV 0 0 0) 0 none [(32767, .produce), (1, .consume), (2, .read)] = none ∧
    (∀ u ∈ [(32767, Use.produce), (1, .consume), (2, .read)], u.1 < 32768) := by decide +kernel

/-! ### The vector and special-function units -/

/-- A word of form V: D at a0, A at a1, B at a2 and C at a3 where they are used, SN = s1, SX = s2 where it is used. -/
def vop (u o : Nat) (b c x : Bool) (l : List (Nat × Nat)) : Issue :=
  op u o ([(45, 0), (42, 1), (39, if b then 2 else 0), (36, if c then 3 else 0), (31, 1), (26, if x then 2 else 0)] ++ l)

/-- The fields of the elementwise operations. -/
def mapRows : List (Nat × VUses) :=
  [(0x01, { ab := true }), (0x02, { ab := true }), (0x03, { ab := true }), (0x04, { ab := true }), (0x05, { ab := true }), (0x06, {}),
    (0x07, { ab := true, ac := true, consC := true }), (0x08, { sx := true })]

/-- stV with slots 0 and 3 EMPTY, for a destination at a3. -/
def stC (n x y : W64) : State :=
  let s := stV n x y
  { s with tl := { s.tl with tags := [(1, .full), (2, .full)] } }

theorem wit_VectorElementwise :
    (∀ c ∈ mapRows,
      let i := vop 1 c.1 c.2.ab c.2.ac c.2.sx [(16, 1)]
      Ready 1 c.1 (legalArith c.2) (regsV c.2) i (stV 1 0 0) ∧ vN i (stV 1 0 0) = 1 ∧
        RangesOk i (stV 1 0 0) (rangesV c.2 i (stV 1 0 0)) (i.here (stV 1 0 0))) ∧
    (let i := vop 1 0x10 false true true [(22, 0), (18, 6), (17, 1)]
     let s := stC 32 7 0
     Ready 1 0x10 legalVcvt (fun w => [fAd w, fAa w, fSn w] ++ (if isMx (fFs w) then [fAbV w] else []) ++
        (if isMx (fFd w) then [fAc w] else []) ++ (if fGrad w then [fSx w, fSx w + 1] else [])) i s ∧ vN i s = 32 ∧
      isMx (fFs i.w) = false ∧ isMx (fFd i.w) = true ∧
      RangesOk i s [⟨vD i s, elemBytes 6 32, .produce⟩, ⟨vA i s, elemBytes 0 32, vUse i 16⟩, ⟨vC i s, ceilDiv 32 32, .produce⟩]
        (i.here s)) ∧
    (let i := vop 1 0x10 true false false [(22, 6), (18, 0), (16, 1), (15, 1)]
     let s := stC 33 0 0
     Ready 1 0x10 legalVcvt (fun w => [fAd w, fAa w, fSn w] ++ (if isMx (fFs w) then [fAbV w] else []) ++
        (if isMx (fFd w) then [fAc w] else []) ++ (if fGrad w then [fSx w, fSx w + 1] else [])) i s ∧ vN i s = 33 ∧
      isMx (fFs i.w) = true ∧ isMx (fFd i.w) = false ∧
      RangesOk i s [⟨vD i s, elemBytes 0 33, .produce⟩, ⟨vA i s, elemBytes 6 33, vUse i 16⟩, ⟨vB i s, ceilDiv 33 32, vUse i 15⟩]
        (i.here s)) := by
  refine ⟨fun c hc => ⟨rdy ?_, ?_, okRanges ?_⟩, ⟨rdy, by decide +kernel, by decide +kernel, by decide +kernel, okRanges⟩,
    rdy, by decide +kernel, by decide +kernel, by decide +kernel, okRanges⟩ <;> revert c <;> decide +kernel

theorem wit_VectorReductionsAndBackward :
    (∀ c ∈ [(0x18, false), (0x19, false), (0x1A, true)],
      let i := op 1 c.1 [(42, 1), (39, if c.2 then 2 else 0), (31, 1), (26, 4), (16, 1)]
      let s := stV 1 0 0
      Ready 1 c.1 (legalReduce c.2) (fun w => [fAa w, fSn w] ++ (if c.2 then [fAbV w] else [])) i s ∧ vN i s = 1 ∧
      RangesOk i s ([VRange.mk (vA i s) (elemBytes (fFs i.w) 1) (vUse i 16)] ++
        (if c.2 then [VRange.mk (vB i s) (elemBytes (fFs i.w) 1) (vUse i 15)] else [])) (i.here s)) ∧
    (∀ f ∈ [0, 1, 2, 3, 4],
      let i := vop 1 0x20 true false (f == 1) [(8, f)]
      let u : VUses := { ab := true, sx := fFnV i.w == 1, maxFn := 4 }
      let s := stV 1 0 0
      Ready 1 0x20 (legalArith u) (regsV u) i s ∧ vN i s = 1 ∧ RangesOk i s (rangesV u i s) (i.here s)) ∧
    (let i := vop 1 0x21 true false true [(22, 1), (18, 1)]
     let s := stV 4 2 0
     let n := elemBytes 1 4
     Ready 1 0x21 (legalArith { ab := true, sx := true }) (fun w => [fAd w, fAa w, fAbV w, fSn w, fSx w]) i s ∧
      fFs i.w = 1 ∧ vN i s = 4 ∧ vX i s % 65536 = 2 ∧
      RangesOk i s [⟨vD i s, n, .produce⟩, ⟨vA i s, n, vUse i 16⟩, ⟨vB i s, n, vUse i 15⟩] (i.here s)) ∧
    (∀ f ∈ [0, 1],
      let i := vop 1 0x22 true true true [(14, 1), (8, f)]
      let s := stV 2 1 0
      let n := elemBytes 0 2
      Ready 1 0x22 (legalArith { ab := true, ac := true, sx := true, consC := true, maxFn := 1 })
        (fun w => [fAd w, fAa w, fAbV w, fAc w, fSn w, fSx w]) i s ∧ fFs i.w = 0 ∧ vN i s = 2 ∧ vX i s % 65536 = 1 ∧
      RangesOk i s [⟨vD i s, n, .produce⟩, ⟨vA i s, n, vUse i 16⟩, ⟨vB i s, n, vUse i 15⟩, ⟨vC i s, elemBytes 0 1, vUse i 14⟩]
        (i.here s)) := by
  refine ⟨fun c hc => ⟨rdy ?_, ?_, okRanges ?_⟩, fun f hf => ⟨rdy ?_, ?_, okRanges ?_⟩,
    ⟨rdy, by decide +kernel, by decide +kernel, by decide +kernel, okRanges⟩,
    fun f hf => ⟨rdy ?_, ?_, ?_, ?_, okRanges ?_⟩⟩ <;> first | (revert c; decide +kernel) | (revert f; decide +kernel)

/-- VZMAP of 16 BF16 elements in one row, and of 32 MX elements; VROUTE of one row of 8 experts, k = 8. -/
theorem wit_VectorMapsAndRoutes :
    (let i := vop 1 0x28 false false true [(22, 1)]
     let s := stV 16 16 0
     Ready 1 0x28 (fun w => vFieldsOk { ab := isMx (fFs w), sx := true, fd := false } w && decide (1 ≤ fFs w) &&
        decide (fFs w ≤ 0xA) && !(fGrad w)) (fun w => [fAd w, fAa w, fSn w, fSx w] ++ (if isMx (fFs w) then [fAbV w] else [])) i s ∧
      vN i s = 16 ∧ fFs i.w = 1 ∧ vX i s % 65536 = 16 ∧
      RangesOk i s [⟨vD i s, 8 * ceilDiv (ceilDiv 1 16 * (16 / 16)) 64, .produce⟩, ⟨vA i s, elemBytes 1 16, vUse i 16⟩] (i.here s)) ∧
    (let i := vop 1 0x28 true false true [(22, 5)]
     let s := stV 32 32 0
     Ready 1 0x28 (fun w => vFieldsOk { ab := isMx (fFs w), sx := true, fd := false } w && decide (1 ≤ fFs w) &&
        decide (fFs w ≤ 0xA) && !(fGrad w)) (fun w => [fAd w, fAa w, fSn w, fSx w] ++ (if isMx (fFs w) then [fAbV w] else [])) i s ∧
      vN i s = 32 ∧ fFs i.w = 5 ∧ vX i s % 65536 = 32 ∧
      RangesOk i s [⟨vD i s, 8 * ceilDiv (ceilDiv 1 16 * (32 / 16)) 64, .produce⟩, ⟨vA i s, elemBytes 5 32, vUse i 16⟩,
        ⟨vB i s, ceilDiv 32 32, vUse i 15⟩] (i.here s)) ∧
    (let i := vop 1 0x30 false true true []
     let s := stC 1 (8 + 8 * 2 ^ 16 + 2 ^ 24) 0
     Ready 1 0x30 (fun w => vFieldsOk { ac := true, sx := true, fd := false } w && zero w 25 22 && !(fGrad w) &&
        decide (fSx w ≤ 30)) (fun w => [fAd w, fAa w, fAc w, fSn w, fSx w, fSx w + 1]) i s ∧
      vN i s = 1 ∧ vX i s % 512 = 8 ∧ bitsOf (vX i s) 19 16 = 8 ∧
      RangesOk i s [⟨vD i s, 64, .produce⟩, ⟨vA i s, 32, vUse i 16⟩, ⟨vC i s, 64, .produce⟩] (i.here s)) :=
  ⟨⟨rdy, by decide +kernel, by decide +kernel, by decide +kernel, okRanges⟩,
    ⟨rdy, by decide +kernel, by decide +kernel, by decide +kernel, okRanges⟩,
    ⟨rdy, by decide +kernel, by decide +kernel, by decide +kernel, okRanges⟩⟩

theorem wit_SpecialFunctions :
    (∀ f ∈ List.range 10, ∀ g ∈ [0, 1],
      let i := vop 2 0x01 false false (g == 1) [(22, 1), (18, 1), (17, g), (8, f)]
      let s := stV 2 0 0
      Ready 2 0x01 legalSfuFn (fun w => [fAd w, fAa w, fSn w] ++ (if fGrad w then [fSx w, fSx w + 1] else [])) i s ∧ fFs i.w = 1 ∧
      vN i s = 2 ∧ RangesOk i s [⟨vD i s, elemBytes 1 2, .produce⟩, ⟨vA i s, elemBytes 1 2, vUse i 16⟩] (i.here s)) ∧
    (∀ f ∈ List.range 4,
      let i := vop 2 0x02 true false false [(8, f)]
      let s := stV 1 0 0
      Ready 2 0x02 (legalArith { ab := true, maxFn := 3 }) (fun w => [fAd w, fAa w, fAbV w, fSn w]) i s ∧ fFs i.w = 0 ∧
      vN i s = 1 ∧ RangesOk i s [⟨vD i s, elemBytes 0 1, .produce⟩, ⟨vA i s, elemBytes 0 1, vUse i 16⟩,
        ⟨vB i s, elemBytes 0 1, vUse i 15⟩] (i.here s)) ∧
    (∀ f ∈ List.range 10, Ready 2 0x03
      (fun w => specOk (fD w) && specOk (fA w) && fB w == 0 && decide (bitsOf w 29 25 ≤ 9) && zero w 24 0) regsA
      (op 2 0x03 [(42, 5), (36, 1), (25, f)]) (stV 0x3F800000 0 0)) := by
  refine ⟨fun f hf g hg => ⟨rdy ?_, ?_, ?_, okRanges ?_⟩, fun f hf => ⟨rdy ?_, ?_, ?_, okRanges ?_⟩, fun f hf => rdy ?_⟩ <;>
    first | (revert g; revert f; decide +kernel) | (revert f; decide +kernel)

/-! ### OPT.STEP -/

/-- A parameter block at slot 1 for SGD, FP32 working weights and no mask; a slot list at slot 2 that names slots 8 to 15, of which 8 to 11
are FULL. -/
def stO (alg : Byte) : State :=
  let s := stV 1 0 0
  { s with tl := { s.tl with
      spad := [(512, alg), (513, 1)] ++ (List.range 8).map (fun k => (1024 + 2 * k, BitVec.ofNat 8 (8 + k)))
      tags := [(1, .full), (2, .full), (8, .full), (9, .full), (10, .full), (11, .full)] } }

/-- OPT.STEP with the block at a1, the slot list at a2, and n in s1. -/
def optW : Issue := op 1 0x38 [(45, 1), (42, 2), (37, 1)]

theorem wit_OptimizerStep :
    (∀ alg ∈ [1, 2, 3],
      let s := stO alg
      Ready 1 0x38 (fun w => zero w 36 0) (fun w => [fAd w, fAa w, bitsOf w 41 37]) optW s ∧
      vD optW s = 512 ∧ vA optW s = 1024 ∧ (optW.reg s (bitsOf optW.w 41 37)).toNat = 1 ∧
      badRange s 0 512 64 = false ∧ badRange s 0 1024 32 = false ∧
      pbOk (loadBytes s 0 (optW.task s) (spadEcc (optW.here s) 0 [(512, 64), (1024, 32)] .clean).1 512 64)
        (loadBytes s 0 (optW.task s) (spadEcc (optW.here s) 0 [(512, 64), (1024, 32)] .clean).1 1024 32) = (alg != 3)) ∧
    (∀ alg ∈ [1, 2],
      let s := stO alg
      let b := loadBytes s 0 (optW.task s) (spadEcc (optW.here s) 0 [(512, 64), (1024, 32)] .clean).1 512 64
      let l := loadBytes s 0 (optW.task s) (spadEcc (optW.here s) 0 [(512, 64), (1024, 32)] .clean).1 1024 32
      (∀ o ∈ optOperands b 1, badRange s 0 (512 * optSlot l o.1) o.2 = false) ∧ ninthLayer s 0 = false ∧
      SlotsOk optW s (optUses b l 1) (optW.here s)) := by
  refine ⟨fun alg ha => ⟨rdy ?_, ?_, ?_, ?_, ?_, ?_, ?_⟩, fun alg ha => ⟨?_, ?_, okSlots ?_⟩⟩ <;> revert alg <;> decide +kernel

/-! ### HBM, tiers and flash -/

/-- A block operation of 32 bytes at address 4,096 of partition 0, in a stage. -/
def mop (stage : OpStage) (kind : OpKind) : MemOp :=
  { id := 1, owners := [.blw 1], tile := some 0, kind := kind, cls := 0, part := 0, addr := 4096, len := 32, data := [], gather := false,
    watch := false, ctl := (ctlOf st 0 4096).1, q := (ctlOf st 0 4096).2, stage := stage, entered := 0, arrived := 0, held := false,
    aged := false, failed := false, noFrame := false }

/-- st with one block operation. -/
def stM (stage : OpStage) (kind : OpKind) : State := { st with mem := { st.mem with ops := [mop stage kind] } }

/-- A descriptor that the bank cap has held since time 0. -/
def heldDesc : BDesc :=
  { id := 3, kind := .streamIn, thr := none, ring := none, task := none, src := 0, list := none, base := 0, sk := 0, pieces := [],
    live := [], slots := [], tag := false, capped := some 0, behind := false, fail := none, since := 0, scope := false, drainId := 0,
    atDrain := false }

theorem wit_HbmOperations :
    (let s := stM .released .write
     findOp s 1 = some (mop .released .write) ∧ heldByMigration s 0 4096 true = false ∧
      behindSource s (mop .released .write) = false ∧ tierAt s 0 4096 = 0) ∧
    (∀ k ∈ [OpKind.read, .write, .add 1, .fadd 2 1, .fand 3 1, .cas 2 0 1],
      let s := stM .arrived k
      findOp s 1 = some (mop .arrived k) ∧ canAdmit s (mop .arrived k) = true ∧
      rdB (chargeClass (tick s 0) (mop .arrived k).ctl 0 (mop .arrived k).charge) (ctlPg (mop .arrived k).ctl 0 + hInj) 31 = false) ∧
    (let s := stM .admitted .read
     chooseOp (tick s 0) (mop .admitted .read).ctl (mop .admitted .read).pc = some (mop .admitted .read) ∧
      (mop .admitted .read).ctl < 32 ∧ (mop .admitted .read).pc < 64 ∧ rdB s (ctlPg (mop .admitted .read).ctl 0 + hInj) 31 = false) ∧
    (findOp (stM .admitted .read) 1 = some (mop .admitted .read) ∧ (mop .admitted .read).arrived + 2000 < max st.time 2001) ∧
    gatherDue (tick (stM .sorter .read) 0) 0 = true ∧
    (heldDesc ∈ cGet (fun _ => []) [(0, [heldDesc])] 0 ∧ heldDesc.capped = some 0 ∧ 0 + 2000 < max st.time 2001) := by
  refine ⟨by decide +kernel, ?_, by decide +kernel, by decide +kernel, by decide +kernel, by decide +kernel⟩
  intro k hk
  revert k; decide +kernel

theorem wit_HbmUpkeep :
    rdB (wr State.reset (ctlPg 31 0 + 0x100) 2) (ctlPg 31 0 + 0x100) 1 = true ∧ rdB State.reset (ctlPg 31 0 + hInj) 31 = false ∧
    94 < 95 := by decide +kernel

/-- st whose partition has the host and flash tiers, 16 pages, the write's page and count latched, and page 5 in a tier with an entry. -/
def stT (e : PageEntry) : State :=
  let s := wr (wr (wr (wr (wr st (tierPg 0 + 0x104) 3) (tierPg 0 + 0x108) 16) (tierPg 0 + 0x120) 5) (tierPg 0 + 0x128) 1) (tierPg 0 + 0x118) 0
  { s with mem := { s.mem with pages := [(5, e)] } }

/-- TIER_CMD with GO: operation, TIER, HINT and USER. -/
def tierW (o tier hint user : Nat) : RegWrite :=
  { who := .hd, off := BitVec.ofNat 28 (tierPg 0 + 0x12C), val := BitVec.ofNat 32 (2 ^ 31 + user * 2 ^ 12 + hint * 2 ^ 9 + tier * 2 ^ 6 + o),
    now := 0 }

theorem tierOk {o tier hint user : Nat} {e : PageEntry}
    (h : let s := stT e
         let r := tierW o tier hint user
         (r.off.toNat = tierPg 0 + 0x12C ∧ partOfSlice s 0 = some 0 ∧ lowSlice s 0 = 0 ∧ rdB s (tierPg 0 + 0x130) 8 = false ∧
          r.val.toNat.testBit 31 = true ∧ bitsOf r.val.toNat 3 0 = o ∧ rdF s (tierPg 0 + 0x128) 26 0 = 1 ∧
          rd64 s (tierPg 0 + 0x120) = 5 ∧ 5 < partPages s 0 ∧ tiered s 0 = true) := by decide +kernel) :
    TierCommand o (tierW o tier hint user) (stT e) 0 0 5 := by
  obtain ⟨a, b, c, d, f, g, i, j, k, l⟩ := h
  exact ⟨a, b, c, d, f, g, i, j, k, l⟩

theorem some_of_any {α : Type} {o : Option α} {p : α → Bool} (h : o.any p = true) : ∃ x, o = some x ∧ p x = true := by
  cases o with
  | none => simp at h
  | some x => exact ⟨x, rfl, by simpa using h⟩

/-- A frame of a tier is free for partition 0. -/
theorem frameOf {o tier hint user : Nat} {e : PageEntry}
    (h : (takeFrame 3 (tierBusy (tierW o tier hint user) (stT e) 0) 0 (cmdTier (tierW o tier hint user))).any
      (fun x => lowSlice x.2 0 == 0) = true := by decide +kernel) :
    ∃ f sF, takeFrame 3 (tierBusy (tierW o tier hint user) (stT e) 0) 0 (cmdTier (tierW o tier hint user)) = some (f, sF) ∧
      lowSlice sF 0 = 0 := by
  obtain ⟨⟨f, sF⟩, hx, hp⟩ := some_of_any h
  exact ⟨f, sF, hx, by simpa using hp⟩

theorem wit_TierCommands :
    (let s := stT {}
     TierCommand 1 (tierW 1 0 3 0) s 0 0 5 ∧ (pageEntry s 0 5).tier = 3 ∧ cmdTier (tierW 1 0 3 0) < 3 ∧ cmdHint (tierW 1 0 3 0) ≤ 3 ∧
      tierOn s 0 0 = true ∧ ∃ f sF, takeFrame 3 (tierBusy (tierW 1 0 3 0) s 0) 0 (cmdTier (tierW 1 0 3 0)) = some (f, sF) ∧
        lowSlice sF 0 = 0) ∧
    (let s := stT { tier := 2, user := true }
     TierCommand 2 (tierW 2 0 0 1) s 0 0 5 ∧ (pageEntry s 0 5).tier < 3 ∧ pinned s 0 5 = false ∧ cmdUser (tierW 2 0 0 1) = true ∧
      (pageEntry s 0 5).migrating = false) ∧
    (let s := stT { tier := 2, hint := 2 }
     TierCommand 3 (tierW 3 0 0 0) s 0 0 5 ∧ (pageEntry s 0 5).tier ≠ cmdTier (tierW 3 0 0 0) ∧ cmdTier (tierW 3 0 0 0) = 0 ∧
      tierOn s 0 0 = true ∧ pinned s 0 5 = false ∧ (pageEntry s 0 5).user = false ∧ (pageEntry s 0 5).migrating = false ∧
      (pageEntry s 0 5).hint ≠ 1 ∧ migrating s 0 < 32 ∧
      ∃ f sF, takeFrame 3 (tierBusy (tierW 3 0 0 0) s 0) 0 (cmdTier (tierW 3 0 0 0)) = some (f, sF) ∧ lowSlice sF 0 = 0) ∧
    (let s := stT { tier := 0 }
     TierCommand 4 (tierW 4 0 3 1) s 0 0 5 ∧ (pageEntry s 0 5).tier < 3 ∧ cmdHint (tierW 4 0 3 1) ≤ 3 ∧ pinned s 0 5 = false ∧
      (pageEntry s 0 5).migrating = false) ∧
    (let s := stT { tier := 0, migrating := true }
     let m : Migration := { part := 0, page := 5, tier := 1, frame := 7 }
     let s := { s with mem := { s.mem with migs := [m] } }
     s.mem.migs.find? (fun m => m.part == 0 && m.page == 5) = some m ∧ s.mem.ops = [] ∧ cmdOf s 0 = none) :=
  ⟨⟨tierOk, by decide +kernel, by decide +kernel, by decide +kernel, by decide +kernel, frameOf⟩,
    ⟨tierOk, by decide +kernel, by decide +kernel, by decide +kernel, by decide +kernel⟩,
    ⟨tierOk, by decide +kernel, by decide +kernel, by decide +kernel, by decide +kernel, by decide +kernel, by decide +kernel,
      by decide +kernel, by decide +kernel, frameOf⟩,
    ⟨tierOk, by decide +kernel, by decide +kernel, by decide +kernel, by decide +kernel⟩, by decide +kernel⟩

theorem wit_FlashAndTranslation :
    (tiered (stT {}) 0 = true ∧ 15 < partPages (stT {}) 0) ∧ 17179869184 ≤ ({ st.mem with ftlSince := 17179869184 } : Memory).ftlSince := by
  decide +kernel

/-! ### Bellows and Tongs -/

/-- A descriptor of BLW.DESC. -/
def desc (op flags rows rb mem ms sp ss arg : Nat) : List Byte :=
  leBytes 1 op ++ leBytes 1 flags ++ leBytes 2 rows ++ leBytes 4 rb ++ leBytes 8 mem ++ leBytes 4 ms ++ leBytes 4 sp ++ leBytes 4 ss ++
    leBytes 4 arg

/-- st with a descriptor at address 1,024, in a1. -/
def stD (b : List Byte) : State :=
  let s := stR [(33, 1024)]
  { s with tl := { s.tl with spad := cSetList (fun _ => 0) [] 1024 b } }

/-- BLW.DESC with D = s5. -/
def descW : Issue := op 4 0x01 [(42, 5), (39, 1)]

theorem descOk {o : Nat} {b : List Byte}
    (h : (decide (dsOp (descBytes descW (stD b)) = o) && dsValid (stD b) 0 (descBytes descW (stD b)) &&
      readyB 4 1 (fun w => specOk (fD w) && zero w 38 0) (fun w => [fAb w]) descW (stD b) &&
      !(badRange (stD b) 0 (descAt descW (stD b)) 32) && descAt descW (stD b) % 32 == 0 &&
      !(rdB (stD b) (tilePg 0 5 + hInj) 31)) = true := by decide +kernel) : DescReady o descW (stD b) := by
  simp only [Bool.and_eq_true, decide_eq_true_eq, beq_iff_eq, Bool.not_eq_true'] at h
  obtain ⟨⟨⟨⟨⟨a, b'⟩, c⟩, d⟩, e⟩, f⟩ := h
  exact ⟨rdy c, ⟨d, e⟩, rfl, a, b', rfl, f, (by decide : 0 < 32)⟩

/-- Transfers of one 32-byte row at the partition's first and last addresses, a GATHER of one element, a DRAIN. -/
theorem wit_BellowsDescriptors :
    (∀ c ∈ [(1, desc 1 0 1 32 412316860384 0 0 32 0), (2, desc 2 0 1 32 0 0 16773088 32 0), (3, desc 3 2 1 32 0 32 0 32 0),
        (4, desc 4 0 1 32 0 2048 0 32 0)],
      DescReady c.1 descW (stD c.2) ∧ blwTags (stD c.2) 0 < 96 ∧ partOfTile (stD c.2) 0 = some 0 ∧
      (c.1 ≠ 4 → badPiece (stD c.2) 0 (dsPieces (descBytes descW (stD c.2))) = none) ∧
      (c.1 ≤ 2 → ∀ x ∈ dsPieces (descBytes descW (stD c.2)), rangeHitsCode (stD c.2) 0 none x.spad x.len = false)) ∧
    (let s := stD (desc 5 0 0 0 0 0 0 0 65535)
     DescReady 5 descW s ∧ (dsFlags (descBytes descW s)).testBit 2 = false ∧ descsOf s 0 = []) ∧
    (let i := op 4 0x02 [(42, 5), (39, 1), (34, 1)]
     let s := stR [(1, 4096), (33, 412316856320)]
     Ready 4 0x02 (fun w => specOk (fD w) && zero w 33 0) (fun w => [fAb w, bitsOf w 38 34]) i s ∧ (descsOf s 0).length < 32 ∧
      partOfTile s 0 = some 0 ∧ (i.reg s (fAb i.w)).toNat + (i.reg s (bitsOf i.w 38 34)).toNat = partPages s 0 * pageBytes ∧
      s.blw.window = [] ∧ s.blw.descs = []) := by
  refine ⟨fun c hc => ⟨descOk ?_, ?_, ?_, ?_, ?_⟩, ⟨descOk, by decide +kernel, by decide +kernel⟩,
    ⟨rdy, by decide +kernel, by decide +kernel, by decide +kernel, by decide +kernel, by decide +kernel⟩⟩ <;> revert c <;> decide +kernel

/-- A descriptor with one 512-byte piece, into or out of slot 0. -/
def piece : BPiece := { mem := 4096, len := 512, spad := 0, off := 0 }
def liveDesc (k : BKind) : BDesc :=
  { id := 3, kind := k, thr := some (0, 0, 5), ring := none, task := none, src := 0, list := none, base := 0, sk := 0, pieces := [piece],
    live := [], slots := [], tag := false, capped := none, behind := false, fail := none, since := 0, scope := false, drainId := 0,
    atDrain := false }
def stB (k : BKind) : State := { st with blw := { st.blw with descs := [(0, [liveDesc k])], nextId := 4 } }

theorem pieceOk {k : BKind}
    (h : let s := stB k
         ((descsOf s 0).find? (fun d => d.id == 3) = some (liveDesc k) ∧ partOfTile s 0 = some 0 ∧ blwTags s 0 < 96 ∧
          pieceCapped s 0 0 piece = false ∧ sorterRoom s 0 0 piece = true ∧ tierAt s 0 4096 = 0) := by decide +kernel) :
    NextPiece (stB k) 0 3 0 (liveDesc k) piece [] := by
  obtain ⟨a, b, c, d, e, f⟩ := h
  exact ⟨a, b, rfl, rfl, rfl, c, d, e, f⟩

/-- st with one request of a descriptor, its memory side done, and a window entry that is invalidated. -/
def bReq (write : Bool) : BReq :=
  { id := 7, tile := 0, desc := some 3, part := 0, piece := piece, write := write, task := none, tier := 0, data := [], win := none,
    failed := false }
def pfEntry : PfEntry :=
  { id := 9, part := 0, piece := piece, filled := false, left := [], inval := some false, fences := [], reissue := false, stale := false }
def stQ (write : Bool) : State := { st with blw := { st.blw with reqs := [bReq write], window := [(0, [pfEntry])] } }

theorem wit_BellowsRequests :
    (NextPiece (stB .streamIn) 0 3 0 (liveDesc .streamIn) piece [] ∧ NextPiece (stB .gather) 0 3 0 (liveDesc .gather) piece [] ∧
      ∀ k ∈ [BKind.streamIn, .gather], firstBlocked (stB k) 0 none ((firstSlots (liveDesc k) piece).map (fun x => (x, Use.produce))) = none ∧
        behindWrite (stB k) 0 0 piece = false) ∧
    ((stQ false).blw.reqs.find? (fun r => r.id == 7 && r.tile == 0) = some (bReq false) ∧
      requestReady (stQ false) (bReq false) = some false ∧ rangeHitsCode (stQ false) 0 none 0 512 = false) ∧
    (let s := { stQ true with blw := { (stQ true).blw with window := [] } }
     s.blw.reqs.find? (fun r => r.id == 7 && r.tile == 0) = some (bReq true) ∧ requestReady s (bReq true) = some false) ∧
    ((windowOf (stQ false) 0).find? (fun e => e.id == 9) = some pfEntry ∧ pfEntry.inval = some false ∧ pfEntry.reissue = false ∧
      pfEntry.filled = false) := by
  refine ⟨⟨pieceOk, pieceOk, by decide +kernel⟩, by decide +kernel, by decide +kernel, by decide +kernel⟩

/-- A word of form T: D = s4, MOD = s1, AR = a1, AL = a2, N = s2, VAL = s3. -/
def top (o n v : Nat) (al : Bool) (ty lk : Nat) : Issue :=
  op 5 o [(42, 4), (36, 1), (33, 1), (30, if al then 2 else 0), (24, n), (18, v), (14, ty), (12, lk)]

/-- Registers of the Tongs operations: module 5, target 412,316,856,320, local 512, count 4,096. -/
def stG : State := stR [(1, 5), (2, 4096), (3, 77), (33, 412316856320), (34, 512)]

/-- st with a dispatch: one expert, two tokens at most, rows of 32 bytes; the list at 512 names token 3, the table at 1,024. -/
def stE : State :=
  let s := stR [(1, 2 ^ 17 + 1), (2, 3 * 2 ^ 32 + 32), (3, 2048), (33, 1024), (34, 512)]
  { s with tl := { s.tl with spad := cSetList (fun _ => 0) [] 512 (leBytes 4 1 ++ List.replicate 28 0 ++ leBytes 4 3) } }

theorem wit_TongsOperations :
    (∀ c ∈ [(0x01, [0], [0, 1, 2], 0), (0x02, [0], [0, 1], 1), (0x03, [0, 1, 2, 3], [0, 1, 2], 2)],
      let i := top c.1 2 0 true 0 c.2.2.2
      Ready 5 c.1 (tLegal true true false c.2.1 c.2.2.1 39) (tRegs true true false) i stG ∧
      (tCount i stG = 4096 ∧ (badRange stG 0 (tLocal i stG) 4096 = false ∧ tLocal i stG % 32 = 0) ∧ tTarget i stG % 32 = 0) ∧
      i.task stG = none ∧ tngActive stG 0 < 32 ∧ tngTags stG 0 < 32 ∧ partOfTile stG 0 = some 0) ∧
    (∀ o ∈ [0x10, 0x11], Ready 5 o (tLegal false true false [2, 3] [0] 30) (tRegs false true false) (top o 2 0 false 3 0) stG ∧
      tTarget (top o 2 0 false 3 0) stG % targetSize 3 = 0) ∧
    (Ready 5 0x12 (tLegal false true true [2, 3] [0] 30) (tRegs false true true) (top 0x12 2 3 false 2 0) stG ∧
      tTarget (top 0x12 2 3 false 2 0) stG % targetSize 2 = 0) ∧
    (Ready 5 0x20 (tLegal false false true [0] [0] 39) (tRegs false false true) (top 0x20 0 3 false 0 0) stG ∧
      tTarget (top 0x20 0 3 false 0 0) stG % 8 = 0) ∧
    (let i := top 0x30 2 3 true 0 0
     Ready 5 0x30 (tLegal true true true [0] [0] 39) (tRegs true true true) i stE ∧ dispatchOk i stE ∧ i.task stE = none ∧
      tngActive stE 0 < 32 ∧ tngTags stE 0 < 32 ∧ partOfTile stE 0 = some 0) := by
  refine ⟨fun c hc => ⟨rdy ?_, ?_, ?_, ?_, ?_, ?_⟩, fun o ho => ⟨rdy ?_, ?_⟩, ⟨rdy, by decide +kernel⟩, ⟨rdy, by decide +kernel⟩,
    ⟨rdy, ⟨rfl, ?_⟩, by decide +kernel, by decide +kernel, by decide +kernel, by decide +kernel⟩⟩ <;>
    first | (revert c; decide +kernel) | (revert o; decide +kernel) | decide +kernel

/-- st with the ring of two modules in X, and a GET of 512 bytes from module 1 in Tongs, its request to issue or issued. -/
def tPiece : TPiece := { mod := 1, opc := .get, target := 8192, tlen := 512, loc := 0, llen := 512, off := 0, value := 0, last := false }
def tOp (ps : List TPiece) (live : List Nat) : TOp :=
  { id := 6, tile := 0, thr := 0, gen := 0, dest := 4, task := none, opc := .get, dispatch := false, lk := 1, etype := 0, job := 0,
    step := none, newVal := 0, pieces := ps, live := live, slots := [], tag := false, capped := none, fail := none, old := 0 }
def tReq : TReq :=
  { id := 8, tile := 0, op := 6, tag := 3, deadline := 1000, piece := tPiece, own := false, data := [], answer := none }
def stN (ps : List TPiece) (live : List Nat) (rs : List TReq) : State :=
  let s := wr (wr st (rtPg 0 + 0x104) 0x00010102) (tngPg 0 + 0x10C) 0
  { s with tng := { s.tng with ops := [tOp ps live], reqs := rs } }

/-- A GET that has come in for the partition of job 9. -/
def getPkt : ReqPkt :=
  { opc := .get, target := 0, source := 1, job := 9, addr := 412316859904, tile := 0, tag := 0, etype := 0, len := 512, data := [],
    step := none, inj := 0 }

theorem wit_TongsRequests :
    (let s := stN [tPiece] [] []
     findTOp s 0 6 = some (tOp [tPiece] []) ∧ partOfTile s 0 = some 0 ∧ tngTags s 0 < 32 ∧ tPiece.last = false ∧
      tPiece.mod ≠ selfMod s 0 ∧ hopTo s 0 tPiece.mod.toNat ≠ .noRoute ∧
      firstBlocked s 0 none (tPiece.slots.map (fun x => (x, (tOp [tPiece] []).use))) = none) ∧
    (let s := stN [] [8] [tReq]
     physOf s 0 = some 0 ∧ s.tng.reqs.find? (fun r => r.tile == 0 && r.tag == 3) = some tReq ∧ tReq.own = false ∧
      rdB s (tilePg 0 10 + hInj) 31 = false ∧ 1000 ≤ tReq.deadline ∧ tReq.deadline + 64 < max s.time 1065 ∧ s.lnk.answers = [] ∧
      tReq.answer = none) ∧
    (let s := wr st (tngPg 0 + 0x108) 9
     partOfJob s getPkt.job = some 0 ∧ partState s 0 = 2 ∧
      inPart s 0 getPkt.addr.toNat (reqSpan getPkt.opc getPkt.etype.toNat getPkt.len) = true) := by decide +kernel

/-! ### Control, tasks, tile control -/

/-- st whose tile has a shadow pool of 4 slots at slot 32,000 and the tasks l; thread 0 is a member of task m. -/
def stK (l : Cells (Option Task)) (m : Option (Fin 4)) : State :=
  let s := wr st (tilePg 0 0 + 0x114) (4 * 2 ^ 16 + 32000)
  { s with tl := { s.tl with tasks := l, thr := [(0, { st := .runnable, task := m })] } }

def task (n : Nat) (e : Option Bool) (f : Bool) : Option Task := some { failed := f, ending := e, reserved := n, shadows := [(1, 32000)] }

/-- st with a Tongs operation of thread 0 in progress. -/
def stF : State := { st with tng := { st.tng with ops := [tOp [] [8]] } }

/-- BARRIER 7 with COUNT n, and st with the threads l at barrier 7. -/
def barW (n : Nat) : Issue := op 7 0x02 [(45, 7), (38, n)]
def stBar (n : Nat) (l : List Nat) : State := { st with tl := { st.tl with barriers := [(7, some { count := n, arrived := l })] } }

def taskW (o : Nat) : Issue := op 7 o [(42, 5), (40, 3)]
def beginW (n : Nat) : Issue := op 7 0x10 [(42, 5), (40, 3), (0, n)]

theorem wit_BarriersAndTasks :
    (∀ m ∈ [1, 7], Ready 7 0x01 (fun w => bitsOf w 2 0 != 0 && zero w 47 3) noRegs (op 7 0x01 [(0, m)]) st ∧
      fencePending st 0 0 0 m = false) ∧
    (Ready 7 0x01 (fun w => bitsOf w 2 0 != 0 && zero w 47 3) noRegs (op 7 0x01 [(0, 4)]) stF ∧ fencePending stF 0 0 0 4 = true) ∧
    (∀ c ∈ [(1, st), (2, st), (64, stBar 64 (List.range' 1 62)), (64, stBar 64 (List.range' 1 63))],
      Ready 7 0x02 (fun w => decide (1 ≤ bitsOf w 44 38 ∧ bitsOf w 44 38 ≤ 64) && zero w 37 0) noRegs (barW c.1) c.2 ∧
      ((barrierOf c.2 0 7).getD { count := c.1, arrived := [] }).count = c.1 ∧ ThreadsOk c.2) ∧
    Ready 7 0x3F (fun w => zero w 47 0) noRegs (op 7 0x3F []) st ∧
    (∀ c ∈ [(1, [(3, task 4 none false)]), (4096, []), (4, []), (4, [(0, task 1 none false)])],
      Ready 7 0x10 legalBegin regsN (beginW c.1) (stK c.2 none) ∧ (beginW c.1).task (stK c.2 none) = none ∧
      taskK (beginW c.1) = 3 ∧ bitsOf (beginW c.1).w 12 0 = c.1 ∧ poolSlots (stK c.2 none) 0 = 4) ∧
    ((taskOf (stK [(3, task 4 none false)] none) 0 3).isSome = true ∧ taskOf (stK [] none) 0 3 = none ∧
      poolReserved (stK [] none) 0 + 4 ≤ 4 ∧ 4 < poolReserved (stK [(0, task 1 none false)] none) 0 + 4) ∧
    (∀ l ∈ [[(3, task 4 none false)], []], Ready 7 0x11 legalTask regsN (taskW 0x11) (stK l none) ∧ (taskW 0x11).task (stK l none) = none) ∧
    (∀ o ∈ [0x12, 0x13], ∀ m ∈ [none, some (3 : Fin 4)],
      Ready 7 o legalTask regsN (taskW o) (stK [(3, task 4 none false)] m) ∧
      taskOf (stK [(3, task 4 none false)] m) 0 (taskK (taskW o)) = task 4 none false ∧
      ((taskW o).task (stK [(3, task 4 none false)] m) = some (Fin.ofNat 4 (taskK (taskW o))) ↔ m = some 3)) ∧
    (∀ e ∈ [true, false], ∀ f ∈ [true, false],
      taskOf (stK [(3, task 4 (some e) f)] none) 0 3 = task 4 (some e) f ∧ taskBusy (stK [(3, task 4 (some e) f)] none) 0 3 = false) := by
  refine ⟨fun m hm => ⟨rdy ?_, ?_⟩, ⟨rdy, by decide +kernel⟩, fun c hc => ⟨rdy ?_, ?_, ?_⟩, rdy, fun c hc => ⟨rdy ?_, ?_, ?_, ?_, ?_⟩,
    by decide +kernel, fun l hl => ⟨rdy ?_, ?_⟩, fun o ho m hm => ⟨rdy ?_, ?_, ?_⟩, by decide +kernel⟩
  any_goals (revert c; decide +kernel)
  any_goals (revert m; revert o; decide +kernel)
  any_goals (revert m; decide +kernel)
  any_goals (revert l; decide +kernel)
  all_goals (unfold ThreadsOk; revert c; decide +kernel)

theorem test_barrier_releases_all : gives (exec (.barrier (barW 2)) (stBar 2 [1])) (fun t =>
    barrierOf t 0 7 == none && (thrOf t 0 0).st == .runnable) = true := by decide +kernel
theorem test_barrier_waits : gives (exec (.barrier (barW 2)) st) (fun t => (thrOf t 0 0).st == .blockedSync (.barrier 7)) = true := by
  decide +kernel
theorem test_fence_waits : gives (exec (.fence (op 7 0x01 [(0, 4)])) stF) (fun t => (thrOf t 0 0).st == .blockedXfer 4) = true := by
  decide +kernel
theorem test_halt : gives (exec (.halt (op 7 0x3F [])) st) (fun t => (thrOf t 0 0).st == .halted) = true := by decide +kernel
/-- TOO_LARGE is code 4, BUSY 3, NO_TASK 2 (R168). -/
theorem test_task_codes :
    (gives (exec (.taskBegin (beginW 5)) (stK [] none)) (fun t => xreg t 0 0 5 == 4) &&
      gives (exec (.taskBegin (beginW 1)) (stK [(3, task 1 none false)] none)) (fun t => xreg t 0 0 5 == 3) &&
      gives (exec (.taskJoin (taskW 0x11)) (stK [] none)) (fun t => xreg t 0 0 5 == 2)) = true := by decide +kernel
theorem test_task_begin_waits : gives (exec (.taskBegin (beginW 4)) (stK [(0, task 1 none false)] none)) (fun t =>
    (thrOf t 0 0).st == .blockedSync (.taskBegin 3 4 5)) = true := by decide +kernel

/-- A write of a register by HD. -/
def hdW (off v : Nat) : RegWrite := { who := .hd, off := BitVec.ofNat 28 off, val := BitVec.ofNat 32 v, now := 0 }

/-- st with tile 287's thread 63 halted, its start PC at the code region, or with it faulted. -/
def stH (x : Thread) : State :=
  let s := wr (wr (wr State.reset (tilePg 287 0 + 0x110) (8 * 2 ^ 16 + 32760)) (tilePg 287 1 + 0x508) 77) (tilePg 287 0 + 0x11C) 1
  { s with tl := { s.tl with thr := [(64 * 287 + 63, x)] } }

/-- A reset of tile 287 in progress, or done; tile 36 a spare of slice 0 and tile 0, of no partition, failed. -/
def stRst : State := wrB (wrB State.reset (tilePg 287 0 + 0x104) 3 true) (tilePg 287 0 + 0x104) 2 true
def stSpare : State := wrB (wr (wr State.reset (tilePg 0 0 + 0x108) 0) (tilePg 35 0 + 0x108) 0xFFFF) (tilePg 0 0 + 0x104) 4 true

theorem wit_ThreadControlAndResets :
    ((hdW (tilePg 287 1 + 0x510) 63).off.toNat = tilePg 287 1 + 0x510 ∧ bitsOf (hdW (tilePg 287 1 + 0x510) 63).val.toNat 5 0 = 63 ∧
      canStart (stH {}) 287 63 = true ∧ pcFault (stH {}) 287 (rd (stH {}) (tilePg 287 1 + 0x500)) = none ∧
      canStart (stH { st := .runnable }) 287 63 = false) ∧
    ((hdW (tilePg 287 1 + 0x514) 63).off.toNat = tilePg 287 1 + 0x514 ∧ (thrOf (stH { st := .faulted }) 287 63).st = .faulted) ∧
    ((hdW (tilePg 287 0 + 0x100) 4).off.toNat = tilePg 287 0 + 0x100 ∧ (hdW (tilePg 287 0 + 0x100) 4).val.toNat.testBit 2 = true) ∧
    (let s := stH { st := .blockedSlot 9 }
     rdF s (tilePg 287 0 + 0x11C) 19 0 = 1 ∧ (thrOf s 287 63).st.code = 2 ∧ (thrOf s 287 63).since + 1000 * 1 < max s.time 1001) ∧
    tileResetting State.reset 287 = false ∧
    (tileResetting stRst 287 = true ∧ tileTransfers stRst 287 = false ∧ rdB stRst (tilePg 287 0 + 0x104) 2 = true) ∧
    (swapNumber stSpare 0 = some 0 ∧ tileFailed stSpare 0 = true ∧ logicalOf stSpare 35 = 0xFFFF ∧ tileFailed stSpare 35 = false ∧
      sliceOf 0 = sliceOf 35 ∧ sliceIdle stSpare (sliceOf 0) = true ∧ spRestarting stSpare = false) := by decide +kernel

theorem test_thr_start : gives (exec (.tileThrStart (hdW (tilePg 287 1 + 0x510) 63)) (stH {})) (fun t =>
    thrOf t 287 63 == { st := .runnable, gen := 1 } && xreg t 287 63 32 == 77 && xreg t 287 63 0 == 0) = true := by decide +kernel
theorem test_thr_start_ignored : gives (exec (.tileThrStart (hdW (tilePg 287 1 + 0x510) 63)) (stH { st := .runnable })) (fun t =>
    rd t (tilePg 287 0 + 0x154) == 1 && thrOf t 287 63 == { st := .runnable }) = true := by decide +kernel
theorem test_thr_clr : gives (exec (.tileThrClr (hdW (tilePg 287 1 + 0x514) 63)) (stH { st := .faulted })) (fun t =>
    (thrOf t 287 63).st == .halted) = true := by decide +kernel
theorem test_halt_all : gives (exec (.haltAll (hdW (tilePg 287 0 + 0x100) 4)) (stH { st := .runnable })) (fun t =>
    (thrOf t 287 63).st == .halted) = true := by decide +kernel
/-- TILE_STUCK: [31:29] state, [23:18] thread, [14:0] slot (R162). -/
theorem test_watchdog : gives (exec (.tileWatchdog 287 63 1001) (stH { st := .blockedSlot 9 })) (fun t =>
    rd t (tilePg 287 0 + 0x124) == 0x40FC0009 && rdB t (tilePg 287 0 + hIntStat) 1) = true := by decide +kernel
theorem test_spare_swap : gives (exec (.spareSwap 0 35 true 0) stSpare) (fun t =>
    logicalOf t 35 == 0 && logicalOf t 0 == 0xFFFE && rd t (nocPg 0 + 0x200) == 0x80000023) = true := by decide +kernel

/-- A byte 9 in the shadow of slot 1. -/
def stCom (e : Bool) : State :=
  let s := stK [(3, task 4 (some e) false)] none
  { s with tl := { s.tl with spad := [(512 * 32000, 9)] } }
theorem test_task_commit : gives (exec (.taskCommitApply 0 3 0) (stCom true)) (fun t =>
    spByte t 0 512 == 9 && rd t (tilePg 0 0 + 0x14C) == 1 && taskOf t 0 3 == none) = true := by decide +kernel
theorem test_task_discard : gives (exec (.taskDiscardApply 0 3 0) (stCom false)) (fun t =>
    spByte t 0 512 == 0 && rd t (tilePg 0 0 + 0x150) == 1 && taskOf t 0 3 == none) = true := by decide +kernel

/-! ### The Quench unit and Temper -/

/-- st whose partition 0 has a membership table of one module at 8,192 and its vote area at 4,096: not armed. The CRC32C of four zero bytes
is 0x48674BC7. -/
def stA0 : State :=
  wr (wr64 (wr (wr64 (wr st (qchPg 0 + 0x128) 1) (qchPg 0 + 0x120) 8192) (qchPg 0 + 0x12C) 0x48674BC7) (qchPg 0 + 0x130) 4096)
    (qchPg 0 + 0x118) 1000

/-- The same armed, its task in state n. -/
def stA (n : Nat) : State := setTaskState (wrB stA0 (qchPg 0 + 0x100) 0 true) 0 n

/-- The same with record 0's STATE WAITING, its GROUP and ROOT words w. -/
def stVote (w : Nat) : State :=
  memPut (memPut (memPut (stA 2) 0 (4096 + 0x30) [1]) 0 (4096 + 8) (leBytes 8 w)) 0 (4096 + 0x10) (leBytes 8 w)

/-- A write of QCH_CTL, or of another register of the page, by the partition's client. -/
def qW (o v : Nat) : RegWrite := hdW (qchPg 0 + o) v

theorem qOk {o v : Nat} {s : State}
    (h : (qW o v).off.toNat = qchPg 0 + o ∧ partOfSlice s 0 = some 0 ∧ lowSlice s 0 = 0 := by decide +kernel) :
    QchWrite (qW o v) s 0 0 o := ⟨h.1, h.2.1, h.2.2⟩

theorem wit_QuenchArmingAndDetections :
    (QchWrite (qW 0x100 1) stA0 0 0 0x100 ∧ (qW 0x100 1).val.toNat.testBit 0 = true ∧ armed stA0 0 = false ∧ armOk stA0 0 0 = true ∧
      QchWrite (qW 0x100 1) st 0 0 0x100 ∧ armed st 0 = false ∧ armOk st 0 0 = false) ∧
    (QchWrite (qW 0x100 0) (stA 0) 0 0 0x100 ∧ (qW 0x100 0).val.toNat.testBit 0 = false ∧ armed (stA 0) 0 = true ∧
      taskState (stA 0) 0 = 0) ∧
    (QchWrite (qW 0x100 9) (stA 0) 0 0 0x100 ∧ (qW 0x100 9).val.toNat.testBit 3 = true) ∧
    (QchWrite (qW 0x128 3969) stA0 0 0 0x128 ∧ armed stA0 0 = false) ∧
    (let s := { stA0 with qch := { stA0.qch with crcDue := [(0, true)] } }
     cGet (fun _ => false) s.qch.crcDue 0 = true ∧ partOfSlice s 0 = some 0 ∧ rdF s (qchPg 0 + 0x128) 11 0 = 1 ∧
      rd64 s (qchPg 0 + 0x120) = 8192 ∧ inPart s 0 8192 4 = true) ∧
    (QchWrite (qW 0x100 3) (stA 1) 0 0 0x100 ∧ (qW 0x100 3).val.toNat.testBit 1 = true ∧ taskState (stA 1) 0 ≠ 2) ∧
    (∀ n ∈ [1, 2], Ready 7 0x22 (fun w => zero w 47 0) noRegs (op 7 0x22 []) (stA n) ∧ partOfTile (stA n) 0 = some 0 ∧
      taskState (stA n) (lowSlice (stA n) 0) = n) ∧
    Ready 7 0x23 (fun w => zero w 47 16) noRegs (op 7 0x23 [(0, 65535)]) st := by
  refine ⟨⟨qOk, by decide +kernel, by decide +kernel, by decide +kernel, qOk, by decide +kernel, by decide +kernel⟩,
    ⟨qOk, by decide +kernel, by decide +kernel, by decide +kernel⟩, ⟨qOk, by decide +kernel⟩, ⟨qOk, by decide +kernel⟩,
    by decide +kernel, ⟨qOk, by decide +kernel, by decide +kernel⟩, fun n hn => ⟨rdy ?_, ?_, ?_⟩, rdy⟩ <;> revert n <;> decide +kernel

theorem test_qch_arm_refused : gives (exec (.qchArm (qW 0x100 1)) st) (fun t => !(armed t 0) && rdB t (qchPg 0 + hIntStat) 6) = true := by
  decide +kernel
/-- The CRC32C of four zero bytes. -/
theorem test_member_crc : gives (exec (.memberCrcDone 0 .clean 0) { stA0 with qch := { stA0.qch with crcDue := [(0, true)] } }) (fun t =>
    rd t (qchPg 0 + 0x12C) == 0x48674BC7) = true := by decide +kernel
/-- Cause SOFT is bit 7 (R129, R131). -/
theorem test_qch_raise : gives (exec (.qchRaise (op 7 0x22 [])) (stA 1)) (fun t =>
    rdB t (qchPg 0 + 0x108) 0 && rdB t (qchPg 0 + 0x108) 31) = true := by decide +kernel
theorem test_qch_layer : gives (exec (.qchLayer (op 7 0x23 [(0, 65535)])) st) (fun t => layerTag t 0 == 65535) = true := by decide +kernel

/-- The armed partition, isolated; one with Temper enabled and layer 7 open. -/
def stIso : State := wrB (stA 1) (qchPg 0 + 0x108) 8 true
def stTmp : State := { wr st (tmpPg 0 + 0x100) 1 with tmp := [(0, [{ tag := 7, sw2 := 0, sd2 := 0, elems := 4 }])] }

theorem wit_UpdateTask :
    (∀ n ∈ [0, 1], Ready 7 0x20 (fun w => specOk (fD w) && zero w 41 0) regsN (op 7 0x20 [(42, 5)]) (stA n) ∧
      Ready 7 0x21 (fun w => specOk (fD w) && zero w 41 0) regsN (op 7 0x21 [(42, 5)]) (stA n) ∧
      (op 7 0x20 [(42, 5)]).task (stA n) = none ∧ partOfTile (stA n) 0 = some 0 ∧ taskState (stA n) (lowSlice (stA n) 0) = n ∧
      armed (stA n) (lowSlice (stA n) 0) = true ∧ isolated (stA n) 0 = false ∧ shadowTable (stA n) 0 = []) ∧
    (Ready 7 0x21 (fun w => specOk (fD w) && zero w 41 0) regsN (op 7 0x21 [(42, 5)]) stIso ∧ partOfTile stIso 0 = some 0 ∧
      isolated stIso (lowSlice stIso 0) = true) ∧
    (∀ n ∈ [7, 8], Ready 7 0x24 (fun w => specOk (fD w) && zero w 41 16) regsN (op 7 0x24 [(42, 5), (0, n)]) stTmp ∧
      (op 7 0x24 [(42, 5), (0, n)]).task stTmp = none ∧ partOfTile stTmp 0 = some 0 ∧ temperOf stTmp 0 = some 0 ∧
      (layersOf stTmp 0).any (fun y => y.tag == bitsOf (op 7 0x24 [(42, 5), (0, n)]).w 15 0) = (n == 7)) := by
  refine ⟨fun n hn => ⟨rdy ?_, rdy ?_, ?_, ?_, ?_, ?_, ?_, ?_⟩, ⟨rdy, by decide +kernel, by decide +kernel⟩,
    fun n hn => ⟨rdy ?_, ?_, ?_, ?_, ?_⟩⟩ <;> revert n <;> decide +kernel

theorem test_qch_open : gives (exec (.qchOpen (op 7 0x20 [(42, 5)])) (stA 0)) (fun t => taskState t 0 == 1 && xreg t 0 0 5 == 0) = true := by
  decide +kernel
/-- ORDER is code 3 (R198). -/
theorem test_qch_order : (gives (exec (.qchOpen (op 7 0x20 [(42, 5)])) (stA 1)) (fun t => xreg t 0 0 5 == 3) &&
    gives (exec (.qchVote (op 7 0x21 [(42, 5)])) (stA 0)) (fun t => xreg t 0 0 5 == 3)) = true := by decide +kernel
/-- The vote clears bit 0 of GROUP alone: a FAND of all ones but bit 0, at the leader's GROUP word (R139). -/
theorem test_qch_vote : gives (exec (.qchVote (op 7 0x21 [(42, 5)])) (stA 1)) (fun t =>
    (thrOf t 0 0).st == .blockedSync (.vote 5) && taskState t 0 == 2 &&
      t.qch.posted.map (fun m => (m.opc, m.addr.toNat, m.data)) == [(.fand, 4096 + 8, leBytes 8 0xFFFFFFFFFFFFFFFE)]) = true := by
  decide +kernel
theorem test_tmp_close : gives (exec (.tmpClose (op 7 0x24 [(42, 5), (0, 7)])) stTmp) (fun t => layersOf t 0 == [] && xreg t 0 0 5 == 0) =
    true := by decide +kernel

/-- A vote record with a first group vote at f, or a first root result. -/
def stRec (w : Nat) (x : VoteRec) : State :=
  let s := stVote w
  { s with qch := { s.qch with recs := [(0, x)], castAt := [(0, some 0)] } }

theorem wit_VotesAndOutcomes :
    (armedPart (stA 2) 0 = some 0 ∧ memNat (stA 2) 0 (recordAt (stA 2) 0 0 + 0x30) 4 ≠ 1) ∧
    (let s := stVote (2 ^ 64 - 1)
     armedPart s 0 = some 0 ∧ memNat s 0 (recordAt s 0 0 + 0x30) 4 = 1 ∧ voteRec s 0 0 = {} ∧
      pendingOf (memNat s 0 (recordAt s 0 0 + 8) 8) ≠ (pendingOf (memNat s 0 (recordAt s 0 0 + 8) 8) &&& (2 ^ 64 - 2)) ∧
      (memNat s 0 (recordAt s 0 0 + 0x10) 8).testBit 0 = true) ∧
    (let s := stRec (2 ^ 63) { firstG := some 0, firstR := some 0 }
     armedPart s 0 = some 0 ∧ memNat s 0 (recordAt s 0 0 + 0x30) 4 = 1 ∧
      voteRec s 0 0 = { firstG := some 0, firstR := some 0 } ∧ selfIdx s 0 = 0 ∧ voteWindow s 0 = 1000 ∧
      0 + 1000 + 64 < max s.time 1065 ∧ 0 + 2 * 1000 + 64 < max s.time 2065) ∧
    (isolated (stA 2) 0 = false ∧ (voteRec (stA 2) 0 (qchStep (stA 2) 0 % 4)).got = false ∧ qchStep (stA 2) 0 = 0 ∧
      bltPhase (stA 2) 0 = 0 ∧ armedPart stIso 0 = some 0 ∧ isolated stIso 0 = true) ∧
    (let s := stRec (2 ^ 63) {}
     partOfSlice s 0 = some 0 ∧ cGet (fun _ => none) s.qch.castAt 0 = some 0 ∧ taskState s 0 = 2 ∧ 0 + 4 * 1000 + 64 < max s.time 4065 ∧
      lowSlice s 0 = 0) := by
  refine ⟨by decide +kernel, by decide +kernel, by decide +kernel, by decide +kernel, by decide +kernel⟩

/-- A vote after the decision is counted late and changes no record (R138). -/
theorem test_late_vote : gives (exec (.groupVoteArrive 0 0 (BitVec.ofNat 64 (2 ^ 64 - 2)) 0) (stA 2)) (fun t =>
    rd t (qchPg 0 + 0x194) == 1 && rdB t (qchPg 0 + hIntStat) 4 && t.qch.recs == []) = true := by decide +kernel
theorem test_first_vote : gives (exec (.groupVoteArrive 0 0 (BitVec.ofNat 64 (2 ^ 64 - 3)) 5) (stVote (2 ^ 64 - 1))) (fun t =>
    (voteRec t 0 0).firstG == some 5) = true := by decide +kernel
theorem test_leader_timeout : (gives (exec (.leaderTimeout 0 0 1065) (stRec (2 ^ 63 + 4) { firstG := some 0 })) (fun t =>
    (voteRec t 0 0).gdone && rd t (qchPg 0 + 0x190) == 1) &&
    gives (exec (.leaderTimeout 0 0 1064) (stRec (2 ^ 63 + 4) { firstG := some 0 })) (fun t => !((voteRec t 0 0).gdone))) = true := by
  decide +kernel
theorem test_root_timeout : gives (exec (.rootTimeout 0 0 2065) (stRec (2 ^ 63 + 1) { firstR := some 0 })) (fun t => (voteRec t 0 0).rdone) =
    true := by decide +kernel
theorem test_isolation : gives (exec (.isolationTimeout 0 4065) (stRec (2 ^ 63) {})) (fun t =>
    isolated t 0 && taskState t 0 == 0 && rd t (qchPg 0 + 0x19C) == 1) = true := by decide +kernel

/-! ### The stash, the anvils and the scratchpad page -/

/-- STH operations on lane 0 of segment 2, microbatch 3, step 4, from slot 1, with D = s5 and low bits b. -/
def sthW (o b : Nat) : Issue := op 4 o [(42, 5), (34, 1), (28, 2), (22, 3), (19, 1), (0, b)]

/-- st whose stash is enabled, with lane 0 of 1 MiB at 8,192 and the segment table at 65,536; lane 0 is x. -/
def stS (x : SthLane) : State :=
  let s := wr (wr64 (wr64 (wr64 st (sthPg 0 + 0x110) 65536) (sthPg 0 + 0x148) 1048576) (sthPg 0 + 0x140) 8192) (sthPg 0 + 0x100) 1
  { s with tl := { s.tl with xr := [(1, 2), (2, 3), (3, 4), (33, 1)] }, sth := { lanes := [(0, x)], nextId := 1 } }

/-- A record of segment 2, microbatch 3, step 4, one part of 512 bytes. -/
def sRec (valid : Bool) (landed popped : List Nat) : SthRec :=
  { id := 0, off := 0, seg := 2, mb := 3, step := 4, folds := 0, epoch := 1, fmt := 0, pbytes := 512, contrib := 1, prev := 0, time := 0,
    landed := landed, valid := valid, refill := false, popped := popped, done := [] }

/-- Bytes in HBM of partition 0; nothing else changes. -/
def put (s : State) (a : Nat) (bs : List Byte) : State := { s with mem := (memPut s 0 a bs).mem }

/-- The same with the record's header and part in HBM. -/
def stP : State :=
  let s := stS { recs := [sRec true [0] []] }
  put (put s 8192 (hdrBytes 0 (sRec true [0] []) false)) (8192 + 4096) [0xAB]

def sthReadyB (o : Nat) (legal : Nat → Bool) (i : Issue) (s : State) : Bool :=
  readyB 4 o (fun w => specOk (fD w) && specOk (bitsOf w 39 34) && specOk (bitsOf w 33 28) && specOk (bitsOf w 27 22) && legal w)
    (fun w => [bitsOf w 39 34, bitsOf w 33 28, bitsOf w 27 22, 32 + bitsOf w 21 19]) i s &&
  i.task s == none && inPool s i.tile (sSlot i s) == false && partOfTile s i.tile == some 0 && decide ((descsOf s i.tile).length < 32) &&
  decide (blwTags s i.tile < 96) && rdB s (sthPg 0 + 0x100) 0 == true && decide (sLane i < sthLanes s 0) && sthAborted s 0 == false &&
  lowSlice s 0 == 0

theorem sthReady {o : Nat} {legal : Nat → Bool} {i : Issue} {s : State} (h : sthReadyB o legal i s = true := by decide +kernel) :
    StashReady o legal i s 0 := by
  simp only [sthReadyB, Bool.and_eq_true, beq_iff_eq, decide_eq_true_eq] at h
  obtain ⟨⟨⟨⟨⟨⟨⟨⟨⟨a, b⟩, c⟩, d⟩, e⟩, f⟩, g⟩, k⟩, l⟩, m⟩ := h
  exact ⟨rdy a, b, c, d, e, f, by rw [m]; exact g, by rw [m]; exact k, by rw [m]; exact l⟩

/-- The header's first 60 bytes, as R34 lays them out; the last four are the CRC-32C of the others. -/
def hdr60 : List Byte :=
  leBytes 2 1 ++ leBytes 2 1 ++ leBytes 2 2 ++ leBytes 2 0 ++ leBytes 4 3 ++ leBytes 4 1 ++ leBytes 8 4 ++ leBytes 8 512 ++ leBytes 2 1 ++
    leBytes 2 0 ++ leBytes 4 512 ++ leBytes 8 0 ++ leBytes 8 0 ++ leBytes 4 0xCD541E4D

theorem stP_hdr : recLoad stP 0 0 0 (sRec true [0] []) 0 60 = hdr60 := by decide +kernel
theorem hdr60_crc : crc32c (hdr60.take 56) = BitVec.ofNat 32 (leNat (slice hdr60 56 4)) := by decide +kernel

theorem popMatch {i : Issue}
    (h : lowSlice stP 0 = 0 ∧ sLane i = 0 ∧ sMb i stP = 3 ∧ sSeg i stP = 2 ∧ partIndex stP 0 (logicalOf stP i.tile) = 0 ∧ i.ecc = .clean := by
      decide +kernel) : PopMatch i stP 0 (sRec true [0] []) := by
  obtain ⟨a, b, c, d, e, f⟩ := h
  refine ⟨?_, rfl, ?_, ?_, ?_, ?_, ?_, ?_, f⟩ <;> try rw [a]
  all_goals first
    | (rw [b, stP_hdr]; first | exact hdr60_crc | decide +kernel | (rw [c]; decide +kernel) | (rw [d]; decide +kernel))
    | (rw [b]; decide +kernel)
    | (rw [e]; decide)

theorem wit_StashOperations :
    (StashReady 0x10 (fun w => zero w 18 0) (sthW 0x10 0) (stS {}) 0 ∧
        (laneOf (stS {}) (lowSlice (stS {}) 0) (sLane (sthW 0x10 0))).opening = none) ∧
    (StashReady 0x11 (fun w => zero w 17 0) (sthW 0x11 0) stP 0 ∧ PopMatch (sthW 0x11 0) stP 0 (sRec true [0] []) ∧
      (∀ d ∈ descsOf stP (sthW 0x11 0).tile, d.kind ≠ .drain) ∧ sSlot (sthW 0x11 0) stP + 512 / 512 ≤ 32768 ∧
      firstBlocked stP 0 none (rangeUses (512 * sSlot (sthW 0x11 0) stP) 512 .produce) = none) ∧
    (StashReady 0x11 (fun w => zero w 17 0) (sthW 0x11 (2 ^ 18)) stP 0 ∧ (sthW 0x11 (2 ^ 18)).w.testBit 18 = true ∧
      PopMatch (sthW 0x11 (2 ^ 18)) stP 0 (sRec true [0] [])) ∧
    (StashReady 0x11 (fun w => zero w 17 0) (sthW 0x11 0) (stS {}) 0 ∧ (laneOf (stS {}) 0 0).recs = [] ∧
        (laneOf (stS {}) 0 0).spilled = []) :=
  ⟨⟨sthReady, by decide +kernel⟩, ⟨sthReady, popMatch, by decide +kernel, by decide +kernel, by decide +kernel⟩,
    ⟨sthReady, by decide +kernel, popMatch⟩, ⟨sthReady, by decide +kernel, by decide +kernel⟩⟩

theorem test_sth_push : gives (exec (.sthPush (sthW 0x10 0)) (stS {})) (fun t =>
    (laneOf t 0 0).opening.any (fun g => g.seg == 2 && g.mb == 3 && g.step == 4)) = true := by decide +kernel
theorem test_sth_pop_discard : gives (exec (.sthPopDiscard (sthW 0x11 (2 ^ 18))) stP) (fun t => xreg t 0 0 5 == 0) = true := by
  decide +kernel
theorem test_sth_pop_empty : gives (exec (.sthPop (sthW 0x11 0)) (stS {})) (fun t => xreg t 0 0 5 == 7) = true := by decide +kernel

/-- A part of a record, of tile 0's thread 0, in slot 1; the record arriving. -/
def sPart : SthPart := { desc := 1, tile := 0, thr := 0, gen := 0, dest := 5, slot := 1, idx := 0, blocked := none }
def sOpen (entry : Option (Nat × Nat × Nat × Nat)) (spill : Option Nat) : SthOpen :=
  { seg := 2, mb := 3, step := 4, entry := entry, code := none, got := [], parts := [sPart], spill := spill, refill := false }

/-- A segment-table entry of segment n: FORMAT 5, one part of 512 bytes. -/
def segEntry (n : Nat) : List Byte := leBytes 2 n ++ leBytes 2 0 ++ leBytes 1 0 ++ leBytes 1 5 ++ leBytes 1 0 ++ leBytes 1 0 ++ leBytes 4 512 ++ leBytes 4 1

def stSeg (n : Nat) : State := put (stS { opening := some (sOpen none none) }) (65536 + 32) (segEntry n)

/-- A write of STH_CTL; a thread that has waited on a spill since time 0. -/
def clrW : RegWrite := { who := .hd, off := BitVec.ofNat 28 (sthPg 0 + 0x100), val := 2, now := 0 }

def stWait : State :=
  let s := stS { opening := some (sOpen (some (0, 0, 512, 1)) (some 0)) }
  { s with tl := { s.tl with thr := [(0, { st := .blockedSync (.stash 1) })] } }

theorem stSeg_entry : memBytes (stSeg 2) 0 (rd64 (stSeg 2) (sthPg 0 + 0x110) + 16 * 2) 16 = segEntry 2 := by decide +kernel

theorem wit_StashEngine :
    (let s := stSeg 2
     let e := segEntry 2
     partOfSlice s 0 = some 0 ∧ (laneOf s 0 0).opening = some (sOpen none none) ∧
      inPart s 0 (rd64 s (sthPg 0 + 0x110) + 16 * 2) 16 = true ∧ leNat (slice e 0 2) = 2 ∧ leNat (slice e 8 4) % 512 = 0 ∧
      1 ≤ leNat (slice e 12 2) ∧ leNat (slice e 12 2) ≤ (partTiles s 0).length ∧
      (∀ q ∈ (sOpen none none).parts, partBad [] (leNat (slice e 12 2)) (leNat (slice e 8 4)) q = false)) ∧
    (let s := wr64 (stS { opening := some (sOpen none none) }) (sthPg 0 + 0x110) (2 ^ 48 - 4096)
     partOfSlice s 0 = some 0 ∧ (laneOf s 0 0).opening = some (sOpen none none) ∧
      inPart s 0 (rd64 s (sthPg 0 + 0x110) + 16 * 2) 16 = false) ∧
    (let g := sOpen (some (0, 0, 512, 1)) (some 1)
     let s := stS { recs := [sRec true [0] []], opening := some g }
     partOfSlice s 0 = some 0 ∧ (laneOf s 0 0).opening = some g ∧ g.spill = some 1 ∧ g.entry = some (0, 0, 512, 1)) ∧
    (let s := stS { recs := [sRec false [0] []] }
     partOfSlice s 0 = some 0 ∧ (laneOf s 0 0).recs.getLast? = some (sRec false [0] []) ∧ 1 ≤ [0].length) ∧
    (let s := wr (stS { spilled := [sRec true [0] []] }) (sthPg 0 + 0x104) 0x80
     newestSpilled (laneOf s 0 0) = some (sRec true [0] []) ∧ rdB s (sthPg 0 + 0x104) 7 = true ∧ openForPush (laneOf s 0 0) = false ∧
      (sRec true [0] []).size ≤ laneFree s 0 0) ∧
    (let s := stS { spilled := [sRec true [0] []], refill := true }
     partOfSlice s 0 = some 0 ∧ newestSpilled (laneOf s 0 0) = some (sRec true [0] []) ∧ (laneOf s 0 0).refill = true) ∧
    (partOfTile stWait 0 = some 0 ∧ (thrOf stWait 0 0).st = .blockedSync (.stash 1) ∧
      (thrOf stWait 0 0).since + 1000000 < max stWait.time 1000001 ∧ waitsOnMove stWait 1 = true) ∧
    ((clrW).off.toNat = sthPg 0 + 0x100 ∧ (clrW).val.toNat.testBit 1 = true ∧
      lowSlice stWait 0 = 0) := by
  refine ⟨by decide +kernel, by decide +kernel, by decide +kernel, by decide +kernel, by decide +kernel, by decide +kernel,
    by decide +kernel, by decide +kernel⟩

theorem test_sth_valid : gives (exec (.sthRecordValid 0 0 9) (stS { recs := [sRec false [0] []] })) (fun t =>
    (laneOf t 0 0).recs.map (fun r => (r.valid, r.time)) == [(true, 9)]) = true := by decide +kernel
theorem test_sth_wait : gives (exec (.sthWait 0 0 1000001) stWait) (fun t => rdB t (sthPg 0 + hIntStat) 5) = true := by decide +kernel

/-- The words of a pass: W and X in format 1 and Y in FP32, one row and one column, W at slot 16, X at slot 0, Y at slot 100. -/
def pWords (wf : Nat) : List W64 :=
  [fields [(60, wf), (56, 1), (37, 1), (16, 16)], fields [(48, 1)], 0, 0, fields [(51, 1), (32, 32), (0, 100)], 0, 0, 0].map (BitVec.ofNat 64)
def pass (wf : Nat) : Pass := { thr := 0, gen := 0, task := none, addr := 512, words := pWords wf, step := 0, stamp := 0 }

/-- ANV.PASS with D = s5 of the descriptor at a1, and the state with that descriptor at 512. -/
def passW : Issue := op 3 0x01 [(42, 5), (39, 1)]
def stAnv (wf : Nat) : State :=
  let s := stR [(33, 512)]
  { s with tl := { s.tl with spad := cSetList (fun _ => 0) [] 512 ((pWords wf).map (fun w => leBytes 8 w.toNat)).flatten } }

theorem wit_AnvilPasses :
    (∀ f ∈ [1, 11], Ready 3 0x01 (fun w => specOk (fD w) && zero w 38 0) (fun w => [32 + bitsOf w 41 39]) passW (stAnv f) ∧
      (let s := stAnv f
       let i := passW
       let a := (i.reg s (32 + bitsOf i.w 41 39)).toNat
       badRange s i.tile a 64 = false ∧ a % 64 = 0 ∧ heldPasses s i.tile < 32 ∧ i.ecc = .clean ∧ rdB s (tilePg i.tile 5 + hInj) 31 = false)) ∧
    (let s := stAnv 1
     let i := passW
     let p := readPass (i.here s) i.ctx .clean (i.reg s (32 + bitsOf i.w 41 39)).toNat
     descFault (tileWidth s i.tile) p = none ∧ passInPool s i.tile (tileWidth s i.tile) p = false ∧ i.task s = none ∧
      coalHolds s i.tile p = false ∧ threadHeld s i.tile i.thr = false ∧ anvBehind s i.tile = [] ∧ anvWaiting s i.tile = [] ∧
      dispatchTo s i.tile [p] = some 0) ∧
    (let s := stAnv 11
     descFault (tileWidth s 0) (readPass (passW.here s) passW.ctx .clean (passW.reg s 33).toNat) = some 2) := by
  refine ⟨fun f hf => ⟨rdy ?_, ?_⟩, by decide +kernel, by decide +kernel⟩ <;> revert f <;> decide +kernel

theorem test_anv_pass : gives (exec (.anvPass passW) (stAnv 1)) (fun t => (anvQueue t 0 0).map (fun q => q.map (fun p =>
    dYslot p)) == [[100]] && xreg t 0 0 5 == 0) = true := by
  decide +kernel
/-- An unsupported operand pair is code 0x02, answers 1 and is counted (R94, R95). -/
theorem test_anv_pass_invalid : gives (exec (.anvPass passW) (stAnv 11)) (fun t => xreg t 0 0 5 == 1 &&
    rd t (anvPg 0 0 + 0x140) == 1) = true := by
  decide +kernel

/-- Passes waiting, held, running or launched on tile 0's forward anvil. -/
def stGrp : State :=
  { st with anv := { st.anv with waiting := [(0, [[pass 1]])],
                                 groups := [(0, [{ id := 2, members := [pass 1], deadline := 100, fill := 4, thresh := 2 }])] } }
def run (load launch : Nat) (blocks : List WBlock) : Running :=
  { members := [pass 1], loaded := blocks, nextLoad := load, launched := launch, acc := [], init := false, faulted := false }
def stRun (r : Running) : State :=
  { st with
    anv := { st.anv with running := [(0, [r])] },
    tl := { st.tl with tags := cSetList (fun _ => .empty) [] 0 (List.replicate 96 .full) } }
/-- A weight block whose one column holds code 0x3C00 in each of 128 rows. -/
def wb : WBlock := { chunk := 0, elems := List.replicate 128 [some 0x3C00], scales := [] }

theorem wit_AnvilPasses_dispatch :
    ((anvWaiting stGrp 0)[0]? = some [pass 1] ∧ sharesThread [pass 1] ((anvWaiting stGrp 0).take 0) = false ∧
        dispatchTo stGrp 0 [pass 1] = some 0) ∧
    ((anvGroups stGrp 0).find? (fun g => g.id == 2) = some { id := 2, members := [pass 1], deadline := 100, fill := 4, thresh := 2 } ∧
      100 + 64 < max stGrp.time 165) ∧
    (BitVec.ofNat 28 (anvPg 287 0 + 0x180)).toNat = anvPg 287 0 + 0x180 := by decide +kernel

theorem wit_AnvilRuns :
    (let s := stRun (run 0 0 [])
     LastRun s 0 0 [] (run 0 0 []) ∧ 0 < dChunks (leadPass [pass 1]) ∧
      firstBlocked s 0 none (wUses (pass 1) 0) = none ∧ rdB s (tilePg 0 5 + hInj) 31 = false ∧ rdB s (anvPg 0 0 + hInj) 31 = false ∧
      chunkBitmapsOk s 0 (pass 1) 0 = true) ∧
    (let s := stRun (run 1 0 [wb])
     LastRun s 0 0 [] (run 1 0 [wb]) ∧ usesReady s 0 [pass 1] (fun p => xUses p wb.chunk) = true ∧ rdB s (tilePg 0 5 + hInj) 31 = false) ∧
    (let s := stRun (run 1 1 [])
     anvRunning s 0 0 = run 1 1 [] :: [] ∧ dChunks (leadPass [pass 1]) ≤ 1 ∧
      usesReady s 0 [pass 1] (fun q => ySlots (tileWidth s 0) q .produce) = true) := by
  refine ⟨⟨by unfold LastRun; decide +kernel, by decide +kernel⟩, ⟨by unfold LastRun; decide +kernel, by decide +kernel⟩, by decide +kernel⟩

theorem test_anv_chunk_load : gives (exec (.anvChunkLoad 0 0 .none .clean 0) (stRun (run 0 0 []))) (fun t =>
    (anvRunning t 0 0).map (fun r => (r.loaded.map (fun b => b.chunk), r.nextLoad)) == [([0], 1)]) = true := by decide +kernel
theorem test_anv_output : gives (exec (.anvOutput 0 0 .none 0) (stRun (run 1 1 []))) (fun t =>
    anvRunning t 0 0 == [] && tagRaw t 0 100 == Tag.full) = true := by decide +kernel

/-- st with an IDLE tile 287, a CRC range of its last slot, a run in progress or not, and the low word of a debug write. -/
def stPg (busy : Nat) : State :=
  let s := wr (wr (wr State.reset (spadPg 287 + 0x110) (2 ^ 16 + 32767)) (spadPg 287 + 0x104) busy) (spadPg 287 + 0x118) (2 ^ 24 - 8)
  { s with win := { s.win with loHold := [(spadPg 287 + 0x120, 0x12345678)] } }
def pgW (o v : Nat) : RegWrite := { who := .hd, off := BitVec.ofNat 28 (spadPg 287 + o), val := BitVec.ofNat 32 v, now := 0 }
def pgR (o : Nat) : RegRead := { who := .hd, off := BitVec.ofNat 28 (spadPg 287 + o), now := 0 }

theorem wit_ScratchpadPage :
    (let s := stPg 0
     (pgW 0x100 2).off.toNat = spadPg 287 + 0x100 ∧ (pgW 0x100 2).val.toNat.testBit 1 = true ∧ rdB s (spadPg 287 + 0x104) 0 = false ∧
      rdF s (spadPg 287 + 0x110) 14 0 = 32767 ∧ rdF s (spadPg 287 + 0x110) 31 16 = 1) ∧
    (rdB (stPg 1) (spadPg 287 + 0x104) 0 = true ∧ rdB (stPg 1) (tilePg 287 5 + hInj) 31 = false) ∧
    ((pgR 0x120).off.toNat = spadPg 287 + 0x120 ∧ tileIdle (stPg 0) 287 = true ∧ rdB (stPg 0) (tilePg 287 5 + hInj) 31 = false) ∧
    ((pgW 0x124 0x89ABCDEF).off.toNat = spadPg 287 + 0x124 ∧
      (stPg 0).win.loHold.find? (fun c => c.1 == spadPg 287 + 0x120) = some (spadPg 287 + 0x120, 0x12345678)) := by decide +kernel

theorem test_spad_dbg : gives (exec (.spadDbgWrite (pgW 0x124 0x89ABCDEF)) (stPg 0)) (fun t =>
    (rawBytes t 287 (2 ^ 24 - 8) 8).map (·.toNat) == [0x78, 0x56, 0x34, 0x12, 0xEF, 0xCD, 0xAB, 0x89]) = true := by decide +kernel

/-! ### Command rings, links and fabric time -/

/-- A ring entry: operation, deadline and NOT_BEFORE, body from offset 0x18. -/
def entry (o deadline : Nat) (body : List Byte) : RingEntry :=
  { idx := 0, stamp := 7, bytes := leBytes 4 0 ++ leBytes 1 o ++ leBytes 3 0 ++ leBytes 8 deadline ++ leBytes 8 0 ++ body, bad := false }
/-- Bodies: START and WAIT_IDLE of tiles 0 to n; XFER of a STREAM_IN to tile 0; WRITE; WAIT_WORD. -/
def tilesBody (n : Nat) : List Byte := leBytes 2 0 ++ leBytes 2 n ++ leBytes 4 0 ++ leBytes 8 64 ++ leBytes 8 5 ++ leBytes 8 1
def xferBody : List Byte := leBytes 2 0 ++ leBytes 2 0 ++ desc 1 0 1 32 4096 0 512 32 0
def wordBody (v : Nat) : List Byte := leBytes 8 4096 ++ leBytes 8 v ++ leBytes 1 0
/-- Never times out. -/
def never : Nat := 2 ^ 64 - 1

/-- Ring 3 of partition 0 is x and is enabled. -/
def stRng (x : Ring) : State := { wr st (ringReg 0 3) 1 with rng := [(3, x)] }
def stEnt (e : RingEntry) : State := stRng { buf := [e] }
def stWd (e : RingEntry) (word : Option Nat) : State := stRng { buf := [e], running := true, word := word }

theorem ringHead_of {o : Nat} {s : State} {e : RingEntry}
    (h : partOfSlice s 0 = some 0 ∧ lowSlice s 0 = 0 ∧ (ringOf s 0 3).buf.head? = some e ∧ e.bad = false ∧ e.op = o ∧
      cGet (fun _ => none) s.blw.xfers 3 = none ∧ ringHead s 0 3 + 1 < 2 ^ 64 := by decide +kernel) : RingHead o s 0 3 0 e := by
  obtain ⟨a, b, c, d, f, g, k⟩ := h
  exact ⟨a, b, c, d, f, g, k⟩

theorem ringBegins {s : State} {e : RingEntry} {now : Nat}
    (h : (ringOf s 0 3).running = false ∧ ringEn s 0 3 = true ∧ ringStopped s 0 3 = false ∧ e.notBefore ≤ max s.time now ∧
      e.stamp ≤ e.deadline := by decide +kernel) : RingBegins s 0 3 e now := by
  obtain ⟨a, b, c, d, f⟩ := h
  exact ⟨a, b, c, d, f⟩

/-- Each operation; an entry whose deadline is its stamp. -/
def eNop : RingEntry := entry 0 7 []
def eStart : RingEntry := entry 1 never (tilesBody 31)
def eXfer : RingEntry := entry 2 never xferBody
def eWrite : RingEntry := entry 3 never (wordBody 9)
def eWord (v : Nat) : RingEntry := entry 4 100 (wordBody v)
def eIdle (n : Nat) : RingEntry := entry 5 never (tilesBody n)

theorem wit_CommandRings_entries :
    (RingHead 0 (stEnt eNop) 0 3 0 eNop ∧ RingBegins (stEnt eNop) 0 3 eNop 0) ∧
    (RingHead 1 (stEnt eStart) 0 3 0 eStart ∧ RingBegins (stEnt eStart) 0 3 eStart 0 ∧
        entryTiles (stEnt eStart) 0 eStart = some (List.range 32)) ∧
    (RingHead 2 (stEnt eXfer) 0 3 0 eXfer ∧ RingBegins (stEnt eXfer) 0 3 eXfer 0 ∧
      (let s := stEnt eXfer
       let b := slice eXfer.bytes 0x1C 32
       eXfer.field 0x18 2 < tileCount s 0 ∧ partTileAt s 0 (eXfer.field 0x18 2) = some 0 ∧ (descsOf s 0).length < 32 ∧ blwTags s 0 < 96 ∧
        dsOp b = 1 ∧ dsValid s 0 b = true ∧ partOfTile s 0 = some 0 ∧ badPiece s 0 (dsPieces b) = none ∧
        (∀ x ∈ dsPieces b, rangeHitsCode s 0 none x.spad x.len = false))) ∧
    (RingHead 3 (stEnt eWrite) 0 3 0 eWrite ∧ RingBegins (stEnt eWrite) 0 3 eWrite 0 ∧
        inPart (stEnt eWrite) 0 (eWrite.field 0x18 8) 8 = true ∧
      (let s := stEnt eWrite
       (swapOf s 0 0 = 0 ∧ (pageEntry s 0 0).migrating = false ∧ (pageEntry s 0 0).tier = 0))) ∧
    (RingHead 4 (stEnt (eWord 9)) 0 3 0 (eWord 9) ∧ RingBegins (stEnt (eWord 9)) 0 3 (eWord 9) 0 ∧
      inPart (stEnt (eWord 9)) 0 ((eWord 9).field 0x18 8) 8 = true) ∧
    (RingHead 5 (stEnt (eIdle 0)) 0 3 0 (eIdle 0) ∧ RingBegins (stEnt (eIdle 0)) 0 3 (eIdle 0) 0 ∧
      entryTiles (stEnt (eIdle 0)) 0 (eIdle 0) = some [0] ∧ partTileAt (stEnt (eIdle 0)) 0 0 = some 0 ∧
          tileQuiet (stEnt (eIdle 0)) 0 = false ∧
      (let s := { stEnt (eIdle 0) with tl := State.reset.tl }
       RingHead 5 s 0 3 0 (eIdle 0) ∧ RingBegins s 0 3 (eIdle 0) 0 ∧ tileQuiet s 0 = true)) := by
  refine ⟨⟨ringHead_of, ringBegins⟩, ⟨ringHead_of, ringBegins, ?_⟩, ⟨ringHead_of, ringBegins, ?_⟩, ⟨ringHead_of, ringBegins, ?_, ?_⟩,
    ⟨ringHead_of, ringBegins, ?_⟩, ⟨ringHead_of, ringBegins, ?_, ?_, ?_, ringHead_of, ringBegins, ?_⟩⟩ <;> decide +kernel

/-- START gives thread 0 of tile 0 an entry of 64 and the argument 5 in a0 (R154, R201). -/
theorem test_ring_start : gives (exec (.ringStart 0 3 0) { stEnt (entry 1 never (tilesBody 0)) with tl := State.reset.tl }) (fun t =>
    (thrOf t 0 0).st == .runnable && (thrOf t 0 0).pc == 64 && xreg t 0 0 32 == 5 && ringHead t 0 3 == 1) = true := by decide +kernel
theorem test_ring_wait_idle : gives (exec (.ringWaitIdle 0 3 0) { stEnt (eIdle 0) with tl := State.reset.tl }) (fun t =>
    ringHead t 0 3 == 1) = true := by
  decide +kernel

theorem wit_CommandRings_waits :
    (RingHead 4 (stWd (eWord 0) (some 100)) 0 3 0 (eWord 0) ∧ (ringOf (stWd (eWord 0) (some 100)) 0 3).running = true ∧
      (ringOf (stWd (eWord 0) (some 100)) 0 3).word = some 100 ∧ 100 ≤ (eWord 0).deadline ∧
      wordHolds ((eWord 0).field 0x28 1) (memNat (stWd (eWord 0) (some 100)) 0 ((eWord 0).field 0x18 8) 8) ((eWord 0).field 0x20 8) = true) ∧
    (RingHead 4 (stWd (eWord 9) (some 100)) 0 3 0 (eWord 9) ∧ (ringOf (stWd (eWord 9) (some 100)) 0 3).word = some 100 ∧
      wordHolds ((eWord 9).field 0x28 1) (memNat (stWd (eWord 9) (some 100)) 0 ((eWord 9).field 0x18 8) 8) ((eWord 9).field 0x20 8) = false) ∧
    (RingHead 4 (stWd (eWord 9) none) 0 3 0 (eWord 9) ∧ (ringOf (stWd (eWord 9) none) 0 3).word = none ∧ (eWord 9).deadline ≠ 2 ^ 64 - 1 ∧
      (eWord 9).deadline + 64 < max (stWd (eWord 9) none).time 165) ∧
    (RingHead 0 (stEnt (entry 0 6 [])) 0 3 0 (entry 0 6 []) ∧ (ringOf (stEnt (entry 0 6 [])) 0 3).running = false ∧
      (entry 0 6 []).notBefore ≤ max (stEnt (entry 0 6 [])).time 0 ∧ (entry 0 6 []).deadline < (entry 0 6 []).stamp) := by
  refine ⟨⟨ringHead_of, ?_⟩, ⟨ringHead_of, ?_⟩, ⟨ringHead_of, ?_⟩, ⟨ringHead_of, ?_⟩⟩ <;> decide +kernel

theorem test_ring_wait_word : (gives (exec (.waitWordRead 0 3 0) (stWd (eWord 0) (some 100))) (fun t => ringHead t 0 3 == 1) &&
    gives (exec (.waitWordRead 0 3 0) (stWd (eWord 9) (some 100))) (fun t => ringHead t 0 3 == 0)) = true := by decide +kernel

/-- A stopped ring; a ring whose tail read of since 0 finds 16 entries; writes of its BLW_RING_CTL. -/
def stStop : State := wr (stRng {}) (ringReg 0 3 + 0x0C) 1
def stTail : State :=
  let s := wr64 (stRng { reading := some 0 }) (ringReg 0 3 + 0x18) 4096
  { s with mem := { s.mem with host := [(4096, 16)] } }
def rgW (v : Nat) : RegWrite := { who := .hd, off := BitVec.ofNat 28 (ringReg 0 3), val := BitVec.ofNat 32 v, now := 0 }

theorem ringAt {s : State} (h : partOfSlice s 0 = some 0 ∧ lowSlice s 0 = 0 ∧ cGet (fun _ =>
    none) s.blw.xfers 3 = none := by decide +kernel) :
    RingAt s 0 3 := ⟨⟨0, h.1, h.2.1⟩, h.2.2⟩

theorem wit_CommandRings_polling :
    (RingAt (stRng {}) 0 3 ∧ ringEn (stRng {}) 0 3 = true ∧ ringStopped (stRng {}) 0 3 = false ∧
      max (stRng {}).time 1000 % rdF (stRng {}) (ringReg 0 3 + 0x08) 23 0 = 0) ∧
    (RingAt stTail 0 3 ∧ ringEn stTail 0 3 = true ∧ ringStopped stTail 0 3 = false ∧ (ringOf stTail 0 3).reading = some 0 ∧
      leNat (hostBytes stTail (rd64 stTail (ringReg 0 3 + 0x18)) 8) = 16 ∧ ringFetch stTail 0 3 ≤ 16 ∧
          16 ≤ ringHead stTail 0 3 + ringSize stTail 0 3) ∧
    (RingAt (stRng { bursts := [(0, 1)] }) 0 3 ∧ (ringOf (stRng { bursts := [(0, 1)] }) 0 3).bursts = [(0, 1)]) ∧
    ((∀ v ∈ [0, 1, 2, 3], (rgW v).off.toNat = ringReg 0 3 ∧ (rgW v).val.toNat = v) ∧ partOfSlice (stRng {}) 0 = some 0 ∧
        lowSlice (stRng {}) 0 = 0 ∧
      ringEn (stRng {}) 0 3 = true ∧ ringEn { stRng {} with win := st.win } 0 3 = false ∧ ringStopped stStop 0 3 = true) := by
  refine ⟨⟨ringAt, ?_⟩, ⟨ringAt, ?_⟩, ⟨ringAt, ?_⟩, ?_⟩ <;> decide +kernel

theorem test_ring_poll : (gives (exec (.ringPoll 0 3 1000) (stRng {})) (fun t => (ringOf t 0 3).reading == some 1000) &&
    gives (exec (.ringTailRead 0 3 0) stTail) (fun t => (ringOf t 0 3).seen == 16)) = true := by decide +kernel

/-- Port 15 in a STATE, its receiver at SEQ 0xFFFE, with the port record x. -/
def stL (n : Nat) (x : Port) : State :=
  let s := wrF (wr State.reset (lnkPg 15 + 0x100) 1) (lnkPg 15 + 0x104) 31 28 n
  { s with lnk := { s.lnk with ports := [(15, x)] } }
def flit (q : BitVec 16) : Flit := { seq := q, ack := 0, nak := false, cvc := 0, credits := 0, pkts := [] }

theorem wit_LinkTraffic_flits :
    (portState (stL 2 {}) 15 = 2 ∧ (portOf (stL 2 {}) 15).again = [] ∧ (portOf (stL 2 {}) 15).replay.length < 96) ∧
    (portState (stL 2 { again := [flit 0xFFFF] }) 15 = 2 ∧ (portOf (stL 2 { again := [flit 0xFFFF] }) 15).again = [flit 0xFFFF]) ∧
    (rdB (stL 2 { rxSeq := 0xFFFE }) (lnkPg 15 + hInj) 31 = false ∧ (flit 0xFFFF).seq = (portOf (stL 2 { rxSeq := 0xFFFE }) 15).rxSeq + 1 ∧
      (flit 0xFFFF).nak = false) := by decide +kernel

theorem wit_LinkTraffic_lanes :
    (portState (stL 2 {}) 15 = 2 ∧ rdF (stL 2 {}) (lnkPg 15 + 0x104) 19 16 = 0xF ∧ rdF (stL 2 {}) (lnkPg 15 + 0x104) 23 20 = 0xF) ∧
    (∀ m < 9, nth 0 (List.replicate 9 0) m ≤ rdF (stL 2 {}) (lnkPg 15 + 0x10C) 23 0) ∧
    (rdB (stL 1 {}) (lnkPg 15 + 0x100) 0 = true ∧ portState (stL 1 {}) 15 < 2 ∧ 8 ≤ popCount 9 0x1FE ∧ popCount 9 0xFE < 8) := by
  decide +kernel

theorem test_lane_loss : gives (exec (.laneSignalLoss 15 7 0) (stL 2 {})) (fun t =>
    rdF t (lnkPg 15 + 0x104) 19 16 == 7) = true := by decide +kernel
theorem test_train : (gives (exec (.linkTrainDone 15 0x1FE 5 2 0) (stL 1 {})) (fun t => portState t 15 == 2) &&
    gives (exec (.linkTrainDone 15 0xFE 5 2 0) (stL 1 {})) (fun t => portState t 15 == 3)) = true := by decide +kernel
theorem test_flits : (gives (exec (.flitReceive 15 (flit 0xFFFF) true 0) (stL 2 { rxSeq := 0xFFFE })) (fun t =>
    (portOf t 15).rxSeq == 0xFFFF) &&
    gives (exec (.flitReceive 15 (flit 0xFFFF) false 0) (stL 2 { rxSeq := 0xFFFE })) (fun t => (portOf t 15).nak)) = true := by decide +kernel

def lkW (v : Nat) : RegWrite := { who := .hd, off := BitVec.ofNat 28 (lnkPg 15 + 0x100), val := BitVec.ofNat 32 v, now := 0 }

theorem wit_LinkTraffic_ports :
    (∀ v ∈ [0, 1, 2], (lkW v).off.toNat = lnkPg 15 + 0x100 ∧ (lkW v).val.toNat = v) ∧
        rdB (wr State.reset (lnkPg 15 + 0x100) 0) (lnkPg 15 + 0x100) 0 = false ∧
    (let s := { State.reset with lnk := { State.reset.lnk with hold := some 0 } }
     s.lnk.hold = some 0 ∧ 0 ≤ max s.time 0) := by decide +kernel

theorem test_lnk_ctl : (gives (exec (.lnkEnWrite (lkW 1)) (wr State.reset (lnkPg 15 + 0x100) 0)) (fun t => portState t 15 == 1) &&
    gives (exec (.lnkRetrain (lkW 3)) (stL 3 {})) (fun t => portState t 15 == 1)) = true := by decide +kernel

/-- Fabric time in a STATE, HOLDOVER entered at 0, with the reference clock or without; FTM_SET's time is 1,000. -/
def stFtm (n : Nat) (clk : Bool) : State :=
  let s := wr64 (wrF State.reset (ftmPg + 0x104) 2 0 n) (ftmPg + 0x120) 1000
  { s with ftm := { s.ftm with refclk := clk } }
def ftW : RegWrite := { who := .hd, off := BitVec.ofNat 28 (ftmPg + 0x100), val := 4, now := 1000 }

theorem wit_FabricTimeUnit :
    portState (stL 2 {}) 0 ≠ 2 ∧ portState (stL 2 {}) 15 = 2 ∧
    (ftmState (stFtm 3 false) = 3 ∧
      (stFtm 3 false).ftm.since + 1000000 * rdF (stFtm 3 false) (ftmPg + 0x108) 23 16 ≤
        max (stFtm 3 false).time (1000000 * rdF (stFtm 3 false) (ftmPg + 0x108) 23 16)) ∧
    (ftW.off.toNat = ftmPg + 0x100 ∧ ftW.val.toNat.testBit 2 = true ∧ ftmState (stFtm 5 true) = 5 ∧
      max (stFtm 5 true).time 1000 ≤ rd64 (stFtm 5 true) (ftmPg + 0x120)) ∧
    ((stFtm 2 true).ftm.refclk = true ∧ ftmState (stFtm 2 true) = 2 ∧ (stFtm 2 false).ftm.refclk = false) := by decide +kernel

theorem test_ftm : (gives (exec (.ftmSet ftW) (stFtm 5 true)) (fun t => t.time == 1000) &&
    gives (exec (.refclkLoss 0) (stFtm 2 true)) (fun t => ftmState t == 3)) = true := by decide +kernel

/-! ### Partitions, the build of a step's work list, billets -/

/-- A write of SP_PART_REQ with GO. -/
def prW (o part : Nat) : RegWrite :=
  { who := .hd, off := BitVec.ofNat 28 (partPg + 0x100), val := BitVec.ofNat 32 (2 ^ 31 + part * 2 ^ 8 + o), now := 0 }

/-- The fence has opened; client 7 may run one partition; the request registers ask for slice 7, whose tiles are numbered, for it, with
job 5. -/
def stReq : State :=
  let asked : Cells W32 := [(bootPg + 0x100, 1), (partPg + 0x104, 0x80), (partPg + 0x110, 7), (partPg + 0x114, 5)]
  let tiles : Cells W32 := (List.range 32).map (fun k => (tilePg (216 + k) 0 + 0x108, BitVec.ofNat 32 (224 + k)))
  { State.reset with win := { State.reset.win with regs := asked ++ tiles, clim := [(0, 0x00078001)] } }
/-- The same with partition 3 (slice 7) in a state. -/
def stHas (n : Nat) : State := wr stReq (partPg + 0x140 + 12) (n * 2 ^ 8 + 0x80)

theorem partCommand {o : Nat} {r : RegWrite} {s : State}
    (h : r.off.toNat = partPg + 0x100 ∧ r.val.toNat.testBit 31 = true ∧ bitsOf r.val.toNat 2 0 = o ∧ preqBusy s = false ∧ spSafe s = false ∧
      s.boot.phase ≠ .holdup := by decide +kernel) : PartCommand o r s := by
  obtain ⟨a, b, c, d, e, f⟩ := h
  exact ⟨a, b, c, d, e, f⟩

theorem wit_PartitionRequests :
    (PartCommand 1 (prW 1 0) stReq ∧ spReady stReq = true ∧ createCheck stReq (reqOf (prW 1 0) stReq) = none ∧
      createCheck (wr stReq (partPg + 0x104) 0) (reqOf (prW 1 0) (wr stReq (partPg + 0x104) 0)) = some 8) ∧
    (PartCommand 2 (prW 2 3) stReq ∧ PartCommand 3 (prW 3 3) stReq ∧ partState stReq (reqOf (prW 2 3) stReq).part = 0) ∧
    (PartCommand 2 (prW 2 3) (stHas 2) ∧ spReady (stHas 2) = true ∧ partState (stHas 2) (reqOf (prW 2 3) (stHas 2)).part = 2 ∧
      PartCommand 3 (prW 3 3) (stHas 2) ∧ windowOpen (stHas 2) (reqOf (prW 3 3) (stHas 2)).part = false) ∧
    (∀ o ∈ [1, 2, 3], PartCommand o (prW o 0) State.reset ∧ spReady State.reset = false) ∧
    (∀ o ∈ [1, 2, 3], (let s := { stHas 3 with prt := { Parts.reset with running := some (o, 3) } }
      s.prt.running = some (o, 3) ∧ partState s 3 ≠ 2 ∧ ∀ t ∈ ((partSlices s 3).map sliceTiles).flatten, tileTransfers s t = false)) := by
  refine ⟨⟨partCommand, ?_⟩, ⟨partCommand, partCommand, ?_⟩, ⟨partCommand, ?_, ?_, partCommand, ?_⟩, fun o ho => ⟨partCommand ?_, ?_⟩,
    fun o ho => ?_⟩
  all_goals first | decide +kernel | (revert ho; revert o; decide +kernel)

theorem test_part_refused : gives (exec (.partitionReset (prW 3 3)) stReq) (fun t =>
    rdF t (partPg + 0x124) 7 0 == 7) = true := by decide +kernel

/-- A sequence table that is enabled and has a build in progress, or not. -/
def stSq (b : Option SeqBuild) : State := { wr st (seqPg 0 + 0x100) 1 with seq := [(0, { build := b, notified := true })] }
def sqB : SeqBuild := { tail := 2 ^ 64 - 1, statuses := [], work := [], flags := 15 }

theorem wit_SequenceBuilds :
    (∀ b ∈ [none, some sqB], partOfSlice (stSq b) 0 = some 0 ∧ lowSlice (stSq b) 0 = 0 ∧ (seqOf (stSq b) 0).notified = true ∧
      fixedBatch (stSq b) 0 = false ∧ seqEn (stSq b) 0 = true ∧ (seqOf (stSq b) 0).build = b) ∧
    (let s := { stSq none with prt := { Parts.reset with fixed := [(0, true)] } }
     partOfSlice s 0 = some 0 ∧ fixedBatch s 0 = true) ∧
    sqB.tail < 2 ^ 64 := by decide +kernel

theorem test_build_done : gives (exec (.buildDone 0 0) (stSq (some sqB))) (fun t => rd64 t (seqPg 0 + 0x140) == 2 ^ 64 - 1 &&
    rdB t (seqPg 0 + hIntStat) 0) =
    true := by decide +kernel

/-- Partition 0's billet engine, enabled, in a phase with x; its table has one MIRROR page, page 2, its region of 6 pages at page 128, and its group has two members. -/
def stBlt (n : Nat) (x : Billet) : State :=
  let s := wr (wr64 (wr (wr64 (wr (wr (wr st (bltPg 0 + 0x100) 1) (bltPg 0 + 0x104) n) (qchPg 0 + 0x128) 2) (bltPg 0 + 0x110) 65536) (bltPg 0 + 0x118) 1)
    (bltPg 0 + 0x120) (128 * pageBytes)) (bltPg 0 + 0x128) 6
  { s with blt := [(0, x)] }
def bltRun : BilletRun :=
  { billet := 1, step := 2, gen := 1, start := 0, commits := 0, skips := 0, loss := 0, whole := [], copied := [], opened := 0 }
/-- With the table's entry; with the manifest too. -/
def stTab (n : Nat) (x : Billet) : State := put (stBlt n x) 65538 [64, 0, 0, 0, 0, 0, 1, 0, 0, 0, 1]
def stMan : State := put (put (stTab 0 {}) (128 * pageBytes) [2, 0, 3]) (128 * pageBytes + 0x70) (leBytes 4 0xC485BF48)
def blW (v : Nat) : RegWrite := { who := .hd, off := BitVec.ofNat 28 (bltPg 0 + 0x100), val := BitVec.ofNat 32 v, now := 0 }

theorem billetAt {n : Nat} {s : State} (h : bltPart s 0 n = some (0, bltRun) ∧ (bltOf s 0).outcome = none := by decide +kernel) :
    BilletAt s 0 n 0 bltRun := ⟨h.1, h.2⟩

theorem wit_BilletPhases :
    (∀ n ∈ [1, 2, 3, 4], BilletAt (stBlt n { run := some bltRun }) 0 n 0 bltRun) ∧
    (let s := stBlt 2 { run := some bltRun }
     partOfSlice s 0 = some 0 ∧ lowSlice s 0 = 0 ∧ (bltOf s 0).run = some bltRun ∧ (bltOf s 0).outcome = none ∧
      bltRun.start + 1000000 * rdF s (bltPg 0 + 0x15C) 19 0 + 64 < max s.time (1000000 * rdF s (bltPg 0 + 0x15C) 19 0 + 65) ∧
      (blW 64).off.toNat = bltPg 0 + 0x100 ∧ (blW 64).val.toNat.testBit 6 = true) := by
  refine ⟨fun n hn => billetAt ?_, ?_⟩
  · revert n; decide +kernel
  · decide +kernel

theorem test_billet_mirror : gives (exec (.billetMirrorDone 0 none 0) (stBlt 2 { run := some bltRun })) (fun t =>
    bltPhase t 0 == 3) = true := by
  decide +kernel
/-- Tongs TIMEOUT is 2 (R193), a billet's TIMEOUT too (R382, R394). -/
theorem test_billet_timeout : gives (exec (.billetMirrorDone 0 (some 2) 0) (stBlt 2 { run := some bltRun })) (fun t =>
    rdF t (bltPg 0 + 0x104) 31 24 == 2 && bltPhase t 0 == 0) = true := by decide +kernel

/-- A manifest of billet 0. -/
def man0 : List Byte := leBytes 2 2 ++ leBytes 2 3 ++ List.replicate 108 0 ++ leBytes 4 0xC485BF48

/-- A restore in mode 1 of billet 0, and the digest registers set for the partition's last page. -/
def stRes : State := stBlt 5 { restore := some { billet := 0, mode := 1, start := 0 } }
def stDig (n a : Nat) : State := wr (wr64 (stBlt n {}) (bltPg 0 + 0x168) a) (bltPg 0 + 0x170) 1

theorem wit_BilletCopies :
    (let s := stBlt 0 { trickles := [{ billet := 1, gen := 1, pages := 1 }, { billet := 2, gen := 0, pages := 1 }] }
     partOfSlice s 0 = some 0 ∧ (bltOf s 0).trickles ≠ []) ∧
    ((∀ n ∈ [0, 1, 2, 3], (blW (4 + 8 * n)).off.toNat = bltPg 0 + 0x100 ∧ (blW (4 + 8 * n)).val.toNat.testBit 2 = true ∧
        bitsOf (blW (4 + 8 * n)).val.toNat 4 3 = n) ∧
      partOfSlice stMan 0 = some 0 ∧ lowSlice stMan 0 = 0 ∧ armed stMan 0 = false ∧ bltEn stMan 0 = true ∧ bltPhase stMan 0 = 0 ∧
      bltFormatOk stMan 0 0 = true ∧ bltPagesOk stMan 0 0 = true ∧
      manifestOk (sourceManifest stMan 0 0 0 (rd64 stMan (bltPg 0 + 0x160))) (rd64 stMan (bltPg 0 + 0x160)) 0 = true) ∧
    (let s := stTab 0 {}
     partOfSlice s 0 = some 0 ∧ bltEn s 0 = true ∧ bltFormatOk s 0 0 = true ∧ bltPagesOk s 0 0 = true ∧
      manifestOk (sourceManifest s 0 0 0 (rd64 s (bltPg 0 + 0x160))) (rd64 s (bltPg 0 + 0x160)) 0 = false) ∧
    (partOfSlice stRes 0 = some 0 ∧ (bltOf stRes 0).restore = some { billet := 0, mode := 1, start := 0 } ∧ manifestOk man0 0 0 = true) ∧
    (let a := partPages st 0 * pageBytes - pageBytes
     (blW 32).off.toNat = bltPg 0 + 0x100 ∧ (blW 32).val.toNat.testBit 5 = true ∧ partOfSlice (stDig 0 a) 0 = some 0 ∧
      lowSlice (stDig 0 a) 0 = 0 ∧ bltPhase (stDig 0 a) 0 = 0 ∧ digAddr (stDig 0 a) 0 % pageBytes = 0 ∧
      inPart (stDig 0 a) 0 (digAddr (stDig 0 a) 0) (digBytes (stDig 0 a) 0) = true ∧
      digAddr (stDig 0 1) 0 % pageBytes ≠ 0 ∧ bltPhase (stDig 6 a) 0 = 6) := by
  refine ⟨by decide +kernel, by decide +kernel, by decide +kernel, by decide +kernel, by decide +kernel⟩

/-! ### Hearth, power, start-up, calibration -/

/-- Die 3's agent. -/
def stDie (x : DieAgent) : State := { st with hrt := { Hearth.reset with dies := [(3, x)] } }
/-- HRT.HINT: START_IN 1,023 us, LEVEL 15, LENGTH 65,535 us; and at once. -/
def hintW (n : Nat) : Issue := op 7 0x30 [(14, 65535), (10, 15), (0, n)]
def boostAt : Boost := { mv := 20, start := 0, stop := 100 }

theorem wit_HearthPeriods :
    rdB st (hrtPg + hInj) 31 = false ∧
    (∀ g ∈ [0, 10], let s := wrF (stDie { target := some g, ageTop := g }) (hrtDPg 0 + 0x104) 27 24 15
      (dieAgent s 3).target = some g ∧ g < 16 ∧ min (powerCeil s) (dieTop s 3) = g) ∧
    ((dieAgent (stDie { boost := some boostAt }) 3).boost = some boostAt ∧ boostAt.stop ≤ max (stDie { boost := some boostAt }).time 100) ∧
    (State.reset.hrt.rawCnt = 0 ∧
      (let s := { st with hrt := { Hearth.reset with rawCnt := 500, rawSum := ⟨1000, 1⟩ } }
       s.hrt.rawCnt ≠ 0 ∧ frLe s.hrt.rawSum ⟨0, 0⟩ = false)) ∧
    (Ready 7 0x30 (fun w => zero w 47 30) noRegs (hintW 1023) st ∧ hintLate (hintW 1023) st = false ∧
      Ready 7 0x30 (fun w => zero w 47 30) noRegs (hintW 0) st ∧ hintLate (hintW 0) st = true) := by
  refine ⟨by decide +kernel, by decide +kernel, by decide +kernel, by decide +kernel, rdy, by decide +kernel, rdy, by decide +kernel⟩

theorem test_hint : gives (exec (.hrtHint (hintW 1023)) st) (fun t =>
    (cGet (fun _ => none) (dieAgent t 0).hints 0).map (fun h => (h.start, h.stop, h.level)) == some (1023000, 66558000, 15)) = true := by
  decide +kernel

/-- HRT_CAP_REQ. -/
def capW (w : Nat) : RegWrite := { who := .hd, off := BitVec.ofNat 28 (hrtPg + 0x10C), val := BitVec.ofNat 32 (2 ^ 31 + w), now := 0 }
/-- SP runs, or restarts; rail 10 has a number of spare phases and 6 active ones. -/
def stSp (b : Bool) : State := wrB (wrB State.reset (sp0Pg + 0x100) 9 b) (sp0Pg + 0x100) 10 false
def stRail (n : Nat) : State := wr State.reset (hrtPg + 0x180 + 40) (6 * 2 ^ 24 + n * 2 ^ 16)

theorem wit_PowerInput_train :
    (∀ w ∈ [1099, 1100, 6500, 6501], (capW w).off.toNat = hrtPg + 0x10C ∧ (capW w).val.toNat.testBit 31 = true ∧
      bitsOf (capW w).val.toNat 15 0 = w) ∧
    (∀ b ∈ [true, false], spSafe (stSp b) = false ∧ spRestarting (stSp b) = b) ∧
    rdF (stRail 1) (hrtPg + 0x180 + 4 * 10) 23 16 ≠ 0 ∧ rdF (stRail 0) (hrtPg + 0x180 + 4 * 10) 23 16 = 0 := by decide +kernel

theorem test_cap : (gives (exec (.capRequest (capW 1100)) (stSp false)) (fun t => rdF t (hrtPg + 0x108) 15 0 == 1100) &&
    gives (exec (.capRequest (capW 6501)) (stSp false)) (fun t => rdB t (hrtPg + 0x10C) 30)) = true := by decide +kernel
theorem test_phase : (gives (exec (.phaseFail 10 0) (stRail 1)) (fun t => rd t (hrtPg + 0x180 + 40) == 6 * 2 ^ 24) &&
    gives (exec (.phaseFail 10 0) (stRail 0)) (fun t => rd t (hrtPg + 0x180 + 40) == 5 * 2 ^ 24)) = true := by decide +kernel

/-- The module in a phase of its start-up; a run of 16 ms with stretches on tile 287, which is stretching. -/
def stPh (b : Boot) : State := { State.reset with boot := b }
def stSlow : State := { State.reset with hrt := { Hearth.reset with slow := [287], runs := [(287, 16)] } }

theorem wit_HeatAndDroop :
    (rdB State.reset (hrtDPg 3 + hInj) 31 = false ∧ ([114].take 72).foldl max 0 < 115 ∧ 115 ≤ ([115].take 72).foldl max 0 ∧
      canTrip (stPh { Boot.reset with phase := .ready }) = true) ∧
    (287 ∉ State.reset.hrt.slow ∧ 287 ∈ stSlow.hrt.slow) ∧
    (16 ≤ cGet (fun _ => 0) stSlow.hrt.runs 287 ∧ cGet (fun _ => 0) State.reset.hrt.runs 287 < 16) := by decide +kernel

/-- The thermal loop at 90 °C with the reset limits leaves the junction there. -/
theorem test_thermal : gives (exec (.thermalLoop 3 [90, 60] 30 35 0) State.reset) (fun t => junction t 3 == 90) = true := by decide +kernel
theorem test_droop : gives (exec (.droopLocal 287 0) stSlow) (fun t => tileFailed t 287) = true := by decide +kernel

/-- Start-up's last stage runs. -/
def stLast : State :=
  stPh { Boot.reset with phase := .starting, running := [.s9], done := [.s1, .s2, .s3, .s4, .s5, .s6a, .s6b, .s6c, .s6d, .s7, .s8],
                         modEn := true }
def mrW (v : Nat) : RegWrite := { who := .hd, off := BitVec.ofNat 28 (bootPg + 0x104), val := BitVec.ofNat 32 (2 ^ 31 + v), now := 0 }

theorem wit_StartUp :
    (State.reset.boot.phase = .off ∧
      (∀ b ∈ [true, false], (stPh { Boot.reset with phase := .tripped, keepsOff := b }).boot.keepsOff = b)) ∧
    (stLast.boot.phase = .starting ∧ .s9 ∈ stLast.boot.running ∧ (∀ y ∈ stageAfter .s9, y ∈ stLast.boot.done ∨ y = .s9) ∧
      stLast.boot.modEn = true ∧
      (∀ g ∈ [Stage.s2, .s3, .s4], g ∈ (stPh { Boot.reset with phase := .starting, running := [g] }).boot.running) ∧
      (stPh { Boot.reset with phase := .starting, running := [.s3] }).boot.modEn = false) ∧
    (.s3 ∈ stLast.boot.done ∧ stLast.boot.origin + 6000000000 ≤ max stLast.time 6000000000) ∧
    ((∀ v ∈ [0, 1, 2], (mrW v).off.toNat = bootPg + 0x104 ∧ (mrW v).val.toNat.testBit 31 = true ∧ (mrW v).val.toNat % 4 = v) ∧
      (∀ b ∈ [true, false], let s := { stSp b with boot := { Boot.reset with phase := .ready } }
        spSafe s = false ∧ spRestarting s = b ∧ canReset s = true)) ∧
    (canReset stLast = true ∧ (stPh { Boot.reset with phase := .standby }).boot.phase = .standby) := by decide +kernel

theorem test_standby : gives (exec (.startupStageDone { stage := .s3 } 0) (stPh { Boot.reset with phase := .starting, running := [.s3] }))
    (fun t => t.boot.phase == .standby) = true := by decide +kernel

/-- The bank is charged, or not; hold-up since 5 ns. -/
def stChg (b : Bool) : State := stPh { Boot.reset with phase := .ready, charged := b }
def stHold : State := stPh { Boot.reset with phase := .holdup, lost := 5 }

theorem wit_PowerInput :
    (∀ b ∈ [true, false], (stChg b).boot.phase ≠ .off ∧ (stChg b).boot.phase ≠ .holdup ∧ (stChg b).boot.charged = b) ∧
    (stHold.boot.phase = .holdup ∧ stHold.boot.lost + 20000000 ≤ max stHold.time 20000005 ∧
        max stHold.time 20000004 < stHold.boot.lost + 20000000) ∧
    canTrip (stChg true) = true ∧ canTrip stHold = false := by decide +kernel

theorem test_holdup : (gives (exec (.holdupEnd 20000005) stHold) (fun t => t.boot.phase == .off) &&
    gives (exec (.inputLoss 0) (stChg true)) (fun t => t.boot.phase == .holdup) &&
    gives (exec (.analogTrip 10 0) (stChg true)) (fun t => t.boot.phase == .tripped)) = true := by decide +kernel

/-- Records of stack 0 and of port 15's lane 8, the first due; a window of the slices in no partition, open since 0; lane 8 of port 15 is being
equalised anew. -/
def calRecA : CalRec := { oob := false, load := 5, temp := 60, taken := 0 }
def stCal : State :=
  { State.reset with cal := { Cal.reset with recs := [(0, some calRecA), (recKey 3 143, some calRecA)], due := [0], lanes := [248] } }
def calW : CalWindow := { start := 0, recs := [0], stackIds := [0], retrain := [] }
def stWin (p : Bool) : State :=
  { stCal with cal := { stCal.cal with windows := [(8, some calW)] }, mem := { stCal.mem with paused := [(0, p)] } }
def fcW : RegWrite := { who := .hd, off := BitVec.ofNat 28 (calPg + 0x100), val := 1, now := 0 }

theorem wit_CalibrationWindows :
    (calRec stCal 0 = some calRecA ∧ fcW.off.toNat = calPg + 0x100 ∧ fcW.val.toNat.testBit 0 = true ∧ stCal.cal.recs ≠ []) ∧
    (mayOpen (tick stCal 0) none = true ∧ mayOpen (tick (stWin true) 0) none = false) ∧
    (calWindowAt (stWin true) none = some calW ∧ calW.start + 150000 ≤ max (stWin true).time 150000 ∧ calW.stackIds = [0] ∧
      notchAsked (stWin true) 0 = false) ∧
    (calWindowAt (stWin false) none = some calW ∧ calW.start + 200000 ≤ max (stWin false).time 200000 ∧
      (∀ c ∈ calW.stackIds, cGet (fun _ => false) (stWin false).mem.paused c = false)) ∧
    16 * 15 + 8 ∈ stCal.cal.lanes := by decide +kernel

theorem test_cal_window : gives (exec (.calWindow none 0) stCal) (fun t => (calWindowAt t none).isSome) = true := by decide +kernel
theorem test_cal_close : gives (exec (.calWindowClose none [] [] 200000) (stWin false)) (fun t =>
    (calWindowAt t none).isNone && rd t (calPg + 0x124) == 200) = true := by decide +kernel

/-! ### SP, management, the window -/

def rw (o v : Nat) : RegWrite := { who := .hd, off := BitVec.ofNat 28 o, val := BitVec.ofNat 32 v, now := 0 }
def rr (o : Nat) : RegRead := { who := .hd, off := BitVec.ofNat 28 o, now := 0 }

/-- A trial since 0, with Hearth's new code in force; SP restarting with a cap held. -/
def stTrial : State :=
  { State.reset with sp := { State.reset.sp with trial := some { changed := [], start := 0, opened := 0 } },
                     hrt := { Hearth.reset with newCode := true } }
def stRestart : State :=
  let s := wrB State.reset (sp0Pg + 0x100) 9 true
  { s with prt := { s.prt with heldCap := some 1100 } }

theorem mgtOpen {s : State} (h : spRestarting s = false ∧ spSafe s = false ∧ s.boot.phase ≠ .holdup := by decide +kernel) : MgtOpen s :=
  ⟨h.1, h.2.1, h.2.2⟩

theorem wit_RestartsAndUpdates :
    (spRestarting stRestart = true ∧ stRestart.prt.heldCap = some 1100 ∧ spSafe stRestart = false) ∧
    ((∀ b ∈ [29, 30, 31], isUpdCtl (rw (sp0Pg + 0x104) (2 ^ b)) b = true) ∧ spSafe State.reset = false ∧ State.reset.sp.trial = none ∧
      spRestarting State.reset = false ∧ stTrial.sp.trial.isSome = true ∧ spServes stTrial = true) ∧
    MgtOpen State.reset ∧
    (∀ x, stTrial.sp.trial = some x → stTrial.hrt.newCode = true ∧
      x.start + rdF stTrial (sp0Pg + 0x114) 16 0 * 1000000000 ≤ max stTrial.time (600 * 1000000000) ∧
      max stTrial.time (600 * 1000000000 - 1) < x.start + rdF stTrial (sp0Pg + 0x114) 16 0 * 1000000000) := by
  refine ⟨by decide +kernel, by decide +kernel, mgtOpen, fun x hx => ?_⟩
  obtain rfl : _ = x := Option.some.inj hx
  decide +kernel

theorem test_lockstep : gives (exec (.lockstepMismatch 0) State.reset) (fun t => spRestarting t && !(spSafe t)) = true := by decide +kernel
theorem test_trial : gives (exec (.trialExpire (600 * 1000000000)) stTrial) (fun t => t.sp.trial == none &&
    rdF t (sp0Pg + 0x100) 31 24 == 7) = true := by
  decide +kernel
/-- A bundle of no bytes fails the format check, status 1 (R445, R451). -/
theorem test_update_refused : gives (exec (.updateGo (rw (sp0Pg + 0x104) (2 ^ 31))) State.reset) (fun t =>
    rdF t (sp0Pg + 0x100) 31 24 == 1) = true := by
  decide +kernel

/-- The log holds entries 1 and 2; entry 1 waits to be polled. -/
def clnE (n : Nat) : ClinkerEntry :=
  { seq := n, time := 0, epoch := 0, cat := 1, code := 1, flags := 0, source := 0, part := 0, payload := [], chain := [], good := true }
def stLog : State :=
  { State.reset with cln := { State.reset.cln with ring := [clnE 1, clnE 2] }, mgt := { State.reset.mgt with events := [1] },
                     boot := { Boot.reset with phase := .ready } }

theorem wit_ManagementRequests :
    (spRestarting stRestart = true ∧ stHold.boot.phase = .holdup) ∧ (MgtOpen stLog ∧ MgtOpen State.reset) ∧
    (∀ q, 1 ≤ q → q < 1 + 2 → (entryAt stLog.cln q).isSome = true) ∧
    (canReset stLog = true ∧ stLog.mgt.events = [1] ∧ State.reset.mgt.events = []) := by
  refine ⟨by decide +kernel, ⟨mgtOpen, mgtOpen⟩, fun q h1 h2 => ?_, by decide +kernel⟩
  have : q = 1 ∨ q = 2 := by omega
  rcases this with rfl | rfl <;> decide +kernel

theorem test_poll : gives (exec (.pollEvent 0) stLog) (fun t => t.mgt.events == []) = true := by decide +kernel

/-- SP_FI_ADDR names tile 287's SPAD page; SITE 2 is asked for; the policy allows injection, or not. -/
def stInj (allow : Nat) : State := wr (wr State.reset (sp0Pg + 0x11C) (2 ^ 31 + 2 * 2 ^ 20)) (sp0Pg + 0x140) (2 * allow)

theorem wit_AttestationAndFaults :
    (∀ b ∈ [29, 30, 31], ∀ x ∈ [7, 8, 15], AttCommand (rw (attPg + 0x100) (2 ^ b + x)) State.reset b ∧
      bitsOf (rw (attPg + 0x100) (2 ^ b + x)).val.toNat 3 0 = x) ∧
    (let r := rw (sp0Pg + 0x118) (2 ^ 31 + spadPg 287 / 4096)
     r.off.toNat = sp0Pg + 0x118 ∧ r.val.toNat.testBit 31 = true ∧
      pageAt (bitsOf r.val.toNat 15 0 * 4096) = some ⟨.spad, 3, 71, spadPg 287⟩ ∧
      ∀ a ∈ [0, 1], spServes (stInj a) = true ∧
        (rdB (stInj a) (sp0Pg + 0x140) 1 && (sitesOf .spad).contains (bitsOf (rd (stInj a) (sp0Pg + 0x11C)) 23 20)) = (a == 1)) := by
  refine ⟨?_, ?_⟩
  · intro b hb x hx
    unfold AttCommand
    revert x; revert b; decide +kernel
  · decide +kernel

theorem test_fault_arm : gives (exec (.faultInjArm (rw (sp0Pg + 0x118) (2 ^ 31 + spadPg 287 / 4096))) (stInj 1)) (fun t =>
    rd t (spadPg 287 + hInj) == 2 ^ 31 + 2 * 2 ^ 20) = true := by decide +kernel

/-- A plain write, computed; what else holds of its page, register and half. -/
def plainB (r : RegWrite) (s : State) (what : PageRef → RegDef → RegHalf → Bool) : Bool :=
  r.off.toNat % 4 == 0 && (r.who != .sp || !(spRestarting s)) && decide (0x100 ≤ r.off.toNat % 4096) &&
  (match pageAt r.off.toNat with
   | some p => plainKind p.kind && (match findReg p.kind.regs (r.off.toNat % 4096) with
     | some (g, _, h) => placeOk s p g.place && what p g h
     | none => false)
   | none => false)

theorem plain_of {r : RegWrite} {s : State} {what : PageRef → RegDef → RegHalf → Bool} (h : plainB r s what = true) :
    ∃ p g j half, PlainWrite r s p g j half ∧ what p g half = true := by
  unfold plainB at h
  split at h
  · rename_i p hp
    split at h
    · rename_i g j half hg
      simp only [Bool.and_eq_true, beq_iff_eq, decide_eq_true_eq, Bool.or_eq_true, bne_iff_ne, ne_eq, Bool.not_eq_true'] at h
      obtain ⟨⟨⟨a, b⟩, c⟩, d, e, f⟩ := h
      exact ⟨p, g, j, half, ⟨a, fun w => b.resolve_left (fun n => n w), hp, c, d, hg, e⟩, f⟩
    · simp at h
  · simp at h

/-- TILE_CODE of tile 287, locked while a thread runs; TILE_LOGICAL, which HD may not write; TILE_THR_ARG's halves. -/
theorem wit_WindowWrites :
    (∃ off, off % 4 = 0 ∧ off < 2 ^ 28 ∧ pageAt off = none) ∧
    (∃ p g j half, PlainWrite (rw (tilePg 287 0 + 0x110) 0x7FFF) State.reset p g j half ∧
      (g.shape == .word && g.fields.all (fun f => f.acc == .rw && f.legal == none) && !(isLocked State.reset p 0x110 g.lock)) = true) ∧
    (∃ p g j half, PlainWrite (rw (tilePg 0 0 + 0x110) 0x7FFF) st p g j half ∧
      (g.shape == .word && g.fields.all (fun f => f.acc == .rw && f.legal == none) && isLocked st p 0x110 g.lock) = true) ∧
    (∀ v ∈ [0, 0xFFFF], ∃ p g j half, PlainWrite (rw (tilePg 287 0 + 0x108) v) State.reset p g j half ∧
      (g.shape == .word && g.fields != [] && g.fields.all (fun f => f.acc == .rws) && !(rdB State.reset (p.base + hStat) 0) &&
        (g.fields.all (fun f =>
            decide (bitsOf (BitVec.ofNat 32 v).toNat f.hi f.lo = rdF State.reset (tilePg 287 0 + 0x108) f.hi f.lo)) == (v == 0xFFFF))) = true) ∧
    (∀ h ∈ [RegHalf.low, .high], ∃ p g j half,
        PlainWrite (rw (tilePg 287 0 + 4096 + 0x508 + (if h = .low then 0 else 4)) 1) State.reset p g j half ∧
      (g.shape == .pair && g.fields != [] && g.fields.all (fun f => f.acc == .rw) && half == h &&
          !(isLocked State.reset p 0x50C g.lock)) = true) := by
  refine ⟨⟨2 ^ 28 - 4, by decide +kernel⟩, plain_of (by decide +kernel), plain_of (by decide +kernel), fun v hv => plain_of ?_, fun h hh =>
      plain_of ?_⟩
  · revert v; decide +kernel
  · revert h; decide +kernel

theorem test_tile_logical_rws : gives (exec (.regWrite (rw (tilePg 287 0 + 0x108) 0)) State.reset) (fun t =>
    rd t (tilePg 287 0 + 0x108) == 0xFFFF && rdB t (tilePg 287 0 + hStat) 0) = true := by decide +kernel
theorem test_reg_write : gives (exec (.regWrite (rw (tilePg 287 0 + 0x110) 0x00017FFF)) State.reset) (fun t =>
    rd t (tilePg 287 0 + 0x110) == 0x00017FFF) = true := by
  decide +kernel

theorem wit_WindowReadsAndHeader :
    ((rr (sp0Pg + 0x108)).off.toNat % 4 = 0 ∧ tileReg (sp0Pg + 0x108) .spad 0x120 = none ∧ isLow (sp0Pg + 0x108) = true ∧
      cGet (fun _ => none) State.reset.win.hiLatch (sp0Pg + 0x108) = none) ∧
    (let s := { State.reset with win := { State.reset.win with hiLatch := [(sp0Pg + 0x10C, some 7)] } }
     cGet (fun _ => none) s.win.hiLatch (rr (sp0Pg + 0x10C)).off.toNat = some 7) ∧
    ((pageAt (sp0Pg + 2)).isSome = true ∧ rdB State.reset (sp0Pg + hStat) 0 = false ∧
        rdB (wr State.reset (sp0Pg + hStat) 1) (sp0Pg + hStat) 0 = true) := by
  decide +kernel

theorem test_malformed : gives (exec (.malformedAccess .hd (BitVec.ofNat 28 (sp0Pg + 2)) 4 false 0) State.reset) (fun t =>
    rdB t (sp0Pg + hStat) 0 && t.win.lastRead == 0) = true := by decide +kernel

/-- A page of SP, its error registers and its interrupts. -/
theorem wit_ErrorLatch_InterruptMessages_SetWinsOverClear_CounterRules :
    ((rw (sp0Pg + hCtl) 1).off.toNat % 4096 = hCtl ∧ (rw (sp0Pg + hCtl) 1).val.toNat.testBit 0 = true ∧
      (pageAt (rw (sp0Pg + hCtl) 1).off.toNat).isSome = true) ∧
    (sp0Pg % 4096 = 0 ∧ (rw (sp0Pg + hIntEn) 1).off.toNat % 4096 = hIntEn ∧ (pageAt (sp0Pg + hIntEn)).isSome = true) ∧
    ((rw (sp0Pg + hIntStat) 1).off.toNat % 4096 = hIntStat ∧ (pageAt (sp0Pg + hIntStat)).isSome = true) ∧
    (let r := rw (tilePg 287 0 + 0x100) 8
     ∃ p b, pageAt r.off.toNat = some p ∧ cntClrBit p.kind (r.off.toNat % 4096) = some b ∧ r.val.toNat.testBit b = true ∧
      placeOk State.reset p (regPlace p.kind (r.off.toNat % 4096)) = true ∧
      ∃ g ∈ cntClrRegs p.kind (r.off.toNat % 4096), g.shape = .cnt ∧ 0 < g.count ∧
          (p.base + g.off + 0 * g.stride) / 4096 = p.base / 4096) := by
  refine ⟨by decide +kernel, by decide +kernel, by decide +kernel, ⟨⟨.tile0, 3, 71, tilePg 287 0⟩, 3, ?_⟩⟩
  decide +kernel

theorem test_err_clr : gives (exec (.errClr (rw (sp0Pg + hCtl) 1) (some (5, 6))) (wr State.reset (sp0Pg + hStat) 3)) (fun t =>
    rd t (sp0Pg + hStat) == 1 && rd t (sp0Pg + hErrSyn) == 5) = true := by decide +kernel
/-- The set wins (R13). -/
theorem test_set_wins : gives (exec (.intStatW1c (rw (sp0Pg + hIntStat) 3) 2) (wr State.reset (sp0Pg + hIntStat) 3)) (fun t =>
    rd t (sp0Pg + hIntStat) == 2) =
    true := by decide +kernel
theorem test_cnt_clr : gives (exec (.cntClr (rw (tilePg 287 0 + 0x100) 8) [(tilePg 287 0 + 0x140,
    2)]) (wr State.reset (tilePg 287 0 + 0x140) 9)) (fun t =>
    rd t (tilePg 287 0 + 0x140) == 2) = true := by decide +kernel

/-! ### Every command -/

theorem wit_StepRunsFrontCommand :
    { State.reset with pending := [.nop (op 0 0 [])] }.pending = Instr.nop (op 0 0 []) :: [] ∧ State.reset.pending = [] := by decide +kernel

theorem test_step : step { st with pending := [.nop (op 0 0 []),
    .refclkValid 0] } = exec (.nop (op 0 0 [])) { st with pending := [.refclkValid 0] } := rfl

theorem wit_CommandsKeepQueue : gives (exec (.refclkValid 0) State.reset) (fun _ => true) = true := by decide +kernel

theorem wit_StepKeepsMemory : MemoryOk st ∧ step st = .next st :=
  ⟨⟨by decide +kernel, by decide +kernel, by decide +kernel, by decide +kernel, by decide +kernel, by decide +kernel, by decide +kernel⟩, rfl⟩

theorem wit_WellFormedCommandsRun :
    (match exec (.coldStart 65001 0) State.reset with
     | .fault _ => true
     | _ => false) = true ∧
    wellFormed (.streamIn descW) = true ∧
    (match exec (.streamIn descW) (stD (desc 5 0 0 0 0 0 0 0 0)) with
     | .refused _ => true
     | _ => false) = true := by
  decide +kernel

theorem wit_OperationsWithheld :
    (wellFormed (.add (op 0 1 [])) = true ∧ ((op 0 1 []).thread State.reset).st ≠ .runnable) ∧
    (let s := wr st (tilePg 0 0 + 0x110) 0
     ((op 0 1 []).thread s).st = .runnable ∧ (pcFault s 0 (pcOf (op 0 1 []) s)).isSome = true) ∧
    (let i := op 0 1 [(48, 1)]
     wellFormed (.add i) = true ∧ (i.thread st).st = .runnable ∧ pcFault st 0 (pcOf i st) = none ∧ guardOk st 0 0 i.w = false) ∧
    (let i := op 15 0xFF []
     opDefined (fUnit i.w) (fOpc i.w) = false ∧ (i.thread st).st = .runnable ∧ pcFault st 0 (pcOf i st) = none) := by decide +kernel

/-! ### Ill-formed commands are refused -/

/-- A word of another operation, and a SLOT.TAG or STH.POP of another row. -/
theorem wf_word : (wellFormed (.add (op 0 2 [])), wellFormed (.add (op 1 1 [])), wellFormed (.slotTagFull (op 6 0x20 [(36, 2)])),
    wellFormed (.sthPop (op 4 0x11 [(18, 1)])), wellFormed (.streamIn (op 4 2 []))) = (false, false, false, false, false) := by decide +kernel
/-- A write of another register, or without its bit. -/
theorem wf_write : (wellFormed (.regWrite (rw 2 0)), wellFormed (.capRequest (rw (hrtPg + 0x10C) 0)),
    wellFormed (.sthClear (rw (sthPg 0 + 0x104) 2)),
    wellFormed (.tierUnmap (rw (tierPg 0 + 0x12C) (2 ^ 31 + 1))), wellFormed (.partitionReset (rw (partPg + 0x100) (2 ^ 31 + 2))),
    wellFormed (.cntClr (rw (tilePg 0 0 + 0x100) 4) []), wellFormed (.ringResume (rw (ringPg 0 + 0x100) 1))) =
    (false, false, false, false, false, false, false) := by decide +kernel
/-- A write of another page's register. -/
theorem wf_page : (wellFormed (.anvCoalCfgWrite (rw (tilePg 0 0 + 0x180) 0)), wellFormed (.qchArm (rw (sthPg 0 + 0x100) 1)),
    wellFormed (.tileThrStart (rw (tilePg 0 0 + 0x510) 0)),
    wellFormed (.lnkEnWrite (rw (hrtPg + 0x100) 1)), wellFormed (.bltAbort (rw (qchPg 0 + 0x100) 64)),
        wellFormed (.updateGo (rw (attPg + 0x104) (2 ^ 31)))) =
    (false, false, false, false, false, false) := by decide +kernel
/-- A well-formed access as a malformed one; a read off the grid; a clear of no page; a list of the wrong length; a packet without its bytes. -/
theorem wf_other : (wellFormed (.malformedAccess .hd 0 4 false 0), wellFormed (.loReadLatch (rr 1)),
    wellFormed (.errClr (rw (sp0Pg + hCtl) 0) none),
    wellFormed (.intStatW1c (rw (sp0Pg + hCtl) 0) 0), wellFormed (.thermalLoop 0 [] 0 0 0), wellFormed (.laneErrorWindow 0 [0] 0)) =
    (false, false, false, false, false, false) := by decide +kernel

/-- The table gives no row any bits: no word spells a command. -/
theorem test_no_words : decodeTableWord 64 0 = none ∧ (State.reset.withFetchWord 64 0) = State.reset := ⟨rfl, rfl⟩

end Sys2Proof.Tests
end

section
/-!
SUPPORT. The window's pages by offset, states that differ in registers of the window alone, and what a write of the shared registers
leaves of the others.
-/
namespace Sys2Proof.Machine

/-! ### Offsets and pages -/

/-- A page starts at a multiple of its size (R470). -/
theorem pageAt_base {off : Nat} {p : PageRef} (h : pageAt off = some p) : p.base = off / 4096 * 4096 := by
  simp only [pageAt] at h
  split at h
  · obtain ⟨k, -, rfl⟩ := Option.map_eq_some_iff.1 h; rfl
  · split at h
    · obtain ⟨k, -, rfl⟩ := Option.map_eq_some_iff.1 h; rfl
    · contradiction

/-- A window offset is its page's base and its offset in the page. -/
theorem pageAt_offset {off : Nat} {p : PageRef} (h : pageAt off = some p) : p.base + off % 4096 = off := by
  have := pageAt_base h
  omega

/-- A register found in a list is one of the list's. -/
theorem findReg_mem {rs : List RegDef} {o j : Nat} {g : RegDef} {half : RegHalf} (h : findReg rs o = some (g, j, half)) : g ∈ rs := by
  induction rs with
  | nil => simp [findReg] at h
  | cons r rs ih =>
    rw [findReg] at h
    split at h
    · injection h with h
      injection h with h
      exact h ▸ List.mem_cons_self ..
    · exact List.mem_cons_of_mem _ (ih h)

/-! ### States that differ in the window's registers -/

theorem WindowOnly.refl (s : State) : WindowOnly s s := rfl

theorem WindowOnly.trans {s t u : State} (h1 : WindowOnly s t) (h2 : WindowOnly t u) : WindowOnly s u := by
  unfold WindowOnly at *
  rw [h2, h1]

theorem windowOnly_tick (s : State) (n : Nat) : WindowOnly s (tick s n) := rfl

theorem windowOnly_wr (s : State) (o v : Nat) : WindowOnly s (wr s o v) := rfl

theorem windowOnly_wrB (s : State) (o n : Nat) (b : Bool) : WindowOnly s (wrB s o n b) := rfl

theorem windowOnly_wr64 (s : State) (o v : Nat) : WindowOnly s (wr64 s o v) :=
  (windowOnly_wr s o _).trans (windowOnly_wr _ _ _)

theorem windowOnly_sendMsi (s : State) (pg : Nat) : WindowOnly s (sendMsi s pg) := by
  simp only [sendMsi]
  split
  · exact .refl s
  · rfl

theorem windowOnly_withIntEdge (pg : Nat) (s t : State) : WindowOnly t (withIntEdge pg s t) := by
  rw [withIntEdge]
  split
  · exact windowOnly_sendMsi t pg
  · exact .refl t

theorem windowOnly_latchErr (s : State) (pg cls low addr : Nat) : WindowOnly s (latchErr s pg cls low addr) := by
  rw [latchErr]
  split
  · exact windowOnly_wrB ..
  · exact ((windowOnly_wr ..).trans (windowOnly_wr64 ..)).trans (windowOnly_wrB ..)

/-! ### Registers after the shared operations -/

/-- A write of what a register holds changes no register. -/
theorem rdW_wr_rd (s : State) (o o' : Nat) : rdW (wr s o (rd s o)) o' = rdW s o' := by
  by_cases h : o' = o
  · subst h; simp [rd]
  · exact rdW_wr_ne s _ h

theorem rd64_wr_ne (s : State) {o o' : Nat} (v : Nat) (h : o' ≠ o) (h' : o' + 4 ≠ o) : rd64 (wr s o v) o' = rd64 s o' := by
  rw [rd64, rd_wr_ne _ _ h, rd_wr_ne _ _ h', rd64]

theorem rd_wrB_ne (s : State) {o o' : Nat} (n : Nat) (b : Bool) (h : o' ≠ o) : rd (wrB s o n b) o' = rd s o' := rd_wr_ne s _ h

/-- A message sent changes no register. -/
@[simp] theorem rdW_withIntEdge (pg : Nat) (s t : State) (o : Nat) : rdW (withIntEdge pg s t) o = rdW t o := by
  rw [withIntEdge]
  split
  · exact rdW_congr (sendMsi_regs t pg) o
  · rfl

@[simp] theorem rd_withIntEdge (pg : Nat) (s t : State) (o : Nat) : rd (withIntEdge pg s t) o = rd t o := by
  rw [rd, rdW_withIntEdge, rd]

@[simp] theorem rdB_withIntEdge (pg : Nat) (s t : State) (o n : Nat) : rdB (withIntEdge pg s t) o n = rdB t o n := by
  rw [rdB, rd_withIntEdge, rdB]

/-! ### The error latch (R475) -/

theorem Requester.code_lt (who : Requester) : Requester.code who < 4 := by cases who <;> decide

/-- An event that comes while another is held sets ERR_OVF. -/
theorem latchErr_of_valid {s : State} {pg : Nat} (cls low addr : Nat) (h : rdB s (pg + hStat) 0 = true) :
    latchErr s pg cls low addr = wrB s (pg + hStat) 1 true := by
  rw [latchErr, if_pos h]

/-- An event that comes while none is held is latched. -/
theorem latchErr_of_free {s : State} {pg : Nat} (cls low addr : Nat) (h : rdB s (pg + hStat) 0 = false) :
    latchErr s pg cls low addr =
      wrB (wr64 (wr s (pg + hErrSyn) (cls * 2 ^ 24 + low % 2 ^ 24)) (pg + hErrLo) addr) (pg + hStat) 0 true := by
  rw [latchErr, if_neg (by simp [h])]

section
variable {s : State} {pg cls low addr : Nat} (h : rdB s (pg + hStat) 0 = false)
include h

theorem rd_latchErr_syn (hc : cls < 256) (hl : low < 2 ^ 24) :
    rd (latchErr s pg cls low addr) (pg + hErrSyn) = cls * 2 ^ 24 + low := by
  have h1 : pg + hErrSyn ≠ pg + hStat := by simp [hErrSyn, hStat]
  have h2 : pg + hErrSyn ≠ pg + hErrLo ∧ pg + hErrSyn ≠ pg + hErrLo + 4 := by simp only [hErrSyn, hErrLo]; omega
  rw [latchErr_of_free _ _ _ h, rd_wrB_ne _ _ _ h1, rd_wr64_ne _ _ h2.1 h2.2, rd_wr_same]
  omega

theorem rd64_latchErr_addr (ha : addr < 2 ^ 64) : rd64 (latchErr s pg cls low addr) (pg + hErrLo) = addr := by
  have h1 : pg + hErrLo ≠ pg + hStat ∧ pg + hErrLo + 4 ≠ pg + hStat := by simp only [hErrLo, hStat]; omega
  rw [latchErr_of_free _ _ _ h, wrB, wrF, rd64_wr_ne _ _ h1.1 h1.2, rd64_wr64 _ _ _ ha]

theorem rdB_latchErr_valid : rdB (latchErr s pg cls low addr) (pg + hStat) 0 = true := by
  rw [latchErr_of_free _ _ _ h, rdB_wrB _ _ _ _ (by decide)]

end

/-! ### Bits -/

/-- Taking away the bits that two words share clears them. -/
theorem testBit_sub_and (v x n : Nat) : (v - (v &&& x)).testBit n = (v.testBit n && !x.testBit n) := by
  have hle : v &&& x ≤ v := Nat.and_le_left
  have hm : (v &&& x) % 2 = v % 2 &&& x % 2 := Nat.and_mod_two_pow (n := 1)
  induction n generalizing v x with
  | zero =>
    have h0 : (v - (v &&& x)) % 2 = v % 2 - (v % 2 &&& x % 2) := by
      have : v % 2 &&& x % 2 ≤ v % 2 := Nat.and_le_left
      omega
    rw [Nat.testBit_zero, Nat.testBit_zero, Nat.testBit_zero, h0]
    rcases Nat.mod_two_eq_zero_or_one v with hv | hv <;> rcases Nat.mod_two_eq_zero_or_one x with hx | hx <;> rw [hv, hx] <;> rfl
  | succ n ih =>
    have hd : (v - (v &&& x)) / 2 = v / 2 - (v / 2 &&& x / 2) := by
      have : v % 2 &&& x % 2 ≤ v % 2 := Nat.and_le_left
      rw [← Nat.and_div_two]
      omega
    rw [Nat.testBit_add_one, hd, ih _ _ Nat.and_le_left (Nat.and_mod_two_pow (n := 1)), Nat.testBit_add_one v, Nat.testBit_add_one x]

end Sys2Proof.Machine
end

section
/-!
The set wins over a clear (R13), and reads of the window (R11, R12, R474).
-/
namespace Sys2Proof.Machine

/-- INT_STAT_W1C on a page's BLK_INT_STAT: the bits written 1 are taken away and the coincident bits are set. -/
theorem exec_intStatW1c {r : RegWrite} {coin : W32} {s : State} {p : PageRef} (hp : pageAt r.off.toNat = some p)
    (ho : r.off.toNat % 4096 = hIntStat) :
    exec (.intStatW1c r coin) s = .next (withIntEdge p.base (tick s r.now) (wr (tick s r.now) r.off.toNat
      (rd s r.off.toNat - (rd s r.off.toNat &&& (r.val.toNat &&& p.kind.intMask)) ||| (coin.toNat &&& p.kind.intMask)))) := by
  have hoff : p.base + hIntStat = r.off.toNat := ho ▸ pageAt_offset hp
  show execIntStatW1c r coin s = _
  simp only [execIntStatW1c, hp, ho, hoff, rd_tick, ne_eq, not_true_eq_false, if_false]

/-- Settles O59: each bit below 32 of the word written is a case on the two masks. -/
theorem setWinsOverClear : Obligations.SetWinsOverClear := by
  intro r coin s p hp ho
  refine ⟨_, exec_intStatW1c hp ho, ?_, fun o hne => ?_, fun n hn => ?_⟩
  · exact ((windowOnly_tick s r.now).trans (windowOnly_wr ..)).trans (windowOnly_withIntEdge ..)
  · rw [rdW_withIntEdge, rdW_wr_ne _ _ hne, rdW_tick]
  · rw [rdB_withIntEdge, rdB, rd_wr_same, Nat.testBit_mod_two_pow, Nat.testBit_or, testBit_sub_and, Nat.testBit_and, Nat.testBit_and,
      rdB, decide_eq_true hn, Bool.true_and]
    cases coin.toNat.testBit n && p.kind.intMask.testBit n <;> cases r.val.toNat.testBit n && p.kind.intMask.testBit n <;> simp

/-! ### Reads -/

/-- LO_READ_LATCH at an aligned offset that is not SPAD_DBG_DATA_LO is a read. -/
theorem exec_loReadLatch {r : RegRead} {s : State} (ha : r.off.toNat % 4 = 0) (hd : tileReg r.off.toNat .spad 0x120 = none) :
    exec (.loReadLatch r) s = .next (readReg (tick s r.now) r.off.toNat) := by
  show execLoReadLatch r s = _
  simp [execLoReadLatch, ha, hd]

/-- A read of an offset whose value is latched returns it, and the latch is empty afterwards. -/
theorem readReg_latched {s : State} {off : Nat} {v : W32} (h : cGet (fun _ => none) s.win.hiLatch off = some v) :
    readReg s off = answer { s with win := { s.win with hiLatch := cSet (fun _ => none) s.win.hiLatch off none } } v := by
  simp only [readReg, h]

/-- A read of an offset with no latched value returns what is shown there; the low half of a pair latches what the high half shows. -/
theorem readReg_shown {s : State} {off : Nat} (h : cGet (fun _ => none) s.win.hiLatch off = none) (h1 : off ≠ ftmPg + 0x118)
    (h2 : off ≠ ftmPg + 0x110) :
    readReg s off = answer (if isLow off then latch s (off + 4) (shown s (off + 4)) else s) (BitVec.ofNat 32 (shown s off)) := by
  simp only [readReg, h, if_neg h1, if_neg h2]

theorem hiLatch_latch (s : State) (off v : Nat) (out : W32) :
    cGet (fun _ => none) (answer (latch s off v) out).win.hiLatch off = some (BitVec.ofNat 32 v) :=
  cGet_cSet_same (fun _ => none) s.win.hiLatch off (some (BitVec.ofNat 32 v))

/-- A malformed access latches a class 0x03 event on its page (R474); a read returns 0. -/
theorem exec_malformedAccess {who : Requester} {off : WinOff} {width : Nat} {write : Bool} {now : Nat} {s : State} {p : PageRef}
    (hm : width ≠ 4 ∨ off.toNat % 4 ≠ 0) (hp : pageAt off.toNat = some p) :
    exec (.malformedAccess who off width write now) s =
      .next (latchErr (if write then tick s now else answer (tick s now) 0) p.base 3
        ((if width ≠ 4 then 1 else 2) * 256 + Requester.code who) off.toNat) := by
  have hn : ¬ (width = 4 ∧ off.toNat % 4 = 0) := by omega
  show execMalformedAccess who off width write now s = _
  simp only [execMalformedAccess, if_neg hn, hp]
  rfl

/-- Settles O49: a read answers what is latched or shown, and a malformed access is one event of the error latch. -/
theorem windowReadsAndHeader : Obligations.WindowReadsAndHeader := by
  refine ⟨fun r s ha hd h1 h2 hl => ?_, fun r s v ha hd hl => ?_, fun who off width write now s p hm hp => ?_⟩
  · refine ⟨_, exec_loReadLatch ha hd, ?_⟩
    rw [readReg_shown (s := tick s r.now) hl h1 h2]
    refine ⟨rfl, fun hlow => ?_, ?_⟩
    · rw [if_pos hlow]
      exact hiLatch_latch ..
    · split <;> rfl
  · refine ⟨_, exec_loReadLatch ha hd, ?_⟩
    rw [readReg_latched (s := tick s r.now) hl]
    exact ⟨rfl, cGet_cSet_same (fun _ => none) s.win.hiLatch r.off.toNat none, rfl⟩
  · refine ⟨_, exec_malformedAccess hm hp, ?_⟩
    generalize hu : (if write then tick s now else answer (tick s now) 0) = u
    have hrd : ∀ o, rd u o = rd s o := by subst hu; cases write <;> exact fun _ => rfl
    have hlast : write = false → u.win.lastRead = 0 := by rintro rfl; subst hu; rfl
    have htl : u.tl = s.tl ∧ u.mem = s.mem := by subst hu; cases write <;> exact ⟨rfl, rfl⟩
    have hst : rdB u (p.base + hStat) 0 = rdB s (p.base + hStat) 0 := by rw [rdB, hrd, rdB]
    have hcode := Requester.code_lt who
    refine ⟨fun hw => ?_, fun hf => ?_, fun hv => ?_, ?_, ?_⟩
    · rw [← hlast hw, windowOnly_latchErr u]
    · rw [← hst] at hf
      refine ⟨rdB_latchErr_valid hf, rd64_latchErr_addr hf (by omega), ?_⟩
      rw [rd_latchErr_syn hf (by decide) (by split <;> omega), Nat.add_assoc]
    · rw [← hst] at hv
      rw [latchErr_of_valid _ _ _ hv, rdB_wrB _ _ _ _ (by decide), rd_wrB_ne _ _ _ (by simp only [hStat, hErrSyn]; omega), hrd]
      exact ⟨rfl, rfl⟩
    · rw [latchErr_tl, htl.1]
    · rw [latchErr_mem, htl.2]

end Sys2Proof.Machine
end

section
/-!
Writes of the window (R10, R12, R14, R476): what a field-by-field write leaves in a word, what REG_WRITE does on a page of plain
registers, and O48.
-/
namespace Sys2Proof.Machine

/-! ### A word written field by field -/

/-- Every field of a one-word register lies in the word. -/
theorem word_fields_inWord (k : PageKind) : ∀ g ∈ k.regs, g.shape = .word → ∀ f ∈ g.fields, f.lo ≤ f.hi ∧ f.hi < 32 := by
  cases k <;> decide +kernel

/-- The registers whose lock denies writes are SP's alone (R299). -/
theorem denies_fields_rws (k : PageKind) : ∀ g ∈ k.regs, g.lock.denies = true → g.fields ≠ [] ∧ ∀ f ∈ g.fields, f.acc = .rws := by
  cases k <;> decide +kernel

/-- The word's bits inside its fields, once each is written from v over acc. -/
theorem foldl_writeField_testBit {who : Requester} {old v : Nat} (fs : List FieldDef)
    (hrw : ∀ f ∈ fs, f.acc = .rw ∧ f.legal = none) (hin : ∀ f ∈ fs, f.lo ≤ f.hi ∧ f.hi < 32) (acc n : Nat) :
    (fs.foldl (fun acc f => writeField false who old v f acc) acc).testBit n =
      if ∃ f ∈ fs, f.lo ≤ n ∧ n ≤ f.hi then v.testBit n else acc.testBit n := by
  induction fs generalizing acc with
  | nil => simp
  | cons f fs ih =>
    obtain ⟨hacc, hleg⟩ := hrw f (List.mem_cons_self ..)
    have hle := (hin f (List.mem_cons_self ..)).1
    have hf : writeField false who old v f acc = putBits acc f.hi f.lo (bitsOf v f.hi f.lo) := by
      simp [writeField, hacc, legalValue, hleg]
    rw [List.foldl_cons, ih (fun g hg => hrw g (List.mem_cons_of_mem _ hg)) (fun g hg => hin g (List.mem_cons_of_mem _ hg)), hf,
      putBits_testBit _ _ _ _ _ hle]
    by_cases hn : f.lo ≤ n ∧ n ≤ f.hi
    · have hb : (bitsOf v f.hi f.lo).testBit (n - f.lo) = v.testBit n := by
        rw [bitsOf_testBit, show f.lo + (n - f.lo) = n by omega, decide_eq_true (by omega), Bool.true_and]
      simp [hn, hb]
    · simp [hn]

/-- An open register of RW fields takes each field's value. -/
theorem bitsOf_writeWord {who : Requester} {old v : Nat} {fs : List FieldDef} (hrw : ∀ f ∈ fs, f.acc = .rw ∧ f.legal = none)
    (hin : ∀ f ∈ fs, f.lo ≤ f.hi ∧ f.hi < 32) {f : FieldDef} (hf : f ∈ fs) :
    bitsOf (writeWord false who old v fs) f.hi f.lo = bitsOf v f.hi f.lo := by
  apply Nat.eq_of_testBit_eq
  intro n
  rw [bitsOf_testBit, bitsOf_testBit, writeWord, foldl_writeField_testBit fs hrw hin]
  by_cases hn : n < f.hi + 1 - f.lo
  · rw [if_pos ⟨f, hf, by omega, by omega⟩]
  · simp [hn]

/-- A field put back as it is. -/
theorem putBits_bitsOf (v hi lo : Nat) : putBits v hi lo (bitsOf v hi lo) = v := by
  rw [putBits_eq, Nat.mod_eq_of_lt (bitsOf_lt v hi lo), bitsOf, Nat.shiftRight_eq_div_pow, Nat.mod_add_div, Nat.mod_add_div]

/-- A word none of whose fields takes the write keeps its value. -/
theorem writeWord_of_kept {locked : Bool} {who : Requester} {old v : Nat} (fs : List FieldDef)
    (h : ∀ f ∈ fs, writeField locked who old v f old = old) : writeWord locked who old v fs = old := by
  rw [writeWord]
  induction fs with
  | nil => rfl
  | cons f fs ih =>
    rw [List.foldl_cons, h f (List.mem_cons_self ..)]
    exact ih (fun g hg => h g (List.mem_cons_of_mem _ hg))

/-- RW fields keep their values while locked (R476). -/
theorem writeField_locked {who : Requester} {old v : Nat} {f : FieldDef} (h : f.acc = .rw) :
    writeField true who old v f old = old := by
  simp [writeField, h]

/-- RWS fields keep their values under a requester other than SP (R14). -/
theorem writeField_rws {locked : Bool} {who : Requester} {old v : Nat} {f : FieldDef} (h : f.acc = .rws) (hw : who ≠ .sp) :
    writeField locked who old v f old = old := by
  simp [writeField, h, hw, putBits_bitsOf]

/-- A write of RWS fields by a requester other than SP is not denied exactly where it carries the present value of each. -/
theorem rwsDenied_eq_false_iff {who : Requester} {old v : Nat} {fs : List FieldDef} (hf : ∀ f ∈ fs, f.acc = .rws) (hw : who ≠ .sp) :
    rwsDenied who old v fs = false ↔ ∀ f ∈ fs, bitsOf v f.hi f.lo = bitsOf old f.hi f.lo := by
  have hb : (who != .sp) = true := bne_iff_ne.2 hw
  rw [rwsDenied, hb, Bool.true_and, List.any_eq_false]
  refine forall_congr' fun f => forall_congr' fun hm => ?_
  simp only [hf f hm, beq_self_eq_true, Bool.true_and, bne_iff_ne, ne_eq, Decidable.not_not]
  exact eq_comm

theorem rwsDenied_rw (who : Requester) (old v : Nat) {fs : List FieldDef} (hf : ∀ f ∈ fs, f.acc = .rw) :
    rwsDenied who old v fs = false := by
  have : fs.any (fun f => f.acc == .rws && bitsOf old f.hi f.lo != bitsOf v f.hi f.lo) = false := by
    rw [List.any_eq_false]
    intro f hm
    simp [hf f hm]
  rw [rwsDenied, this, Bool.and_false]

/-! ### What depends on the time -/

theorem isLocked_tick (s : State) (n : Nat) (p : PageRef) (o : Nat) (l : Lock) : isLocked (tick s n) p o l = isLocked s p o l := by
  cases l <;> rfl

theorem placeOk_tick (s : State) (n : Nat) (p : PageRef) (pl : Place) : placeOk (tick s n) p pl = placeOk s p pl := by
  cases pl <;> rfl

/-! ### Pages of plain registers -/

section
variable {p : PageRef} (h : plainKind p.kind = true)
include h

theorem plain_ne {k : PageKind} (hk : plainKind k = false) : p.kind ≠ k := by
  rintro rfl
  rw [h] at hk
  contradiction

theorem afterWrite_plain (s : State) (o old new : Nat) : afterWrite s p o old new = s := by
  obtain ⟨k, d, i, b⟩ := p
  cases k <;> simp [plainKind] at h <;> rfl

theorem writeSelected_plain (s : State) (o v : Nat) : writeSelected s p o v = none := by
  obtain ⟨k, d, i, b⟩ := p
  cases k <;> simp [plainKind] at h <;> rfl

theorem customWord_plain (s : State) (o old new : Nat) : customWord s p o old new = new := by
  obtain ⟨k, d, i, b⟩ := p
  cases k <;> simp [plainKind] at h <;> rfl

theorem ownRowMask_plain (o : Nat) : ownRowMask p.kind o = 0 := by
  obtain ⟨k, d, i, b⟩ := p
  cases k <;> simp [plainKind] at h <;> rfl

/-- A word on a page of plain registers, outside the locks that deny: a denial of RWS fields is recorded, and the fields take what
they take. -/
theorem writeWordReg_plain (s : State) {g : RegDef} (o v : Nat) {who : Requester} (hd : who = .sp → g.lock.denies = false) :
    writeWordReg s p g o v who =
      wr (if rwsDenied who (rd s (p.base + o)) v g.fields then denyWrite s p.base (p.base + o) 1 who else s) (p.base + o)
        (writeWord (isLocked s p o g.lock) who (rd s (p.base + o)) v g.fields) := by
  have hfs : g.fields.filter (fun f => bitsOf (ownRowMask p.kind o) f.hi f.lo == 0) = g.fields := by
    rw [ownRowMask_plain h]
    simp [bitsOf]
  have hno : ¬ (rwsDenied who (rd s (p.base + o)) v g.fields = false ∧ who = .sp ∧ isLocked s p o g.lock ∧ g.lock.denies) := by
    rintro ⟨-, hw, -, hl⟩
    rw [hd hw] at hl
    contradiction
  simp only [writeWordReg, if_neg hno, plain_ne h (k := .blwS) rfl, false_and, if_false, customWord_plain h, hfs]

end

section
variable {r : RegWrite} {s : State} {p : PageRef} {g : RegDef} {j : Nat} {half : RegHalf} (h : PlainWrite r s p g j half)
include h

/-- A plain write starts nothing: it is the write of its register. -/
theorem exec_regWrite_plain :
    exec (.regWrite r) s = .next (writeReg (tick s r.now) r.off.toNat r.val.toNat r.who) := by
  have hsp : ¬ (r.who = .sp ∧ spRestarting (tick s r.now)) := by
    rintro ⟨hw, hs⟩
    have : spRestarting s = true := hs
    rw [h.who hw] at this
    contradiction
  have hseq : noSeqTable (tick s r.now) p = false := by simp [noSeqTable, plain_ne h.plain (k := .seq) rfl]
  show execRegWrite r s = _
  simp only [execRegWrite, h.off, ne_eq, not_true_eq_false, if_false, if_neg hsp, h.page, writePage,
    plain_ne h.plain (k := .spad) rfl, false_and, hseq, Bool.false_eq_true, and_false, afterWrite_plain h.plain]

theorem writeReg_word (hw : g.shape = .word) : writeReg (tick s r.now) r.off.toNat r.val.toNat r.who =
    writeWordReg (tick s r.now) p g (r.off.toNat % 4096) r.val.toNat r.who := by
  simp only [writeReg, h.page, if_neg (Nat.not_lt.2 h.body), h.reg, placeOk_tick, h.place, Bool.true_eq_false, if_false,
    writeSelected_plain h.plain, hw]

theorem writeReg_pair (hw : g.shape = .pair) : writeReg (tick s r.now) r.off.toNat r.val.toNat r.who =
    writePairReg (tick s r.now) p g (r.off.toNat % 4096) half r.val.toNat r.who := by
  simp only [writeReg, h.page, if_neg (Nat.not_lt.2 h.body), h.reg, placeOk_tick, h.place, Bool.true_eq_false, if_false,
    writeSelected_plain h.plain, hw, plain_ne h.plain (k := .qchP) rfl, plain_ne h.plain (k := .spad) rfl, false_and]

end

/-! ### Pairs (R12) -/

theorem find?_cIns_same {m : Cells W32} {k : Nat} (v : W32) (h : ∀ c ∈ m, c.1 ≠ k) :
    (cIns m k v).find? (fun c => c.1 == k) = some (k, v) := by
  induction m with
  | nil => simp [cIns]
  | cons c m ih =>
    have hc : c.1 ≠ k := h c (List.mem_cons_self ..)
    rw [cIns]
    split
    · simp
    · rw [List.find?_cons_of_neg (by simpa using hc)]
      exact ih (fun d hd => h d (List.mem_cons_of_mem _ hd))

/-- A write of the low half is held. -/
theorem writePairReg_low {s : State} {p : PageRef} {g : RegDef} {o v : Nat} {who : Requester} (hf : ∀ f ∈ g.fields, f.acc = .rw)
    (hne : g.fields ≠ []) :
    writePairReg s p g o .low v who = { s with win := { s.win with
      loHold := cIns (cDel s.win.loHold (p.base + o)) (p.base + o) (BitVec.ofNat 32 v) } } := by
  obtain ⟨f, fs, hfs⟩ := List.exists_cons_of_ne_nil hne
  have hacc : f.acc = .rw := hf f (hfs ▸ List.mem_cons_self ..)
  simp [writePairReg, hfs, hacc]

/-- A write of the high half, while the pair is open, takes effect with the low half that is held. -/
theorem writePairReg_high {s : State} {p : PageRef} {g : RegDef} {o v : Nat} {who : Requester} (hf : ∀ f ∈ g.fields, f.acc = .rw)
    (hne : g.fields ≠ []) (hl : isLocked s p o g.lock = false) :
    writePairReg s p g o .high v who =
      wr64 { s with win := { s.win with loHold := cDel s.win.loHold (p.base + o - 4) } } (p.base + o - 4)
        (heldLow s (p.base + o - 4) + 2 ^ 32 * v) := by
  obtain ⟨f, fs, hfs⟩ := List.exists_cons_of_ne_nil hne
  have hacc : f.acc = .rw := hf f (hfs ▸ List.mem_cons_self ..)
  have hl' : ∀ m, isLocked { s with win := { s.win with loHold := m } } p o g.lock = false := by
    intro m
    rw [← hl]
    cases g.lock <;> rfl
  simp [writePairReg, hfs, hacc, hl']

theorem heldLow_held (s : State) (off v : Nat) (m : Cells W32) :
    heldLow { s with win := { s.win with loHold := cIns (cDel m off) off (BitVec.ofNat 32 v) } } off = v % 2 ^ 32 := by
  rw [heldLow, find?_cIns_same _ (fun c hc => (mem_cDel hc).2)]
  exact BitVec.toNat_ofNat v 32

theorem heldLow_lt (s : State) (off : Nat) : heldLow s off < 2 ^ 32 := by
  rw [heldLow]
  split
  · exact BitVec.isLt _
  · exact BitVec.isLt _

/-! ### The parts of O48 -/

/-- A write of a reserved page or range has no effect (R476). -/
theorem regWrite_reserved {r : RegWrite} {s : State} (ha : r.off.toNat % 4 = 0) (hp : pageAt r.off.toNat = none) :
    exec (.regWrite r) s = .next (tick s r.now) := by
  show execRegWrite r s = _
  simp only [execRegWrite, ha, ne_eq, not_true_eq_false, if_false, hp, ite_self]

section
variable {r : RegWrite} {s : State} {p : PageRef} {g : RegDef} {j : Nat} {half : RegHalf} (h : PlainWrite r s p g j half)
include h

/-- A plain write of a word of RW fields writes that register alone. -/
theorem exec_regWrite_rw (hw : g.shape = .word) (hf : ∀ f ∈ g.fields, f.acc = .rw) :
    exec (.regWrite r) s = .next (wr (tick s r.now) r.off.toNat
      (writeWord (isLocked s p (r.off.toNat % 4096) g.lock) r.who (rd s r.off.toNat) r.val.toNat g.fields)) := by
  have hd : r.who = .sp → g.lock.denies = false := by
    intro _
    refine Bool.eq_false_iff.2 fun hl => ?_
    obtain ⟨hne, hrws⟩ := denies_fields_rws p.kind g (findReg_mem h.reg) hl
    obtain ⟨f, hm⟩ := List.exists_mem_of_ne_nil _ hne
    have := (hf f hm).symm.trans (hrws f hm)
    contradiction
  rw [exec_regWrite_plain h, writeReg_word h hw]
  simp only [writeWordReg_plain h.plain _ _ _ hd, pageAt_offset h.page, rwsDenied_rw _ _ _ hf, isLocked_tick, rd_tick,
    Bool.false_eq_true, if_false]

/-- A plain write of a word of RWS fields by a requester other than SP leaves the word, and records its denial. -/
theorem exec_regWrite_rws (hw : g.shape = .word) (hf : ∀ f ∈ g.fields, f.acc = .rws) (hsp : r.who ≠ .sp) :
    exec (.regWrite r) s = .next (wr (if rwsDenied r.who (rd s r.off.toNat) r.val.toNat g.fields then
      denyWrite (tick s r.now) p.base r.off.toNat 1 r.who else tick s r.now) r.off.toNat (rd s r.off.toNat)) := by
  rw [exec_regWrite_plain h, writeReg_word h hw]
  simp only [writeWordReg_plain h.plain _ _ _ (fun e => absurd e hsp), pageAt_offset h.page, rd_tick,
    writeWord_of_kept g.fields (fun f hm => writeField_rws (hf f hm) hsp)]

/-- The fields of an open register take the value written, those of a locked one keep theirs, and no other register changes. -/
theorem regWrite_rw_fields (hw : g.shape = .word) (hf : ∀ f ∈ g.fields, f.acc = .rw ∧ f.legal = none) :
    Gives (.regWrite r) s (fun t => WindowOnly s t ∧ (∀ o, o ≠ r.off.toNat → rdW t o = rdW s o) ∧
      (isLocked s p (r.off.toNat % 4096) g.lock = false →
        ∀ f ∈ g.fields, rdF t r.off.toNat f.hi f.lo = bitsOf r.val.toNat f.hi f.lo) ∧
      (isLocked s p (r.off.toNat % 4096) g.lock = true → rd t r.off.toNat = rd s r.off.toNat)) := by
  have hin := word_fields_inWord p.kind g (findReg_mem h.reg) hw
  refine ⟨_, exec_regWrite_rw h hw (fun f hm => (hf f hm).1), (windowOnly_tick ..).trans (windowOnly_wr ..), fun o ho => ?_,
    fun hl f hm => ?_, fun hl => ?_⟩
  · rw [rdW_wr_ne _ _ ho, rdW_tick]
  · rw [rdF, rd_wr_same, bitsOf_mod _ _ _ (hin f hm).2, hl, bitsOf_writeWord hf hin hm]
  · rw [hl, writeWord_of_kept _ (fun f hm => writeField_locked (hf f hm).1), rd_wr_same, rd, BitVec.toNat_mod_cancel]

/-- A refused write of RWS fields is latched on the page with reason 0x01, and the register keeps its value (R14). -/
theorem regWrite_rws_denied (hw : g.shape = .word) (hf : ∀ f ∈ g.fields, f.acc = .rws) (hsp : r.who ≠ .sp)
    (hfree : rdB s (p.base + hStat) 0 = false)
    (hns : ¬ ∀ f ∈ g.fields, bitsOf r.val.toNat f.hi f.lo = rdF s r.off.toNat f.hi f.lo) :
    Gives (.regWrite r) s (fun t => WindowOnly s t ∧ rd t r.off.toNat = rd s r.off.toNat ∧ rdB t (p.base + hStat) 0 = true ∧
      rd t (p.base + hErrSyn) = 2 * 2 ^ 24 + 256 + Requester.code r.who ∧ rd64 t (p.base + hErrLo) = r.off.toNat) := by
  have hfree' : rdB (tick s r.now) (p.base + hStat) 0 = false := hfree
  have hcode := Requester.code_lt r.who
  have hne : ∀ o < 0x100, p.base + o ≠ r.off.toNat := by
    intro o ho
    have := pageAt_offset h.page
    have := h.body
    omega
  refine ⟨_, exec_regWrite_rws h hw hf hsp, ?_⟩
  have hdeny : rwsDenied r.who (rd s r.off.toNat) r.val.toNat g.fields = true :=
    Bool.of_not_eq_false fun e => hns ((rwsDenied_eq_false_iff hf hsp).1 e)
  rw [if_pos hdeny, denyWrite]
  refine ⟨((windowOnly_tick ..).trans (windowOnly_latchErr ..)).trans (windowOnly_wr ..), ?_, ?_, ?_, ?_⟩
  · rw [rd_wr_same, rd, BitVec.toNat_mod_cancel]
  · rw [rdB, rd_wr_ne _ _ (hne hStat (by decide)), ← rdB, rdB_latchErr_valid hfree']
  · rw [rd_wr_ne _ _ (hne hErrSyn (by decide)), rd_latchErr_syn hfree' (by decide) (by omega)]
    omega
  · rw [rd64_wr_ne _ _ (hne hErrLo (by decide)) (hne (hErrLo + 4) (by decide)), rd64_latchErr_addr hfree' (by omega)]

/-- A write that carries the present values of the RWS fields changes and records nothing (R14). -/
theorem regWrite_rws_same (hw : g.shape = .word) (hf : ∀ f ∈ g.fields, f.acc = .rws) (hsp : r.who ≠ .sp)
    (hs : ∀ f ∈ g.fields, bitsOf r.val.toNat f.hi f.lo = rdF s r.off.toNat f.hi f.lo) :
    Gives (.regWrite r) s (fun t => WindowOnly s t ∧ ∀ o, rdW t o = rdW s o) := by
  refine ⟨_, exec_regWrite_rws h hw hf hsp, ?_⟩
  rw [(rwsDenied_eq_false_iff hf hsp).2 hs, if_neg Bool.false_ne_true]
  exact ⟨(windowOnly_tick ..).trans (windowOnly_wr ..), fun o => rdW_wr_rd (tick s r.now) _ o⟩

end

section
variable {r : RegWrite} {s : State} {p : PageRef} {g : RegDef} {j : Nat} (hw : g.shape = .pair) (hf : ∀ f ∈ g.fields, f.acc = .rw)
  (hne : g.fields ≠ [])
include hw hf hne

/-- The low half of a pair is held, and changes no register (R12). -/
theorem regWrite_pair_low (h : PlainWrite r s p g j .low) :
    Gives (.regWrite r) s (fun t => heldLow t r.off.toNat = r.val.toNat ∧ ∀ o, rdW t o = rdW s o) := by
  refine ⟨_, exec_regWrite_plain h, ?_⟩
  rw [writeReg_pair h hw]
  simp only [writePairReg_low hf hne, pageAt_offset h.page]
  exact ⟨(heldLow_held ..).trans (BitVec.toNat_mod_cancel _), fun _ => rfl⟩

/-- The high half of an open pair takes effect with the low half held (R12). -/
theorem regWrite_pair_high (h : PlainWrite r s p g j .high) (hl : isLocked s p (r.off.toNat % 4096) g.lock = false) :
    Gives (.regWrite r) s (fun t =>
      rd64 t (r.off.toNat - 4) = heldLow s (r.off.toNat - 4) + 2 ^ 32 * r.val.toNat ∧ t.tl = s.tl ∧ t.mem = s.mem) := by
  refine ⟨_, exec_regWrite_plain h, ?_⟩
  rw [writeReg_pair h hw]
  simp only [writePairReg_high hf hne ((isLocked_tick ..).trans hl), pageAt_offset h.page]
  refine ⟨?_, wr64_tl .., wr64_mem ..⟩
  have hlow : heldLow (tick s r.now) (r.off.toNat - 4) = heldLow s (r.off.toNat - 4) := rfl
  have := heldLow_lt s (r.off.toNat - 4)
  rw [hlow, rd64_wr64 _ _ _ (by omega)]

end

/-- Settles O48, one lemma for each kind of write. -/
theorem windowWrites : Obligations.WindowWrites :=
  ⟨fun _ _ ha hp _ => regWrite_reserved ha hp,
    fun _ _ _ _ _ _ h hw hf => regWrite_rw_fields h hw hf,
    fun _ _ _ _ _ _ h hw _ hf hsp hfree =>
      ⟨regWrite_rws_denied h hw hf hsp hfree, regWrite_rws_same h hw hf hsp⟩,
    fun _ _ _ _ _ _ h hw hf hne =>
      ⟨fun hh => regWrite_pair_low hw hf hne (hh ▸ h), fun hh => regWrite_pair_high hw hf hne (hh ▸ h)⟩⟩

end Sys2Proof.Machine
end

section
/-!
Operations over byte ranges (R181, R186): what one does when its ranges and slots allow it; VZMAP, VROUTE and O12.
-/
namespace Sys2Proof.Machine

/-! ### What the shadows and the check bits leave as it was -/

theorem checked_tl (i : Issue) (cls : Nat) (s1 : State) (rs : List (Nat × Nat)) : (checked i cls s1 rs).2.tl = s1.tl := by
  simp [checked]

section
variable {i : Issue} {s s1 : State} {uses : List (Nat × Use)} (h : SlotsOk i s uses s1)
include h

theorem SlotsOk.tl_thr : s1.tl.thr = s.tl.thr := by
  rw [shadowAll_keeps h.shadow]
  rfl

theorem SlotsOk.tl_xr : s1.tl.xr = s.tl.xr := by
  rw [shadowAll_keeps h.shadow]
  rfl

/-- With its shadows taken, the thread is a member of the task that it was a member of. -/
theorem SlotsOk.ctx_task : i.ctx.task s1 = i.task s := by
  simp only [OpCtx.task, thrOf, h.tl_thr, Issue.task, Issue.thread]

theorem SlotsOk.ctx_task_checked (cls : Nat) (rs : List (Nat × Nat)) : i.ctx.task (checked i cls s1 rs).2 = i.task s := by
  rw [← h.ctx_task]
  simp only [OpCtx.task, thrOf, checked_tl]

/-- A register read after a store of the effect holds its value at issue. -/
theorem SlotsOk.sxReg1_pokeBytes_checked (cls : Nat) (rs : List (Nat × Nat)) (t : Nat) (k : Option (Fin 4)) (a : Nat)
    (bs : List Byte) : sxReg1 (pokeBytes (checked i cls s1 rs).2 t k a bs) i.ctx = vX1 i s := by
  simp only [sxReg1, aReg, xreg, pokeBytes_tl_xr, checked_tl, h.tl_xr, vX1, Issue.reg]

/-- The lanes that an effect loads are the operand's elements. -/
theorem SlotsOk.loadLane_checked (cls : Nat) (rs : List (Nat × Nat)) (f a n : Nat) :
    loadLane (checked i cls s1 rs).2 i.ctx (checked i cls s1 rs).1 f a n = elems i s (checked i cls s1 rs) f a n := by
  rw [loadLane, h.ctx_task_checked]
  rfl

end

/-! ### The frame of a form V operation -/

/-- An operation whose ranges and slots allow it has its effect on the state that the check bits leave, settles its tags and
retires. -/
theorem issued_withRanges {i : Issue} {s s1 : State} {rs : List VRange} (h : RangesOk i s rs s1) (cls : Nat)
    (eff : Ecc → State → State) :
    issued i s (withRanges i.ctx (i.here s) cls rs eff) =
      .next (settled i s (usesOf rs) (eff (checked i cls s1 (sources rs)).1 (checked i cls s1 (sources rs)).2)) := by
  obtain ⟨hfits, hslots⟩ := h
  have hf : rangesFault (i.here s) i.ctx.t rs = none := hfits
  have hb : firstBlocked (i.here s) i.ctx.t (i.ctx.task (i.here s)) (usesOf rs) = none := (firstBlocked_tick ..).trans hslots.allow
  have hs : shadowAll (i.here s) i.ctx.t (i.ctx.task (i.here s)) (usesOf rs) = some s1 := hslots.shadow
  rw [usesOf] at hb hs
  simp only [withRanges, hf, withSlots, hb, hs, hslots.ctx_task]
  rfl

/-- An operation that is ready and whose body, past its own checks, runs over ranges that allow it. -/
theorem issueOp_withRanges {mn : String} {u o : Nat} {legal : Nat → Bool} {regs : Nat → List Nat} {i : Issue} {s s1 : State}
    {body : OpCtx → State → OpRes} {cls : Nat} {rs : List VRange} {eff : Ecc → State → State} (h : Ready u o legal regs i s)
    (hd : opDefined u o = true) (hrs : RangesOk i s rs s1) (hb : body i.ctx (i.here s) = withRanges i.ctx (i.here s) cls rs eff) :
    issueOp mn u o legal regs i s body =
      .next (settled i s (usesOf rs) (eff (checked i cls s1 (sources rs)).1 (checked i cls s1 (sources rs)).2)) := by
  rw [issueOp_ready h hd, hb, issued_withRanges hrs]

/-! ### VZMAP (R85, R187) -/

/-- The reserved bits and values of VZMAP, and the registers that it reads. -/
def legalVzmap (w : Nat) : Bool :=
  vFieldsOk { ab := isMx (fFs w), sx := true, fd := false } w && decide (1 ≤ fFs w) && decide (fFs w ≤ 0xA) && !(fGrad w)

def regsVzmap (w : Nat) : List Nat := [fAd w, fAa w, fSn w, fSx w] ++ (if isMx (fFs w) then [fAbV w] else [])

/-- The columns of the map, s(SX)[15:0]. -/
def vzmapCols (i : Issue) (s : State) : Nat := vX i s % 65536

/-- The map at D, the elements at A, and the block scales of an MX operand at B. -/
def rangesVzmap (i : Issue) (s : State) : List VRange :=
  [VRange.mk (vD i s) (8 * ceilDiv (ceilDiv (vN i s / vzmapCols i s) 16 * (vzmapCols i s / 16)) 64) .produce,
      ⟨vA i s, elemBytes (fFs i.w) (vN i s), vUse i 16⟩] ++
    (if isMx (fFs i.w) then [VRange.mk (vB i s) (ceilDiv (vN i s) 32) (vUse i 15)] else [])

/-- The map's bytes. -/
def vzmapBytes (i : Issue) (s : State) (e : Ecc × State) : List Byte :=
  bitsToBytes (zeroMapBits (vzmapCols i s)
    (rowsOf (vzmapCols i s) (vN i s / vzmapCols i s) ((operandVals i s e (fFs i.w) (vN i s)).map FpVal.isZero)))

theorem exec_vzmap {i : Issue} {s s1 : State} (h : Ready 1 0x28 legalVzmap regsVzmap i s) (hn : 1 ≤ vN i s ∧ vN i s ≤ 16384)
    (hk : 1 ≤ vzmapCols i s) (hb : vzmapCols i s % (if isMx (fFs i.w) then 32 else 16) = 0) (hr : vN i s % vzmapCols i s = 0)
    (hrs : RangesOk i s (rangesVzmap i s) s1) :
    let e := checked i 4 s1 (sources (rangesVzmap i s))
    exec (.vzmap i) s =
      .next (settled i s (usesOf (rangesVzmap i s)) (stored i s e.2 (vD i s) (vzmapBytes i s e))) := by
  intro e
  have hok : ¬ (vN i s = 0 ∨ vN i s > 16384 ∨ vzmapCols i s = 0 ∨ vzmapCols i s % (if isMx (fFs i.w) then 32 else 16) ≠ 0 ∨
      vN i s % vzmapCols i s ≠ 0) := by omega
  show execVzmap i s = _
  refine (issueOp_withRanges h rfl hrs (if_neg hok)).trans ?_
  simp only [hrs.slots.ctx_task_checked]
  rfl

/-! ### VROUTE (R188) -/

/-- The reserved bits and values of VROUTE, and the registers that it reads. -/
def legalVroute (w : Nat) : Bool :=
  vFieldsOk { ac := true, sx := true, fd := false } w && zero w 25 22 && !(fGrad w) && decide (fSx w ≤ 30)

def regsVroute (w : Nat) : List Nat := [fAd w, fAa w, fAc w, fSn w, fSx w, fSx w + 1]

/-- The experts E, s(SX)[8:0], and the number k chosen per row, s(SX)[19:16]. -/
def routeExperts (i : Issue) (s : State) : Nat := vX i s % 512
def routeK (i : Issue) (s : State) : Nat := bitsOf (vX i s) 19 16

/-- The rows' entries at D, the scores at A, the dispatch list at C. -/
def rangesVroute (i : Issue) (s : State) : List VRange :=
  [VRange.mk (vD i s) (8 * vN i s * routeK i s) .produce, ⟨vA i s, 4 * vN i s * routeExperts i s, vUse i 16⟩,
    ⟨vC i s, 32 * ceilDiv (4 * routeExperts i s) 32 + 4 * vN i s * routeExperts i s, .produce⟩]

/-- The experts chosen for each row, with their scores. -/
def routeChoices (i : Issue) (s : State) (e : Ecc × State) : List (List (Nat × FpVal)) :=
  (rowsOf (routeExperts i s) (vN i s) (elems i s e 0 (vA i s) (vN i s * routeExperts i s))).map (topK (routeK i s))

theorem exec_vroute {i : Issue} {s s1 : State} (h : Ready 1 0x30 legalVroute regsVroute i s) (hn : 1 ≤ vN i s ∧ vN i s ≤ 512)
    (he : 1 ≤ routeExperts i s ∧ routeExperts i s ≤ 256) (hk : 1 ≤ routeK i s ∧ routeK i s ≤ 8 ∧ routeK i s ≤ routeExperts i s)
    (hrs : RangesOk i s (rangesVroute i s) s1) :
    let e := checked i 4 s1 (sources (rangesVroute i s))
    let sels := routeChoices i s e
    exec (.vroute i) s = .next (settled i s (usesOf (rangesVroute i s))
      (stored i s (stored i s e.2 (vD i s) ((sels.map (routeEntries ((vX i s).testBit 24))).flatten)) (vC i s)
        (dispatchList (routeExperts i s) (vN i s) (vX1 i s % 2 ^ 32) sels))) := by
  intro e sels
  have hok : ¬ (vN i s = 0 ∨ vN i s > 512 ∨ routeExperts i s = 0 ∨ routeExperts i s > 256 ∨ routeK i s = 0 ∨ routeK i s > 8 ∨
      routeK i s > routeExperts i s) := by omega
  show execVroute i s = _
  refine (issueOp_withRanges h rfl hrs (if_neg hok)).trans ?_
  simp only [hrs.slots.loadLane_checked, hrs.slots.ctx_task_checked, hrs.slots.sxReg1_pokeBytes_checked]
  rfl

/-- Settles O12: each operation is ready, passes the checks of its counts, and then does what an operation over ranges does. -/
theorem vectorMapsAndRoutes : Obligations.VectorMapsAndRoutes := by
  constructor
  · rintro i s s1 h n f kc m rs ⟨hn0, hn1, hk, hb, hr⟩ hrs
    exact exec_vzmap h ⟨hn0, hn1⟩ hk hb hr hrs
  · rintro i s s1 h n x ex k rs ⟨hn0, hn1, he0, he1, hk⟩ hrs
    exact exec_vroute h ⟨hn0, hn1⟩ ⟨he0, he1⟩ hk hrs

end Sys2Proof.Machine
end

section
/-!
The vector reductions, the backward operations and O11; SFU.FNS on a register that an earlier operation still owes a result, which
refutes O13.
-/
namespace Sys2Proof.Machine

/-! ### Elementwise operations and pairs of operands -/

/-- A register read by an effect holds its value at issue. -/
theorem SlotsOk.sxReg_checked {i : Issue} {s s1 : State} {uses : List (Nat × Use)} (h : SlotsOk i s uses s1) (cls : Nat)
    (rs : List (Nat × Nat)) : sxReg (checked i cls s1 rs).2 i.ctx = vX i s := by
  simp only [sxReg, aReg, xreg, checked_tl, h.tl_xr, vX, Issue.reg]

/-- A count that R186 allows passes the check of an operation over n elements. -/
theorem count_ok {n : Nat} (hn : 1 ≤ n ∧ n ≤ 16384) : ¬ (n = 0 ∨ n > 16384) := by omega

/-- What an operation over rows of len elements asks of its count. -/
theorem rows_ok {n len : Nat} (hn : 1 ≤ n ∧ n ≤ 16384) (hl : 1 ≤ len) (hr : n % len = 0) :
    ¬ (n = 0 ∨ n > 16384 ∨ len = 0 ∨ n % len ≠ 0) := by omega

/-- The results of an elementwise operation with the fields u: g of the elements of A, B and C, where an operand that u leaves out
stands for A. -/
def laneResults (u : VUses) (i : Issue) (s : State) (e : Ecc × State) (g : FpVal → FpVal → FpVal → Nat) : List Nat :=
  let a := elems i s e (fFs i.w) (vA i s) (vN i s)
  let b := if u.ab then elems i s e (fFs i.w) (vB i s) (vN i s) else a
  let c := if u.ac then elems i s e (fFs i.w) (vC i s) (vN i s) else a
  (a.zip (b.zip c)).map (fun p => g p.1 p.2.1 p.2.2)

/-- An elementwise operation that is ready, with its count and ranges allowed, stores the results of its elements at D. -/
theorem vecMap_ready {mn : String} {o : Nat} {u : VUses} {i : Issue} {s s1 : State}
    {f : State → OpCtx → FpFmt → FpVal → FpVal → FpVal → Nat} (h : Ready 1 o (legalArith u) (regsV u) i s)
    (hd : opDefined 1 o = true) (hn : 1 ≤ vN i s ∧ vN i s ≤ 16384) (hrs : RangesOk i s (rangesV u i s) s1) :
    let e := checked i 4 s1 (sources (rangesV u i s))
    vecMap mn o u i s f = .next (settled i s (usesOf (rangesV u i s))
      (stored i s e.2 (vD i s) (pack (fFs i.w) (laneResults u i s e (f e.2 i.ctx (laneFmtOf i)))))) := by
  intro e
  refine (issueOp_withRanges h hd hrs (if_neg (count_ok hn))).trans ?_
  simp only [hrs.slots.loadLane_checked, hrs.slots.ctx_task_checked]
  rfl

/-- Pairs taken with their own first members again. -/
theorem map_zip_zip_left {α β γ : Type} (g : α → β → γ) : ∀ (a : List α) (b : List β),
    (a.zip (b.zip a)).map (fun p => g p.1 p.2.1) = List.zipWith g a b
  | [], _ => rfl
  | _ :: _, [] => rfl
  | x :: a, y :: b => congrArg (g x y :: ·) (map_zip_zip_left g a b)

/-- An operation on A and B works on pairs of their elements. -/
theorem laneResults_pairs {u : VUses} (hb : u.ab = true) (hc : u.ac = false) (i : Issue) (s : State) (e : Ecc × State)
    (g : FpVal → FpVal → Nat) : laneResults u i s e (fun a b _ => g a b) =
      List.zipWith g (elems i s e (fFs i.w) (vA i s) (vN i s)) (elems i s e (fFs i.w) (vB i s) (vN i s)) := by
  simp only [laneResults, hb, hc, if_true, Bool.false_eq_true, if_false]
  exact map_zip_zip_left g _ _

/-! ### VRSUM, VRMAX and VDOT (R107, R187) -/

/-- A reduction that is ready, with its count and ranges allowed, writes s(SX). -/
theorem reduceResult_of_vecReduce {c : Issue → Instr} {mn : String} {o : Nat} {two : Bool} {val : List FpVal → List FpVal → FpVal}
    (hc : ∀ i s, exec (c i) s = vecReduce mn o two val i s) (hd : opDefined 1 o = true) : ReduceResult c o two val := by
  intro i s s1 h n f rs hn hrs e
  rw [hc]
  refine (issueOp_withRanges h hd hrs (if_neg (count_ok hn))).trans ?_
  simp only [hrs.slots.loadLane_checked]
  rfl

/-! ### VDACT (R49, R187) -/

/-- The fields of VDACT: SX is used by the leaky form alone. -/
def vdactUses (i : Issue) : VUses := { ab := true, sx := fFnV i.w == 1, maxFn := 4 }

/-- α of the leaky form, s(SX)[31:0]. -/
def vdactAlpha (i : Issue) (s : State) : FpVal := if fFnV i.w = 1 then fp32.decode (vX i s % 2 ^ 32) else oneF

/-- f'(y) in the lane format, times dy, rounded under RNE. -/
def vdactElem (i : Issue) (alpha y dy : FpVal) : Nat :=
  (laneFmtOf i).convert .rne (fpMul ((laneFmtOf i).rnd (vdactDeriv (fFnV i.w) alpha y)) dy)

/-- Both forms of VDACT are one elementwise operation with the fields of vdactUses; they differ in where α comes from. -/
theorem execVdact_eq (i : Issue) (s : State) : execVdact i s = vecMap "VDACT" 0x20 (vdactUses i) i s fun s c l a b _ =>
    l.convert .rne (fpMul (l.rnd (vdactDeriv (fFnV c.w) (if fFnV i.w = 1 then fp32.decode (sxReg s c % 2 ^ 32) else oneF) a)) b) := by
  by_cases hf : fFnV i.w = 1
  · simp only [execVdact, vdactUses, hf, if_true]
    rfl
  · have hx : (fFnV i.w == 1) = false := beq_false_of_ne hf
    simp only [execVdact, vdactUses, hf, hx, if_false]

theorem exec_vdact {i : Issue} {s s1 : State} (h : Ready 1 0x20 (legalArith (vdactUses i)) (regsV (vdactUses i)) i s)
    (hn : 1 ≤ vN i s ∧ vN i s ≤ 16384) (hrs : RangesOk i s (rangesV (vdactUses i) i s) s1) :
    let e := checked i 4 s1 (sources (rangesV (vdactUses i) i s))
    exec (.vdact i) s = .next (settled i s (usesOf (rangesV (vdactUses i) i s)) (stored i s e.2 (vD i s)
      (pack (fFs i.w) (List.zipWith (vdactElem i (vdactAlpha i s)) (elems i s e (fFs i.w) (vA i s) (vN i s))
        (elems i s e (fFs i.w) (vB i s) (vN i s)))))) := by
  intro e
  rw [← laneResults_pairs (u := vdactUses i) rfl rfl]
  refine (execVdact_eq i s).trans ((vecMap_ready h rfl hn hrs).trans ?_)
  simp only [hrs.slots.sxReg_checked]
  rfl

/-! ### VDSMAX and VDNORM (R49, R187) -/

/-- The elements of a row, L = s(SX)[15:0]. -/
def rowLen (i : Issue) (s : State) : Nat := vX i s % 65536

/-- The rows of an operand at a. -/
def operandRows (i : Issue) (s : State) (e : Ecc × State) (a : Nat) : List (List FpVal) :=
  rowsOf (rowLen i s) (vN i s / rowLen i s) (elems i s e (fFs i.w) a (vN i s))

/-- D, A and B of an operation on rows. -/
def rangesRows (i : Issue) (s : State) : List VRange :=
  let len := elemBytes (fFs i.w) (vN i s)
  [VRange.mk (vD i s) len .produce, ⟨vA i s, len, vUse i 16⟩, ⟨vB i s, len, vUse i 15⟩]

theorem exec_vdsmax {i : Issue} {s s1 : State}
    (h : Ready 1 0x21 (legalArith { ab := true, sx := true }) (fun w => [fAd w, fAa w, fAbV w, fSn w, fSx w]) i s)
    (hn : 1 ≤ vN i s ∧ vN i s ≤ 16384) (hl : 1 ≤ rowLen i s) (hr : vN i s % rowLen i s = 0)
    (hrs : RangesOk i s (rangesRows i s) s1) :
    let e := checked i 4 s1 (sources (rangesRows i s))
    exec (.vdsmax i) s = .next (settled i s (usesOf (rangesRows i s)) (stored i s e.2 (vD i s)
      (pack (fFs i.w) (List.zipWith (softmaxRow (laneFmtOf i)) (operandRows i s e (vA i s))
        (operandRows i s e (vB i s))).flatten))) := by
  intro e
  show execVdsmax i s = _
  refine (issueOp_withRanges h rfl hrs (if_neg (rows_ok hn hl hr))).trans ?_
  simp only [hrs.slots.loadLane_checked, hrs.slots.ctx_task_checked, List.map_zip_eq_zipWith]
  rfl

/-- The gains of VDNORM, one row at C. -/
def rangesVdnorm (i : Issue) (s : State) : List VRange := rangesRows i s ++ [⟨vC i s, elemBytes (fFs i.w) (rowLen i s), vUse i 14⟩]

/-- A row of VDNORM: RMSNorm or LayerNorm by FN, with ε = s(SX)[63:32] and the gains g. -/
def normRow (i : Issue) (s : State) (g x dy : List FpVal) : List Nat :=
  let eps := fp32.decode (vX i s / 2 ^ 32)
  if fFnV i.w = 0 then rmsRow (laneFmtOf i) eps g x dy else layerRow (laneFmtOf i) eps g x dy

theorem normRow_eq (i : Issue) (s : State) (g : List FpVal) :
    normRow i s g = if fFnV i.w = 0 then rmsRow (laneFmtOf i) (fp32.decode (vX i s / 2 ^ 32)) g
      else layerRow (laneFmtOf i) (fp32.decode (vX i s / 2 ^ 32)) g := by
  split <;> funext x dy <;> simp [normRow, *]

theorem exec_vdnorm {i : Issue} {s s1 : State}
    (h : Ready 1 0x22 (legalArith { ab := true, ac := true, sx := true, consC := true, maxFn := 1 })
      (fun w => [fAd w, fAa w, fAbV w, fAc w, fSn w, fSx w]) i s)
    (hn : 1 ≤ vN i s ∧ vN i s ≤ 16384) (hl : 1 ≤ rowLen i s) (hr : vN i s % rowLen i s = 0)
    (hrs : RangesOk i s (rangesVdnorm i s) s1) :
    let e := checked i 4 s1 (sources (rangesVdnorm i s))
    exec (.vdnorm i) s = .next (settled i s (usesOf (rangesVdnorm i s)) (stored i s e.2 (vD i s)
      (pack (fFs i.w) (List.zipWith (normRow i s (elems i s e (fFs i.w) (vC i s) (rowLen i s))) (operandRows i s e (vA i s))
        (operandRows i s e (vB i s))).flatten))) := by
  intro e
  show execVdnorm i s = _
  refine (issueOp_withRanges h rfl hrs (if_neg (rows_ok hn hl hr))).trans ?_
  simp only [hrs.slots.loadLane_checked, hrs.slots.ctx_task_checked, hrs.slots.sxReg_checked, List.map_zip_eq_zipWith, normRow_eq]
  rfl

/-- Settles O11: three reductions over ranges, VDACT as an elementwise operation on pairs, and the two operations on rows. -/
theorem vectorReductionsAndBackward : Obligations.VectorReductionsAndBackward := by
  refine ⟨reduceResult_of_vecReduce (fun _ _ => rfl) rfl, reduceResult_of_vecReduce (fun _ _ => rfl) rfl, ?_, ?_, ?_, ?_⟩
  · refine reduceResult_of_vecReduce (mn := "VDOT") (fun i s => ?_) rfl
    show execVdot i s = _
    simp only [execVdot, List.map_zip_eq_zipWith]
    rfl
  · intro i s s1 u h hn hrs
    exact exec_vdact h hn hrs
  · rintro i s s1 h f n row by_ rs ⟨hn0, hn1, hl, hr⟩ hrs
    exact exec_vdsmax h ⟨hn0, hn1⟩ hl hr hrs
  · rintro i s s1 h f n row by_ rs ⟨hn0, hn1, hl, hr⟩ hrs
    exact exec_vdnorm h ⟨hn0, hn1⟩ hl hr hrs

/-! ### SFU.FNS and a result still owed to its register (R157, R190) -/

/-- The reserved bits and values of SFU.FNS. -/
def legalSfuFns (w : Nat) : Bool := specOk (fD w) && specOk (fA w) && fB w == 0 && decide (bitsOf w 29 25 ≤ 9) && zero w 24 0

/-- f(s(A)[31:0]). -/
def sfuFnsValue (i : Issue) (s : State) : W64 :=
  BitVec.ofNat 64 (sfuEval ((SfuFn.ofCode (bitsOf i.w 29 25)).getD .exp) ((i.reg s (fA i.w)).toNat % 2 ^ 32))

theorem exec_sfuFns {i : Issue} {s : State} (h : Ready 2 0x03 legalSfuFns regsA i s) :
    exec (.sfuFns i) s = .next (i.retired s (setXreg (i.here s) i.tile i.thr (fD i.w) (sfuFnsValue i s))) := by
  show execSfuFns i s = _
  exact (issueOp_ready h rfl).trans rfl

/-- A register just written awaits no result. -/
theorem pendOf_setXreg (s : State) (t th r : Nat) (v : W64) : pendOf (setXreg s t th r v) t th r = 0 := by
  simp [pendOf, setXreg]

theorem pendOf_retire (s : State) (t th pc t' th' r : Nat) : pendOf (retire s t th pc) t' th' r = pendOf s t' th' r := by
  simp [pendOf]

/-- What Retired says of the machine holds each pending result as it was. -/
theorem Retired.pendOf_eq {i : Issue} {s t : State} {pc : Nat} (h : Retired i s t pc) (tile th r : Nat) :
    pendOf t tile th r = pendOf s tile th r := by
  rw [pendOf, h.frame.tiles, pendOf]

/-- SFU.FNS s5 ← exp(s1), issued by thread 0 of tile 0. -/
def fnsIssue : Issue :=
  { tile := 0, thr := 0, word := BitVec.ofNat 64 (0x03 * 2 ^ 56 + 2 * 2 ^ 52 + 5 * 2 ^ 42 + 1 * 2 ^ 36), now := 0 }

/-- Thread 0 of tile 0 is RUNNABLE at PC 0 of a code region of 8 slots, and Tongs operation 0 still owes s5 its status. -/
def owedState : State :=
  let s := wr State.reset (tilePg 0 0 + 0x110) (8 * 2 ^ 16 + 32760)
  { s with tl := { s.tl with thr := [(0, { st := .runnable })], pend := [(5, markTng 0)] } }

theorem fnsIssue_ready : Ready 2 0x03 legalSfuFns regsA fnsIssue owedState where
  unit := by decide +kernel
  opcode := by decide +kernel
  runnable := by decide +kernel
  pcOk := by decide +kernel
  fields := by decide +kernel
  guardBits := by decide +kernel
  regsFree := by decide +kernel
  guard := by decide +kernel

/-- Refutes O13, in its clause on SFU.FNS: an operation issues while an earlier one owes its destination a result, since R157 lets it
wait only for registers that it reads, and its write ends what is owed (WroteReg), whereas Retired has every pending result stay as it
was. In owedState s5 is owed a result before the operation and none after it. -/
theorem not_specialFunctions : ¬ Obligations.SpecialFunctions := by
  rintro ⟨-, -, hfns⟩
  obtain ⟨t, ht, hret, -⟩ := hfns fnsIssue owedState fnsIssue_ready
  rw [exec_sfuFns fnsIssue_ready] at ht
  injection ht with ht
  have hafter : pendOf t 0 0 5 = 0 := by
    rw [← ht, pendOf_retire]
    exact pendOf_setXreg ..
  have hbefore : pendOf owedState 0 0 5 = markTng 0 := rfl
  exact absurd (hafter.symm.trans ((hret.pendOf_eq 0 0 5).trans hbefore)) (by decide)

end Sys2Proof.Machine
end

section
/-!
What a unit reads and writes in its partition's memory leaves of the machine, and which registers place an address: the layer under
the Quench unit's own accesses (05_update_pass_quench_temper.md R136, R138, R150).
-/
namespace Sys2Proof.Machine

/-! ### Registers and the rest of the machine -/

theorem rd_of_rdW {s t : State} {o : Nat} (h : rdW t o = rdW s o) : rd t o = rd s o := by rw [rd, h, rd]

theorem rdF_of_rdW {s t : State} {o : Nat} (h : rdW t o = rdW s o) (hi lo : Nat) : rdF t o hi lo = rdF s o hi lo := by
  rw [rdF, rd_of_rdW h, rdF]

theorem rdB_of_rdW {s t : State} {o : Nat} (h : rdW t o = rdW s o) (n : Nat) : rdB t o n = rdB s o n := by
  rw [rdB, rd_of_rdW h, rdB]

section
variable {s t : State} (h : WindowOnly s t)
include h

theorem WindowOnly.tl_eq : t.tl = s.tl := by rw [h]
theorem WindowOnly.mem_eq : t.mem = s.mem := by rw [h]
theorem WindowOnly.qch_eq : t.qch = s.qch := by rw [h]

end

theorem windowOnly_intSet (s : State) (pg bits : Nat) : WindowOnly s (intSet s pg bits) :=
  (windowOnly_wr s _ _).trans (windowOnly_withIntEdge pg s _)

theorem rdW_intSet_ne (s : State) {pg o : Nat} (bits : Nat) (h : o ≠ pg + hIntStat) : rdW (intSet s pg bits) o = rdW s o := by
  rw [intSet_rdW, rdW_wr_ne _ _ h]

/-! ### The counters of HBM accesses (R274) -/

/-- The offset lies on page 0 of an HBM controller. -/
def OnHbmPage (o : Nat) : Prop := ∃ c x, x < 4096 ∧ o = ctlPg c 0 + x

/-- A page of a controller other than its first is at another multiple of its size. -/
theorem not_onHbmPage_slPg {sl n x : Nat} (hn : 1 ≤ n ∧ n < 16) (hx : x < 4096) : ¬ OnHbmPage (slPg sl n + x) := by
  rintro ⟨c, y, hy, he⟩
  simp only [slPg, ctlPg] at he
  omega

/-- The pages of SD lie below every compute die's. -/
theorem not_onHbmPage_of_lt {o : Nat} (h : o < 0x01000000) : ¬ OnHbmPage o := by
  rintro ⟨c, y, hy, he⟩
  simp only [ctlPg] at he
  omega

theorem windowOnly_countHbm (s : State) (p a n o : Nat) : WindowOnly s (countHbm s p a n o) := by
  rw [countHbm]
  induction splitRange 256 a n generalizing s with
  | nil => exact .refl s
  | cons r rs ih =>
    refine WindowOnly.trans ?_ (ih _)
    dsimp only
    split
    · exact windowOnly_wr64 ..
    · exact .refl s

theorem rdW_countHbm (s : State) (p a n : Nat) {o r : Nat} (ho : o + 4 < 4096) (h : ¬ OnHbmPage r) :
    rdW (countHbm s p a n o) r = rdW s r := by
  rw [countHbm]
  induction splitRange 256 a n generalizing s with
  | nil => rfl
  | cons x xs ih =>
    refine (ih _).trans ?_
    dsimp only
    split
    · exact rdW_wr64_ne _ _ (fun he => h ⟨_, o, by omega, he⟩)
        (fun he => h ⟨_, o + 4, ho, he.trans (Nat.add_assoc ..)⟩)
    · rfl

/-! ### A device write of a unit (R237, R282, R379) -/

theorem setLoc_qch (s : State) (b : Byte) (l : Loc) : (setLoc s b l).qch = s.qch := by cases l <;> rfl
theorem setLoc_win (s : State) (b : Byte) (l : Loc) : (setLoc s b l).win = s.win := by cases l <;> rfl

theorem memPut1_qch (s : State) (p a : Nat) (b : Byte) : (memPut1 s p a b).qch = s.qch := by
  rw [memPut1]
  split
  · exact setLoc_qch ..
  · rfl

theorem memPut1_win (s : State) (p a : Nat) (b : Byte) : (memPut1 s p a b).win = s.win := by
  rw [memPut1]
  split
  · exact setLoc_win ..
  · rfl

theorem memPut_qch (p : Nat) (bs : List Byte) : ∀ (s : State) (a : Nat), (memPut s p a bs).qch = s.qch := by
  induction bs with
  | nil => exact fun _ _ => rfl
  | cons b bs ih => exact fun s a => (ih _ _).trans (memPut1_qch ..)

theorem memPut_win (p : Nat) (bs : List Byte) : ∀ (s : State) (a : Nat), (memPut s p a bs).win = s.win := by
  induction bs with
  | nil => exact fun _ _ => rfl
  | cons b bs ih => exact fun s a => (ih _ _).trans (memPut1_win ..)

theorem touchPage_qch (s : State) (p a : Nat) : (touchPage s p a).qch = s.qch := by
  simp only [touchPage]
  split <;> rfl

theorem touchPage_win (s : State) (p a : Nat) : (touchPage s p a).win = s.win := by
  simp only [touchPage]
  split <;> rfl

theorem noteWrites_qch (s : State) (p a n : Nat) : (noteWrites s p a n).qch = s.qch := by
  rw [noteWrites]
  induction splitRange pageBytes a n generalizing s with
  | nil => rfl
  | cons r rs ih => exact (ih _).trans (touchPage_qch ..)

theorem noteWrites_win (s : State) (p a n : Nat) : (noteWrites s p a n).win = s.win := by
  rw [noteWrites]
  induction splitRange pageBytes a n generalizing s with
  | nil => rfl
  | cons r rs ih => exact (ih _).trans (touchPage_win ..)

/-- A unit's write of memory leaves the Quench unit as it was. -/
theorem devWrite_qch (s : State) (p a : Nat) (bs : List Byte) : (devWrite s p a bs).qch = s.qch := by
  rw [devWrite, (windowOnly_countHbm ..).qch_eq, noteWrites_qch, memPut_qch]

/-- Of the registers, a unit's write of memory changes counters of the HBM controllers alone. -/
theorem rdW_devWrite (s : State) (p a : Nat) (bs : List Byte) {r : Nat} (h : ¬ OnHbmPage r) : rdW (devWrite s p a bs) r = rdW s r := by
  rw [devWrite, rdW_countHbm _ _ _ _ (by decide) h]
  exact rdW_congr ((congrArg Window.regs (noteWrites_win ..)).trans (congrArg Window.regs (memPut_win ..))) r

/-! ### What places an address (R17, R279 to R282) -/

theorem partOfSlice_lt {s : State} {sl p : Nat} (h : partOfSlice s sl = some p) : p < 8 :=
  List.mem_range.1 (List.mem_of_find?_eq_some h)

section
variable {s t : State} (hr : ∀ o, ¬ OnHbmPage o → rdW t o = rdW s o)
include hr

theorem partSlices_congr {p : Nat} (hp : p < 8) : partSlices t p = partSlices s p := by
  have : partMask t p = partMask s p := rdF_of_rdW (hr _ (not_onHbmPage_of_lt (by simp only [partPg]; omega))) 7 0
  rw [partSlices, this, partSlices]

theorem lowSlice_congr {p : Nat} (hp : p < 8) : lowSlice t p = lowSlice s p := by rw [lowSlice, partSlices_congr hr hp, lowSlice]

theorem tierPg_congr (sl : Nat) {x : Nat} (hx : x < 4096) : rdW t (tierPg sl + x) = rdW s (tierPg sl + x) :=
  hr _ (not_onHbmPage_slPg (by decide) hx)

theorem tiered_congr {p : Nat} (hp : p < 8) : tiered t p = tiered s p := by
  simp only [tiered, hostTier, flashTier, lowSlice_congr hr hp, rdB_of_rdW (tierPg_congr hr (lowSlice s p) (x := 0x104) (by decide))]

theorem hostPoolBase_congr : hostPoolBase t = hostPoolBase s := by
  have hlo := hr (ftl1Pg + 0x108) (not_onHbmPage_of_lt (by decide))
  have hhi := hr (ftl1Pg + 0x108 + 4) (not_onHbmPage_of_lt (by decide))
  simp only [hostPoolBase, rd64, rd_of_rdW hlo, rd_of_rdW hhi]

theorem partPages_congr {p : Nat} (hp : p < 8) : partPages t p = partPages s p := by
  simp only [partPages, hbmFrames, partStacks, tiered_congr hr hp, partSlices_congr hr hp, lowSlice_congr hr hp,
    rdF_of_rdW (tierPg_congr hr (lowSlice s p) (x := 0x108) (by decide))]

section
variable (hm : t.mem = s.mem)
include hm

theorem locOf_congr {p : Nat} (hp : p < 8) (a : Nat) : locOf t p a = locOf s p a := by
  simp only [locOf, servedBy, pageEntry, swapOf, partStacks, partPages_congr hr hp, tiered_congr hr hp, partSlices_congr hr hp,
    hostPoolBase_congr hr, hm]

/-- A range is mapped, by the registers beside the HBM controllers' and by memory alone. -/
theorem inPart_congr {p : Nat} (hp : p < 8) (a n : Nat) : inPart t p a n = inPart s p a n := by
  simp only [inPart, locOf_congr hr hm hp]

/-- Bytes of the partition depend on the same. -/
theorem memBytes_congr {p : Nat} (hp : p < 8) (a n : Nat) : memBytes t p a n = memBytes s p a n := by
  have hb : memByte t p = memByte s p := funext fun x => by
    simp only [memByte, locOf_congr hr hm hp]
    split
    · next l _ => cases l <;> simp only [getLoc, hm]
    · rfl
  rw [memBytes, hb, memBytes]

end
end

end Sys2Proof.Machine
end

section
/-!
Quench detections of the partition's own (05_update_pass_quench_temper.md R129 to R131): what one changes when it is applied, and
when it is held.
-/
namespace Sys2Proof.Machine

theorem windowOnly_setFirst (s : State) (pg : Nat) (d : Detection) (step : Nat) : WindowOnly s (setFirst s pg d step) := by
  rw [setFirst]
  exact ((((windowOnly_wr ..).trans (windowOnly_wr ..)).trans (windowOnly_wr64 ..)).trans (windowOnly_wr64 ..)).trans (windowOnly_wr64 ..)

/-- The first-location record is the registers from 0x160 to 0x17C. -/
theorem rdW_setFirst (s : State) (pg : Nat) (d : Detection) (step : Nat) {o : Nat} (h : o < pg + 0x160) :
    rdW (setFirst s pg d step) o = rdW s o := by
  rw [setFirst, rdW_wr64_ne _ _ (by omega) (by omega), rdW_wr64_ne _ _ (by omega) (by omega), rdW_wr64_ne _ _ (by omega) (by omega),
    rdW_wr_ne _ _ (by omega), rdW_wr_ne _ _ (by omega)]

/-- The sticky flag and a cause bit of QCH_STAT are set. -/
def flagged (s : State) (pg cause : Nat) : State :=
  wrF (wrB s (pg + 0x108) 0 true) (pg + 0x108) 31 24 (rdF s (pg + 0x108) 31 24 ||| 2 ^ cause)

theorem windowOnly_flagged (s : State) (pg cause : Nat) : WindowOnly s (flagged s pg cause) :=
  (windowOnly_wrB ..).trans (windowOnly_wr ..)

theorem rdW_flagged_ne (s : State) {pg o : Nat} (cause : Nat) (h : o ≠ pg + 0x108) : rdW (flagged s pg cause) o = rdW s o := by
  rw [flagged, wrF, rdW_wr_ne _ _ h, wrB, wrF, rdW_wr_ne _ _ h]

/-- The sticky flag, bit 0, lies outside the causes' field. -/
theorem rdB_flagged_sticky (s : State) (pg cause : Nat) : rdB (flagged s pg cause) (pg + 0x108) 0 = true := by
  have hset : (rd (wrB s (pg + 0x108) 0 true) (pg + 0x108)).testBit 0 = true := rdB_wrB s (pg + 0x108) 0 true (by decide)
  rw [rdB, flagged, wrF, rd_wr_same, Nat.testBit_mod_two_pow, putBits_testBit _ _ _ _ _ (by decide), if_neg (by decide), hset]
  rfl

/-- Cause c is bit 24 + c. -/
theorem rdB_flagged_cause (s : State) (pg : Nat) {cause : Nat} (h : cause < 8) :
    rdB (flagged s pg cause) (pg + 0x108) (24 + cause) = true := by
  rw [rdB, flagged, wrF, rd_wr_same, Nat.testBit_mod_two_pow, putBits_testBit _ _ _ _ _ (by decide), if_pos (by omega),
    Nat.add_sub_cancel_left, Nat.testBit_or, Nat.testBit_two_pow_self, Bool.or_true, Bool.and_true]
  exact decide_eq_true (by omega)

/-- A detection of no tile sets flag and cause, after the first-location record where it comes first. -/
theorem applyDetection_eq_flagged {s : State} {pg step : Nat} {d : Detection} (hd : d.phys = none) :
    ∃ u, (u = s ∨ u = setFirst s pg d step) ∧ applyDetection s pg d step = flagged u pg d.cause := by
  simp only [applyDetection, hd]
  split
  · exact ⟨_, .inr rfl, rfl⟩
  · exact ⟨_, .inl rfl, rfl⟩

section
variable {s : State} {pg step : Nat} {d : Detection} (hd : d.phys = none)
include hd

theorem windowOnly_applyDetection : WindowOnly s (applyDetection s pg d step) := by
  obtain ⟨u, hu, heq⟩ := applyDetection_eq_flagged (s := s) (pg := pg) (step := step) hd
  rw [heq]
  refine WindowOnly.trans ?_ (windowOnly_flagged ..)
  rcases hu with rfl | rfl
  · exact .refl u
  · exact windowOnly_setFirst ..

/-- The registers of the page below QCH_STAT, BLK_INT_STAT among them, stay. -/
theorem rdW_applyDetection {o : Nat} (ho : o < pg + 0x108) : rdW (applyDetection s pg d step) o = rdW s o := by
  obtain ⟨u, hu, heq⟩ := applyDetection_eq_flagged (s := s) (pg := pg) (step := step) hd
  rw [heq, rdW_flagged_ne u _ (by omega)]
  rcases hu with rfl | rfl
  · rfl
  · exact rdW_setFirst _ _ _ _ (by omega)

theorem rdB_applyDetection_sticky : rdB (applyDetection s pg d step) (pg + 0x108) 0 = true := by
  obtain ⟨u, -, heq⟩ := applyDetection_eq_flagged (s := s) (pg := pg) (step := step) hd
  rw [heq, rdB_flagged_sticky]

theorem rdB_applyDetection_cause (hc : d.cause < 8) : rdB (applyDetection s pg d step) (pg + 0x108) (24 + d.cause) = true := by
  obtain ⟨u, -, heq⟩ := applyDetection_eq_flagged (s := s) (pg := pg) (step := step) hd
  rw [heq, rdB_flagged_cause u pg hc]

end

/-- The SOFT detection of partition p, as software raises it (R129, R131). -/
def softDetection (s : State) (p : Nat) : Detection :=
  { cause := 7, phys := none, tile := 0xFFFF, layer := cGet (fun _ => 0) s.qch.lastTag (lowSlice s p), index := 0,
    stamp := asStamp s.time }

/-- A detection by software is applied: the sticky flag, cause SOFT and the interrupt are set, and nothing but the window changes. -/
structure SoftApplied (s t : State) (pg : Nat) : Prop where
  window : WindowOnly s t
  sticky : rdB t (pg + 0x108) 0 = true
  soft   : rdB t (pg + 0x108) 31 = true
  signal : rdB t (pg + hIntStat) 0 = true

theorem taskState_intSet (s : State) (sl bits : Nat) : taskState (intSet s (qchPg sl) bits) sl = taskState s sl :=
  rdF_of_rdW (rdW_intSet_ne s bits (by simp only [hIntStat]; omega)) 7 6

theorem detectPart_applied {s : State} {p : Nat} (h : taskState s (lowSlice s p) ≠ 2) :
    SoftApplied s (detectPart s p 7 0) (qchPg (lowSlice s p)) := by
  have hdet : detectPart s p 7 0 = applyDetection (intSet s (qchPg (lowSlice s p)) 1) (qchPg (lowSlice s p)) (softDetection s p)
      (rd64 (intSet s (qchPg (lowSlice s p)) 1) (qchPg (lowSlice s p) + 0x110)) := if_neg fun he => h ((taskState_intSet ..).symm.trans he)
  rw [hdet]
  refine ⟨(windowOnly_intSet ..).trans (windowOnly_applyDetection rfl), rdB_applyDetection_sticky rfl,
    rdB_applyDetection_cause (d := softDetection s p) rfl (by simp only [softDetection]; decide), ?_⟩
  rw [rdB_of_rdW (rdW_applyDetection rfl (by simp only [hIntStat]; omega))]
  exact intSet_bit s _ 0 (by decide)

/-- While the vote is cast and its outcome awaited, the detection is held for the next step (R129, R130). -/
theorem detectPart_held {s : State} {p : Nat} (h : taskState s (lowSlice s p) = 2) :
    detectPart s p 7 0 = setHeld (intSet s (qchPg (lowSlice s p)) 1) (lowSlice s p) (heldAt s (lowSlice s p) ++ [softDetection s p]) := by
  have hheld : heldAt (intSet s (qchPg (lowSlice s p)) 1) (lowSlice s p) = heldAt s (lowSlice s p) := by rw [heldAt, intSet_qch, heldAt]
  rw [← hheld]
  exact if_pos ((taskState_intSet ..).trans h)

end Sys2Proof.Machine
end

section
/-!
The Quench unit's page and its arming (05_update_pass_quench_temper.md R129 to R132, R136, R150), and O25.
-/
namespace Sys2Proof.Machine

/-! ### The partition page -/

/-- Every offset of a page lies on the page. -/
theorem pageAt_add {b o : Nat} (hb : b % 4096 = 0) (ho : o < 4096) : pageAt (b + o) = pageAt b := by
  rw [pageAt, show (b + o) / 4096 = b / 4096 by omega, pageAt]

theorem pageAt_qchPg : ∀ sl : Fin 8, pageAt (qchPg sl) = some ⟨.qchP, sl / 2, sl % 2, qchPg sl⟩ := by decide +kernel

theorem qchPg_aligned (sl : Nat) : qchPg sl % 4096 = 0 := by
  simp only [qchPg, slPg, ctlPg]
  omega

theorem not_onHbmPage_qchPg (sl : Nat) {x : Nat} (hx : x < 4096) : ¬ OnHbmPage (qchPg sl + x) := not_onHbmPage_slPg (by decide) hx

section
variable {r : RegWrite} {s : State} {sl : Fin 8} {p o : Nat} (h : QchWrite r s sl p o)
include h

theorem QchWrite.pageAt_eq (ho : o < 4096) : pageAt r.off.toNat = some ⟨.qchP, sl / 2, sl % 2, qchPg sl⟩ := by
  rw [h.here, pageAt_add (qchPg_aligned sl) ho, pageAt_qchPg]

theorem QchWrite.offset (ho : o < 4096) : r.off.toNat % 4096 = o := by
  have := qchPg_aligned sl
  rw [h.here]
  omega

theorem QchWrite.isQuench (ho : o < 4096) : isQuench r.off.toNat o = true := by
  simp [Machine.isQuench, h.pageAt_eq ho, h.offset ho]

/-- The page of a partition's lowest slice is live. -/
theorem QchWrite.quenchSlice (ho : o < 4096) : quenchSlice (tick s r.now) r.off.toNat o = some sl.val := by
  have hsl : sliceOfPage ⟨.qchP, sl / 2, sl % 2, qchPg sl⟩ = sl := Nat.div_add_mod sl.val 2
  have hplace : placeOk (tick s r.now) ⟨.qchP, sl / 2, sl % 2, qchPg sl⟩ .low = true := by
    rw [placeOk_tick]
    simp only [placeOk, hsl, h.owner, h.low, beq_self_eq_true]
  simp only [Machine.quenchSlice, h.pageAt_eq ho, h.offset ho, hplace, hsl, and_self, if_true]

end

/-! ### Arming (R132, R136, R138) -/

section
variable {r : RegWrite} {s : State} {sl : Fin 8} {p : Nat} (h : QchWrite r s sl p 0x100)
include h

/-- A write of ARM arms where every check passes, and signals ARM_FAIL otherwise. -/
theorem exec_qchArm_arm (hb : r.val.toNat.testBit 0 = true) (ha : armed s sl = false) :
    exec (.qchArm r) s =
      .next (if armOk s p sl then armUnit (tick s r.now) p sl else intSet (tick s r.now) (qchPg sl) 64) := by
  have ha' : armed (tick s r.now) sl = false := ha
  have hown : partOfSlice (tick s r.now) sl = some p := h.owner
  have hok : armOk (tick s r.now) p sl = armOk s p sl := rfl
  show execQchArm r s = _
  simp only [execQchArm, h.isQuench (by decide), h.quenchSlice (by decide), hb, ha', hown, hok]
  cases armOk s p sl <;> rfl

theorem exec_qchArm_disarm (hb : r.val.toNat.testBit 0 = false) (ha : armed s sl = true) (ht : taskState s sl = 0) :
    exec (.qchArm r) s = .next (disarm (tick s r.now) sl) := by
  have ha' : armed (tick s r.now) sl = true := ha
  have ht' : taskState (tick s r.now) sl = 0 := ht
  show execQchArm r s = _
  simp only [execQchArm, h.isQuench (by decide), h.quenchSlice (by decide), hb, ha', ht']
  rfl

theorem exec_isoClr (hb : r.val.toNat.testBit 3 = true) : exec (.isoClr r) s = .next (wrB (tick s r.now) (qchPg sl + 0x108) 8 false) := by
  show execIsoClr r s = _
  simp only [execIsoClr, h.isQuench (by decide), h.quenchSlice (by decide), hb]
  rfl

theorem exec_qchCtlRaise (hb : r.val.toNat.testBit 1 = true) : exec (.qchCtlRaise r) s = .next (detectPart (tick s r.now) p 7 0) := by
  have hown : partOfSlice (tick s r.now) sl = some p := h.owner
  show execQchCtlRaise r s = _
  simp only [execQchCtlRaise, h.isQuench (by decide), h.quenchSlice (by decide), hb, raiseSoft, hown]
  rfl

end

/-- A record initialised leaves the loaded members. -/
theorem membersOf_initRecord (s : State) (p sl n sl' : Nat) : membersOf (initRecord s p sl n) sl' = membersOf s sl' := by
  simp only [membersOf, initRecord, setVoteRec, devWrite_qch]

theorem rdW_setVoteRec (s : State) (sl rec : Nat) (x : VoteRec) (o : Nat) : rdW (setVoteRec s sl rec x) o = rdW s o := rfl

theorem armed_initRecord (s : State) (p sl n sl' : Nat) : armed (initRecord s p sl n) sl' = armed s sl' := by
  have hkeep : rdW (initRecord s p sl n) (qchPg sl' + 0x100) = rdW s (qchPg sl' + 0x100) := by
    simp only [initRecord, rdW_setVoteRec]
    exact rdW_devWrite _ _ _ _ (not_onHbmPage_qchPg sl' (by decide))
  rw [armed, rdB_of_rdW hkeep, armed]

theorem armed_armUnit (s : State) (p sl : Nat) : armed (armUnit s p sl) sl = true := by
  simp only [armUnit, armed_initRecord]
  exact rdB_wrB _ _ _ _ (by decide)

/-- Arming loads the membership table as it stands in memory (R136). -/
theorem membersOf_armUnit (s : State) (p sl : Nat) :
    membersOf (armUnit s p sl) sl = (List.range (rdF s (qchPg sl + 0x128) 11 0)).map (fun i =>
      BitVec.ofNat 32 (memNat s p (rd64 s (qchPg sl + 0x120) + 4 * i) 4)) := by
  simp only [armUnit, membersOf_initRecord]
  exact cGet_cSet_same ..

/-- ARM_FAIL is bit 6; signalling it does not arm. -/
theorem intSet_armFail {s : State} {sl : Nat} (ha : armed s sl = false) :
    armed (intSet s (qchPg sl) 64) sl = false ∧
      rdB (intSet s (qchPg sl) 64) (qchPg sl + hIntStat) 6 = true := by
  refine ⟨?_, intSet_bit s _ 6 (by decide)⟩
  rw [armed, rdB_of_rdW (rdW_intSet_ne s 64 (by simp only [hIntStat]; omega))]
  exact ha

theorem disarm_unloads (s : State) (sl : Nat) :
    armed (disarm s sl) sl = false ∧ membersOf (disarm s sl) sl = [] ∧ (disarm s sl).mem = s.mem := by
  have hregs : (disarm s sl).win = (wrB s (qchPg sl + 0x100) 0 false).win := rfl
  refine ⟨?_, ?_, ?_⟩
  · rw [armed, rdB_of_rdW (rdW_congr (congrArg Window.regs hregs) _), rdB_wrB _ _ _ _ (by decide)]
  · simp only [membersOf, disarm, cGet_cSet_same]
  · simp only [disarm, wrB_mem]

/-! ### The membership table's CRC (R150) -/

/-- A computation of the CRC is due. -/
def crcPending (s : State) (sl : Nat) : State :=
  { wr s (qchPg sl + 0x12C) 0 with qch := { s.qch with crcDue := cSet (fun _ => false) s.qch.crcDue sl true } }

theorem rd_crcPending (s : State) (sl o : Nat) : rd (crcPending s sl) o = rd (wr s (qchPg sl + 0x12C) 0) o := by
  simp only [crcPending, rd, rdW]

theorem exec_qchMemberCntWrite {r : RegWrite} {s : State} {sl : Fin 8} {p : Nat} (h : QchWrite r s sl p 0x128) (ha : armed s sl = false) :
    exec (.qchMemberCntWrite r) s = .next (crcPending (wr (tick s r.now) (qchPg sl + 0x128) (r.val.toNat % 4096)) sl) := by
  have ha' : armed (tick s r.now) sl = false := ha
  show execQchMemberCntWrite r s = _
  simp only [execQchMemberCntWrite, h.isQuench (by decide), h.quenchSlice (by decide), ha']
  rw [h.here]
  rfl

/-- The count reads back as written, and the CRC as 0 until it is computed. -/
theorem crcPending_wr {s : State} (sl v : Nat) (hv : v < 4096) :
    let t := crcPending (wr s (qchPg sl + 0x128) v) sl
    rd t (qchPg sl + 0x128) = v ∧ rd t (qchPg sl + 0x12C) = 0 ∧ cGet (fun _ => false) t.qch.crcDue sl = true ∧ t.mem = s.mem := by
  refine ⟨?_, ?_, ?_, ?_⟩
  · rw [rd_crcPending, rd_wr_ne _ _ (by omega), rd_wr_same]
    omega
  · rw [rd_crcPending, rd_wr_same, Nat.zero_mod]
  · simp only [crcPending, cGet_cSet_same]
  · simp only [crcPending, wr_mem]

/-- The computation that was due is due no more. -/
def crcTaken (s : State) (sl : Nat) : State :=
  { s with qch := { s.qch with crcDue := cSet (fun _ => false) s.qch.crcDue sl false } }

/-- The computation reads n bytes at a; the sectors read are counted. -/
def crcRead (s : State) (sl p a n : Nat) : State := countHbm (crcTaken s sl) p a n 0x120

/-- Reading the table changes neither the table nor what places it. -/
theorem crcRead_keeps (s : State) (sl : Nat) {p : Nat} (hp : p < 8) (a n : Nat) :
    inPart (crcRead s sl p a n) p a n = inPart s p a n ∧ memBytes (crcRead s sl p a n) p a n = memBytes s p a n := by
  have hr : ∀ o, ¬ OnHbmPage o → rdW (crcRead s sl p a n) o = rdW s o := fun o ho => rdW_countHbm _ _ _ _ (by decide) ho
  have hm : (crcRead s sl p a n).mem = s.mem := (windowOnly_countHbm ..).mem_eq
  exact ⟨inPart_congr hr hm hp a n, memBytes_congr hr hm hp a n⟩

theorem exec_memberCrcDone {sl : Fin 8} {now : Nat} {s : State} {p n a : Nat} (hdue : cGet (fun _ => false) s.qch.crcDue sl = true)
    (hown : partOfSlice s sl = some p) (hn : rdF s (qchPg sl + 0x128) 11 0 = n) (ha : rd64 s (qchPg sl + 0x120) = a)
    (hcnt : 1 ≤ n ∧ n ≤ 3969) (hin : inPart s p a (4 * n) = true) :
    exec (.memberCrcDone sl .clean now) s =
      .next (wrW (crcRead (tick s now) sl p a (4 * n)) (qchPg sl + 0x12C) (crc32c (memBytes s p a (4 * n)))) := by
  obtain ⟨hmap, hbytes⟩ := crcRead_keeps (tick s now) sl (partOfSlice_lt hown) a (4 * n)
  have hin' : inPart (crcRead (tick s now) sl p a (4 * n)) p a (4 * n) = true := hmap.trans hin
  have hbytes' : memBytes (crcRead (tick s now) sl p a (4 * n)) p a (4 * n) = memBytes s p a (4 * n) := hbytes
  have hdue' : ¬ cGet (fun _ => false) (tick s now).qch.crcDue sl = false := by simp [hdue]
  have hown' : partOfSlice (crcTaken (tick s now) sl) sl = some p := hown
  have hn' : rdF (crcTaken (tick s now) sl) (qchPg sl + 0x128) 11 0 = n := hn
  have ha' : rd64 (crcTaken (tick s now) sl) (qchPg sl + 0x120) = a := ha
  have hread : unitRead (crcTaken (tick s now) sl) p a (4 * n) .clean = (false, crcRead (tick s now) sl p a (4 * n)) := rfl
  show execMemberCrcDone sl .clean now s = _
  simp only [execMemberCrcDone, if_neg hdue', ← crcTaken.eq_1, hown', hn', ha', hread, hin', hbytes', decide_eq_true hcnt]
  rfl

/-- The computation's end: the CRC reads back, none is due, and memory is as it was. -/
theorem crcRead_wrW (s : State) (sl p a n : Nat) (v : W32) :
    let t := wrW (crcRead s sl p a n) (qchPg sl + 0x12C) v
    rdW t (qchPg sl + 0x12C) = v ∧ cGet (fun _ => false) t.qch.crcDue sl = false ∧ t.mem = s.mem := by
  have hread : WindowOnly (crcTaken s sl) (crcRead s sl p a n) := windowOnly_countHbm ..
  refine ⟨?_, ?_, ?_⟩
  · simp only [rdW, wrW, cGet_cSet_same]
  · simp only [wrW_qch, hread.qch_eq, crcTaken, cGet_cSet_same]
  · rw [wrW_mem, hread.mem_eq, crcTaken]

/-! ### Operations of a thread -/

/-- An operation whose effect lies outside the tiles writes no register and no predicate. -/
theorem wroteNone_retired {i : Issue} {s u : State} (h : u.tl = s.tl) : WroteNone i s (i.retired s u) where
  preds p := (retire_preg ..).trans (by rw [preg, h, Issue.pred, preg])
  regs r := (retire_xreg ..).trans (xreg_congr h ..)

/-- A tile's issue counter lies on no Quench page. -/
theorem rdW_retire_qchPg (s : State) (t th pc sl : Nat) {x : Nat} (hx : x < 4096) :
    rdW (retire s t th pc) (qchPg sl + x) = rdW s (qchPg sl + x) := by
  apply retire_rdW <;> simp only [tilePg, qchPg, slPg, ctlPg] <;> omega

theorem rdW_retire_qchTilePg (s : State) (t th pc : Nat) {x : Nat} (hx : x < 4096) :
    rdW (retire s t th pc) (qchTilePg t + x) = rdW s (qchTilePg t + x) := by
  apply retire_rdW <;> simp only [tilePg, qchTilePg] <;> omega

theorem exec_qchRaise {i : Issue} {s : State} {p : Nat} (h : Ready 7 0x22 (fun w => zero w 47 0) noRegs i s)
    (hp : partOfTile s i.tile = some p) : exec (.qchRaise i) s = .next (i.retired s (detectPart (i.here s) p 7 0)) := by
  have hp' : partOfTile (i.here s) i.ctx.t = some p := hp
  show execQchRaise i s = _
  refine (issueOp_ready h rfl).trans ?_
  simp only [hp']
  rfl

theorem exec_qchLayer {i : Issue} {s : State} (h : Ready 7 0x23 (fun w => zero w 47 16) noRegs i s) :
    exec (.qchLayer i) s = .next (i.retired s (wrF (i.here s) (qchTilePg i.tile + 0x104) 15 0 (bitsOf i.w 15 0))) := by
  show execQchLayer i s = _
  exact (issueOp_ready h rfl).trans rfl

theorem layerTag_retired_wrF (i : Issue) (s u : State) :
    layerTag (i.retired s (wrF u (qchTilePg i.tile + 0x104) 15 0 (bitsOf i.w 15 0))) i.tile = bitsOf i.w 15 0 := by
  rw [layerTag, rdF_of_rdW (rdW_retire_qchTilePg _ _ _ _ (by decide)), rdF_wrF _ _ _ _ _ (by decide) (by decide)]
  exact Nat.mod_eq_of_lt (bitsOf_lt _ _ _)

/-- Settles O25: each command's outcome is one equation, and each clause a lemma on that outcome. -/
theorem quenchArmingAndDetections : Obligations.QuenchArmingAndDetections := by
  refine ⟨fun r s sl p h hb ha => ⟨fun hok => ?_, fun hok => ?_⟩, fun r s sl p h hb ha ht => ?_, fun r s sl p h hb => ?_,
    fun r s sl p h ha => ?_, fun sl now s p => ?_, fun r s sl p h hb ht => ?_,
    fun i s p h hp => ⟨fun ht => ?_, fun ht => ?_⟩, fun i s h => ?_⟩
  · rw [Gives, exec_qchArm_arm h hb ha, if_pos hok]
    exact ⟨_, rfl, armed_armUnit .., membersOf_armUnit ..⟩
  · rw [Gives, exec_qchArm_arm h hb ha, if_neg (by simp [hok])]
    exact ⟨_, rfl, (windowOnly_tick s r.now).trans (windowOnly_intSet ..), intSet_armFail (s := tick s r.now) ha⟩
  · exact ⟨_, exec_qchArm_disarm h hb ha ht, disarm_unloads (tick s r.now) sl⟩
  · exact ⟨_, exec_isoClr h hb, (windowOnly_tick s r.now).trans (windowOnly_wrB ..), rdB_wrB _ _ _ _ (by decide)⟩
  · exact ⟨_, exec_qchMemberCntWrite h ha, crcPending_wr sl _ (Nat.mod_lt _ (by decide))⟩
  · intro n a hdue hown h1 h2 hin
    exact ⟨_, exec_memberCrcDone hdue hown rfl rfl ⟨h1, h2⟩ hin, crcRead_wrW ..⟩
  · have htask : taskState s (lowSlice s p) ≠ 2 := by rwa [h.low]
    have happ := detectPart_applied (s := tick s r.now) (p := p) htask
    have hlow : lowSlice (tick s r.now) p = sl := h.low
    rw [hlow] at happ
    obtain ⟨hwin, hsticky, hsoft, hint⟩ := happ
    exact ⟨_, exec_qchCtlRaise h hb, hsticky, hsoft, hint, hwin.tl_eq, hwin.mem_eq, hwin.qch_eq⟩
  · obtain ⟨hwin, hsticky, hsoft, -⟩ := detectPart_applied (s := i.here s) (p := p) ht
    refine ⟨_, exec_qchRaise h hp, wroteNone_retired hwin.tl_eq, ?_, ?_, (retire_mem ..).trans hwin.mem_eq⟩
    · exact (rdB_of_rdW (rdW_retire_qchPg _ _ _ _ _ (by decide)) 0).trans hsticky
    · exact (rdB_of_rdW (rdW_retire_qchPg _ _ _ _ _ (by decide)) 31).trans hsoft
  · have hexec := exec_qchRaise h hp
    rw [detectPart_held (s := i.here s) ht] at hexec
    refine ⟨_, hexec, wroteNone_retired (intSet_tl ..), ?_, softDetection (i.here s) p, ?_, rfl, rfl⟩
    · refine rd_of_rdW ((rdW_retire_qchPg _ _ _ _ _ (by decide)).trans ?_)
      exact rdW_intSet_ne (i.here s) (pg := qchPg (lowSlice s p)) 1 (by simp only [hIntStat]; omega)
    · rw [heldAt, retire_qch]
      exact cGet_cSet_same ..
  · exact ⟨_, exec_qchLayer h, layerTag_retired_wrF .., wroteNone_retired (wrF_tl ..),
      congrArg Thread.pc (retire_thr ..), (retire_tl_spad ..).trans (congrArg _ (wrF_tl ..)), (retire_mem ..).trans (wrF_mem ..)⟩

end Sys2Proof.Machine
end

section
/-!
What holds right after reset (R171, R425), the bytes that a store changes (R154), and the tags that completed accesses leave (R160,
R215).
-/
namespace Sys2Proof.Machine

/-! ### Registers right after reset (R171, R425, R472) -/

/-- Every offset of a page names the page. -/
theorem pageAt_same_page {off o : Nat} {p : PageRef} (hp : pageAt off = some p) (ho : o < 4096) : pageAt (p.base + o) = some p := by
  have hb : p.base % 4096 = 0 := by rw [pageAt_base hp]; omega
  rw [pageAt_add hb ho, ← pageAt_add hb (Nat.mod_lt off (by decide)), pageAt_offset hp, hp]

theorem regReset_header {off o : Nat} {p : PageRef} (hp : pageAt off = some p) (ho : o < 0x100) :
    regReset (p.base + o) = BitVec.ofNat 32 (hdrReset p o) := by
  have ho' : (p.base + o) % 4096 = o := by
    have := pageAt_base hp
    omega
  simp only [regReset, pageAt_same_page hp (Nat.lt_trans ho (by decide)), ho', if_pos ho]

/-- The status, interrupt, error and injection registers of a page. -/
def statusRegs : List Nat := [hStat, hIntStat, hIntEn, hErrSyn, hErrLo, hErrLo + 4, hInj]

theorem hdrReset_statusRegs (p : PageRef) : ∀ o ∈ statusRegs, o < 0x100 ∧ hdrReset p o = 0 := by
  simp [statusRegs, hdrReset, hStat, hIntStat, hIntEn, hErrSyn, hErrLo, hInj, hId, hCap, hEpoch, hSpare]

/-- Settles O55: the tiles hold nothing, and the registers named are at the values of the page header's table. -/
theorem resetState : Obligations.ResetState := by
  refine ⟨rfl, by decide +kernel, fun t th => ⟨rfl, fun r => rfl, fun p => rfl⟩, fun t => ⟨fun slot => rfl, fun a => rfl⟩,
    fun off p hp o ho => ?_⟩
  obtain ⟨hlt, hz⟩ := hdrReset_statusRegs p o ho
  show (regReset (p.base + o)).toNat = 0
  rw [regReset_header hp hlt, hz]
  rfl

/-! ### Stores (R154) -/

/-- A range that lies in a running code region is one that the region drops. -/
theorem rangeHitsCode_of_inside {s : State} {t a n : Nat} (hr : tileRunning s t = true) (hn : n ≠ 0)
    (h : ∀ x, a ≤ x ∧ x < a + n → inCode s t (x / 512) = true) : rangeHitsCode s t none a n = true := by
  have hmem : a / 512 ∈ rangeFrom (a / 512) ((a + n - 1) / 512 + 1 - a / 512) := by
    rw [mem_rangeFrom]
    have := Nat.div_le_div_right (c := 512) (show a ≤ a + n - 1 by omega)
    omega
  have hin : inCode s t (a / 512) = true := h a (by omega)
  simp only [rangeHitsCode, hr, Bool.and_true, Bool.and_eq_true, bne_iff_ne, List.any_eq_true, viewSlot_none]
  exact ⟨hn, _, hmem, hin⟩

/-- Settles O8: a range that no running code region drops meets it nowhere, and one inside such a region meets it everywhere. -/
theorem storesChangeTheirBytes : Obligations.StoresChangeTheirBytes := by
  intro s t a bs
  refine ⟨fun hfree => ?_, fun hrun hbs hcode => ?_⟩
  · have hstore : pokeBytes s t none a bs = pokeAll s t none a bs := by simp only [pokeBytes, hfree, Bool.false_eq_true, if_false]
    rw [hstore]
    exact ⟨pokeAll_get t bs s a (codeHit_of_range hfree), pokeAll_win ..⟩
  · have hdrop : pokeAll s t none a bs = s :=
      pokeAll_code t bs s a (fun x hx => by rw [codeHit, hcode x hx, hrun, Bool.and_self])
    have hhit := rangeHitsCode_of_inside hrun (mt List.length_eq_zero_iff.1 hbs) hcode
    have hstore : pokeBytes s t none a bs = intSet s (tilePg t 0) 64 := by simp only [pokeBytes, hdrop, hhit, if_true]
    rw [hstore]
    exact ⟨intSet_tl .., intSet_bit s (tilePg t 0) 6 (by decide)⟩

/-! ### Tags (R160, R215) -/

/-- The tag that a completed access leaves on its slot, where it sets one (R215). -/
def Use.leaves : Use → Option Tag
  | .produce => some .full
  | .consume => some .empty
  | _ => none

theorem settleTags_cons_some {u : Use} {g : Tag} (h : u.leaves = some g) (s : State) (t x : Nat) (k : Option (Fin 4))
    (us : List (Nat × Use)) : settleTags s t k ((x, u) :: us) = settleTags (setTag s t k x g) t k us := by
  cases u <;> cases h <;> rfl

theorem settleTags_cons_none {u : Use} (h : u.leaves = none) (s : State) (t x : Nat) (k : Option (Fin 4)) (us : List (Nat × Use)) :
    settleTags s t k ((x, u) :: us) = settleTags s t k us := by
  cases u with
  | produce | consume => cases h
  | _ => rfl

/-- A slot on which no access leaves another tag than g has the tag g afterwards, if it had it or an access leaves it. -/
theorem tagRaw_settleTags {t t' x' : Nat} {g : Tag} (uses : List (Nat × Use)) : ∀ s : State,
    (∀ p ∈ uses, 32768 * t' + x' = 32768 * t + p.1 → p.2.leaves = none ∨ p.2.leaves = some g) →
    (tagRaw s t' x' = g ∨ ∃ p ∈ uses, 32768 * t' + x' = 32768 * t + p.1 ∧ p.2.leaves = some g) →
    tagRaw (settleTags s t none uses) t' x' = g := by
  induction uses with
  | nil =>
    rintro s - (hg | ⟨p, hp, -⟩)
    · exact hg
    · cases hp
  | cons p us ih =>
    obtain ⟨x, u⟩ := p
    intro s hleave hend
    have hrest := fun p hp => hleave p (List.mem_cons_of_mem _ hp)
    simp only [List.mem_cons, exists_eq_or_imp] at hend
    cases hu : u.leaves with
    | none =>
      rw [settleTags_cons_none hu]
      refine ih s hrest (hend.imp_right fun h => h.resolve_left fun h => ?_)
      rw [hu] at h
      exact nomatch h.2
    | some g' =>
      rw [settleTags_cons_some hu]
      by_cases hx : 32768 * t' + x' = 32768 * t + x
      · have hg : g' = g := by simpa [hu] using hleave (x, u) (List.mem_cons_self ..) hx
        exact ih _ hrest (.inl (by rw [tagRaw_setTag, if_pos hx, hg]))
      · refine ih _ hrest (hend.imp (fun h => ?_) fun h => h.resolve_left fun h => hx h.1)
        rw [tagRaw_setTag_ne _ _ hx, h]

theorem setTagRaw_win {g : Tag} (hg : g ≠ .retained) (s : State) (t x : Nat) : (setTagRaw s t x g).win = s.win := by
  simp only [setTagRaw, hg, false_and, if_false]
  split
  · rw [leaveFull_win]
  · rfl

/-- Completed accesses retain no slot, so no register changes. -/
theorem settleTags_win (t : Nat) (k : Option (Fin 4)) (uses : List (Nat × Use)) : ∀ s : State, (settleTags s t k uses).win = s.win := by
  induction uses with
  | nil => exact fun _ => rfl
  | cons p us ih =>
    obtain ⟨x, u⟩ := p
    intro s
    cases hu : u.leaves with
    | none => rw [settleTags_cons_none hu, ih]
    | some g =>
      have hg : g ≠ .retained := by cases u <;> cases hu <;> decide
      rw [settleTags_cons_some hu, ih, setTag, wakeSlot_win, setTagRaw_win hg]

/-- Where no slot operand waits, every slot allows its use. -/
theorem useOk_of_firstBlocked {s : State} {t : Nat} {k : Option (Fin 4)} {uses : List (Nat × Use)} (h : firstBlocked s t k uses = none) :
    ∀ p ∈ uses, useOk s t k p.1 p.2 = true := by
  induction uses with
  | nil => exact fun p hp => nomatch hp
  | cons p us ih =>
    obtain ⟨x, u⟩ := p
    rw [firstBlocked] at h
    split at h
    · next hu => exact List.forall_mem_cons.2 ⟨hu, ih h⟩
    · cases h

theorem tagRaw_of_useOk_produce {s : State} {t x : Nat} (h : useOk s t none x .produce = true) : tagRaw s t x = .empty := by
  simp only [useOk, viewSlot_none, Bool.and_eq_true, beq_iff_eq] at h
  exact h.2.1

theorem tagRaw_of_useOk_consume {s : State} {t x : Nat} (h : useOk s t none x .consume = true) : tagRaw s t x = .full := by
  simp only [useOk, viewSlot_none, Bool.and_eq_true, beq_iff_eq] at h
  exact h.2.1

/-- No slot is both produced and consumed by an operation that does not wait, as the one asks for EMPTY and the other for FULL. -/
theorem not_produce_and_consume {s : State} {t x : Nat} {uses : List (Nat × Use)} (h : firstBlocked s t none uses = none)
    (hp : (x, Use.produce) ∈ uses) (hc : (x, Use.consume) ∈ uses) : False := by
  have he := tagRaw_of_useOk_produce (useOk_of_firstBlocked h _ hp)
  have hf := tagRaw_of_useOk_consume (useOk_of_firstBlocked h _ hc)
  rw [he] at hf
  cases hf

/-- Settles O9: by the tags that a slot's accesses leave, which agree since no slot is both produced and consumed. -/
theorem tagsSettle : Obligations.TagsSettle := by
  intro s t uses ht hlt hfree
  refine ⟨fun x hx => ?_, fun x hx => ?_, fun t' x ht' hx hother => ?_, settleTags_tl_spad .., settleTags_tl_xr .., settleTags_win ..,
    settleTags_mem ..⟩
  · refine tagRaw_settleTags uses s ?_ (.inr ⟨_, hx, rfl, rfl⟩)
    rintro ⟨y, u⟩ hy hkey
    obtain rfl : x = y := by simpa using hkey
    cases u with
    | consume => exact (not_produce_and_consume hfree hx hy).elim
    | _ => simp [Use.leaves]
  · refine tagRaw_settleTags uses s ?_ (.inr ⟨_, hx, rfl, rfl⟩)
    rintro ⟨y, u⟩ hy hkey
    obtain rfl : x = y := by simpa using hkey
    cases u with
    | produce => exact (not_produce_and_consume hfree hy hx).elim
    | _ => simp [Use.leaves]
  · refine tagRaw_settleTags uses s ?_ (.inl rfl)
    rintro ⟨y, u⟩ hy hkey
    have hy' : y < 32768 := hlt _ hy
    obtain rfl : t' = t := by simp only at hkey; omega
    obtain rfl : x = y := by simpa using hkey
    obtain ⟨hprod, hcons⟩ := hother.resolve_left (fun h => h rfl)
    cases u with
    | produce => exact (hprod hy).elim
    | consume => exact (hcons hy).elim
    | _ => simp [Use.leaves]

end Sys2Proof.Machine
end

section
/-!
Operations that do not take effect (R154, R155, R178, R181): what the issue of an operation answers for a thread that is not RUNNABLE, a
PC at which nothing can be fetched, a reserved operation and a false guard, and O58.
-/
namespace Sys2Proof.Machine

/-! ### The ways in which an operation is withheld -/

section
variable {mn : String} {u o : Nat} {legal : Nat → Bool} {regs : Nat → List Nat} {i : Issue} {s : State} {body : OpCtx → State → OpRes}

theorem issueOp_not_runnable (h : (i.thread s).st ≠ .runnable) :
    issueOp mn u o legal regs i s body = .next (tick s i.now) := by
  simp only [issueOp, thrOf_tick]
  exact if_pos h

theorem issueOp_pcFault {code : Nat} (hr : (i.thread s).st = .runnable) (hp : pcFault s i.tile (pcOf i s) = some code) :
    issueOp mn u o legal regs i s body = .next (threadFault (tick s i.now) i.tile i.thr code (pcOf i s)) := by
  simp only [issueOp, thrOf_tick, pcFault_tick, hr, hp, ne_eq, not_true_eq_false, if_false]

theorem issueOp_undefined (hr : (i.thread s).st = .runnable) (hp : pcFault s i.tile (pcOf i s) = none)
    (hd : opDefined (fUnit i.w) (fOpc i.w) = false) :
    issueOp mn u o legal regs i s body = .next (threadFault (tick s i.now) i.tile i.thr 1 (pcOf i s)) := by
  simp only [issueOp, thrOf_tick, pcFault_tick, hr, hp, hd, ne_eq, not_true_eq_false, if_false, if_true]

/-- Under a false guard the word's reserved bits and values are checked first, then the registers that it reads (R157, R178, R181). -/
theorem issueOp_guard_false (hr : (i.thread s).st = .runnable) (hp : pcFault s i.tile (pcOf i s) = none) (hu : fUnit i.w = u)
    (ho : fOpc i.w = o) (hd : opDefined u o = true) (hg : guardOk s i.tile i.thr i.w = false) :
    issueOp mn u o legal regs i s body = .next (i.retired s (tick s i.now)) ∨
    issueOp mn u o legal regs i s body = .next (tick s i.now) ∨
    issueOp mn u o legal regs i s body = .next (threadFault (tick s i.now) i.tile i.thr 2 (pcOf i s)) := by
  simp only [issueOp, thrOf_tick, pcFault_tick, guardOk_tick, hr, hp, hu, ho, hd, hg, ne_eq, not_true_eq_false, or_self, if_false, if_true,
    Bool.true_eq_false]
  split
  · exact .inr (.inr rfl)
  · split
    · exact .inr (.inl rfl)
    · exact .inl rfl

end

/-! ### The rows of the tile operations -/

/-- The commands of a row, where they are well formed or their word names no operation, are issues of one operation, and a well-formed
one names it. -/
def Issues (c : Issue → Instr) : Prop :=
  ∀ i s, wellFormed (c i) = true ∨ opDefined (fUnit i.w) (fOpc i.w) = false →
    ∃ mn u o legal regs body, exec (c i) s = issueOp mn u o legal regs i s body ∧ opDefined u o = true ∧
      (wellFormed (c i) = true → fUnit i.w = u ∧ fOpc i.w = o)

theorem isOp_iff {u o : Nat} {i : Issue} : isOp u o i = true ↔ fUnit i.w = u ∧ fOpc i.w = o := by
  simp [isOp]

/-- A row that is one issueOp whatever its word. -/
theorem issues_of_exec {c : Issue → Instr} {u o : Nat} (hw : ∀ i, wellFormed (c i) = isOp u o i) (hd : opDefined u o = true)
    (he : ∀ i s, ∃ mn legal regs body, exec (c i) s = issueOp mn u o legal regs i s body) : Issues c := by
  intro i s _
  obtain ⟨mn, legal, regs, body, he⟩ := he i s
  exact ⟨mn, u, o, legal, regs, body, he, hd, fun h => isOp_iff.1 (hw i ▸ h)⟩

/-! The rows of form R and of form I, the elementwise operations, the reductions, and the ends of a task (R167, R182, R187). -/

section
variable {c : Issue → Instr} {mn : String} {o : Nat}

theorem issues_aluR {f : W64 → W64 → W64} (hw : ∀ i, wellFormed (c i) = isOp 0 o i) (hd : opDefined 0 o = true)
    (he : ∀ i s, exec (c i) s = aluR mn o f i s) : Issues c :=
  issues_of_exec hw hd fun i s => ⟨_, _, _, _, he i s⟩

theorem issues_aluI {legal : Nat → Bool} {regs : Nat → List Nat} {f : W64 → W64 → W64} (hw : ∀ i, wellFormed (c i) = isOp 0 o i)
    (hd : opDefined 0 o = true) (he : ∀ i s, exec (c i) s = aluI mn o legal regs f i s) : Issues c :=
  issues_of_exec hw hd fun i s => ⟨_, _, _, _, he i s⟩

theorem issues_vecMap {u : VUses} {f : State → OpCtx → FpFmt → FpVal → FpVal → FpVal → Nat} (hw : ∀ i, wellFormed (c i) = isOp 1 o i)
    (hd : opDefined 1 o = true) (he : ∀ i s, exec (c i) s = vecMap mn o u i s f) : Issues c :=
  issues_of_exec hw hd fun i s => ⟨_, _, _, _, he i s⟩

theorem issues_vecReduce {ab : Bool} {f : List FpVal → List FpVal → FpVal} (hw : ∀ i, wellFormed (c i) = isOp 1 o i)
    (hd : opDefined 1 o = true) (he : ∀ i s, exec (c i) s = vecReduce mn o ab f i s) : Issues c :=
  issues_of_exec hw hd fun i s => ⟨_, _, _, _, he i s⟩

theorem issues_endTask {commit : Bool} (hw : ∀ i, wellFormed (c i) = isOp 7 o i) (hd : opDefined 7 o = true)
    (he : ∀ i s, exec (c i) s = endTask mn o commit i s) : Issues c :=
  issues_of_exec hw hd fun i s => ⟨_, _, _, _, he i s⟩

end

theorem issues_sthPush : Issues .sthPush := by
  refine issues_of_exec (fun _ => rfl) rfl fun i s => ?_
  unfold exec execSthPush
  exact ⟨_, _, _, _, rfl⟩

/-- VDACT reads s(SX) in its leaky form alone. -/
theorem issues_vdact : Issues .vdact := by
  refine issues_of_exec (u := 1) (o := 0x20) (fun i => rfl) rfl fun i s => ?_
  by_cases h : fFnV i.w = 1
  · exact ⟨_, _, _, _, if_pos h⟩
  · exact ⟨_, _, _, _, if_neg h⟩

/-- STH.POP of one of its two rows. -/
theorem issues_sthPop {c : Issue → Instr} {mn : String} {discard : Bool} (hw : ∀ i, wellFormed (c i) = isPop discard i)
    (he : ∀ i s, exec (c i) s = sthPop mn discard i s) : Issues c := by
  intro i s h
  have hown : ¬(fUnit i.w = 4 ∧ fOpc i.w = 0x11 ∧ i.w.testBit 18 ≠ discard ∧ (i.thread s).st = .runnable) := by
    rintro ⟨hu, ho, hb, -⟩
    rcases h with h | h
    · rw [hw, isPop, Bool.and_eq_true, beq_iff_eq] at h
      exact hb h.2
    · rw [hu, ho] at h
      cases h
  refine ⟨_, 4, 0x11, _, _, _, (he i s).trans (if_neg hown), rfl, fun h => isOp_iff.1 ?_⟩
  rw [hw, isPop, Bool.and_eq_true] at h
  exact h.1

/-- SLOT.TAG of one of its four rows. -/
theorem issues_slotTag {c : Issue → Instr} {mn : String} {fn : Nat} (hw : ∀ i, wellFormed (c i) = isTagOp fn i)
    (he : ∀ i s, exec (c i) s = slotTagOp mn fn i s) : Issues c := by
  intro i s h
  have hown : ¬((opDefined (fUnit i.w) (fOpc i.w) && fUnit i.w == 6 && fOpc i.w == 0x20 && decide (bitsOf i.w 39 36 ≤ 3) &&
      bitsOf i.w 39 36 != fn) = true) := by
    simp only [Issue.w, Bool.and_eq_true, bne_iff_ne, decide_eq_true_eq] at h ⊢
    rintro ⟨⟨⟨⟨hd, -⟩, -⟩, hle⟩, hfn⟩
    rcases h with h | h
    · simp only [hw, isTagOp, Bool.and_eq_true, Bool.or_eq_true, beq_iff_eq, decide_eq_true_eq] at h
      omega
    · simp [hd] at h
  refine ⟨_, 6, 0x20, _, _, _, (he i s).trans (if_neg hown), rfl, fun h => isOp_iff.1 ?_⟩
  rw [hw, isTagOp, Bool.and_eq_true] at h
  exact h.1


theorem issues_rows_aluR :
    Issues .add ∧ Issues .sub ∧ Issues .mul ∧ Issues .and ∧ Issues .or ∧ Issues .xor ∧ Issues .shl ∧ Issues .shr ∧ Issues .sra ∧
    Issues .minu ∧ Issues .maxu ∧ Issues .mins ∧ Issues .maxs := by
  and_intros
  all_goals exact issues_aluR (fun _ => rfl) rfl fun i s => by unfold exec; exact rfl

theorem issues_rows_aluI :
    Issues .addi ∧ Issues .li ∧ Issues .lih ∧ Issues .andi ∧ Issues .ori ∧ Issues .shli ∧ Issues .shri := by
  and_intros
  all_goals exact issues_aluI (fun _ => rfl) rfl fun i s => by unfold exec; exact rfl

theorem issues_rows_vector :
    Issues .vadd ∧ Issues .vsub ∧ Issues .vmul ∧ Issues .vmax ∧ Issues .vmin ∧ Issues .vabs ∧ Issues .vfma ∧ Issues .vscale := by
  and_intros
  all_goals exact issues_vecMap (fun _ => rfl) rfl fun i s => by unfold exec; exact rfl

theorem issues_rows_reduction : Issues .vrsum ∧ Issues .vrmax ∧ Issues .vdot := by
  and_intros
  all_goals exact issues_vecReduce (fun _ => rfl) rfl fun i s => by unfold exec; exact rfl

theorem issues_rows_endTask : Issues .taskCommit ∧ Issues .taskDiscard := by
  and_intros
  all_goals exact issues_endTask (fun _ => rfl) rfl fun i s => by unfold exec; exact rfl

theorem issues_rows_sthPop : Issues .sthPop ∧ Issues .sthPopDiscard := by
  and_intros
  all_goals exact issues_sthPop (fun _ => rfl) fun i s => by unfold exec; exact rfl

theorem issues_rows_slotTag :
    Issues .slotTagEmpty ∧ Issues .slotTagFull ∧ Issues .slotTagRetain ∧ Issues .slotTagRelease := by
  and_intros
  all_goals exact issues_slotTag (fun _ => rfl) fun i s => by unfold exec; exact rfl

/-- The rows left are one issueOp each. -/
theorem opRows_issue : ∀ c ∈ opRows, Issues c := by
  simp only [opRows, List.forall_mem_cons, List.not_mem_nil, false_implies, implies_true, and_true, true_and, issues_rows_aluR, issues_rows_aluI,
    issues_rows_vector, issues_rows_reduction, issues_rows_endTask, issues_rows_sthPop, issues_rows_slotTag, issues_sthPush, issues_vdact]
  and_intros
  all_goals exact issues_of_exec (fun _ => rfl) rfl fun i s => by unfold exec; exact ⟨_, _, _, _, rfl⟩

/-- A descriptor of a thread that is not RUNNABLE is not read, so it spells no other row. -/
theorem descRows_not_runnable : ∀ c ∈ descRows, ∀ i s, (i.thread s).st ≠ .runnable → exec (c i) s = .next (tick s i.now) := by
  have desc (mn : String) (op : Nat) (i : Issue) (s : State) (h : (i.thread s).st ≠ .runnable) :
      blwDesc mn op i s = .next (tick s i.now) := by
    rw [blwDesc, if_neg (fun hown => h hown.2.2.2.1)]
    exact issueOp_not_runnable h
  simp only [descRows, List.forall_mem_cons, List.not_mem_nil, false_implies, implies_true, and_true]
  and_intros
  all_goals exact fun i s => desc _ _ i s

/-- Settles O58: every row is an issue of its operation, and an issue is withheld in one of four ways. -/
theorem operationsWithheld : Obligations.OperationsWithheld := by
  refine ⟨fun c hc i s hw hr => ?_, fun c hc i s hw hr => ?_, fun c hc i s hd hr hp => ?_⟩
  · rcases List.mem_append.1 hc with hc | hc
    · obtain ⟨mn, u, o, legal, regs, body, he, -⟩ := opRows_issue c hc i s (.inl hw)
      exact he.trans (issueOp_not_runnable hr)
    · exact descRows_not_runnable c hc i s hr
  · obtain ⟨mn, u, o, legal, regs, body, he, hd, hop⟩ := opRows_issue c hc i s (.inl hw)
    obtain ⟨hu, ho⟩ := hop hw
    rw [he]
    exact ⟨fun code hp => issueOp_pcFault hr hp, fun hp hg => issueOp_guard_false hr hp hu ho hd hg⟩
  · obtain ⟨mn, u, o, legal, regs, body, he, -⟩ := opRows_issue c hc i s (.inr hd)
    exact he.trans (issueOp_undefined hr hp hd)

end Sys2Proof.Machine
end

section
/-!
Tile control (R156, R162, R171, R173, R175): starts, clears and halts of threads, the watchdog, tile reset, the swap of a spare, and
O24.
-/
namespace Sys2Proof.Machine

/-! ### The pages of a tile (R470, R471) -/

theorem tilePg_aligned (t n : Nat) : tilePg t n % 4096 = 0 := by
  simp only [tilePg]
  omega

theorem pageAt_tilePg {t n : Nat} (ht : t < 288) (hn : n < 16) :
    pageAt (tilePg t n) = (tilePageKind (t % 72) n).map (fun p => ⟨p.1, t / 72, p.2, tilePg t n⟩) := by
  have hpg : tilePg t n / 4096 = 4096 * (t / 72 + 1) + (16 * (t % 72) + n) := by simp only [tilePg]; omega
  have hbase : tilePg t n / 4096 * 4096 = tilePg t n := by have := tilePg_aligned t n; omega
  have hreg : tilePg t n / 4096 / 4096 = t / 72 + 1 := by omega
  have hin : tilePg t n / 4096 % 4096 = 16 * (t % 72) + n := by omega
  have hdie : diePage (16 * (t % 72) + n) = tilePageKind (t % 72) n := by
    rw [diePage, if_pos (by omega), show (16 * (t % 72) + n) / 16 = t % 72 by omega, show (16 * (t % 72) + n) % 16 = n by omega]
  simp only [pageAt, hreg, hin, hdie, hbase]
  rw [if_neg (by omega), if_pos (by omega), Nat.add_sub_cancel]

theorem tileReg_of_pageAt {b o : Nat} {p : PageRef} (hb : b % 4096 = 0) (ho : o < 4096) (hp : pageAt b = some p) :
    tileReg (b + o) p.kind o = some (tileOfPage p) := by
  have hoff : (b + o) % 4096 = o := by omega
  simp only [tileReg, pageAt_add hb ho, hp, hoff, and_self, if_true]

theorem tileReg_tile0 {t o : Nat} (ht : t < 288) (ho : o < 4096) : tileReg (tilePg t 0 + o) .tile0 o = some t := by
  rw [tileReg_of_pageAt (tilePg_aligned t 0) ho (pageAt_tilePg ht (by decide))]
  exact congrArg some (Nat.div_add_mod t 72)

theorem tileReg_tile1 {t o : Nat} (ht : t < 288) (ho : o < 4096) : tileReg (tilePg t 1 + o) .tile1 o = some t := by
  rw [tileReg_of_pageAt (tilePg_aligned t 1) ho (pageAt_tilePg ht (by decide))]
  exact congrArg some (Nat.div_add_mod t 72)

/-! ### Threads -/

/-- What a key holds is what an unlisted key reads as, or is listed. -/
theorem cGet_default_or_mem {α : Type} (d : Nat → α) (m : Cells α) (k : Nat) : cGet d m k = d k ∨ (k, cGet d m k) ∈ m := by
  induction m with
  | nil => exact .inl rfl
  | cons p m ih =>
    obtain ⟨k', v⟩ := p
    by_cases hk : k' = k
    · subst hk
      exact .inr (by simp [cGet])
    · simp only [cGet, if_neg hk]
      exact ih.imp_right (List.mem_cons_of_mem _)

/-- What a change gives every thread holds of each thread of the tile, if it holds of an unlisted one. -/
theorem thrOf_mapThreads {P : Thread → Prop} {f : Nat → Thread → Thread} (h0 : P {}) (hf : ∀ th x, P (f th x)) (s : State) (t : Nat)
    {th : Nat} (hth : th < 64) : P (thrOf (mapThreads s t f) t th) := by
  rcases cGet_default_or_mem (fun _ => ({} : Thread)) (mapThreads s t f).tl.thr (thKey t th) with h | h
  · rw [thrOf, h]
    exact h0
  · obtain ⟨p, -, hp⟩ := List.mem_map.1 (List.mem_filter.1 h).1
    by_cases hkey : p.1 / 64 = t
    · rw [if_pos hkey] at hp
      obtain ⟨-, hx⟩ := Prod.mk.inj hp
      rw [thrOf, ← hx]
      exact hf ..
    · rw [if_neg hkey] at hp
      have : p.1 = thKey t th := congrArg Prod.fst hp
      simp only [thKey] at this
      omega

theorem xreg_setThr (s : State) (t th : Nat) (x : Thread) (t' th' r : Nat) : xreg (setThr s t th x) t' th' r = xreg s t' th' r := rfl

theorem xreg_clearThread (s : State) (t th : Nat) {r : Nat} (hr : r < 64) : xreg (clearThread s t th) t th r = 0 := by
  have hk : (64 * thKey t th + r) / 64 = thKey t th := by omega
  simp [xreg, clearThread, cGet_cDrop, hk]

theorem preg_clearThread (s : State) (t th : Nat) {p : Nat} (hp : p < 4) : preg (clearThread s t th) t th p = false := by
  have hk : (4 * thKey t th + p) / 4 = thKey t th := by omega
  simp [preg, clearThread, cGet_cDrop, hk]

/-! ### Starts, clears and halts (R156, R175), and the watchdog (R162) -/

/-- A thread that has just been started at pc with a0 = arg. -/
def started (s : State) (t th pc : Nat) (arg : W64) : State :=
  setThr (setXreg (clearThread s t th) t th 32 arg) t th
    { st := .runnable, pc := BitVec.ofNat 32 pc, task := (thrOf s t th).task, gen := (thrOf s t th).gen + 1 }

theorem startThread_eq_started {s : State} {t th pc : Nat} (arg : W64) (hc : canStart s t th = true) (hlt : pc < 2 ^ 32)
    (hp : pcFault s t pc = none) : startThread s t th pc arg = started s t th pc arg := by
  have hp' : pcFault (started s t th pc arg) t (pc % 2 ^ 32) = none := by rw [Nat.mod_eq_of_lt hlt]; exact hp
  rw [started] at hp'
  simp only [startThread, if_pos hc, hp', started]

theorem xreg_started (s : State) (t th pc r : Nat) (arg : W64) (hr : r < 64) (hne : r ≠ 32) : xreg (started s t th pc arg) t th r = 0 :=
  (xreg_setThr ..).trans ((xreg_setXreg_ne _ _ hne).trans (xreg_clearThread s t th hr))

theorem xreg_started_a0 (s : State) (t th pc : Nat) (arg : W64) : xreg (started s t th pc arg) t th 32 = arg :=
  (xreg_setThr ..).trans (xreg_setXreg ..)

theorem counted_inc (s : State) (now o : Nat) : Counted s (inc (tick s now) o) o 1 := by
  rw [Counted, inc, incBy, rd_wr_same, rd_tick]
  omega

section
variable {r : RegWrite} {s : State} {tile : Fin 288}

theorem exec_tileThrStart (h : r.off.toNat = tilePg tile 1 + 0x510) :
    exec (.tileThrStart r) s = .next (startThread (tick s r.now) tile (bitsOf r.val.toNat 5 0) (rd s (tilePg tile 1 + 0x500))
      (BitVec.ofNat 64 (rd64 s (tilePg tile 1 + 0x508)))) := by
  show execTileThrStart r s = _
  simp only [execTileThrStart, h, tileReg_tile1 tile.isLt (o := 0x510) (by decide), rd_tick, rd64_tick]

theorem exec_tileThrClr (h : r.off.toNat = tilePg tile 1 + 0x514) :
    exec (.tileThrClr r) s = .next (if (thrOf s tile (bitsOf r.val.toNat 5 0)).st = .faulted then
      setThr (tick s r.now) tile (bitsOf r.val.toNat 5 0) { thrOf s tile (bitsOf r.val.toNat 5 0) with st := .halted }
      else tick s r.now) := by
  show execTileThrClr r s = _
  simp only [execTileThrClr, h, tileReg_tile1 tile.isLt (o := 0x514) (by decide)]
  rfl

theorem exec_haltAll (h : r.off.toNat = tilePg tile 0 + 0x100) (hb : r.val.toNat.testBit 2 = true) :
    exec (.haltAll r) s = .next (mapThreads (tick s r.now) tile (fun _ x => { x with st := .halted })) := by
  show execHaltAll r s = _
  simp only [execHaltAll, h, tileReg_tile0 tile.isLt (o := 0x100) (by decide), hb, Bool.true_eq_false, if_false]

end

theorem exec_tileWatchdog {tile : Fin 288} {thr : Fin 64} {now : Nat} {s : State} {x : Thread} {w : Nat} (hx : thrOf s tile thr = x)
    (hw : rdF s (tilePg tile 0 + 0x11C) 19 0 = w) (h0 : w ≠ 0) (hlo : 2 ≤ x.st.code) (hhi : x.st.code ≤ 4)
    (hlate : x.since + 1000 * w < max s.time now) :
    exec (.tileWatchdog tile thr now) s = .next (wr (intSet (tick s now) (tilePg tile 0) (2 ^ 1)) (tilePg tile 0 + 0x124)
      (x.st.code * 2 ^ 29 + thr.val * 2 ^ 18 + x.st.slot % 2 ^ 15)) := by
  subst hx hw
  exact if_pos ⟨h0, hlo, hhi, hlate⟩

/-! ### Tile reset (R171) -/

section
variable {s t : State} (h : WindowOnly s t)
include h

theorem WindowOnly.blw_eq : t.blw = s.blw := by rw [h]
theorem WindowOnly.tng_eq : t.tng = s.tng := by rw [h]

end

theorem windowOnly_foldl {α : Type} {f : State → α → State} (hf : ∀ s a, WindowOnly s (f s a)) (l : List α) :
    ∀ s, WindowOnly s (l.foldl f s) := by
  induction l with
  | nil => exact WindowOnly.refl
  | cons a l ih => exact fun s => (hf s a).trans (ih _)

theorem windowOnly_clearCounters (pg : Nat) (rs : List RegDef) : ∀ s, WindowOnly s (clearCounters pg rs s) := by
  induction rs with
  | nil => exact WindowOnly.refl
  | cons r rs ih =>
    intro s
    rw [clearCounters]
    refine WindowOnly.trans ?_ (ih _)
    split
    · exact windowOnly_foldl (fun _ _ => windowOnly_wr ..) ..
    · exact windowOnly_foldl (fun _ _ => windowOnly_wr64 ..) ..
    · exact .refl s

theorem windowOnly_resetTileRegs (s : State) (t : Nat) : WindowOnly s (resetTileRegs s t) := by
  rw [resetTileRegs]
  refine WindowOnly.trans ?_ (windowOnly_foldl (fun _ _ => windowOnly_clearCounters ..) ..)
  exact ((((windowOnly_wrB ..).trans (windowOnly_wrB ..)).trans (windowOnly_wr64 ..)).trans (windowOnly_wr64 ..)).trans
    (windowOnly_wr64 ..)

/-- Dropped descriptors of the rings leave a status, which may be a free value. -/
theorem dropRings_keeps (ds : List BDesc) : ∀ s : State,
    dropRings ds s = { s with free := (dropRings ds s).free, blw := { s.blw with xfers := (dropRings ds s).blw.xfers } } := by
  induction ds with
  | nil => exact fun _ => rfl
  | cons d ds ih =>
    intro s
    rw [dropRings]
    split
    · rw [ih]
      rfl
    · exact ih s

theorem resetTransfers_tl (s : State) (t : Nat) : (resetTransfers s t).tl = s.tl := by
  show (dropRings (descsOf s t) s).tl = s.tl
  rw [dropRings_keeps]

theorem resetTransfers_mem (s : State) (t : Nat) : (resetTransfers s t).mem = s.mem := by
  show (dropRings (descsOf s t) s).mem = s.mem
  rw [dropRings_keeps]

theorem descsOf_resetTransfers (s : State) (t : Nat) : descsOf (resetTransfers s t) t = [] := by
  simp [descsOf, resetTransfers, cGet_cDrop]

theorem tngOps_resetTransfers (s : State) (t : Nat) : ∀ o ∈ (resetTransfers s t).tng.ops, o.tile ≠ t := by
  intro o ho
  simpa using (List.mem_filter.1 ho).2

theorem resetScratch_tl (s : State) (t : Nat) :
    (resetScratch s t).tl = { s.tl with
      tasks := cDrop s.tl.tasks (fun k => k / 4 == t)
      barriers := cDrop s.tl.barriers (fun k => k / 8 == t)
      spad := cDrop s.tl.spad (fun k => k / 2 ^ 24 == t)
      tags := cDrop s.tl.tags (fun k => k / 32768 == t)
      claims := cDrop s.tl.claims (fun k => k / 32768 == t) } := by
  rw [resetScratch, wr_tl]

theorem resetThreads_tl_congr {s s' : State} (h : s'.tl = s.tl) (t : Nat) : (resetThreads s' t).tl = (resetThreads s t).tl := by
  simp only [resetThreads, mapThreads, h]

/-- A reset that starts: what it leaves of tiles, transfers and memory. -/
theorem beginReset_keeps {s : State} {t : Nat} (test : Bool) (h : tileResetting s t = false) :
    (beginReset s t test).tl = (resetScratch (resetThreads s t) t).tl ∧ descsOf (beginReset s t test) t = [] ∧
    (∀ o ∈ (beginReset s t test).tng.ops, o.tile ≠ t) ∧ (beginReset s t test).mem = s.mem := by
  simp only [beginReset, h, Bool.false_eq_true, if_false]
  generalize hb : wrB (wrB s _ 3 true) _ 2 test = b
  have hbt : b.tl = s.tl := by rw [← hb, wrB_tl, wrB_tl]
  have hbm : b.mem = s.mem := by rw [← hb, wrB_mem, wrB_mem]
  generalize hu : resetAnvils (resetScratch (resetThreads b t) t) t = u
  have hut : u.tl = (resetScratch (resetThreads s t) t).tl := by
    rw [← hu, resetAnvils, resetScratch_tl, resetScratch_tl, resetThreads_tl_congr hbt]
  have hum : u.mem = s.mem := by
    rw [← hbm, ← hu, resetAnvils, resetScratch, wr_mem, resetThreads, mapThreads_mem]
  have hw := windowOnly_resetTileRegs (resetTransfers u t) t
  refine ⟨?_, ?_, ?_, ?_⟩
  · rw [hw.tl_eq, resetTransfers_tl, hut]
  · rw [descsOf, hw.blw_eq]
    exact descsOf_resetTransfers u t
  · rw [hw.tng_eq]
    exact tngOps_resetTransfers u t
  · rw [hw.mem_eq, resetTransfers_mem, hum]

section
variable {s v : State} {t : Nat} (h : v.tl = (resetScratch (resetThreads s t) t).tl)
include h

theorem halted_of_reset {th : Nat} (hth : th < 64) : (thrOf v t th).st = .halted := by
  rw [thrOf, h, resetScratch_tl]
  exact thrOf_mapThreads (P := fun x => x.st = .halted) (f := fun _ x => { gen := x.gen + 1 }) rfl (fun _ _ => rfl) s t hth

theorem xreg_of_reset {th r : Nat} (hth : th < 64) (hr : r < 64) : xreg v t th r = 0 := by
  have hk : (64 * thKey t th + r) / 4096 = t := by simp only [thKey]; omega
  simp [xreg, h, resetScratch_tl, resetThreads, cGet_cDrop, hk]

theorem tagRaw_of_reset {x : Nat} (hx : x < 32768) : tagRaw v t x = .empty := by
  have hk : (32768 * t + x) / 32768 = t := by omega
  simp [tagRaw, h, resetScratch_tl, resetThreads, cGet_cDrop, hk]

theorem spByte_of_reset {a : Nat} (ha : a < 2 ^ 24) : spByte v t a = 0 := by
  have hk : (16777216 * t + a) / 16777216 = t := by omega
  simp [spByte, h, resetScratch_tl, resetThreads, cGet_cDrop, hk]

theorem spByte_of_reset_ne {u a : Nat} (hu : u ≠ t) (ha : a < 2 ^ 24) : spByte v u a = spByte s u a := by
  have hk : (16777216 * u + a) / 16777216 ≠ t := by omega
  simp [spByte, h, resetScratch_tl, resetThreads, cGet_cDrop, hk]

end

/-- The end of a reset is endReset, and a failed test fails the tile. -/
theorem exec_tileResetDone {tile : Fin 288} {now : Nat} {s : State} (passed : Bool) (hr : tileResetting s tile = true)
    (ht : tileTransfers s tile = false) :
    exec (.tileResetDone tile passed now) s = .next
      (if rdB s (tilePg tile 0 + 0x104) 2 = true ∧ passed = false then failTile (endReset (tick s now) tile) tile
       else endReset (tick s now) tile) := by
  have hgo : ¬(tileResetting (tick s now) tile = false ∨ tileTransfers (tick s now) tile = true) := by
    show ¬(tileResetting s tile = false ∨ tileTransfers s tile = true)
    simp [hr, ht]
  refine (if_neg hgo).trans ?_
  show Host.Outcome.next (if (rdB s (tilePg tile 0 + 0x104) 2 && !passed) = true then _ else _) = _
  simp only [Bool.and_eq_true, Bool.not_eq_true']

/-! ### The swap of a spare (R173) -/

/-- The first offset of the dies' registers: those below are SD's (R471). -/
def dieRegs : Nat := 0x01000000

section
variable {o : Nat} (ho : dieRegs ≤ o)
include ho

theorem rdW_intSet_die (s : State) {pg : Nat} (bits : Nat) (hpg : pg < 0x00800000) : rdW (intSet s pg bits) o = rdW s o :=
  rdW_intSet_ne s bits (by simp only [dieRegs, hIntStat] at *; omega)

theorem rdW_queueEvent (s : State) (cat seq : Nat) : rdW (queueEvent s cat seq) o = rdW s o := by
  have hm : mgtPg < 0x00800000 := by decide
  rw [queueEvent]
  split
  · split
    · rw [rdW_intSet_die ho _ _ hm, incBy, rdW_wr_ne _ _ (by simp only [dieRegs, mgtPg] at *; omega)]
      rfl
    · rw [rdW_intSet_die ho _ _ hm]
      rfl
  · rfl

theorem rdW_clnInterrupt (s : State) (cat : Nat) : rdW (clnInterrupt s cat) o = rdW s o := by
  have hset (b : Bool) (u : State) (bits : Nat) : rdW (if b then intSet u clnPg bits else u) o = rdW u o := by
    cases b
    · rfl
    · exact rdW_intSet_die ho u bits (by decide)
  exact (hset _ _ 2).trans (hset _ s 1)

/-- A clinker entry changes no register of the dies. -/
theorem rdW_clinker (s : State) (r : LogRec) : rdW (clinker s r) o = rdW s o := by
  refine (rdW_clnInterrupt ho _ _).trans ((rdW_queueEvent ho _ _ _).trans ?_)
  show cGet regReset (if r.payload.isNone && r.closes.isNone then { s with free := s.free + 1 } else s).win.regs o = rdW s o
  split <;> rfl

end

theorem rdW_rewriteDevice (s : State) (o : Nat) : rdW (rewriteDevice s) o = rdW s o := by
  rw [rewriteDevice, raiseArc]
  split <;> rfl

/-- The spare after its reset with self-test, the failed tile's number taken. -/
def spareReset (s : State) (failed spare : Nat) : State :=
  endReset (beginReset (wrF s (tilePg failed 0 + 0x108) 15 0 0xFFFE) spare true) spare

/-- The spare has been given number l and its route, and the swap is logged. -/
def swapped (s : State) (l spare : Nat) : State :=
  let s := setRoute (wrF s (tilePg spare 0 + 0x108) 15 0 l) l spare
  intSet (rewriteDevice (clinker s
    { cat := 5, code := 1, page := tilePg spare 0, part := (partOfSlice s (sliceOf spare)).getD 0xFF })) (tilePg spare 0) 32

theorem exec_spareSwap {failed spare : Fin 288} {now l : Nat} {s : State} (hl : swapNumber s failed = some l)
    (hf : tileFailed s failed = true) (hn : logicalOf s spare = 0xFFFF) (hs : tileFailed s spare = false)
    (hsl : sliceOf failed = sliceOf spare) (hi : sliceIdle s (sliceOf failed) = true) (hr : spRestarting s = false) :
    exec (.spareSwap failed spare true now) s = .next (swapped (spareReset (tick s now) failed spare) l spare) := by
  have hl' : swapNumber (tick s now) failed = some l := hl
  have hgo : ¬(tileFailed (tick s now) failed = false ∨ logicalOf (tick s now) spare ≠ 0xFFFF ∨ tileFailed (tick s now) spare = true ∨
      sliceOf failed ≠ sliceOf spare ∨ sliceIdle (tick s now) (sliceOf failed) = false ∨ spRestarting (tick s now) = true) := by
    show ¬(tileFailed s failed = false ∨ logicalOf s spare ≠ 0xFFFF ∨ tileFailed s spare = true ∨
      sliceOf failed ≠ sliceOf spare ∨ sliceIdle s (sliceOf failed) = false ∨ spRestarting s = true)
    simp only [hf, hn, hs, hi, hr, ne_eq, not_true_eq_false, Bool.true_eq_false, Bool.false_eq_true, false_or, or_false]
    exact fun hne => hne hsl
  show execSpareSwap failed spare true now s = _
  rw [execSpareSwap]
  simp only [hl', if_neg hgo, if_true]
  rfl

section
variable (s : State) {l spare : Nat}

theorem rdW_swapped {o : Nat} (ho : dieRegs ≤ o) (hne : o ≠ tilePg spare 0 + hIntStat) :
    rdW (swapped s l spare) o = rdW (setRoute (wrF s (tilePg spare 0 + 0x108) 15 0 l) l spare) o := by
  rw [swapped, rdW_intSet_ne _ _ hne, rdW_rewriteDevice, rdW_clinker ho]

theorem logicalOf_swapped (hl : l < 256) : logicalOf (swapped s l spare) spare = l := by
  have ho : dieRegs ≤ tilePg spare 0 + 0x108 := by simp only [dieRegs, tilePg]; omega
  have hint : tilePg spare 0 + 0x108 ≠ tilePg spare 0 + hIntStat := by simp only [hIntStat]; omega
  have hroute : tilePg spare 0 + 0x108 ≠ nocPg (l / 64) + 0x200 + 4 * (l % 64) := by simp only [tilePg, nocPg]; omega
  have hrd := (rdW_swapped s (l := l) ho hint).trans (rdW_wr_ne _ _ hroute)
  rw [logicalOf, rdF_of_rdW hrd, rdF_wrF _ _ _ _ _ (by decide) (by decide)]
  omega

theorem route_swapped :
    rd (swapped s l spare) (nocPg (l / 64) + 0x200 + 4 * (l % 64)) = 2 ^ 31 + spare % 72 := by
  have ho : dieRegs ≤ nocPg (l / 64) + 0x200 + 4 * (l % 64) := by simp only [dieRegs, nocPg]; omega
  have hint : nocPg (l / 64) + 0x200 + 4 * (l % 64) ≠ tilePg spare 0 + hIntStat := by simp only [nocPg, tilePg, hIntStat]; omega
  rw [rd_of_rdW (rdW_swapped s ho hint), setRoute, rd_wr_same]
  omega

end

/-! ### The parts of O24 -/

theorem reset_gives {tile : Fin 288} {now : Nat} {s : State} {c : Instr} {test : Bool} (hr : tileResetting s tile = false)
    (hc : exec c s = .next (beginReset (tick s now) tile test)) :
    Gives c s (fun t =>
      (∀ th < 64, (thrOf t tile th).st = .halted ∧ ∀ x < 64, xreg t tile th x = 0) ∧
      (∀ x < 32768, tagRaw t tile x = .empty) ∧ (∀ a < 2 ^ 24, spByte t tile a = 0) ∧
      (∀ (u : Fin 288) a, u ≠ tile → a < 2 ^ 24 → spByte t u a = spByte s u a) ∧
      descsOf t tile = [] ∧ (∀ o ∈ t.tng.ops, o.tile ≠ tile.val) ∧ t.mem = s.mem) := by
  obtain ⟨htl, hdesc, htng, hmem⟩ := beginReset_keeps (s := tick s now) test hr
  exact ⟨_, hc, fun th hth => ⟨halted_of_reset htl hth, fun x hx => xreg_of_reset htl hth hx⟩, fun x hx => tagRaw_of_reset htl hx,
    fun a ha => spByte_of_reset htl ha, fun u a hu ha => spByte_of_reset_ne htl (Fin.val_ne_of_ne hu) ha, hdesc, htng, hmem⟩

/-- Settles O24: each command's outcome is one equation, and each clause is read off its state. -/
theorem threadControlAndResets : Obligations.ThreadControlAndResets := by
  refine ⟨fun r s tile h => ?_, fun r s tile h => ?_, fun r s tile h hb => ?_, fun tile thr now s => ?_, fun c hc tile now s hr => ?_,
    fun tile passed now s hr ht => exec_tileResetDone passed hr ht, fun failed spare now s l hl hlt hf hn hs hsl hi hr => ?_⟩
  · refine ⟨fun hc hp => ?_, fun hc => ?_⟩
    · have hs := startThread_eq_started (s := tick s r.now) (BitVec.ofNat 64 (rd64 s (tilePg tile 1 + 0x508))) hc (BitVec.isLt _) hp
      refine ⟨_, (exec_tileThrStart h).trans (congrArg _ hs), ?_⟩
      exact ⟨thrOf_setThr .., xreg_started_a0 .., fun x hx hne => xreg_started _ _ _ _ _ _ hx hne, fun x hx => preg_clearThread _ _ _ hx,
        rfl, rfl, rfl⟩
    · have hc' : canStart (tick s r.now) tile (bitsOf r.val.toNat 5 0) = false := hc
      refine ⟨_, exec_tileThrStart h, ?_⟩
      rw [startThread, if_neg (by simp [hc'])]
      exact ⟨counted_inc s r.now _, inc_tl .., inc_mem ..⟩
  · refine ⟨_, exec_tileThrClr h, ?_⟩
    by_cases hf : (thrOf s tile (bitsOf r.val.toNat 5 0)).st = .faulted
    · simp only [if_pos hf, thrOf_setThr, true_and]
      exact ⟨rfl, rfl⟩
    · simp only [if_neg hf]
      exact ⟨rfl, rfl, rfl⟩
  · exact ⟨_, exec_haltAll h hb, fun th hth => thrOf_mapThreads (P := fun x => x.st = .halted) rfl (fun _ _ => rfl) _ _ hth,
      rfl, rfl, rfl, rfl, rfl, rfl⟩
  · intro x w h0 hlo hhi hlate
    refine ⟨_, exec_tileWatchdog (x := x) (w := w) rfl rfl h0 hlo hhi hlate, ?_, ?_, ?_, ?_⟩
    · rw [rd_wr_same]
      omega
    · have hne : tilePg tile 0 + hIntStat ≠ tilePg tile 0 + 0x124 := by simp only [hIntStat]; omega
      rw [rdB_of_rdW (rdW_wr_ne _ _ hne)]
      exact intSet_bit _ _ 1 (by decide)
    · rw [wr_tl, intSet_tl]
      rfl
    · rw [wr_mem, intSet_mem]
      rfl
  · simp only [List.mem_cons, List.not_mem_nil, or_false] at hc
    rcases hc with rfl | rfl
    · exact reset_gives hr (test := false) rfl
    · exact reset_gives hr (test := true) rfl
  · exact ⟨_, exec_spareSwap hl hf hn hs hsl hi hr, logicalOf_swapped _ hlt, route_swapped _⟩

end Sys2Proof.Machine
end

section
/-!
Operations that write a register to which an earlier operation still owes a result (07_tile_operations.md R157): O1, O2, O4, O5, O7 and
O23.
-/
namespace Sys2Proof.Machine

/-- An operation waits for a pending result only of a register that it reads. Where one is owed to the register that it writes, WroteReg
ends what is owed, and Retired has every pending result stay as it was. -/
theorem not_wroteReg_of_owed {i : Issue} {s t : State} {r pc : Nat} {v : W64} (ho : pendOf s i.tile i.thr r ≠ 0)
    (hret : Retired i s t pc) : ¬ WroteReg i s t r v :=
  fun hw => ho ((hret.pendOf_eq ..).symm.trans hw.owed)

/-- No operation does what RegResult says once its D is owed a result. -/
theorem not_regResult_of_owed {c : Issue → Instr} {o : Nat} {legal : Nat → Bool} {regs : Nat → List Nat} {v : Issue → State → W64}
    {i : Issue} {s : State} (h : Ready 0 o legal regs i s) (ho : pendOf s i.tile i.thr (fD i.w) ≠ 0) : ¬ RegResult c o legal regs v := by
  intro hres
  obtain ⟨t, -, hw, hret⟩ := hres i s h
  exact not_wroteReg_of_owed ho hret hw

/-- The operation of unit u and opcode o into s5, every other field 0, issued by thread 0 of tile 0. In owedState s5 is owed a result. -/
def intoS5 (u o : Nat) : Issue :=
  { tile := 0, thr := 0, word := BitVec.ofNat 64 (o * 2 ^ 56 + u * 2 ^ 52 + 5 * 2 ^ 42), now := 0 }

/-- In owedState the operation into s5 is ready, if its word is legal and it does not read s5. -/
theorem intoS5_ready {u o : Nat} {legal : Nat → Bool} {regs : Nat → List Nat}
    (h : fUnit (intoS5 u o).w = u ∧ fOpc (intoS5 u o).w = o ∧ fPen (intoS5 u o).w = false ∧ bitsOf (intoS5 u o).w 51 49 = 0 ∧
      legal (intoS5 u o).w = true ∧ regsReady owedState 0 0 (regs (intoS5 u o).w) = true) :
    Ready u o legal regs (intoS5 u o) owedState := by
  obtain ⟨hunit, hopcode, hpen, hbits, hlegal, hregs⟩ := h
  exact {
    unit := hunit
    opcode := hopcode
    runnable := show (thrOf owedState 0 0).st = .runnable by decide +kernel
    pcOk := show pcFault owedState 0 (thrOf owedState 0 0).pc.toNat = none by decide +kernel
    fields := hlegal
    guardBits := .inr hbits
    regsFree := hregs
    guard := by simp [guardOk, hpen] }

/-- Refutes O1, in its clause on ADD: ADD s5 ← s0 + s0 is ready in owedState, where Tongs operation 0 still owes s5 its status. -/
theorem not_scalarArithmetic : ¬ Obligations.ScalarArithmetic := by
  rintro ⟨hadd, -⟩
  exact not_regResult_of_owed (i := intoS5 0 0x01) (s := owedState) (intoS5_ready (by decide +kernel)) (by decide +kernel) hadd

/-- Refutes O2, in its clause on LI: LI s5 ← 0 is ready in owedState, where Tongs operation 0 still owes s5 its status. -/
theorem not_scalarImmediate : ¬ Obligations.ScalarImmediate := by
  rintro ⟨-, hli, -⟩
  exact not_regResult_of_owed (i := intoS5 0 0x12) (s := owedState) (intoS5_ready (by decide +kernel)) (by decide +kernel) hli

/-- Refutes O4, in its clause on CALL: CALL with its link in s5 is ready in owedState, where Tongs operation 0 still owes s5 its
status. -/
theorem not_controlTransfers : ¬ Obligations.ControlTransfers := by
  rintro ⟨-, -, -, hcall⟩
  obtain ⟨t, -, hw, hret⟩ := hcall (intoS5 0 0x32) owedState (intoS5_ready (by decide +kernel))
  exact not_wroteReg_of_owed (by decide +kernel) hret hw

/-- Refutes O5, in its clause on RDTIME: RDTIME s5 is ready in owedState, where Tongs operation 0 still owes s5 its status. -/
theorem not_identityTimeAndSpark : ¬ Obligations.IdentityTimeAndSpark := by
  rintro ⟨hrdtime, -⟩
  exact not_regResult_of_owed (i := intoS5 0 0x40) (s := owedState) (intoS5_ready (by decide +kernel)) (by decide +kernel) hrdtime

/-- Refutes O7, in its clause on SLOT.TEST: SLOT.TEST of slot 0 into s5 is ready in owedState, where Tongs operation 0 still owes s5 its
status. -/
theorem not_slotTags : ¬ Obligations.SlotTags := by
  rintro ⟨-, -, -, -, htest, -⟩
  obtain ⟨t, -, hret, hw⟩ := htest (intoS5 6 0x21) owedState (intoS5_ready (by decide +kernel)) (by decide +kernel)
  exact not_wroteReg_of_owed (by decide +kernel) hret hw

/-- Refutes O23, in its clause on TASK.JOIN: TASK.JOIN of task 0, which does not exist, into s5 is ready in owedState, where Tongs
operation 0 still owes s5 its status. -/
theorem not_barriersAndTasks : ¬ Obligations.BarriersAndTasks := by
  rintro ⟨-, -, -, -, hjoin, -⟩
  obtain ⟨-, hnone⟩ := hjoin (intoS5 7 0x11) owedState (intoS5_ready (by decide +kernel)) (by decide +kernel)
  obtain ⟨t, -, hw, hret⟩ := hnone (by decide +kernel)
  exact not_wroteReg_of_owed (by decide +kernel) hret hw

end Sys2Proof.Machine
end

section
/-!
Operations that write a predicate, and words that an operation reserves (07_tile_operations.md R181 to R183): O3.
-/
namespace Sys2Proof.Machine

/-- A word whose reserved bits or values are set faults with cause 0x02 (R181). -/
theorem issueOp_reserved {mn : String} {u o : Nat} {legal : Nat → Bool} {regs : Nat → List Nat} {i : Issue} {s : State}
    {body : OpCtx → State → OpRes} (hr : (i.thread s).st = .runnable) (hp : pcFault s i.tile (pcOf i s) = none) (hu : fUnit i.w = u)
    (ho : fOpc i.w = o) (hd : opDefined u o = true) (hl : legal i.w = false) :
    issueOp mn u o legal regs i s body = .next (threadFault (tick s i.now) i.tile i.thr 2 (pcOf i s)) := by
  simp only [issueOp, thrOf_tick, pcFault_tick, hr, hp, hu, ho, hd, hl, ne_eq, not_true_eq_false, or_self, true_or, if_false, if_true,
    Bool.true_eq_false]

theorem fPd_lt (w : Nat) : fPd w < 4 := bitsOf_lt w 47 46

theorem xreg_setPreg (s : State) (t th p : Nat) (b : Bool) (t' th' r : Nat) : xreg (setPreg s t th p b) t' th' r = xreg s t' th' r := rfl

section
variable (i : Issue) (s : State) (b : Bool) {p : Nat}

/-- An operation whose effect is a write of a predicate writes nothing else. -/
theorem wrotePred_retired_setPreg : WrotePred i s (i.retired s (setPreg (i.here s) i.tile i.thr p b)) p b where
  value := (retire_preg ..).trans (preg_setPreg ..)
  preds _ hq := (retire_preg ..).trans (preg_setPreg_ne _ _ hq)
  regs _ := (retire_xreg ..).trans (xreg_setPreg ..)

/-- It changes nothing outside its thread. -/
theorem retired_setPreg (hp : p < 4) : Retired i s (i.retired s (setPreg (i.here s) i.tile i.thr p b)) (pcOf i s + 8) where
  thread := retire_thr ..
  count := retire_count ..
  frame := by
    refine retire_only (fun _ _ => rfl) (fun k hk => ?_) rfl rfl
    have hne : k ≠ 4 * thKey i.tile i.thr + p := by
      rintro rfl
      exact hk (by omega)
    exact cGet_cSet_ne _ _ _ hne

/-- An operation that is ready and whose effect is a write of a predicate completes with it. -/
theorem gives_of_setPreg {i : Issue} {s : State} {c : Instr} {b : Bool} {p : Nat} (hp : p < 4)
    (hc : exec c s = .next (i.retired s (setPreg (i.here s) i.tile i.thr p b))) :
    Gives c s (fun t => WrotePred i s t p b ∧ Retired i s t (pcOf i s + 8)) :=
  ⟨_, hc, wrotePred_retired_setPreg i s b, retired_setPreg i s b hp⟩

end

section
variable {i : Issue} {s : State}

theorem exec_cmp (h : Ready 0 0x20 legalCmp regsC i s) : exec (.cmp i) s =
    .next (i.retired s (setPreg (i.here s) i.tile i.thr (fPd i.w) (condHolds (fCond i.w) (opA i s) (opB i s)))) := by
  show execCmp i s = _
  exact (issueOp_ready h rfl).trans rfl

theorem exec_cmpi (h : Ready 0 0x21 legalCmpi regsA i s) : exec (.cmpi i) s =
    .next (i.retired s (setPreg (i.here s) i.tile i.thr (fPd i.w) (condHolds (fCond i.w) (opA i s) (opImm i)))) := by
  show execCmpi i s = _
  exact (issueOp_ready h rfl).trans rfl

theorem exec_plog (h : Ready 0 0x22 legalPlog noRegs i s) : exec (.plog i) s =
    .next (i.retired s (setPreg (i.here s) i.tile i.thr (fPd i.w)
      (plogOp (bitsOf i.w 41 40) (i.pred s (bitsOf i.w 45 44)) (i.pred s (bitsOf i.w 43 42))))) := by
  show execPlog i s = _
  exact (issueOp_ready h rfl).trans rfl

end

/-- The model's comparison is the relation of COND (R183). -/
theorem condHolds_iff (c : Nat) (a b : W64) : condHolds c a b = true ↔ condRel c a b := by
  unfold condHolds condRel
  split <;>
    simp [BitVec.ult, BitVec.ule, BitVec.slt, BitVec.sle, bne_iff_ne]

/-- A comparison completes with its predicate the relation of its operands. -/
theorem comparison_gives {i : Issue} {s : State} {c : Instr} {a b : W64}
    (hc : exec c s = .next (i.retired s (setPreg (i.here s) i.tile i.thr (fPd i.w) (condHolds (fCond i.w) a b)))) :
    Gives c s (fun t => (i.pred t (fPd i.w) = true ↔ condRel (fCond i.w) a b) ∧
      WrotePred i s t (fPd i.w) (i.pred t (fPd i.w)) ∧ Retired i s t (pcOf i s + 8)) := by
  obtain ⟨t, ht, hw, hret⟩ := gives_of_setPreg (fPd_lt i.w) hc
  have hval := hw.value
  exact ⟨t, ht, by rw [hval, condHolds_iff], by rw [hval]; exact hw, hret⟩

/-- Settles O3: the comparisons and PLOG write one predicate each, and a code of COND above 9 is a reserved value. -/
theorem predicateOperations : Obligations.PredicateOperations := by
  refine ⟨fun i s h => comparison_gives (exec_cmp h), fun i s h => comparison_gives (exec_cmpi h), fun i s h => ?_,
    fun c hc i s hu ho hr hp hcond => ?_⟩
  · exact gives_of_setPreg (fPd_lt i.w) (exec_plog h)
  · have hres : decide (fCond i.w ≤ 9) = false := decide_eq_false (by omega)
    simp only [List.mem_cons, List.not_mem_nil, or_false] at hc
    rcases hc with rfl | rfl
    · show execCmp i s = _
      exact issueOp_reserved (legal := legalCmp) hr hp hu ho rfl (by rw [legalCmp, hres]; rfl)
    · show execCmpi i s = _
      exact issueOp_reserved (legal := legalCmpi) hr hp hu ho rfl (by rw [legalCmpi, hres]; rfl)

end Sys2Proof.Machine
end

section
/-!
Loads, stores, fills and copies (07_tile_operations.md R184, R185): O6.
-/
namespace Sys2Proof.Machine

/-! ### An operation with slot operands -/

/-- An operation that is ready, and whose body, past its own checks, is an effect on slots that allow it, has the effect and retires. -/
theorem issueOp_withSlots {mn : String} {u o : Nat} {legal : Nat → Bool} {regs : Nat → List Nat} {i : Issue} {s s1 : State}
    {body : OpCtx → State → OpRes} {uses : List (Nat × Use)} {eff : State → State} (h : Ready u o legal regs i s)
    (hd : opDefined u o = true) (hslots : SlotsOk i s uses s1) (hb : body i.ctx (i.here s) = withSlots i.ctx (i.here s) uses eff) :
    issueOp mn u o legal regs i s body = .next (i.retired s (eff s1)) := by
  have hfree : firstBlocked (i.here s) i.ctx.t (i.ctx.task (i.here s)) uses = none := (firstBlocked_tick ..).trans hslots.allow
  have hshadow : shadowAll (i.here s) i.ctx.t (i.ctx.task (i.here s)) uses = some s1 := hslots.shadow
  rw [issueOp_ready h hd, hb]
  simp only [withSlots, hfree, hshadow]
  rfl

section
variable {i : Issue} {s s1 : State} {uses : List (Nat × Use)} (h : SlotsOk i s uses s1)
include h

/-- With its shadows taken, the thread's registers hold what they held at issue. -/
theorem SlotsOk.xreg_eq (r : Nat) : xreg s1 i.ctx.t i.ctx.th r = i.reg s r := by
  simp only [xreg, h.tl_xr, Issue.reg]

end

/-- What an effect loads before it notes what the check bits report is what it loads afterwards. -/
theorem loadBytes_spadEcc (i : Issue) (s s1 : State) (cls : Nat) (rs : List (Nat × Nat)) (a n : Nat) :
    loadBytes (spadEcc s1 i.tile rs i.ecc).2 i.tile (i.task s) (spadEcc s1 i.tile rs i.ecc).1 a n =
      loaded i s (checked i cls s1 rs) a n :=
  (loadBytes_congr (spadEccNote_tl ..) ..).symm

/-! ### LD and ST (R184) -/

/-- An aligned access in the scratchpad does not fault. -/
theorem addrFault_none {s : State} {t a n : Nat} (hr : badRange s t a n = false) (ha : a % n = 0) : addrFault s t a n = none := by
  simp [addrFault, hr, ha]

section
variable {i : Issue} {s s1 : State} (hr : badRange s i.tile (lsAddr i s) (lsBytes i) = false) (ha : lsAddr i s % lsBytes i = 0)
include hr ha

theorem exec_ld (h : Ready 6 0x01 (legalM 2 true) regsLd i s) (hslots : SlotsOk i s [(lsAddr i s / 512, ldUse (fTag i.w))] s1) :
    let e := checked i 5 s1 [(lsAddr i s, lsBytes i)]
    let v := leNat (loaded i s e (lsAddr i s) (lsBytes i))
    exec (.ld i) s = .next (settled i s [(lsAddr i s / 512, ldUse (fTag i.w))] (setXreg e.2 i.tile i.thr (fD i.w)
      (BitVec.ofNat 64 (if fSext i.w then ofSigned 64 (toSigned (8 * lsBytes i) v) else v)))) := by
  intro e v
  have hf : addrFault (i.here s) i.ctx.t (addrM (i.here s) i.ctx) (2 ^ fSize i.w) = none := addrFault_none hr ha
  show execLd i s = _
  refine (issueOp_withSlots h rfl hslots (by simp only [hf]; rfl)).trans ?_
  simp only [loadNat, hslots.ctx_task, loadBytes_spadEcc i s s1 5]
  rfl

theorem exec_st (h : Ready 6 0x02 (legalM 1 false) regsSt i s) (hslots : SlotsOk i s [(lsAddr i s / 512, stUse (fTag i.w))] s1) :
    exec (.st i) s = .next (settled i s [(lsAddr i s / 512, stUse (fTag i.w))]
      (stored i s s1 (lsAddr i s) (leBytes (lsBytes i) (i.reg s (fD i.w)).toNat))) := by
  have hf : addrFault (i.here s) i.ctx.t (addrM (i.here s) i.ctx) (2 ^ fSize i.w) = none := addrFault_none hr ha
  show execSt i s = _
  refine (issueOp_withSlots h rfl hslots (by simp only [hf]; rfl)).trans ?_
  simp only [hslots.xreg_eq, hslots.ctx_task]
  rfl

end

/-! ### SLOT.FILL and SLOT.COPY (R185) -/

/-- How the destination of a fill or a copy is used. -/
def dkUse (i : Issue) : Use := if fDk i.w = 1 then .produce else .poke

section
variable {i : Issue} {s s1 : State} (hn : 32 ≤ slotN i s ∧ slotN i s ≤ 16777216 ∧ slotN i s % 32 = 0)
  (hd : rangeOk s i.tile (slotD i s) (slotN i s))
include hn hd

theorem exec_slotFill (h : Ready 6 0x10 legalFill regsFill i s)
    (hslots : SlotsOk i s (rangeUses (slotD i s) (slotN i s) (dkUse i)) s1) :
    exec (.slotFill i) s = .next (settled i s (rangeUses (slotD i s) (slotN i s) (dkUse i))
      (stored i s s1 (slotD i s) (patternBytes (i.reg s (fV i.w)) (slotN i s)))) := by
  obtain ⟨hbad, hal⟩ := hd
  have hcount : ¬ fillCountOk (slotN i s) = false := by simp [fillCountOk, hn]
  show execSlotFill i s = _
  refine (issueOp_withSlots h rfl hslots ((if_neg hcount).trans
    ((if_neg (ne_true_of_eq_false hbad)).trans (if_neg (not_not_intro hal))))).trans ?_
  simp only [hslots.xreg_eq, hslots.ctx_task]
  rfl

theorem exec_slotCopy (ho : rangesOverlap (slotD i s) (slotN i s) (slotA i s) (slotN i s) = false)
    (ha : rangeOk s i.tile (slotA i s) (slotN i s)) (h : Ready 6 0x11 legalCopy regsCopy i s)
    (hslots : SlotsOk i s (rangeUses (slotD i s) (slotN i s) (dkUse i) ++ rangeUses (slotA i s) (slotN i s) (skUse (fSk i.w))) s1) :
    let e := checked i 5 s1 [(slotA i s, slotN i s)]
    exec (.slotCopy i) s =
      .next (settled i s (rangeUses (slotD i s) (slotN i s) (dkUse i) ++ rangeUses (slotA i s) (slotN i s) (skUse (fSk i.w)))
        (stored i s e.2 (slotD i s) (loaded i s e (slotA i s) (slotN i s)))) := by
  intro e
  obtain ⟨hbad, hal⟩ := hd
  obtain ⟨hbad', hal'⟩ := ha
  have hcount : ¬ fillCountOk (slotN i s) = false := by simp [fillCountOk, hn]
  have hin : (badRange s i.tile (slotD i s) (slotN i s) || badRange s i.tile (slotA i s) (slotN i s)) = false := by rw [hbad, hbad']; rfl
  have haligned : ¬ (slotD i s % 32 ≠ 0 ∨ slotA i s % 32 ≠ 0) := by omega
  show execSlotCopy i s = _
  refine (issueOp_withSlots h rfl hslots ((if_neg hcount).trans ((if_neg (ne_true_of_eq_false hin)).trans
    ((if_neg haligned).trans (if_neg (ne_true_of_eq_false ho)))))).trans ?_
  simp only [hslots.ctx_task, loadBytes_spadEcc i s s1 5]
  rfl

end

/-- Settles O6, one lemma for each operation. -/
theorem loadsStoresFillCopy : Obligations.LoadsStoresFillCopy :=
  ⟨fun _ _ _ h hr ha hslots => exec_ld hr ha h hslots, fun _ _ _ h hr ha hslots => exec_st hr ha h hslots,
    fun _ _ _ h hn hd hslots => exec_slotFill hn hd h hslots,
    fun _ _ _ h hn ho hd ha hslots => exec_slotCopy hn hd ho ha h hslots⟩

end Sys2Proof.Machine
end

section
/-!
The elementwise vector operations and VCVT (07_tile_operations.md R186, R187; 04_formats_rounding_spark.md R101 to R105): O10.
-/
namespace Sys2Proof.Machine

/-! ### The elementwise operations (R187) -/

/-- An elementwise operation whose elements are val of its operands' elements, rounded to the lane format. -/
theorem mapResult_of_vecMap {c : Issue → Instr} {mn : String} {o : Nat} {u : VUses}
    {val : Issue → State → FpFmt → FpVal → FpVal → FpVal → FpVal} {f : State → OpCtx → FpFmt → FpVal → FpVal → FpVal → Nat}
    (hc : ∀ i s, exec (c i) s = vecMap mn o u i s f) (hd : opDefined 1 o = true)
    (hf : ∀ i s s1, RangesOk i s (rangesV u i s) s1 → ∀ l a b d,
      f (checked i 4 s1 (sources (rangesV u i s))).2 i.ctx l a b d = l.convert .rne (val i s l a b d)) :
    MapResult c o u val := by
  intro i s s1 h hn hrs
  dsimp only
  rw [hc, vecMap_ready h hd hn hrs]
  simp only [laneResults, hf i s s1 hrs]

/-! ### VCVT (R101 to R105, R186) -/

theorem countSr_tl (s : State) (t n ups : Nat) : (countSr s t n ups).tl = s.tl := by
  rw [countSr]
  split
  · rfl
  · rw [inc64_tl, inc64_tl, countDraws, inc64_tl]

/-- The second register of SX, read by an effect, holds its value at issue. -/
theorem SlotsOk.sxReg1_checked {i : Issue} {s s1 : State} {uses : List (Nat × Use)} (h : SlotsOk i s uses s1) (cls : Nat)
    (rs : List (Nat × Nat)) : sxReg1 (checked i cls s1 rs).2 i.ctx = vX1 i s := by
  simp only [sxReg1, aReg, xreg, checked_tl, h.tl_xr, vX1, Issue.reg]

/-- It is read from the registers alone. -/
theorem sxReg1_congr {s t : State} (h : t.tl.xr = s.tl.xr) (c : OpCtx) : sxReg1 t c = sxReg1 s c := by
  simp only [sxReg1, aReg, xreg, h]

/-- The registers that VCVT reads. -/
def regsVcvt (w : Nat) : List Nat :=
  [fAd w, fAa w, fSn w] ++ (if isMx (fFs w) then [fAbV w] else []) ++ (if isMx (fFd w) then [fAc w] else []) ++
    (if fGrad w then [fSx w, fSx w + 1] else [])

/-- D and A, with the block scales of an MX source at B and of an MX destination at C. -/
def rangesVcvt (i : Issue) (s : State) : List VRange :=
  [VRange.mk (vD i s) (elemBytes (fFd i.w) (vN i s)) .produce, ⟨vA i s, elemBytes (fFs i.w) (vN i s), vUse i 16⟩] ++
    (if isMx (fFs i.w) then [VRange.mk (vB i s) (ceilDiv (vN i s) 32) (vUse i 15)] else []) ++
    (if isMx (fFd i.w) then [VRange.mk (vC i s) (ceilDiv (vN i s) 32) .produce] else [])

/-- The roundings of the elements: stochastic under GRAD, from a floating-point source to a destination other than FP32. -/
def vcvtRound (i : Issue) (s : State) (e : Ecc × State) : List Rounding :=
  vRound i e.2 (srApplies (fGrad i.w) (fFs i.w) (fFd i.w)) (vN i s)

/-- The state with the draws of stochastic rounding counted. -/
def vcvtCounted (i : Issue) (s : State) (e : Ecc × State) (vals : List FpVal) : State :=
  if srApplies (fGrad i.w) (fFs i.w) (fFd i.w) then
    countSr e.2 i.tile (vN i s) ((vals.zip (vcvtRound i s e)).filter (fun p => convUp (fFd i.w) p.2 p.1)).length
  else e.2

/-- The elements stored at D, with their block scales at C for an MX destination. -/
def vcvtStored (i : Issue) (s : State) (e : Ecc × State) (vals : List FpVal) : State :=
  let fd := fFd i.w
  if isMx fd then
    stored i s (stored i s (vcvtCounted i s e vals) (vD i s) (pack fd (convMx fd (vcvtRound i s e) vals).2.1)) (vC i s)
      ((convMx fd (vcvtRound i s e) vals).1.map (BitVec.ofNat 8))
  else stored i s (vcvtCounted i s e vals) (vD i s) (pack fd (convPlain fd (vcvtRound i s e) vals).1)

/-- Which elements are non-finite, at the source or at the destination. -/
def vcvtBad (i : Issue) (s : State) (e : Ecc × State) (vals : List FpVal) : List Bool :=
  let fd := fFd i.w
  ((vals.map FpVal.nonFinite).zip (if isMx fd then (convMx fd (vcvtRound i s e) vals).2.2 else (convPlain fd (vcvtRound i s e) vals).2)).map
    (fun p => p.1 || p.2)

theorem vcvtStored_tl_xr (i : Issue) (s : State) (e : Ecc × State) (vals : List FpVal) : (vcvtStored i s e vals).tl.xr = e.2.tl.xr := by
  have hcounted : (vcvtCounted i s e vals).tl = e.2.tl := by
    rw [vcvtCounted]
    split
    · exact countSr_tl ..
    · rfl
  simp only [vcvtStored]
  split
  · rw [stored, pokeBytes_tl_xr, stored, pokeBytes_tl_xr, hcounted]
  · rw [stored, pokeBytes_tl_xr, hcounted]

theorem exec_vcvt {i : Issue} {s s1 : State} (h : Ready 1 0x10 legalVcvt regsVcvt i s) (hn : 1 ≤ vN i s ∧ vN i s ≤ 16384)
    (hrs : RangesOk i s (rangesVcvt i s) s1) :
    let e := checked i 4 s1 (sources (rangesVcvt i s))
    let vals := operandVals i s e (fFs i.w) (vN i s)
    exec (.vcvt i) s = .next (settled i s (usesOf (rangesVcvt i s))
      (if fGrad i.w then detectGrad i.tile (vX1 i s) 0 (vcvtBad i s e vals) (vcvtStored i s e vals) else vcvtStored i s e vals)) := by
  intro e vals
  have hx : sxReg1 (vcvtStored i s e vals) i.ctx = vX1 i s :=
    (sxReg1_congr (vcvtStored_tl_xr ..) _).trans (hrs.slots.sxReg1_checked ..)
  rw [← hx]
  show execVcvt i s = _
  refine (issueOp_withRanges h rfl hrs (if_neg (count_ok hn))).trans ?_
  simp only [hrs.slots.ctx_task_checked, vcvtStored, vcvtBad]
  by_cases hm : isMx (fFd i.w) = true
  · simp only [hm, if_true]
    rfl
  · simp only [hm, Bool.false_eq_true, if_false]
    rfl

/-- Settles O10: the elementwise operations are one operation on lanes, and VCVT is an operation over its ranges. -/
theorem vectorElementwise : Obligations.VectorElementwise := by
  refine ⟨?_, ?_, ?_, ?_, ?_, ?_, ?_, ?_, fun i s s1 h => ?_⟩
  iterate 7 exact mapResult_of_vecMap (fun _ _ => by unfold exec; exact rfl) rfl fun _ _ _ _ _ _ _ _ => rfl
  · refine mapResult_of_vecMap (fun _ _ => by unfold exec; exact rfl) rfl fun i s s1 hrs l a b d => ?_
    simp only [hrs.slots.sxReg_checked]
  · intro n fs fd rs hn hrs
    exact exec_vcvt h hn hrs

end Sys2Proof.Machine
end

section
/-!
Command rings (07_tile_operations.md R199 to R211): what the steps of a ring leave of its entries and of the machine, the layer under O33.
-/
namespace Sys2Proof.Machine

/-! ### Rings and their registers (R211) -/

@[simp] theorem ringOf_setRing (s : State) (sl n : Nat) (x : Ring) : ringOf (setRing s sl n x) sl n = x := by simp [ringOf, setRing]

theorem ringOf_congr {s t : State} (h : t.rng = s.rng) (sl n : Nat) : ringOf t sl n = ringOf s sl n := by rw [ringOf, h, ringOf]

/-- An interrupt bit that is set stays set when others are set. -/
theorem rdB_intSet_of_set {s : State} {pg b : Nat} (bits : Nat) (h : rdB s (pg + hIntStat) b = true) :
    rdB (intSet s pg bits) (pg + hIntStat) b = true := by
  have hb : b < 32 := Nat.lt_of_not_le fun hge => by
    have hlt : rd s (pg + hIntStat) < 2 ^ b := Nat.lt_of_lt_of_le (BitVec.isLt _) (Nat.pow_le_pow_right (by decide) hge)
    rw [rdB, Nat.testBit_lt_two_pow hlt] at h
    contradiction
  have h' : (rd s (pg + hIntStat)).testBit b = true := h
  rw [rdB, rd_of_rdW (intSet_rdW ..), rd_wr_same, Nat.testBit_mod_two_pow, Nat.testBit_or, h']
  simp [hb]

/-! ### What a ring's own steps keep -/

/-- Of ring n of slice sl, HEAD, the entries and whether the head runs stay; of the machine, the tiles and HBM; and of the ring page's
interrupt bits, those that are set. -/
structure HeadKept (sl n : Nat) (s t : State) : Prop where
  head : ringHead t sl n = ringHead s sl n
  buf  : (ringOf t sl n).buf = (ringOf s sl n).buf
  runs : (ringOf t sl n).running = (ringOf s sl n).running
  tl   : t.tl = s.tl
  hbm  : t.mem.hbm = s.mem.hbm
  bits : ∀ b, rdB s (ringPg sl + hIntStat) b = true → rdB t (ringPg sl + hIntStat) b = true

theorem HeadKept.refl (sl n : Nat) (s : State) : HeadKept sl n s s := ⟨rfl, rfl, rfl, rfl, rfl, fun _ h => h⟩

theorem HeadKept.trans {sl n : Nat} {s t u : State} (h1 : HeadKept sl n s t) (h2 : HeadKept sl n t u) : HeadKept sl n s u :=
  ⟨h2.head.trans h1.head, h2.buf.trans h1.buf, h2.runs.trans h1.runs, h2.tl.trans h1.tl, h2.hbm.trans h1.hbm,
    fun b h => h2.bits b (h1.bits b h)⟩

section
variable (s : State) (sl n : Nat)

/-- A register of the ring other than its head changes none of them. -/
theorem headKept_wr {x : Nat} (v : Nat) (hx : x ≠ 0x28 ∧ x ≠ 0x2C) : HeadKept sl n s (wr s (ringReg sl n + x) v) where
  head := by rw [ringHead, rd64_wr_ne _ _ (by omega) (by omega), ringHead]
  buf := by rw [ringOf_congr (wr_rng ..)]
  runs := by rw [ringOf_congr (wr_rng ..)]
  tl := wr_tl ..
  hbm := by rw [wr_mem]
  bits b hb := by
    rw [rdB_of_rdW (rdW_wr_ne _ _ (by simp only [ringReg, hIntStat]; omega))]
    exact hb

theorem headKept_intSet (bits : Nat) : HeadKept sl n s (intSet s (ringPg sl) bits) where
  head := by
    have h1 : ringReg sl n + 0x28 ≠ ringPg sl + hIntStat ∧ ringReg sl n + 0x28 + 4 ≠ ringPg sl + hIntStat := by
      simp only [ringReg, hIntStat]; omega
    rw [ringHead, rd64, rd_of_rdW (rdW_intSet_ne _ _ h1.1), rd_of_rdW (rdW_intSet_ne _ _ h1.2), ringHead, rd64]
  buf := by rw [ringOf_congr (intSet_rng ..)]
  runs := by rw [ringOf_congr (intSet_rng ..)]
  tl := intSet_tl ..
  hbm := by rw [intSet_mem]
  bits _ h := rdB_intSet_of_set bits h

/-- A store in host memory changes host memory alone. -/
theorem hostPut_keeps (a : Nat) (bs : List Byte) : hostPut a bs s =
    { s with mem := { s.mem with host := (hostPut a bs s).mem.host } } := by
  induction bs generalizing s a with
  | nil => rfl
  | cons b bs ih =>
    rw [hostPut, ih]
    rfl

theorem headKept_writeHead : HeadKept sl n s (writeHead s sl n) := by
  rw [writeHead, hostPut_keeps]
  exact ⟨rfl, rfl, rfl, rfl, rfl, fun _ h => h⟩

theorem headKept_stopRing : HeadKept sl n s (stopRing s sl n) :=
  ((headKept_wr s sl n _ (x := 0x0C) (by decide)).trans (headKept_intSet _ sl n 1)).trans (headKept_writeHead _ sl n)

/-- The code of an entry that failed is recorded and counted. -/
theorem headKept_lastFail (code : Nat) : HeadKept sl n s (inc (lastFail s sl n code) (ringReg sl n + 0x38)) :=
  (headKept_wr s sl n _ (x := 0x0C) (by decide)).trans (headKept_wr _ sl n _ (x := 0x38) (by decide))

theorem headKept_checkHead : HeadKept sl n s (checkHead s sl n) := by
  rw [checkHead]
  split
  · split
    · exact (headKept_lastFail s sl n 3).trans (headKept_stopRing _ sl n)
    · exact .refl sl n s
  · exact .refl sl n s

end

/-! ### Fetching (R206) -/

/-- A ring has gone on fetching: bursts have been issued and FETCH has moved on, and nothing else has changed. -/
structure Fetched (sl n : Nat) (s t : State) : Prop where
  ring : ∃ bs, ringOf t sl n = { ringOf s sl n with bursts := bs }
  regs : ∀ o, o ≠ ringReg sl n + 0x30 → o ≠ ringReg sl n + 0x34 → rdW t o = rdW s o
  tl   : t.tl = s.tl
  mem  : t.mem = s.mem

theorem Fetched.refl (sl n : Nat) (s : State) : Fetched sl n s s := ⟨⟨_, rfl⟩, fun _ _ _ => rfl, rfl, rfl⟩

theorem fetched_issueBursts (sl n fuel : Nat) : ∀ s : State, Fetched sl n s (issueBursts fuel s sl n) := by
  induction fuel with
  | zero => exact fun s => .refl sl n s
  | succ fuel ih =>
    intro s
    rw [issueBursts]
    split
    · exact .refl sl n s
    · generalize hb : (ringOf s sl n).bursts ++ _ = bs
      generalize ringFetch s sl n + _ = f
      obtain ⟨⟨bs', hring⟩, hregs, htl, hmem⟩ := ih (wr64 (setRing s sl n { ringOf s sl n with bursts := bs }) (ringReg sl n + 0x30) f)
      refine ⟨⟨bs', ?_⟩, fun o h1 h2 => ?_, ?_, ?_⟩
      · rw [hring, ringOf_congr (wr64_rng ..), ringOf_setRing]
      · rw [hregs o h1 h2, rdW_wr64_ne _ _ h1 h2]
        rfl
      · rw [htl, wr64_tl]
        rfl
      · rw [hmem, wr64_mem]
        rfl

theorem fetched_fetchOn (s : State) (sl n : Nat) : Fetched sl n s (fetchOn s sl n) := by
  rw [fetchOn]
  split
  · exact fetched_issueBursts sl n 3 s
  · exact .refl sl n s

theorem Fetched.rd64_eq {sl n : Nat} {s t : State} (h : Fetched sl n s t) {x : Nat} (hx : x < 0x2C) :
    rd64 t (ringReg sl n + x) = rd64 s (ringReg sl n + x) := by
  have hlo := h.regs (ringReg sl n + x) (by omega) (by omega)
  have hhi := h.regs (ringReg sl n + x + 4) (by omega) (by omega)
  rw [rd64, rd_of_rdW hlo, rd_of_rdW hhi, rd64]

theorem Fetched.headKept {sl n : Nat} {s t : State} (h : Fetched sl n s t) : HeadKept sl n s t := by
  obtain ⟨bs, hring⟩ := h.ring
  refine ⟨h.rd64_eq (x := 0x28) (by decide), by rw [hring], by rw [hring], h.tl, by rw [h.mem], fun b hb => ?_⟩
  rw [rdB_of_rdW (h.regs _ _ _)]
  · exact hb
  all_goals simp only [ringReg, hIntStat]; omega

/-! ### The completion of an entry (R207, R208, R210) -/

/-- HEAD moves on, and the entry leaves the buffer. -/
def advanced (s : State) (sl n : Nat) : State :=
  let x := ringOf s sl n
  wr64 (setRing s sl n { x with buf := x.buf.drop 1, running := false, word := none,
                                stamps := x.stamps.filter (fun t => decide (ringHead s sl n + 1 < t.1)) })
    (ringReg sl n + 0x28) (ringHead s sl n + 1)

/-- The code of a completed entry is recorded, counted and signalled, where it is not OK. -/
def codeNoted (s : State) (sl n code : Nat) : State :=
  if code = 0 then s else intSet (inc (lastFail s sl n code) (ringReg sl n + 0x38)) (ringPg sl) (codeInt code)

theorem headKept_codeNoted (s : State) (sl n code : Nat) : HeadKept sl n s (codeNoted s sl n code) := by
  rw [codeNoted]
  split
  · exact .refl sl n s
  · exact (headKept_lastFail s sl n code).trans (headKept_intSet _ sl n _)

/-- After HEAD has moved on and the code is noted, the ring stops, or writes its head word and goes on fetching. -/
theorem headKept_completeEntry (s : State) (sl n : Nat) (e : RingEntry) (code : Nat) :
    HeadKept sl n (codeNoted (advanced s sl n) sl n code) (completeEntry s sl n e code) := by
  rw [completeEntry]
  simp only [← advanced.eq_1, ← codeNoted.eq_1]
  split
  · exact headKept_stopRing _ sl n
  · refine HeadKept.trans ?_ ((fetched_fetchOn _ sl n).headKept.trans (headKept_checkHead _ sl n))
    split
    · exact headKept_writeHead _ sl n
    · exact .refl sl n _

theorem advanced_done {s : State} {sl : Fin 8} {n : Fin 4} (h : ringHead s sl n + 1 < 2 ^ 64) : RingDone s (advanced s sl n) sl n where
  head := rd64_wr64 _ _ _ h
  buf := by rw [advanced, ringOf_congr (wr64_rng ..), ringOf_setRing]
  idle := by rw [advanced, ringOf_congr (wr64_rng ..), ringOf_setRing]

/-- An entry that completes with any code, from a state u of which s is the one before: HEAD moves on, and tiles and HBM stay. -/
structure Completed (s u t : State) (sl : Fin 8) (n : Fin 4) : Prop where
  done : RingDone s t sl n
  tl   : t.tl = u.tl
  hbm  : t.mem.hbm = u.mem.hbm

theorem completed_completeEntry {s u : State} {sl : Fin 8} {n : Fin 4} (hhead : ringHead u sl n = ringHead s sl n)
    (hbuf : (ringOf u sl n).buf = (ringOf s sl n).buf) (hfits : ringHead s sl n + 1 < 2 ^ 64) (e : RingEntry) (code : Nat) :
    Completed s u (completeEntry u sl n e code) sl n := by
  have hkept := (headKept_codeNoted (advanced u sl n) sl n code).trans (headKept_completeEntry u sl n e code)
  obtain ⟨hh, hb, hi⟩ := advanced_done (s := u) (sl := sl) (n := n) (by rwa [hhead])
  refine ⟨⟨?_, ?_, ?_⟩, ?_, ?_⟩
  · rw [hkept.head, hh, hhead]
  · rw [hkept.buf, hb, hbuf]
  · rw [hkept.runs, hi]
  · rw [hkept.tl, advanced, wr64_tl]
    rfl
  · rw [hkept.hbm, advanced, wr64_mem]
    rfl

/-- The interrupt bit of a code is set. -/
theorem rdB_completeEntry_code (s : State) (sl n : Nat) (e : RingEntry) {code b : Nat} (hc : code ≠ 0) (hb : codeInt code = 2 ^ b)
    (h : b < 32) : rdB (completeEntry s sl n e code) (ringPg sl + hIntStat) b = true := by
  refine (headKept_completeEntry s sl n e code).bits b ?_
  rw [codeNoted, if_neg hc, hb]
  exact intSet_bit _ _ b h

/-! ### What leaves every ring as it was -/

/-- The rings and the registers of their pages are as they were. -/
structure RingsKept (s t : State) : Prop where
  rng  : t.rng = s.rng
  regs : ∀ sl x, x < 4096 → rdW t (ringPg sl + x) = rdW s (ringPg sl + x)

theorem RingsKept.refl (s : State) : RingsKept s s := ⟨rfl, fun _ _ _ => rfl⟩

theorem RingsKept.trans {s t u : State} (h1 : RingsKept s t) (h2 : RingsKept t u) : RingsKept s u :=
  ⟨h2.rng.trans h1.rng, fun sl x hx => (h2.regs sl x hx).trans (h1.regs sl x hx)⟩

theorem RingsKept.ringHead_eq {s t : State} (h : RingsKept s t) (sl : Nat) (n : Fin 4) : ringHead t sl n = ringHead s sl n := by
  have hlo := h.regs sl (0x100 + 0x40 * n + 0x28) (by omega)
  have hhi := h.regs sl (0x100 + 0x40 * n + 0x28 + 4) (by omega)
  simp only [← Nat.add_assoc] at hlo hhi
  simp only [ringHead, rd64, ringReg, rd_of_rdW hlo, rd_of_rdW hhi]

/-- Nothing of the rings or of the window has changed. -/
theorem ringsKept_of_eq {s t : State} (hrng : t.rng = s.rng) (hwin : t.win = s.win) : RingsKept s t :=
  ⟨hrng, fun _ _ _ => rdW_congr (congrArg Window.regs hwin) _⟩

theorem ringsKept_tick (s : State) (now : Nat) : RingsKept s (tick s now) := ringsKept_of_eq rfl rfl

/-- The page of a tile and the page of a ring are different. -/
theorem tilePg_ne_ringPg (t sl : Nat) {x y : Nat} (hx : x < 4096) (hy : y < 4096) : ringPg sl + y ≠ tilePg t 0 + x := by
  simp only [ringPg, slPg, ctlPg, tilePg]
  omega

section
variable (s : State) (t : Nat)

theorem ringsKept_wr {x : Nat} (v : Nat) (hx : x < 4096) : RingsKept s (wr s (tilePg t 0 + x) v) :=
  ⟨wr_rng .., fun sl _ hy => rdW_wr_ne _ _ (tilePg_ne_ringPg t sl hx hy)⟩

theorem ringsKept_intSet (bits : Nat) : RingsKept s (intSet s (tilePg t 0) bits) :=
  ⟨intSet_rng .., fun sl _ hy => rdW_intSet_ne _ _ (tilePg_ne_ringPg t sl (by decide) hy)⟩

theorem ringsKept_latchBlk (low addr : Nat) : RingsKept s (latchBlk s (tilePg t 0) low addr) :=
  ⟨latchErr_rng .., fun sl _ hy => latchBlk_get s (tilePg t 0) low addr (tilePg_ne_ringPg t sl (by decide) hy)
    (tilePg_ne_ringPg t sl (by decide) hy) (tilePg_ne_ringPg t sl (by decide) hy)
    (tilePg_ne_ringPg t sl (x := hErrLo + 4) (by decide) hy)⟩

theorem ringsKept_failTask (k : Fin 4) : RingsKept s (failTask s t k) := by
  rw [failTask]
  split
  · split
    · exact .refl s
    · exact (ringsKept_of_eq (setTask_rng ..) (setTask_win ..)).trans (ringsKept_intSet _ t 4)
  · exact .refl s

theorem ringsKept_threadFault (th cause pc : Nat) : RingsKept s (threadFault s t th cause pc) := by
  have hlatched : RingsKept s (latchBlk (intSet (setThr s t th
      { thrOf s t th with st := .faulted, fault := BitVec.ofNat 8 cause, pc := BitVec.ofNat 32 pc }) (tilePg t 0) 1) (tilePg t 0)
      (th * 256 + cause) pc) :=
    ((ringsKept_of_eq (setThr_rng ..) (setThr_win ..)).trans (ringsKept_intSet _ t 1)).trans (ringsKept_latchBlk _ t _ _)
  rw [threadFault]
  split
  · exact hlatched.trans (ringsKept_failTask _ t _)
  · exact hlatched

theorem ringsKept_startThread (th pc : Nat) (arg : W64) : RingsKept s (startThread s t th pc arg) := by
  have hstarted : RingsKept s (started s t th pc arg) := ringsKept_of_eq rfl rfl
  rw [startThread]
  split
  · simp only [← started.eq_1]
    split
    · exact hstarted.trans (ringsKept_threadFault _ t th _ _)
    · exact hstarted
  · exact ringsKept_wr s t _ (x := 0x154) (by decide)

end

theorem ringsKept_startOnes (p : Nat) (e : RingEntry) (is : List Nat) : ∀ r : State × Bool,
    RingsKept r.1 (is.foldl (startOne p e) r).1 := by
  induction is with
  | nil => exact fun r => .refl r.1
  | cons i is ih =>
    intro r
    refine RingsKept.trans ?_ (ih _)
    rw [startOne]
    split
    · exact .refl r.1
    · exact ringsKept_startThread ..

/-- Bytes put into a partition change memory alone. -/
theorem memPut_keeps (p : Nat) (bs : List Byte) : ∀ (s : State) (a : Nat), memPut s p a bs = { s with mem := (memPut s p a bs).mem } := by
  have one (s : State) (a : Nat) (b : Byte) : memPut1 s p a b = { s with mem := (memPut1 s p a b).mem } := by
    rw [memPut1]
    split
    · next l _ => cases l <;> rfl
    · rfl
  induction bs with
  | nil => exact fun _ _ => rfl
  | cons b bs ih =>
    intro s a
    rw [memPut, ih, one]

end Sys2Proof.Machine
end

section
/-!
The entries of a command ring (07_tile_operations.md R201, R202, R205): which begin, and what each does.
-/
namespace Sys2Proof.Machine

/-! ### An entry at the head (R202, R205) -/

theorem ringPart_of {s : State} {sl p : Nat} (hown : partOfSlice s sl = some p) (hlow : lowSlice s p = sl) : ringPart s sl = some p := by
  simp only [ringPart, hown, hlow, if_true]

/-- Where no report of its descriptor waits, nothing completes. -/
theorem settleXfer_quiet {s : State} {sl n : Nat} (h : cGet (fun _ => none) s.blw.xfers (4 * sl + n) = none) : settleXfer s sl n = s := by
  rw [settleXfer, h]
  cases (ringOf s sl n).buf <;> rfl

section
variable {op : Nat} {s : State} {sl : Fin 8} {n : Fin 4} {p : Nat} {e : RingEntry} {now : Nat} (h : RingHead op s sl n p e)
  (body : State → Nat → RingEntry → Bool → State)
include h

/-- The entry at the head, by what it still has to pass. -/
theorem RingHead.runEntry_eq : runEntry op sl n now s body =
    if (ringOf s sl n).running then .next (body (tick s now) p e true)
    else if ringEn s sl n = false ∨ ringStopped s sl n ∨ max s.time now < e.notBefore then .next (tick s now)
    else if e.stamp > e.deadline then .next (completeEntry (tick s now) sl n e 1)
    else .next (body (tick s now) p e false) := by
  obtain ⟨es, hbuf⟩ := List.head?_eq_some_iff.1 h.head
  have hbuf' : (ringOf (tick s now) sl n).buf = e :: es := hbuf
  have hpart : ringPart (tick s now) sl = some p := ringPart_of h.owner h.low
  have hquiet : settleXfer (tick s now) sl n = tick s now := settleXfer_quiet h.quiet
  have hgo : ¬(e.bad = true ∨ e.op ≠ op) := by simp [h.sound, h.op]
  simp only [runEntry, hpart, hquiet, hbuf', if_neg hgo]
  rfl

theorem RingHead.runEntry_running (hr : (ringOf s sl n).running = true) :
    runEntry op sl n now s body = .next (body (tick s now) p e true) := by
  rw [h.runEntry_eq, if_pos hr]

theorem RingHead.runEntry_begins (hb : RingBegins s sl n e now) : runEntry op sl n now s body = .next (body (tick s now) p e false) := by
  have hdue := hb.due
  have hin := hb.inTime
  have hgo : ¬(ringEn s sl n = false ∨ ringStopped s sl n = true ∨ max s.time now < e.notBefore) := by
    simp only [hb.enabled, hb.going, Bool.true_eq_false, Bool.false_eq_true, false_or]
    omega
  rw [h.runEntry_eq, if_neg (by simp [hb.idle]), if_neg hgo, if_neg (by omega)]

/-- An entry that arrived after its deadline expires. -/
theorem RingHead.runEntry_expires (hi : (ringOf s sl n).running = false) (hen : ringEn s sl n = true) (hst : ringStopped s sl n = false)
    (hdue : e.notBefore ≤ max s.time now) (hlate : e.deadline < e.stamp) :
    runEntry op sl n now s body = .next (completeEntry (tick s now) sl n e 1) := by
  have hgo : ¬(ringEn s sl n = false ∨ ringStopped s sl n = true ∨ max s.time now < e.notBefore) := by
    simp only [hen, hst, Bool.true_eq_false, Bool.false_eq_true, false_or]
    omega
  rw [h.runEntry_eq, if_neg (by simp [hi]), if_neg hgo, if_pos hlate]

omit body

/-- The entry completes from a state that still has it at its ring's head. -/
theorem RingHead.completed {u : State} (hu : RingsKept s u) (code : Nat) : Completed s u (completeEntry u sl n e code) sl n :=
  completed_completeEntry (hu.ringHead_eq sl n) (by rw [ringOf_congr hu.rng]) h.fits e code

/-- The entry completes right away. -/
theorem RingHead.completed_tick (now code : Nat) : Completed s (tick s now) (completeEntry (tick s now) sl n e code) sl n :=
  h.completed (ringsKept_tick s now) code

end

/-! ### NOP and START (R201, R202) -/

section
variable {s : State} {sl : Fin 8} {n : Fin 4} {p : Nat} {e : RingEntry} {now : Nat}

theorem exec_ringNop (sl : Fin 8) (n : Fin 4) (now : Nat) (s : State) :
    exec (.ringNop sl n now) s = runEntry 0 sl n now s (fun s _ e _ => completeEntry s sl n e 0) := rfl

theorem ringNop_gives (h : RingHead 0 s sl n p e) (hb : RingBegins s sl n e now) :
    Gives (.ringNop sl n now) s (fun t => RingDone s t sl n ∧ t.tl = s.tl ∧ t.mem.hbm = s.mem.hbm) := by
  obtain ⟨hdone, htl, hhbm⟩ := h.completed_tick now 0
  exact ⟨_, (exec_ringNop ..).trans (h.runEntry_begins _ hb), hdone, htl, hhbm⟩

theorem ringNop_expires (h : RingHead 0 s sl n p e) (hi : (ringOf s sl n).running = false) (hen : ringEn s sl n = true)
    (hst : ringStopped s sl n = false) (hdue : e.notBefore ≤ max s.time now) (hlate : e.deadline < e.stamp) :
    Gives (.ringNop sl n now) s (fun t => RingDone s t sl n ∧ rdB t (ringPg sl + hIntStat) 1 = true) :=
  ⟨_, (exec_ringNop ..).trans (h.runEntry_expires _ hi hen hst hdue hlate), (h.completed_tick now 1).done,
    rdB_completeEntry_code _ _ _ _ (by decide) rfl (by decide)⟩

theorem exec_ringStart {is : List Nat} (h : RingHead 1 s sl n p e) (hb : RingBegins s sl n e now) (his : entryTiles s p e = some is) :
    exec (.ringStart sl n now) s = .next (completeEntry (is.foldl (startOne p e) (tick s now, true)).1 sl n e
      (if (is.foldl (startOne p e) (tick s now, true)).2 then 0 else 5)) := by
  have his' : entryTiles (tick s now) p e = some is := his
  show execRingStart sl n now s = _
  refine (h.runEntry_begins _ hb).trans ?_
  simp only [his']

theorem ringStart_gives {is : List Nat} (h : RingHead 1 s sl n p e) (hb : RingBegins s sl n e now) (his : entryTiles s p e = some is) :
    Gives (.ringStart sl n now) s (fun t => RingDone s t sl n ∧ t.tl = (is.foldl (startOne p e) (tick s now, true)).1.tl) := by
  have hkept : RingsKept s (is.foldl (startOne p e) (tick s now, true)).1 :=
    (ringsKept_tick s now).trans (ringsKept_startOnes p e is (tick s now, true))
  obtain ⟨hdone, htl, -⟩ := h.completed hkept (if (is.foldl (startOne p e) (tick s now, true)).2 then 0 else 5)
  exact ⟨_, exec_ringStart h hb his, hdone, htl⟩

end

/-! ### XFER (R202) -/

/-- A descriptor that passes its checks stays with the tile's Bellows (R229, R234). -/
theorem acceptDesc_stays {s : State} {t p : Nat} {b : List Byte} {d : BDesc} (hv : dsValid s t b = true) (hk : d.kind ≠ .drain)
    (hp : partOfTile s t = some p) (hcode : ∀ x ∈ d.pieces, rangeHitsCode s t d.task x.spad x.len = false)
    (hmem : badPiece s p d.pieces = none) : acceptDesc s t b false d = setDescs s t (descsOf s t ++ [d]) := by
  have hv' : dsValid (setDescs s t (descsOf s t ++ [d])) t b = true := hv
  have hp' : partOfTile (setDescs s t (descsOf s t ++ [d])) t = some p := hp
  have hmem' : badPiece (setDescs s t (descsOf s t ++ [d])) p d.pieces = none := hmem
  have hcode' : d.pieces.find? (fun c => d.kind != .writeBack &&
      rangeHitsCode (setDescs s t (descsOf s t ++ [d])) t d.task c.spad c.len) = none := by
    refine List.find?_eq_none.2 fun x hx => ?_
    have hx' : rangeHitsCode (setDescs s t (descsOf s t ++ [d])) t d.task x.spad x.len = false := hcode x hx
    simp [hx']
  simp only [acceptDesc, hv', hp', hcode', hmem', if_neg hk, Bool.false_eq_true, Bool.true_eq_false, if_false]

/-- The descriptor of a ring's STREAM_IN, PREFETCH or WRITE_BACK is neither a GATHER nor a DRAIN. -/
theorem dsKind_ring {b : List Byte} (h : dsOp b = 1 ∨ dsOp b = 2 ∨ dsOp b = 3) : dsKind b none ≠ .gather ∧ dsKind b none ≠ .drain := by
  rcases h with h | h | h <;> simp [dsKind, h]

section
variable {s : State} {sl : Fin 8} {n : Fin 4} {p tile : Nat} {e : RingEntry} {now : Nat}

/-- The bytes of the descriptor in an XFER entry. -/
def xferBytes (e : RingEntry) : List Byte := slice e.bytes 0x1C 32

/-- The descriptor that an XFER entry hands to Bellows. -/
def xferDesc (s : State) (sl : Fin 8) (n : Fin 4) (e : RingEntry) (now : Nat) : BDesc :=
  dsMake (xferBytes e) s.blw.nextId 0 (max s.time now) none (some (sl.val, n.val)) none

/-- The entry runs and its descriptor has a number. -/
def xferBegun (s : State) (sl : Fin 8) (n : Fin 4) (now : Nat) : State := (freshBlw (beginEntry (tick s now) sl n)).2

theorem exec_ringXfer (h : RingHead 2 s sl n p e) (hb : RingBegins s sl n e now) (hi : e.field 0x18 2 < tileCount s p)
    (ht : partTileAt s p (e.field 0x18 2) = some tile) (hroom : (descsOf s tile).length < 32) (htags : blwTags s tile < 96)
    (hop : dsOp (xferBytes e) = 1 ∨ dsOp (xferBytes e) = 2 ∨ dsOp (xferBytes e) = 3) (hv : dsValid s tile (xferBytes e) = true)
    (hp : partOfTile s tile = some p) (hmem : badPiece s p (dsPieces (xferBytes e)) = none)
    (hcode : ∀ x ∈ dsPieces (xferBytes e), rangeHitsCode s tile none x.spad x.len = false) :
    exec (.ringXfer sl n now) s =
      .next (setDescs (xferBegun s sl n now) tile (descsOf s tile ++ [xferDesc s sl n e now])) := by
  obtain ⟨hgather, hdrain⟩ := dsKind_ring hop
  have hpieces : (xferDesc s sl n e now).pieces = dsPieces (xferBytes e) := by simp [xferDesc, dsMake, hgather, hdrain]
  have haccept : acceptDesc (xferBegun s sl n now) tile (xferBytes e) false (xferDesc s sl n e now) =
      setDescs (xferBegun s sl n now) tile (descsOf s tile ++ [xferDesc s sl n e now]) :=
    acceptDesc_stays (p := p) hv hdrain hp (hpieces ▸ hcode) (hpieces ▸ hmem)
  have hquiet : settleXfer (setDescs (xferBegun s sl n now) tile (descsOf s tile ++ [xferDesc s sl n e now])) sl n =
      setDescs (xferBegun s sl n now) tile (descsOf s tile ++ [xferDesc s sl n e now]) := settleXfer_quiet h.quiet
  have hi' : e.field 0x18 2 < tileCount (tick s now) p := hi
  have ht' : partTileAt (tick s now) p (e.field 0x18 2) = some tile := ht
  have hgo : ¬((descsOf (tick s now) tile).length ≥ 32 ∨ (dsOp (xferBytes e) ≠ 5 ∧ blwTags (tick s now) tile ≥ 96)) := by
    show ¬((descsOf s tile).length ≥ 32 ∨ (dsOp (xferBytes e) ≠ 5 ∧ blwTags s tile ≥ 96))
    omega
  show execRingXfer sl n now s = _
  refine (h.runEntry_begins _ hb).trans ?_
  simp only [Bool.false_eq_true, if_false, if_pos hi', ht']
  refine congrArg _ ((if_neg hgo).trans ?_)
  exact (congrArg (settleXfer · sl n) haccept).trans hquiet

theorem ringXfer_gives (h : RingHead 2 s sl n p e) (hb : RingBegins s sl n e now) (hi : e.field 0x18 2 < tileCount s p)
    (ht : partTileAt s p (e.field 0x18 2) = some tile) (hroom : (descsOf s tile).length < 32) (htags : blwTags s tile < 96)
    (hop : dsOp (xferBytes e) = 1 ∨ dsOp (xferBytes e) = 2 ∨ dsOp (xferBytes e) = 3) (hv : dsValid s tile (xferBytes e) = true)
    (hp : partOfTile s tile = some p) (hmem : badPiece s p (dsPieces (xferBytes e)) = none)
    (hcode : ∀ x ∈ dsPieces (xferBytes e), rangeHitsCode s tile none x.spad x.len = false) :
    Gives (.ringXfer sl n now) s (fun t => (ringOf t sl n).running = true ∧ t.tl = s.tl ∧ t.mem = s.mem ∧
      descsOf t tile = descsOf s tile ++ [xferDesc s sl n e now]) := by
  refine ⟨_, exec_ringXfer h hb hi ht hroom htags hop hv hp hmem hcode, ?_, rfl, rfl, cGet_cSet_same ..⟩
  show (ringOf (beginEntry (tick s now) sl n) sl n).running = true
  rw [beginEntry, ringOf_setRing]

end

/-! ### WRITE (R202) -/

theorem noteWrites_rng (s : State) (p a n : Nat) : (noteWrites s p a n).rng = s.rng := by
  rw [noteWrites]
  induction splitRange pageBytes a n generalizing s with
  | nil => rfl
  | cons r rs ih =>
    refine (ih _).trans ?_
    simp only [noteWrite, touchPage]
    split <;> rfl

/-- A unit's write of memory leaves the rings as they were. -/
theorem ringsKept_devWrite (s : State) (p a : Nat) (bs : List Byte) : RingsKept s (devWrite s p a bs) := by
  refine ⟨?_, fun sl x hx => rdW_devWrite s p a bs (not_onHbmPage_slPg (by decide) hx)⟩
  have hcount := windowOnly_countHbm (noteWrites (memPut s p a bs) p a bs.length) p a bs.length 0x128
  rw [devWrite, hcount, noteWrites_rng, memPut_keeps]

section
variable {s : State} {sl : Fin 8} {n : Fin 4} {p : Nat} {e : RingEntry} {now : Nat}

theorem exec_ringWrite (h : RingHead 3 s sl n p e) (hb : RingBegins s sl n e now) (hin : inPart s p (e.field 0x18 8) 8 = true)
    (hpr : promote (tick s now) p (e.field 0x18 8) true = .ready (tick s now)) :
    exec (.ringWrite sl n now) s =
      .next (completeEntry (devWrite64 (tick s now) p (e.field 0x18 8) (e.field 0x20 8)) sl n e 0) := by
  have hin' : inPart (tick s now) p (e.field 0x18 8) 8 = true := hin
  show execRingWrite sl n now s = _
  refine (h.runEntry_begins _ hb).trans ?_
  simp only [hin', hpr, Bool.true_eq_false, if_false]

theorem ringWrite_gives (h : RingHead 3 s sl n p e) (hb : RingBegins s sl n e now) (hin : inPart s p (e.field 0x18 8) 8 = true)
    (hpr : promote (tick s now) p (e.field 0x18 8) true = .ready (tick s now)) :
    Gives (.ringWrite sl n now) s (fun t => RingDone s t sl n ∧
      t.mem.hbm = (devWrite64 (tick s now) p (e.field 0x18 8) (e.field 0x20 8)).mem.hbm) := by
  have hkept : RingsKept s (devWrite64 (tick s now) p (e.field 0x18 8) (e.field 0x20 8)) :=
    (ringsKept_tick s now).trans (ringsKept_devWrite ..)
  obtain ⟨hdone, -, hhbm⟩ := h.completed hkept 0
  exact ⟨_, exec_ringWrite h hb hin hpr, hdone, hhbm⟩

end

/-! ### WAIT_WORD and WAIT_IDLE (R202, R205) -/

/-- An entry that starts to run stays at its ring's head, and memory stays. -/
theorem beginEntry_runs (s : State) (now : Nat) (sl : Fin 8) (n : Fin 4) :
    (ringOf (beginEntry (tick s now) sl n) sl n).running = true ∧ ringHead (beginEntry (tick s now) sl n) sl n = ringHead s sl n ∧
      (beginEntry (tick s now) sl n).mem = s.mem :=
  ⟨by rw [beginEntry, ringOf_setRing], rfl, rfl⟩

/-- The tile of a partition's place i, where it has one, has every thread HALTED or FAULTED. -/
def quietAt (s : State) (p i : Nat) : Bool :=
  match partTileAt s p i with
  | some t => tileQuiet s t
  | none => true

theorem quietAt_iff {s : State} {p i : Nat} : quietAt s p i = true ↔ ∀ tile, partTileAt s p i = some tile → tileQuiet s tile = true := by
  rw [quietAt]
  cases partTileAt s p i <;> simp

section
variable {s : State} {sl : Fin 8} {n : Fin 4} {p : Nat} {e : RingEntry} {now : Nat}

theorem ringWaitWord_gives (h : RingHead 4 s sl n p e) (hb : RingBegins s sl n e now) (hin : inPart s p (e.field 0x18 8) 8 = true) :
    Gives (.ringWaitWord sl n now) s (fun t =>
      (ringOf t sl n).running = true ∧ ringHead t sl n = ringHead s sl n ∧ t.mem = s.mem) := by
  have hin' : inPart (tick s now) p (e.field 0x18 8) 8 = true := hin
  refine ⟨beginEntry (tick s now) sl n, ?_, beginEntry_runs s now sl n⟩
  show execRingWaitWord sl n now s = _
  refine (h.runEntry_begins _ hb).trans ?_
  simp only [hin', Bool.true_eq_false, Bool.false_eq_true, if_false]

theorem exec_ringWaitIdle {is : List Nat} (h : RingHead 5 s sl n p e) (hb : RingBegins s sl n e now) (his : entryTiles s p e = some is) :
    exec (.ringWaitIdle sl n now) s =
      .next (if is.all (quietAt s p) then completeEntry (tick s now) sl n e 0 else beginEntry (tick s now) sl n) := by
  have his' : entryTiles (tick s now) p e = some is := his
  show execRingWaitIdle sl n now s = _
  refine (h.runEntry_begins _ hb).trans ?_
  simp only [his']
  rfl

/-- A word that is read in time and satisfies the comparison completes the entry. -/
theorem waitWordRead_holds {issued : Nat} (h : RingHead 4 s sl n p e) (hr : (ringOf s sl n).running = true)
    (hw : (ringOf s sl n).word = some issued) (hin : issued ≤ e.deadline)
    (hc : wordHolds (e.field 0x28 1) (memNat s p (e.field 0x18 8) 8) (e.field 0x20 8) = true) :
    Gives (.waitWordRead sl n now) s (fun t => RingDone s t sl n) := by
  have hw' : (ringOf (tick s now) sl n).word = some issued := hw
  have hc' : wordHolds (e.field 0x28 1) (memNat (tick s now) p (e.field 0x18 8) 8) (e.field 0x20 8) = true := hc
  refine ⟨completeEntry (tick s now) sl n e 0, ?_, (h.completed_tick now 0).done⟩
  show execWaitWordRead sl n now s = _
  refine (h.runEntry_running _ hr).trans ?_
  simp only [hw', hc', hin, and_self, if_true]

/-- A word that does not satisfy it is read again. -/
theorem waitWordRead_again {issued : Nat} (h : RingHead 4 s sl n p e) (hr : (ringOf s sl n).running = true)
    (hw : (ringOf s sl n).word = some issued)
    (hc : wordHolds (e.field 0x28 1) (memNat s p (e.field 0x18 8) 8) (e.field 0x20 8) = false) :
    Gives (.waitWordRead sl n now) s (fun t => (ringOf t sl n).word = none ∧ (ringOf t sl n).running = true ∧ t.win = s.win) := by
  have hw' : (ringOf (tick s now) sl n).word = some issued := hw
  have hc' : wordHolds (e.field 0x28 1) (memNat (tick s now) p (e.field 0x18 8) 8) (e.field 0x20 8) = false := hc
  refine ⟨setRing (tick s now) sl n { ringOf s sl n with word := none }, ?_, ?_, ?_, rfl⟩
  · show execWaitWordRead sl n now s = _
    refine (h.runEntry_running _ hr).trans ?_
    simp only [hw', hc', Bool.false_eq_true, and_false, if_false]
    rfl
  · rw [ringOf_setRing]
  · rw [ringOf_setRing]
    exact hr

theorem waitWordTimeout_gives (h : RingHead 4 s sl n p e) (hr : (ringOf s sl n).running = true) (hw : (ringOf s sl n).word = none)
    (hd : e.deadline ≠ 2 ^ 64 - 1) (hlate : e.deadline + 64 < max s.time now) :
    Gives (.waitWordTimeout sl n now) s (fun t => RingDone s t sl n ∧ rdB t (ringPg sl + hIntStat) 2 = true) := by
  have hw' : (ringOf (tick s now) sl n).word = none := hw
  refine ⟨completeEntry (tick s now) sl n e 2, ?_, (h.completed_tick now 2).done,
    rdB_completeEntry_code _ _ _ _ (by decide) rfl (by decide)⟩
  have hdue : e.deadline ≠ 2 ^ 64 - 1 ∧ (tick s now).time > e.deadline + 64 := ⟨hd, hlate⟩
  show execWaitWordTimeout sl n now s = _
  refine (h.runEntry_running _ hr).trans ?_
  simp only [hw', decide_eq_true hdue, Bool.not_false, Bool.and_self, if_true]

end

end Sys2Proof.Machine
end

section
/-!
Polling, fetching, enable and resume of a command ring (07_tile_operations.md R204 to R206, R208, R211), and O33.
-/
namespace Sys2Proof.Machine

/-! ### Polling and fetching (R204 to R206) -/

theorem RingAt.ringPart_eq {s : State} {sl : Fin 8} {n : Fin 4} (h : RingAt s sl n) : ∃ p, ringPart s sl = some p := by
  obtain ⟨p, hown, hlow⟩ := h.owner
  exact ⟨p, ringPart_of hown hlow⟩

theorem RingAt.settleXfer_tick {s : State} {sl : Fin 8} {n : Fin 4} (h : RingAt s sl n) (now : Nat) :
    settleXfer (tick s now) sl n = tick s now := settleXfer_quiet h.quiet

/-- A WAIT_WORD that runs awaits a read of its word. -/
def wordDue (x : Ring) : Bool :=
  match x.buf with
  | e :: _ => x.running && e.op == 4 && x.word.isNone
  | [] => false

/-- At a poll time the read of a waiting WAIT_WORD issues. -/
def wordIssued (s : State) (sl n : Nat) : State :=
  if wordDue (ringOf s sl n) then setRing s sl n { ringOf s sl n with word := some s.time } else s

/-- Its issue is noted in the ring's record alone. -/
theorem wordIssued_keeps (s : State) (sl n : Nat) : wordIssued s sl n = { s with rng := (wordIssued s sl n).rng } := by
  rw [wordIssued]
  split <;> rfl

section
variable {s : State} {sl : Fin 8} {n : Fin 4} (h : RingAt s sl n)
include h

theorem exec_ringPoll (now : Nat) (hen : ringEn s sl n = true) (hst : ringStopped s sl n = false)
    (hpoll : max s.time now % rdF s (ringReg sl n + 0x08) 23 0 = 0) (hread : (ringOf s sl n).reading = none)
    (hseen : (ringOf s sl n).seen ≤ ringFetch s sl n) (hb : (ringOf s sl n).bursts = []) :
    exec (.ringPoll sl n now) s = .next (setRing (wordIssued (tick s now) sl n) sl n
      { ringOf (wordIssued (tick s now) sl n) sl n with reading := some (wordIssued (tick s now) sl n).time }) := by
  obtain ⟨p, hpart⟩ := h.ringPart_eq
  have hpart' : ringPart (tick s now) sl = some p := hpart
  have hgo : ¬(ringEn (tick s now) sl n = false ∨ (tick s now).time % rdF (tick s now) (ringReg sl n + 0x08) 23 0 ≠ 0) := by
    show ¬(ringEn s sl n = false ∨ max s.time now % rdF s (ringReg sl n + 0x08) 23 0 ≠ 0)
    simp [hen, hpoll]
  have hst' : ¬(ringStopped (wordIssued (tick s now) sl n) sl n = true) := by
    rw [wordIssued_keeps]
    exact ne_true_of_eq_false hst
  have hread' : ¬((ringOf (tick s now) sl n).reading.isSome = true) := by
    show ¬((ringOf s sl n).reading.isSome = true)
    simp [hread]
  have htail : ¬(ringFetch (wordIssued (tick s now) sl n) sl n < (ringOf (tick s now) sl n).seen ∨
      (ringOf (tick s now) sl n).bursts ≠ []) := by
    rw [wordIssued_keeps]
    show ¬(ringFetch s sl n < (ringOf s sl n).seen ∨ (ringOf s sl n).bursts ≠ [])
    simp [hb, hseen]
  show execRingPoll sl n now s = _
  simp only [execRingPoll, hpart', h.settleXfer_tick, if_neg hgo]
  exact (if_neg hst').trans ((if_neg hread').trans (if_neg htail))

theorem ringPoll_gives (now : Nat) (hen : ringEn s sl n = true) (hst : ringStopped s sl n = false)
    (hpoll : max s.time now % rdF s (ringReg sl n + 0x08) 23 0 = 0) (hread : (ringOf s sl n).reading = none)
    (hseen : (ringOf s sl n).seen ≤ ringFetch s sl n) (hb : (ringOf s sl n).bursts = []) :
    Gives (.ringPoll sl n now) s (fun t =>
      (ringOf t sl n).reading = some (max s.time now) ∧ t.mem = s.mem ∧ t.win = s.win) := by
  refine ⟨_, exec_ringPoll h now hen hst hpoll hread hseen hb, ?_, ?_, ?_⟩
  · rw [ringOf_setRing, wordIssued_keeps]
    rfl
  all_goals
    rw [setRing, wordIssued_keeps]
    rfl

omit h in
theorem hostBytes_congr {t : State} (hm : t.mem = s.mem) (a k : Nat) : hostBytes t a k = hostBytes s a k := by
  simp only [hostBytes, getLoc, hm]

/-- The tail read is outstanding no more. -/
def tailReturned (s : State) (sl n : Nat) : State := setRing s sl n { ringOf s sl n with reading := none }

/-- The tail v, first seen at time since, is taken. -/
def tailTaken (s : State) (sl n v since : Nat) : State :=
  setRing s sl n { ringOf s sl n with seen := v, stamps := (ringOf s sl n).stamps ++ [(v, since)] }

omit h in
theorem ringOf_tailReturned (t : State) : ringOf (tailReturned t sl n) sl n = { ringOf t sl n with reading := none } := ringOf_setRing ..

omit h in
theorem ringOf_tailTaken (t : State) (v since : Nat) : ringOf (tailTaken t sl n v since) sl n =
    { ringOf t sl n with seen := v, stamps := (ringOf t sl n).stamps ++ [(v, since)] } := ringOf_setRing ..

/-- A tail in range is taken, where it is another than the last one, and new entries are fetched. -/
theorem exec_ringTailRead (now : Nat) {since v : Nat} (hen : ringEn s sl n = true) (hst : ringStopped s sl n = false)
    (hread : (ringOf s sl n).reading = some since) (hv : leNat (hostBytes s (rd64 s (ringReg sl n + 0x18)) 8) = v)
    (hlo : ringFetch s sl n ≤ v) (hhi : v ≤ ringHead s sl n + ringSize s sl n) :
    exec (.ringTailRead sl n now) s = .next (if v = (ringOf (tailReturned (tick s now) sl n) sl n).seen then
      tailReturned (tick s now) sl n
      else fetchOn (tailTaken (tailReturned (tick s now) sl n) sl n v since) sl n) := by
  obtain ⟨p, hpart⟩ := h.ringPart_eq
  have hpart' : ringPart (tick s now) sl = some p := hpart
  have hread' : (ringOf (tick s now) sl n).reading = some since := hread
  have hgo : ¬(ringEn (tailReturned (tick s now) sl n) sl n = false ∨ ringStopped (tailReturned (tick s now) sl n) sl n = true) := by
    show ¬(ringEn s sl n = false ∨ ringStopped s sl n = true)
    simp [hen, hst]
  have hv' : leNat (hostBytes (tailReturned (tick s now) sl n) (rd64 (tailReturned (tick s now) sl n) (ringReg sl n + 0x18)) 8) = v := by
    rw [hostBytes_congr (s := s) (t := tailReturned (tick s now) sl n) rfl]
    exact hv
  have hrange : ¬(v < ringFetch (tailReturned (tick s now) sl n) sl n ∨
      v > ringHead (tailReturned (tick s now) sl n) sl n + ringSize (tailReturned (tick s now) sl n) sl n) := by
    show ¬(v < ringFetch s sl n ∨ v > ringHead s sl n + ringSize s sl n)
    omega
  show execRingTailRead sl n now s = _
  simp only [execRingTailRead, hpart', hread', h.settleXfer_tick, ← tailReturned.eq_1, if_neg hgo, hv', if_neg hrange]
  split <;> rfl

theorem ringTailRead_gives (now : Nat) {since v : Nat} (hen : ringEn s sl n = true) (hst : ringStopped s sl n = false)
    (hread : (ringOf s sl n).reading = some since) (hv : leNat (hostBytes s (rd64 s (ringReg sl n + 0x18)) 8) = v)
    (hlo : ringFetch s sl n ≤ v) (hhi : v ≤ ringHead s sl n + ringSize s sl n) :
    Gives (.ringTailRead sl n now) s (fun t => (ringOf t sl n).reading = none ∧ (ringOf t sl n).seen = v ∧
      (ringOf t sl n).buf = (ringOf s sl n).buf ∧ t.mem = s.mem) := by
  refine ⟨_, exec_ringTailRead h now hen hst hread hv hlo hhi, ?_⟩
  split
  · next hseen =>
    refine ⟨?_, hseen.symm, ?_, rfl⟩
    · rw [ringOf_tailReturned]
    · rw [ringOf_tailReturned]
      rfl
  · have hf := fetched_fetchOn (tailTaken (tailReturned (tick s now) sl n) sl n v since) sl n
    obtain ⟨bs, hring⟩ := hf.ring
    rw [hring, ringOf_tailTaken, ringOf_tailReturned]
    exact ⟨rfl, rfl, rfl, hf.mem⟩

/-- A burst's entries join the buffer. -/
def burstTaken (s : State) (sl n : Nat) (es : List RingEntry) (bs : List (Nat × Nat)) : State :=
  setRing s sl n { ringOf s sl n with bursts := bs, buf := (ringOf s sl n).buf ++ es }

theorem exec_ringBurstArrive (now : Nat) {b : Nat × Nat} {bs : List (Nat × Nat)} (hb : (ringOf s sl n).bursts = b :: bs) :
    exec (.ringBurstArrive sl n now) s = .next (checkHead (fetchOn (burstTaken (tick s now) sl n
      ((rangeFrom b.1 b.2).map (arrivedEntry s sl n)) bs) sl n) sl n) := by
  obtain ⟨p, hpart⟩ := h.ringPart_eq
  have hpart' : ringPart (tick s now) sl = some p := hpart
  have hb' : (ringOf (tick s now) sl n).bursts = b :: bs := hb
  show execRingBurstArrive sl n now s = _
  simp only [execRingBurstArrive, hpart', hb', h.settleXfer_tick]
  rfl

theorem ringBurstArrive_gives (now : Nat) {b : Nat × Nat} {bs : List (Nat × Nat)} (hb : (ringOf s sl n).bursts = b :: bs) :
    Gives (.ringBurstArrive sl n now) s (fun t =>
      (ringOf t sl n).buf = (ringOf s sl n).buf ++ (rangeFrom b.1 b.2).map (arrivedEntry s sl n)) := by
  refine ⟨_, exec_ringBurstArrive h now hb, ?_⟩
  show (ringOf (checkHead _ sl n) sl n).buf = _
  rw [(headKept_checkHead _ sl n).buf, (fetched_fetchOn _ sl n).headKept.buf, burstTaken, ringOf_setRing]
  rfl

end

/-! ### Enable and resume (R208, R211) -/

theorem pageAt_ringPg : ∀ sl : Fin 8, pageAt (ringPg sl) = some ⟨.ring, sl / 2, sl % 2, ringPg sl⟩ := by decide +kernel

/-- CTL of ring n on the page of a partition's lowest slice. -/
theorem ringCtl_ringReg {s : State} {sl : Fin 8} {n : Fin 4} {p : Nat} (hown : partOfSlice s sl = some p) (hlow : lowSlice s p = sl) :
    ringCtl s (ringReg sl n) = some (sl.val, n.val, true) := by
  have halign : ringPg sl % 4096 = 0 := by
    simp only [ringPg, slPg, ctlPg]
    omega
  have hreg : ringReg sl n = ringPg sl + (0x100 + 0x40 * n) := by rw [ringReg, Nat.add_assoc]
  have hpage : pageAt (ringReg sl n) = some ⟨.ring, sl / 2, sl % 2, ringPg sl⟩ := by
    rw [hreg, pageAt_add halign (by omega), pageAt_ringPg]
  have hin : 0x100 ≤ ringReg sl n % 4096 ∧ ringReg sl n % 4096 < 0x200 ∧ ringReg sl n % 4096 % 0x40 = 0 := by omega
  have hidx : (ringReg sl n % 4096 - 0x100) / 0x40 = n := by omega
  have hsl : sliceOfPage ⟨.ring, sl / 2, sl % 2, ringPg sl⟩ = sl := Nat.div_add_mod sl.val 2
  have hplace : placeOk s ⟨.ring, sl / 2, sl % 2, ringPg sl⟩ .low = true := by
    simp only [placeOk, hsl, hown, hlow, beq_self_eq_true]
  rw [ringCtl, hpage]
  refine (if_pos ⟨rfl, hin⟩).trans ?_
  rw [hidx, hsl, hplace]

section
variable {r : RegWrite} {s : State} {sl : Fin 8} {n : Fin 4} {p : Nat} (hoff : r.off.toNat = ringReg sl n)
  (hown : partOfSlice s sl = some p) (hlow : lowSlice s p = sl)
include hoff hown hlow

theorem exec_ringEnWrite (hne : r.val.toNat.testBit 0 ≠ ringEn s sl n) : exec (.ringEnWrite r) s =
    .next (if r.val.toNat.testBit 0 then enableRing (tick s r.now) sl n else disableRing (tick s r.now) sl n) := by
  have hctl : ringCtl (tick s r.now) (ringReg sl n) = some (sl.val, n.val, true) := ringCtl_ringReg hown hlow
  show execRingEnWrite r s = _
  simp only [execRingEnWrite, hoff, hctl, Bool.true_eq_false, if_false]
  exact if_neg hne

theorem exec_ringResume (hb : r.val.toNat.testBit 1 = true) (hst : ringStopped s sl n = true) : exec (.ringResume r) s =
    .next (fetchOn (wrB (wr64 (setRing (tick s r.now) sl n { ringOf s sl n with buf := [], bursts := [] }) (ringReg sl n + 0x30)
      (ringHead s sl n)) (ringReg sl n + 0x0C) 0 false) sl n) := by
  have hctl : ringCtl (tick s r.now) (ringReg sl n) = some (sl.val, n.val, true) := ringCtl_ringReg hown hlow
  have hst' : ringStopped (tick s r.now) sl n = true := hst
  show execRingResume r s = _
  simp only [execRingResume, hoff, hctl, hb, hst', Bool.true_eq_false, or_self, if_false]
  rfl

end

theorem rd64_lt (s : State) (o : Nat) : rd64 s o < 2 ^ 64 := by
  have h1 : rd s o < 2 ^ 32 := BitVec.isLt _
  have h2 : rd s (o + 4) < 2 ^ 32 := BitVec.isLt _
  rw [rd64]
  omega

theorem ringHead_lt (s : State) (sl n : Nat) : ringHead s sl n < 2 ^ 64 := rd64_lt ..

/-- An enabled ring starts at its head (R211). -/
theorem enableRing_starts (s : State) (sl n : Nat) :
    ringEn (enableRing s sl n) sl n = true ∧ (ringOf (enableRing s sl n) sl n).seen = ringHead s sl n ∧
      ringFetch (enableRing s sl n) sl n = ringHead s sl n ∧ (enableRing s sl n).mem = s.mem := by
  refine ⟨rdB_wrB _ _ _ _ (by decide), ?_, ?_, ?_⟩
  · rw [enableRing, ringOf_congr ((wrB_rng ..).trans (wr64_rng ..)), ringOf_setRing]
  · rw [enableRing, ringFetch, wrB, wrF, rd64_wr_ne _ _ (by omega) (by omega), rd64_wr64 _ _ _ (ringHead_lt s sl n)]
  · rw [enableRing, wrB_mem, wr64_mem]
    rfl

theorem disableRing_stops (s : State) (sl n : Nat) :
    ringEn (disableRing s sl n) sl n = false ∧ (ringOf (disableRing s sl n) sl n).bursts = [] ∧ (disableRing s sl n).mem = s.mem := by
  refine ⟨rdB_wrB _ _ _ _ (by decide), ?_, ?_⟩
  · rw [disableRing, ringOf_congr (wrB_rng ..), ringOf_setRing]
  · rw [disableRing, wrB_mem]
    rfl

theorem ringResume_gives {r : RegWrite} {s : State} {sl : Fin 8} {n : Fin 4} {p : Nat} (hoff : r.off.toNat = ringReg sl n)
    (hown : partOfSlice s sl = some p) (hlow : lowSlice s p = sl) (hb : r.val.toNat.testBit 1 = true)
    (hst : ringStopped s sl n = true) :
    Gives (.ringResume r) s (fun t => ringStopped t sl n = false ∧ (ringOf t sl n).buf = [] ∧
      ringHead t sl n = ringHead s sl n ∧ t.mem = s.mem) := by
  refine ⟨_, exec_ringResume hoff hown hlow hb hst, ?_⟩
  generalize hu : wr64 _ (ringReg sl n + 0x30) _ = u
  have hhead : ringHead u sl n = ringHead s sl n := by
    rw [← hu, ringHead, rd64, rd_wr64_ne _ _ (by omega) (by omega), rd_wr64_ne _ _ (by omega) (by omega)]
    rfl
  have hbuf : (ringOf u sl n).buf = [] := by rw [← hu, ringOf_congr (wr64_rng ..), ringOf_setRing]
  have hmem : u.mem = s.mem := by
    rw [← hu, wr64_mem]
    rfl
  have hf := fetched_fetchOn (wrB u (ringReg sl n + 0x0C) 0 false) sl n
  have hkept := (headKept_wr u sl n _ (x := 0x0C) (by decide)).trans hf.headKept
  refine ⟨?_, hkept.buf.trans hbuf, hkept.head.trans hhead, hf.mem.trans ((wrB_mem ..).trans hmem)⟩
  rw [ringStopped, rdB_of_rdW (hf.regs _ (by omega) (by omega)), rdB_wrB _ _ _ _ (by decide)]

/-- Settles O33: each entry begins, goes on or expires as runEntry has it, and completes as completeEntry does; polling, fetching and the
ring's registers are one equation each. -/
theorem commandRings : Obligations.CommandRings := by
  refine ⟨fun _ _ _ _ _ _ h hb => ringNop_gives h hb, fun _ _ _ _ _ _ _ h hb his => ringStart_gives h hb his, ?_,
    fun _ _ _ _ _ _ h hb hin hpr => ringWrite_gives h hb hin hpr, fun _ _ _ _ _ _ h hb hin => ringWaitWord_gives h hb hin, ?_,
    fun _ _ _ _ _ _ _ h hr hw hin hc => waitWordRead_holds h hr hw hin hc,
    fun _ _ _ _ _ _ _ h hr hw hc => waitWordRead_again h hr hw hc,
    fun _ _ _ _ _ _ h hr hw hd hlate => waitWordTimeout_gives h hr hw hd hlate,
    fun _ _ _ _ _ _ h hi hen hst hdue hlate => ringNop_expires h hi hen hst hdue hlate,
    fun _ _ now _ h hen hst hpoll hread hseen hb => ringPoll_gives h now hen hst hpoll hread hseen hb,
    ?_,
    fun _ _ now _ _ _ h hb => ringBurstArrive_gives h now hb, ?_,
    fun _ _ _ _ _ hoff hown hlow hb hst => ringResume_gives hoff hown hlow hb hst⟩
  · intro sl n now s p e tile h hb hi ht hroom htags b hop hv hp hmem hcode
    exact ringXfer_gives h hb hi ht hroom htags hop hv hp hmem hcode
  · intro sl n now s p e is h hb his
    refine ⟨fun hq => ⟨_, exec_ringWaitIdle h hb his, ?_⟩, fun ⟨i, hi, tile, ht, hq⟩ => ⟨_, exec_ringWaitIdle h hb his, ?_⟩⟩
    · rw [if_pos (List.all_eq_true.2 fun i hi => quietAt_iff.2 (hq i hi))]
      exact (h.completed_tick now 0).done
    · have hnot : ¬ is.all (quietAt s p) = true := fun hall => by
        have := quietAt_iff.1 (List.all_eq_true.1 hall i hi) tile ht
        simp [hq] at this
      rw [if_neg hnot]
      obtain ⟨hrun, hhead, -⟩ := beginEntry_runs s now sl n
      exact ⟨hrun, hhead⟩
  · intro sl n now s since h hen hst hread v hlo hhi
    exact ringTailRead_gives h now hen hst hread (v := v) rfl hlo hhi
  · intro r s sl n p hoff hown hlow
    refine ⟨fun hb hen => ⟨_, exec_ringEnWrite hoff hown hlow (by simp [hb, hen]), ?_⟩,
      fun hb hen => ⟨_, exec_ringEnWrite hoff hown hlow (by simp [hb, hen]), ?_⟩⟩
    · rw [if_pos hb]
      exact enableRing_starts (tick s r.now) sl n
    · rw [if_neg (by simp [hb])]
      exact disableRing_stops (tick s r.now) sl n

end Sys2Proof.Machine
end

section
/-!
What an HBM controller does by itself (10_hbm4_memory.md R244, R253, R266, R268 to R270, R272): O16.
-/
namespace Sys2Proof.Machine

/-! ### Counters and injections (R458, R477) -/

/-- A counter that held what it held in s counts one event more. -/
theorem counted_inc_of_rd {s u : State} {o : Nat} (h : rd u o = rd s o) : Counted s (inc u o) o 1 := by
  rw [Counted, inc, incBy, rd_wr_same, h]
  omega

theorem rdW_inc_ne (s : State) {o o' : Nat} (h : o' ≠ o) : rdW (inc s o) o' = rdW s o' := rdW_wr_ne _ _ h

theorem windowOnly_inc (s : State) (o : Nat) : WindowOnly s (inc s o) := windowOnly_wr ..

/-- While ARM is 0 no event is injected. -/
theorem injectEvent_notArmed {s : State} {pg : Nat} (h : notArmed s pg) (sites : List Nat) : injectEvent s pg sites = (none, s) := by
  have hbit : (rd s (pg + hInj)).testBit 31 = false := h
  simp only [injectEvent, hbit, Bool.false_and, Bool.false_eq_true, if_false]

/-! ### Windows and refresh (R244, R253, R266) -/

theorem windowOnly_countCaps (l : List (Nat × Nat)) : ∀ s, WindowOnly s (countCaps s l) := by
  induction l with
  | nil => exact WindowOnly.refl
  | cons c l ih =>
    intro s
    obtain ⟨ctl, cls⟩ := c
    rw [countCaps]
    refine WindowOnly.trans ?_ (ih _)
    split
    · exact windowOnly_inc ..
    · exact .refl s

/-- Every class of every controller, looked at for its cap. -/
def capsCounted (s : State) : State := countCaps s ((List.range 32).map (fun c => (List.range 3).map (fun k => (c, k)))).flatten

/-- A new window: no allowance is used, and no activation granted. -/
def windowRenewed (s : State) : State :=
  { s with mem := { s.mem with used := [],
                               chans := (s.mem.chans.map (fun p => (p.1, { p.2 with grants := [0, 0, 0] }))).filter
                                 (fun p => p.2 != ({} : PseudoChan)) } }

theorem grants_windowRenewed (s : State) : ∀ c ∈ (windowRenewed s).mem.chans, c.2.grants = [0, 0, 0] := by
  intro c hc
  obtain ⟨x, -, rfl⟩ := List.mem_map.1 (List.mem_filter.1 hc).1
  rfl

theorem ops_windowRenewed (s : State) : (windowRenewed s).mem.ops = s.mem.ops := rfl

theorem hbm_windowRenewed (s : State) : (windowRenewed s).mem.hbm = s.mem.hbm := rfl

theorem exec_hbmWindowStart (now : Nat) (s : State) :
    exec (.hbmWindowStart now) s = .next (windowRenewed (capsCounted (tick s now))) := by
  show execHbmWindowStart now s = _
  simp only [execHbmWindowStart, capsCounted, windowRenewed]

theorem hbmWindowStart_gives (now : Nat) (s : State) : Gives (.hbmWindowStart now) s (fun t =>
    t.mem.used = [] ∧ (∀ c ∈ t.mem.chans, c.2.grants = [0, 0, 0]) ∧ t.mem.ops = s.mem.ops ∧ t.mem.hbm = s.mem.hbm) := by
  have hcaps : (capsCounted (tick s now)).mem = (tick s now).mem := (windowOnly_countCaps ..).mem_eq
  refine ⟨_, exec_hbmWindowStart now s, rfl, grants_windowRenewed _, ?_⟩
  rw [ops_windowRenewed, hbm_windowRenewed, hcaps, tick_mem]
  exact ⟨rfl, rfl⟩

theorem rowOf_setRow (s : State) (ctl pc bank : Nat) (r : Option Nat) : rowOf (setRow s ctl pc bank r) ctl pc bank = r := by
  simp [rowOf, setRow]

theorem exec_hbmRefresh (ctl : Fin 32) (pc bank : Fin 64) (now : Nat) (s : State) :
    exec (.hbmRefresh ctl pc bank now) s = .next (inc (setRow (tick s now) ctl pc bank none) (ctlPg ctl 0 + 0x144)) := rfl

theorem hbmRefresh_gives (ctl : Fin 32) (pc bank : Fin 64) (now : Nat) (s : State) : Gives (.hbmRefresh ctl pc bank now) s (fun t =>
    rowOf t ctl pc bank = none ∧ Counted s t (ctlPg ctl 0 + 0x144) 1 ∧ t.mem.hbm = s.mem.hbm) := by
  refine ⟨_, exec_hbmRefresh ctl pc bank now s, ?_, counted_inc_of_rd rfl, ?_⟩
  · rw [rowOf, inc_mem]
    exact rowOf_setRow ..
  · rw [inc_mem]
    rfl

/-! ### Patrol scrub (R266) -/

/-- A corrected error is counted and signalled, and nothing but the window changes. -/
theorem hbmErrNote_corrected (s : State) (ctl q sect : Nat) :
    WindowOnly s (hbmErrNote s ctl 1 q sect) ∧ Counted s (hbmErrNote s ctl 1 q sect) (ctlPg ctl 0 + 0x150) 1 ∧
      rdB (hbmErrNote s ctl 1 q sect) (ctlPg ctl 0 + hIntStat) 0 = true := by
  have hlatch {x : Nat} (h1 : x ≠ hStat) (h2 : x ≠ hErrSyn) (h3 : x ≠ hErrLo) (h4 : x ≠ hErrLo + 4) :
      rdW (hbmErrNote s ctl 1 q sect) (ctlPg ctl 0 + x) =
        rdW (inc (intSet s (ctlPg ctl 0) 1) (ctlPg ctl 0 + 0x150)) (ctlPg ctl 0 + x) :=
    latchBlk_get _ _ _ _ (by omega) (by omega) (by omega) (by omega)
  refine ⟨((windowOnly_intSet ..).trans (windowOnly_inc ..)).trans (windowOnly_latchErr ..), ?_, ?_⟩
  · rw [Counted, rd_of_rdW (hlatch (by decide) (by decide) (by decide) (by decide))]
    exact counted_inc_of_rd (rd_of_rdW (rdW_intSet_ne _ _ (by simp only [hIntStat]; omega)))
  · rw [rdB_of_rdW (hlatch (by decide) (by decide) (by decide) (by decide)),
      rdB_of_rdW (rdW_inc_ne _ (by simp only [hIntStat]; omega))]
    exact intSet_bit s _ 0 (by decide)

theorem hbmEcc_notArmed {s : State} {ctl : Nat} (h : notArmed s (ctlPg ctl 0)) (e : Ecc) : hbmEcc s ctl e = (e, s) := by
  rw [hbmEcc, injectEvent_notArmed h]

/-- A scrub that meets a corrected error does no more than note it. -/
theorem exec_patrolScrub_corrected {ctl : Fin 32} {sector a now : Nat} {s : State} (hen : rdB s (ctlPg ctl 0 + 0x100) 1 = true)
    (harm : notArmed s (ctlPg ctl 0)) :
    exec (.patrolScrub ctl sector (.corrected a) now) s = .next (hbmErrNote (tick s now) ctl 1 (sector / 8) (sector % 8)) := by
  have hecc : hbmEcc (tick s now) ctl (.corrected a) = (.corrected a, tick s now) := hbmEcc_notArmed (s := tick s now) harm _
  have hen' : rdB (tick s now) (ctlPg ctl 0 + 0x100) 1 = true := hen
  show execPatrolScrub ctl sector (.corrected a) now s = _
  simp only [execPatrolScrub, hen', if_true, hecc]

/-! ### Heat (R272) -/

/-- The STATE that goes with a reading and a SCALE: 3 in a trip, 2 slowed, 1 above 85 °C. -/
def heatState (temp sc : Nat) : Nat := if sc = 0 then 3 else if sc < 16 then 2 else if temp > 85 then 1 else 0

theorem heatState_lt (temp sc : Nat) : heatState temp sc < 4 := by
  rw [heatState]
  repeat' split
  all_goals omega

/-- SCALE stays within its five bits. -/
theorem nextScale_lt {scale : Nat} (h : scale < 32) (temp hot cool : Nat) (trip : Bool) : nextScale scale temp hot cool trip < 32 := by
  rw [nextScale]
  repeat' split
  all_goals omega

/-- SCALE after a reading. -/
def heatScale (s : State) (ctl temp : Nat) : Nat :=
  nextScale (rdF s (ctlPg ctl 0 + 0x10C) 12 8) temp (rdF s (ctlPg ctl 0 + 0x110) 15 8) (rdF s (ctlPg ctl 0 + 0x110) 7 0)
    (rdB s (ctlPg ctl 0 + 0x104) 15)

/-- The reading, its SCALE and its STATE are held. -/
def heatHeld (s : State) (ctl temp : Nat) : State :=
  wr s (ctlPg ctl 0 + 0x10C) (temp % 256 * 2 ^ 16 + heatScale s ctl temp * 2 ^ 8 + heatState temp (heatScale s ctl temp))

/-- The trip bit follows SCALE. -/
def tripHeld (s : State) (ctl temp : Nat) : State :=
  wrB (heatHeld s ctl temp) (ctlPg ctl 0 + 0x104) 15 (decide (heatScale s ctl temp = 0))

/-- Below 95 °C no trip begins. -/
theorem stackHeat_below_trip {s : State} {ctl temp : Nat} (h : temp < 95) :
    stackHeat s ctl temp = if heatScale s ctl temp < 16 then
      inc (intSet (tripHeld s ctl temp) (ctlPg ctl 0) 4) (ctlPg ctl 0 + 0x158) else tripHeld s ctl temp := by
  have hcool : decide (temp ≥ 95) = false := decide_eq_false (by omega)
  have hstate : (if decide (heatScale s ctl temp = 0) = true then 3 else if heatScale s ctl temp < 16 then 2
      else if temp > 85 then 1 else 0) = heatState temp (heatScale s ctl temp) := by
    simp only [heatState, decide_eq_true_eq]
  simp only [stackHeat, hcool, Bool.and_false, Bool.false_eq_true, if_false, ← heatScale.eq_1, hstate]
  rfl

theorem stackHeat_keeps {s : State} {ctl temp : Nat} (h : temp < 95) :
    WindowOnly s (stackHeat s ctl temp) ∧
      rdW (stackHeat s ctl temp) (ctlPg ctl 0 + 0x10C) = rdW (heatHeld s ctl temp) (ctlPg ctl 0 + 0x10C) := by
  have hw : WindowOnly s (tripHeld s ctl temp) := (windowOnly_wr ..).trans (windowOnly_wrB ..)
  have hr : rdW (tripHeld s ctl temp) (ctlPg ctl 0 + 0x10C) = rdW (heatHeld s ctl temp) (ctlPg ctl 0 + 0x10C) :=
    rdW_wr_ne _ _ (by omega)
  rw [stackHeat_below_trip h]
  split
  · refine ⟨(hw.trans (windowOnly_intSet ..)).trans (windowOnly_inc ..), ?_⟩
    rw [rdW_inc_ne _ (by omega), rdW_intSet_ne _ _ (by simp only [hIntStat]; omega), hr]
  · exact ⟨hw, hr⟩

/-- The fields of the reading and of SCALE do not meet. -/
theorem rdF_heatHeld {s : State} {ctl temp : Nat} (h : temp < 256) :
    rdF (heatHeld s ctl temp) (ctlPg ctl 0 + 0x10C) 23 16 = temp ∧
      rdF (heatHeld s ctl temp) (ctlPg ctl 0 + 0x10C) 12 8 = heatScale s ctl temp := by
  have hsc : heatScale s ctl temp < 32 := nextScale_lt (bitsOf_lt _ 12 8) ..
  have hst := heatState_lt temp (heatScale s ctl temp)
  simp only [rdF, heatHeld, rd_wr_same, bitsOf, Nat.shiftRight_eq_div_pow]
  omega

theorem hbmThermalRead_gives {ctl : Fin 32} {temp now : Nat} {s : State} (h : temp < 95) (harm : notArmed s (ctlPg ctl 0)) :
    Gives (.hbmThermalRead ctl temp now) s (fun t =>
      rdF t (ctlPg ctl 0 + 0x10C) 23 16 = temp ∧ rdF t (ctlPg ctl 0 + 0x10C) 12 8 = heatScale s ctl temp ∧ t.mem = s.mem) := by
  have hinj : injectEvent (tick s now) (ctlPg ctl 0) [7] = (none, tick s now) := injectEvent_notArmed (s := tick s now) harm _
  have hexec : exec (.hbmThermalRead ctl temp now) s = .next (stackHeat (tick s now) ctl temp) := by
    show execHbmThermalRead ctl temp now s = _
    simp only [execHbmThermalRead, hinj]
  obtain ⟨hw, hr⟩ := stackHeat_keeps (s := tick s now) (ctl := ctl) h
  obtain ⟨htemp, hscale⟩ := rdF_heatHeld (s := tick s now) (ctl := ctl) (temp := temp) (by omega)
  exact ⟨_, hexec, (rdF_of_rdW hr ..).trans htemp, (rdF_of_rdW hr ..).trans hscale, hw.mem_eq⟩

/-! ### Training (R268 to R270) -/

theorem setNotch_keeps (s : State) (ctl : Nat) {n : Nat} (hn : n < 4) :
    WindowOnly s (setNotch s ctl n) ∧ rdF (setNotch s ctl n) (ctlPg ctl 0 + 0x104) 13 12 = n := by
  rw [setNotch]
  split
  · next h => exact ⟨.refl s, h⟩
  · refine ⟨(windowOnly_wr ..).trans (windowOnly_intSet ..), ?_⟩
    rw [rdF_of_rdW (rdW_intSet_ne _ _ (by simp only [hIntStat]; omega)), rdF_wrF _ _ _ _ _ (by decide) (by decide)]
    exact Nat.mod_eq_of_lt hn

/-- The PHY tracks, from the temperature of its training on (R270). -/
def tracked (s : State) (ctl : Nat) : State :=
  wrF (wrF s (ctlPg ctl 6 + 0x100) 31 28 2) (ctlPg ctl 6 + 0x108) 23 16 (rdF s (ctlPg ctl 0 + 0x10C) 23 16)

theorem windowOnly_tracked (s : State) (ctl : Nat) : WindowOnly s (tracked s ctl) := (windowOnly_wr ..).trans (windowOnly_wr ..)

theorem rdW_tracked (s : State) (ctl : Nat) {x : Nat} (hx : x < 4096) :
    rdW (tracked s ctl) (ctlPg ctl 0 + x) = rdW s (ctlPg ctl 0 + x) := by
  rw [tracked, wrF, rdW_wr_ne _ _ (by simp only [ctlPg]; omega), wrF, rdW_wr_ne _ _ (by simp only [ctlPg]; omega)]

/-- The controller admits again. -/
def admitsAgain (s : State) (ctl : Nat) : State :=
  { s with mem := { s.mem with paused := cSet (fun _ => false) s.mem.paused ctl false } }

theorem paused_admitsAgain (s : State) (ctl : Nat) : cGet (fun _ => false) (admitsAgain s ctl).mem.paused ctl = false := by
  simp [admitsAgain]

theorem hbm_admitsAgain (s : State) (ctl : Nat) : (admitsAgain s ctl).mem.hbm = s.mem.hbm := rfl

theorem rdW_admitsAgain (s : State) (ctl o : Nat) : rdW (admitsAgain s ctl) o = rdW s o := rfl

theorem exec_hbmRetrainDone_trained (ctl : Fin 32) (now : Nat) (s : State) : exec (.hbmRetrainDone ctl .trained now) s =
    .next (admitsAgain (tracked (setNotch (tick s now) ctl (rdF s (ctlPg ctl 0 + 0x108) 1 0)) ctl) ctl) := by
  show execHbmRetrainDone ctl .trained now s = _
  simp only [execHbmRetrainDone, admitsAgain, tracked]
  rfl

/-- Training that succeeds sets the notch requested, and the operations held go on. -/
theorem hbmRetrainDone_trained_gives (ctl : Fin 32) (now : Nat) (s : State) : Gives (.hbmRetrainDone ctl .trained now) s (fun t =>
    rdF t (ctlPg ctl 0 + 0x104) 13 12 = rdF s (ctlPg ctl 0 + 0x108) 1 0 ∧
    cGet (fun _ => false) t.mem.paused ctl = false ∧ t.mem.hbm = s.mem.hbm) := by
  obtain ⟨hw, hnotch⟩ := setNotch_keeps (tick s now) ctl (n := rdF s (ctlPg ctl 0 + 0x108) 1 0) (bitsOf_lt _ 1 0)
  refine ⟨_, exec_hbmRetrainDone_trained ctl now s, ?_, paused_admitsAgain .., ?_⟩
  · rw [rdF_of_rdW ((rdW_admitsAgain ..).trans (rdW_tracked _ ctl (by decide))), hnotch]
  · rw [hbm_admitsAgain, (windowOnly_tracked ..).mem_eq, hw.mem_eq, tick_mem]

/-- Settles O16: one lemma for each of the six commands. -/
theorem hbmUpkeep : Obligations.HbmUpkeep := by
  refine ⟨hbmWindowStart_gives, hbmRefresh_gives, fun ctl sector a now s hen harm => ?_,
    fun ctl temp now s h harm => hbmThermalRead_gives h harm, fun ctl now s => ⟨_, rfl, counted_inc .., rfl⟩,
    hbmRetrainDone_trained_gives⟩
  obtain ⟨hw, hcount, hint⟩ := hbmErrNote_corrected (tick s now) ctl (sector / 8) (sector % 8)
  exact ⟨_, exec_patrolScrub_corrected hen harm, hcount, hint, hw.mem_eq⟩

end Sys2Proof.Machine
end

section
/-!
BLW.DESC as the tile issues it (07_tile_operations.md R192; 09_bellows.md R227 to R231): a descriptor that reads clean and is valid is
taken under a fresh number.
-/
namespace Sys2Proof.Machine

theorem descsOf_setDescs (s : State) (t : Nat) (l : List BDesc) : descsOf (setDescs s t l) t = l := by simp [descsOf, setDescs]

/-- The first byte of a descriptor is its OP. -/
theorem dsOp_seeBytes (s : State) (t : Nat) (k : Option (Fin 4)) (a : Nat) : dsOp (seeBytes s t k a 32) = (seeByte s t k a).toNat := by
  simp [dsOp, slice, seeBytes, rangeFrom, leNat]

/-- A clean read of scratchpad meets nothing. -/
theorem spadEcc_clean {s : State} {t : Nat} (h : notArmed s (tilePg t 5)) (rs : List (Nat × Nat)) :
    spadEcc s t rs .clean = (.clean, s) := by
  rw [spadEcc, injectEvent_notArmed h]

/-- The operation has its number, which D awaits. -/
def descBegun (i : Issue) (s : State) : State :=
  addPend (freshBlw (i.here s)).2 i.tile i.thr (fD i.w) (markBlw s.blw.nextId)

/-- The descriptor that the operation hands to Bellows. -/
def issuedDesc (i : Issue) (s : State) : BDesc :=
  dsMake (descBytes i s) s.blw.nextId (descAt i s) (max s.time i.now) (some (i.thr, (i.thread s).gen, fD i.w)) none none

theorem pendOf_descBegun (i : Issue) (s : State) : pendOf (descBegun i s) i.tile i.thr (fD i.w) = markBlw s.blw.nextId := by
  simp [descBegun, addPend, setPend, pendOf]

theorem blwDesc_ready {mn : String} {op : Nat} {i : Issue} {s : State} (h : DescReady op i s)
    (htags : op ≠ 5 → blwTags s i.tile < 96) :
    blwDesc mn op i s = .next (i.retired s (acceptDesc (descBegun i s) i.tile (descBytes i s) false (issuedDesc i s))) := by
  obtain ⟨hready, ⟨hin, halign⟩, htask, hop, hvalid, hclean, harm, hroom⟩ := h
  have hsame : (seeByte s i.tile (i.task s) (descAt i s)).toNat = op := (dsOp_seeBytes ..).symm.trans hop
  have hrow : blwDesc mn op i s = issueOp mn 4 0x01 _ _ i s _ := if_neg fun ⟨_, _, _, _, _, _, _, _, _, hne⟩ => hne hsame
  have hecc : spadEcc (i.here s) i.tile [(descAt i s, 32)] .clean = (.clean, i.here s) := spadEcc_clean (s := i.here s) harm _
  have hin' : badRange (i.here s) i.tile (descAt i s) 32 = false := hin
  have htask' : (thrOf s i.tile i.thr).task = none := htask
  have hroom' : ¬ (descsOf (i.here s) i.tile).length ≥ 32 := Nat.not_le.2 hroom
  have htags' : ¬ (op ≠ 5 ∧ blwTags (i.here s) i.tile ≥ 96) := fun hf => absurd (htags hf.1) (Nat.not_lt.2 hf.2)
  have hvalid' : dsValid (i.here s) i.tile (descBytes i s) = true := hvalid
  have hbytes : seeBytes (i.here s) i.tile none (descAt i s) 32 = descBytes i s := by rw [descBytes, htask]; rfl
  rw [hrow, issueOp_ready hready rfl]
  simp only [OpCtx.task, xreg_tick, thrOf_tick, ← descAt.eq_1, hin', halign, hclean, hecc, htask', if_neg hroom', if_neg htags', hbytes]
  simp only [hvalid', Bool.false_eq_true, if_false, ne_eq, not_true_eq_false, Option.isSome_none, false_and, Bool.not_false,
    Bool.and_self, if_true, shadowAll_none]
  rfl

/-! ### Transfers of the thread (R228 to R231, R235) -/

/-- Code is no obstacle to a WRITE_BACK, which changes no scratchpad (R154, R229). -/
theorem acceptDesc_writeBack {s : State} {t p : Nat} {b : List Byte} {d : BDesc} (hv : dsValid s t b = true) (hk : d.kind = .writeBack)
    (hp : partOfTile s t = some p) (hmem : badPiece s p d.pieces = none) :
    acceptDesc s t b false d = setDescs s t (descsOf s t ++ [d]) := by
  have hv' : dsValid (setDescs s t (descsOf s t ++ [d])) t b = true := hv
  have hp' : partOfTile (setDescs s t (descsOf s t ++ [d])) t = some p := hp
  have hmem' : badPiece (setDescs s t (descsOf s t ++ [d])) p d.pieces = none := hmem
  have hnone : d.pieces.find? (fun _ => false) = none := List.find?_eq_none.2 fun _ _ => Bool.false_ne_true
  simp only [acceptDesc, hv', hp', hmem', hk, bne_self_eq_false, Bool.false_and, hnone, reduceCtorEq, Bool.false_eq_true,
    Bool.true_eq_false, if_false]

theorem issuedDesc_pieces {i : Issue} {s : State} (h : dsOp (descBytes i s) = 1 ∨ dsOp (descBytes i s) = 2 ∨ dsOp (descBytes i s) = 3) :
    (issuedDesc i s).pieces = dsPieces (descBytes i s) := by
  obtain ⟨hgather, hdrain⟩ := dsKind_ring h
  simp [issuedDesc, dsMake, hgather, hdrain]

/-- A GATHER's requests are made when its list has been read. -/
theorem issuedDesc_gather {i : Issue} {s : State} (h : dsOp (descBytes i s) = 4) :
    (issuedDesc i s).kind = .gather ∧ (issuedDesc i s).pieces = [] := by
  simp [issuedDesc, dsMake, dsKind, h]

theorem acceptDesc_issued {op : Nat} {i : Issue} {s : State} {p : Nat} (h : DescReady op i s) (hop : 1 ≤ op ∧ op ≤ 4)
    (hp : partOfTile s i.tile = some p) (hmem : op ≠ 4 → badPiece s p (dsPieces (descBytes i s)) = none)
    (hcode : op ≤ 2 → ∀ x ∈ dsPieces (descBytes i s), rangeHitsCode s i.tile none x.spad x.len = false) :
    acceptDesc (descBegun i s) i.tile (descBytes i s) false (issuedDesc i s) =
      setDescs (descBegun i s) i.tile (descsOf s i.tile ++ [issuedDesc i s]) := by
  have hv : dsValid (descBegun i s) i.tile (descBytes i s) = true := h.valid
  have hp' : partOfTile (descBegun i s) i.tile = some p := hp
  have hcases : op ≤ 2 ∨ op = 3 ∨ op = 4 := by omega
  rcases hcases with hlow | rfl | rfl
  · have hd : dsOp (descBytes i s) = 1 ∨ dsOp (descBytes i s) = 2 ∨ dsOp (descBytes i s) = 3 := by
      have := h.code
      omega
    have hpieces := issuedDesc_pieces hd
    exact acceptDesc_stays hv (dsKind_ring hd).2 hp' (hpieces ▸ hcode hlow) (hpieces ▸ hmem (by omega))
  · have hk : (issuedDesc i s).kind = .writeBack := by simp [issuedDesc, dsMake, dsKind, h.code]
    exact acceptDesc_writeBack hv hk hp' (issuedDesc_pieces (.inr (.inr h.code)) ▸ hmem (by decide))
  · obtain ⟨hk, hpieces⟩ := issuedDesc_gather h.code
    exact acceptDesc_stays hv (by simp [hk]) hp' (by simp [hpieces]) (by simp [hpieces, badPiece])

theorem transfer_gives {c : Issue → Instr} {mn : String} {op : Nat} {i : Issue} {s : State} {p : Nat}
    (hc : exec (c i) s = blwDesc mn op i s) (h : DescReady op i s) (hop : 1 ≤ op ∧ op ≤ 4) (htags : blwTags s i.tile < 96)
    (hp : partOfTile s i.tile = some p) (hmem : op ≠ 4 → badPiece s p (dsPieces (descBytes i s)) = none)
    (hcode : op ≤ 2 → ∀ x ∈ dsPieces (descBytes i s), rangeHitsCode s i.tile none x.spad x.len = false) :
    Gives (c i) s (fun t => descsOf t i.tile = descsOf s i.tile ++ [issuedDesc i s] ∧
      pendOf t i.tile i.thr (fD i.w) ≠ 0 ∧ (i.thread t).pc = BitVec.ofNat 32 (pcOf i s + 8) ∧
      t.tl.spad = s.tl.spad ∧ t.tl.tags = s.tl.tags ∧ t.tl.xr = s.tl.xr ∧ t.mem = s.mem) := by
  have hexec := blwDesc_ready (mn := mn) h fun _ => htags
  rw [acceptDesc_issued h hop hp hmem hcode, ← hc] at hexec
  refine ⟨_, hexec, ?_, ?_, ?_, retire_tl_spad .., retire_tl_tags .., retire_tl_xr .., retire_mem ..⟩
  · rw [descsOf, retire_blw]
    exact descsOf_setDescs ..
  · rw [pendOf_retire]
    show pendOf (descBegun i s) i.tile i.thr (fD i.w) ≠ 0
    rw [pendOf_descBegun, markBlw]
    omega
  · rw [Issue.thread, retire_thr]

end Sys2Proof.Machine
end

section
/-!
The completion of a descriptor (09_bellows.md R234, R239, R241, R242): the status that reaches its thread, and what completions leave of
scratchpad, memory and the prefetch window.
-/
namespace Sys2Proof.Machine

/-! ### Status OK to the thread (R193, R241) -/

theorem xreg_wakeFences (s : State) (t t' th r : Nat) : xreg (wakeFences s t) t' th r = xreg s t' th r := rfl

/-- Status OK reaches the register that awaits it, in the run that issued the operation. -/
theorem completeDesc_ok {s : State} {t th gen r : Nat} {d : BDesc} (hthr : d.thr = some (th, gen, r)) (hring : d.ring = none)
    (hgen : (thrOf s t th).gen = gen) (hpend : pendOf s t th r = markBlw d.id) :
    completeDesc s t d 0 0 =
      wakeFences (setXreg (setDescs s t ((descsOf s t).filter (fun x => x.id != d.id))) t th r 0) t := by
  have hlate (l : List BDesc) : lateWrite (setDescs s t l) t th gen r (markBlw d.id) (statusWord 0 0) =
      setXreg (setDescs s t l) t th r 0 := if_pos ⟨hgen, hpend⟩
  simp only [completeDesc, reportDesc, hthr, hring, hlate, if_true]

/-- A place given last is given back: the others are the tile's descriptors as before. -/
theorem filter_append_ne {l : List BDesc} {d : BDesc} (h : ∀ x ∈ l, x.id ≠ d.id) : (l ++ [d]).filter (fun x => x.id != d.id) = l := by
  simp only [List.filter_append, List.filter_cons, bne_self_eq_false, Bool.false_eq_true, if_false, List.filter_nil, List.append_nil]
  exact List.filter_eq_self.2 fun x hx => by simp [h x hx]

/-! ### DRAIN of a tile (R241) -/

theorem acceptDesc_drain {s : State} {t : Nat} {b : List Byte} {d : BDesc} (hv : dsValid s t b = true) (hk : d.kind = .drain) :
    acceptDesc s t b false d = settleDrains t [d] (setDescs s t (descsOf s t ++ [d])) := by
  have hv' : dsValid (setDescs s t (descsOf s t ++ [d])) t b = true := hv
  simp only [acceptDesc, hv', hk, if_true, Bool.false_eq_true, Bool.true_eq_false, if_false]

/-- With no write of the tile on its way, every write accepted earlier has completed. -/
theorem locallyDrained_of_no_write {s : State} {t : Nat} {d : BDesc} (h : ∀ x ∈ descsOf s t, x.kind ≠ .writeBack ∧ x.kind ≠ .push) :
    locallyDrained s t d = true := by
  rw [locallyDrained, Bool.not_eq_true', List.any_eq_false]
  intro x hx
  simp [h x hx]

theorem settleDrains_tile {s : State} {t : Nat} {d : BDesc} (hk : d.kind = .drain) (hat : d.atDrain = false) (hscope : d.scope = false)
    (hloc : locallyDrained s t d = true) : settleDrains t [d] s = completeDrain s t d 0 := by
  simp only [settleDrains, hk, hat, hloc, hscope, and_self, if_true]

/-- The issued DRAIN is among the tile's descriptors. -/
def drainTaken (i : Issue) (s : State) : State := setDescs (descBegun i s) i.tile (descsOf s i.tile ++ [issuedDesc i s])

/-- The DRAIN is counted, with no wait. -/
def drainCounted (i : Issue) (s : State) : State :=
  incBy (inc (drainTaken i s) (blwTPg i.tile + 0x134)) (blwTPg i.tile + 0x138) 0

theorem drainCounted_tl (i : Issue) (s : State) : (drainCounted i s).tl = (descBegun i s).tl := by
  rw [drainCounted, incBy_tl, inc_tl]
  rfl

theorem descsOf_drainCounted (i : Issue) (s : State) :
    descsOf (drainCounted i s) i.tile = descsOf s i.tile ++ [issuedDesc i s] := by
  rw [descsOf, drainCounted, incBy_blw, inc_blw]
  exact descsOf_setDescs ..

theorem exec_drain {i : Issue} {s : State} (h : DescReady 5 i s) (hscope : (dsFlags (descBytes i s)).testBit 2 = false)
    (hquiet : ∀ d ∈ descsOf s i.tile, d.kind ≠ .writeBack ∧ d.kind ≠ .push ∧ d.id ≠ s.blw.nextId) :
    exec (.drain i) s = .next (i.retired s (wakeFences (setXreg (setDescs (drainCounted i s) i.tile (descsOf s i.tile))
      i.tile i.thr (fD i.w) 0) i.tile)) := by
  have hk : (issuedDesc i s).kind = .drain := by simp [issuedDesc, dsMake, dsKind, h.code]
  have hdescs : descsOf (drainTaken i s) i.tile = descsOf s i.tile ++ [issuedDesc i s] := descsOf_setDescs ..
  have hloc : locallyDrained (drainTaken i s) i.tile (issuedDesc i s) = true := by
    refine locallyDrained_of_no_write fun x hx => ?_
    rw [hdescs, List.mem_append, List.mem_singleton] at hx
    rcases hx with hx | rfl
    · obtain ⟨hw, hp, -⟩ := hquiet x hx
      exact ⟨hw, hp⟩
    · simp [hk]
  have hwait : ((drainTaken i s).time - (issuedDesc i s).since) / 1000 = 0 := by
    show (max s.time i.now - max s.time i.now) / 1000 = 0
    rw [Nat.sub_self]
  have hgen : (thrOf (drainCounted i s) i.tile i.thr).gen = (i.thread s).gen := by
    rw [thrOf, drainCounted_tl]
    rfl
  have hpend : pendOf (drainCounted i s) i.tile i.thr (fD i.w) = markBlw (issuedDesc i s).id := by
    rw [pendOf, drainCounted_tl]
    exact pendOf_descBegun i s
  have hleft : (descsOf (drainCounted i s) i.tile).filter (fun x => x.id != (issuedDesc i s).id) = descsOf s i.tile := by
    rw [descsOf_drainCounted]
    refine filter_append_ne fun x hx => ?_
    obtain ⟨-, -, hid⟩ := hquiet x hx
    exact hid
  have htaken : acceptDesc (descBegun i s) i.tile (descBytes i s) false (issuedDesc i s) =
      settleDrains i.tile [issuedDesc i s] (drainTaken i s) := acceptDesc_drain (s := descBegun i s) h.valid hk
  show blwDesc "DRAIN" 5 i s = _
  rw [blwDesc_ready h (fun hne => absurd rfl hne), htaken, settleDrains_tile hk rfl hscope hloc,
    completeDrain, hwait, ← drainCounted.eq_1, completeDesc_ok rfl rfl hgen hpend, hleft]

theorem drain_gives {i : Issue} {s : State} (h : DescReady 5 i s) (hscope : (dsFlags (descBytes i s)).testBit 2 = false)
    (hquiet : ∀ d ∈ descsOf s i.tile, d.kind ≠ .writeBack ∧ d.kind ≠ .push ∧ d.id ≠ s.blw.nextId) :
    Gives (.drain i) s (fun t => i.reg t (fD i.w) = 0 ∧ (∀ r, r ≠ fD i.w → i.reg t r = i.reg s r) ∧
      descsOf t i.tile = descsOf s i.tile ∧ Counted s t (blwTPg i.tile + 0x134) 1 ∧ t.tl.spad = s.tl.spad ∧ t.mem = s.mem) := by
  refine ⟨_, exec_drain h hscope hquiet, ?_, fun r hr => ?_, ?_, ?_, ?_, ?_⟩
  · rw [Issue.reg, retire_xreg, xreg_wakeFences, xreg_setXreg]
  · rw [Issue.reg, retire_xreg, xreg_wakeFences, xreg_setXreg_ne _ _ hr]
    rfl
  · rw [descsOf, retire_blw]
    exact descsOf_setDescs ..
  · have hcount : Counted s (inc (drainTaken i s) (blwTPg i.tile + 0x134)) (blwTPg i.tile + 0x134) 1 := counted_inc_of_rd rfl
    rw [Counted, rd_of_rdW (retire_rdW _ _ _ _ (by simp only [blwTPg, tilePg]; omega) (by simp only [blwTPg, tilePg]; omega))]
    refine (rd_of_rdW ?_).trans hcount
    show rdW (drainCounted i s) (blwTPg i.tile + 0x134) = _
    exact rdW_wr_ne _ _ (by omega)
  · rw [retire_tl_spad]
    rfl
  · rw [retire_mem]
    rfl

/-! ### What completions leave of the bytes and of the prefetch window (R234, R239, R242) -/

/-- The prefetch window, the scratchpad and memory are the same in two states. -/
structure BytesKept (s t : State) : Prop where
  window : t.blw.window = s.blw.window
  spad   : t.tl.spad = s.tl.spad
  mem    : t.mem = s.mem

theorem BytesKept.refl (s : State) : BytesKept s s := ⟨rfl, rfl, rfl⟩

theorem BytesKept.trans {s t u : State} (h1 : BytesKept s t) (h2 : BytesKept t u) : BytesKept s u :=
  ⟨h2.window.trans h1.window, h2.spad.trans h1.spad, h2.mem.trans h1.mem⟩

theorem WindowOnly.bytesKept {s t : State} (h : WindowOnly s t) : BytesKept s t :=
  ⟨congrArg Bellows.window h.blw_eq, congrArg Tiles.spad h.tl_eq, h.mem_eq⟩

theorem bytesKept_foldl {α : Type} {f : State → α → State} (hf : ∀ s a, BytesKept s (f s a)) (l : List α) :
    ∀ s, BytesKept s (l.foldl f s) := by
  induction l with
  | nil => exact BytesKept.refl
  | cons a l ih => exact fun s => (hf s a).trans (ih _)

theorem bytesKept_setDescs (s : State) (t : Nat) (l : List BDesc) : BytesKept s (setDescs s t l) := ⟨rfl, rfl, rfl⟩

theorem bytesKept_putDesc (s : State) (t : Nat) (d : BDesc) : BytesKept s (putDesc s t d) := bytesKept_setDescs ..

theorem bytesKept_setDrain (s : State) (p : Nat) (x : Option (Nat × List Nat)) : BytesKept s (setDrain s p x) := ⟨rfl, rfl, rfl⟩

theorem bytesKept_wakeFences (s : State) (t : Nat) : BytesKept s (wakeFences s t) := ⟨rfl, rfl, rfl⟩

theorem bytesKept_lateWrite (s : State) (t th gen r mark : Nat) (v : W64) : BytesKept s (lateWrite s t th gen r mark v) := by
  rw [lateWrite]
  split
  · exact ⟨rfl, rfl, rfl⟩
  · exact .refl s

/-- The status of a descriptor on its way to the thread that issued it. -/
def statusToThread (s : State) (t : Nat) (d : BDesc) (code off : Nat) : State :=
  match d.thr with
  | some x => lateWrite s t x.1 x.2.1 x.2.2 (markBlw d.id) (statusWord code off)
  | none => s

/-- The status of a ring's descriptor. -/
def statusToRing (s : State) (d : BDesc) (code : Nat) : State :=
  match d.ring with
  | some r => { s with blw := { s.blw with xfers := cSet (fun _ => none) s.blw.xfers (4 * r.1 + r.2) (some code) } }
  | none => s

/-- A status other than OK is counted, signalled and logged (R246). -/
def failureNoted (s : State) (t : Nat) (d : BDesc) (code : Nat) : State :=
  if code = 0 then s
  else
    let th := match d.thr with
      | some x => x.1
      | none => 0x3F
    latchBlk (inc (intSet s (blwTPg t) 1) (blwTPg t + 0x13C)) (blwTPg t) (th * 256 + code) d.src

/-- The three parts of a report. -/
theorem reportDesc_eq (s : State) (t : Nat) (d : BDesc) (code off : Nat) :
    reportDesc s t d code off = failureNoted (statusToRing (statusToThread s t d code off) d code) t d code := rfl

theorem bytesKept_statusToThread (s : State) (t : Nat) (d : BDesc) (code off : Nat) : BytesKept s (statusToThread s t d code off) := by
  rw [statusToThread]
  split
  · exact bytesKept_lateWrite ..
  · exact .refl s

theorem bytesKept_statusToRing (s : State) (d : BDesc) (code : Nat) : BytesKept s (statusToRing s d code) := by
  rw [statusToRing]
  split
  · exact ⟨rfl, rfl, rfl⟩
  · exact .refl s

theorem windowOnly_failureNoted (s : State) (t : Nat) (d : BDesc) (code : Nat) : WindowOnly s (failureNoted s t d code) := by
  rw [failureNoted]
  split
  · exact .refl s
  · exact ((windowOnly_intSet ..).trans (windowOnly_inc ..)).trans (windowOnly_latchErr ..)

theorem bytesKept_reportDesc (s : State) (t : Nat) (d : BDesc) (code off : Nat) : BytesKept s (reportDesc s t d code off) := by
  rw [reportDesc_eq]
  exact ((bytesKept_statusToThread ..).trans (bytesKept_statusToRing ..)).trans (windowOnly_failureNoted ..).bytesKept

theorem bytesKept_completeDesc (s : State) (t : Nat) (d : BDesc) (code off : Nat) : BytesKept s (completeDesc s t d code off) :=
  ((bytesKept_setDescs ..).trans (bytesKept_reportDesc ..)).trans (bytesKept_wakeFences ..)

theorem bytesKept_completeDrain (s : State) (t : Nat) (d : BDesc) (code : Nat) : BytesKept s (completeDrain s t d code) :=
  ((windowOnly_inc ..).trans (windowOnly_wr ..)).bytesKept.trans (bytesKept_completeDesc ..)

theorem bytesKept_releaseTile (t : Nat) (ds : List BDesc) : ∀ s, BytesKept s (releaseTile t ds s) := by
  induction ds with
  | nil => exact BytesKept.refl
  | cons d ds ih =>
    intro s
    rw [releaseTile]
    refine BytesKept.trans ?_ (ih _)
    split
    · exact bytesKept_completeDrain ..
    · exact .refl s

theorem bytesKept_releaseDrain (s : State) (p : Nat) : BytesKept s (releaseDrain s p) :=
  (bytesKept_setDrain ..).trans (bytesKept_foldl (fun _ _ => bytesKept_releaseTile ..) ..)

/-- A tile that arrives at an open drain waits, and releases it if it is the last. -/
theorem bytesKept_drainJoined (s : State) (t p n : Nat) (x : Option (Nat × List Nat)) (d : BDesc) :
    BytesKept s (if (partTiles (putDesc (setDrain s p x) t d) p).length ≤ n then releaseDrain (putDesc (setDrain s p x) t d) p
      else putDesc (setDrain s p x) t d) := by
  have hwait : BytesKept s (putDesc (setDrain s p x) t d) := (bytesKept_setDrain ..).trans (bytesKept_putDesc ..)
  split
  · exact hwait.trans (bytesKept_releaseDrain ..)
  · exact hwait

theorem bytesKept_arriveDrain (s : State) (t p : Nat) (d : BDesc) : BytesKept s (arriveDrain s t p d) := by
  rw [arriveDrain]
  split
  · exact bytesKept_drainJoined ..
  · next i ts _ =>
    split
    · exact (windowOnly_intSet ..).bytesKept.trans (bytesKept_completeDrain ..)
    · split
      · exact bytesKept_putDesc ..
      · exact bytesKept_drainJoined ..

theorem bytesKept_settleDrains (t : Nat) (ds : List BDesc) : ∀ s, BytesKept s (settleDrains t ds s) := by
  induction ds with
  | nil => exact BytesKept.refl
  | cons d ds ih =>
    intro s
    rw [settleDrains]
    refine BytesKept.trans ?_ (ih _)
    split
    · split
      · exact bytesKept_arriveDrain ..
      · exact bytesKept_completeDrain ..
    · exact .refl s

theorem bytesKept_finishDesc (s : State) (t : Nat) (d : BDesc) (code off : Nat) : BytesKept s (finishDesc s t d code off) :=
  (bytesKept_completeDesc ..).trans (bytesKept_settleDrains ..)

theorem bytesKept_settleFences (s : State) : BytesKept s (settleFences s) := by
  refine bytesKept_foldl (fun s x => ?_) ..
  split
  · exact .refl s
  · exact bytesKept_finishDesc ..

end Sys2Proof.Machine
end

section
/-!
PREFETCH_FENCE (07_tile_operations.md R192; 09_bellows.md R239), and O19.
-/
namespace Sys2Proof.Machine

/-! ### The invalidations that a fence sends (R239) -/

/-- An invalidation that meets no entry changes nothing. -/
theorem sendInval_none_met {s : State} {pred : PfEntry → Bool} (h : ∀ c ∈ s.blw.window, ∀ e ∈ c.2, pred e = false)
    (fence : Option Nat) : sendInval s fence pred = s := by
  have hwindow : (sendInval s fence pred).blw.window = s.blw.window := by
    refine (List.map_congr_left fun c hc => ?_).trans (List.map_id _)
    refine Prod.ext rfl ((List.map_congr_left fun e he => ?_).trans (List.map_id _))
    simp [h c hc e he]
  show { s with blw := { s.blw with window := (sendInval s fence pred).blw.window } } = s
  rw [hwindow]

/-- Every entry that a fence's invalidation meets is marked. -/
theorem sendInval_marks {s : State} {id : Nat} {pred : PfEntry → Bool} :
    ∀ c ∈ (sendInval s (some id) pred).blw.window, ∀ e ∈ c.2, pred e = true → e.inval.isSome = true := by
  intro c hc e he hmet
  obtain ⟨c0, -, rfl⟩ := List.mem_map.1 hc
  obtain ⟨e0, -, rfl⟩ := List.mem_map.1 he
  by_cases hmet0 : pred e0 = true
  · simp only [hmet0, if_true]
    split <;> rfl
  · rw [if_neg hmet0] at hmet
    exact absurd hmet hmet0

/-! ### The fence at issue -/

/-- The range of PREFETCH_FENCE: its address and its length. -/
def fenceAddr (i : Issue) (s : State) : Nat := (i.reg s (fAb i.w)).toNat
def fenceLen (i : Issue) (s : State) : Nat := (i.reg s (bitsOf i.w 38 34)).toNat

/-- The entries that the fence invalidates. -/
def fenceMeets (i : Issue) (s : State) (p : Nat) (e : PfEntry) : Bool :=
  e.part == p && rangesOverlap (fenceAddr i s) (fenceLen i s) e.piece.mem e.piece.len

/-- The place of Bellows that the fence takes. -/
def fenceDesc (i : Issue) (s : State) : BDesc :=
  { id := s.blw.nextId, kind := .fence, thr := some (i.thr, (i.thread s).gen, fD i.w), ring := none, task := none, src := 0,
    list := none, base := 0, sk := 0, pieces := [], live := [], slots := [], tag := false, capped := none, behind := false,
    fail := none, since := max s.time i.now, scope := false, drainId := 0, atDrain := false }

/-- The fence is among the tile's descriptors. -/
def fenceTaken (i : Issue) (s : State) : State := setDescs (descBegun i s) i.tile (descsOf s i.tile ++ [fenceDesc i s])

/-- The fence's invalidations are on their way. -/
def fenceSent (i : Issue) (s : State) (p : Nat) : State := sendInval (fenceTaken i s) (some s.blw.nextId) (fenceMeets i s p)

/-- The entries marked are counted on their tiles. -/
def fenceCounted (i : Issue) (s : State) (p : Nat) : State :=
  (fenceMarks (fenceSent i s p) s.blw.nextId).foldl (fun s x => incBy s (blwTPg x.1 + 0x128) x.2) (fenceSent i s p)

theorem windowOnly_fenceCounted (i : Issue) (s : State) (p : Nat) : WindowOnly (fenceSent i s p) (fenceCounted i s p) :=
  windowOnly_foldl (fun _ _ => windowOnly_wr ..) ..

section
variable {i : Issue} {s : State} {p : Nat}
  (h : Ready 4 0x02 (fun w => specOk (fD w) && zero w 33 0) (fun w => [fAb w, bitsOf w 38 34]) i s)
  (hroom : (descsOf s i.tile).length < 32) (hp : partOfTile s i.tile = some p)
  (hin : fenceAddr i s + fenceLen i s ≤ partPages s p * pageBytes)

include h hroom hp hin in
theorem exec_prefetchFence : exec (.prefetchFence i) s = .next (i.retired s (settleFences (fenceCounted i s p))) := by
  have hroom' : ¬ (descsOf (i.here s) i.tile).length ≥ 32 := Nat.not_le.2 hroom
  have hp' : partOfTile (fenceTaken i s) i.tile = some p := hp
  have hin' : ¬ fenceAddr i s + fenceLen i s > partPages (fenceTaken i s) p * pageBytes := Nat.not_lt.2 hin
  show execPrefetchFence i s = _
  rw [execPrefetchFence, issueOp_ready h rfl]
  refine congrArg (issued i s) (a₂ := .done (settleFences (fenceCounted i s p))) ((if_neg hroom').trans ?_)
  simp only
  split
  · next hnone => exact absurd (hp'.symm.trans hnone) (Option.some_ne_none p)
  · next q hq =>
    obtain rfl : p = q := Option.some.inj (hp'.symm.trans hq)
    exact if_neg hin'

/-- What the fence leaves of the bytes, and the window it leaves. -/
theorem bytesKept_fence : BytesKept (fenceSent i s p) (i.retired s (settleFences (fenceCounted i s p))) := by
  refine ((windowOnly_fenceCounted i s p).bytesKept.trans (bytesKept_settleFences _)).trans ⟨?_, ?_, ?_⟩
  · rw [retire_blw]
  · rw [retire_tl_spad]
  · rw [retire_mem]

/-! ### A fence that meets no entry -/

/-- The one fence that the module holds completes with status OK, once no entry awaits it. -/
theorem settleFences_one {u : State} {t : Nat} {d : BDesc} (hdescs : u.blw.descs = [(t, [d])]) (hk : d.kind = .fence)
    (hnone : ∀ c ∈ u.blw.window, ∀ e ∈ c.2, e.fences = []) : settleFences u = finishDesc u t d 0 0 := by
  have hfree : u.blw.window.any (fun c => c.2.any (fun e => e.fences.contains d.id)) = false :=
    List.any_eq_false.2 fun c hc => by
      rw [Bool.not_eq_true, List.any_eq_false]
      exact fun e he => by simp [hnone c hc e he]
  simp only [settleFences, hdescs, List.map_cons, List.map_nil, List.filter_cons, List.filter_nil, hk, beq_self_eq_true, if_true,
    List.flatten_cons, List.flatten_nil, List.append_nil, List.foldl_cons, List.foldl_nil, hfree, Bool.false_eq_true, if_false]

/-- Where the descriptor is its tile's only one, no DRAIN behind it goes on. -/
theorem finishDesc_ok_only {u : State} {t th gen r : Nat} {d : BDesc} (hdescs : descsOf u t = [d]) (hthr : d.thr = some (th, gen, r))
    (hring : d.ring = none) (hgen : (thrOf u t th).gen = gen) (hpend : pendOf u t th r = markBlw d.id) :
    finishDesc u t d 0 0 = wakeFences (setXreg (setDescs u t []) t th r 0) t := by
  have hleft : (descsOf u t).filter (fun x => x.id != d.id) = [] := by simp [hdescs]
  have hnone : descsOf (wakeFences (setXreg (setDescs u t []) t th r 0) t) t = [] := descsOf_setDescs u t []
  rw [finishDesc, completeDesc_ok hthr hring hgen hpend, hleft]
  simp only [hnone, settleDrains]

theorem descs_fenceTaken (hdescs : s.blw.descs = []) : (fenceTaken i s).blw.descs = [(i.tile.val, [fenceDesc i s])] := by
  simp [fenceTaken, setDescs, descBegun, addPend, setPend, freshBlw, descsOf, hdescs, cSet, cDel, cIns]

theorem reg_prefetchFence_quiet (hquiet : ∀ c ∈ s.blw.window, ∀ e ∈ c.2, e.fences = [] ∧ fenceMeets i s p e = false)
    (hdescs : s.blw.descs = []) : i.reg (i.retired s (settleFences (fenceCounted i s p))) (fD i.w) = 0 := by
  have hsent : fenceSent i s p = fenceTaken i s := sendInval_none_met (s := fenceTaken i s)
    (fun c hc e he => (hquiet c hc e he).2) _
  have hw := hsent ▸ windowOnly_fenceCounted i s p
  generalize fenceCounted i s p = u at hw
  have hblw : u.blw = (fenceTaken i s).blw := hw.blw_eq
  have hdescs' : u.blw.descs = [(i.tile.val, [fenceDesc i s])] := by rw [hblw, descs_fenceTaken hdescs]
  have hnone : ∀ c ∈ u.blw.window, ∀ e ∈ c.2, e.fences = [] := by
    rw [hblw]
    exact fun c hc e he => (hquiet c hc e he).1
  have honly : descsOf u i.tile = [fenceDesc i s] := by rw [descsOf, hdescs', cGet, if_pos rfl]
  have hgen : (thrOf u i.tile i.thr).gen = (i.thread s).gen := by
    rw [thrOf, hw.tl_eq]
    rfl
  have hpend : pendOf u i.tile i.thr (fD i.w) = markBlw (fenceDesc i s).id := by
    rw [pendOf, hw.tl_eq]
    exact pendOf_descBegun i s
  rw [settleFences_one hdescs' rfl hnone, finishDesc_ok_only honly rfl rfl hgen hpend, Issue.reg, retire_xreg, xreg_wakeFences,
    xreg_setXreg]

include h hroom hp hin in
theorem prefetchFence_gives : Gives (.prefetchFence i) s (fun t =>
    (∀ c ∈ t.blw.window, ∀ e ∈ c.2, e.part = p →
      rangesOverlap (fenceAddr i s) (fenceLen i s) e.piece.mem e.piece.len = true → e.inval.isSome = true) ∧
    ((∀ c ∈ s.blw.window, ∀ e ∈ c.2, e.fences = [] ∧
      (e.part = p → rangesOverlap (fenceAddr i s) (fenceLen i s) e.piece.mem e.piece.len = false)) →
      s.blw.descs = [] → i.reg t (fD i.w) = 0) ∧
    t.tl.spad = s.tl.spad ∧ t.mem = s.mem) := by
  obtain ⟨hwindow, hspad, hmem⟩ := bytesKept_fence (i := i) (s := s) (p := p)
  refine ⟨_, exec_prefetchFence h hroom hp hin, ?_, fun hquiet hdescs => reg_prefetchFence_quiet (fun c hc e he => ?_) hdescs,
    hspad, hmem⟩
  · rw [hwindow]
    intro c hc e he hpart hover
    exact sendInval_marks c hc e he (by simp [fenceMeets, hpart, hover])
  · obtain ⟨hfences, hapart⟩ := hquiet c hc e he
    refine ⟨hfences, ?_⟩
    by_cases hpart : e.part = p
    · rw [fenceMeets, hapart hpart, Bool.and_false]
    · simp [fenceMeets, hpart]

end

/-- Settles O19: each of the five descriptors is taken as blwDesc_ready has it, the DRAIN completes at once, and the fence is one
lemma. -/
theorem bellowsDescriptors : Obligations.BellowsDescriptors := by
  refine ⟨?_, fun i s h hscope hquiet => drain_gives h hscope hquiet, ?_⟩
  · simp only [List.forall_mem_cons, List.not_mem_nil, false_implies, implies_true, and_true]
    exact ⟨fun i s p h htags hp hmem hcode => transfer_gives (mn := "STREAM_IN") rfl h (by decide) htags hp hmem hcode,
      fun i s p h htags hp hmem hcode => transfer_gives (mn := "PREFETCH") rfl h (by decide) htags hp hmem hcode,
      fun i s p h htags hp hmem hcode => transfer_gives (mn := "WRITE_BACK") rfl h (by decide) htags hp hmem hcode,
      fun i s p h htags hp hmem hcode => transfer_gives (mn := "GATHER") rfl h (by decide) htags hp hmem hcode⟩
  · intro i s p h hroom hp a n hin
    exact prefetchFence_gives h hroom hp hin

end Sys2Proof.Machine
end

section
/-!
Flash units, the flash translation layer's upkeep, and the fill of a translation point (11_tiers_and_pool.md R282, R292, R294 to R297):
O18.
-/
namespace Sys2Proof.Machine

/-! ### Pairs of counters and clinker entries (R459, R477) -/

/-- A 64-bit counter that held what it held in s counts n more, wrapping. -/
theorem counted64_inc64_of_rd64 {s u : State} {o n : Nat} (h : rd64 u o = rd64 s o) : Counted64 s (inc64 u o n) o n := by
  rw [Counted64, inc64, rd64_wr64 _ _ _ (Nat.mod_lt _ (by decide)), h]

theorem rdW_inc64_ne (s : State) {o o' : Nat} (n : Nat) (h : o' ≠ o) (h' : o' ≠ o + 4) : rdW (inc64 s o n) o' = rdW s o' :=
  rdW_wr64_ne s _ h h'

/-- A pair that shares no register with the counter. -/
theorem rd64_inc64_ne (s : State) {o o' : Nat} (n : Nat) (h : o' + 4 < o ∨ o + 4 < o') : rd64 (inc64 s o n) o' = rd64 s o' := by
  rw [rd64, rd_of_rdW (rdW_inc64_ne s n (by omega) (by omega)), rd_of_rdW (rdW_inc64_ne s n (by omega) (by omega)), rd64]

theorem queueEvent_mem (s : State) (cat seq : Nat) : (queueEvent s cat seq).mem = s.mem := by
  rw [queueEvent]
  split
  · split
    · rw [intSet_mem, incBy_mem]
    · rw [intSet_mem]
  · rfl

theorem clnInterrupt_mem (s : State) (cat : Nat) : (clnInterrupt s cat).mem = s.mem := by
  have hset (b : Bool) (u : State) (bits : Nat) : (if b then intSet u clnPg bits else u).mem = u.mem := by
    cases b
    · rfl
    · exact intSet_mem ..
  exact (hset _ _ 2).trans (hset _ s 1)

/-- A clinker entry changes no memory. -/
theorem clinker_mem (s : State) (r : LogRec) : (clinker s r).mem = s.mem := by
  refine (clnInterrupt_mem _ _).trans ((queueEvent_mem _ _ _).trans ?_)
  show (if r.payload.isNone && r.closes.isNone then { s with free := s.free + 1 } else s).mem = s.mem
  split <;> rfl

section
variable {o : Nat} (ho : o < clnPg)
include ho

theorem rdW_queueEvent_below (s : State) (cat seq : Nat) : rdW (queueEvent s cat seq) o = rdW s o := by
  have hint : o ≠ mgtPg + hIntStat := by simp only [clnPg, mgtPg] at *; omega
  have hlost : o ≠ mgtPg + 0x114 := by simp only [clnPg, mgtPg] at *; omega
  rw [queueEvent]
  split
  · split
    · rw [rdW_intSet_ne _ _ hint, incBy, rdW_wr_ne _ _ hlost]
      rfl
    · rw [rdW_intSet_ne _ _ hint]
      rfl
  · rfl

theorem rdW_clnInterrupt_below (s : State) (cat : Nat) : rdW (clnInterrupt s cat) o = rdW s o := by
  have hset (b : Bool) (u : State) (bits : Nat) : rdW (if b then intSet u clnPg bits else u) o = rdW u o := by
    cases b
    · rfl
    · exact rdW_intSet_ne _ _ (by omega)
  exact (hset _ _ 2).trans (hset _ s 1)

/-- A clinker entry changes no register of SD's pages below the clinker page; rdW_clinker says it of the dies. -/
theorem rdW_clinker_below (s : State) (r : LogRec) : rdW (clinker s r) o = rdW s o := by
  refine (rdW_clnInterrupt_below ho _ _).trans ((rdW_queueEvent_below ho _ _ _).trans ?_)
  show cGet regReset (if r.payload.isNone && r.closes.isNone then { s with free := s.free + 1 } else s).win.regs o = rdW s o
  split <;> rfl

end

/-! ### A translation point's fill (R282) -/

/-- The bytes charged to a class are counted on a BLW_ page and in no other register. -/
theorem rdW_chargeClass_tierPg (s : State) (ctl n sl : Nat) {x : Nat} (hx : x < 4096) :
    rdW (chargeClass s ctl 0 n) (tierPg sl + x) = rdW s (tierPg sl + x) :=
  rdW_inc64_ne _ n (by simp only [tierPg, blwPg, slPg, ctlPg]; omega) (by simp only [tierPg, blwPg, slPg, ctlPg]; omega)

theorem chargeClass_hbm (s : State) (ctl cls n : Nat) : (chargeClass s ctl cls n).mem.hbm = s.mem.hbm := by
  rw [chargeClass, inc64_mem]

/-- The controller whose HBM holds a page's entry in the page map of a partition. -/
def entryCtl (s : State) (p page : Nat) : Nat :=
  nth 0 (partStacks s p) (hashJ (partStacks s p).length ((hbmFrames s p - mapFrames s p) * pageBytes + 8 * page))

theorem exec_xlatMissFill {part : Fin 8} {page : Nat} (now : Nat) {s : State} (ht : tiered s part = true) (hp : page < partPages s part) :
    exec (.xlatMissFill part page now) s =
      .next (inc (chargeClass (tick s now) (entryCtl s part page) 0 32) (tierPg (lowSlice s part) + 0x160)) := by
  have hgo : (tiered (tick s now) part && decide (page < partPages (tick s now) part)) = true :=
    Bool.and_eq_true_iff.2 ⟨ht, decide_eq_true hp⟩
  exact if_pos hgo

theorem xlatMissFill_gives {part : Fin 8} {page : Nat} (now : Nat) {s : State} (ht : tiered s part = true)
    (hp : page < partPages s part) : Gives (.xlatMissFill part page now) s (fun t =>
      Counted s t (tierPg (lowSlice s part) + 0x160) 1 ∧ t.mem.hbm = s.mem.hbm) := by
  refine ⟨_, exec_xlatMissFill now ht hp, counted_inc_of_rd (rd_of_rdW ?_), ?_⟩
  · exact rdW_chargeClass_tierPg _ _ _ _ (by decide)
  · rw [inc_mem, chargeClass_hbm, tick_mem]

/-! ### Reads of flash (R292) -/

/-- The unit is in SD's buffer without an error, before the units read earlier, of which the oldest gives way. -/
def unitBuffered (s : State) (unit : Nat) : State :=
  { s with mem := { s.mem with flashBuf := ((unit, false) :: s.mem.flashBuf.filter (fun x => x.1 != unit)).take 1024 } }

theorem mem_flashBuf_unitBuffered (s : State) (unit : Nat) : (unit, false) ∈ (unitBuffered s unit).mem.flashBuf :=
  List.mem_cons_self ..

theorem length_flashBuf_unitBuffered (s : State) (unit : Nat) : (unitBuffered s unit).mem.flashBuf.length ≤ 1024 :=
  List.length_take_le ..

theorem rd64_unitBuffered (s : State) (unit o : Nat) : rd64 (unitBuffered s unit) o = rd64 s o := rfl

theorem flash_unitBuffered (s : State) (unit : Nat) : (unitBuffered s unit).mem.flash = s.mem.flash := rfl

theorem exec_flashUnitRead_clean (unit now : Nat) (s : State) :
    exec (.flashUnitRead unit .clean now) s = .next (unitBuffered (inc64 (tick s now) (ftl0Pg + 0x128) 16384) unit) := rfl

theorem flashUnitRead_gives (unit now : Nat) (s : State) : Gives (.flashUnitRead unit .clean now) s (fun t =>
    (unit, false) ∈ t.mem.flashBuf ∧ t.mem.flashBuf.length ≤ 1024 ∧ Counted64 s t (ftl0Pg + 0x128) 16384 ∧
    t.mem.flash = s.mem.flash) := by
  refine ⟨_, exec_flashUnitRead_clean unit now s, mem_flashBuf_unitBuffered .., length_flashBuf_unitBuffered .., ?_, ?_⟩
  · rw [Counted64, rd64_unitBuffered]
    exact counted64_inc64_of_rd64 (u := tick s now) rfl
  · rw [flash_unitBuffered, inc64_mem, tick_mem]

/-! ### Checkpoints of the map (R294, R295) -/

/-- The writes towards the next checkpoint are less one interval's, and a new interval begins. -/
def checkpointDue (s : State) : State :=
  { s with mem := { s.mem with ftlSince := s.mem.ftlSince - 17179869184, fresh := [] } }

theorem exec_ftlCheckpoint (now : Nat) {s : State} (h : 17179869184 ≤ s.mem.ftlSince) : exec (.ftlCheckpoint now) s =
    .next (inc64 (inc64 (checkpointDue (tick s now)) (ftl0Pg + 0x130) ftlMapBytes) (ftl0Pg + 0x138) ftlMapBytes) := by
  have hdue : (tick s now).mem.ftlSince ≥ 17179869184 := h
  exact if_pos hdue

theorem ftlCheckpoint_gives (now : Nat) {s : State} (h : 17179869184 ≤ s.mem.ftlSince) : Gives (.ftlCheckpoint now) s (fun t =>
    t.mem.ftlSince = s.mem.ftlSince - 17179869184 ∧ t.mem.fresh = [] ∧ Counted64 s t (ftl0Pg + 0x130) ftlMapBytes) := by
  refine ⟨_, exec_ftlCheckpoint now h, ?_, ?_, ?_⟩
  · rw [inc64_mem, inc64_mem]
    rfl
  · rw [inc64_mem, inc64_mem]
    rfl
  · rw [Counted64, rd64_inc64_ne _ _ (by decide)]
    exact counted64_inc64_of_rd64 (u := checkpointDue (tick s now)) rfl

/-! ### Relocation and wear levelling (R296) -/

/-- A free value has been drawn. -/
def drawn (s : State) : State := (drawFree s).2

theorem exec_ftlRelocation (block now : Nat) (s : State) : exec (.ftlRelocation block now) s =
    .next (inc64 (inc (drawn (tick s now)) (ftl0Pg + 0x148)) (ftl0Pg + 0x138) (Config.freeValue s.free)) := rfl

theorem ftlRelocation_gives (block now : Nat) (s : State) : Gives (.ftlRelocation block now) s (fun t =>
    Counted s t (ftl0Pg + 0x148) 1 ∧ Counted64 s t (ftl0Pg + 0x138) (Config.freeValue s.free) ∧ t.mem = s.mem) := by
  refine ⟨_, exec_ftlRelocation block now s, ?_, counted64_inc64_of_rd64 ?_, ?_⟩
  · rw [Counted, rd_of_rdW (rdW_inc64_ne _ _ (by decide) (by decide))]
    exact counted_inc_of_rd (u := drawn (tick s now)) rfl
  · exact rd64_wr_ne (drawn (tick s now)) _ (by decide) (by decide)
  · rw [inc64_mem, inc_mem]
    rfl

theorem staticWearLevelling_gives (block now : Nat) (s : State) : Gives (.staticWearLevelling block now) s (fun t =>
    Counted64 s t (ftl0Pg + 0x138) (Config.freeValue s.free) ∧ t.mem = s.mem) :=
  ⟨inc64 (drawn (tick s now)) (ftl0Pg + 0x138) (Config.freeValue s.free), rfl,
    counted64_inc64_of_rd64 (u := drawn (tick s now)) rfl, inc64_mem ..⟩

/-! ### Retired blocks (R296, R297, R299) -/

/-- One block more is retired. -/
def retireCounted (s : State) : State := wr s (ftl0Pg + 0x144) (rd s (ftl0Pg + 0x144) + 1)

/-- SPARE_LOW, below 1 % of the initial spares. -/
def sparesNoted (s : State) : State := if 100 * spareBlocks s < Config.flashSpareBlocks then intSet s ftl0Pg 4 else s

/-- DEGRADED, its interrupt and its clinker entry, with no spare left. -/
def degradedNoted (s : State) : State :=
  if spareBlocks s = 0 ∧ ftlDegraded s = false then
    clinker (intSet (wrB s (ftl0Pg + 0x104) 1 true) ftl0Pg 1) { cat := 10, code := 1, page := ftl0Pg }
  else s

theorem sparesNoted_keeps (s : State) :
    (sparesNoted s).mem = s.mem ∧ rdW (sparesNoted s) (ftl0Pg + 0x144) = rdW s (ftl0Pg + 0x144) := by
  rw [sparesNoted]
  split
  · exact ⟨intSet_mem .., rdW_intSet_ne s 4 (by decide)⟩
  · exact ⟨rfl, rfl⟩

theorem degradedNoted_keeps (s : State) :
    (degradedNoted s).mem = s.mem ∧ rdW (degradedNoted s) (ftl0Pg + 0x144) = rdW s (ftl0Pg + 0x144) := by
  rw [degradedNoted]
  split
  · refine ⟨by rw [clinker_mem, intSet_mem, wrB_mem], ?_⟩
    rw [rdW_clinker_below (by decide), rdW_intSet_ne _ _ (by decide)]
    exact rdW_wr_ne _ _ (by decide)
  · exact ⟨rfl, rfl⟩

theorem exec_ftlBlockRetire (block now : Nat) (s : State) :
    exec (.ftlBlockRetire block now) s = .next (degradedNoted (sparesNoted (retireCounted (tick s now)))) := by
  show execFtlBlockRetire block now s = _
  exact (apply_ite Host.Outcome.next ..).symm

theorem ftlBlockRetire_gives (block now : Nat) (s : State) : Gives (.ftlBlockRetire block now) s (fun t =>
    rd t (ftl0Pg + 0x144) = (rd s (ftl0Pg + 0x144) + 1) % 2 ^ 32 ∧ t.mem = s.mem) := by
  obtain ⟨hmem, hcount⟩ := degradedNoted_keeps (sparesNoted (retireCounted (tick s now)))
  obtain ⟨hmem', hcount'⟩ := sparesNoted_keeps (retireCounted (tick s now))
  refine ⟨_, exec_ftlBlockRetire block now s, ?_, hmem.trans hmem'⟩
  rw [rd_of_rdW (hcount.trans hcount'), retireCounted, rd_wr_same, rd_tick]

/-- Settles O18: one lemma for each of the six commands. -/
theorem flashAndTranslation : Obligations.FlashAndTranslation :=
  ⟨fun _ _ now _ ht hp => xlatMissFill_gives now ht hp, flashUnitRead_gives, fun now _ h => ftlCheckpoint_gives now h,
    ftlRelocation_gives, ftlBlockRetire_gives, staticWearLevelling_gives⟩

end Sys2Proof.Machine
end

section
/-!
The Tongs operations as the tile issues them (07_tile_operations.md R194; 12_tongs_remote_ops.md R302, R303, R315, R316): an operation
that meets its checks is taken with the requests of its plan. O21.
-/
namespace Sys2Proof.Machine

/-! ### A place and a tag (R163, R310, R320) -/

/-- The operation that Tongs takes for a plan. -/
def takenOp (c : OpCtx) (s : State) (p : Nat) (pl : TPlan) : TOp :=
  { id := s.tng.nextId, tile := c.t, thr := c.th, gen := (thrOf s c.t c.th).gen, dest := fD c.w, task := c.task s, opc := pl.opc,
    dispatch := pl.dispatch, lk := fLk c.w, etype := fType c.w, job := rdW s (tngPg (lowSlice s p) + 0x108),
    step := if pl.opc ≠ .get ∧ rdB s (tngPg (lowSlice s p) + 0x104) 0 then some ((spkStep s c.t).setWidth 32) else none,
    newVal := pl.newVal, pieces := pl.pieces, live := [], slots := [], tag := false, capped := none, fail := none, old := 0 }

/-- The operation has its number, which D awaits, and D + 1 for a fetch. -/
def tngBegun (c : OpCtx) (s : State) (pl : TPlan) : State :=
  let s' := addPend (freshTng s).2 c.t c.th (fD c.w) (markTng s.tng.nextId)
  if isFetch pl.opc then addPend s' c.t c.th (fD c.w + 1) (markTng s.tng.nextId) else s'

/-- The operation is among the module's. -/
def tngTaken (c : OpCtx) (s : State) (p : Nat) (pl : TPlan) : State :=
  setTOps (tngBegun c s pl) (s.tng.ops ++ [takenOp c s p pl])

/-- The operation, its number and the registers that await it are all that the machine gains. -/
theorem tngTaken_keeps (c : OpCtx) (s : State) (p : Nat) (pl : TPlan) : tngTaken c s p pl =
    { s with tl := { s.tl with pend := (tngTaken c s p pl).tl.pend },
             tng := { s.tng with ops := s.tng.ops ++ [takenOp c s p pl], nextId := s.tng.nextId + 1 } } := by
  rw [tngTaken, tngBegun]
  split <;> rfl

theorem pendOf_addPend (s : State) (t th r mark : Nat) : pendOf (addPend s t th r mark) t th r = mark :=
  cGet_cSet_same (fun _ => 0) s.tl.pend (64 * thKey t th + r) mark

theorem pendOf_addPend_ne (s : State) (t th mark : Nat) {r r' : Nat} (h : r' ≠ r) :
    pendOf (addPend s t th r mark) t th r' = pendOf s t th r' :=
  cGet_cSet_ne (fun _ => 0) s.tl.pend mark (k := 64 * thKey t th + r) (j := 64 * thKey t th + r') (by omega)

theorem pendOf_tngBegun (c : OpCtx) (s : State) (pl : TPlan) : pendOf (tngBegun c s pl) c.t c.th (fD c.w) = markTng s.tng.nextId := by
  rw [tngBegun]
  split
  · rw [pendOf_addPend_ne _ _ _ _ (by omega), pendOf_addPend]
  · rw [pendOf_addPend]

theorem partOfTile_addPend (s : State) (t th r mark t' : Nat) : partOfTile (addPend s t th r mark) t' = partOfTile s t' := rfl

theorem partOfTile_freshTng (s : State) (t : Nat) : partOfTile (freshTng s).2 t = partOfTile s t := rfl

theorem partOfTile_setTOps (s : State) (l : List TOp) (t : Nat) : partOfTile (setTOps s l) t = partOfTile s t := rfl

theorem startTng_taken {c : OpCtx} {s : State} {p : Nat} (pl : TPlan) (hops : tngActive s c.t < 32) (htags : tngTags s c.t < 32)
    (hp : partOfTile s c.t = some p) : startTng c s pl = .done (tngTaken c s p pl) := by
  have hroom : ¬ (tngActive s c.t ≥ 32 ∨ tngTags s c.t ≥ 32) := by omega
  refine (if_neg hroom).trans ?_
  by_cases hf : isFetch pl.opc = true
  · simp only [hf, if_true, partOfTile_setTOps, partOfTile_addPend, partOfTile_freshTng, hp, tngTaken, tngBegun]
    rfl
  · simp only [if_neg hf, partOfTile_setTOps, partOfTile_addPend, partOfTile_freshTng, hp, tngTaken, tngBegun]
    rfl

/-! ### The operations of form T (R194) -/

/-- An operation that starts its plan once its checks are met is taken with the plan's requests. -/
theorem tngResult_of_start {c : Issue → Instr} {mn : String} {o : Nat} {legal : Nat → Bool} {regs : Nat → List Nat}
    {ok : Issue → State → Prop} {pl : Issue → State → TPlan} {body : OpCtx → State → OpRes}
    (hc : ∀ i s, exec (c i) s = issueOp mn 5 o legal regs i s body) (hd : opDefined 5 o = true)
    (hbody : ∀ i s, ok i s → i.task s = none → tngActive s i.tile < 32 → tngTags s i.tile < 32 →
      body i.ctx (i.here s) = startTng i.ctx (i.here s) (pl i s)) : TngResult c o legal regs ok pl := by
  intro i s p h hok htask hops htags hp
  have hexec := (hc i s).trans (issueOp_ready h hd)
  rw [hbody i s hok htask hops htags, startTng_taken (c := i.ctx) (s := i.here s) (p := p) _ hops htags hp] at hexec
  have hkeeps := tngTaken_keeps i.ctx (i.here s) p (pl i s)
  have hops' : (i.retired s (tngTaken i.ctx (i.here s) p (pl i s))).tng.ops = s.tng.ops ++ [takenOp i.ctx (i.here s) p (pl i s)] := by
    rw [retire_tng]
    rfl
  have hpend : pendOf (tngTaken i.ctx (i.here s) p (pl i s)) i.tile i.thr (fD i.w) = markTng s.tng.nextId := pendOf_tngBegun ..
  refine ⟨_, hexec, ⟨_, hops', rfl, rfl, rfl, rfl, rfl, rfl, rfl, rfl, rfl, rfl, rfl, rfl⟩, ?_, congrArg Thread.pc (retire_thr ..),
    (retire_tl_spad ..).trans (congrArg (·.tl.spad) hkeeps), (retire_tl_tags ..).trans (congrArg (·.tl.tags) hkeeps),
    (retire_tl_xr ..).trans (congrArg (·.tl.xr) hkeeps), (retire_mem ..).trans (congrArg (·.mem) hkeeps),
    (congrArg Tongs.reqs (retire_tng ..)).trans (congrArg (·.tng.reqs) hkeeps)⟩
  rw [pendOf_retire, hpend, markTng]
  omega

/-- A thread outside tasks is no member. -/
theorem not_isSome_task {i : Issue} {s : State} (h : i.task s = none) : ¬ (i.ctx.task (i.here s)).isSome = true :=
  Option.not_isSome_iff_eq_none.2 h

/-- PUT, GET and PUTADD meet their checks; outside tasks a GET takes no shadows (R302, R313). -/
theorem tngBulk_starts (opc : ReqOpc) (i : Issue) (s : State) (hok : bulkOk i s) (htask : i.task s = none)
    (hops : tngActive s i.tile < 32) (htags : tngTags s i.tile < 32) :
    tngBulk opc i.ctx (i.here s) = startTng i.ctx (i.here s) (bulkPlan opc (opc == .putadd && fType i.w == 1) i s) := by
  obtain ⟨hpos, hmax, hmul, ⟨hrange, hloc⟩, htarget⟩ := hok
  have hcount : ¬ (tCount i s = 0 ∨ tCount i s > 16777216 ∨ tCount i s % 32 ≠ 0) := by omega
  have hrange' : ¬ badRange (i.here s) i.tile (tLocal i s) (tCount i s) = true := ne_true_of_eq_false hrange
  have haligned : ¬ (tTarget i s % 32 ≠ 0 ∨ tLocal i s % 32 ≠ 0) := by omega
  have htask' : i.ctx.task (i.here s) = none := htask
  have hmember : ¬ ((i.ctx.task (i.here s)).isSome = true ∧ opc ≠ .get) := fun hk => not_isSome_task htask hk.1
  have hroom : ¬ (tngActive (i.here s) i.tile ≥ 32 ∨ tngTags (i.here s) i.tile ≥ 32) :=
    not_or.2 ⟨Nat.not_le.2 hops, Nat.not_le.2 htags⟩
  have hshadow : (if opc = .get then shadowAll (i.here s) i.tile (i.ctx.task (i.here s))
      (rangeUses (tLocal i s) (tCount i s) .produce) else some (i.here s)) = some (i.here s) := by
    rw [htask', shadowAll_none, ite_self]
  refine (if_neg hcount).trans <| (if_neg hrange').trans <| (if_neg haligned).trans <| (if_neg hmember).trans <| (if_neg hroom).trans ?_
  simp only [tLocal, tCount] at hshadow
  simp only [xreg_tick, hshadow]
  rfl

/-- FADD, FAND, CAS and NOTIFY meet their checks: the word is aligned, and the thread outside tasks (R303, R313). -/
theorem tngWord_starts (opc : ReqOpc) (i : Issue) (s : State)
    (hok : tTarget i s % (if opc = .notify then 8 else targetSize (fType i.w)) = 0) (htask : i.task s = none) :
    tngWord opc i.ctx (i.here s) = startTng i.ctx (i.here s) (wordPlan opc (if opc = .notify then 8 else targetSize (fType i.w))
      (if opc = .notify then tVal i s else tCount i s) (if opc = .cas then tVal i s else 0) i s) :=
  (if_neg (Classical.not_not.2 hok)).trans (if_neg (not_isSome_task htask))

/-! ### DISPATCH (R315, R316) -/

/-- A dispatch's requests do not depend on the time. -/
theorem listPieces_tick (s : State) (c : OpCtx) (d : TList) (n fuel x off : Nat) :
    listPieces (tick s n) c d fuel x off = listPieces s c d fuel x off := by
  induction fuel generalizing x off with
  | zero => rfl
  | succ fuel ih =>
    rw [listPieces, ih]
    rfl

theorem not_any_range {n : Nat} {f : Nat → Bool} (h : ∀ x < n, f x = false) : ¬ (List.range n).any f = true := by
  simpa using h

section
variable {i : Issue} {s : State} (hok : dispatchOk i s)
include hok

theorem dispatchOk.counts_ok :
    ¬ ((dispatchOf i s).e = 0 ∨ (dispatchOf i s).e > 256 ∨ (dispatchOf i s).n = 0 ∨ (dispatchOf i s).n > 512 ∨
      (dispatchOf i s).rb = 0 ∨ (dispatchOf i s).rb > 65536 ∨ (dispatchOf i s).rb % 32 ≠ 0) := by
  obtain ⟨-, -, ⟨he, he', hn, hn', hrb, hrb', hrb32, -⟩, -⟩ := hok
  omega

theorem dispatchOk.sources_ok : ¬ ([((dispatchOf i s).list, listHead (dispatchOf i s).e + 4 * (dispatchOf i s).n * (dispatchOf i s).e),
    ((dispatchOf i s).table, 32 * (dispatchOf i s).e)].any (fun r => badRange s i.tile r.1 r.2)) = true := by
  obtain ⟨-, -, -, hlist, htable, -⟩ := hok
  simp [hlist, htable]

theorem dispatchOk.reads_clean (rs : List (Nat × Nat)) : spadEcc (i.here s) i.ctx.t rs i.ctx.ecc = (.clean, i.here s) := by
  obtain ⟨hclean, harm, -⟩ := hok
  show spadEcc (i.here s) i.tile rs i.ecc = _
  rw [hclean]
  exact spadEcc_clean (s := i.here s) harm rs

theorem dispatchOk.entries_ok : ¬ ((List.range (dispatchOf i s).e).any (fun x =>
    decide (seeNat s i.tile (i.task s) ((dispatchOf i s).list + 4 * x) 4 > (dispatchOf i s).n) ||
      !(placeRsv s i.ctx (dispatchOf i s) x))) = true := by
  obtain ⟨-, -, -, -, -, hentries⟩ := hok
  refine not_any_range fun x hx => ?_
  obtain ⟨hle, hrsv, -⟩ := hentries x hx
  simp [hle, hrsv]

theorem dispatchOk.rows_ok : ¬ ((List.range (dispatchOf i s).e).any (fun x =>
    (expertTokens s i.ctx (dispatchOf i s) x).any (badRow s i.ctx (dispatchOf i s)))) = true := by
  obtain ⟨-, -, -, -, -, hentries⟩ := hok
  refine not_any_range fun x hx => ?_
  obtain ⟨-, -, hgood, -⟩ := hentries x hx
  exact List.any_eq_false.2 fun k hk => ne_true_of_eq_false (hgood k hk)

theorem dispatchOk.aligned : ¬ ((dispatchOf i s).row % 32 ≠ 0 ∨ (List.range (dispatchOf i s).e).any (fun x =>
    placeRow s i.ctx (dispatchOf i s) x % 32 != 0 || placeNote s i.ctx (dispatchOf i s) x % 8 != 0) = true) := by
  obtain ⟨-, -, ⟨-, -, -, -, -, -, -, hrow⟩, -, -, hentries⟩ := hok
  refine not_or.2 ⟨Classical.not_not.2 hrow, not_any_range fun x hx => ?_⟩
  obtain ⟨-, -, -, hplace, hnote⟩ := hentries x hx
  simp [hplace, hnote]

end

/-- A dispatch whose list, placement table and rows are allowed and read clean starts with its requests. -/
theorem tngDispatch_result : TngResult .tngDispatch 0x30 (tLegal true true true [0] [0] 39) (tRegs true true true) dispatchOk
    (fun i s => { opc := .put, dispatch := true, pieces := listPieces s i.ctx (dispatchOf i s) (dispatchOf i s).e 0 0 }) := by
  have hexec (i : Issue) (s : State) : exec (.tngDispatch i) s = execTngDispatch i s := rfl
  refine tngResult_of_start (fun i s => (hexec i s).trans rfl) rfl fun i s hok htask _ _ => ?_
  refine (if_neg hok.counts_ok).trans <| (if_neg hok.sources_ok).trans ?_
  simp only [hok.reads_clean]
  refine (if_neg hok.entries_ok).trans <| (if_neg hok.rows_ok).trans <| (if_neg hok.aligned).trans <|
    (if_neg (not_isSome_task htask)).trans ?_
  rw [listPieces_tick]
  rfl

/-- Settles O21: every operation meets its checks and starts its plan, and a plan started is taken with its requests. -/
theorem tongsOperations : Obligations.TongsOperations := by
  refine ⟨?_, ?_, ?_, ?_, ?_, ?_, tngDispatch_result⟩
  · exact tngResult_of_start (fun _ _ => rfl) rfl (tngBulk_starts .put)
  · exact tngResult_of_start (fun _ _ => rfl) rfl (tngBulk_starts .get)
  · exact tngResult_of_start (fun _ _ => rfl) rfl (tngBulk_starts .putadd)
  · simp only [List.forall_mem_cons, List.not_mem_nil, false_implies, implies_true, and_true]
    exact ⟨tngResult_of_start (fun _ _ => rfl) rfl fun i s hok htask _ _ => tngWord_starts .fadd i s hok htask,
      tngResult_of_start (fun _ _ => rfl) rfl fun i s hok htask _ _ => tngWord_starts .fand i s hok htask⟩
  · exact tngResult_of_start (fun _ _ => rfl) rfl fun i s hok htask _ _ => tngWord_starts .cas i s hok htask
  · exact tngResult_of_start (fun _ _ => rfl) rfl fun i s hok htask _ _ => tngWord_starts .notify i s hok htask

end Sys2Proof.Machine
end

section
/-!
Requests of Tongs (12_tongs_remote_ops.md R303, R308 to R311): what an issue, a response, a timeout and an arrival leave. O22.
-/
namespace Sys2Proof.Machine

/-! ### What the steps of a request leave as it was -/

/-- Claims of slots change claims and the counts of pieces awaited alone (R215, R231). -/
theorem claimFor_keeps (t : Nat) (k : Option (Fin 4)) (u : Use) (count : Nat → Nat) (l : List Nat) : ∀ s, claimFor t k u count l s =
    { s with tl := { s.tl with claims := (claimFor t k u count l s).tl.claims },
             blw := { s.blw with awaits := (claimFor t k u count l s).blw.awaits } } := by
  induction l with
  | nil => exact fun _ => rfl
  | cons x l ih =>
    intro s
    rw [claimFor, ih]
    cases u <;> rfl

/-- A packet that enters a port's queue, or waits, changes the links alone (R331, R334). -/
theorem inject_keeps (s : State) (q : QPkt) : inject s q = { s with lnk := (inject s q).lnk } := by
  simp only [inject]
  split
  · split <;> rfl
  · rfl

/-- Block operations that enter leave every byte (R255). -/
theorem enterOps_keeps (pl : OpPlan) (p : Nat) (rs : List (Nat × Nat)) : ∀ (s : State) (data : List Byte), enterOps s pl p rs data =
    { s with mem := { s.mem with ops := (enterOps s pl p rs data).mem.ops, nextOp := (enterOps s pl p rs data).mem.nextOp } } := by
  induction rs with
  | nil => exact fun _ _ => rfl
  | cons r rs ih =>
    intro s data
    obtain ⟨a, n⟩ := r
    rw [enterOps, ih]

/-! ### Issue (R303, R308) -/

/-- The tag picked depends on the tags held and on those of late answers alone. -/
theorem pickTag_congr {s u : State} {t : Nat} (hreqs : u.tng.reqs = s.tng.reqs) (hstale : u.tng.stale = s.tng.stale) :
    pickTag u t = pickTag s t := by
  simp only [pickTag, hreqs, hstale]

/-- The request that leaves for another module under the tag picked, with its deadline. -/
def sentReq (s : State) (o : TOp) (c : TPiece) : TReq :=
  { id := s.tng.nextId, tile := o.tile, op := o.id, tag := pickTag s o.tile, deadline := s.time + rd s (tngTPg o.tile + 0x108),
    piece := c, own := false, data := [], answer := none }

/-- The request has its number and its tag, which no late answer is awaited under any more. -/
def sendNumbered (s : State) (o : TOp) : State :=
  let u := (freshTng s).2
  { u with tng := { u.tng with stale := u.tng.stale.filter (fun x => x != (o.tile, pickTag u o.tile)) } }

/-- The bytes of a PUT or PUTADD are counted. -/
def sendCounted (s : State) (o : TOp) (c : TPiece) : State :=
  if c.opc = .put ∨ c.opc = .putadd then inc64 (sendNumbered s o) (tngTPg o.tile + 0x118) c.llen else sendNumbered s o

/-- The operation has issued its request. -/
def sendIssued (s : State) (o : TOp) (c : TPiece) (rest : List TPiece) (new : List Nat) : State :=
  putTOp (sendCounted s o c)
    { o with pieces := rest, live := o.live ++ [(freshTng s).1], slots := o.slots ++ new, tag := false, capped := none }

/-- The request's packet on its way to a port. -/
def sentPkt (s : State) (p : Nat) (o : TOp) (c : TPiece) (rest : List TPiece) (new : List Nat) (data : List Byte) : QPkt :=
  { pkt := .req (tngPkt (sendIssued s o c rest new) o c (pickTag (freshTng s).2 o.tile) data (selfMod s p)), die := o.tile / 72,
    dim := none, vc := 0, key := some (16, o.id), more := !rest.isEmpty }

theorem sendIssued_keeps (s : State) (o : TOp) (c : TPiece) (rest : List TPiece) (new : List Nat) :
    (sendIssued s o c rest new).tl = s.tl ∧ (sendIssued s o c rest new).mem = s.mem ∧
      (sendIssued s o c rest new).tng.reqs = s.tng.reqs := by
  show (sendCounted s o c).tl = s.tl ∧ (sendCounted s o c).mem = s.mem ∧ (sendCounted s o c).tng.reqs = s.tng.reqs
  rw [sendCounted]
  split
  · rw [inc64_tl, inc64_mem, inc64_tng]
    exact ⟨rfl, rfl, rfl⟩
  · exact ⟨rfl, rfl, rfl⟩

/-- The count of bytes sent is neither the time nor the register of the deadline. -/
theorem deadline_sendCounted (s : State) (o : TOp) (c : TPiece) :
    (sendCounted s o c).time + rd (sendCounted s o c) (tngTPg o.tile + 0x108) = s.time + rd s (tngTPg o.tile + 0x108) := by
  rw [sendCounted]
  split
  · rw [inc64_time, rd_of_rdW (rdW_inc64_ne _ _ (by omega) (by omega))]
    rfl
  · rfl

/-- A request to another module enters a port's queue, or waits, and is among the module's. -/
theorem sendReq_other {s : State} {p : Nat} {o : TOp} {c : TPiece} (hmod : c.mod ≠ selfMod s p) (rest : List TPiece) (new : List Nat)
    (data : List Byte) : sendReq s p o c rest new data =
      setTReqs (inject (sendIssued s o c rest new) (sentPkt s p o c rest new data)) (s.tng.reqs ++ [sentReq s o c]) := by
  obtain ⟨-, -, hreqs⟩ := sendIssued_keeps s o c rest new
  have hown : (c.mod == selfMod s p) = false := beq_false_of_ne hmod
  have hreqs' : (inject (sendIssued s o c rest new) (sentPkt s p o c rest new data)).tng.reqs = s.tng.reqs := by
    rw [inject_keeps]
    exact hreqs
  have htag : pickTag (freshTng s).2 o.tile = pickTag s o.tile := pickTag_congr rfl rfl
  rw [sentReq, ← hreqs', ← deadline_sendCounted s o c, ← htag, ← hown]
  exact if_neg (ne_true_of_eq_false hown)

/-- A request to another module changes no scratchpad and no memory. -/
theorem sendReq_other_keeps {s : State} {p : Nat} {o : TOp} {c : TPiece} (hmod : c.mod ≠ selfMod s p) (rest : List TPiece)
    (new : List Nat) (data : List Byte) :
    (sendReq s p o c rest new data).tl = s.tl ∧ (sendReq s p o c rest new data).mem = s.mem := by
  obtain ⟨htl, hmem, -⟩ := sendIssued_keeps s o c rest new
  rw [sendReq_other hmod, inject_keeps]
  exact ⟨htl, hmem⟩

/-- The state in which slots have been claimed for a request: the claims are cl, the pieces awaited aw. -/
def slotsClaimed (s : State) (cl : Cells Claim) (aw : Cells Nat) : State :=
  { s with tl := { s.tl with claims := cl }, blw := { s.blw with awaits := aw } }

theorem sentReq_claimed (s : State) (cl : Cells Claim) (aw : Cells Nat) (o : TOp) (c : TPiece) :
    sentReq (slotsClaimed s cl aw) o c = sentReq s o c := by
  rw [sentReq, sentReq, pickTag_congr (s := s) rfl rfl]
  rfl

theorem sentReq_tick (s : State) (now : Nat) (o : TOp) (c : TPiece) : sentReq (tick s now) o c =
    { sentReq s o c with deadline := max s.time now + rd s (tngTPg o.tile + 0x108) } := by
  rw [sentReq, sentReq, pickTag_congr (s := s) rfl rfl, rd_tick, tick_time]
  rfl

/-- A GET whose slots allow it claims them and leaves at once: nothing is read of the scratchpad. -/
theorem issueReq_get {s : State} {p : Nat} {o : TOp} {c : TPiece} (hopc : o.opc = .get)
    (hfree : firstBlocked s o.tile o.task ((c.slots.filter (fun x => !o.slots.contains x)).map (fun x => (x, o.use))) = none)
    (rest : List TPiece) (ecc : Ecc) : ∃ cl aw, issueReq s p o c rest ecc =
      sendReq (slotsClaimed s cl aw) p o c rest (c.slots.filter (fun x => !o.slots.contains x)) [] := by
  simp only [issueReq, hfree, hopc, true_or, if_true]
  split
  · exact ⟨_, _, congrArg (fun u => sendReq u p o c rest _ []) (claimFor_keeps ..)⟩
  · exact ⟨s.tl.claims, s.blw.awaits, rfl⟩

/-- A request to another module waits for no bank and no sorter of this one. -/
theorem tngHeld_other {s : State} {p : Nat} {o : TOp} {c : TPiece} (hmod : c.mod ≠ selfMod s p) : tngHeld s p o c = none :=
  if_pos (.inl hmod)

/-- A tile's GET o with the number op whose next request, c, is for a module that a route leads to; a tag is free, and nothing holds
the request back but its slots (R303, R308). -/
structure NextGet (s : State) (tile op p : Nat) (o : TOp) (c : TPiece) (rest : List TPiece) : Prop where
  found  : findTOp s tile op = some o
  owner  : partOfTile s tile = some p
  pieces : o.pieces = c :: rest
  sound  : o.fail = none
  tagged : tngTags s tile < 32
  last   : c.last = true → o.live = []
  other  : c.mod ≠ selfMod s p
  route  : hopTo s (tile / 72) c.mod.toNat ≠ .noRoute
  opc    : o.opc = .get

section
variable {tile : Fin 288} {op now p : Nat} {ecc : Ecc} {s : State} {o : TOp} {c : TPiece} {rest : List TPiece}
  (h : NextGet s tile op p o c rest)
include h

theorem NextGet.tile_eq : o.tile = tile := by
  have hfound := List.find?_some h.found
  simp only [Bool.and_eq_true, beq_iff_eq] at hfound
  exact hfound.1

theorem exec_tngRequestIssue : exec (.tngRequestIssue tile op ecc now) s = .next (issueReq (tick s now) p o c rest ecc) := by
  obtain ⟨hop, hp, hpieces, hfail, htags, hlast, hmod, hroute, -⟩ := h
  have hop' : findTOp (tick s now) tile op = some o := hop
  have hp' : partOfTile (tick s now) tile = some p := hp
  have hgo : ¬ (o.fail.isSome = true ∨ (o.tag = false ∧ tngTags (tick s now) tile ≥ 32) ∨ (c.last = true ∧ o.live ≠ [])) := by
    rintro (hfailed | ⟨-, hfull⟩ | ⟨hnotify, hlive⟩)
    · simp [hfail] at hfailed
    · exact absurd htags (Nat.not_lt.2 hfull)
    · exact hlive (hlast hnotify)
  have hhop : ¬ (c.mod ≠ selfMod (tick s now) p ∧ hopTo (tick s now) (tile.val / 72) c.mod.toNat = .noRoute) :=
    fun hnone => hroute hnone.2
  show execTngRequestIssue tile op ecc now s = _
  simp only [execTngRequestIssue, hop', hp', hpieces, if_neg hgo, if_neg hhop, tngHeld_other (s := tick s now) hmod]

theorem tngRequestIssue_gives
    (hfree : firstBlocked s tile o.task ((c.slots.filter (fun x => !o.slots.contains x)).map (fun x => (x, o.use))) = none) :
    Gives (.tngRequestIssue tile op ecc now) s (fun t =>
      t.tng.reqs = s.tng.reqs ++ [⟨s.tng.nextId, tile, o.id, pickTag s tile, max s.time now + rd s (tngTPg tile + 0x108), c, false, [],
        none⟩] ∧ t.tl.spad = s.tl.spad ∧ t.mem = s.mem) := by
  have hexec := exec_tngRequestIssue (now := now) (ecc := ecc) h
  rw [← h.tile_eq] at hfree ⊢
  obtain ⟨cl, aw, hissue⟩ := issueReq_get (s := tick s now) (p := p) h.opc ((firstBlocked_tick ..).trans hfree) rest ecc
  have hmod : c.mod ≠ selfMod (slotsClaimed (tick s now) cl aw) p := h.other
  obtain ⟨htl, hmem⟩ := sendReq_other_keeps (o := o) hmod rest (c.slots.filter (fun x => !o.slots.contains x)) []
  refine ⟨_, hexec.trans (congrArg Host.Outcome.next hissue), ?_, (congrArg Tiles.spad htl).trans rfl, hmem⟩
  rw [sendReq_other hmod, sentReq_claimed, sentReq_tick]
  rfl

end

/-! ### Responses and timeouts (R308, R309) -/

theorem exec_tngResponseArrive {p : RspPkt} {stamp now tile : Nat} {s : State} {r : TReq} (htile : physOf s p.tile.toNat = some tile)
    (hreq : s.tng.reqs.find? (fun r => r.tile == tile && r.tag == p.tag.toNat) = some r) (hown : r.own = false)
    (harm : notArmed s (tilePg tile 10)) (hstamp : stamp ≤ r.deadline) :
    exec (.tngResponseArrive p stamp now) s =
      .next (endReq { tick s now with lnk := { s.lnk with answers := s.lnk.answers.erase p } } r p.status.toNat p.sub.toNat p.data) := by
  have htile' : physOf { tick s now with lnk := { s.lnk with answers := s.lnk.answers.erase p } } p.tile.toNat = some tile := htile
  have harm' : notArmed { tick s now with lnk := { s.lnk with answers := s.lnk.answers.erase p } } (tilePg tile 10) := harm
  have hreq' : (tick s now).tng.reqs.find? (fun r => r.tile == tile && r.tag == p.tag.toNat) = some r := hreq
  have hlnk : (tick s now).lnk = s.lnk := rfl
  show execTngResponseArrive p stamp now s = _
  simp only [execTngResponseArrive, hlnk, htile', hreq', hown, Bool.false_eq_true, if_false, injectEvent_notArmed harm',
    if_neg (Nat.not_lt.2 hstamp)]

/-- The timeout is signalled and counted, and its tag keeps for a late answer. -/
def timedOut (s : State) (tile : Fin 288) (r : TReq) (now : Nat) : State :=
  { inc (intSet (tick s now) (tngTPg tile) 2) (tngTPg tile + 0x128) with
    tng := { s.tng with stale := s.tng.stale ++ [(tile.val, r.tag)] } }

theorem exec_tngTimeout {tile : Fin 288} {tag : BitVec 7} {now : Nat} {s : State} {r : TReq}
    (hreq : s.tng.reqs.find? (fun r => r.tile == tile.val && r.tag == tag.toNat) = some r) (hlate : r.deadline + 64 < max s.time now)
    (hquiet : ∀ p ∈ s.lnk.answers, p.tag ≠ tag) (hanswer : r.answer = none) :
    exec (.tngTimeout tile tag now) s = .next (endReq (timedOut s tile r now) r 2 0 []) := by
  have hreq' : (tick s now).tng.reqs.find? (fun r => r.tile == tile.val && r.tag == tag.toNat) = some r := hreq
  have hnone : ¬ ((tick s now).time ≤ r.deadline + 64 ∨
      (tick s now).lnk.answers.any (fun p => p.tag == tag && decide (physOf (tick s now) p.tile.toNat = some tile.val)) = true) := by
    refine not_or.2 ⟨Nat.not_le.2 hlate, Bool.not_eq_true _ ▸ List.any_eq_false.2 fun p hp => ?_⟩
    simp [hquiet p hp]
  have htng : (inc (intSet (tick s now) (tngTPg tile) 2) (tngTPg tile + 0x128)).tng = s.tng := by rw [inc_tng, intSet_tng]; rfl
  show execTngTimeout tile tag now s = _
  simp only [execTngTimeout, hreq', if_neg hnone, hanswer, timedOut, htng]

/-! ### Arrivals (R301, R310, R311) -/

/-- A GET of a range of a RUNNING partition is accepted: isolation, votes, steps and builds concern what changes memory. -/
theorem deliver_get {s : State} {q a n : Nat} (hstate : partState s q = 2) (hin : inPart s q a n = true) (etype x : Nat)
    (step : Option W32) : deliver s q .get a n etype x step = .accepted s := by
  simp [deliver, hstate, hin, buildNotify]

/-- The request as accepted: it waits for its block operations. -/
def inboundOf (s : State) (port : Fin 16) (p : ReqPkt) (q : Nat) : Inbound :=
  { id := s.tng.nextId, port := port, pkt := p, part := q, data := [], answer := none }

/-- The request has left its port and is among those accepted. -/
def getArrived (s : State) (now : Nat) (port : Fin 16) (p : ReqPkt) (q : Nat) : State :=
  let u := (freshTng (takeArrival (tick s now) port p)).2
  { u with tng := { u.tng with inbound := u.tng.inbound ++ [inboundOf s port p q] } }

theorem tngRequestArrive_gives {port : Fin 16} {p : ReqPkt} {ecc : Ecc} {now q : Nat} {s : State} (hjob : partOfJob s p.job = some q)
    (hstate : partState s q = 2) (hin : inPart s q p.addr.toNat (reqSpan p.opc p.etype.toNat p.len) = true) (hopc : p.opc = .get) :
    Gives (.tngRequestArrive (some port) p ecc now) s (fun t =>
      (∃ x, t.tng.inbound = s.tng.inbound ++ [x] ∧ x.pkt = p ∧ x.part = q ∧ x.port = port.val ∧ x.answer = none) ∧
      t.mem.hbm = s.mem.hbm) := by
  have hjob' : partOfJob (takeArrival (tick s now) port p) p.job = some q := hjob
  have htaken := deliver_get (s := takeArrival (tick s now) port p) hstate hin p.etype.toNat (leNat (p.data.take 8)) p.step
  rw [← hopc] at htaken
  have hexec : ∃ pl rs, exec (.tngRequestArrive (some port) p ecc now) s =
      .next (enterOps (getArrived s now port p q) pl q rs p.data) := by
    show ∃ pl rs, execTngRequestArrive (some port) p ecc now s = _
    simp only [execTngRequestArrive, hjob', htaken]
    exact ⟨_, _, rfl⟩
  obtain ⟨pl, rs, hexec⟩ := hexec
  refine ⟨_, hexec, ⟨inboundOf s port p q, ?_, rfl, rfl, rfl, rfl⟩, ?_⟩
  · rw [enterOps_keeps]
    rfl
  · rw [enterOps_keeps]
    rfl

/-- Settles O22: one lemma for each of the four commands. -/
theorem tongsRequests : Obligations.TongsRequests :=
  ⟨fun _ _ _ _ _ _ _ _ _ hop hp hpieces hfail htags hlast hmod hroute hopc hfree =>
      tngRequestIssue_gives ⟨hop, hp, hpieces, hfail, htags, hlast, hmod, hroute, hopc⟩ hfree,
    fun _ _ _ _ _ _ htile hreq hown harm hstamp => exec_tngResponseArrive htile hreq hown harm hstamp,
    fun _ _ _ _ _ hreq hlate hquiet hanswer => ⟨_, exec_tngTimeout hreq hlate hquiet hanswer, rfl⟩,
    fun _ _ _ _ _ _ hjob hstate hin hopc => tngRequestArrive_gives hjob hstate hin hopc⟩

end Sys2Proof.Machine
end

section
/-!
What leaves the links and the registers of the dies as they were, and where the page of a port lies
(13_mboano_link_fabric_time.md R334, R340, R346, 18_safety_security_clinker.md R459): the layer under O34 and O35.
-/
namespace Sys2Proof.Machine

/-! ### Registers of one page -/

section
variable (s : State) (pg : Nat) {x y : Nat} (h : y ≠ x)
include h

theorem rdW_wr_page (v : Nat) : rdW (wr s (pg + x) v) (pg + y) = rdW s (pg + y) := rdW_wr_ne _ _ (by omega)

theorem rdW_wrW_page (v : W32) : rdW (wrW s (pg + x) v) (pg + y) = rdW s (pg + y) := by
  rw [rdW, wrW_regs, cGet_cSet_ne _ _ _ (by omega), rdW]

theorem rdW_wrF_page (hi lo f : Nat) : rdW (wrF s (pg + x) hi lo f) (pg + y) = rdW s (pg + y) := rdW_wr_page s pg h _

theorem rdW_inc_page : rdW (inc s (pg + x)) (pg + y) = rdW s (pg + y) := rdW_wr_page s pg h _

theorem rdW_incBy_page (n : Nat) : rdW (incBy s (pg + x) n) (pg + y) = rdW s (pg + y) := rdW_wr_page s pg h _

end

theorem rdW_intSet_page (s : State) (pg : Nat) {y : Nat} (bits : Nat) (h : y ≠ hIntStat) :
    rdW (intSet s pg bits) (pg + y) = rdW s (pg + y) := rdW_intSet_ne _ _ (by omega)

theorem rdW_wrW_same (s : State) (o : Nat) (v : W32) : rdW (wrW s o v) o = v := by rw [rdW, wrW_regs, cGet_cSet_same]

/-- A field of a register of which another field is written. -/
theorem rdF_wrF_ne (s : State) (o : Nat) {hi lo hi' lo' : Nat} (f : Nat) (h : lo ≤ hi) (h32 : hi' < 32) (hd : hi' < lo ∨ hi < lo') :
    rdF (wrF s o hi lo f) o hi' lo' = rdF s o hi' lo' := by
  rw [rdF, wrF, rd_wr_same, bitsOf_mod _ _ _ h32, bitsOf_putBits_ne _ _ h hd, rdF]

/-- The pages of two ports share no offset, and two registers of one page are different. -/
theorem lnkPg_add_ne {m n x y : Nat} (hx : x < 4096) (hy : y < 4096) (h : x ≠ y) : lnkPg m + x ≠ lnkPg n + y := by
  simp only [lnkPg]
  omega

/-- No register of a port's page lies on a routing page. -/
theorem lnkPg_ne_rtPg (n d : Nat) {x y : Nat} (hx : x < 4096) (hy : y < 4096) : lnkPg n + x ≠ rtPg d + y := by
  simp only [lnkPg, rtPg]
  omega

theorem dieRegs_le_lnkPg (n x : Nat) : dieRegs ≤ lnkPg n + x := by
  simp only [dieRegs, lnkPg]
  omega

/-! ### Ports -/

@[simp] theorem portOf_setPort (s : State) (n : Nat) (x : Port) : portOf (setPort s n x) n = x := by simp [portOf, setPort]

theorem portOf_setPort_ne (s : State) {n m : Nat} (x : Port) (h : m ≠ n) : portOf (setPort s n x) m = portOf s m :=
  cGet_cSet_ne _ _ _ h

theorem portOf_congr {s t : State} (h : t.lnk = s.lnk) (n : Nat) : portOf t n = portOf s n := by rw [portOf, h, portOf]

theorem portState_of_rdW {s t : State} {n : Nat} (h : rdW t (lnkPg n + 0x104) = rdW s (lnkPg n + 0x104)) :
    portState t n = portState s n := rdF_of_rdW h 31 28

/-! ### What leaves the links and the dies -/

/-- The links, the registers of the dies and the state of the reference clock are as they were. -/
structure DiesKept (s t : State) : Prop where
  lnk    : t.lnk = s.lnk
  regs   : ∀ {o}, dieRegs ≤ o → rdW t o = rdW s o
  refclk : t.ftm.refclk = s.ftm.refclk

theorem DiesKept.refl (s : State) : DiesKept s s := ⟨rfl, fun _ => rfl, rfl⟩

theorem DiesKept.trans {s t u : State} (h1 : DiesKept s t) (h2 : DiesKept t u) : DiesKept s u :=
  ⟨h2.lnk.trans h1.lnk, fun ho => (h2.regs ho).trans (h1.regs ho), h2.refclk.trans h1.refclk⟩

theorem DiesKept.portOf_eq {s t : State} (h : DiesKept s t) (n : Nat) : portOf t n = portOf s n := portOf_congr h.lnk n

theorem DiesKept.rdW_port {s t : State} (h : DiesKept s t) (n x : Nat) : rdW t (lnkPg n + x) = rdW s (lnkPg n + x) :=
  h.regs (dieRegs_le_lnkPg n x)

section
variable (s : State)

theorem diesKept_wr {o : Nat} (v : Nat) (h : o < dieRegs) : DiesKept s (wr s o v) :=
  ⟨wr_lnk .., fun _ => rdW_wr_ne _ _ (by omega), by rw [wr_ftm]⟩

theorem diesKept_wrF {o : Nat} (hi lo f : Nat) (h : o < dieRegs) : DiesKept s (wrF s o hi lo f) := diesKept_wr s _ h

theorem diesKept_incBy {o : Nat} (n : Nat) (h : o < dieRegs) : DiesKept s (incBy s o n) := diesKept_wr s _ h

theorem diesKept_inc {o : Nat} (h : o < dieRegs) : DiesKept s (inc s o) := diesKept_incBy s 1 h

theorem diesKept_intSet {pg : Nat} (bits : Nat) (h : pg < 0x00800000) : DiesKept s (intSet s pg bits) :=
  ⟨intSet_lnk .., fun ho => rdW_intSet_die ho s bits h, by rw [intSet_ftm]⟩

theorem diesKept_queueEvent (cat seq : Nat) : DiesKept s (queueEvent s cat seq) := by
  have hevents (l : List Nat) : DiesKept s { s with mgt := { s.mgt with events := l } } := ⟨rfl, fun _ => rfl, rfl⟩
  rw [queueEvent]
  split
  · split
    · exact ((hevents _).trans (diesKept_incBy _ 1 (by decide))).trans (diesKept_intSet _ _ (by decide))
    · exact (hevents _).trans (diesKept_intSet _ _ (by decide))
  · exact .refl s

theorem diesKept_clnInterrupt (cat : Nat) : DiesKept s (clnInterrupt s cat) := by
  have hset (b : Bool) (u : State) (bits : Nat) : DiesKept u (if b then intSet u clnPg bits else u) := by
    cases b
    · exact .refl u
    · exact diesKept_intSet u bits (by decide)
  exact (hset _ s 1).trans (hset _ _ 2)

theorem diesKept_clinker (r : LogRec) : DiesKept s (clinker s r) := by
  refine .trans ?_ ((diesKept_queueEvent _ _ _).trans (diesKept_clnInterrupt _ _))
  constructor
  case lnk => show (if r.payload.isNone && r.closes.isNone then { s with free := s.free + 1 } else s).lnk = s.lnk; split <;> rfl
  case regs =>
    intro o _
    show cGet regReset (if r.payload.isNone && r.closes.isNone then { s with free := s.free + 1 } else s).win.regs o = rdW s o
    split <;> rfl
  case refclk =>
    show (if r.payload.isNone && r.closes.isNone then { s with free := s.free + 1 } else s).ftm.refclk = s.ftm.refclk
    split <;> rfl

theorem diesKept_rewriteDevice : DiesKept s (rewriteDevice s) := by
  rw [rewriteDevice, raiseArc]
  split
  · exact ⟨rfl, fun _ => rfl, rfl⟩
  · exact .refl s

/-- A calibration record changes the calibration and SD's register of what is due (R428). -/
theorem diesKept_takeRec (k temp : Nat) : DiesKept s (takeRec s k temp) := by
  have hrec (c : Cal) : DiesKept s (setCal s c) := ⟨rfl, fun _ => rfl, rfl⟩
  rw [takeRec, showDue]
  exact (hrec _).trans (diesKept_wrF _ _ _ _ (by decide))

/-! ### The fabric-time unit -/

/-- The counts of exchanges and the entry into a state leave the reference clock (R340). -/
theorem diesKept_setFtm {x : FabricTime} (h : x.refclk = s.ftm.refclk) : DiesKept s (setFtm s x) := ⟨rfl, fun _ => rfl, h⟩

theorem diesKept_countHold : DiesKept s (countHold s) := by
  rw [countHold]
  split
  · exact diesKept_wr s _ (by decide)
  · exact .refl s

/-- An entry into HOLDOVER or FREE: UNLOCK, the count and the clinker entry. -/
theorem diesKept_unlocked (bits : Nat) (r : LogRec) :
    DiesKept s (clinker (inc (intSet s ftmPg bits) (ftmPg + 0x138)) r) :=
  .trans (.trans (diesKept_intSet s bits (by decide)) (diesKept_inc _ (by decide))) (diesKept_clinker _ r)

theorem diesKept_enterFtm (st : Nat) : DiesKept s (enterFtm s st) := by
  have hentered : DiesKept s (wrF (countHold s) (ftmPg + 0x104) 2 0 st) :=
    (diesKept_countHold s).trans (diesKept_wrF _ _ _ _ (by decide))
  have hset := hentered.trans (diesKept_setFtm _ (x := { (wrF (countHold s) (ftmPg + 0x104) 2 0 st).ftm with
    good := 0, bad := 0, since := (wrF (countHold s) (ftmPg + 0x104) 2 0 st).time }) rfl)
  unfold enterFtm
  split
  · exact .refl s
  · dsimp only
    split
    · exact hset.trans (diesKept_intSet _ _ (by decide))
    · split
      · exact hset.trans (diesKept_unlocked ..)
      · split
        · exact hset.trans (diesKept_unlocked ..)
        · exact hset

theorem diesKept_dropLock : DiesKept s (dropLock s) :=
  .trans (.trans (diesKept_enterFtm s 1) (diesKept_intSet _ _ (by decide))) (diesKept_clinker ..)

/-- The fields of FTM_STAT that name the upstream port and the hops. -/
theorem diesKept_upstream (up hops : Nat) :
    DiesKept s (wrF (wrF s (ftmPg + 0x104) 28 24 up) (ftmPg + 0x104) 20 16 hops) :=
  (diesKept_wrF s _ _ _ (by decide)).trans (diesKept_wrF _ _ _ _ (by decide))

theorem diesKept_setRoot (root up hops : Nat) : DiesKept s (setRoot s root up hops) := by
  have hup := diesKept_upstream s up hops
  unfold setRoot
  dsimp only
  split
  · exact hup
  · exact (hup.trans (diesKept_wr _ _ (by decide))).trans ((diesKept_intSet _ _ (by decide)).trans (diesKept_clinker ..))

theorem diesKept_noUpstream (far : Bool) : DiesKept s (noUpstream s far) := by
  have hup := diesKept_upstream s 0x1F 0x1F
  unfold noUpstream
  dsimp only
  split
  · exact hup.trans (diesKept_enterFtm ..)
  · split
    · exact hup.trans (diesKept_enterFtm ..)
    · split
      · exact hup.trans (diesKept_enterFtm ..)
      · exact hup

/-- An election changes the unit's registers and the clinker log. -/
theorem diesKept_electRoot : DiesKept s (electRoot s) := by
  have hself := (diesKept_setRoot s (moduleId s) 0x1F 0).trans (diesKept_enterFtm _ 5)
  unfold electRoot
  split
  · exact .refl s
  · dsimp only
    split
    · split
      · exact hself
      · exact diesKept_noUpstream s false
    · split
      · exact hself
      · split
        · exact diesKept_noUpstream s true
        · split
          · exact (diesKept_setRoot ..).trans (diesKept_enterFtm ..)
          · split
            · exact (diesKept_setRoot ..).trans (diesKept_enterFtm ..)
            · exact diesKept_setRoot ..

theorem diesKept_applyOffset (o : Int) : DiesKept s (applyOffset s o) := by
  unfold applyOffset
  dsimp only
  generalize (if o.natAbs < oneNano then s.ftm.good + 1 else 0) = good
  generalize (if o.natAbs > oneMicro then s.ftm.bad + 1 else 0) = bad
  have hcounted : DiesKept s (setFtm s { s.ftm with good := good, bad := bad }) := diesKept_setFtm s rfl
  have hstepped (n : Nat) : DiesKept s { setFtm s { s.ftm with good := good, bad := bad } with time := n } :=
    hcounted.trans ⟨rfl, fun _ => rfl, rfl⟩
  split
  · exact (hstepped _).trans ((diesKept_intSet _ _ (by decide)).trans (diesKept_inc _ (by decide)))
  · split
    · split
      · exact hcounted.trans (diesKept_enterFtm ..)
      · exact hcounted
    · split
      · exact hcounted.trans (diesKept_dropLock _)
      · exact hcounted

theorem diesKept_servo : DiesKept s (servo s) := by
  have hdrawn : DiesKept s (drawFree s).2 := ⟨rfl, fun _ => rfl, rfl⟩
  exact hdrawn.trans (diesKept_wr _ _ (by decide))

end

/-- A change of the UP ports sets the end of a hold alone (R334). -/
theorem portsChanged_keeps (s : State) :
    portsChanged s = { s with lnk := { s.lnk with hold := (portsChanged s).lnk.hold } } := by
  simp only [portsChanged]
  split
  · rfl
  · split <;> rfl

theorem rdW_portsChanged (s : State) (o : Nat) : rdW (portsChanged s) o = rdW s o := by rw [portsChanged_keeps]; rfl

end Sys2Proof.Machine
end

section
/-!
Flits of the Mboano ports (13_mboano_link_fabric_time.md R325 to R333): what the traffic of packets leaves of the retry, and the flits
sent and received. The first half of O34.
-/
namespace Sys2Proof.Machine

/-! ### What packets on their way leave of a port -/

/-- A port without what packets change as they are queued and taken: its queue, the credits owed, the streams it receives. -/
def Port.base (x : Port) : Port := { x with queue := [], owed := [], rx := [] }

/-- Of every port all but its base is as it was, and of its page all but the interrupt bits and the count of dropped packets. -/
structure TrafficOnly (s t : State) : Prop where
  base : ∀ n, (portOf t n).base = (portOf s n).base
  regs : ∀ n {x}, x < 4096 → x ≠ hIntStat → x ≠ 0x148 → rdW t (lnkPg n + x) = rdW s (lnkPg n + x)

theorem TrafficOnly.refl (s : State) : TrafficOnly s s := ⟨fun _ => rfl, fun _ _ _ _ _ => rfl⟩

theorem TrafficOnly.trans {s t u : State} (h1 : TrafficOnly s t) (h2 : TrafficOnly t u) : TrafficOnly s u :=
  ⟨fun n => (h2.base n).trans (h1.base n), fun n _ hx hi hd => (h2.regs n hx hi hd).trans (h1.regs n hx hi hd)⟩

section
variable {s t : State} (h : TrafficOnly s t) (n : Nat)
include h

theorem TrafficOnly.txSeq_eq : (portOf t n).txSeq = (portOf s n).txSeq := congrArg (·.txSeq) (h.base n)
theorem TrafficOnly.rxSeq_eq : (portOf t n).rxSeq = (portOf s n).rxSeq := congrArg (·.rxSeq) (h.base n)
theorem TrafficOnly.replay_eq : (portOf t n).replay = (portOf s n).replay := congrArg (·.replay) (h.base n)
theorem TrafficOnly.again_eq : (portOf t n).again = (portOf s n).again := congrArg (·.again) (h.base n)
theorem TrafficOnly.dropping_eq : (portOf t n).dropping = (portOf s n).dropping := congrArg (·.dropping) (h.base n)

/-- A 64-bit counter of the port's page. -/
theorem TrafficOnly.rd64_eq {x : Nat} (hx : 0x020 ≤ x ∧ x < 0x144) : rd64 t (lnkPg n + x) = rd64 s (lnkPg n + x) := by
  have hlo := h.regs n (x := x) (by omega) (by simp only [hIntStat]; omega) (by omega)
  have hhi := h.regs n (x := x + 4) (by omega) (by simp only [hIntStat]; omega) (by omega)
  rw [rd64, Nat.add_assoc, rd_of_rdW hlo, rd_of_rdW hhi, rd64, Nat.add_assoc]

end

/-- Neither a port nor a register has changed. -/
theorem trafficOnly_of_eq {s t : State} (hports : t.lnk.ports = s.lnk.ports) (hwin : t.win = s.win) : TrafficOnly s t :=
  ⟨fun n => by rw [portOf, hports, portOf], fun _ _ _ _ _ => rdW_congr (congrArg Window.regs hwin) _⟩

/-- A relation that each step of a fold keeps holds of the fold. -/
theorem trafficOnly_foldl {α : Type} {f : State → α → State} (h : ∀ s a, TrafficOnly s (f s a)) (l : List α) (s : State) :
    TrafficOnly s (l.foldl f s) := by
  induction l generalizing s with
  | nil => exact .refl s
  | cons a l ih => exact (h s a).trans (ih _)

section
variable (s : State)

/-- A port whose queue, credits owed or received streams change. -/
theorem trafficOnly_setPort {n : Nat} {x : Port} (h : x.base = (portOf s n).base) : TrafficOnly s (setPort s n x) := by
  refine ⟨fun m => ?_, fun _ _ _ _ _ => rfl⟩
  by_cases hm : m = n
  · subst hm
    rw [portOf_setPort, h]
  · rw [portOf_setPort_ne _ _ hm]

theorem trafficOnly_inject (q : QPkt) : TrafficOnly s (inject s q) := by
  simp only [inject]
  split
  · split
    · exact trafficOnly_setPort s rfl
    · exact trafficOnly_of_eq rfl rfl
  · exact trafficOnly_of_eq rfl rfl

theorem trafficOnly_noteNoRoute (die : Nat) : TrafficOnly s (noteNoRoute s die) := by
  refine ⟨fun n => by rw [noteNoRoute, portOf_congr (inc_lnk ..), portOf_congr (intSet_lnk ..)], fun n x hx _ _ => ?_⟩
  rw [noteNoRoute, rdW_inc_ne _ (lnkPg_ne_rtPg n die hx (by decide)), rdW_intSet_ne _ _ (lnkPg_ne_rtPg n die hx (by decide))]

theorem trafficOnly_sendResponse (die : Nat) (p : ReqPkt) (status sub : Nat) (data : List Byte) :
    TrafficOnly s (sendResponse s die p status sub data) := by
  simp only [sendResponse]
  split
  · exact trafficOnly_noteNoRoute s die
  · exact trafficOnly_inject s _

/-! ### What is owed to other modules (R304) -/

theorem trafficOnly_postAll (ms : List ReqPkt) : TrafficOnly s (postAll ms s) := by
  induction ms generalizing s with
  | nil => exact .refl s
  | cons m ms ih =>
    rw [postAll]
    refine .trans ?_ (ih _)
    split
    · exact trafficOnly_noteNoRoute s _
    · exact trafficOnly_inject s _

theorem trafficOnly_settleInbound (is : List Inbound) : TrafficOnly s (settleInbound is s) := by
  induction is generalizing s with
  | nil => exact .refl s
  | cons i is ih =>
    rw [settleInbound]
    refine .trans ?_ (ih _)
    split
    · exact .refl s
    · have hreleased (l : List Inbound) : TrafficOnly s (releaseOps { s with tng := { s.tng with inbound := l } } (.inbound i.id)) :=
        trafficOnly_of_eq rfl rfl
      exact (hreleased _).trans (trafficOnly_sendResponse ..)

theorem trafficOnly_drainOut : TrafficOnly s (drainOut s) := by
  have htaken (l : List ReqPkt) : TrafficOnly s { s with qch := { s.qch with posted := l } } := trafficOnly_of_eq rfl rfl
  rw [drainOut]
  exact ((htaken _).trans (trafficOnly_postAll ..)).trans (trafficOnly_settleInbound ..)

/-! ### The packets of a flit (R328, R331, R333) -/

theorem trafficOnly_dropPacket (n : Nat) : TrafficOnly s (dropPacket s n) := by
  refine ⟨fun m => by rw [dropPacket, portOf_congr (inc_lnk ..), portOf_congr (intSet_lnk ..)], fun m x hx hi hd => ?_⟩
  rw [dropPacket, rdW_inc_ne _ (lnkPg_add_ne hx (by decide) hd), rdW_intSet_ne _ _ (lnkPg_add_ne hx (by decide) hi)]

theorem trafficOnly_routeReq (n vc id : Nat) (p : ReqPkt) (more : Bool) : TrafficOnly s (routeReq s n vc id p more) := by
  rw [routeReq]
  split
  · exact trafficOnly_dropPacket s n
  · split
    · exact trafficOnly_of_eq rfl rfl
    · split
      · exact (trafficOnly_noteNoRoute s _).trans (trafficOnly_sendResponse ..)
      · exact trafficOnly_inject s _

theorem trafficOnly_routeRsp (n vc : Nat) (p : RspPkt) : TrafficOnly s (routeRsp s n vc p) := by
  rw [routeRsp]
  split
  · exact trafficOnly_of_eq rfl rfl
  · split
    · exact trafficOnly_noteNoRoute s _
    · exact trafficOnly_inject s _

theorem trafficOnly_setRxStream (n k : Nat) (p : Option ReqPkt) : TrafficOnly s (setRxStream s n k p) :=
  trafficOnly_setPort s rfl

theorem trafficOnly_takePacket (n : Nat) (p : LinkPkt) : TrafficOnly s (takePacket n s p) := by
  have howed := trafficOnly_setPort s (n := n) (x := { portOf s n with
    owed := setNth (portOf s n).owed (pktVc p) (nth 0 (portOf s n).owed (pktVc p) + pktUnits p) }) rfl
  refine howed.trans ?_
  simp only [takePacket]
  generalize setPort s n _ = u
  cases p with
  | req vc h r =>
    refine .trans ?_ (trafficOnly_routeReq ..)
    split
    · exact trafficOnly_setRxStream ..
    · split
      · exact .refl u
      · exact trafficOnly_setRxStream ..
  | cont vc h len data =>
    dsimp only
    split
    · exact .refl u
    · exact (trafficOnly_setRxStream ..).trans (trafficOnly_routeReq ..)
  | rsp vc r => exact trafficOnly_routeRsp ..
  | sync => exact .refl u
  | link => exact .refl u

end

/-! ### What a flit takes of its port, and leaves of it (R325, R326, R328) -/

theorem fillCtl_replay (fuel : Nat) (x : Port) (room : Nat) : (fillCtl fuel x room).1.replay = x.replay := by
  induction fuel generalizing x room with
  | zero => rfl
  | succ fuel ih =>
    rw [fillCtl]
    split
    · rfl
    · split
      · exact ih _ _
      · rfl

theorem toPacket_replay (x : Port) (q : QPkt) : (toPacket x q).2.replay = x.replay := by
  simp only [toPacket]
  split
  · rfl
  · split
    · rfl
    · split
      · split <;> rfl
      · split <;> rfl

theorem nextPacket_replay {x y : Port} {room v : Nat} {q : QPkt} {p : LinkPkt} (h : nextPacket x room = some (v, q, p, y)) :
    y.replay = x.replay := by
  obtain ⟨i, -, hi⟩ := List.exists_of_findSome?_eq_some h
  dsimp only at hi
  split at hi
  · contradiction
  · split at hi
    · simp only [Option.some.injEq, Prod.mk.injEq] at hi
      obtain ⟨-, rfl, -, rfl⟩ := hi
      exact toPacket_replay x _
    · contradiction

theorem fillFlit_replay (fuel : Nat) (x : Port) (room : Nat) : (fillFlit fuel x room).1.replay = x.replay := by
  induction fuel generalizing x room with
  | zero => rfl
  | succ fuel ih =>
    rw [fillFlit]
    split
    · rfl
    · next h =>
      have hnext := nextPacket_replay h
      exact (ih _ _).trans hnext

/-- The port after the packets of its next new flit have left its queues, and the flit before its control field. -/
def filled (x : Port) : Port × Flit :=
  let c := fillCtl x.ctl.length x 5128
  let q := fillFlit c.1.queue.length c.1 c.2.1
  (q.1, { seq := x.txSeq, ack := 0, nak := false, cvc := 0xFF, credits := 0, pkts := c.2.2 ++ q.2 })

theorem filled_replay (x : Port) : (filled x).1.replay = x.replay := (fillFlit_replay ..).trans (fillCtl_replay ..)

/-- The port that has sent a new flit: the flit stands in the replay buffer, and the next SEQ follows. -/
def sentNew (x : Port) : Port :=
  let r := withControl (filled x).1 (filled x).2
  { r.2 with txSeq := x.txSeq + 1, replay := r.2.replay ++ [r.1] }

theorem sentNew_kept (x : Port) : (sentNew x).txSeq = x.txSeq + 1 ∧ (sentNew x).replay.length = x.replay.length + 1 ∧
    (sentNew x).sent.map (·.seq) = some x.txSeq := by
  refine ⟨rfl, ?_, rfl⟩
  rw [← filled_replay x]
  exact List.length_append

/-- The port that has sent a flit again. -/
def sentAgain (x : Port) (f : Flit) (fs : List Flit) : Port := (withControl { x with again := fs } f).2

/-- The port that has accepted a flit, with its acknowledgement and the credits of one channel. -/
def acceptedPort (x : Port) (f : Flit) : Port :=
  let x := ackFlits { x with rxSeq := f.seq, dropping := false } f.ack
  if f.cvc.toNat < 5 then { x with credits := setNth x.credits f.cvc.toNat (nth 0 x.credits f.cvc.toNat + f.credits.toNat) } else x

theorem acceptedPort_seq (x : Port) (f : Flit) : (acceptedPort x f).rxSeq = f.seq ∧ (acceptedPort x f).dropping = false := by
  rw [acceptedPort]
  split <;> exact ⟨rfl, rfl⟩

theorem injectLane_notArmed {s : State} {n : Nat} (h : notArmed s (lnkPg n)) : injectLane s n = s := by
  simp only [injectLane, injectEvent_notArmed h]

/-! ### FLIT_SEND (R325, R326) -/

theorem trafficOnly_tick (s : State) (now : Nat) : TrafficOnly s (tick s now) := trafficOnly_of_eq rfl rfl

section
variable {n : Fin 16} {now : Nat} {s : State} (hup : portState s n = 2)
include hup

theorem exec_flitSend_new {u : State} (hu : drainOut (tick s now) = u) (hagain : (portOf u n).again = [])
    (hroom : (portOf u n).replay.length < 96) :
    exec (.flitSend n now) s = .next (inc64 (setPort u n (sentNew (portOf u n))) (lnkPg n + 0x120) 1) := by
  have hup' : ¬ portState (tick s now) n ≠ 2 := fun h => h hup
  show execFlitSend n now s = _
  simp only [execFlitSend, if_neg hup', hu, hagain, if_neg (Nat.not_le.2 hroom)]
  rfl

theorem exec_flitSend_again {u : State} {f : Flit} {fs : List Flit} (hu : drainOut (tick s now) = u)
    (hagain : (portOf u n).again = f :: fs) :
    exec (.flitSend n now) s = .next (inc64 (setPort u n (sentAgain (portOf u n) f fs)) (lnkPg n + 0x120) 1) := by
  have hup' : ¬ portState (tick s now) n ≠ 2 := fun h => h hup
  show execFlitSend n now s = _
  simp only [execFlitSend, if_neg hup', hu, hagain]
  rfl

/-- With room in the replay buffer a new flit is sent and kept. -/
theorem flitSend_new (hagain : (portOf s n).again = []) (hroom : (portOf s n).replay.length < 96) :
    Gives (.flitSend n now) s (fun t => (portOf t n).txSeq = (portOf s n).txSeq + 1 ∧
      (portOf t n).replay.length = (portOf s n).replay.length + 1 ∧
      ((portOf t n).sent.map (·.seq)) = some (portOf s n).txSeq ∧ Counted64 s t (lnkPg n + 0x120) 1) := by
  have hdrained := (trafficOnly_tick s now).trans (trafficOnly_drainOut (tick s now))
  generalize hu : drainOut (tick s now) = u at hdrained
  rw [← hdrained.again_eq] at hagain
  rw [← hdrained.replay_eq] at hroom
  have hport : portOf (inc64 (setPort u n (sentNew (portOf u n))) (lnkPg n + 0x120) 1) n = sentNew (portOf u n) := by
    rw [portOf_congr (inc64_lnk ..), portOf_setPort]
  obtain ⟨hseq, hlength, hsent⟩ := sentNew_kept (portOf u n)
  refine ⟨_, exec_flitSend_new hup hu hagain hroom, ?_, ?_, ?_, counted64_inc64_of_rd64 (hdrained.rd64_eq n (by decide))⟩
  · rw [hport, hseq, hdrained.txSeq_eq]
  · rw [hport, hlength, hdrained.replay_eq]
  · rw [hport, hsent, hdrained.txSeq_eq]

/-- A flit that a NAK asks for is sent again under its own SEQ. -/
theorem flitSend_again {f : Flit} {fs : List Flit} (hagain : (portOf s n).again = f :: fs) :
    Gives (.flitSend n now) s (fun t => (portOf t n).again = fs ∧ (portOf t n).txSeq = (portOf s n).txSeq ∧
      ((portOf t n).sent.map (·.pkts)) = some f.pkts) := by
  have hdrained := (trafficOnly_tick s now).trans (trafficOnly_drainOut (tick s now))
  generalize hu : drainOut (tick s now) = u at hdrained
  rw [← hdrained.again_eq] at hagain
  have hport : portOf (inc64 (setPort u n (sentAgain (portOf u n) f fs)) (lnkPg n + 0x120) 1) n = sentAgain (portOf u n) f fs := by
    rw [portOf_congr (inc64_lnk ..), portOf_setPort]
  refine ⟨_, exec_flitSend_again hup hu hagain, ?_, ?_, ?_⟩
  · rw [hport]
    rfl
  · rw [hport, ← hdrained.txSeq_eq]
    rfl
  · rw [hport]
    rfl

/-! ### FLIT_RECEIVE (R325) -/

variable (hinj : notArmed s (lnkPg n))
include hinj

/-- A flit next in order is accepted and counted, and its packets are taken. -/
theorem flitReceive_intact {f : Flit} (hseq : f.seq = (portOf s n).rxSeq + 1) (hnak : f.nak = false) :
    Gives (.flitReceive n f true now) s (fun t => (portOf t n).rxSeq = f.seq ∧ (portOf t n).dropping = false ∧
      Counted64 s t (lnkPg n + 0x128) 1) := by
  have hup' : ¬ portState (tick s now) n ≠ 2 := fun h => h hup
  have hseq' : ¬ f.seq ≠ (portOf (tick s now) n).rxSeq + 1 := fun h => h hseq
  generalize haccepted : inc64 (setPort (tick s now) n (acceptedPort (portOf s n) f)) (lnkPg n + 0x128) 1 = u
  have hport : portOf u n = acceptedPort (portOf s n) f := by rw [← haccepted, portOf_congr (inc64_lnk ..), portOf_setPort]
  have hcount : Counted64 s u (lnkPg n + 0x128) 1 := by
    rw [← haccepted]
    exact counted64_inc64_of_rd64 rfl
  have hpackets := trafficOnly_foldl (fun s p => trafficOnly_takePacket s n p) f.pkts u
  obtain ⟨hrx, hdrop⟩ := acceptedPort_seq (portOf s n) f
  have hexec : exec (.flitReceive n f true now) s = .next (f.pkts.foldl (takePacket n) u) := by
    show execFlitReceive n f true now s = _
    rw [← haccepted]
    simp only [execFlitReceive, injectLane_notArmed (s := tick s now) hinj, if_neg hup', if_neg hseq', hnak, Bool.true_eq_false,
      Bool.false_eq_true, if_false]
    rfl
  refine ⟨_, hexec, ?_, ?_, ?_⟩
  · rw [hpackets.rxSeq_eq, hport, hrx]
  · rw [hpackets.dropping_eq, hport, hdrop]
  · rw [Counted64, hpackets.rd64_eq n (by decide)]
    exact hcount

/-- A flit that fails its checks is counted and dropped, and a NAK is due. -/
theorem flitReceive_failed (f : Flit) :
    Gives (.flitReceive n f false now) s (fun t => (portOf t n).nak = true ∧ (portOf t n).dropping = true ∧
      (portOf t n).rxSeq = (portOf s n).rxSeq ∧ t.lnk.arrivals = s.lnk.arrivals ∧ t.mem = s.mem) := by
  have hup' : ¬ portState (tick s now) n ≠ 2 := fun h => h hup
  have hexec : ∃ o, exec (.flitReceive n f false now) s = .next (failFlit (inc (drawFree (tick s now)).2 o) n) := by
    show ∃ o, execFlitReceive n f false now s = _
    simp only [execFlitReceive, injectLane_notArmed (s := tick s now) hinj, if_neg hup', if_true]
    exact ⟨_, rfl⟩
  obtain ⟨o, hexec⟩ := hexec
  have hport : portOf (failFlit (inc (drawFree (tick s now)).2 o) n) n = { portOf s n with nak := true, dropping := true } := by
    rw [failFlit, portOf_setPort]
    rfl
  refine ⟨_, hexec, ?_, ?_, ?_, rfl, rfl⟩
  · rw [hport]
  · rw [hport]
  · rw [hport]

end

end Sys2Proof.Machine
end

section
/-!
Lanes of the Mboano ports and the ports' going up and down (13_mboano_link_fabric_time.md R334 to R336, R347): the second half of O34.
-/
namespace Sys2Proof.Machine

/-! ### STATE (R347) -/

/-- STATE as it has just been written. -/
theorem portState_wrF (s : State) (n : Nat) {v : Nat} (h : v < 16) : portState (wrF s (lnkPg n + 0x104) 31 28 v) n = v :=
  (rdF_wrF s _ 31 28 v (by decide) (by decide)).trans (Nat.mod_eq_of_lt h)

/-- Another field of LNK_STAT leaves STATE. -/
theorem portState_wrF_ne (s : State) (n : Nat) {hi lo : Nat} (v : Nat) (h : lo ≤ hi) (hd : hi < 28) :
    portState (wrF s (lnkPg n + 0x104) hi lo v) n = portState s n := rdF_wrF_ne _ _ _ h (by decide) (.inr hd)

/-! ### Spare lanes (R335) -/

theorem rdW_spareMap_page (s : State) (n : Nat) {y : Nat} (h : y ≠ hSpare) :
    rdW (spareMap s n) (lnkPg n + y) = rdW s (lnkPg n + y) := by
  rw [spareMap, rdW_wrF_page _ _ h, rdW_wrF_page _ _ h]

/-- What is signalled, counted, recorded and logged of a swap is neither a port nor the register of its lanes. -/
theorem portOf_noteSwap (s : State) (n lane m : Nat) : portOf (noteSwap s n lane) m = portOf s m := by
  have hrecorded : (spareMap (inc (intSet s (lnkPg n) 4) (lnkPg n + 0x144)) n).lnk = s.lnk := by
    rw [spareMap, wrF_lnk, wrF_lnk, inc_lnk, intSet_lnk]
  exact (((diesKept_clinker _ _).trans (diesKept_rewriteDevice _)).portOf_eq m).trans (portOf_congr hrecorded m)

theorem rdW_noteSwap (s : State) (n lane y : Nat) : rdW (noteSwap s n lane) (lnkPg n + y) =
    rdW (spareMap (inc (intSet s (lnkPg n) 4) (lnkPg n + 0x144)) n) (lnkPg n + y) :=
  ((diesKept_clinker _ _).trans (diesKept_rewriteDevice _)).rdW_port n y

theorem rdW_noteSwap_lanes (s : State) (n lane : Nat) : rdW (noteSwap s n lane) (lnkPg n + 0x104) = rdW s (lnkPg n + 0x104) := by
  rw [rdW_noteSwap, rdW_spareMap_page _ _ (by decide), rdW_inc_page _ _ (by decide), rdW_intSet_page _ _ _ (by decide)]

theorem counted_noteSwap {s u : State} {n : Nat} (h : rdW u (lnkPg n + 0x144) = rdW s (lnkPg n + 0x144)) (lane : Nat) :
    Counted s (noteSwap u n lane) (lnkPg n + 0x144) 1 := by
  rw [Counted, rd_of_rdW ((rdW_noteSwap u n lane 0x144).trans (rdW_spareMap_page _ n (by decide)))]
  exact counted_inc_of_rd (rd_of_rdW ((rdW_intSet_page u _ 4 (by decide)).trans h))

/-- A lane of 0 to 7 as a field of four bits. -/
theorem rdF_wrF_lane (s : State) (o : Nat) {hi lo lane : Nat} (hw : hi + 1 - lo = 4) (h32 : hi < 32) (hlane : lane < 8) :
    rdF (wrF s o hi lo lane) o hi lo = lane := by
  rw [rdF_wrF _ _ _ _ _ (by omega) h32, hw]
  omega

/-- The receiver takes the lane from the spare from a flit on, and a LINK packet says so. -/
def spareReceives (s : State) (n : Fin 16) (lane : Nat) : State :=
  wrF (setPort s n { portOf s n with
    rxSwitch := some (lane, (portOf s n).rxSeq + 17),
    ctl := (portOf s n).ctl ++ [.link (Fin.ofNat 9 lane) ((portOf s n).rxSeq + 17)] }) (lnkPg n + 0x104) 19 16 lane

section
variable {n : Fin 16} {lane : Fin 9} {now : Nat} {s : State} (hup : portState s n = 2)
include hup

theorem markLane_spare {lane : Nat} (hfree : rdF s (lnkPg n + 0x104) 19 16 = 0xF) (hlane : lane < 8) :
    markLane s n lane = noteSwap (spareReceives s n lane) n lane := by
  have hgo : ¬(portState s n ≠ 2 ∨ lane = 0xF) := by omega
  simp only [markLane, hfree, if_neg hgo, ne_eq, not_true_eq_false, if_false, if_neg (Nat.not_le.2 hlane)]
  rfl

/-- A data lane that has lost lock is taken from the spare (R335). -/
theorem laneSignalLoss_gives (hfree : rdF s (lnkPg n + 0x104) 19 16 = 0xF) (hlane : lane.val < 8) :
    Gives (.laneSignalLoss n lane now) s (fun t => rdF t (lnkPg n + 0x104) 19 16 = lane ∧ Counted s t (lnkPg n + 0x144) 1 ∧
      (portOf t n).ctl = (portOf s n).ctl ++ [.link (Fin.ofNat 9 lane.val) ((portOf s n).rxSeq + 17)] ∧ portState t n = 2) := by
  have hexec : exec (.laneSignalLoss n lane now) s = .next (noteSwap (spareReceives (tick s now) n lane) n lane) :=
    congrArg _ (markLane_spare (s := tick s now) hup hfree hlane)
  refine ⟨_, hexec, ?_, counted_noteSwap ?_ _, ?_, ?_⟩
  · rw [rdF_of_rdW (rdW_noteSwap_lanes ..), spareReceives, rdF_wrF_lane _ _ (by decide) (by decide) hlane]
  · rw [spareReceives, rdW_wrF_page _ _ (by decide)]
    rfl
  · rw [portOf_noteSwap, spareReceives, portOf_congr (wrF_lnk ..), portOf_setPort]
    rfl
  · rw [portState_of_rdW (rdW_noteSwap_lanes ..), spareReceives, portState_wrF_ne _ _ _ (by decide) (by decide)]
    exact hup

/-- The sender moves the lane that its peer names to the spare (R335). -/
theorem linkPacket_gives {sw : BitVec 16} (hfree : rdF s (lnkPg n + 0x104) 23 20 = 0xF) (hlane : lane.val < 8) :
    Gives (.linkPacket n lane sw now) s (fun t => rdF t (lnkPg n + 0x104) 23 20 = lane ∧
      (portOf t n).txSwitch = some (lane.val, sw) ∧ Counted s t (lnkPg n + 0x144) 1) := by
  have hfree' : rdF (tick s now) (lnkPg n + 0x104) 23 20 = 0xF := hfree
  have hgo : ¬(portState (tick s now) n ≠ 2 ∨ lane.val = 0xF) := not_or.2 ⟨fun h => h hup, by omega⟩
  have hexec : exec (.linkPacket n lane sw now) s = .next (noteSwap (wrF (setPort (tick s now) n
      { portOf (tick s now) n with txSwitch := some (lane.val, sw) }) (lnkPg n + 0x104) 23 20 lane) n lane) := by
    show execLinkPacket n lane sw now s = _
    simp only [execLinkPacket, hfree', if_neg hgo, ne_eq, not_true_eq_false, false_or, if_neg (Nat.not_le.2 hlane)]
  refine ⟨_, hexec, ?_, ?_, counted_noteSwap ?_ _⟩
  · rw [rdF_of_rdW (rdW_noteSwap_lanes ..), rdF_wrF_lane _ _ (by decide) (by decide) hlane]
  · rw [portOf_noteSwap, portOf_congr (wrF_lnk ..), portOf_setPort]
  · rw [rdW_wrF_page _ _ (by decide)]
    rfl

end

/-! ### The errors of a window (R335) -/

/-- Registers written in order from an offset. -/
theorem rd_wrRange (s : State) (o : Nat) (f : Nat → Nat) {n m : Nat} (h : m < n) :
    rd ((List.range n).foldl (fun s m => wr s (o + 4 * m) (f m)) s) (o + 4 * m) = f m % 2 ^ 32 := by
  induction n with
  | zero => omega
  | succ n ih =>
    rw [List.range_succ, List.foldl_append, List.foldl_cons, List.foldl_nil]
    by_cases hm : m = n
    · rw [hm, rd_wr_same]
    · rw [rd_wr_ne _ _ (by omega), ih (by omega)]

theorem rdW_wrRange_below (s : State) (o : Nat) (f : Nat → Nat) (n : Nat) {o' : Nat} (h : o' < o) :
    rdW ((List.range n).foldl (fun s m => wr s (o + 4 * m) (f m)) s) o' = rdW s o' := by
  induction n with
  | zero => rfl
  | succ n ih => rw [List.range_succ, List.foldl_append, List.foldl_cons, List.foldl_nil, rdW_wr_ne _ _ (by omega), ih]

theorem lnk_wrRange (s : State) (o : Nat) (f : Nat → Nat) (n : Nat) :
    ((List.range n).foldl (fun s m => wr s (o + 4 * m) (f m)) s).lnk = s.lnk := by
  induction n with
  | zero => rfl
  | succ n ih => rw [List.range_succ, List.foldl_append, List.foldl_cons, List.foldl_nil, wr_lnk, ih]

/-- The errors of the lanes are recorded. -/
def errorsRecorded (s : State) (n : Fin 16) (errors : List Nat) : State :=
  (List.range 9).foldl (fun s m => wr s (lnkPg n + 0x180 + 4 * m) (min (nth 0 errors m) 0xFFFFFF)) s

/-- While no lane is above LNK_LANE_THR, a window's errors are recorded and counted. -/
theorem laneErrorWindow_gives {n : Fin 16} {errors : List Nat} {now : Nat} {s : State}
    (hthr : ∀ m < 9, nth 0 errors m ≤ rdF s (lnkPg n + 0x10C) 23 0) :
    Gives (.laneErrorWindow n errors now) s (fun t => (∀ m < 9, rd t (lnkPg n + 0x180 + 4 * m) = nth 0 errors m) ∧
      Counted64 s t (lnkPg n + 0x130) (sumNat (errors.take 9)) ∧ t.lnk = s.lnk) := by
  have hnone : (List.range 9).filter (fun m => decide (nth 0 errors m > rdF (tick s now) (lnkPg n + 0x10C) 23 0)) = [] := by
    refine List.filter_eq_nil_iff.2 fun m hm => ?_
    rw [decide_eq_true_eq]
    exact Nat.not_lt.2 (hthr m (List.mem_range.1 hm))
  have hexec : exec (.laneErrorWindow n errors now) s =
      .next (inc64 (errorsRecorded (tick s now) n errors) (lnkPg n + 0x130) (sumNat (errors.take 9))) := by
    show execLaneErrorWindow n errors now s = _
    simp only [execLaneErrorWindow, hnone]
    rfl
  refine ⟨_, hexec, fun m hm => ?_, counted64_inc64_of_rd64 ?_, ?_⟩
  · have hlt : nth 0 errors m < 2 ^ 24 := Nat.lt_of_le_of_lt (hthr m hm) (bitsOf_lt _ 23 0)
    rw [rd_of_rdW (rdW_inc64_ne _ _ (by omega) (by omega)), errorsRecorded, rd_wrRange _ _ (fun m => min (nth 0 errors m) 0xFFFFFF) hm]
    omega
  · have hbelow {x : Nat} (hx : x < 0x180) : rd (errorsRecorded (tick s now) n errors) (lnkPg n + x) = rd s (lnkPg n + x) :=
      rd_of_rdW (rdW_wrRange_below _ _ _ _ (by omega))
    rw [rd64, rd64, Nat.add_assoc, hbelow (by decide), hbelow (by decide)]
  · rw [inc64_lnk, errorsRecorded, lnk_wrRange _ _ (fun m => min (nth 0 errors m) 0xFFFFFF), tick_lnk]

/-! ### Training (R336) -/

theorem diesKept_foldl {α : Type} {f : State → α → State} (h : ∀ s a, DiesKept s (f s a)) (l : List α) (s : State) :
    DiesKept s (l.foldl f s) := by
  induction l generalizing s with
  | nil => exact .refl s
  | cons a l ih => exact (h s a).trans (ih _)

/-- The data lane whose place the spare takes: the one that has not trained, 0xF none. -/
def untrainedLane (trained : BitVec 9) : Nat := ((List.range 8).find? (fun i => !(trained.toNat.testBit i))).getD 0xF

/-- A port that has just come UP with spare position k, its peer recorded. -/
def portUp (s : State) (n : Fin 16) (k : Nat) (peer : W32) (port : Nat) : State :=
  let u := wrF (wrF (wrF (setPort s n {}) (lnkPg n + 0x104) 31 28 2) (lnkPg n + 0x104) 23 20 k) (lnkPg n + 0x104) 19 16 k
  spareMap (wr (wrW u (lnkPg n + 0x110) peer) (lnkPg n + 0x114) port) n

theorem portState_portUp (s : State) (n : Fin 16) (k : Nat) (peer : W32) (port : Nat) : portState (portUp s n k peer port) n = 2 := by
  rw [portUp, portState_of_rdW ((rdW_spareMap_page _ _ (by decide)).trans ((rdW_wr_page _ _ (by decide) _).trans
    (rdW_wrW_page _ _ (by decide) _))), portState_wrF_ne _ _ _ (by decide) (by decide),
    portState_wrF_ne _ _ _ (by decide) (by decide), portState_wrF _ _ (by decide)]

theorem peer_portUp (s : State) (n : Fin 16) (k : Nat) (peer : W32) (port : Nat) :
    rdW (portUp s n k peer port) (lnkPg n + 0x110) = peer := by
  rw [portUp, rdW_spareMap_page _ _ (by decide), rdW_wr_page _ _ (by decide), rdW_wrW_same]

section
variable {n : Fin 16} {trained : BitVec 9} {peer : W32} {port : BitVec 4} {now : Nat} {s : State}
  (hen : rdB s (lnkPg n + 0x100) 0 = true) (htraining : portState s n < 2)
include hen htraining

/-- The records of the calibration and of a new repair concern neither the ports nor the registers of the dies. -/
theorem exec_linkTrainDone_up (hlanes : 8 ≤ popCount 9 trained.toNat) : ∃ k w,
    exec (.linkTrainDone n trained peer port now) s = .next (portsChanged (intSet w (lnkPg n) 2)) ∧
      DiesKept (portUp (tick s now) n k peer port.toNat) w := by
  have hgo : ¬(rdB (tick s now) (lnkPg n + 0x100) 0 = false ∨ portState (tick s now) n ≥ 2) :=
    not_or.2 ⟨ne_false_of_eq_true hen, Nat.not_le.2 htraining⟩
  have hrecs (k : Nat) (temp : State → Nat) : DiesKept (portUp (tick s now) n k peer port.toNat)
      ((List.range 9).foldl (fun s m => takeRec s (recKey 3 (9 * n + m)) (temp s)) (portUp (tick s now) n k peer port.toNat)) :=
    diesKept_foldl (fun s _ => diesKept_takeRec s _ _) _ _
  show ∃ k w, execLinkTrainDone n trained peer port now s = _ ∧ _
  simp only [execLinkTrainDone, if_neg hgo, if_neg (Nat.not_lt.2 hlanes), ← portUp.eq_1]
  refine ⟨untrainedLane trained, _, rfl, ?_⟩
  split
  · exact (hrecs ..).trans ((diesKept_clinker ..).trans (diesKept_rewriteDevice _))
  · exact hrecs ..

/-- On 8 trained lanes the port comes UP. -/
theorem linkTrainDone_up (hlanes : 8 ≤ popCount 9 trained.toNat) : Gives (.linkTrainDone n trained peer port now) s (fun t =>
    portState t n = 2 ∧ rdW t (lnkPg n + 0x110) = peer ∧ rdB t (lnkPg n + hIntStat) 1 = true) := by
  obtain ⟨k, w, hexec, hkept⟩ := exec_linkTrainDone_up (peer := peer) (port := port) (now := now) hen htraining hlanes
  have hregs {y : Nat} (hy : y ≠ hIntStat) : rdW (portsChanged (intSet w (lnkPg n) 2)) (lnkPg n + y) =
      rdW (portUp (tick s now) n k peer port.toNat) (lnkPg n + y) := by
    rw [rdW_portsChanged, rdW_intSet_page _ _ _ hy, hkept.rdW_port]
  refine ⟨_, hexec, ?_, ?_, ?_⟩
  · rw [portState_of_rdW (hregs (by decide)), portState_portUp]
  · rw [hregs (by decide), peer_portUp]
  · rw [rdB_of_rdW (rdW_portsChanged ..)]
    exact intSet_bit w (lnkPg n) 1 (by decide)

/-- On fewer it has FAILED. -/
theorem linkTrainDone_failed (hlanes : popCount 9 trained.toNat < 8) : Gives (.linkTrainDone n trained peer port now) s (fun t =>
    portState t n = 3 ∧ rdB t (lnkPg n + hIntStat) 5 = true) := by
  have hgo : ¬(rdB (tick s now) (lnkPg n + 0x100) 0 = false ∨ portState (tick s now) n ≥ 2) :=
    not_or.2 ⟨ne_false_of_eq_true hen, Nat.not_le.2 htraining⟩
  have hexec : exec (.linkTrainDone n trained peer port now) s =
      .next (intSet (wrF (tick s now) (lnkPg n + 0x104) 31 28 3) (lnkPg n) 32) := (if_neg hgo).trans (if_pos hlanes)
  refine ⟨_, hexec, ?_, intSet_bit _ (lnkPg n) 5 (by decide)⟩
  rw [portState_of_rdW (rdW_intSet_page _ _ _ (by decide)), portState_wrF _ _ (by decide)]

end

/-! ### Going down (R334) -/

/-- Of the port's page, a port that goes DOWN changes STATE, the interrupt bits and the counters of the packets lost and of the falls. -/
theorem rdW_portDown {s : State} {n y : Nat} (hup : portState s n ≠ 0) (hi : y ≠ hIntStat) (hlost : y ≠ 0x148) (hdown : y ≠ 0x14C) :
    rdW (portDown s n) (lnkPg n + y) = rdW (wrF s (lnkPg n + 0x104) 31 28 0) (lnkPg n + y) := by
  have hset (u : State) (lost : Nat) :
      rdW (if lost = 0 then u else intSet u (lnkPg n) 16) (lnkPg n + y) = rdW u (lnkPg n + y) := by
    split
    · rfl
    · exact rdW_intSet_page u _ _ hi
  simp only [portDown, if_neg hup]
  rw [(diesKept_electRoot _).rdW_port, rdW_portsChanged, rdW_inc_page _ _ hdown, rdW_intSet_page _ _ _ hi, hset,
    rdW_incBy_page _ _ hlost]
  rfl

theorem portState_portDown (s : State) (n : Nat) : portState (portDown s n) n = 0 := by
  by_cases hup : portState s n = 0
  · rw [portDown, if_pos hup, hup]
  · rw [portState_of_rdW (rdW_portDown hup (by decide) (by decide) (by decide)), portState_wrF _ _ (by decide)]

theorem enabled_portDown (s : State) (n : Nat) : rdB (portDown s n) (lnkPg n + 0x100) 0 = rdB s (lnkPg n + 0x100) 0 := by
  by_cases hup : portState s n = 0
  · rw [portDown, if_pos hup]
  · rw [rdB_of_rdW ((rdW_portDown hup (by decide) (by decide) (by decide)).trans (rdW_wrF_page _ _ (by decide) ..))]

theorem portState_portTrain (s : State) (n : Nat) : portState (portTrain s n) n = 1 := portState_wrF s n (by decide)

/-! ### LNK_CTL (R334, R336, R347) -/

theorem linkOf_lnkPg : ∀ n : Fin 16, linkOf (lnkPg n + 0x100) = some n.val := by decide

section
variable {r : RegWrite} {s : State} {n : Fin 16} (hoff : r.off.toNat = lnkPg n + 0x100)
include hoff

/-- EN written 1 lets the port train. -/
theorem lnkEnWrite_train (hen : r.val.toNat.testBit 0 = true) (hold : rdB s (lnkPg n + 0x100) 0 = false) :
    Gives (.lnkEnWrite r) s (fun t => portState t n = 1 ∧ rdB t (lnkPg n + 0x100) 0 = true) := by
  have hold' : rdB (tick s r.now) (lnkPg n + 0x100) 0 = false := hold
  have hexec : exec (.lnkEnWrite r) s = .next (portTrain (wrB (tick s r.now) (lnkPg n + 0x100) 0 true) n) := by
    show execLnkEnWrite r s = _
    simp only [execLnkEnWrite, hoff, linkOf_lnkPg, hen, hold', Bool.true_eq_false, Bool.false_eq_true, if_false]
  refine ⟨_, hexec, portState_portTrain .., ?_⟩
  rw [portTrain, rdB_of_rdW (rdW_wrF_page _ _ (by decide) ..), rdB_wrB _ _ _ _ (by decide)]

/-- EN written 0 holds the port DOWN. -/
theorem lnkEnWrite_down (hen : r.val.toNat.testBit 0 = false) :
    Gives (.lnkEnWrite r) s (fun t => portState t n = 0 ∧ rdB t (lnkPg n + 0x100) 0 = false) := by
  have hexec : exec (.lnkEnWrite r) s = .next (portDown (wrB (tick s r.now) (lnkPg n + 0x100) 0 false) n) := by
    show execLnkEnWrite r s = _
    simp only [execLnkEnWrite, hoff, linkOf_lnkPg, hen, if_true]
  refine ⟨_, hexec, portState_portDown .., ?_⟩
  rw [enabled_portDown, rdB_wrB _ _ _ _ (by decide)]

/-- RETRAIN takes the port DOWN, and it trains while EN is 1. -/
theorem lnkRetrain_gives (hset : r.val.toNat.testBit 1 = true) :
    Gives (.lnkRetrain r) s (fun t => portState t n = if rdB s (lnkPg n + 0x100) 0 then 1 else 0) := by
  have hexec : exec (.lnkRetrain r) s = .next (if rdB (portDown (tick s r.now) n) (lnkPg n + 0x100) 0
      then portTrain (portDown (tick s r.now) n) n else portDown (tick s r.now) n) := by
    show execLnkRetrain r s = _
    simp only [execLnkRetrain, hoff, linkOf_lnkPg, hset, Bool.true_eq_false, if_false]
  refine ⟨_, hexec, ?_⟩
  have hen : rdB (portDown (tick s r.now) n) (lnkPg n + 0x100) 0 = rdB s (lnkPg n + 0x100) 0 := enabled_portDown (tick s r.now) n
  rw [hen]
  split
  · exact portState_portTrain ..
  · exact portState_portDown ..

end

/-! ### The end of a hold (R334) -/

/-- A packet on its way changes the ports and the packets that wait; of the machine, nothing else. -/
theorem inject_ports (s : State) (q : QPkt) : inject s q =
    { s with lnk := { s.lnk with ports := (inject s q).lnk.ports, waiting := (inject s q).lnk.waiting } } := by
  simp only [inject]
  split
  · split <;> rfl
  · rfl

theorem injectAll_ports (qs : List QPkt) : ∀ s, injectAll qs s =
    { s with lnk := { s.lnk with ports := (injectAll qs s).lnk.ports, waiting := (injectAll qs s).lnk.waiting } } := by
  induction qs with
  | nil => exact fun _ => rfl
  | cons q qs ih =>
    intro s
    rw [injectAll, ih, inject_ports]

/-- When the hold ends the new set of UP ports takes effect. -/
theorem routeHoldExpire_gives {now e : Nat} {s : State} (hhold : s.lnk.hold = some e) (hend : e ≤ max s.time now) :
    Gives (.routeHoldExpire now) s (fun t => t.lnk.hold = none ∧ t.lnk.upMask = upPorts s ∧ t.mem = s.mem) := by
  have hhold' : (tick s now).lnk.hold = some e := hhold
  have hend' : e ≤ (tick s now).time := hend
  have hexec : exec (.routeHoldExpire now) s = .next (retryWaiting { tick s now with
      lnk := { (tick s now).lnk with upMask := upPorts (tick s now), hold := none } }) := by
    show execRouteHoldExpire now s = _
    simp only [execRouteHoldExpire, hhold', if_pos hend']
  refine ⟨_, hexec, ?_, ?_, ?_⟩ <;> rw [retryWaiting, injectAll_ports] <;> rfl

/-- Settles O34: one lemma for each case of each command. -/
theorem linkTraffic : Obligations.LinkTraffic :=
  ⟨fun _ _ _ hup hagain hroom => flitSend_new hup hagain hroom,
    fun _ _ _ _ _ hup hagain => flitSend_again hup hagain,
    fun _ _ _ _ hup hinj hseq hnak => flitReceive_intact hup hinj hseq hnak,
    fun _ f _ _ hup hinj => flitReceive_failed hup hinj f,
    fun _ _ _ _ hup hfree hlane => laneSignalLoss_gives hup hfree hlane,
    fun _ _ _ _ hthr => laneErrorWindow_gives hthr,
    fun _ _ _ _ _ hup hfree hlane => linkPacket_gives hup hfree hlane,
    fun _ _ _ _ _ _ hen htraining => ⟨linkTrainDone_up hen htraining, linkTrainDone_failed hen htraining⟩,
    fun _ _ _ hoff => ⟨lnkEnWrite_train hoff, lnkEnWrite_down hoff⟩,
    fun _ _ _ hoff hset => lnkRetrain_gives hoff hset,
    fun _ _ _ hhold hend => routeHoldExpire_gives hhold hend⟩

end Sys2Proof.Machine
end

section
/-!
The fabric-time unit (13_mboano_link_fabric_time.md R338 to R341, R349, 20_electrical_mechanical.md R495): O35.
-/
namespace Sys2Proof.Machine

/-! ### The unit's page -/

/-- A clinker entry changes no register of the fabric-time page; rdW_clinker says it of the dies. -/
theorem rdW_clinker_ftmPg (s : State) (r : LogRec) {x : Nat} (hx : x < 4096) : rdW (clinker s r) (ftmPg + x) = rdW s (ftmPg + x) := by
  have hmgt : ftmPg + x ≠ mgtPg + hIntStat ∧ ftmPg + x ≠ mgtPg + 0x114 := by simp only [ftmPg, mgtPg, hIntStat]; omega
  have hcln : ftmPg + x ≠ clnPg + hIntStat := by simp only [ftmPg, clnPg, hIntStat]; omega
  have hset (b : Bool) (u : State) (bits : Nat) : rdW (if b then intSet u clnPg bits else u) (ftmPg + x) = rdW u (ftmPg + x) := by
    cases b
    · rfl
    · exact rdW_intSet_ne u bits hcln
  have hqueue (u : State) (cat seq : Nat) : rdW (queueEvent u cat seq) (ftmPg + x) = rdW u (ftmPg + x) := by
    rw [queueEvent]
    split
    · split
      · rw [rdW_intSet_ne _ _ hmgt.1, incBy, rdW_wr_ne _ _ hmgt.2]
        rfl
      · rw [rdW_intSet_ne _ _ hmgt.1]
        rfl
    · rfl
  refine ((hset _ _ 2).trans (hset _ _ 1)).trans ((hqueue _ _ _).trans ?_)
  show cGet regReset (if r.payload.isNone && r.closes.isNone then { s with free := s.free + 1 } else s).win.regs (ftmPg + x) = _
  split <;> rfl

theorem rdW_countHold (s : State) {x : Nat} (hx : x ≠ 0x13C) : rdW (countHold s) (ftmPg + x) = rdW s (ftmPg + x) := by
  rw [countHold]
  split
  · exact rdW_incBy_page s ftmPg hx _
  · rfl

/-! ### Entries into HOLDOVER and FREE (R340) -/

/-- The unit has entered a state, and its counts of exchanges start again. -/
def ftmEntered (s : State) (st : Nat) : State :=
  let u := wrF (countHold s) (ftmPg + 0x104) 2 0 st
  setFtm u { u.ftm with good := 0, bad := 0, since := u.time }

/-- UNLOCK is set, the entry is counted and logged. -/
def ftmUnlocked (s : State) (bits code : Nat) : State :=
  clinker (inc (intSet s ftmPg bits) (ftmPg + 0x138)) { cat := 9, code := code, page := ftmPg }

theorem enterFtm_holdover {s : State} (h : ftmState s ≠ 3) : enterFtm s 3 = ftmUnlocked (ftmEntered s 3) 2 1 := if_neg h

theorem enterFtm_free {s : State} (h : ftmState s ≠ 4) : enterFtm s 4 = ftmUnlocked (ftmEntered s 4) 18 2 := if_neg h

theorem ftmState_entered (s : State) {st : Nat} (h : st < 8) : ftmState (ftmEntered s st) = st :=
  (rdF_wrF (countHold s) (ftmPg + 0x104) 2 0 st (by decide) (by decide)).trans (Nat.mod_eq_of_lt h)

theorem rdW_entered (s : State) (st : Nat) {x : Nat} (h : x ≠ 0x104) (h' : x ≠ 0x13C) :
    rdW (ftmEntered s st) (ftmPg + x) = rdW s (ftmPg + x) := by
  have hwin : (ftmEntered s st).win.regs = (wrF (countHold s) (ftmPg + 0x104) 2 0 st).win.regs := rfl
  rw [rdW_congr hwin, rdW_wrF_page _ _ h, rdW_countHold _ h']

theorem ftmState_unlocked (s : State) (bits code : Nat) : ftmState (ftmUnlocked s bits code) = ftmState s := by
  refine rdF_of_rdW ?_ 2 0
  rw [ftmUnlocked, rdW_clinker_ftmPg _ _ (by decide), rdW_inc_page _ _ (by decide), rdW_intSet_page _ _ _ (by decide)]

/-- FTM_UNLOCK_CNT counts the entry. -/
theorem counted_unlocked (s : State) (st bits code : Nat) : Counted s (ftmUnlocked (ftmEntered s st) bits code) (ftmPg + 0x138) 1 := by
  have hheld : rdW (intSet (ftmEntered s st) ftmPg bits) (ftmPg + 0x138) = rdW s (ftmPg + 0x138) := by
    rw [rdW_intSet_page _ _ _ (by decide), rdW_entered _ _ (by decide) (by decide)]
  rw [Counted, ftmUnlocked, rd_of_rdW (rdW_clinker_ftmPg _ _ (by decide))]
  exact counted_inc_of_rd (rd_of_rdW hheld)

/-! ### The commands -/

/-- An UP port queues a SYNC packet (R338, R339). -/
theorem syncSend_gives {n : Fin 16} {now : Nat} {s : State} (hup : portState s n = 2) :
    Gives (.syncSend n now) s (fun t => ∃ a b c d, (portOf t n).ctl = (portOf s n).ctl ++
      [.sync (rdW s (ftmPg + 0x128)) (rdF s (ftmPg + 0x104) 20 16) a b c d] ∧ (a, b, c, d) = (portOf s n).stamps) := by
  have hup' : portState (tick s now) n = 2 := hup
  refine ⟨_, if_pos hup', (portOf s n).stamps.1, (portOf s n).stamps.2.1, (portOf s n).stamps.2.2.1, (portOf s n).stamps.2.2.2, ?_, rfl⟩
  rw [portOf_setPort]
  rfl

theorem ofSigned_lt (w : Nat) (v : Int) : ofSigned w v < 2 ^ w := by
  have hpos : (0 : Int) < ((2 ^ w : Nat) : Int) := by exact_mod_cast Nat.two_pow_pos w
  have hlt := Int.emod_lt_of_pos v hpos
  rw [ofSigned]
  omega

/-- The offer and the stamps of an exchange are kept at the port, and its delay is reported (R338, R339). -/
def exchanged (s : State) (n : Fin 16) (root : W32) (hops t1 t2 t3 t4 : Nat) : State :=
  wr (setPort s n { portOf s n with offer := some (root, hops), stamps := (t1, t2, t3, t4) }) (lnkPg n + 0x118)
    (ofSigned 32 (syncDelay t1 t2 t3 t4))

/-- What the election and the servo do after an exchange concerns neither the ports nor their pages. -/
theorem exec_syncReceive {n : Fin 16} (root : W32) (hops t1 t2 t3 t4 now : Nat) {s : State} (hup : portState s n = 2) :
    ∃ t, exec (.syncReceive n root hops t1 t2 t3 t4 now) s = .next t ∧
      DiesKept (exchanged (tick s now) n root hops t1 t2 t3 t4) t := by
  have hup' : ¬ portState (tick s now) n ≠ 2 := fun h => h hup
  have helect := diesKept_electRoot (exchanged (tick s now) n root hops t1 t2 t3 t4)
  show ∃ t, execSyncReceive n root hops t1 t2 t3 t4 now s = .next t ∧ _
  simp only [execSyncReceive, if_neg hup', ← exchanged.eq_1]
  split
  · exact ⟨_, rfl, helect.trans (((diesKept_wr _ _ (by decide)).trans (diesKept_applyOffset ..)).trans (diesKept_servo _))⟩
  · exact ⟨_, rfl, helect⟩

theorem syncReceive_gives {n : Fin 16} (root : W32) (hops t1 t2 t3 t4 now : Nat) {s : State} (hup : portState s n = 2) :
    Gives (.syncReceive n root hops t1 t2 t3 t4 now) s (fun t =>
      (portOf t n).offer = some (root, hops) ∧ rd t (lnkPg n + 0x118) = ofSigned 32 (syncDelay t1 t2 t3 t4)) := by
  obtain ⟨t, hexec, hkept⟩ := exec_syncReceive root hops t1 t2 t3 t4 now hup
  refine ⟨t, hexec, ?_, ?_⟩
  · rw [hkept.portOf_eq, exchanged, portOf_congr (wr_lnk ..), portOf_setPort]
  · rw [rd_of_rdW (hkept.rdW_port ..), exchanged, rd_wr_same, Nat.mod_eq_of_lt (ofSigned_lt ..)]

/-- HOLDOVER that has lasted its time ends in FREE (R340). -/
theorem ftmHoldoverExpire_gives {now : Nat} {s : State} (hstate : ftmState s = 3)
    (hlong : s.ftm.since + 1000000 * rdF s (ftmPg + 0x108) 23 16 ≤ max s.time now) :
    Gives (.ftmHoldoverExpire now) s (fun t => ftmState t = 4 ∧ Counted s t (ftmPg + 0x138) 1) := by
  have hstate' : ftmState (tick s now) = 3 := hstate
  have hexec : exec (.ftmHoldoverExpire now) s = .next (enterFtm (tick s now) 4) := if_pos ⟨hstate', hlong⟩
  rw [enterFtm_free (by omega)] at hexec
  refine ⟨_, hexec, ?_, counted_unlocked (tick s now) 4 18 2⟩
  rw [ftmState_unlocked, ftmState_entered _ (by decide)]

/-- At the root, SET steps time to a value that is not below it, and the step is counted (R340, R349). -/
theorem ftmSet_gives {r : RegWrite} {s : State} (hoff : r.off.toNat = ftmPg + 0x100) (hset : r.val.toNat.testBit 2 = true)
    (hroot : ftmState s = 5) (hle : max s.time r.now ≤ rd64 s (ftmPg + 0x120)) :
    Gives (.ftmSet r) s (fun t => t.time = rd64 s (ftmPg + 0x120) ∧ Counted s t (ftmPg + 0x134) 1) := by
  have hbit : ¬(r.off.toNat ≠ ftmPg + 0x100 ∨ r.val.toNat.testBit 2 = false) := by simp [hoff, hset]
  have hroot' : ¬ ftmState (tick s r.now) ≠ 5 := fun h => h hroot
  have hexec : exec (.ftmSet r) s =
      .next (inc (intSet { tick s r.now with time := rd64 s (ftmPg + 0x120) } ftmPg 4) (ftmPg + 0x134)) := by
    show execFtmSet r s = _
    simp only [execFtmSet, if_neg hbit, if_neg hroot']
    exact if_neg (Nat.not_lt.2 hle)
  refine ⟨_, hexec, ?_, counted_inc_of_rd (rd_of_rdW ?_)⟩
  · rw [inc_time, intSet_time]
  · rw [rdW_intSet_page _ _ _ (by decide)]
    rfl

/-- A LOCKED unit that loses the reference clock enters HOLDOVER (R495). -/
theorem refclkLoss_gives {now : Nat} {s : State} (hclk : s.ftm.refclk = true) (hstate : ftmState s = 2) :
    Gives (.refclkLoss now) s (fun t => t.ftm.refclk = false ∧ ftmState t = 3) := by
  have hstate' : ftmState (setFtm (tick s now) { s.ftm with refclk := false }) = 2 := hstate
  have hexec : exec (.refclkLoss now) s = .next (enterFtm (setFtm (tick s now) { s.ftm with refclk := false }) 3) :=
    (if_neg (ne_false_of_eq_true hclk)).trans (if_pos hstate')
  refine ⟨_, hexec, (diesKept_enterFtm ..).refclk, ?_⟩
  rw [enterFtm_holdover (by omega), ftmState_unlocked, ftmState_entered _ (by decide)]

/-- A valid reference clock stays valid through the election that follows (R495). -/
theorem refclkValid_gives {now : Nat} {s : State} (hclk : s.ftm.refclk = false) :
    Gives (.refclkValid now) s (fun t => t.ftm.refclk = true) := by
  have hexec : exec (.refclkValid now) s = .next (electRoot (clinker (setFtm (tick s now) { s.ftm with refclk := true })
      { cat := 9, code := 1, page := ftmPg })) := if_neg (ne_true_of_eq_false hclk)
  exact ⟨_, hexec, ((diesKept_clinker ..).trans (diesKept_electRoot _)).refclk⟩

/-- Settles O35: one lemma for each of the six commands. -/
theorem fabricTimeUnit : Obligations.FabricTimeUnit :=
  ⟨fun _ _ _ hup => syncSend_gives hup,
    fun _ root hops t1 t2 t3 t4 now _ hup => syncReceive_gives root hops t1 t2 t3 t4 now hup,
    fun _ _ hstate hlong => ftmHoldoverExpire_gives hstate hlong,
    fun _ _ hoff hset hroot hle => ftmSet_gives hoff hset hroot hle,
    fun _ _ hclk hstate => refclkLoss_gives hclk hstate,
    fun _ _ hclk => refclkValid_gives hclk⟩

end Sys2Proof.Machine
end

section
/-!
The queue (log entry 2), the error latch (R475), counters (R477) and the messages of interrupts (R478): O52, O50, O60 and O51.
-/
namespace Sys2Proof.Machine

/-! ### The queue -/

/-- Settles O52: the two cases of the queue. -/
theorem stepRunsFrontCommand : Obligations.StepRunsFrontCommand := by
  refine ⟨fun s c rest h => ?_, fun s h => ?_⟩
  · rw [step, h]; rfl
  · rw [step, h]

/-! ### Bits of a register that is written -/

/-- A bit other than the one just written. -/
theorem rdB_wrB_other (s : State) (o : Nat) {n m : Nat} (b : Bool) (h : m ≠ n) (hm : m < 32) : rdB (wrB s o n b) o m = rdB s o m := by
  rw [rdB, wrB, wrF, rd_wr_same, Nat.testBit_mod_two_pow, putBits_testBit _ _ _ _ _ (Nat.le_refl n), if_neg (by omega), decide_eq_true hm,
    Bool.true_and, rdB]

/-- A register of which only bit 0 is set after it held 0. -/
theorem rd_wrB_zero_true {s : State} {o : Nat} (h : rd s o = 0) : rd (wrB s o 0 true) o = 1 := by
  rw [wrB, wrF, rd_wr_same, h]
  rfl

/-! ### The error latch (R475) -/

/-- The error registers of a page with nothing latched (R475). -/
def errCleared (s : State) (pg : Nat) : State := wr (wr64 (wr s (pg + hErrSyn) 0) (pg + hErrLo) 0) (pg + hStat) 0

theorem windowOnly_errCleared (s : State) (pg : Nat) : WindowOnly s (errCleared s pg) :=
  ((windowOnly_wr ..).trans (windowOnly_wr64 ..)).trans (windowOnly_wr ..)

theorem rd_errCleared_stat (s : State) (pg : Nat) : rd (errCleared s pg) (pg + hStat) = 0 := rd_wr_same ..

theorem rd_errCleared_syn (s : State) (pg : Nat) : rd (errCleared s pg) (pg + hErrSyn) = 0 := by
  rw [errCleared, rd_wr_ne _ _ (by simp [hErrSyn, hStat]), rd_wr64_ne _ _ (by simp [hErrSyn, hErrLo]) (by simp only [hErrSyn, hErrLo]; omega),
    rd_wr_same]
  rfl

theorem rd64_errCleared_addr (s : State) (pg : Nat) : rd64 (errCleared s pg) (pg + hErrLo) = 0 := by
  rw [errCleared, rd64_wr_ne _ _ (by simp [hErrLo, hStat]) (by simp only [hErrLo, hStat]; omega), rd64_wr64 _ _ _ (by decide)]

/-- An event that is latched after the clear leaves STAT with ERR_VALID alone. -/
theorem rd_latchErr_cleared (s : State) (pg cls low addr : Nat) : rd (latchErr (errCleared s pg) pg cls low addr) (pg + hStat) = 1 := by
  have hfree : rdB (errCleared s pg) (pg + hStat) 0 = false := by rw [rdB, rd_errCleared_stat]; rfl
  rw [latchErr_of_free _ _ _ hfree]
  refine rd_wrB_zero_true ?_
  rw [rd_wr64_ne _ _ (by simp [hErrLo, hStat]) (by simp only [hErrLo, hStat]; omega), rd_wr_ne _ _ (by simp [hErrSyn, hStat]), rd_errCleared_stat]

section
variable {r : RegWrite} {s : State} {p : PageRef} (hp : pageAt r.off.toNat = some p) (ho : r.off.toNat % 4096 = hCtl)
  (hb : r.val.toNat.testBit 0 = true)
include hp ho hb

/-- ERR_CLR clears the page's error registers, and then latches the event of its cycle. -/
theorem exec_errClr (coin : Option (W32 × W64)) : exec (.errClr r coin) s = .next (match coin with
    | some (syn, addr) => latchErr (errCleared (tick s r.now) p.base) p.base (syn.toNat / 2 ^ 24) (syn.toNat % 2 ^ 24) addr.toNat
    | none => errCleared (tick s r.now) p.base) := by
  show execErrClr r coin s = _
  have hbit : ¬(r.off.toNat % 4096 ≠ hCtl ∨ r.val.toNat.testBit 0 = false) := by simp [ho, hb]
  simp only [execErrClr, hp, if_neg hbit]
  cases coin with
  | none => rfl
  | some x => rfl

theorem errClr_gives : Gives (.errClr r none) s (fun t => WindowOnly s t ∧ rd t (p.base + hStat) = 0 ∧ rd t (p.base + hErrSyn) = 0 ∧
    rd64 t (p.base + hErrLo) = 0) :=
  ⟨_, exec_errClr hp ho hb none, (windowOnly_tick ..).trans (windowOnly_errCleared ..), rd_errCleared_stat .., rd_errCleared_syn ..,
    rd64_errCleared_addr ..⟩

theorem errClr_event_gives (syn : W32) (addr : W64) : Gives (.errClr r (some (syn, addr))) s (fun t => WindowOnly s t ∧
    rd t (p.base + hStat) = 1 ∧ rd t (p.base + hErrSyn) = syn.toNat ∧ rd64 t (p.base + hErrLo) = addr.toNat) := by
  have hfree : rdB (errCleared (tick s r.now) p.base) (p.base + hStat) 0 = false := by rw [rdB, rd_errCleared_stat]; rfl
  have hsyn := syn.isLt
  refine ⟨_, exec_errClr hp ho hb _, ?_, rd_latchErr_cleared .., ?_, rd64_latchErr_addr hfree addr.isLt⟩
  · exact ((windowOnly_tick ..).trans (windowOnly_errCleared ..)).trans (windowOnly_latchErr ..)
  · rw [rd_latchErr_syn hfree (by omega) (by omega)]
    omega

end

/-- Settles O50: the event that finds the latch free, the one that finds it taken, and the clear. -/
theorem errorLatch : Obligations.ErrorLatch := by
  refine ⟨fun s pg cls low addr hcls hlow haddr => ⟨fun hfree => ?_, fun hvalid => ?_⟩, fun r s p hp ho hb =>
    ⟨errClr_gives hp ho hb, errClr_event_gives hp ho hb⟩⟩
  · exact ⟨rd_latchErr_syn hfree hcls hlow, rd64_latchErr_addr hfree haddr, rdB_latchErr_valid hfree, windowOnly_latchErr ..⟩
  · rw [latchErr_of_valid _ _ _ hvalid]
    exact ⟨rdB_wrB _ _ _ _ (by decide), (rdB_wrB_other _ _ _ (by decide) (by decide)).trans hvalid, fun o hne => rdW_wr_ne _ _ hne,
      windowOnly_wrB ..⟩

/-! ### Counters (R477) -/

/-- One register's share of CNT_CLR: the counters of a counter register are 0, another register is left. -/
def clearReg (pg : Nat) (s : State) (r : RegDef) : State :=
  match r.shape with
  | .cnt => (List.range r.count).foldl (fun s n => wr s (pg + r.off + n * r.stride) 0) s
  | .cnt64 => (List.range r.count).foldl (fun s n => wr64 s (pg + r.off + n * r.stride) 0) s
  | _ => s

theorem clearCounters_eq_foldl (pg : Nat) (rs : List RegDef) : ∀ s, clearCounters pg rs s = rs.foldl (clearReg pg) s := by
  induction rs with
  | nil => exact fun s => rfl
  | cons r rs ih => exact fun s => ih _

/-- A step keeps registers that are 0 at 0. -/
def KeepsZeros (f : State → State) : Prop := ∀ s o, rd s o = 0 → rd (f s) o = 0

theorem keepsZeros_wr (o : Nat) : KeepsZeros (fun s => wr s o 0) := by
  intro s o' h
  by_cases heq : o' = o
  · rw [heq, rd_wr_same]
    rfl
  · exact (rd_wr_ne _ _ heq).trans h

theorem keepsZeros_wr64 (o : Nat) : KeepsZeros (fun s => wr64 s o 0) := fun s o' h =>
  keepsZeros_wr (o + 4) _ o' (keepsZeros_wr o s o' h)

theorem keepsZeros_foldl {α : Type} {f : State → α → State} (hf : ∀ a, KeepsZeros (fun s => f s a)) (l : List α) :
    KeepsZeros (fun s => l.foldl f s) := by
  induction l with
  | nil => exact fun s o h => h
  | cons a l ih => exact fun s o h => ih _ o (hf a s o h)

theorem keepsZeros_clearReg (pg : Nat) (r : RegDef) : KeepsZeros (fun s => clearReg pg s r) := by
  intro s o h
  simp only [clearReg]
  split
  · exact keepsZeros_foldl (fun n => keepsZeros_wr _) _ s o h
  · exact keepsZeros_foldl (fun n => keepsZeros_wr64 _) _ s o h
  · exact h

/-- A register that one element of a list sets to 0, and that every element keeps at 0, is 0 in the end. -/
theorem rd_foldl_zero {α : Type} {f : State → α → State} (hf : ∀ a, KeepsZeros (fun s => f s a)) {o : Nat} {x : α}
    (hx : ∀ s, rd (f s x) o = 0) {l : List α} (hl : x ∈ l) (s : State) : rd (l.foldl f s) o = 0 := by
  induction l generalizing s with
  | nil => simp at hl
  | cons a l ih =>
    rcases List.mem_cons.1 hl with rfl | hl
    · exact keepsZeros_foldl hf l _ o (hx s)
    · exact ih hl _

theorem rd_clearReg_cnt {pg n : Nat} {r : RegDef} (hshape : r.shape = .cnt) (hn : n < r.count) (s : State) :
    rd (clearReg pg s r) (pg + r.off + n * r.stride) = 0 := by
  simp only [clearReg, hshape]
  exact rd_foldl_zero (fun n => keepsZeros_wr _) (fun s => rd_wr_same ..) (List.mem_range.2 hn) s

/-- Every counter of a page that CNT_CLR names reads 0 after it. -/
theorem rd_clearCounters {pg n : Nat} {g : RegDef} {rs : List RegDef} (hg : g ∈ rs) (hshape : g.shape = .cnt) (hn : n < g.count) (s : State) :
    rd (clearCounters pg rs s) (pg + g.off + n * g.stride) = 0 := by
  rw [clearCounters_eq_foldl]
  exact rd_foldl_zero (fun r => keepsZeros_clearReg pg r) (rd_clearReg_cnt hshape hn) hg s

/-- The state that CNT_CLR leaves before the increments of its cycle: the counters of the page at 0, on a BLW page the high watermark too. -/
def countersCleared (s : State) (p : PageRef) (o : Nat) : State :=
  let u := clearCounters p.base (cntClrRegs p.kind o) s
  if p.kind = .blwS then wr u (p.base + 0x134) 0 else u

theorem windowOnly_countersCleared (s : State) (p : PageRef) (o : Nat) : WindowOnly s (countersCleared s p o) := by
  refine (windowOnly_clearCounters p.base (cntClrRegs p.kind o) s).trans ?_
  rw [countersCleared]
  split
  · exact windowOnly_wr ..
  · exact .refl _

theorem rd_countersCleared {p : PageRef} {o n : Nat} {g : RegDef} (hg : g ∈ cntClrRegs p.kind o) (hshape : g.shape = .cnt) (hn : n < g.count)
    (s : State) : rd (countersCleared s p o) (p.base + g.off + n * g.stride) = 0 := by
  rw [countersCleared]
  split
  · exact keepsZeros_wr _ _ _ (rd_clearCounters hg hshape hn s)
  · exact rd_clearCounters hg hshape hn s

/-- CNT_CLR on a live page clears its counters, and then counts the increments of its cycle on the page. -/
theorem exec_cntClr {r : RegWrite} {s : State} {p : PageRef} {b : Nat} (hp : pageAt r.off.toNat = some p)
    (hbit : cntClrBit p.kind (r.off.toNat % 4096) = some b) (hset : r.val.toNat.testBit b = true)
    (hplace : placeOk s p (regPlace p.kind (r.off.toNat % 4096)) = true) (coin : List (Nat × Nat)) :
    exec (.cntClr r coin) s = .next (addIncrements (coin.filter (fun c => c.1 / 4096 == p.base / 4096))
      (countersCleared (tick s r.now) p (r.off.toNat % 4096))) := by
  have hlive : ¬ placeOk (tick s r.now) p (regPlace p.kind (r.off.toNat % 4096)) = false := by rw [placeOk_tick, hplace]; decide
  show execCntClr r coin s = _
  simp only [execCntClr, hp, hbit, hset, Bool.true_eq_false, if_false]
  exact if_neg hlive

section
variable {r : RegWrite} {s : State} {p : PageRef} {b : Nat} (hp : pageAt r.off.toNat = some p)
  (hbit : cntClrBit p.kind (r.off.toNat % 4096) = some b) (hset : r.val.toNat.testBit b = true)
  (hplace : placeOk s p (regPlace p.kind (r.off.toNat % 4096)) = true) {g : RegDef} (hg : g ∈ cntClrRegs p.kind (r.off.toNat % 4096))
  (hshape : g.shape = .cnt) {n : Nat} (hn : n < g.count)
include hp hbit hset hplace hg hshape hn

theorem cntClr_gives :
    Gives (.cntClr r []) s (fun t => WindowOnly s t ∧ rd t (p.base + g.off + n * g.stride) = 0) :=
  ⟨_, exec_cntClr hp hbit hset hplace [], (windowOnly_tick ..).trans (windowOnly_countersCleared ..), rd_countersCleared hg hshape hn _⟩

theorem cntClr_increment_gives {k : Nat} (hpage : (p.base + g.off + n * g.stride) / 4096 = p.base / 4096) :
    Gives (.cntClr r [(p.base + g.off + n * g.stride, k)]) s (fun t => WindowOnly s t ∧
      rd t (p.base + g.off + n * g.stride) = min k 0xFFFFFFFF) := by
  refine ⟨_, exec_cntClr hp hbit hset hplace _, ?_, ?_⟩
  all_goals rw [List.filter_cons_of_pos (by simp [hpage]), List.filter_nil, addIncrements, addIncrements]
  · exact ((windowOnly_tick ..).trans (windowOnly_countersCleared ..)).trans (windowOnly_wr ..)
  · rw [incBy, rd_wr_same, rd_countersCleared hg hshape hn]
    omega

end

/-- Settles O60: a sum stays within its register, and CNT_CLR on each counter of the page. -/
theorem counterRules : Obligations.CounterRules := by
  refine ⟨fun s o n => ?_, fun s o n => ?_, fun r s p b hp hbit hset hplace g hg hshape n hn =>
    ⟨cntClr_gives hp hbit hset hplace hg hshape hn, fun k hpage => cntClr_increment_gives hp hbit hset hplace hg hshape hn hpage⟩⟩
  · rw [incBy, rd_wr_same]
    omega
  · rw [inc64, rd64_wr64 _ _ _ (Nat.mod_lt _ (by decide))]

/-! ### Messages (R478) -/

theorem summaryPg_aligned (pg : Nat) : summaryPg pg % 4096 = 0 := by
  simp only [summaryPg]
  split
  · split
    · rfl
    · simp only [nocPg]; omega
  · rfl

/-- The header of a page holds neither the message address nor the message data of the page that summarises it. -/
theorem summaryPg_ne {pg x y : Nat} (pg' : Nat) (hpg : pg % 4096 = 0) (hx : x < 0x100) (hy : 0x100 ≤ y ∧ y < 0x1000) : summaryPg pg' + y ≠ pg + x := by
  have := summaryPg_aligned pg'
  omega

/-- A change of a page's header register sends what R478 asks for. -/
theorem messageSent_edge (s : State) {pg x : Nat} (v : Nat) (hpg : pg % 4096 = 0) (hx : x < 0x100) :
    MessageSent s (withIntEdge pg s (wr s (pg + x) v)) pg := by
  have haddr : rd64 (wr s (pg + x) v) (summaryPg pg + 0x108) = rd64 s (summaryPg pg + 0x108) :=
    rd64_wr_ne _ _ (summaryPg_ne pg hpg hx (by omega)) (summaryPg_ne (y := 0x10C) pg hpg hx (by omega))
  have hdata : rdW (wr s (pg + x) v) (summaryPg pg + 0x110) = rdW s (summaryPg pg + 0x110) := rdW_wr_ne _ _ (summaryPg_ne pg hpg hx (by omega))
  have hact : intActive (withIntEdge pg s (wr s (pg + x) v)) pg = intActive (wr s (pg + x) v) pg := by
    simp only [intActive, rd_withIntEdge]
  simp only [MessageSent, hact]
  rw [withIntEdge]
  by_cases hedge : intActive s pg = false ∧ intActive (wr s (pg + x) v) pg = true
  · rw [if_pos (by simp [hedge]), sendMsi]
    simp only [haddr, hdata, hedge, true_and]
    by_cases h0 : rd64 s (summaryPg pg + 0x108) = 0
    · rw [if_pos h0, if_neg (not_not.2 h0), wr_win_msiSent]
    · rw [if_neg h0, if_pos h0, wr_win_msiSent]
  · rw [if_neg (by simpa using hedge), if_neg (fun h => hedge ⟨h.1, h.2.1⟩), wr_win_msiSent]

/-- MessageSent compares interrupts and registers, which the time leaves. -/
theorem messageSent_tick {s t : State} {pg now : Nat} (h : MessageSent (tick s now) t pg) : MessageSent s t pg := h

/-- Hardware's setting of bits reads as the union. -/
theorem rdB_intSet {s : State} {pg bits : Nat} {n : Nat} (hn : n < 32) :
    rdB (intSet s pg bits) (pg + hIntStat) n = (rdB s (pg + hIntStat) n || bits.testBit n) := by
  rw [intSet, rdB_withIntEdge, rdB, rd_wr_same, Nat.testBit_mod_two_pow, Nat.testBit_or, decide_eq_true hn, Bool.true_and, rdB]

/-- A write of a header register starts nothing. -/
theorem afterWrite_header (s : State) (p : PageRef) {o : Nat} (ho : o < 0x100) (old new : Nat) : afterWrite s p o old new = s := by
  have hne : o ≠ 0x100 ∧ o ≠ 0x108 ∧ ¬ 0x110 ≤ o := by omega
  obtain ⟨h1, h2, h3⟩ := hne
  obtain ⟨k, d, i, b⟩ := p
  cases k <;> simp [afterWrite, h1, h2, h3]

/-- A write of BLK_INT_EN holds the enables that the page has. -/
theorem writeReg_intEn {s : State} {off : Nat} {p : PageRef} (hp : pageAt off = some p) (ho : off % 4096 = hIntEn) (v : Nat) (who : Requester) :
    writeReg s off v who = withIntEdge p.base s (wr s (p.base + hIntEn) (v &&& p.kind.intMask)) := by
  simp only [writeReg, hp, ho, writeHeader]
  rw [if_pos (by decide)]
  rfl

/-- REG_WRITE of BLK_INT_EN is that write. -/
theorem exec_regWrite_intEn {r : RegWrite} {s : State} {p : PageRef} (hp : pageAt r.off.toNat = some p) (ho : r.off.toNat % 4096 = hIntEn)
    (hwho : r.who = .sp → spRestarting s = false) :
    exec (.regWrite r) s = .next (withIntEdge p.base (tick s r.now) (wr (tick s r.now) (p.base + hIntEn) (r.val.toNat &&& p.kind.intMask))) := by
  have halign : r.off.toNat % 4 = 0 := by have : r.off.toNat % 4096 = 0x14 := ho; omega
  have hsp : ¬ (r.who = .sp ∧ spRestarting (tick s r.now)) := by
    rintro ⟨hw, hs⟩
    exact absurd ((hwho hw).symm.trans hs) (by decide)
  have hspad : ¬ (p.kind = .spad ∧ hIntEn = 0x120) := by simp [hIntEn]
  have hbody : ¬ (0x100 ≤ hIntEn ∧ noSeqTable (tick s r.now) p = true) := by simp [hIntEn]
  show execRegWrite r s = _
  simp only [execRegWrite, halign, ne_eq, not_true_eq_false, if_false, if_neg hsp, hp, writePage, ho, if_neg hspad, if_neg hbody,
    afterWrite_header _ p (o := hIntEn) (by decide), writeReg_intEn hp ho]

/-- A write of BLK_INT_EN sends a message where it makes the interrupt active. -/
theorem regWrite_intEn_gives {r : RegWrite} {s : State} {p : PageRef} (hp : pageAt r.off.toNat = some p) (ho : r.off.toNat % 4096 = hIntEn)
    (hwho : r.who = .sp → spRestarting s = false) :
    Gives (.regWrite r) s (fun t => rd t r.off.toNat = r.val.toNat &&& p.kind.intMask ∧ WindowOnly s t ∧ MessageSent s t p.base) := by
  have hpg : p.base % 4096 = 0 := by rw [pageAt_base hp]; omega
  have hoff : p.base + hIntEn = r.off.toNat := ho ▸ pageAt_offset hp
  have hval : r.val.toNat &&& p.kind.intMask < 2 ^ 32 := Nat.lt_of_le_of_lt Nat.and_le_left r.val.isLt
  refine ⟨_, exec_regWrite_intEn hp ho hwho, ?_, ?_, messageSent_edge (tick s r.now) _ hpg (by decide)⟩
  · rw [rd_withIntEdge, hoff, rd_wr_same, Nat.mod_eq_of_lt hval]
  · exact ((windowOnly_tick ..).trans (windowOnly_wr ..)).trans (windowOnly_withIntEdge ..)

/-- A clear sends a message where a bit of its cycle makes the interrupt active. -/
theorem intStatW1c_message_gives {r : RegWrite} {coin : W32} {s : State} {p : PageRef} (hp : pageAt r.off.toNat = some p)
    (ho : r.off.toNat % 4096 = hIntStat) : Gives (.intStatW1c r coin) s (fun t => MessageSent s t p.base) := by
  have hpg : p.base % 4096 = 0 := by rw [pageAt_base hp]; omega
  have hoff : p.base + hIntStat = r.off.toNat := ho ▸ pageAt_offset hp
  refine ⟨_, exec_intStatW1c hp ho, ?_⟩
  rw [← hoff]
  exact messageSent_edge (tick s r.now) _ hpg (by decide)

/-- Settles O51: hardware's bits, an enable, and a clear, each a change of one header register. -/
theorem interruptMessages : Obligations.InterruptMessages := by
  refine ⟨fun s pg bits hpg hbits => ⟨fun n hn => rdB_intSet hn, windowOnly_intSet .., messageSent_edge s _ hpg (by decide)⟩,
    fun r s p hp ho hwho => regWrite_intEn_gives hp ho hwho, fun r coin s p hp ho => intStatW1c_message_gives hp ho⟩

end Sys2Proof.Machine
end

section
/-!
What the steps of Hearth and of SP leave as it was: the layer under O40 to O47. A step of Hearth changes registers of the window, Hearth's own
state and the log alone; SD's pages lie at fixed offsets, which tells their registers apart.
-/
namespace Sys2Proof.Machine

/-! ### Where SD's pages and the dies' pages lie (R470, R471) -/

/-- The offsets of SD's pages and of the header registers, by number. -/
theorem pageNumbers : sp0Pg = 0 ∧ bootPg = 0x1000 ∧ partPg = 0x2000 ∧ calPg = 0x3000 ∧ irqPg = 0x4000 ∧ hrtPg = 0x100000 ∧ ftl0Pg = 0x200000 ∧
    clnPg = 0x300000 ∧ attPg = 0x400000 ∧ ftmPg = 0x500000 ∧ mgtPg = 0x600000 ∧ hStat = 0xC ∧ hIntStat = 0x10 ∧ hErrSyn = 0x18 ∧ hErrLo = 0x1C ∧
    hEpoch = 0x24 ∧ hInj = 0x2C := by decide

/-- A die agent's page lies at its die's place (R471). -/
theorem hrtDPg_eq (d : Nat) : hrtDPg d = 0x01C00000 + 0x01000000 * d := by rw [hrtDPg]; omega

theorem rdW_wrF_ne (s : State) {o o' : Nat} (hi lo f : Nat) (h : o' ≠ o) : rdW (wrF s o hi lo f) o' = rdW s o' := rdW_wr_ne _ _ h

theorem rdW_wrB_ne (s : State) {o o' : Nat} (n : Nat) (b : Bool) (h : o' ≠ o) : rdW (wrB s o n b) o' = rdW s o' := rdW_wr_ne _ _ h

theorem rdW_incBy_ne (s : State) {o o' : Nat} (n : Nat) (h : o' ≠ o) : rdW (incBy s o n) o' = rdW s o' := rdW_wr_ne _ _ h

/-- A counter that read what it read in s counts n more. -/
theorem counted_incBy_of_rd {s u : State} {o : Nat} (n : Nat) (h : rd u o = rd s o) : Counted s (incBy u o n) o n := by
  rw [Counted, incBy, rd_wr_same, h]
  omega

/-! ### A clinker entry and its signals -/

/-- Only registers of the window, messages of interrupts, the log, the event queue, the count of free values and the time differ. -/
def LogOnly (s t : State) : Prop :=
  t = { s with free := t.free, win := { s.win with regs := t.win.regs, msiSent := t.win.msiSent }, cln := t.cln,
               mgt := { s.mgt with events := t.mgt.events }, time := t.time }

theorem LogOnly.refl (s : State) : LogOnly s s := rfl

theorem LogOnly.trans {s t u : State} (h1 : LogOnly s t) (h2 : LogOnly t u) : LogOnly s u := by
  unfold LogOnly at *
  rw [h2, h1]

theorem WindowOnly.logOnly {s t : State} (h : WindowOnly s t) : LogOnly s t := by
  unfold WindowOnly LogOnly at *
  rw [h]

theorem logOnly_ite {s t u : State} {c : Prop} [Decidable c] (ht : LogOnly s t) (hu : LogOnly s u) : LogOnly s (if c then t else u) := by
  split
  · exact ht
  · exact hu

theorem logOnly_queueEvent (s : State) (cat seq : Nat) : LogOnly s (queueEvent s cat seq) := by
  have hevents (l : List Nat) : LogOnly s { s with mgt := { s.mgt with events := l } } := rfl
  rw [queueEvent]
  refine logOnly_ite (logOnly_ite ?_ ?_) (.refl s)
  · exact (hevents _).trans ((windowOnly_wr ..).trans (windowOnly_intSet ..)).logOnly
  · exact (hevents _).trans (windowOnly_intSet ..).logOnly

theorem logOnly_clnInterrupt (s : State) (cat : Nat) : LogOnly s (clnInterrupt s cat) := by
  have hset (b : Bool) (u : State) (bits : Nat) : LogOnly u (if b then intSet u clnPg bits else u) :=
    logOnly_ite (windowOnly_intSet ..).logOnly (.refl u)
  exact (hset _ s 1).trans (hset _ _ 2)

theorem logOnly_clinker (s : State) (r : LogRec) : LogOnly s (clinker s r) := by
  have hdraw (c : Prop) [Decidable c] : LogOnly s (if c then { s with free := s.free + 1 } else s) := logOnly_ite rfl (.refl s)
  have hentry (u : State) (c : Clinker) : LogOnly u { u with cln := c } := rfl
  exact ((hdraw _).trans (hentry _ _)).trans ((logOnly_queueEvent ..).trans (logOnly_clnInterrupt ..))

/-- The registers by which a clinker entry is signalled: an event for polling and the log's own interrupt (R456, R467). -/
def IsLogReg (o : Nat) : Prop := o = clnPg + hIntStat ∨ o = mgtPg + hIntStat ∨ o = mgtPg + 0x114

theorem rdW_queueEvent_ne (s : State) (cat seq : Nat) {o : Nat} (h : ¬ IsLogReg o) : rdW (queueEvent s cat seq) o = rdW s o := by
  simp only [IsLogReg, not_or] at h
  obtain ⟨-, hint, hlost⟩ := h
  rw [queueEvent]
  split
  · split
    · rw [rdW_intSet_ne _ _ hint, rdW_incBy_ne _ _ hlost]
      rfl
    · rw [rdW_intSet_ne _ _ hint]
      rfl
  · rfl

theorem rdW_clnInterrupt_ne (s : State) (cat : Nat) {o : Nat} (h : ¬ IsLogReg o) : rdW (clnInterrupt s cat) o = rdW s o := by
  simp only [IsLogReg, not_or] at h
  have hset (b : Bool) (u : State) (bits : Nat) : rdW (if b then intSet u clnPg bits else u) o = rdW u o := by
    cases b
    · rfl
    · exact rdW_intSet_ne _ _ h.1
  exact (hset _ _ 2).trans (hset _ s 1)

/-- A clinker entry changes no other register. -/
theorem rdW_clinker_ne (s : State) (r : LogRec) {o : Nat} (h : ¬ IsLogReg o) : rdW (clinker s r) o = rdW s o := by
  refine (rdW_clnInterrupt_ne _ _ h).trans ((rdW_queueEvent_ne _ _ _ h).trans ?_)
  show rdW (if r.payload.isNone && r.closes.isNone then { s with free := s.free + 1 } else s) o = rdW s o
  split <;> rfl

/-- Below the log's page, and on the dies, there is no such register. -/
theorem not_isLogReg {o : Nat} (h : o < 0x300000 ∨ 0x00700000 ≤ o) : ¬ IsLogReg o := by
  simp only [IsLogReg, clnPg, mgtPg, hIntStat]
  omega

section
variable {s t : State} (h : LogOnly s t)
include h

theorem LogOnly.pending_eq : t.pending = s.pending := by rw [h]
theorem LogOnly.tl_eq : t.tl = s.tl := by rw [h]
theorem LogOnly.mem_eq : t.mem = s.mem := by rw [h]
theorem LogOnly.prt_eq : t.prt = s.prt := by rw [h]
theorem LogOnly.hrt_eq : t.hrt = s.hrt := by rw [h]
theorem LogOnly.boot_eq : t.boot = s.boot := by rw [h]
theorem LogOnly.cal_eq : t.cal = s.cal := by rw [h]
theorem LogOnly.sp_eq : t.sp = s.sp := by rw [h]
theorem LogOnly.response_eq : t.mgt.response = s.mgt.response := by rw [h]

end

/-- A clinker entry takes no time. -/
theorem clinker_time (s : State) (r : LogRec) : (clinker s r).time = s.time := by
  have hqueue (u : State) (cat seq : Nat) : (queueEvent u cat seq).time = u.time := by
    rw [queueEvent]
    repeat' split
    all_goals simp
  have hsignal (u : State) (cat : Nat) : (clnInterrupt u cat).time = u.time := by
    simp only [clnInterrupt]
    repeat' split
    all_goals simp
  refine (hsignal _ _).trans ((hqueue _ _ _).trans ?_)
  show (if r.payload.isNone && r.closes.isNone then { s with free := s.free + 1 } else s).time = s.time
  split <;> rfl

/-! ### Steps of Hearth -/

/-- Only registers of the window, messages, the log and Hearth's own state differ. -/
def HearthOnly (s t : State) : Prop := LogOnly { s with hrt := t.hrt } t

theorem HearthOnly.refl (s : State) : HearthOnly s s := rfl

theorem HearthOnly.trans {s t u : State} (h1 : HearthOnly s t) (h2 : HearthOnly t u) : HearthOnly s u := by
  unfold HearthOnly LogOnly at *
  rw [h2, h1]

theorem LogOnly.hearthOnly {s t : State} (h : LogOnly s t) : HearthOnly s t := by
  unfold HearthOnly LogOnly at *
  rw [h]

theorem WindowOnly.hearthOnly {s t : State} (h : WindowOnly s t) : HearthOnly s t := h.logOnly.hearthOnly

theorem hearthOnly_setHrt (s : State) (h : Hearth) : HearthOnly s { s with hrt := h } := rfl

theorem hearthOnly_setAgent (s : State) (d : Nat) (a : DieAgent) : HearthOnly s (setAgent s d a) := rfl

theorem hearthOnly_ite {s t u : State} {c : Prop} [Decidable c] (ht : HearthOnly s t) (hu : HearthOnly s u) :
    HearthOnly s (if c then t else u) := by
  split
  · exact ht
  · exact hu

theorem hearthOnly_foldl {α : Type} {f : State → α → State} (hf : ∀ s a, HearthOnly s (f s a)) (l : List α) (s : State) :
    HearthOnly s (l.foldl f s) := by
  induction l generalizing s with
  | nil => exact .refl s
  | cons a l ih => exact (hf s a).trans (ih _)

section
variable {s t : State} (h : HearthOnly s t)
include h

theorem HearthOnly.log : LogOnly { s with hrt := t.hrt } t := h
theorem HearthOnly.pending_eq : t.pending = s.pending := h.log.pending_eq
theorem HearthOnly.tl_eq : t.tl = s.tl := h.log.tl_eq
theorem HearthOnly.mem_eq : t.mem = s.mem := h.log.mem_eq
theorem HearthOnly.boot_eq : t.boot = s.boot := h.log.boot_eq
theorem HearthOnly.cal_eq : t.cal = s.cal := h.log.cal_eq
theorem HearthOnly.sp_eq : t.sp = s.sp := h.log.sp_eq
theorem HearthOnly.prt_eq : t.prt = s.prt := h.log.prt_eq

end

end Sys2Proof.Machine
end

section
/-!
Heat and droop (16_hearth_power_thermal.md R412 to R414): what a ms's readings and an episode of droop leave. O42.
-/
namespace Sys2Proof.Machine

/-! ### Die agents -/

theorem dieAgent_congr {s t : State} (h : t.hrt.dies = s.hrt.dies) (d : Nat) : dieAgent t d = dieAgent s d := by rw [dieAgent, h, dieAgent]

theorem dieAgent_setAgent (s : State) (d : Nat) (a : DieAgent) : dieAgent (setAgent s d a) d = a := cGet_cSet_same ..

theorem rdW_setHrt (s : State) (h : Hearth) (o : Nat) : rdW { s with hrt := h } o = rdW s o := rfl

theorem rdW_setAgent (s : State) (d : Nat) (a : DieAgent) (o : Nat) : rdW (setAgent s d a) o = rdW s o := rfl

/-! ### Transitions and duties (R399, R400) -/

theorem hearthOnly_beginMove (s : State) (d goalOp : Nat) : HearthOnly s (beginMove s d goalOp) := by
  rw [beginMove]
  exact (hearthOnly_setAgent s d _).trans ((windowOnly_wr ..).trans (windowOnly_intSet ..)).hearthOnly

theorem hearthOnly_applyOp (s : State) (d : Nat) : HearthOnly s (applyOp s d) := by
  simp only [applyOp]
  split
  · exact hearthOnly_ite (.refl s) (hearthOnly_beginMove ..)
  · exact hearthOnly_ite (hearthOnly_beginMove ..) (.refl s)

theorem hearthOnly_showDuty (s : State) (d : Nat) : HearthOnly s (showDuty s d) :=
  ((windowOnly_wr ..).trans (windowOnly_wr ..)).hearthOnly

/-- What a die's following of its limits keeps: other registers, the fields of its STAT but the operating point, the interrupt bits that are
set, and that the die is in thermal trip. -/
structure DieMoved (d : Nat) (s t : State) : Prop where
  frame   : HearthOnly s t
  regs    : ∀ {o}, o ≠ hrtDPg d + 0x104 → o ≠ hrtDPg d + hIntStat → rdW t o = rdW s o
  fields  : ∀ {hi lo}, hi < 10 ∨ (20 ≤ lo ∧ hi < 28) → rdF t (hrtDPg d + 0x104) hi lo = rdF s (hrtDPg d + 0x104) hi lo
  bits    : ∀ {n}, rdB s (hrtDPg d + hIntStat) n = true → rdB t (hrtDPg d + hIntStat) n = true
  tripped : (dieAgent t d).tripped = (dieAgent s d).tripped

theorem DieMoved.refl (d : Nat) (s : State) : DieMoved d s s := ⟨.refl s, fun _ _ => rfl, fun _ => rfl, id, rfl⟩

theorem DieMoved.trans {d : Nat} {s t u : State} (h1 : DieMoved d s t) (h2 : DieMoved d t u) : DieMoved d s u :=
  ⟨h1.frame.trans h2.frame, fun ho hi => (h2.regs ho hi).trans (h1.regs ho hi), fun h => (h2.fields h).trans (h1.fields h),
    fun h => h2.bits (h1.bits h), h2.tripped.trans h1.tripped⟩

theorem dieMoved_beginMove (s : State) (d goalOp : Nat) : DieMoved d s (beginMove s d goalOp) where
  frame := hearthOnly_beginMove s d goalOp
  regs ho hi := by rw [beginMove, rdW_intSet_ne _ _ hi, rdW_wrF_ne _ _ _ _ ho, rdW_setAgent]
  fields h := by
    rw [beginMove, rdF_of_rdW (rdW_intSet_page _ _ _ (by decide)), rdF_wrF_ne _ _ _ (by decide) (by omega) (by omega)]
    rfl
  bits h := by
    rw [beginMove]
    refine rdB_intSet_of_set _ ?_
    rw [rdB_of_rdW (rdW_wrF_page _ _ (by decide) _ _ _), rdB_of_rdW (rdW_setAgent ..), h]
  tripped := by
    rw [beginMove, dieAgent_congr (congrArg Hearth.dies ((intSet_hrt ..).trans (wrF_hrt ..))), dieAgent_setAgent]

theorem dieMoved_applyOp (s : State) (d : Nat) : DieMoved d s (applyOp s d) := by
  have hif (c : Prop) [Decidable c] (g : Nat) : DieMoved d s (if c then beginMove s d g else s) := by
    split
    · exact dieMoved_beginMove ..
    · exact .refl d s
  simp only [applyOp]
  split
  · rw [← ite_not]
    exact hif _ _
  · exact hif _ _

theorem dieMoved_showDuty (s : State) (d : Nat) : DieMoved d s (showDuty s d) where
  frame := hearthOnly_showDuty s d
  regs ho _ := by rw [showDuty, rdW_wrF_ne _ _ _ _ ho, rdW_wrF_ne _ _ _ _ ho]
  fields h := by rw [showDuty, rdF_wrF_ne _ _ _ (by decide) (by omega) (by omega), rdF_wrF_ne _ _ _ (by decide) (by omega) (by omega)]
  bits h := by
    rw [showDuty, rdB_of_rdW (rdW_wrF_page _ _ (by decide) _ _ _), rdB_of_rdW (rdW_wrF_page _ _ (by decide) _ _ _), h]
  tripped := congrArg DieAgent.tripped (dieAgent_congr (congrArg Hearth.dies (by rw [showDuty, wrF_hrt, wrF_hrt])) d)

/-- The die follows its limits, and shows its duties. -/
theorem dieMoved_follow (s : State) (d : Nat) : DieMoved d s (showDuty (applyOp s d) d) :=
  (dieMoved_applyOp s d).trans (dieMoved_showDuty ..)

/-! ### A ms's reading (R412, R414) -/

/-- The registers that a ms's reading changes beside a die's STAT: interrupt bits, HRT_THERM_MS, and those that signal a clinker entry. -/
def IsHeatReg (d o : Nat) : Prop := o = hrtDPg d + hIntStat ∨ o = hrtPg + hIntStat ∨ o = hrtPg + 0x164 ∨ IsLogReg o

/-- What the consequences of a reading keep: other registers, the hottest junction and the thermal ceiling, the interrupt bits that are set. -/
structure HeatKept (d : Nat) (s t : State) : Prop where
  frame  : HearthOnly s t
  regs   : ∀ {o}, o ≠ hrtDPg d + 0x104 → ¬ IsHeatReg d o → rdW t o = rdW s o
  fields : ∀ {hi lo}, hi < 10 ∨ (20 ≤ lo ∧ hi < 28) → rdF t (hrtDPg d + 0x104) hi lo = rdF s (hrtDPg d + 0x104) hi lo
  bits   : ∀ {n}, rdB s (hrtDPg d + hIntStat) n = true → rdB t (hrtDPg d + hIntStat) n = true

theorem HeatKept.refl (d : Nat) (s : State) : HeatKept d s s := ⟨.refl s, fun _ _ => rfl, fun _ => rfl, id⟩

theorem HeatKept.trans {d : Nat} {s t u : State} (h1 : HeatKept d s t) (h2 : HeatKept d t u) : HeatKept d s u :=
  ⟨h1.frame.trans h2.frame, fun ho hi => (h2.regs ho hi).trans (h1.regs ho hi), fun h => (h2.fields h).trans (h1.fields h),
    fun h => h2.bits (h1.bits h)⟩

theorem DieMoved.heatKept {d : Nat} {s t : State} (h : DieMoved d s t) : HeatKept d s t :=
  ⟨h.frame, fun ho hi => h.regs ho fun he => hi (.inl he), h.fields, h.bits⟩

theorem heatKept_setAgent (s : State) (d : Nat) (a : DieAgent) : HeatKept d s (setAgent s d a) :=
  ⟨hearthOnly_setAgent s d a, fun _ _ => rfl, fun _ => rfl, id⟩

/-- Setting interrupt bits of the die or of Hearth. -/
theorem heatKept_intSet (s : State) {d pg : Nat} (bits : Nat) (hpg : pg = hrtDPg d ∨ pg = hrtPg) : HeatKept d s (intSet s pg bits) := by
  have hne : hrtDPg d + 0x104 ≠ pg + hIntStat ∧ (pg ≠ hrtDPg d → hrtDPg d + hIntStat ≠ pg + hIntStat) := by
    have hd := hrtDPg_eq d
    have hnum := pageNumbers
    omega
  refine ⟨(windowOnly_intSet ..).hearthOnly, fun _ hi => rdW_intSet_ne _ _ fun he => hi ?_, fun _ => rdF_of_rdW (rdW_intSet_ne _ _ hne.1) .., ?_⟩
  · rcases hpg with rfl | rfl
    · exact .inl he
    · exact .inr (.inl he)
  · intro n hn
    by_cases heq : pg = hrtDPg d
    · subst heq
      exact rdB_intSet_of_set _ hn
    · exact (rdB_of_rdW (rdW_intSet_ne _ _ (hne.2 heq)) n).trans hn

theorem heatKept_clinker (s : State) (d : Nat) (r : LogRec) : HeatKept d s (clinker s r) := by
  have hlog {x : Nat} (hx : x < 0x1000) : ¬ IsLogReg (hrtDPg d + x) := not_isLogReg (by have := hrtDPg_eq d; omega)
  exact ⟨(logOnly_clinker ..).hearthOnly, fun _ hi => rdW_clinker_ne _ _ fun he => hi (.inr (.inr (.inr he))),
    fun _ => rdF_of_rdW (rdW_clinker_ne _ _ (hlog (by decide))) .., fun hn => (rdB_of_rdW (rdW_clinker_ne _ _ (hlog (by decide))) _).trans hn⟩

theorem heatKept_countTherm (s : State) (d : Nat) : HeatKept d s (countTherm s) := by
  have hne {x : Nat} (hx : x < 0x1000) : hrtDPg d + x ≠ hrtPg + 0x164 := by
    have hd := hrtDPg_eq d
    have hnum := pageNumbers
    omega
  have hcount (h : Hearth) : HeatKept d { s with hrt := h } (inc { s with hrt := h } (hrtPg + 0x164)) :=
    ⟨(windowOnly_inc ..).hearthOnly, fun _ hi => rdW_inc_ne _ fun he => hi (.inr (.inr (.inl he))),
      fun _ => rdF_of_rdW (rdW_inc_ne _ (hne (by decide))) .., fun hn => (rdB_of_rdW (rdW_inc_ne _ (hne (by decide))) _).trans hn⟩
  have hset (h : Hearth) : HeatKept d s { s with hrt := h } := ⟨hearthOnly_setHrt s h, fun _ _ => rfl, fun _ => rfl, id⟩
  rw [countTherm]
  split
  · exact .refl d s
  · exact (hset _).trans (hcount _)

theorem countTherm_dies (s : State) : (countTherm s).hrt.dies = s.hrt.dies := by
  rw [countTherm]
  split
  · rfl
  · rw [inc_hrt]

/-- The thermal ceiling that a reading gives, and whether it leaves the die in thermal trip (R414). -/
def ceilAfter (s : State) (d tj : Nat) : Nat :=
  let lim := rd s (hrtPg + 0x148)
  if (dieAgent s d).tripped = true ∧ tj > bitsOf lim 15 8 then 0
  else nextCeil (thermCeil s d) tj (bitsOf lim 7 0) (bitsOf lim 15 8) (bitsOf lim 23 16)

def trippedAfter (s : State) (d tj : Nat) : Bool :=
  let lim := rd s (hrtPg + 0x148)
  decide (bitsOf lim 23 16 ≤ tj) || ((dieAgent s d).tripped && decide (bitsOf lim 15 8 < tj))

theorem ceilAfter_lt (s : State) (d tj : Nat) : ceilAfter s d tj < 16 := by
  have hold : thermCeil s d < 16 := bitsOf_lt _ 23 20
  simp only [ceilAfter, nextCeil]
  repeat' split
  all_goals omega

/-- The reading with its ceiling, and signalled where the junction is at THROTTLE or above. -/
def heatNoted (s : State) (d tj : Nat) : State :=
  let u := wrF s (hrtDPg d + 0x104) 23 20 (ceilAfter s d tj)
  if tj ≥ bitsOf (rd s (hrtPg + 0x148)) 15 8 then countTherm (intSet u (hrtDPg d) 1) else u

/-- What a reading decides of the thermal trip. -/
def tripDecided (s : State) (d tj : Nat) : State :=
  let lim := rd s (hrtPg + 0x148)
  let a := dieAgent s d
  let u := heatNoted s d tj
  if tj ≥ bitsOf lim 23 16 then
    let v := setAgent u d { a with tripped := true }
    showDuty (applyOp (if a.tripped then v
      else clinker (intSet (intSet v (hrtDPg d) 2) hrtPg 2) { cat := 3, code := 1, page := hrtDPg d }) d) d
  else if a.tripped = true ∧ tj ≤ bitsOf lim 15 8 then showDuty (setAgent u d { a with tripped := false }) d
  else u

theorem heatStep_eq (s : State) (d tj : Nat) : heatStep s d tj = tripDecided s d tj := rfl

section
variable (s : State) (d tj : Nat)

theorem heatNoted_kept : HeatKept d (wrF s (hrtDPg d + 0x104) 23 20 (ceilAfter s d tj)) (heatNoted s d tj) := by
  rw [heatNoted]
  split
  · exact (heatKept_intSet _ 1 (.inl rfl)).trans (heatKept_countTherm ..)
  · exact .refl ..

theorem heatNoted_agent : dieAgent (heatNoted s d tj) d = dieAgent s d := by
  refine dieAgent_congr ?_ d
  rw [heatNoted]
  split
  · rw [countTherm_dies, intSet_hrt, wrF_hrt]
  · rw [wrF_hrt]

/-- The new entry of a trip, where the die was not in trip. -/
theorem tripEntered_kept (u : State) (a : DieAgent) :
    HeatKept d u (if a.tripped then u
      else clinker (intSet (intSet u (hrtDPg d) 2) hrtPg 2) { cat := 3, code := 1, page := hrtDPg d }) ∧
    dieAgent (if a.tripped then u
      else clinker (intSet (intSet u (hrtDPg d) 2) hrtPg 2) { cat := 3, code := 1, page := hrtDPg d }) d = dieAgent u d := by
  split
  · exact ⟨.refl d u, rfl⟩
  · refine ⟨((heatKept_intSet u 2 (.inl rfl)).trans (heatKept_intSet _ 2 (.inr rfl))).trans (heatKept_clinker ..), dieAgent_congr ?_ d⟩
    rw [(logOnly_clinker ..).hrt_eq, intSet_hrt, intSet_hrt]

theorem tripDecided_noted : HeatKept d (heatNoted s d tj) (tripDecided s d tj) := by
  rw [tripDecided]
  split
  · exact ((heatKept_setAgent ..).trans (tripEntered_kept ..).1).trans (dieMoved_follow ..).heatKept
  · split
    · exact (heatKept_setAgent ..).trans (dieMoved_showDuty ..).heatKept
    · exact .refl ..

theorem tripDecided_kept : HeatKept d (wrF s (hrtDPg d + 0x104) 23 20 (ceilAfter s d tj)) (tripDecided s d tj) :=
  (heatNoted_kept s d tj).trans (tripDecided_noted s d tj)

theorem tripDecided_tripped : (dieAgent (tripDecided s d tj) d).tripped = trippedAfter s d tj := by
  simp only [trippedAfter]
  rw [tripDecided]
  split
  · next h =>
    rw [(dieMoved_follow ..).tripped, (tripEntered_kept ..).2, dieAgent_setAgent, decide_eq_true h]
    rfl
  · next h =>
    rw [decide_eq_false h, Bool.false_or]
    split
    · next h' =>
      rw [(dieMoved_showDuty ..).tripped, dieAgent_setAgent, decide_eq_false (Nat.not_lt.2 h'.2), Bool.and_false]
    · next h' =>
      rw [heatNoted_agent]
      cases htrip : (dieAgent s d).tripped with
      | false => rfl
      | true => rw [decide_eq_true (Nat.lt_of_not_le fun hle => h' ⟨htrip, hle⟩)]; rfl

/-- What a reading leaves of the die and of Hearth's registers (R414). -/
theorem heatStep_thermCeil : thermCeil (heatStep s d tj) d = ceilAfter s d tj := by
  rw [heatStep_eq, thermCeil, (tripDecided_kept s d tj).fields (by omega), rdF_wrF _ _ _ _ _ (by decide) (by decide)]
  exact Nat.mod_eq_of_lt (ceilAfter_lt s d tj)

theorem heatStep_junction : junction (heatStep s d tj) d = junction s d := by
  rw [heatStep_eq, junction, (tripDecided_kept s d tj).fields (by omega), rdF_wrF_ne _ _ _ (by decide) (by decide) (by decide)]
  rfl

theorem heatStep_tripped : (dieAgent (heatStep s d tj) d).tripped = trippedAfter s d tj := tripDecided_tripped s d tj

theorem heatStep_frame : HearthOnly s (heatStep s d tj) :=
  (windowOnly_wr ..).hearthOnly.trans (heatStep_eq s d tj ▸ (tripDecided_kept s d tj).frame)

theorem heatStep_regs {o : Nat} (h : o ≠ hrtDPg d + 0x104) (hi : ¬ IsHeatReg d o) : rdW (heatStep s d tj) o = rdW s o := by
  rw [heatStep_eq, (tripDecided_kept s d tj).regs h hi, rdW_wrF_ne _ _ _ _ h]

/-- A junction at THROTTLE or above is signalled. -/
theorem heatStep_signal (h : bitsOf (rd s (hrtPg + 0x148)) 15 8 ≤ tj) : rdB (heatStep s d tj) (hrtDPg d + hIntStat) 0 = true := by
  rw [heatStep_eq]
  refine (tripDecided_noted s d tj).bits ?_
  rw [heatNoted, if_pos h]
  exact (heatKept_countTherm _ d).bits (intSet_bit _ _ 0 (by decide))

end

/-! ### The diodes and the coolant -/

/-- The state with a die's diodes read, before the ms of episodes ends. -/
def diodesRead (s : State) (d : Nat) (temps : List Nat) : State :=
  (List.range 72).foldl (fun s' i => wr s' (hrtDPg d + 0x180 + 4 * i)
    (min (cGet (fun _ => 0) s.hrt.episodes (72 * d + i)) 0xFFFF * 2 ^ 16 + nth 0 temps i % 256)) s

section
variable (s : State) (d : Nat) (temps : List Nat)

theorem tileReadings_eq : ∃ r e, tileReadings s d temps =
    { diodesRead s d temps with hrt := { (diodesRead s d temps).hrt with runs := r, episodes := e } } := by
  simp only [tileReadings]
  rw [← diodesRead]
  exact ⟨_, _, rfl⟩

theorem tileReadings_regs (o : Nat) : rdW (tileReadings s d temps) o = rdW (diodesRead s d temps) o := by
  obtain ⟨r, e, h⟩ := tileReadings_eq s d temps
  exact (congrArg (rdW · o) h).trans (rdW_setHrt ..)

theorem tileReadings_below {o : Nat} (h : o < hrtDPg d + 0x180) : rdW (tileReadings s d temps) o = rdW s o := by
  rw [tileReadings_regs, diodesRead, rdW_wrRange_below _ _ _ _ h]

/-- The temperature of a tile reads what its diode measured (R412). -/
theorem tileReadings_temp {i : Nat} (h : i < 72) : rdF (tileReadings s d temps) (hrtDPg d + 0x180 + 4 * i) 7 0 = nth 0 temps i % 256 := by
  rw [rdF_of_rdW (tileReadings_regs ..), rdF, diodesRead, rd_wrRange _ _ _ h, bitsOf_mod _ _ _ (by decide), bitsOf]
  omega

theorem tileReadings_frame : HearthOnly s (tileReadings s d temps) := by
  have hread : HearthOnly s (diodesRead s d temps) := by
    rw [diodesRead]
    exact hearthOnly_foldl (fun _ _ => (windowOnly_wr ..).hearthOnly) _ s
  obtain ⟨r, e, h⟩ := tileReadings_eq s d temps
  rw [h]
  exact hread.trans (hearthOnly_setHrt _ _)

theorem tileReadings_agent (d' : Nat) : dieAgent (tileReadings s d temps) d' = dieAgent s d' := by
  refine dieAgent_congr ?_ d'
  obtain ⟨r, e, h⟩ := tileReadings_eq s d temps
  have hkept (l : List Nat) (f : Nat → Nat) : ∀ u : State, (l.foldl (fun s' i => wr s' (hrtDPg d + 0x180 + 4 * i) (f i)) u).hrt = u.hrt := by
    induction l with
    | nil => exact fun u => rfl
    | cons a l ih => exact fun u => (ih _).trans (wr_hrt ..)
  rw [h, diodesRead, hkept]

end

section
variable (s : State) (inlet outlet : Nat)

/-- The coolant's readings in their registers. -/
def coolantRead : State :=
  wrB (wr s (hrtPg + 0x14C) (outlet % 256 * 2 ^ 8 + inlet % 256)) (hrtPg + 0x104) 6 (decide (inlet > 40))

theorem coolant_cases : coolant s inlet outlet = coolantRead s inlet outlet ∨
    coolant s inlet outlet = intSet (coolantRead s inlet outlet) hrtPg 128 := by
  simp only [coolant]
  split
  · exact .inr rfl
  · exact .inl rfl

theorem coolant_regs {o : Nat} (h : o ≠ hrtPg + hIntStat) : rdW (coolant s inlet outlet) o = rdW (coolantRead s inlet outlet) o := by
  rcases coolant_cases s inlet outlet with hc | hc <;> rw [hc]
  exact rdW_intSet_ne _ _ h

theorem coolant_frame : HearthOnly s (coolant s inlet outlet) ∧ (coolant s inlet outlet).hrt = s.hrt := by
  have hread : WindowOnly s (coolantRead s inlet outlet) := (windowOnly_wr ..).trans (windowOnly_wrB ..)
  have hhrt : (coolantRead s inlet outlet).hrt = s.hrt := by rw [coolantRead, wrB_hrt, wr_hrt]
  rcases coolant_cases s inlet outlet with hc | hc <;> rw [hc]
  · exact ⟨hread.hearthOnly, hhrt⟩
  · exact ⟨(hread.trans (windowOnly_intSet ..)).hearthOnly, (intSet_hrt ..).trans hhrt⟩

theorem coolant_inlet : rdF (coolant s inlet outlet) (hrtPg + 0x14C) 7 0 = inlet % 256 ∧
    rdF (coolant s inlet outlet) (hrtPg + 0x14C) 15 8 = outlet % 256 := by
  have hreg : rd (coolant s inlet outlet) (hrtPg + 0x14C) = outlet % 256 * 2 ^ 8 + inlet % 256 := by
    rw [rd_of_rdW (coolant_regs _ _ _ (by decide)), coolantRead, rd_wrB_ne _ _ _ (by decide), rd_wr_same]
    omega
  rw [rdF, rdF, hreg, bitsOf, bitsOf, Nat.shiftRight_eq_div_pow, Nat.shiftRight_eq_div_pow]
  omega

theorem coolant_hot : rdB (coolant s inlet outlet) (hrtPg + 0x104) 6 = decide (40 < inlet) := by
  rw [rdB_of_rdW (coolant_regs _ _ _ (by decide)), coolantRead, rdB_wrB _ _ _ _ (by decide)]

theorem coolant_other {o : Nat} (h1 : o ≠ hrtPg + 0x14C) (h2 : o ≠ hrtPg + 0x104) (h3 : o ≠ hrtPg + hIntStat) :
    rdW (coolant s inlet outlet) o = rdW s o := by
  rw [coolant_regs _ _ _ h3, coolantRead, rdW_wrB_ne _ _ _ h2, rdW_wr_ne _ _ h1]

end

/-! ### A trip of the power train (R414, R484) -/

/-- A loss of the module's power leaves the tiles at their reset values and SP's own boot state. -/
theorem loseModule_warm_tl (s : State) : (loseModule false s).tl = Tiles.reset := by
  have hparts (l : List Nat) : ∀ u : State,
      (l.foldl (fun s n => wr (wr s (partPg + 0x140 + 4 * n) 0) (partPg + 0x160 + 4 * n) 0) u).tl = u.tl := by
    induction l with
    | nil => exact fun u => rfl
    | cons n l ih => exact fun u => (ih _).trans ((wr_tl ..).trans (wr_tl ..))
  simp only [loseModule, Bool.false_eq_true, if_false]
  exact (hparts _ _).trans rfl

theorem tripped_analogTrip (s : State) (sub : Nat) (keepsOff : Bool) : Tripped (analogTrip s sub keepsOff) keepsOff where
  phase := rfl
  rails := rfl
  keepsOff := rfl
  ready := by
    have hlog : ¬ IsLogReg (bootPg + 0x100) := not_isLogReg (by decide)
    simp only [analogTrip]
    exact (rdB_of_rdW (rdW_clinker_ne _ _ hlog) 0).trans (rdB_wrB _ _ _ _ (by decide))
  tiles := by
    simp only [analogTrip]
    exact (logOnly_clinker ..).tl_eq.trans ((wrB_tl ..).trans (loseModule_warm_tl s))

/-! ### THERMAL_LOOP (R412, R414) -/

/-- The state in which a die's reading has its consequences: diodes and coolant read, the hottest junction shown. -/
def readingShown (s : State) (d : Nat) (temps : List Nat) (inlet outlet tj : Nat) : State :=
  wrF (coolant (tileReadings s d temps) inlet outlet) (hrtDPg d + 0x104) 7 0 tj

section
variable (s : State) (d : Nat) (temps : List Nat) (inlet outlet tj : Nat)

theorem readingShown_frame : HearthOnly s (readingShown s d temps inlet outlet tj) :=
  ((tileReadings_frame s d temps).trans (coolant_frame _ inlet outlet).1).trans (windowOnly_wr ..).hearthOnly

theorem readingShown_agent : dieAgent (readingShown s d temps inlet outlet tj) d = dieAgent s d := by
  rw [readingShown, dieAgent_congr (congrArg Hearth.dies (wrF_hrt ..)), dieAgent_congr (congrArg Hearth.dies (coolant_frame ..).2),
    tileReadings_agent]

theorem readingShown_die {x : Nat} (hx : x < 0x180) (hne : x ≠ 0x104) :
    rdW (readingShown s d temps inlet outlet tj) (hrtDPg d + x) = rdW s (hrtDPg d + x) := by
  have hd := hrtDPg_eq d
  have hnum := pageNumbers
  rw [readingShown, rdW_wrF_page _ _ hne, coolant_other _ _ _ (by omega) (by omega) (by omega), tileReadings_below _ _ _ (by omega)]

theorem readingShown_lim : rdW (readingShown s d temps inlet outlet tj) (hrtPg + 0x148) = rdW s (hrtPg + 0x148) := by
  have hd := hrtDPg_eq d
  have hnum := pageNumbers
  rw [readingShown, rdW_wrF_ne _ _ _ _ (by omega), coolant_other _ _ _ (by omega) (by omega) (by omega), tileReadings_below _ _ _ (by omega)]

theorem readingShown_ceil : thermCeil (readingShown s d temps inlet outlet tj) d = thermCeil s d := by
  have hd := hrtDPg_eq d
  have hnum := pageNumbers
  rw [readingShown, thermCeil, rdF_wrF_ne _ _ _ (by decide) (by decide) (by decide), rdF_of_rdW (coolant_other _ _ _ (by omega) (by omega) (by omega)),
    rdF_of_rdW (tileReadings_below _ _ _ (by omega)), thermCeil]

theorem readingShown_junction (h : tj < 256) : junction (readingShown s d temps inlet outlet tj) d = tj := by
  rw [readingShown, junction, rdF_wrF _ _ _ _ _ (by decide) (by decide)]
  omega

theorem readingShown_temp {i : Nat} (h : i < 72) :
    rdF (readingShown s d temps inlet outlet tj) (hrtDPg d + 0x180 + 4 * i) 7 0 = nth 0 temps i % 256 := by
  have hd := hrtDPg_eq d
  have hnum := pageNumbers
  rw [readingShown, rdF_of_rdW (rdW_wrF_ne _ _ _ _ (by omega)), rdF_of_rdW (coolant_other _ _ _ (by omega) (by omega) (by omega)),
    tileReadings_temp _ _ _ h]

theorem readingShown_hearth {x : Nat} (hx : x < 0x1000) :
    rdW (readingShown s d temps inlet outlet tj) (hrtPg + x) = rdW (coolant (tileReadings s d temps) inlet outlet) (hrtPg + x) := by
  have hd := hrtDPg_eq d
  have hnum := pageNumbers
  rw [readingShown, rdW_wrF_ne _ _ _ _ (by omega)]

theorem ceilAfter_readingShown (tj' : Nat) : ceilAfter (readingShown s d temps inlet outlet tj) d tj' = ceilAfter s d tj' := by
  simp only [ceilAfter, readingShown_agent, readingShown_ceil, rd_of_rdW (readingShown_lim ..)]

theorem trippedAfter_readingShown (tj' : Nat) : trippedAfter (readingShown s d temps inlet outlet tj) d tj' = trippedAfter s d tj' := by
  simp only [trippedAfter, readingShown_agent, rd_of_rdW (readingShown_lim ..)]

end

/-- The hottest of a die's readings (R412). -/
def hottest (temps : List Nat) : Nat := (temps.take 72).foldl max 0

/-- A die's readings with their consequences. -/
def dieRead (s : State) (d : Nat) (temps : List Nat) (inlet outlet : Nat) : State :=
  heatStep (readingShown s d temps inlet outlet (hottest temps)) d (hottest temps)

theorem dieRead_frame (s : State) (d : Nat) (temps : List Nat) (inlet outlet : Nat) : HearthOnly s (dieRead s d temps inlet outlet) :=
  (readingShown_frame ..).trans (heatStep_frame ..)

section
variable {die : Fin 4} {temps : List Nat} {inlet outlet now : Nat} {s : State} (harm : notArmed s (hrtDPg die))
include harm

/-- Without an injection the loop takes the reading's consequences, and at 115 °C the analog protection trips. -/
theorem exec_thermalLoop : exec (.thermalLoop die temps inlet outlet now) s =
    .next (if hottest temps ≥ 115 ∧ canTrip (dieRead (tick s now) die temps inlet outlet) then
      analogTrip (dieRead (tick s now) die temps inlet outlet) die false else dieRead (tick s now) die temps inlet outlet) := by
  have hd := hrtDPg_eq die
  have hnum := pageNumbers
  have hinj : rdW (coolant (tileReadings (tick s now) die temps) inlet outlet) (hrtDPg die + hInj) = rdW s (hrtDPg die + hInj) := by
    rw [coolant_other _ _ _ (by omega) (by omega) (by omega), tileReadings_below _ _ _ (by omega)]
    rfl
  have harm' : notArmed (coolant (tileReadings (tick s now) die temps) inlet outlet) (hrtDPg die) := (rdB_of_rdW hinj 31).trans harm
  show execThermalLoop die temps inlet outlet now s = _
  simp only [execThermalLoop, injectEvent_notArmed harm']
  rfl

/-- Below 115 °C the reading has its consequences. -/
theorem thermalLoop_gives (hcool : hottest temps < 115) :
    Gives (.thermalLoop die temps inlet outlet now) s (fun t =>
      junction t die = hottest temps ∧ thermCeil t die = ceilAfter s die (hottest temps) ∧
      (dieAgent t die).tripped = trippedAfter s die (hottest temps) ∧
      (bitsOf (rd s (hrtPg + 0x148)) 15 8 ≤ hottest temps → rdB t (hrtDPg die + hIntStat) 0 = true) ∧
      (∀ i < 72, rdF t (hrtDPg die + 0x180 + 4 * i) 7 0 = nth 0 temps i % 256) ∧
      rdF t (hrtPg + 0x14C) 7 0 = inlet % 256 ∧ rdF t (hrtPg + 0x14C) 15 8 = outlet % 256 ∧
      rdB t (hrtPg + 0x104) 6 = decide (40 < inlet) ∧ t.tl = s.tl ∧ t.mem = s.mem) := by
  have hd := hrtDPg_eq die
  have hnum := pageNumbers
  have hother {o : Nat} (h : o ≠ hrtDPg die + 0x104 ∧ o ≠ hrtDPg die + hIntStat ∧ o ≠ hrtPg + hIntStat ∧ o ≠ hrtPg + 0x164 ∧
      (o < 0x300000 ∨ 0x700000 ≤ o)) : rdW (dieRead (tick s now) die temps inlet outlet) o =
      rdW (readingShown (tick s now) die temps inlet outlet (hottest temps)) o :=
    heatStep_regs _ _ _ h.1 (by rintro (he | he | he | he); exacts [h.2.1 he, h.2.2.1 he, h.2.2.2.1 he, not_isLogReg h.2.2.2.2 he])
  have hframe := dieRead_frame (tick s now) die temps inlet outlet
  have hexec := exec_thermalLoop (temps := temps) (inlet := inlet) (outlet := outlet) (now := now) harm
  rw [if_neg (fun h => absurd h.1 (by omega))] at hexec
  refine ⟨_, hexec, ?_, ?_, ?_, fun hthrot => ?_, fun i hi => ?_, ?_, ?_, ?_, hframe.tl_eq, hframe.mem_eq⟩
  · rw [dieRead, heatStep_junction, readingShown_junction _ _ _ _ _ _ (by omega)]
  · rw [dieRead, heatStep_thermCeil, ceilAfter_readingShown]
    rfl
  · rw [dieRead, heatStep_tripped, trippedAfter_readingShown]
    rfl
  · refine heatStep_signal _ _ _ ?_
    rw [rd_of_rdW (readingShown_lim ..)]
    exact hthrot
  · rw [rdF_of_rdW (hother (by omega)), readingShown_temp _ _ _ _ _ _ hi]
  · rw [rdF_of_rdW (hother (by omega)), rdF_of_rdW (readingShown_hearth _ _ _ _ _ _ (by decide)), (coolant_inlet ..).1]
  · rw [rdF_of_rdW (hother (by omega)), rdF_of_rdW (readingShown_hearth _ _ _ _ _ _ (by decide)), (coolant_inlet ..).2]
  · rw [rdB_of_rdW (hother (by omega)), rdB_of_rdW (readingShown_hearth _ _ _ _ _ _ (by decide)), coolant_hot]

/-- At 115 °C the power train trips (R414). -/
theorem thermalLoop_trips (hhot : 115 ≤ hottest temps) (htrip : canTrip s = true) :
    Gives (.thermalLoop die temps inlet outlet now) s (fun t => Tripped t false) := by
  have hexec := exec_thermalLoop (temps := temps) (inlet := inlet) (outlet := outlet) (now := now) harm
  have hcan : canTrip (dieRead (tick s now) die temps inlet outlet) = true := by
    rw [canTrip, (dieRead_frame ..).boot_eq]
    exact htrip
  rw [if_pos ⟨hhot, hcan⟩] at hexec
  exact ⟨_, hexec, tripped_analogTrip ..⟩

end

/-! ### Droop (R412, R413) -/

section
variable {tile : Fin 288} {now : Nat} {s : State}

/-- An episode of the tile, counted; the state before the margin of its rail is decided. -/
def episodeBegun (s : State) (t : Nat) : State :=
  let u := inc s (hrtDPg (t / 72) + 0x120)
  { u with hrt := { u.hrt with
      slow := u.hrt.slow ++ [t]
      period := if !(u.hrt.period.contains t) then u.hrt.period ++ [t] else u.hrt.period
      episodes := cSet (fun _ => 0) u.hrt.episodes t (cGet (fun _ => 0) u.hrt.episodes t + 1) } }

/-- A droop of a tile whose clock is not slowed begins an episode; the margin of its rail may rise. -/
theorem exec_droopDetect (hslow : tile.val ∉ s.hrt.slow) : ∃ u, exec (.droopDetect tile now) s = .next u ∧
    (u = episodeBegun (tick s now) tile ∨ ∃ a, u = setAgent (episodeBegun (tick s now) tile) (tile.val / 72) a) := by
  have hslow' : (tick s now).hrt.slow.contains tile.val = false := by simpa using hslow
  show ∃ u, execDroopDetect tile now s = .next u ∧ _
  simp only [execDroopDetect, hslow', Bool.false_eq_true, if_false]
  have hif (c : Bool) (x : State) (a : DieAgent) : (if c then setAgent x (tile.val / 72) a else x) = x ∨
      ∃ a', (if c then setAgent x (tile.val / 72) a else x) = setAgent x (tile.val / 72) a' := by
    cases c
    · exact .inl rfl
    · exact .inr ⟨a, rfl⟩
  exact ⟨_, rfl, hif _ (episodeBegun (tick s now) tile) _⟩

theorem episodeBegun_hrt (s : State) (t : Nat) : (episodeBegun s t).hrt.slow = s.hrt.slow ++ [t] ∧
    cGet (fun _ => 0) (episodeBegun s t).hrt.episodes t = cGet (fun _ => 0) s.hrt.episodes t + 1 := by
  simp only [episodeBegun, inc_hrt]
  exact ⟨trivial, cGet_cSet_same ..⟩

theorem droopDetect_gives (hslow : tile.val ∉ s.hrt.slow) :
    Gives (.droopDetect tile now) s (fun t => t.hrt.slow = s.hrt.slow ++ [tile.val] ∧ Counted s t (hrtDPg (tile.val / 72) + 0x120) 1 ∧
      cGet (fun _ => 0) t.hrt.episodes tile = cGet (fun _ => 0) s.hrt.episodes tile + 1 ∧ t.tl = s.tl ∧ t.mem = s.mem) := by
  obtain ⟨u, hexec, hu⟩ := exec_droopDetect (now := now) hslow
  obtain ⟨hsl, hep⟩ := episodeBegun_hrt (tick s now) tile
  have hcount : Counted s (episodeBegun (tick s now) tile) (hrtDPg (tile.val / 72) + 0x120) 1 := counted_inc ..
  have htl : (episodeBegun (tick s now) tile).tl = s.tl := inc_tl (tick s now) (hrtDPg (tile.val / 72) + 0x120)
  have hmem : (episodeBegun (tick s now) tile).mem = s.mem := inc_mem (tick s now) (hrtDPg (tile.val / 72) + 0x120)
  refine ⟨u, hexec, ?_⟩
  rcases hu with rfl | ⟨a, rfl⟩
  · exact ⟨hsl, hcount, hep, htl, hmem⟩
  · exact ⟨hsl, hcount, hep, htl, hmem⟩

theorem droopDetect_slow (hslow : tile.val ∈ s.hrt.slow) : exec (.droopDetect tile now) s = .next (tick s now) := by
  have hslow' : (tick s now).hrt.slow.contains tile.val = true := by simpa using hslow
  show execDroopDetect tile now s = _
  simp only [execDroopDetect, hslow', if_true]

/-- The tile's clock is normal again; its stretched cycles are counted. -/
def episodeEnded (s : State) (t cycles : Nat) : State :=
  incBy { s with hrt := { s.hrt with slow := s.hrt.slow.filter (fun x => x != t) } } (hrtDPg (t / 72) + 0x124) cycles

theorem droopRecover_gives {cycles : Nat} (hslow : tile.val ∈ s.hrt.slow) :
    Gives (.droopRecover tile cycles now) s (fun t => tile.val ∉ t.hrt.slow ∧
      (dieAgent t (tile.val / 72)).stretch = (dieAgent s (tile.val / 72)).stretch + cycles ∧
      Counted s t (hrtDPg (tile.val / 72) + 0x124) cycles ∧ t.tl = s.tl ∧ t.mem = s.mem) := by
  have hslow' : (tick s now).hrt.slow.contains tile.val = true := by simpa using hslow
  have hexec : exec (.droopRecover tile cycles now) s = .next (setAgent (episodeEnded (tick s now) tile cycles) (tile.val / 72)
      { dieAgent (episodeEnded (tick s now) tile cycles) (tile.val / 72) with
        stretch := (dieAgent (episodeEnded (tick s now) tile cycles) (tile.val / 72)).stretch + cycles }) := by
    show execDroopRecover tile cycles now s = _
    simp only [execDroopRecover, hslow', if_true]
    rfl
  have hhrt : (episodeEnded (tick s now) tile cycles).hrt = { s.hrt with slow := s.hrt.slow.filter (fun x => x != tile.val) } := incBy_hrt ..
  have hcount : Counted s (episodeEnded (tick s now) tile cycles) (hrtDPg (tile.val / 72) + 0x124) cycles := counted_incBy_of_rd cycles rfl
  have htl : (episodeEnded (tick s now) tile cycles).tl = s.tl := incBy_tl ..
  have hmem : (episodeEnded (tick s now) tile cycles).mem = s.mem := incBy_mem ..
  refine ⟨_, hexec, ?_, ?_, hcount, htl, hmem⟩
  · show tile.val ∉ (episodeEnded (tick s now) tile cycles).hrt.slow
    rw [hhrt]
    simp
  · rw [dieAgent_setAgent, dieAgent_congr (s := s) ((congrArg Hearth.dies hhrt).trans rfl)]

end

/-! ### A tile that fails (R161) -/

/-- Only tiles, Quench, registers and messages of the window and the log differ. -/
def FaultOnly (s t : State) : Prop := LogOnly { s with tl := t.tl, qch := t.qch } t

/-- The registers in which a fault of a tile is recorded: its interrupt and error registers, Quench's, and the log's. -/
def IsFaultReg (tile o : Nat) : Prop :=
  (∃ x, (x = hIntStat ∨ x = hStat ∨ x = hErrSyn ∨ x = hErrLo ∨ x = hErrLo + 4) ∧ o = tilePg tile 0 + x) ∨
  (∃ x < 0x1000, o = qchTilePg tile + x) ∨ (∃ sl, ∃ x < 0x1000, o = qchPg sl + x) ∨ IsLogReg o

/-- What the record of a fault of a tile keeps. -/
structure FaultKept (tile : Nat) (s t : State) : Prop where
  frame : FaultOnly s t
  time  : t.time = s.time
  regs  : ∀ {o}, ¬ IsFaultReg tile o → rdW t o = rdW s o

theorem FaultOnly.trans {s t u : State} (h1 : FaultOnly s t) (h2 : FaultOnly t u) : FaultOnly s u := by
  unfold FaultOnly LogOnly at *
  rw [h2, h1]

theorem LogOnly.faultOnly {s t : State} (h : LogOnly s t) : FaultOnly s t := by
  unfold FaultOnly LogOnly at *
  rw [h]

theorem FaultOnly.log {s t : State} (h : FaultOnly s t) : LogOnly { s with tl := t.tl, qch := t.qch } t := h
theorem FaultOnly.hrt_eq {s t : State} (h : FaultOnly s t) : t.hrt = s.hrt := h.log.hrt_eq
theorem FaultOnly.mem_eq {s t : State} (h : FaultOnly s t) : t.mem = s.mem := h.log.mem_eq

theorem FaultKept.refl (tile : Nat) (s : State) : FaultKept tile s s := ⟨rfl, rfl, fun _ => rfl⟩

theorem FaultKept.trans {tile : Nat} {s t u : State} (h1 : FaultKept tile s t) (h2 : FaultKept tile t u) : FaultKept tile s u :=
  ⟨h1.frame.trans h2.frame, h2.time.trans h1.time, fun h => (h2.regs h).trans (h1.regs h)⟩

theorem faultKept_setTl (tile : Nat) (s : State) (x : Tiles) : FaultKept tile s { s with tl := x } := ⟨rfl, rfl, fun _ => rfl⟩
theorem faultKept_setQch (tile : Nat) (s : State) (x : Quench) : FaultKept tile s { s with qch := x } := ⟨rfl, rfl, fun _ => rfl⟩

section
variable (tile : Nat) (s : State)

theorem faultKept_wr {o : Nat} (v : Nat) (h : IsFaultReg tile o) : FaultKept tile s (wr s o v) :=
  ⟨(windowOnly_wr ..).logOnly.faultOnly, wr_time .., fun ho => rdW_wr_ne _ _ fun he => ho (he ▸ h)⟩

theorem faultKept_intSet {pg : Nat} (bits : Nat) (h : IsFaultReg tile (pg + hIntStat)) : FaultKept tile s (intSet s pg bits) :=
  ⟨(windowOnly_intSet ..).logOnly.faultOnly, intSet_time .., fun ho => rdW_intSet_ne _ _ fun he => ho (he ▸ h)⟩

theorem faultKept_inc {o : Nat} (h : IsFaultReg tile o) : FaultKept tile s (inc s o) :=
  ⟨(windowOnly_inc ..).logOnly.faultOnly, inc_time .., fun ho => rdW_inc_ne _ fun he => ho (he ▸ h)⟩

theorem isFaultReg_tile {x : Nat} (h : x = hIntStat ∨ x = hStat ∨ x = hErrSyn ∨ x = hErrLo ∨ x = hErrLo + 4) :
    IsFaultReg tile (tilePg tile 0 + x) := .inl ⟨x, h, rfl⟩

theorem isFaultReg_qchTile {x : Nat} (h : x < 0x1000) : IsFaultReg tile (qchTilePg tile + x) := .inr (.inl ⟨x, h, rfl⟩)

theorem isFaultReg_qch (sl : Nat) {x : Nat} (h : x < 0x1000) : IsFaultReg tile (qchPg sl + x) := .inr (.inr (.inl ⟨sl, x, h, rfl⟩))

theorem faultKept_clinker (r : LogRec) : FaultKept tile s (clinker s r) :=
  ⟨(logOnly_clinker ..).faultOnly, clinker_time .., fun ho => rdW_clinker_ne _ _ fun he => ho (.inr (.inr (.inr he)))⟩

theorem faultKept_ite {t u : State} {c : Prop} [Decidable c] (ht : FaultKept tile s t) (hu : FaultKept tile s u) :
    FaultKept tile s (if c then t else u) := by
  split
  · exact ht
  · exact hu

theorem faultKept_latchBlk (low addr : Nat) : FaultKept tile s (latchBlk s (tilePg tile 0) low addr) := by
  refine ⟨(windowOnly_latchErr ..).logOnly.faultOnly, latchErr_time .., fun {o} ho => ?_⟩
  have hne {x : Nat} (hx : x = hIntStat ∨ x = hStat ∨ x = hErrSyn ∨ x = hErrLo ∨ x = hErrLo + 4) : o ≠ tilePg tile 0 + x :=
    fun he => ho (he ▸ isFaultReg_tile tile hx)
  exact latchBlk_get s (tilePg tile 0) low addr (hne (by simp)) (hne (by simp)) (hne (by simp)) (hne (x := hErrLo + 4) (by simp))

theorem faultKept_failTask (k : Fin 4) : FaultKept tile s (failTask s tile k) := by
  rw [failTask]
  split
  · refine faultKept_ite _ _ (.refl ..) ((faultKept_setTl ..).trans (faultKept_intSet _ _ _ (isFaultReg_tile tile (by simp))))
  · exact .refl ..

theorem faultKept_threadFault (th cause pc : Nat) : FaultKept tile s (threadFault s tile th cause pc) := by
  have hlatched : FaultKept tile s (latchBlk (intSet (setThr s tile th
      { thrOf s tile th with st := .faulted, fault := BitVec.ofNat 8 cause, pc := BitVec.ofNat 32 pc }) (tilePg tile 0) 1) (tilePg tile 0)
      (th * 256 + cause) pc) :=
    ((faultKept_setTl ..).trans (faultKept_intSet _ _ _ (isFaultReg_tile tile (by simp)))).trans (faultKept_latchBlk ..)
  rw [threadFault]
  split
  · exact hlatched.trans (faultKept_failTask ..)
  · exact hlatched

theorem faultKept_setFirst (sl : Nat) (d : Detection) (step : Nat) : FaultKept tile s (setFirst s (qchPg sl) d step) := by
  have h {x : Nat} (hx : x < 0x1000) (u : State) (v : Nat) : FaultKept tile u (wr u (qchPg sl + x) v) :=
    faultKept_wr _ _ _ (isFaultReg_qch _ _ hx)
  have h64 {x : Nat} (hx : x + 4 < 0x1000) (u : State) (v : Nat) : FaultKept tile u (wr64 u (qchPg sl + x) v) :=
    (h (by omega) u _).trans (h (x := x + 4) hx _ _)
  exact ((((h (by decide) s _).trans (h (by decide) _ _)).trans (h64 (by decide) _ _)).trans (h64 (by decide) _ _)).trans (h64 (by decide) _ _)

theorem faultKept_applyDetection (sl : Nat) {d : Detection} (step : Nat) (hd : d.phys = some tile) :
    FaultKept tile s (applyDetection s (qchPg sl) d step) := by
  simp only [applyDetection, hd]
  have hstat (u : State) : FaultKept tile u (wrB u (qchPg sl + 0x108) 0 true) := faultKept_wr _ _ _ (isFaultReg_qch _ _ (by decide))
  have hcause (u : State) (v : Nat) : FaultKept tile u (wrF u (qchPg sl + 0x108) 31 24 v) := faultKept_wr _ _ _ (isFaultReg_qch _ _ (by decide))
  have htile (u : State) (v : Nat) : FaultKept tile u (wrF u (qchTilePg tile + 0x104) 23 16 v) :=
    faultKept_wr _ _ _ (isFaultReg_qchTile _ (by decide))
  exact (((faultKept_ite _ _ (faultKept_setFirst ..) (.refl ..)).trans (hstat _)).trans (hcause _ _)).trans (htile _ _)

theorem faultKept_detectFor (p : Nat) {d : Detection} (hd : d.phys = some tile) : FaultKept tile s (detectFor s p d) := by
  rw [detectFor]
  exact (faultKept_intSet _ _ _ (isFaultReg_qch _ _ (by decide))).trans
    (faultKept_ite _ _ (faultKept_setQch ..) (faultKept_applyDetection _ _ _ _ hd))

/-- The definition as a function: Lean's own equation has the kernel evaluate the match's argument. -/
theorem detectTile_def : detectTile = fun s t cause index =>
    let s := inc (intSet s (qchTilePg t) 1) (qchTilePg t + 0x108)
    let d : Detection := { cause := cause, phys := some t, tile := logicalOf s t, layer := layerTag s t, index := index, stamp := asStamp s.time }
    match partOfTile s t with
    | some p => detectFor s p d
    | none => wrF s (qchTilePg t + 0x104) 23 16 (rdF s (qchTilePg t + 0x104) 23 16 ||| 2 ^ cause) := rfl

theorem faultKept_detectTile (cause index : Nat) : FaultKept tile s (detectTile s tile cause index) := by
  have hseen : FaultKept tile s (inc (intSet s (qchTilePg tile) 1) (qchTilePg tile + 0x108)) :=
    (faultKept_intSet _ _ _ (isFaultReg_qchTile _ (by decide))).trans (faultKept_inc _ _ (isFaultReg_qchTile _ (by decide)))
  rw [detectTile_def]
  dsimp only
  split
  · exact hseen.trans (faultKept_detectFor _ _ _ rfl)
  · exact hseen.trans (faultKept_wr _ _ _ (isFaultReg_qchTile _ (x := 0x104) (by decide)))

theorem faultKept_foldl {α : Type} {f : State → α → State} (hf : ∀ s a, FaultKept tile s (f s a)) (l : List α) :
    FaultKept tile s (l.foldl f s) := by
  induction l generalizing s with
  | nil => exact .refl ..
  | cons a l ih => exact (hf s a).trans (ih _)

/-- The definition as a function, for the same reason. -/
theorem failTile_def : failTile = fun s t =>
    let s := intSet (wrB s (tilePg t 0 + 0x104) 4 true) (tilePg t 0) 16
    let s := (List.range 64).foldl (fun s th =>
      let x := thrOf s t th
      if x.st = .halted ∨ x.st = .faulted then s else threadFault s t th 8 x.pc.toNat) s
    let s := clinker s { cat := 5, code := 2, page := tilePg t 0 }
    match partOfTile s t with
    | some p => if armed s (lowSlice s p) then detectTile s t 2 0 else s
    | none => s := rfl

/-- A tile's failure, beside its FAILED bit, is recorded as a fault of its threads and a detection. -/
theorem faultKept_failTile : FaultKept tile (wrB s (tilePg tile 0 + 0x104) 4 true) (failTile s tile) := by
  have hthreads (u : State) (th : Nat) : FaultKept tile u (let x := thrOf u tile th
      if x.st = .halted ∨ x.st = .faulted then u else threadFault u tile th 8 x.pc.toNat) :=
    faultKept_ite _ _ (.refl ..) (faultKept_threadFault ..)
  have hdetect (u : State) : FaultKept tile u (match partOfTile u tile with
      | some p => if armed u (lowSlice u p) then detectTile u tile 2 0 else u
      | none => u) := by
    split
    · exact faultKept_ite _ _ (faultKept_detectTile ..) (.refl ..)
    · exact .refl ..
  rw [failTile_def]
  exact (((faultKept_intSet _ _ _ (isFaultReg_tile tile (by simp))).trans (faultKept_foldl _ _ hthreads _)).trans
    (faultKept_clinker ..)).trans (hdetect _)

end

/-- Neither a tile's FAILED bit nor a die agent's register is one of them. -/
theorem not_isFaultReg_stat (tile : Nat) : ¬ IsFaultReg tile (tilePg tile 0 + 0x104) := by
  rintro (⟨x, hx, he⟩ | ⟨x, hx, he⟩ | ⟨sl, x, hx, he⟩ | he | he | he) <;>
    simp only [tilePg, qchTilePg, qchPg, slPg, ctlPg, clnPg, mgtPg, hIntStat, hStat, hErrSyn, hErrLo] at * <;> omega

theorem not_isFaultReg_agent (tile d : Nat) {x : Nat} (hx : x < 0x1000) : ¬ IsFaultReg tile (hrtDPg d + x) := by
  rintro (⟨x, hx, he⟩ | ⟨x, hx, he⟩ | ⟨sl, x, hx, he⟩ | he | he | he) <;>
    simp only [hrtDPg_eq, tilePg, qchTilePg, qchPg, slPg, ctlPg, clnPg, mgtPg, hIntStat, hStat, hErrSyn, hErrLo] at * <;> omega

theorem failTile_failed (s : State) (t : Nat) : tileFailed (failTile s t) t = true := by
  rw [tileFailed, rdB_of_rdW ((faultKept_failTile ..).regs (not_isFaultReg_stat t)), rdB_wrB _ _ _ _ (by decide)]

theorem failTile_hrt (s : State) (t : Nat) : (failTile s t).hrt = s.hrt := (faultKept_failTile t s).frame.hrt_eq.trans (wrB_hrt ..)

theorem failTile_mem (s : State) (t : Nat) : (failTile s t).mem = s.mem := (faultKept_failTile t s).frame.mem_eq.trans (wrB_mem ..)

section
variable {tile : Fin 288} {now : Nat} {s : State}

/-- The tile's run of ms with an episode is over, and signalled. -/
def runEnded (s : State) (t : Nat) : State :=
  intSet { s with hrt := { s.hrt with runs := cSet (fun _ => 0) s.hrt.runs t 0 } } (hrtDPg (t / 72)) 4

theorem exec_droopLocal (hruns : 16 ≤ cGet (fun _ => 0) s.hrt.runs tile) : exec (.droopLocal tile now) s =
    .next (if tileFailed (runEnded (tick s now) tile) tile then runEnded (tick s now) tile else failTile (runEnded (tick s now) tile) tile) := by
  have hruns' : ¬ cGet (fun _ => 0) (tick s now).hrt.runs tile.val < 16 := Nat.not_lt.2 hruns
  show execDroopLocal tile now s = _
  simp only [execDroopLocal, if_neg hruns']
  rfl

/-- A tile with an episode in each of 16 ms in a row fails (R413). -/
theorem droopLocal_gives (hruns : 16 ≤ cGet (fun _ => 0) s.hrt.runs tile) :
    Gives (.droopLocal tile now) s (fun t => tileFailed t tile = true ∧ cGet (fun _ => 0) t.hrt.runs tile = 0 ∧
      rdB t (hrtDPg (tile.val / 72) + hIntStat) 2 = true ∧ t.mem = s.mem) := by
  have hhrt : cGet (fun _ => 0) (runEnded (tick s now) tile).hrt.runs tile = 0 := by
    rw [runEnded, intSet_hrt]
    exact cGet_cSet_same (fun _ => 0) (tick s now).hrt.runs tile.val 0
  have hmem : (runEnded (tick s now) tile).mem = s.mem := intSet_mem ..
  have hbit : rdB (runEnded (tick s now) tile) (hrtDPg (tile.val / 72) + hIntStat) 2 = true := intSet_bit _ _ 2 (by decide)
  refine ⟨_, exec_droopLocal hruns, ?_⟩
  split
  · next hfailed => exact ⟨hfailed, hhrt, hbit, hmem⟩
  · refine ⟨failTile_failed .., (failTile_hrt ..).symm ▸ hhrt, ?_, (failTile_mem ..).trans hmem⟩
    have hne : hrtDPg (tile.val / 72) + hIntStat ≠ tilePg tile 0 + 0x104 := by
      rw [hrtDPg_eq, tilePg, hIntStat]
      omega
    rw [rdB_of_rdW ((faultKept_failTile ..).regs (not_isFaultReg_agent _ _ (by decide))), rdB_of_rdW (rdW_wrB_ne _ _ _ hne), hbit]

theorem droopLocal_few (hruns : cGet (fun _ => 0) s.hrt.runs tile < 16) : exec (.droopLocal tile now) s = .next (tick s now) := by
  have hruns' : cGet (fun _ => 0) (tick s now).hrt.runs tile.val < 16 := hruns
  show execDroopLocal tile now s = _
  simp only [execDroopLocal, if_pos hruns']

end

/-- Settles O42: the thermal loop and the droop events, each by what its steps keep. -/
theorem heatAndDroop : Obligations.HeatAndDroop := by
  unfold Obligations.HeatAndDroop
  refine ⟨fun die temps inlet outlet now s harm => ⟨thermalLoop_gives harm, thermalLoop_trips harm⟩,
    fun tile now s => ⟨droopDetect_gives, droopDetect_slow⟩, fun tile cycles now s => droopRecover_gives,
    fun tile now s => ⟨droopLocal_gives, droopLocal_few⟩⟩

end Sys2Proof.Machine
end

section
/-!
Attestation and fault injection (18_safety_security_clinker.md R442, R452, R453, R458): what a command on the ATT_ page and an arming leave. O47.
-/
namespace Sys2Proof.Machine

/-! ### What a measurement and the evidence depend on -/

/-- Measurements depend on SP's state alone. -/
theorem measure_congr {s t : State} (h : t.sp = s.sp) (i : Nat) : measure t i = measure s i := by
  simp only [measure, compDigest, policyDigest, arc, h]

theorem aliasSeed_congr {s t : State} (h : t.sp = s.sp) : aliasSeed t = aliasSeed s := by
  simp only [aliasSeed, compDigest, policyDigest, h]

theorem certs_congr {s t : State} (h : t.sp = s.sp) : certs t = certs s := by rw [certs, aliasSeed_congr h, certs]

/-- Evidence depends on SP's state, the time, the log and registers outside the ATT_ page. -/
theorem evidence_congr {s t : State} (hsp : t.sp = s.sp) (htime : t.time = s.time) (hcln : t.cln = s.cln)
    (hreg : ∀ o, o ≠ attPg + 0x100 → rdW t o = rdW s o) (nonce : List Byte) : evidence t nonce = evidence s nonce := by
  have hmod : moduleId t = moduleId s := by
    have htng (sl : Nat) : rd t (tngPg sl + 0x10C) = rd s (tngPg sl + 0x10C) := rd_of_rdW (hreg _ (by
      simp only [tngPg, slPg, ctlPg, attPg]
      omega))
    simp only [moduleId, htng]
  have hbody : evidenceBody t nonce = evidenceBody s nonce := by
    simp only [evidenceBody, hmod, htime, hcln, rdB_of_rdW (hreg (bootPg + 0x100) (by decide)), rdB_of_rdW (hreg (sp0Pg + 0x140) (by decide)),
      rdB_of_rdW (hreg (sp0Pg + 0x100) (by decide)), rd_of_rdW (hreg (sp0Pg + hEpoch) (by decide)), arc, measureSvn, hsp, measure_congr hsp]
  rw [evidence, hbody, aliasSeed_congr hsp, evidence]

/-- The 32 bytes of registers that are unchanged. -/
theorem wordsAt_congr {s t : State} {o : Nat} (h : ∀ n < 8, rdW t (o + 4 * n) = rdW s (o + 4 * n)) : wordsAt t o = wordsAt s o := by
  have hword : ∀ n ∈ List.range 8, leBytes 4 (rd t (o + 4 * n)) = leBytes 4 (rd s (o + 4 * n)) :=
    fun n hn => by rw [rd_of_rdW (h n (List.mem_range.1 hn))]
  rw [wordsAt, List.map_congr_left hword, wordsAt]

/-! ### ATT_CTL -/

/-- The state in which a command of ATT_CTL runs: EXT_IDX is written. -/
def attWritten (s : State) (r : RegWrite) : State := wrF (tick s r.now) (attPg + 0x100) 3 0 (bitsOf r.val.toNat 3 0)

section
variable {s : State} {r : RegWrite}

theorem attWritten_regs {o : Nat} (h : o ≠ attPg + 0x100) : rdW (attWritten s r) o = rdW s o := by
  rw [attWritten, rdW_wrF_ne _ _ _ _ h]
  rfl

theorem attWritten_kept : (attWritten s r).sp = s.sp ∧ (attWritten s r).mem = s.mem ∧ (attWritten s r).tl = s.tl ∧
    (attWritten s r).time = (tick s r.now).time ∧ (attWritten s r).cln = s.cln :=
  ⟨wrF_sp .., wrF_mem .., wrF_tl .., wrF_time .., wrF_cln ..⟩

theorem attWritten_index : rdF (attWritten s r) (attPg + 0x100) 3 0 = bitsOf r.val.toNat 3 0 := by
  rw [attWritten, rdF_wrF _ _ _ _ _ (by decide) (by decide)]
  exact Nat.mod_eq_of_lt (bitsOf_lt ..)

theorem attWritten_dst : rd64 (attWritten s r) (attPg + 0x108) = rd64 s (attPg + 0x108) := by
  rw [rd64, rd_of_rdW (attWritten_regs (by decide)), rd_of_rdW (attWritten_regs (by decide)), rd64]

theorem attWritten_words {x : Nat} (h : 0x100 < x) : wordsAt (attWritten s r) (attPg + x) = wordsAt s (attPg + x) :=
  wordsAt_congr fun n _ => attWritten_regs (by omega)

/-- A command of ATT_CTL that SP serves has its effect. -/
theorem attCtl_runs {bit : Nat} (h : AttCommand r s bit) (mn : String) (f : State → State) : attCtl mn bit r s f = .next (f (attWritten s r)) := by
  obtain ⟨hoff, hbit, hserves⟩ := h
  have hserves' : spServes (attWritten s r) = true := by
    rw [spServes, spRestarting, spSafe, rdB_of_rdW (attWritten_regs (by decide)), rdB_of_rdW (attWritten_regs (by decide))]
    exact hserves
  have hrow : ¬ (r.off.toNat ≠ attPg + 0x100 ∨ r.val.toNat.testBit bit = false) := by simp [hoff, hbit]
  simp only [attCtl, if_neg hrow, ← attWritten.eq_1, if_pos hserves']

end

/-- Bytes that SP writes to host memory reach nothing else but ATT_STAT. -/
theorem attWrite_kept (s : State) (b : List Byte) :
    (attWrite s b).mem.host = cSetList (fun _ => 0) s.mem.host (rd64 s (attPg + 0x108)) b ∧ (attWrite s b).mem.hbm = s.mem.hbm ∧
    (attWrite s b).sp = s.sp ∧ (attWrite s b).tl = s.tl := by
  rw [attWrite, wrF_mem, wrF_sp, wrF_tl]
  exact ⟨rfl, rfl, rfl, rfl⟩

section
variable {s : State} {r : RegWrite}

theorem attGo_gives (h : AttCommand r s 31) : Gives (.attGo r) s (fun t =>
    t.mem.host = cSetList (fun _ => 0) s.mem.host (rd64 s (attPg + 0x108)) (evidence (tick s r.now) (wordsAt s (attPg + 0x110))) ∧
    rdB t (attPg + hIntStat) 0 = true ∧ t.mem.hbm = s.mem.hbm ∧ t.sp = s.sp ∧ t.tl = s.tl) := by
  obtain ⟨hsp, hmem, htl, htime, hcln⟩ := attWritten_kept (s := s) (r := r)
  have hev : evidence (attWritten s r) (wordsAt (attWritten s r) (attPg + 0x110)) = evidence (tick s r.now) (wordsAt s (attPg + 0x110)) := by
    rw [attWritten_words (by decide)]
    exact evidence_congr (s := tick s r.now) hsp htime hcln (fun _ ho => attWritten_regs ho) _
  have hexec : exec (.attGo r) s = .next (intSet (attWrite (attWritten s r)
      (evidence (attWritten s r) (wordsAt (attWritten s r) (attPg + 0x110)))) attPg 1) :=
    attCtl_runs h "ATT_GO" (fun s => intSet (attWrite s (evidence s (wordsAt s (attPg + 0x110)))) attPg 1)
  rw [hev] at hexec
  refine ⟨_, hexec, ?_⟩
  obtain ⟨hhost, hhbm, hsp', htl'⟩ := attWrite_kept (attWritten s r) (evidence (tick s r.now) (wordsAt s (attPg + 0x110)))
  rw [intSet_mem, intSet_sp, intSet_tl, hhost, hhbm, hsp', htl', hmem, hsp, htl, attWritten_dst]
  exact ⟨rfl, intSet_bit _ _ 0 (by decide), rfl, rfl, rfl⟩

theorem attCerts_gives (h : AttCommand r s 29) : Gives (.attCerts r) s (fun t =>
    t.mem.host = cSetList (fun _ => 0) s.mem.host (rd64 s (attPg + 0x108)) (certs s) ∧ t.mem.hbm = s.mem.hbm ∧ t.sp = s.sp ∧
    t.tl = s.tl) := by
  obtain ⟨hsp, hmem, htl, -, -⟩ := attWritten_kept (s := s) (r := r)
  have hexec : exec (.attCerts r) s = .next (attWrite (attWritten s r) (certs (attWritten s r))) :=
    attCtl_runs h "ATT_CERTS" (fun s => attWrite s (certs s))
  rw [certs_congr hsp] at hexec
  refine ⟨_, hexec, ?_⟩
  obtain ⟨hhost, hhbm, hsp', htl'⟩ := attWrite_kept (attWritten s r) (certs s)
  rw [hhost, hhbm, hsp', htl', hmem, hsp, htl, attWritten_dst]
  exact ⟨rfl, rfl, rfl, rfl⟩

/-- SP's state with measurement i replaced. -/
def setMeas (sp : Sp) (i : Nat) (m : List Byte) : Sp := { sp with meas := cSet (fun _ => zeroDigest) sp.meas i m }

/-- What ATT_EXTEND does of the measurement that EXT_IDX names. -/
def attExtended (s : State) : State :=
  if rdF s (attPg + 0x100) 3 0 < 8 then s
  else
    let sp := setMeas s.sp (rdF s (attPg + 0x100) 3 0) (digest (measure s (rdF s (attPg + 0x100) 3 0) ++ wordsAt s (attPg + 0x130)))
    intSet { s with sp := sp } attPg 2

/-- Measurements 8 to 15 are replaced one at a time. -/
theorem measure_setMeas {u : State} {i : Nat} {m : List Byte} (hi : 8 ≤ i) (hu : u.sp = setMeas s.sp i m) :
    measure u i = m ∧ ∀ y, y ≠ i → measure u y = measure s y := by
  constructor
  · rw [measure, if_neg (by omega), if_neg (by omega), if_neg (by omega), if_neg (by omega), if_neg (by omega), if_neg (by omega), hu]
    exact cGet_cSet_same ..
  · intro y hy
    have hmeas : cGet (fun _ => zeroDigest) u.sp.meas y = cGet (fun _ => zeroDigest) s.sp.meas y := by
      rw [hu]
      exact cGet_cSet_ne _ _ _ hy
    simp only [measure, hmeas]
    simp only [compDigest, policyDigest, arc, hu, setMeas]

theorem attExtend_gives (h : AttCommand r s 30) (hx : 8 ≤ bitsOf r.val.toNat 3 0) : Gives (.attExtend r) s (fun t =>
    measure t (bitsOf r.val.toNat 3 0) = digest (measure s (bitsOf r.val.toNat 3 0) ++ wordsAt s (attPg + 0x130)) ∧
    (∀ y, y ≠ bitsOf r.val.toNat 3 0 → measure t y = measure s y) ∧ rdB t (attPg + hIntStat) 1 = true ∧ t.mem = s.mem) := by
  obtain ⟨hsp, hmem, -, -, -⟩ := attWritten_kept (s := s) (r := r)
  have hexec : exec (.attExtend r) s = .next (attExtended (attWritten s r)) := attCtl_runs h "ATT_EXTEND" attExtended
  rw [attExtended, attWritten_index, if_neg (Nat.not_lt.2 hx), attWritten_words (x := 0x130) (by decide), measure_congr hsp, hsp] at hexec
  refine ⟨_, hexec, ?_⟩
  have hset (sp : Sp) : (intSet { attWritten s r with sp := sp } attPg 2).sp = sp := intSet_sp ..
  obtain ⟨hsame, hother⟩ := measure_setMeas (s := s) hx (hset _)
  exact ⟨hsame, hother, intSet_bit _ _ 1 (by decide), (intSet_mem ..).trans hmem⟩

/-- Measurements 0 to 7 are not the host's to extend. -/
theorem attExtend_low (h : AttCommand r s 30) (hx : bitsOf r.val.toNat 3 0 < 8) : Gives (.attExtend r) s (fun t => WindowOnly s t) := by
  have hexec : exec (.attExtend r) s = .next (attExtended (attWritten s r)) := attCtl_runs h "ATT_EXTEND" attExtended
  rw [attExtended, attWritten_index, if_pos hx] at hexec
  refine ⟨_, hexec, ?_⟩
  rw [attWritten]
  exact (windowOnly_tick ..).trans (windowOnly_wr ..)

end

/-! ### Fault injection (R458) -/

section
variable {s : State} {r : RegWrite} {p : PageRef} (hoff : r.off.toNat = sp0Pg + 0x118) (hgo : r.val.toNat.testBit 31 = true)
  (hserves : spServes s = true) (hp : pageAt (bitsOf r.val.toNat 15 0 * 4096) = some p)

/-- The site that FAULT_INJ_VAL names may be armed on the page. -/
def siteAllowed (s : State) (p : PageRef) : Bool :=
  rdB s (sp0Pg + 0x140) 1 && (sitesOf p.kind).contains (bitsOf (rd s (sp0Pg + 0x11C)) 23 20)

/-- The state with FAULT_INJ_ARM's field written. -/
def injWritten (s : State) (r : RegWrite) : State := wr (tick s r.now) (sp0Pg + 0x118) (r.val.toNat &&& 0xFFFF)

theorem injWritten_regs {o : Nat} (h : o ≠ sp0Pg + 0x118) : rdW (injWritten s r) o = rdW s o := by
  rw [injWritten, rdW_wr_ne _ _ h]
  rfl

include hoff hgo hserves hp

theorem exec_faultInjArm : exec (.faultInjArm r) s = .next (if siteAllowed s p then
      clinker (wr (injWritten s r) (p.base + hInj) (rd s (sp0Pg + 0x11C) &&& 0x80F0FFFF)) { cat := 11, code := 7, page := p.base }
    else denyWrite (injWritten s r) p.base (p.base + hInj) 2 r.who) := by
  have hrow : ¬ (r.off.toNat ≠ sp0Pg + 0x118 ∨ r.val.toNat.testBit 31 = false) := by simp [hoff, hgo]
  have hserves' : spServes (injWritten s r) = true := by
    rw [spServes, spRestarting, spSafe, rdB_of_rdW (injWritten_regs (by decide)), rdB_of_rdW (injWritten_regs (by decide))]
    exact hserves
  show execFaultInjArm r s = _
  simp only [execFaultInjArm, if_neg hrow, ← injWritten.eq_1, hserves', hp, rd_of_rdW (injWritten_regs (s := s) (r := r) (o := sp0Pg + 0x11C) (by decide)),
    rdB_of_rdW (injWritten_regs (s := s) (r := r) (o := sp0Pg + 0x140) (by decide)), siteAllowed, Bool.and_eq_true, Bool.true_eq_false, if_false]
  split <;> rfl

theorem faultInjArm_allowed (hallowed : siteAllowed s p = true) : Gives (.faultInjArm r) s (fun t =>
    rd t (p.base + hInj) = rd s (sp0Pg + 0x11C) &&& 0x80F0FFFF ∧ t.tl = s.tl ∧ t.mem = s.mem) := by
  have hbase := pageAt_base hp
  have hlog : ¬ IsLogReg (p.base + hInj) := by
    have hnum := pageNumbers
    rintro (he | he | he) <;> omega
  have hexec := exec_faultInjArm hoff hgo hserves hp
  rw [if_pos hallowed] at hexec
  have hkept := logOnly_clinker (wr (injWritten s r) (p.base + hInj) (rd s (sp0Pg + 0x11C) &&& 0x80F0FFFF)) { cat := 11, code := 7, page := p.base }
  have hwrote : (wr (injWritten s r) (p.base + hInj) (rd s (sp0Pg + 0x11C) &&& 0x80F0FFFF)).tl = s.tl ∧
      (wr (injWritten s r) (p.base + hInj) (rd s (sp0Pg + 0x11C) &&& 0x80F0FFFF)).mem = s.mem :=
    ⟨(wr_tl ..).trans (wr_tl (tick s r.now) ..), (wr_mem ..).trans (wr_mem (tick s r.now) ..)⟩
  refine ⟨_, hexec, ?_, hkept.tl_eq.trans hwrote.1, hkept.mem_eq.trans hwrote.2⟩
  rw [rd_of_rdW (rdW_clinker_ne _ _ hlog), rd_wr_same]
  exact Nat.mod_eq_of_lt (Nat.lt_of_le_of_lt Nat.and_le_right (by decide))

theorem faultInjArm_denied (hdenied : siteAllowed s p = false) : Gives (.faultInjArm r) s (fun t =>
    WindowOnly s t ∧ rd t (p.base + hInj) = rd s (p.base + hInj)) := by
  have hbase := pageAt_base hp
  have hexec := exec_faultInjArm hoff hgo hserves hp
  rw [if_neg (by simp [hdenied])] at hexec
  refine ⟨_, hexec, ((windowOnly_tick ..).trans (windowOnly_wr ..)).trans (windowOnly_latchErr ..), rd_of_rdW ?_⟩
  have hnum := pageNumbers
  rw [denyWrite, ← injWritten_regs (s := s) (r := r) (o := p.base + hInj) (by omega)]
  exact latchErr_get _ _ _ _ _ (by omega) (by omega) (by omega) (by omega)

end

/-- Settles O47: the commands of the ATT_ page and the arming of an injection. -/
theorem attestationAndFaults : Obligations.AttestationAndFaults := by
  unfold Obligations.AttestationAndFaults
  exact ⟨fun _ _ => attGo_gives, fun _ _ h => ⟨attExtend_gives h, attExtend_low h⟩, fun _ _ => attCerts_gives,
    fun _ _ _ hoff hgo hserves hp => ⟨faultInjArm_allowed hoff hgo hserves hp, faultInjArm_denied hoff hgo hserves hp⟩⟩

end Sys2Proof.Machine
end

section
/-!
What the units' own steps leave of start-up: the queue, the time, SP's boot state, what SP holds, and registers of SD's pages. The layer under
O43, O45 and O46.
-/
namespace Sys2Proof.Machine

/-! ### Steps that keep a set of registers -/

/-- The queue, the time, the boot state but for its mark of bad units, what SP holds and the registers of a set are as they were. -/
structure Keeps (K : Nat → Prop) (s t : State) : Prop where
  pending   : t.pending = s.pending
  time      : t.time = s.time
  boot      : t.boot = { s.boot with bad := t.boot.bad }
  heldReset : t.sp.heldReset = s.sp.heldReset
  heldCap   : t.prt.heldCap = s.prt.heldCap
  response  : t.mgt.response = s.mgt.response
  regs      : ∀ {o}, K o → rdW t o = rdW s o

/-- SD's registers, but for those that signal a clinker entry. -/
def LowReg (o : Nat) : Prop := o < 0x01000000 ∧ ¬ IsLogReg o

/-- SP_BOOT_STAT to SP_STAGE_MS: what start-up leaves. -/
def BootReg (o : Nat) : Prop := bootPg + 0x100 ≤ o ∧ o < bootPg + 0x140

/-- Beside those, the registers SP_PARTn. -/
def ResetReg (o : Nat) : Prop := BootReg o ∨ (partPg + 0x140 ≤ o ∧ o < partPg + 0x160)

theorem BootReg.reset {o : Nat} (h : BootReg o) : ResetReg o := .inl h

theorem ResetReg.low {o : Nat} (h : ResetReg o) : LowReg o := by
  have hnum := pageNumbers
  have hlt : o < 0x300000 := by
    rcases h with ⟨-, h⟩ | ⟨-, h⟩ <;> omega
  exact ⟨by omega, not_isLogReg (.inl hlt)⟩

theorem BootReg.low {o : Nat} (h : BootReg o) : LowReg o := h.reset.low

theorem not_bootReg {o : Nat} (h : o < 0x1100 ∨ 0x1140 ≤ o) : ¬ BootReg o := by
  have hnum := pageNumbers
  rintro ⟨h1, h2⟩
  omega

theorem not_resetReg {o : Nat} (h : o < 0x1100 ∨ (0x1140 ≤ o ∧ o < 0x2140) ∨ 0x2160 ≤ o) : ¬ ResetReg o := by
  have hnum := pageNumbers
  rintro (⟨h1, h2⟩ | ⟨h1, h2⟩) <;> omega

theorem not_lowReg_of_die {o : Nat} (h : 0x01000000 ≤ o) : ¬ LowReg o := fun h' => absurd h'.1 (by omega)

section
variable {K : Nat → Prop} {s t u : State}

theorem Keeps.refl (K : Nat → Prop) (s : State) : Keeps K s s := ⟨rfl, rfl, rfl, rfl, rfl, rfl, fun _ => rfl⟩

theorem Keeps.trans (h1 : Keeps K s t) (h2 : Keeps K t u) : Keeps K s u :=
  ⟨h2.pending.trans h1.pending, h2.time.trans h1.time, by rw [h2.boot, h1.boot], h2.heldReset.trans h1.heldReset, h2.heldCap.trans h1.heldCap,
    h2.response.trans h1.response, fun h => (h2.regs h).trans (h1.regs h)⟩

theorem Keeps.mono {K' : Nat → Prop} (h : Keeps K s t) (hsub : ∀ {o}, K' o → K o) : Keeps K' s t :=
  ⟨h.pending, h.time, h.boot, h.heldReset, h.heldCap, h.response, fun ho => h.regs (hsub ho)⟩

theorem Keeps.toReset (h : Keeps LowReg s t) : Keeps ResetReg s t := h.mono ResetReg.low
theorem Keeps.toBoot (h : Keeps LowReg s t) : Keeps BootReg s t := h.mono BootReg.low
theorem Keeps.resetToBoot (h : Keeps ResetReg s t) : Keeps BootReg s t := h.mono BootReg.reset

theorem Keeps.phase_eq (h : Keeps K s t) : t.boot.phase = s.boot.phase := by rw [h.boot]
theorem Keeps.done_eq (h : Keeps K s t) : t.boot.done = s.boot.done := by rw [h.boot]
theorem Keeps.running_eq (h : Keeps K s t) : t.boot.running = s.boot.running := by rw [h.boot]
theorem Keeps.origin_eq (h : Keeps K s t) : t.boot.origin = s.boot.origin := by rw [h.boot]
theorem Keeps.modEn_eq (h : Keeps K s t) : t.boot.modEn = s.boot.modEn := by rw [h.boot]
theorem Keeps.rails_eq (h : Keeps K s t) : t.boot.rails = s.boot.rails := by rw [h.boot]

theorem Keeps.ite {c : Prop} [Decidable c] (ht : Keeps K s t) (hu : Keeps K s u) : Keeps K s (if c then t else u) := by
  split
  · exact ht
  · exact hu

/-- A step that some condition asks for. -/
theorem Keeps.when {c : Prop} [Decidable c] (ht : Keeps K s t) : Keeps K s (if c then t else s) := ht.ite (.refl K s)

theorem Keeps.unless {c : Prop} [Decidable c] (ht : Keeps K s t) : Keeps K s (if c then s else t) := Keeps.ite (.refl K s) ht

theorem keeps_foldl {α : Type} {f : State → α → State} (hf : ∀ s a, Keeps K s (f s a)) (l : List α) (s : State) : Keeps K s (l.foldl f s) := by
  induction l generalizing s with
  | nil => exact .refl K s
  | cons a l ih => exact (hf s a).trans (ih _)

/-- Steps of members alone. -/
theorem keeps_foldl_mem {α : Type} {f : State → α → State} {l : List α} (hf : ∀ s, ∀ a ∈ l, Keeps K s (f s a)) (s : State) :
    Keeps K s (l.foldl f s) := by
  induction l generalizing s with
  | nil => exact .refl K s
  | cons a l ih => exact (hf s a (List.mem_cons_self ..)).trans (ih (fun s b hb => hf s b (List.mem_cons_of_mem _ hb)) _)

end

section
variable {K : Nat → Prop} (s : State)

theorem keeps_wr {o : Nat} (v : Nat) (h : ¬ K o) : Keeps K s (wr s o v) :=
  ⟨rfl, rfl, rfl, rfl, rfl, rfl, fun {_} ho => rdW_wr_ne _ _ fun he => h (he ▸ ho)⟩

theorem keeps_wrF {o : Nat} (hi lo f : Nat) (h : ¬ K o) : Keeps K s (wrF s o hi lo f) := keeps_wr s _ h
theorem keeps_wrB {o : Nat} (n : Nat) (b : Bool) (h : ¬ K o) : Keeps K s (wrB s o n b) := keeps_wr s _ h
theorem keeps_incBy {o : Nat} (n : Nat) (h : ¬ K o) : Keeps K s (incBy s o n) := keeps_wr s _ h
theorem keeps_inc {o : Nat} (h : ¬ K o) : Keeps K s (inc s o) := keeps_wr s _ h
theorem keeps_incF {o : Nat} (hi lo n : Nat) (h : ¬ K o) : Keeps K s (incF s o hi lo n) := keeps_wr s _ h

theorem keeps_wr64 {o : Nat} (v : Nat) (h : ¬ K o) (h' : ¬ K (o + 4)) : Keeps K s (wr64 s o v) := (keeps_wr s _ h).trans (keeps_wr _ _ h')

theorem keeps_bumpEpoch {pg : Nat} (h : ¬ K (pg + hEpoch)) : Keeps K s (bumpEpoch s pg) := keeps_wr s _ h

theorem keeps_intSet {pg : Nat} (bits : Nat) (h : ¬ K (pg + hIntStat)) : Keeps K s (intSet s pg bits) :=
  ⟨intSet_pending .., intSet_time .., by rw [intSet_boot], by rw [intSet_sp], by rw [intSet_prt], by rw [intSet_mgt],
    fun {_} ho => rdW_intSet_ne _ _ fun he => h (he ▸ ho)⟩

theorem keeps_latchErr {pg : Nat} (cls low addr : Nat) (h1 : ¬ K (pg + hStat)) (h2 : ¬ K (pg + hErrSyn)) (h3 : ¬ K (pg + hErrLo))
    (h4 : ¬ K (pg + hErrLo + 4)) : Keeps K s (latchErr s pg cls low addr) := by
  rw [latchErr]
  exact .ite (keeps_wrB _ _ _ h1) (((keeps_wr _ _ h2).trans (keeps_wr64 _ _ h3 h4)).trans (keeps_wrB _ _ _ h1))

theorem LogOnly.keeps {s t : State} (h : LogOnly s t) (htime : t.time = s.time) (hregs : ∀ {o}, K o → rdW t o = rdW s o) : Keeps K s t :=
  ⟨h.pending_eq, htime, by rw [h.boot_eq], by rw [h.sp_eq], by rw [h.prt_eq], h.response_eq, hregs⟩

theorem keeps_clinker (r : LogRec) (hlog : ∀ {o}, K o → ¬ IsLogReg o) : Keeps K s (clinker s r) :=
  (logOnly_clinker s r).keeps (clinker_time s r) fun ho => rdW_clinker_ne s r (hlog ho)

theorem keepsLow_clinker (r : LogRec) : Keeps LowReg s (clinker s r) := keeps_clinker s r fun h => h.2
theorem keepsReset_clinker (r : LogRec) : Keeps ResetReg s (clinker s r) := (keepsLow_clinker s r).toReset
theorem keepsBoot_clinker (r : LogRec) : Keeps BootReg s (clinker s r) := (keepsLow_clinker s r).toBoot

/-! The units' own states: none of them holds what a step keeps. -/

theorem keeps_setTl (x : Tiles) : Keeps K s { s with tl := x } := ⟨rfl, rfl, rfl, rfl, rfl, rfl, fun _ => rfl⟩
theorem keeps_setBlw (x : Bellows) : Keeps K s { s with blw := x } := ⟨rfl, rfl, rfl, rfl, rfl, rfl, fun _ => rfl⟩
theorem keeps_setQch (x : Quench) : Keeps K s { s with qch := x } := ⟨rfl, rfl, rfl, rfl, rfl, rfl, fun _ => rfl⟩
theorem keeps_setMem (x : Memory) : Keeps K s { s with mem := x } := ⟨rfl, rfl, rfl, rfl, rfl, rfl, fun _ => rfl⟩
theorem keeps_setHrt (x : Hearth) : Keeps K s { s with hrt := x } := ⟨rfl, rfl, rfl, rfl, rfl, rfl, fun _ => rfl⟩
theorem keeps_setCal (x : Cal) : Keeps K s (setCal s x) := ⟨rfl, rfl, rfl, rfl, rfl, rfl, fun _ => rfl⟩
theorem keeps_setBlt (sl : Nat) (x : Billet) : Keeps K s (setBlt s sl x) := ⟨rfl, rfl, rfl, rfl, rfl, rfl, fun _ => rfl⟩
theorem keeps_setFtm (x : FabricTime) : Keeps K s (setFtm s x) := ⟨rfl, rfl, rfl, rfl, rfl, rfl, fun _ => rfl⟩

/-- What SP holds of a request beside a cap and a reset. -/
theorem keeps_setPrt {x : Parts} (h : x.heldCap = s.prt.heldCap) : Keeps K s { s with prt := x } := ⟨rfl, rfl, rfl, rfl, h, rfl, fun _ => rfl⟩
theorem keeps_setSp {x : Sp} (h : x.heldReset = s.sp.heldReset) : Keeps K s { s with sp := x } := ⟨rfl, rfl, rfl, h, rfl, rfl, fun _ => rfl⟩

/-- The window's tables beside its registers. -/
theorem keeps_setWin {x : Window} (h : x.regs = s.win.regs) : Keeps K s { s with win := x } :=
  ⟨rfl, rfl, rfl, rfl, rfl, rfl, fun _ => rdW_congr h _⟩

theorem keeps_drawFree : Keeps K s (drawFree s).2 := ⟨rfl, rfl, rfl, rfl, rfl, rfl, fun _ => rfl⟩

theorem keeps_markBad : Keeps K s (markBad s) := ⟨rfl, rfl, rfl, rfl, rfl, rfl, fun _ => rfl⟩

theorem keeps_raiseArc (n v : Nat) : Keeps K s (raiseArc s n v) := by
  rw [raiseArc]
  exact .when ⟨rfl, rfl, rfl, rfl, rfl, rfl, fun _ => rfl⟩

theorem keeps_rewriteDevice : Keeps K s (rewriteDevice s) := keeps_raiseArc ..

/-- The counters of a page whose registers lie outside the set. -/
theorem keeps_clearCounters (pg : Nat) (rs : List RegDef) (h : ∀ o, pg ≤ o → ¬ K o) : Keeps K s (clearCounters pg rs s) := by
  induction rs generalizing s with
  | nil => exact .refl K s
  | cons r rs ih =>
    rw [clearCounters]
    refine Keeps.trans ?_ (ih _)
    split
    · exact keeps_foldl (fun _ _ => keeps_wr _ _ (h _ (by omega))) ..
    · exact keeps_foldl (fun _ _ => keeps_wr64 _ _ (h _ (by omega)) (h _ (by omega))) ..
    · exact .refl K s

end

/-! ### Where the dies' pages lie -/

section
variable {x : Nat}

theorem tilePg_not_low {t n : Nat} : ¬ LowReg (tilePg t n + x) := not_lowReg_of_die (by rw [tilePg]; omega)
theorem ctlPg_not_low {c n : Nat} : ¬ LowReg (ctlPg c n + x) := not_lowReg_of_die (by rw [ctlPg]; omega)
theorem hrtDPg_not_low {d : Nat} : ¬ LowReg (hrtDPg d + x) := not_lowReg_of_die (by rw [hrtDPg_eq]; omega)
theorem lnkPg_not_low {p : Nat} : ¬ LowReg (lnkPg p + x) := not_lowReg_of_die (by rw [lnkPg]; omega)
theorem rtPg_not_low {d : Nat} : ¬ LowReg (rtPg d + x) := not_lowReg_of_die (by rw [rtPg]; omega)
theorem uciPg_not_low {d n : Nat} : ¬ LowReg (uciPg d n + x) := not_lowReg_of_die (by rw [uciPg]; omega)
theorem nocPg_not_low {d : Nat} : ¬ LowReg (nocPg d + x) := not_lowReg_of_die (by rw [nocPg]; omega)

end

theorem le_tilePg (t n : Nat) : 0x01000000 ≤ tilePg t n := by rw [tilePg]; omega
theorem le_ctlPg (c n : Nat) : 0x01000000 ≤ ctlPg c n := by rw [ctlPg]; omega

/-- Writes of the dies' registers keep SD's. -/
theorem keepsLow_wr (s : State) {o : Nat} (v : Nat) (h : 0x01000000 ≤ o) : Keeps LowReg s (wr s o v) := keeps_wr s v (not_lowReg_of_die h)

/-- The record of a tile's fault keeps SD's registers. -/
theorem FaultKept.keeps {s t : State} {tile : Nat} (h : FaultKept tile s t) : Keeps LowReg s t := by
  refine ⟨h.frame.log.pending_eq, h.time, by rw [h.frame.log.boot_eq], by rw [h.frame.log.sp_eq], by rw [h.frame.log.prt_eq],
    h.frame.log.response_eq, fun {o} ho => h.regs ?_⟩
  rintro (⟨x, -, he⟩ | ⟨x, -, he⟩ | ⟨sl, x, -, he⟩ | he)
  · exact tilePg_not_low (x := x) (t := tile) (n := 0) (he ▸ ho)
  · exact tilePg_not_low (x := x) (t := tile) (n := 9) (he ▸ ho)
  · exact ctlPg_not_low (x := x) (c := 4 * sl) (n := 2) (he ▸ ho)
  · exact ho.2 he

end Sys2Proof.Machine
end

section
/-!
What the resets of tiles and partitions leave of SD's registers and of start-up. The second half of the layer under O43, O45 and O46.
-/
namespace Sys2Proof.Machine

/-! ### Tiles -/

section
variable (s : State) (t : Nat)

theorem keepsLow_failTile : Keeps LowReg s (failTile s t) := (keeps_wrB _ _ _ tilePg_not_low).trans (faultKept_failTile t s).keeps

theorem keepsLow_resetScratch : Keeps LowReg s (resetScratch s t) :=
  (keeps_setTl s _).trans (keeps_wr _ _ tilePg_not_low)

theorem keepsLow_resetTransfers : Keeps LowReg s (resetTransfers s t) := by
  have hdrop : Keeps LowReg s (dropRings (descsOf s t) s) := by
    rw [dropRings_keeps]
    exact ⟨rfl, rfl, rfl, rfl, rfl, rfl, fun _ => rfl⟩
  exact hdrop.trans ⟨rfl, rfl, rfl, rfl, rfl, rfl, fun _ => rfl⟩

theorem keepsLow_resetTileRegs : Keeps LowReg s (resetTileRegs s t) := by
  have hpg (x : Nat) : ¬ LowReg (tilePg t 8 + x) := tilePg_not_low
  have h64 (u : State) (x v : Nat) : Keeps LowReg u (wr64 u (tilePg t 8 + x) v) := keeps_wr64 _ _ (hpg x) (hpg (x + 4))
  rw [resetTileRegs]
  refine Keeps.trans ?_ (keeps_foldl (fun _ _ => keeps_clearCounters _ _ _ fun o ho => not_lowReg_of_die ((le_tilePg ..).trans ho)) ..)
  exact ((((keeps_wrB _ _ _ (hpg _)).trans (keeps_wrB _ _ _ (hpg _))).trans (h64 ..)).trans (h64 ..)).trans (h64 ..)

theorem keepsLow_beginReset (test : Bool) : Keeps LowReg s (beginReset s t test) := by
  have hflag (u : State) (n : Nat) (b : Bool) : Keeps LowReg u (wrB u (tilePg t 0 + 0x104) n b) := keeps_wrB _ _ _ tilePg_not_low
  have hthreads (u : State) : Keeps LowReg u (resetThreads u t) := keeps_setTl ..
  have hanvils (u : State) : Keeps LowReg u (resetAnvils u t) := ⟨rfl, rfl, rfl, rfl, rfl, rfl, fun _ => rfl⟩
  have hrun (u : State) : Keeps LowReg u (resetTileRegs (resetTransfers (resetAnvils (resetScratch (resetThreads u t) t) t) t) t) :=
    ((((hthreads u).trans (keepsLow_resetScratch ..)).trans (hanvils _)).trans (keepsLow_resetTransfers ..)).trans (keepsLow_resetTileRegs ..)
  rw [beginReset]
  exact .unless (((hflag s 3 true).trans (hflag _ 2 test)).trans (hrun _))

theorem keepsLow_takeMap (a : Nat) : Keeps LowReg s (takeMap s t (anvPg t a)) := by
  have hcap : ¬ LowReg (anvPg t a + hCap) := tilePg_not_low
  exact ((keeps_wrF _ _ _ _ hcap).trans (keeps_wrF _ _ _ _ hcap)).trans (keeps_wrF _ _ _ _ hcap)

theorem keepsLow_endReset : Keeps LowReg s (endReset s t) := by
  have hflag (u : State) (n : Nat) (b : Bool) : Keeps LowReg u (wrB u (tilePg t 0 + 0x104) n b) := keeps_wrB _ _ _ tilePg_not_low
  rw [endReset]
  have hreset : ∀ u, Keeps LowReg u (if tileWidth u t = 0 ∧ tileFailed u t = false then failTile u t else u) :=
    fun u => .when (keepsLow_failTile ..)
  refine Keeps.trans ?_ (hreset _)
  refine ((Keeps.trans ?_ (keeps_foldl (fun _ _ => keepsLow_takeMap ..) ..)).trans ((hflag _ 3 false).trans (hflag _ 2 false))).trans
    (keeps_intSet _ _ tilePg_not_low)
  exact keeps_foldl (fun _ _ => keeps_bumpEpoch _ tilePg_not_low) ..

theorem keepsLow_setRoute (l : Nat) : Keeps LowReg s (setRoute s l t) :=
  keepsLow_wr _ _ (by rw [nocPg]; omega)

theorem keepsLow_assignHalf (sl : Nat) : Keeps LowReg s (assignHalf s sl) := by
  have hnum (u : State) (t n : Nat) : Keeps LowReg u (wrF u (tilePg t 0 + 0x108) 15 0 n) := keeps_wrF _ _ _ _ tilePg_not_low
  rw [assignHalf]
  refine .ite (.trans ?_ (keeps_markBad _)) ?_ <;>
    exact (keeps_foldl (fun _ _ => hnum ..) ..).trans (keeps_foldl (fun _ _ => (hnum ..).trans (keepsLow_setRoute ..)) ..)

end

/-- SP_STd of a die lies above SP_STAGE_MS (R436). -/
theorem keepsBoot_dieCounts (s : State) (d : Nat) : Keeps BootReg s (dieCounts s d) :=
  keeps_wr _ _ (not_bootReg (by
    have hnum := pageNumbers
    omega))

/-- Stage 7 keeps the stages' times. -/
theorem keepsBoot_mapTiles (s : State) (fails : List Nat) : Keeps BootReg s (mapTiles s fails) := by
  have hmapped : Keeps BootReg s ((List.range 4).foldl dieCounts ((List.range 288).foldl (fun s t => endReset (beginReset s t false) t)
      ((List.range 8).foldl assignHalf (((List.range 288).filter (fun t => fails.contains t && !(tileFailed s t))).foldl failTile s)))) :=
    (((keeps_foldl keepsLow_failTile ..).trans (keeps_foldl keepsLow_assignHalf ..)).trans
      (keeps_foldl (fun _ _ => (keepsLow_beginReset ..).trans (keepsLow_endReset ..)) ..)).toBoot.trans
      (keeps_foldl keepsBoot_dieCounts ..)
  exact .ite hmapped (hmapped.trans (keeps_rewriteDevice _))

/-! ### Bellows of a tile -/

section
variable (s : State) (t : Nat)

theorem keepsLow_latchBlk {pg : Nat} (low addr : Nat) (h : 0x01000000 ≤ pg) : Keeps LowReg s (latchBlk s pg low addr) :=
  keeps_latchErr _ _ _ _ (not_lowReg_of_die (by omega)) (not_lowReg_of_die (by omega)) (not_lowReg_of_die (by omega)) (not_lowReg_of_die (by omega))

theorem keeps_lateWrite {K : Nat → Prop} (th gen r mark : Nat) (v : W64) : Keeps K s (lateWrite s t th gen r mark v) := by
  rw [lateWrite]
  exact .when (keeps_setTl ..)

theorem keepsLow_reportDesc (d : BDesc) (code off : Nat) : Keeps LowReg s (reportDesc s t d code off) := by
  have hfault (u : State) (th : Nat) : Keeps LowReg u (if code = 0 then u
      else latchBlk (inc (intSet u (blwTPg t) 1) (blwTPg t + 0x13C)) (blwTPg t) (th * 256 + code) d.src) :=
    .unless (((keeps_intSet _ _ tilePg_not_low).trans (keeps_inc _ tilePg_not_low)).trans (keepsLow_latchBlk _ _ _ (le_tilePg ..)))
  have hring (u : State) : Keeps LowReg u (match d.ring with
      | some r => { u with blw := { u.blw with xfers := cSet (fun _ => none) u.blw.xfers (4 * r.1 + r.2) (some code) } }
      | none => u) := by
    split
    · exact keeps_setBlw ..
    · exact .refl ..
  have hthr : Keeps LowReg s (match d.thr with
      | some x => lateWrite s t x.1 x.2.1 x.2.2 (markBlw d.id) (statusWord code off)
      | none => s) := by
    split
    · exact keeps_lateWrite ..
    · exact .refl ..
  exact (hthr.trans (hring _)).trans (hfault _ _)

theorem keepsLow_completeDesc (d : BDesc) (code off : Nat) : Keeps LowReg s (completeDesc s t d code off) :=
  ((keeps_setBlw s _).trans (keepsLow_reportDesc ..)).trans (keeps_setTl ..)

theorem keepsLow_completeDrain (d : BDesc) (code : Nat) : Keeps LowReg s (completeDrain s t d code) :=
  ((keeps_inc _ tilePg_not_low).trans (keeps_incBy _ _ tilePg_not_low)).trans (keepsLow_completeDesc ..)

theorem keepsLow_releaseTile (ds : List BDesc) : Keeps LowReg s (releaseTile t ds s) := by
  induction ds generalizing s with
  | nil => exact .refl ..
  | cons d ds ih =>
    rw [releaseTile]
    exact Keeps.trans (.when (keepsLow_completeDrain ..)) (ih _)

theorem keepsLow_releaseDrain (p : Nat) : Keeps LowReg s (releaseDrain s p) :=
  (keeps_setBlw s _).trans (keeps_foldl (fun _ _ => keepsLow_releaseTile ..) ..)

theorem keepsLow_arriveDrain (p : Nat) (d : BDesc) : Keeps LowReg s (arriveDrain s t p d) := by
  have hwait (u : State) (d : BDesc) : Keeps LowReg u (putDesc u t d) := keeps_setBlw ..
  have hdrain (u : State) (x : Option (Nat × List Nat)) : Keeps LowReg u (setDrain u p x) := keeps_setBlw ..
  have hopen (x : Option (Nat × List Nat)) (d : BDesc) : Keeps LowReg s (putDesc (setDrain s p x) t d) := (hdrain ..).trans (hwait ..)
  rw [arriveDrain]
  split
  · exact .ite ((hopen ..).trans (keepsLow_releaseDrain ..)) (hopen ..)
  · refine .ite ((keeps_intSet _ _ ctlPg_not_low).trans (keepsLow_completeDrain ..)) (.ite (hwait ..) ?_)
    exact .ite ((hopen ..).trans (keepsLow_releaseDrain ..)) (hopen ..)

theorem keepsLow_settleDrains (ds : List BDesc) : Keeps LowReg s (settleDrains t ds s) := by
  induction ds generalizing s with
  | nil => exact .refl ..
  | cons d ds ih =>
    rw [settleDrains]
    refine Keeps.trans (.when ?_) (ih _)
    split
    · exact keepsLow_arriveDrain ..
    · exact keepsLow_completeDrain ..

theorem keepsLow_sthDone (q : SthPart) (code : Nat) : Keeps LowReg s (sthDone s q code) := by
  have hunblock (u : State) : Keeps LowReg u (unblockPart u q) := by
    rw [unblockPart]
    exact .when (keeps_setTl ..)
  have hdescs (u : State) (l : List BDesc) : Keeps LowReg u (setDescs u q.tile l) := keeps_setBlw ..
  have hwake (u : State) : Keeps LowReg u (wakeFences u q.tile) := keeps_setTl ..
  exact ((((hdescs ..).trans (keeps_lateWrite ..)).trans (hunblock _)).trans (hwake _)).trans (keepsLow_settleDrains ..)

end

/-! ### The units of a partition -/

section
variable (s : State) (sl : Nat)

theorem keepsLow_clearStash : Keeps LowReg s (clearStash s sl) := by
  have hlane (u : State) (l : Nat) : Keeps LowReg u (clearLane u sl l) :=
    .trans (t := setLane u sl l {}) ⟨rfl, rfl, rfl, rfl, rfl, rfl, fun _ => rfl⟩ (keeps_foldl (fun _ _ => keepsLow_sthDone ..) ..)
  exact (keeps_foldl hlane ..).trans (keeps_wrB _ _ _ ctlPg_not_low)

theorem keepsLow_resetRings : Keeps LowReg s (resetRings s sl) := by
  have hring (u : State) (n : Nat) (x : Ring) : Keeps LowReg u (setRing u sl n x) := ⟨rfl, rfl, rfl, rfl, rfl, rfl, fun _ => rfl⟩
  have hctl (n : Nat) : 0x01000000 ≤ ringReg sl n := by
    have := le_ctlPg (4 * sl) 4
    simp only [ringReg, ringPg, slPg]
    omega
  exact keeps_foldl (fun _ n => ((hring ..).trans (keeps_wrB _ _ _ (not_lowReg_of_die (hctl n)))).trans (keeps_setBlw ..)) ..

theorem keepsLow_resetQuench (n : Nat) : Keeps LowReg s (resetQuench s n sl) := by
  have hpg {x : Nat} : ¬ LowReg (qchPg sl + x) := ctlPg_not_low
  have hdiscard : Keeps LowReg s (discardPages s n sl) := (keeps_setQch s _).trans (keeps_wrF _ _ _ _ hpg)
  have hdisarm (u : State) : Keeps LowReg u (disarm u sl) := (keeps_wrB u _ _ hpg).trans (keeps_setQch ..)
  exact ((((hdiscard.trans (hdisarm _)).trans (keeps_setQch ..)).trans (keeps_setQch ..)).trans ((keeps_wrB _ _ _ hpg).trans (keeps_wrF _ _ _ _ hpg))).trans
    (keeps_foldl (fun _ _ => keeps_wrF _ _ _ _ tilePg_not_low) ..)

theorem keepsLow_billetEnd (p code : Nat) : Keeps LowReg s (billetEnd s p sl code) := by
  have hpg {x : Nat} : ¬ LowReg (bltPg sl + x) := ctlPg_not_low
  have hphase (u : State) : Keeps LowReg u (setBltStatus (setPhase u sl 0) sl code) :=
    ((keeps_wrF _ _ _ _ hpg).trans (keeps_wrB _ _ _ hpg)).trans (keeps_wrF _ _ _ _ hpg)
  rw [billetEnd]
  split
  · exact ((((keeps_setBlt ..).trans (hphase _)).trans (keeps_intSet _ _ hpg)).trans (keeps_inc _ hpg)).trans (keepsLow_clinker ..)
  · split
    · exact ((keeps_setBlt ..).trans (hphase _)).trans (keeps_intSet _ _ hpg)
    · exact .refl ..

theorem keepsLow_clearPages (sl : Nat) : ∀ c ∈ slicePages sl, ∀ u : State, Keeps LowReg u (clearCounters c.1 c.2.regs u) := by
  intro c hc u
  refine keeps_clearCounters _ _ _ fun o ho => not_lowReg_of_die (Nat.le_trans ?_ ho)
  simp only [slicePages, List.mem_cons, List.not_mem_nil, or_false] at hc
  rcases hc with rfl | rfl | rfl | rfl | rfl | rfl | rfl | rfl | rfl <;> exact le_ctlPg ..

theorem keepsLow_configureSlice (q : PartReq) : Keeps LowReg s (configureSlice q s sl) := by
  have hblw (u : State) (x v : Nat) : Keeps LowReg u (wr u (blwPg sl + x) v) := keeps_wr _ _ ctlPg_not_low
  have htier (u : State) (x v : Nat) : Keeps LowReg u (wr u (tierPg sl + x) v) := keeps_wr _ _ ctlPg_not_low
  have hzero : Keeps LowReg s (if cGet (fun _ => false) s.prt.unzeroed sl then zeroSlice s sl else s) :=
    .when ⟨rfl, rfl, rfl, rfl, rfl, rfl, fun _ => rfl⟩
  have hclear (u : State) : Keeps LowReg u ((slicePages sl).foldl (fun s c => clearCounters c.1 c.2.regs s) u) :=
    keeps_foldl_mem (fun u c hc => keepsLow_clearPages sl c hc u) _
  have hsplit (u : State) : Keeps LowReg u (wr (wr u (blwPg sl + 0x100) q.split) (tierPg sl + 0x104) (bitsOf q.mode 3 2)) :=
    (hblw ..).trans (htier ..)
  have hlimits (u : State) : Keeps LowReg u
      (wr (wr (wr u (tierPg sl + 0x108) q.range) (tierPg sl + 0x118) q.hostMin) (tierPg sl + 0x11C) q.flashMin) :=
    ((htier ..).trans (htier ..)).trans (htier ..)
  have hjob (u : State) : Keeps LowReg u (wr u (tngPg sl + 0x108) q.job) := keeps_wr _ _ ctlPg_not_low
  have htiles (u : State) : Keeps LowReg u
      ((sliceTiles sl).foldl (fun s t => if isLogical s t then wrB s (spkPg t + 0x104) 0 (q.mode.testBit 0) else s) u) :=
    keeps_foldl (fun _ _ => .when (keeps_wrB _ _ _ tilePg_not_low)) ..
  exact ((((hzero.trans (hclear _)).trans (hsplit _)).trans (hlimits _)).trans (hjob _)).trans (htiles _)

end

/-! ### Requests of partitions (R351 to R355, R427) -/

/-- The partition page's registers lie above start-up's. -/
theorem not_bootReg_of_part {o : Nat} (h : partPg ≤ o) : ¬ BootReg o := not_bootReg (by
  have hnum := pageNumbers
  omega)

section
variable (s : State)

theorem keepsBoot_wrPart {o : Nat} (v : Nat) (h : partPg ≤ o) : Keeps BootReg s (wr s o v) := keeps_wr s v (not_bootReg_of_part h)

theorem keepsBoot_setPartState (n st : Nat) : Keeps BootReg s (setPartState s n st) := keepsBoot_wrPart s _ (by omega)

theorem keepsBoot_setPreqBusy (b : Bool) : Keeps BootReg s (setPreqBusy s b) := keepsBoot_wrPart s _ (by omega)

theorem keepsBoot_endRequestWith (code : Nat) : Keeps BootReg s (endRequestWith s code) :=
  ((keepsBoot_setPreqBusy ..).trans (keepsBoot_wrPart _ _ (by omega))).trans (keeps_intSet _ _ (not_bootReg_of_part (by omega)))

theorem keepsLow_beginResets (l : List Nat) : Keeps LowReg s (l.foldl (fun s t => beginReset s t false) s) :=
  keeps_foldl (fun _ _ => keepsLow_beginReset ..) ..

theorem keepsBoot_beginCreate (q : PartReq) : Keeps BootReg s (beginCreate s q) := by
  have hclient (u : State) (k a b : Nat) : Keeps BootReg u (setClientStarted (setClientRun u k a) k b) :=
    (keeps_setWin u rfl).trans (keeps_setWin _ rfl)
  have hslices (u : State) : Keeps BootReg u ((maskSlices q.slices).foldl (configureSlice q) u) :=
    (keeps_foldl (fun _ _ => keepsLow_configureSlice ..) ..).toBoot
  have hregs (u : State) (n v w : Nat) : Keeps BootReg u (wrF (wr (wr u (partPg + 0x140 + 4 * n) v) (partPg + 0x160 + 4 * n) w) (partPg + 0x124) 10 8 n) :=
    ((keepsBoot_wrPart _ _ (by omega)).trans (keepsBoot_wrPart _ _ (by omega))).trans (keepsBoot_wrPart _ _ (by omega))
  have hprt (u : State) (f : Cells Bool) (x : Option (Nat × Nat)) : Keeps BootReg u { u with prt := { u.prt with fixed := f, running := x } } :=
    ⟨rfl, rfl, rfl, rfl, rfl, rfl, fun _ => rfl⟩
  have htiles (u : State) (l : List Nat) : Keeps BootReg u (setPreqBusy (l.foldl (fun s t => beginReset s t false) u) true) :=
    (keepsLow_beginResets ..).toBoot.trans (keepsBoot_setPreqBusy ..)
  rw [beginCreate]
  split
  · exact ((((hclient ..).trans (hregs ..)).trans (hprt ..)).trans (hslices _)).trans (htiles ..)
  · exact .refl ..

theorem keepsLow_destroyed (n : Nat) : Keeps LowReg (setPartState s n 4) (beginDestroy s n) :=
  (keepsLow_resetRings ..).trans (keepsLow_beginResets ..)

theorem keepsBoot_beginDestroy (n : Nat) : Keeps BootReg s (beginDestroy s n) :=
  (keepsBoot_setPartState ..).trans (keepsLow_destroyed s n).toBoot

theorem keepsLow_partReset (n : Nat) : Keeps LowReg (setPartState s n 3) (beginPartReset s n) := by
  have hunits (u : State) (sl : Nat) : Keeps LowReg u (wrB (wrB (resetQuench (resetRings (clearStash u sl) sl) n sl) (tmpPg sl + 0x100) 0 false)
      (seqPg sl + 0x100) 0 false) :=
    ((((keepsLow_clearStash ..).trans (keepsLow_resetRings ..)).trans (keepsLow_resetQuench ..)).trans (keeps_wrB _ _ _ ctlPg_not_low)).trans
      (keeps_wrB _ _ _ ctlPg_not_low)
  have hseq (u : State) (sl : Nat) (x : SeqTable) : Keeps LowReg u (setDrain (setSeq u sl x) n none) := ⟨rfl, rfl, rfl, rfl, rfl, rfl, fun _ => rfl⟩
  have hend (u : State) (sl : Nat) : Keeps LowReg u (wrB (billetEnd u n sl 6) (bltPg sl + 0x100) 1 false) :=
    (keepsLow_billetEnd ..).trans (keeps_wrB _ _ _ ctlPg_not_low)
  exact ((((keepsLow_beginResets ..).trans (hunits ..)).trans (hseq ..)).trans (keeps_setBlt ..)).trans (hend ..)

theorem keepsBoot_beginPartReset (n : Nat) : Keeps BootReg s (beginPartReset s n) :=
  (keepsBoot_setPartState ..).trans (keepsLow_partReset s n).toBoot

theorem keepsBoot_runRequest (q : PartReq) : Keeps BootReg s (runRequest s q) := by
  have hrunning (x : Option (Nat × Nat)) : Keeps BootReg s (setPreqBusy { s with prt := { s.prt with running := x } } true) :=
    (keeps_setPrt s (x := { s.prt with running := x }) rfl).trans (keepsBoot_setPreqBusy ..)
  rw [runRequest]
  refine .ite (.ite (keepsBoot_endRequestWith ..) ?_) ?_
  · exact .ite ((hrunning _).trans (keepsBoot_beginDestroy ..)) (.ite (hrunning _) ((hrunning _).trans (keepsBoot_beginPartReset ..)))
  · split
    · exact keepsBoot_endRequestWith ..
    · exact keepsBoot_beginCreate ..

theorem keepsBoot_runHeld : Keeps BootReg s (runHeld s) := by
  have htaken : Keeps BootReg s (setPreqBusy { s with prt := { s.prt with held := none } } false) :=
    (keeps_setPrt s (x := { s.prt with held := none }) rfl).trans (keepsBoot_setPreqBusy ..)
  rw [runHeld]
  split
  · exact .when (htaken.trans (keepsBoot_runRequest ..))
  · exact .refl ..

end

end Sys2Proof.Machine
end

section
/-!
What SP's own steps leave: its writes of the owner policy's registers, the root's election, firmware in use, epochs and counters. The third part
of the layer under O43, O45 and O46.
-/
namespace Sys2Proof.Machine

/-! ### Steps of SP and of the fabric-time unit -/

/-- Only the window, the log, fabric time, the count of free values and the time differ. -/
def FabricOnly (s t : State) : Prop :=
  t = { s with free := t.free, win := t.win, cln := t.cln, mgt := { s.mgt with events := t.mgt.events }, ftm := t.ftm, time := t.time }

/-- Beside those, SP's state, Hearth's, the boot state and the calibration differ. -/
def SpOnly (s t : State) : Prop :=
  t = { s with free := t.free, win := t.win, cln := t.cln, mgt := { s.mgt with events := t.mgt.events }, ftm := t.ftm, time := t.time,
               sp := t.sp, hrt := t.hrt, boot := t.boot, cal := t.cal }

/-- A step of the fabric-time unit or of registers, that keeps a set of them. -/
structure FabricStep (K : Nat → Prop) (s t : State) : Prop extends Keeps K s t where
  only : FabricOnly s t

/-- A step of SP that keeps a set of registers. -/
structure SpStep (K : Nat → Prop) (s t : State) : Prop extends Keeps K s t where
  only : SpOnly s t

theorem LogOnly.fabricOnly {s t : State} (h : LogOnly s t) : FabricOnly s t := by
  unfold LogOnly FabricOnly at *
  rw [h]

theorem FabricOnly.spOnly {s t : State} (h : FabricOnly s t) : SpOnly s t := by
  unfold FabricOnly SpOnly at *
  rw [h]

section
variable {K : Nat → Prop} {s t u : State}

theorem FabricOnly.trans (h1 : FabricOnly s t) (h2 : FabricOnly t u) : FabricOnly s u := by
  unfold FabricOnly at *
  rw [h2, h1]

theorem SpOnly.trans (h1 : SpOnly s t) (h2 : SpOnly t u) : SpOnly s u := by
  unfold SpOnly at *
  rw [h2, h1]

theorem SpOnly.tl_eq (h : SpOnly s t) : t.tl = s.tl := by rw [h]
theorem SpOnly.mem_eq (h : SpOnly s t) : t.mem = s.mem := by rw [h]
theorem SpOnly.prt_eq (h : SpOnly s t) : t.prt = s.prt := by rw [h]
theorem SpOnly.response_eq (h : SpOnly s t) : t.mgt.response = s.mgt.response := by rw [h]
theorem FabricOnly.sp_eq (h : FabricOnly s t) : t.sp = s.sp := by rw [h]
theorem FabricOnly.cal_eq (h : FabricOnly s t) : t.cal = s.cal := by rw [h]

theorem FabricStep.refl (K : Nat → Prop) (s : State) : FabricStep K s s := ⟨.refl K s, rfl⟩
theorem SpStep.refl (K : Nat → Prop) (s : State) : SpStep K s s := ⟨.refl K s, rfl⟩

theorem FabricStep.trans (h1 : FabricStep K s t) (h2 : FabricStep K t u) : FabricStep K s u := ⟨h1.toKeeps.trans h2.toKeeps, h1.only.trans h2.only⟩
theorem SpStep.trans (h1 : SpStep K s t) (h2 : SpStep K t u) : SpStep K s u := ⟨h1.toKeeps.trans h2.toKeeps, h1.only.trans h2.only⟩

theorem FabricStep.sp (h : FabricStep K s t) : SpStep K s t := ⟨h.toKeeps, h.only.spOnly⟩

theorem FabricStep.mono {K' : Nat → Prop} (h : FabricStep K s t) (hsub : ∀ {o}, K' o → K o) : FabricStep K' s t := ⟨h.toKeeps.mono hsub, h.only⟩
theorem SpStep.mono {K' : Nat → Prop} (h : SpStep K s t) (hsub : ∀ {o}, K' o → K o) : SpStep K' s t := ⟨h.toKeeps.mono hsub, h.only⟩

theorem FabricStep.ite {c : Prop} [Decidable c] (ht : FabricStep K s t) (hu : FabricStep K s u) : FabricStep K s (if c then t else u) := by
  split
  · exact ht
  · exact hu

theorem FabricStep.when {c : Prop} [Decidable c] (ht : FabricStep K s t) : FabricStep K s (if c then t else s) := ht.ite (.refl K s)

theorem SpStep.ite {c : Prop} [Decidable c] (ht : SpStep K s t) (hu : SpStep K s u) : SpStep K s (if c then t else u) := by
  split
  · exact ht
  · exact hu

theorem SpStep.when {c : Prop} [Decidable c] (ht : SpStep K s t) : SpStep K s (if c then t else s) := ht.ite (.refl K s)

theorem fabric_foldl {α : Type} {f : State → α → State} {l : List α} (hf : ∀ s, ∀ a ∈ l, FabricStep K s (f s a)) (s : State) :
    FabricStep K s (l.foldl f s) := by
  induction l generalizing s with
  | nil => exact .refl K s
  | cons a l ih => exact (hf s a (List.mem_cons_self ..)).trans (ih (fun s b hb => hf s b (List.mem_cons_of_mem _ hb)) _)

theorem spStep_foldl {α : Type} {f : State → α → State} {l : List α} (hf : ∀ s, ∀ a ∈ l, SpStep K s (f s a)) (s : State) :
    SpStep K s (l.foldl f s) := by
  induction l generalizing s with
  | nil => exact .refl K s
  | cons a l ih => exact (hf s a (List.mem_cons_self ..)).trans (ih (fun s b hb => hf s b (List.mem_cons_of_mem _ hb)) _)

end

section
variable {K : Nat → Prop} (s : State)

theorem fabric_wr {o : Nat} (v : Nat) (h : ¬ K o) : FabricStep K s (wr s o v) := ⟨keeps_wr s v h, (windowOnly_wr ..).logOnly.fabricOnly⟩
theorem fabric_wrF {o : Nat} (hi lo f : Nat) (h : ¬ K o) : FabricStep K s (wrF s o hi lo f) := fabric_wr s _ h
theorem fabric_wrB {o : Nat} (n : Nat) (b : Bool) (h : ¬ K o) : FabricStep K s (wrB s o n b) := fabric_wr s _ h
theorem fabric_incBy {o : Nat} (n : Nat) (h : ¬ K o) : FabricStep K s (incBy s o n) := fabric_wr s _ h
theorem fabric_inc {o : Nat} (h : ¬ K o) : FabricStep K s (inc s o) := fabric_wr s _ h

theorem fabric_wr64 {o : Nat} (v : Nat) (h : ¬ K o) (h' : ¬ K (o + 4)) : FabricStep K s (wr64 s o v) := (fabric_wr s _ h).trans (fabric_wr _ _ h')

theorem fabric_bumpEpoch {pg : Nat} (h : ¬ K (pg + hEpoch)) : FabricStep K s (bumpEpoch s pg) := fabric_wr s _ h

theorem fabric_intSet {pg : Nat} (bits : Nat) (h : ¬ K (pg + hIntStat)) : FabricStep K s (intSet s pg bits) :=
  ⟨keeps_intSet s bits h, (windowOnly_intSet ..).logOnly.fabricOnly⟩

theorem fabric_clinker (r : LogRec) (hlog : ∀ {o}, K o → ¬ IsLogReg o) : FabricStep K s (clinker s r) :=
  ⟨keeps_clinker s r hlog, (logOnly_clinker ..).fabricOnly⟩

theorem fabricReset_clinker (r : LogRec) : FabricStep ResetReg s (clinker s r) := fabric_clinker s r fun h => h.low.2

theorem fabric_setWin {x : Window} (h : x.regs = s.win.regs) : FabricStep K s { s with win := x } := ⟨keeps_setWin s h, rfl⟩

theorem fabric_setFtm (x : FabricTime) : FabricStep K s (setFtm s x) := ⟨keeps_setFtm s x, rfl⟩

theorem spStep_setSp {x : Sp} (h : x.heldReset = s.sp.heldReset) : SpStep K s { s with sp := x } := ⟨keeps_setSp s h, rfl⟩

end

/-- The message of an interrupt's edge. -/
theorem fabric_withIntEdge {K : Nat → Prop} (pg : Nat) (s t : State) : FabricStep K t (withIntEdge pg s t) := by
  have htime : (withIntEdge pg s t).time = t.time := by
    rw [withIntEdge]
    split
    · exact sendMsi_time ..
    · rfl
  exact ⟨(windowOnly_withIntEdge ..).logOnly.keeps htime fun _ => rdW_withIntEdge .., (windowOnly_withIntEdge ..).logOnly.fabricOnly⟩

/-! ### The fabric-time unit (R338 to R340) -/

/-- The unit's registers are neither start-up's nor the partitions'. -/
theorem not_resetReg_of_ftm {x : Nat} : ¬ ResetReg (ftmPg + x) := not_resetReg (by
  have hnum := pageNumbers
  omega)

section
variable (s : State)

theorem fabric_countHold : FabricStep ResetReg s (countHold s) := by
  rw [countHold]
  exact .when (fabric_incBy _ _ not_resetReg_of_ftm)

/-- An entry into HOLDOVER or FREE: UNLOCK, the count and the clinker entry. -/
theorem fabric_unlocked (bits : Nat) (r : LogRec) : FabricStep ResetReg s (clinker (inc (intSet s ftmPg bits) (ftmPg + 0x138)) r) :=
  ((fabric_intSet _ _ not_resetReg_of_ftm).trans (fabric_inc _ not_resetReg_of_ftm)).trans (fabricReset_clinker ..)

theorem fabric_enterFtm (st : Nat) : FabricStep ResetReg s (enterFtm s st) := by
  have hentered (x : FabricTime) : FabricStep ResetReg s (setFtm (wrF (countHold s) (ftmPg + 0x104) 2 0 st) x) :=
    ((fabric_countHold s).trans (fabric_wrF _ _ _ _ not_resetReg_of_ftm)).trans (fabric_setFtm ..)
  have hstate (u : State) : FabricStep ResetReg u (if st = 2 then intSet u ftmPg 1
      else if st = 3 then clinker (inc (intSet u ftmPg 2) (ftmPg + 0x138)) { cat := 9, code := 1, page := ftmPg }
      else if st = 4 then clinker (inc (intSet u ftmPg 18) (ftmPg + 0x138)) { cat := 9, code := 2, page := ftmPg }
      else u) :=
    .ite (fabric_intSet _ _ not_resetReg_of_ftm) (.ite (fabric_unlocked ..) (.when (fabric_unlocked ..)))
  rw [enterFtm]
  exact .ite (.refl ..) ((hentered _).trans (hstate _))

theorem fabric_upstream (up hops : Nat) : FabricStep ResetReg s (wrF (wrF s (ftmPg + 0x104) 28 24 up) (ftmPg + 0x104) 20 16 hops) :=
  (fabric_wrF _ _ _ _ not_resetReg_of_ftm).trans (fabric_wrF _ _ _ _ not_resetReg_of_ftm)

theorem fabric_setRoot (root up hops : Nat) : FabricStep ResetReg s (setRoot s root up hops) := by
  have hset (u : State) : FabricStep ResetReg u (clinker (intSet (wr u (ftmPg + 0x128) root) ftmPg 8) { cat := 9, code := 3, page := ftmPg }) :=
    ((fabric_wr _ _ not_resetReg_of_ftm).trans (fabric_intSet _ _ not_resetReg_of_ftm)).trans (fabricReset_clinker ..)
  rw [setRoot]
  exact .ite (fabric_upstream ..) ((fabric_upstream ..).trans (hset _))

theorem fabric_noUpstream (far : Bool) : FabricStep ResetReg s (noUpstream s far) := by
  rw [noUpstream]
  exact .ite ((fabric_upstream ..).trans (fabric_enterFtm ..))
    (.ite ((fabric_upstream ..).trans (fabric_enterFtm ..)) (.ite ((fabric_upstream ..).trans (fabric_enterFtm ..)) (fabric_upstream ..)))

theorem fabric_electRoot : FabricStep ResetReg s (electRoot s) := by
  have hself : FabricStep ResetReg s (enterFtm (setRoot s (moduleId s) 0x1F 0) 5) := (fabric_setRoot ..).trans (fabric_enterFtm ..)
  have hother (n r h st : Nat) : FabricStep ResetReg s (enterFtm (setRoot s r n (h + 1)) st) := (fabric_setRoot ..).trans (fabric_enterFtm ..)
  unfold electRoot
  split
  · exact .refl ..
  · dsimp only
    split
    · exact .ite hself (fabric_noUpstream ..)
    · exact .ite hself (.ite (fabric_noUpstream ..) (.ite (hother ..) (.ite (hother ..) (fabric_setRoot ..))))

theorem fabric_ftmCtlWritten (old new : Nat) : FabricStep ResetReg s (ftmCtlWritten s old new) := by
  rw [ftmCtlWritten]
  refine .ite (.refl ..) (.ite ((fabric_upstream ..).trans (fabric_enterFtm ..)) ?_)
  split
  · exact fabric_electRoot s
  · exact (fabric_enterFtm ..).trans (fabric_electRoot _)

end

/-! ### A register write (R473, R479) -/

/-- No register of an offset's page is in the set. -/
def PageFree (K : Nat → Prop) (off : Nat) : Prop := ∀ x < 0x1000, ¬ K (off / 4096 * 4096 + x)

theorem pageFree_reset {off : Nat} (h : off < 0x1000 ∨ 0x3000 ≤ off) : PageFree ResetReg off := fun _ _ => not_resetReg (by omega)

theorem pageFree_boot {off : Nat} (h : off < 0x1000 ∨ 0x2000 ≤ off) : PageFree BootReg off := fun _ _ => not_bootReg (by omega)

/-- The tables that registers select entries of. -/
theorem fabric_writeSelected {K : Nat → Prop} {s : State} {p : PageRef} {o : Nat} {v : Nat} {t : State} (h : writeSelected s p o v = some t) : FabricStep K s t := by
  rw [writeSelected] at h
  split at h
  case h_1 =>
    split at h
    · exact Option.some.inj h ▸ fabric_setWin s rfl
    · contradiction
  case h_2 =>
    split at h
    · exact Option.some.inj h ▸ fabric_setWin s rfl
    · contradiction
  case h_3 =>
    split at h
    · exact Option.some.inj h ▸ fabric_setWin s rfl
    · split at h
      · exact Option.some.inj h ▸ fabric_setWin s rfl
      · contradiction
  case h_4 => contradiction

section
variable {K : Nat → Prop} {p : PageRef} {off : Nat} (hp : pageAt off = some p) (hfree : PageFree K off) (s : State)
include hp hfree

/-- The page's registers by its base. -/
theorem PageFree.base {x : Nat} (hx : x < 0x1000) : ¬ K (p.base + x) := by
  rw [pageAt_base hp]
  exact hfree x hx

theorem fabric_denyWrite (o reason : Nat) (who : Requester) : FabricStep K s (denyWrite s p.base o reason who) :=
  ⟨keeps_latchErr _ _ _ _ (hfree.base hp (by decide)) (hfree.base hp (by decide)) (hfree.base hp (by decide))
    (hfree.base hp (x := hErrLo + 4) (by decide)), (windowOnly_latchErr ..).logOnly.fabricOnly⟩

theorem fabric_wrPage {x : Nat} (hx : x < 0x1000) (v : Nat) : FabricStep K s (wr s (p.base + x) v) := fabric_wr _ _ (hfree.base hp hx)

theorem fabric_writeHeader {o : Nat} (ho : o < 0x1000) (v : Nat) (who : Requester) : FabricStep K s (writeHeader s p o v who) := by
  have hdeny : FabricStep K s (denyWrite s p.base (p.base + o) 1 who) := fabric_denyWrite hp hfree s ..
  have hwr (v : Nat) : FabricStep K s (wr s (p.base + o) v) := fabric_wrPage hp hfree s ho v
  have hint (v : Nat) : FabricStep K s (withIntEdge p.base s (wr s (p.base + o) v)) :=
    (hwr v).trans (fabric_withIntEdge ..)
  simp only [writeHeader]
  exact .ite (hint _) (.ite (.ite (.refl ..) (.ite (.when hdeny) (.ite (hwr _) (hwr _)))) (.refl ..))

theorem fabric_writeWordReg (g : RegDef) {o : Nat} (ho : o < 0x1000) (v : Nat) (who : Requester) :
    FabricStep K s (writeWordReg s p g o v who) := by
  have hdeny (u : State) (reason : Nat) : FabricStep K u (denyWrite u p.base (p.base + o) reason who) := fabric_denyWrite hp hfree u ..
  have hwr (u : State) (v : Nat) : FabricStep K u (wr u (p.base + o) v) := fabric_wrPage hp hfree u ho v
  have hfirst (c : Bool) : FabricStep K s (if c then denyWrite s p.base (p.base + o) 1 who else s) := .when (hdeny ..)
  simp only [writeWordReg]
  exact .ite ((hfirst _).trans (hdeny ..)) (.ite ((hfirst _).trans (hdeny ..)) ((hfirst _).trans (hwr ..)))

theorem fabric_writePairReg (g : RegDef) {o : Nat} (ho : o < 0x1000) (h4 : 0x100 ≤ o) (half : RegHalf) (v : Nat) (who : Requester) :
    FabricStep K s (writePairReg s p g o half v who) := by
  have hdeny (u : State) (reason : Nat) : FabricStep K u (denyWrite u p.base (p.base + o) reason who) := fabric_denyWrite hp hfree u ..
  have hwr (u : State) (v : Nat) : FabricStep K u (wr64 u (p.base + o - 4) v) := by
    have hoff : p.base + o - 4 = p.base + (o - 4) := by omega
    have hoff' : p.base + (o - 4) + 4 = p.base + o := by omega
    rw [hoff]
    exact fabric_wr64 u v (hfree.base hp (by omega)) (hoff' ▸ hfree.base hp ho)
  simp only [writePairReg]
  split
  · refine .ite (.refl ..) (.ite (.when (hdeny ..)) (.ite (fabric_setWin s rfl) ?_))
    exact FabricStep.trans (t := { s with win := { s.win with loHold := cDel s.win.loHold (p.base + o - 4) } }) (fabric_setWin s rfl)
      (.ite (.when (hdeny ..)) (hwr ..))
  · exact .refl ..

end

/-- A register write changes registers of its page alone. -/
theorem fabric_writeReg {K : Nat → Prop} {off : Nat} (hfree : PageFree K off) (s : State) (v : Nat) (who : Requester) :
    FabricStep K s (writeReg s off v who) := by
  have ho : off % 4096 < 0x1000 := Nat.mod_lt _ (by decide)
  rw [writeReg]
  split
  · exact .refl ..
  · next p hp =>
    by_cases hhdr : off % 4096 < 0x100
    · rw [if_pos hhdr]
      exact fabric_writeHeader hp hfree s ho v who
    · rw [if_neg hhdr]
      split
      · exact .refl ..
      · next g j half hg =>
        refine .ite (.refl ..) ?_
        split
        · next t ht => exact .ite (fabric_writeSelected ht) (.when (fabric_denyWrite hp hfree s ..))
        · split
          · exact fabric_writeWordReg hp hfree s g ho v who
          · exact .ite (.refl ..) (.ite (.refl ..) (fabric_writePairReg hp hfree s g ho (Nat.le_of_not_lt hhdr) half v who))
          · exact .refl ..

/-! ### The owner policy (R438) -/

section
variable {K : Nat → Prop}

theorem fabric_spPut {offs : List Nat} (h : ∀ o ∈ offs, PageFree K o) (s : State) (v : Nat) : FabricStep K s (spPut s offs v) :=
  fabric_foldl (fun _ _ ho => fabric_writeReg (h _ ho) ..) s

theorem fabric_spPutAll {gs : List (List Nat)} (h : ∀ g ∈ gs, ∀ o ∈ g, PageFree K o) (vs : List Nat) (s : State) :
    FabricStep K s (spPutAll gs vs s) := by
  induction gs generalizing vs s with
  | nil => exact .refl ..
  | cons g gs ih =>
    cases vs with
    | nil => exact .refl ..
    | cons v vs =>
      rw [spPutAll]
      exact (fabric_spPut (h g (List.mem_cons_self ..)) s v).trans (ih (fun g' hg' => h g' (List.mem_cons_of_mem _ hg')) vs _)

end

/-- The registers of the items FABRIC and POOL lie above the partition page. -/
theorem le_fabricRegs : ∀ g ∈ fabricRegs, ∀ o ∈ g, 0x3000 ≤ o := by decide

theorem le_poolRegs : ∀ g ∈ poolRegs, ∀ o ∈ g, 0x3000 ≤ o := by decide

/-- Those of LIMITS lie outside SP's boot page. -/
theorem limitRegs_not_boot : ∀ g ∈ limitRegs, ∀ o ∈ g, o < 0x1000 ∨ 0x2000 ≤ o := by decide

theorem fabric_applyLater (s : State) (b : List Byte) : FabricStep ResetReg s (applyLater s b) := by
  have hput {gs : List (List Nat)} (h : ∀ g ∈ gs, ∀ o ∈ g, 0x3000 ≤ o) (vs : List Nat) (u : State) : FabricStep ResetReg u (spPutAll gs vs u) :=
    fabric_spPutAll (fun g hg o ho => pageFree_reset (.inr (h g hg o ho))) vs u
  have htable (u : State) (ws : List Nat) : FabricStep ResetReg u (putTable ws u) := fabric_setWin u rfl
  have hfabric : FabricStep ResetReg s (match secItem b 1 with
      | some v =>
        let ws := withEn s (itemWords v)
        let old := rd s (ftmPg + 0x100)
        let s := putTable (ws.drop fabricRegs.length) (spPutAll fabricRegs ws s)
        ftmCtlWritten s old (rd s (ftmPg + 0x100))
      | none => s) := by
    split
    · exact ((hput le_fabricRegs ..).trans (htable ..)).trans (fabric_ftmCtlWritten ..)
    · exact .refl ..
  rw [applyLater]
  dsimp only
  split
  · exact hfabric.trans (hput le_poolRegs ..)
  · exact hfabric

/-- The client table's registers lie above SP's boot page. -/
theorem pageFree_client {x : Nat} (hx : x < 0x1000) : PageFree BootReg (partPg + x) := pageFree_boot (.inr (by
  have hnum := pageNumbers
  omega))

theorem fabric_putClients (v : List Byte) (s : State) : FabricStep BootReg s (putClients v s) := by
  have hput (x w : Nat) (hx : x < 0x1000) (u : State) : FabricStep BootReg u (spPut u [partPg + x] w) :=
    fabric_spPut (fun _ ho => List.mem_singleton.1 ho ▸ pageFree_client hx) u w
  have hclient (u : State) (k : Nat) : FabricStep BootReg u (putClient v u k) :=
    ((hput 0x200 _ (by decide) _).trans (hput 0x204 _ (by decide) _)).trans (hput 0x208 _ (by decide) _)
  exact (fabric_foldl (fun u k _ => hclient u k) s).trans (fabric_wr _ _ (not_bootReg_of_part (by omega)))

/-- The items that take effect at once keep start-up's registers. -/
theorem fabric_applyNow (s : State) (b : List Byte) : FabricStep BootReg s (applyNow s b) := by
  have hlimits : FabricStep BootReg s (match secItem b 4 with
      | some v => spPutAll limitRegs (itemWords v) s
      | none => s) := by
    split
    · exact fabric_spPutAll (fun g hg o ho => pageFree_boot (limitRegs_not_boot g hg o ho)) ..
    · exact .refl ..
  have hclients (u : State) : FabricStep BootReg u (match secItem b 2 with
      | some v => putClients v u
      | none => u) := by
    split
    · exact fabric_putClients ..
    · exact .refl ..
  rw [applyNow]
  split
  · exact (hlimits.trans (hclients _)).trans (fabric_wrB _ _ _ (not_bootReg (.inl (by decide))))
  · exact hlimits.trans (hclients _)

end Sys2Proof.Machine
end

section
/-!
Resets of the module (17_startup_calibration.md R421, R425, R426): what is lost, and the stages that begin. The last part of the layer under
O43, O45 and O46.
-/
namespace Sys2Proof.Machine

/-! ### Firmware in use and trials (R449, R464) -/

/-- SP's first page lies below SP's boot page. -/
theorem not_resetReg_of_sp0 {x : Nat} (h : x < 0x1000) : ¬ ResetReg (sp0Pg + x) := not_resetReg (by
  have hnum := pageNumbers
  omega)

section
variable (s : State)

theorem spStep_useComps (l : List FwComp) : SpStep ResetReg s (useComps s l) := by
  refine (spStep_setSp s (x := { s.sp with inUse := l }) rfl).trans (spStep_foldl (fun u n hn => (fabric_wr u _ ?_).sp) _)
  rw [Nat.add_assoc]
  exact not_resetReg_of_sp0 (by have := List.mem_range.1 hn; omega)

theorem spStep_revertWith (keep : List Nat) : SpStep ResetReg s (revertWith s keep) := by
  have hslots : SpStep ResetReg s { s with sp := { s.sp with slotA := s.sp.slotB, trial := none }, hrt := { s.hrt with newCode := false } } :=
    ⟨⟨rfl, rfl, rfl, rfl, rfl, rfl, fun _ => rfl⟩, rfl⟩
  have hstatus (u : State) : SpStep ResetReg u (intSet (wrB (setFwStatus u 7) (sp0Pg + 0x100) 8 false) sp0Pg 8) :=
    (((fabric_wrF _ _ _ _ (not_resetReg_of_sp0 (by decide))).trans (fabric_wrB _ _ _ (not_resetReg_of_sp0 (by decide)))).trans
      (fabric_intSet _ _ (not_resetReg_of_sp0 (by decide)))).sp
  rw [revertWith]
  split
  · exact .refl ..
  · exact ((hslots.trans (spStep_useComps ..)).trans (hstatus _)).trans (fabricReset_clinker ..).sp

theorem spStep_trialAttempt (keep : List Nat) : SpStep ResetReg s (trialAttempt s keep) := by
  have hcount : SpStep ResetReg s (incF s (sp0Pg + 0x100) 7 0 1) := (fabric_wr s _ (not_resetReg_of_sp0 (by decide))).sp
  rw [trialAttempt]
  split
  · exact .refl ..
  · exact .ite (hcount.trans (spStep_revertWith ..)) hcount

theorem spStep_raiseArc (n v : Nat) : SpStep ResetReg s (raiseArc s n v) := by
  rw [raiseArc]
  exact .when (spStep_setSp s rfl)

theorem spStep_finishCommit : SpStep ResetReg s (finishCommit s) := by
  rw [finishCommit]
  exact .ite (.refl ..) (spStep_foldl (fun _ _ _ => spStep_raiseArc ..) _)

theorem spStep_spStart : SpStep ResetReg s (spStart s) := by
  have hcln (x : Clinker) : SpStep ResetReg s { s with cln := x } := ⟨⟨rfl, rfl, rfl, rfl, rfl, rfl, fun _ => rfl⟩, rfl⟩
  exact ((hcln _).trans (spStep_finishCommit _)).trans (fabricReset_clinker ..).sp

/-! ### Epochs, counters and what waited (R390, R426) -/

theorem fabricReset_bumpEpoch {pg : Nat} (h : pg < 0x1000 ∨ 0x3000 ≤ pg) : FabricStep ResetReg s (bumpEpoch s pg) :=
  fabric_bumpEpoch s (not_resetReg (by
    have hnum := pageNumbers
    omega))

theorem slicePages_die {sl : Nat} : ∀ c ∈ slicePages sl, 0x01000000 ≤ c.1 := by
  intro c hc
  simp only [slicePages, List.mem_cons, List.not_mem_nil, or_false] at hc
  rcases hc with rfl | rfl | rfl | rfl | rfl | rfl | rfl | rfl | rfl <;> exact le_ctlPg ..

theorem fabric_bumpModule : FabricStep ResetReg s (bumpModule s) := by
  have hdie (u : State) {pg : Nat} (h : 0x01000000 ≤ pg) : FabricStep ResetReg u (bumpEpoch u pg) := fabricReset_bumpEpoch u (.inr (by omega))
  have hdies (u : State) : FabricStep ResetReg u ((List.range 4).foldl (fun s d => bumpEpoch s (hrtDPg d)) u) :=
    fabric_foldl (fun _ _ _ => hdie _ (by rw [hrtDPg_eq]; omega)) u
  have hctls (u : State) : FabricStep ResetReg u ((List.range 32).foldl (fun s c => bumpEpoch (bumpEpoch s (ctlPg c 0)) (ctlPg c 6)) u) :=
    fabric_foldl (fun _ _ _ => (hdie _ (le_ctlPg ..)).trans (hdie _ (le_ctlPg ..))) u
  have hslices (u : State) : FabricStep ResetReg u ((List.range 8).foldl (fun s sl => (slicePages sl).foldl (fun s c => bumpEpoch s c.1) s) u) :=
    fabric_foldl (fun u _ _ => fabric_foldl (fun _ _ hc => hdie _ (slicePages_die _ hc)) u) u
  rw [bumpModule]
  exact (((fabricReset_bumpEpoch s (.inl (by decide))).trans (hdies _)).trans (hctls _)).trans (hslices _)

theorem fabric_clearCounters {pg : Nat} (rs : List RegDef) (h : 0x3000 ≤ pg) : FabricStep ResetReg s (clearCounters pg rs s) :=
  ⟨keeps_clearCounters s pg rs fun _ ho => not_resetReg (by omega), (windowOnly_clearCounters ..).logOnly.fabricOnly⟩

theorem fabric_clearAllCounters : FabricStep ResetReg s (clearAllCounters s) := by
  have hmgt (u : State) (x : Nat) : FabricStep ResetReg u (wr u (mgtPg + x) 0) := fabric_wr u _ (not_resetReg (by
    have hnum := pageNumbers
    omega))
  have hpages : ∀ c ∈ [(hrtPg, PageKind.hrt), (calPg, .spCal), (ftl0Pg, .ftl0)], 0x3000 ≤ c.1 := by decide
  exact (((fabric_foldl (fun u c hc => fabric_clearCounters u c.2.regs (hpages c hc)) s).trans (hmgt ..)).trans (hmgt ..)).trans (hmgt ..)

theorem spStep_applyPending : SpStep ResetReg s (applyPending s) := by
  have htaken : SpStep ResetReg s (wrB { s with sp := { s.sp with pending := false } } (sp0Pg + 0x140) 2 false) :=
    (spStep_setSp s (x := { s.sp with pending := false }) rfl).trans (fabric_wrB _ _ _ (not_resetReg_of_sp0 (by decide))).sp
  rw [applyPending]
  refine .when ?_
  dsimp only
  split
  · exact htaken.trans (fabric_applyLater ..).sp
  · exact htaken

/-- Every partition ends, as far as SD's registers and start-up go. -/
theorem keepsLow_endPartitions : Keeps LowReg s (endPartitions s) :=
  keeps_foldl (fun _ _ => .unless ((keepsLow_billetEnd ..).trans (keepsLow_clinker ..))) ..

end

/-! ### A module-wide loss (R425) -/

/-- The module without its units, partitions and start-up, the rest as a loss leaves it. -/
structure Lost (s t : State) : Prop where
  boot     : t.boot = s.boot
  time     : t.time = s.time
  tiles    : t.tl = Tiles.reset
  hbm      : t.mem.hbm = []
  parts    : ∀ n < 8, partState t n = 0

/-- The registers of the partitions are written one by one. -/
def partsCleared (l : List Nat) (s : State) : State :=
  l.foldl (fun s n => wr (wr s (partPg + 0x140 + 4 * n) 0) (partPg + 0x160 + 4 * n) 0) s

theorem partsCleared_step (s : State) (n : Nat) : wr (wr s (partPg + 0x140 + 4 * n) 0) (partPg + 0x160 + 4 * n) 0 =
    { s with win := (wr (wr s (partPg + 0x140 + 4 * n) 0) (partPg + 0x160 + 4 * n) 0).win } := rfl

theorem partsCleared_kept (l : List Nat) (s : State) : partsCleared l s = { s with win := (partsCleared l s).win } := by
  induction l generalizing s with
  | nil => rfl
  | cons n l ih =>
    rw [partsCleared, List.foldl_cons, ← partsCleared, ih, partsCleared_step]

theorem rd_partsCleared {l : List Nat} (hl : ∀ n ∈ l, n < 8) {n : Nat} (hn : n < 8) (s : State)
    (h : n ∈ l ∨ rd s (partPg + 0x140 + 4 * n) = 0) : rd (partsCleared l s) (partPg + 0x140 + 4 * n) = 0 := by
  induction l generalizing s with
  | nil => exact h.resolve_left (List.not_mem_nil)
  | cons m l ih =>
    have hm := hl m (List.mem_cons_self ..)
    refine ih (fun k hk => hl k (List.mem_cons_of_mem _ hk)) _ ?_
    by_cases heq : n = m
    · subst heq
      exact .inr (by rw [rd_of_rdW (rdW_wr_ne _ _ (by omega)), rd_wr_same]; rfl)
    · rcases h with h | h
      · exact .inl (List.mem_of_ne_of_mem heq h)
      · exact .inr (by rw [rd_of_rdW (rdW_wr_ne _ _ (by omega)), rd_of_rdW (rdW_wr_ne _ _ (by omega)), h])

theorem partState_of_rd {s : State} {n : Nat} (h : rd s (partPg + 0x140 + 4 * n) = 0) : partState s n = 0 := by
  rw [partState, rdF, h]
  rfl

/-- The units are lost and the partitions' registers cleared. -/
def unitsLost (cold : Bool) (s : State) : State := partsCleared (List.range 8) (loseUnits { s with win := resetWindow cold s.win })

/-- What Hearth loses with power. -/
def Hearth.lost (h : Hearth) : Hearth :=
  { h with slow := [], period := [], episodes := [], runs := [], dies := h.dies.map (fun c => (c.1, { c.2 with hints := [], boost := none })) }

theorem loseModule_eq (cold : Bool) (s : State) : loseModule cold s =
    if cold then { unitsLost cold s with hrt := Hearth.reset, mgt := Mgt.reset, ftm := FabricTime.reset }
    else { unitsLost cold s with hrt := (unitsLost cold s).hrt.lost } := rfl

/-- Hearth, management and fabric time are not among what a loss of units states. -/
theorem Lost.withRest {s t : State} (h : Lost s t) (x : Hearth) (m : Mgt) (f : FabricTime) : Lost s { t with hrt := x, mgt := m, ftm := f } :=
  ⟨h.boot, h.time, h.tiles, h.hbm, h.parts⟩

theorem lost_unitsLost (cold : Bool) (s : State) : Lost s (unitsLost cold s) := by
  have hparts : ∀ n < 8, partState (unitsLost cold s) n = 0 := fun n hn =>
    partState_of_rd (rd_partsCleared (fun _ h => List.mem_range.1 h) hn _ (.inl (List.mem_range.2 hn)))
  have hkept := partsCleared_kept (List.range 8) (loseUnits { s with win := resetWindow cold s.win })
  rw [← unitsLost] at hkept
  refine ⟨?_, ?_, ?_, ?_, hparts⟩ <;> rw [hkept] <;> rfl

theorem lost_loseModule (cold : Bool) (s : State) : Lost s (loseModule cold s) := by
  have h := lost_unitsLost cold s
  rw [loseModule_eq]
  split
  · exact h.withRest ..
  · exact h.withRest _ (unitsLost cold s).mgt (unitsLost cold s).ftm

/-- Without a cold start SP keeps what it holds, and management its answer. -/
theorem loseModule_warm (s : State) : (loseModule false s).sp = s.sp ∧ (loseModule false s).prt.heldCap = s.prt.heldCap ∧
    (loseModule false s).mgt = s.mgt ∧ (loseModule false s).cln = s.cln := by
  have hkept := partsCleared_kept (List.range 8) (loseUnits { s with win := resetWindow false s.win })
  rw [← unitsLost] at hkept
  rw [loseModule_eq, if_neg (by decide)]
  refine ⟨?_, ?_, ?_, ?_⟩ <;> rw [hkept] <;> rfl

/-- The steps of SP that follow a loss. -/
theorem Lost.step {s t u : State} (h : Lost s t) (hu : SpStep ResetReg t u) : Lost { s with boot := { s.boot with bad := u.boot.bad } } u where
  boot := by rw [hu.boot, h.boot]
  time := hu.time.trans h.time
  tiles := hu.only.tl_eq.trans h.tiles
  hbm := by rw [hu.only.mem_eq, h.hbm]
  parts n hn := (rdF_of_rdW (hu.regs (.inr (by omega))) 11 8).trans (h.parts n hn)

end Sys2Proof.Machine
end

section
/-!
The stages of start-up and the resets that begin them (17_startup_calibration.md R421 to R424, R426).
-/
namespace Sys2Proof.Machine

/-! ### The stages that may begin (R422) -/

/-- Stages begin: they run, and only SP_BOOT_STAT.STAGE, the dies' registers and the map's differ of registers. -/
structure StagesBegun (s t : State) : Prop where
  only : SpOnly s t
  time : t.time = s.time
  boot : t.boot = { s.boot with running := t.boot.running }
  held : t.sp = s.sp
  regs : ∀ {o}, ResetReg o → o ≠ bootPg + 0x100 → rdW t o = rdW s o
  bits : ∀ {n}, n < 28 → rdB t (bootPg + 0x100) n = rdB s (bootPg + 0x100) n

theorem StagesBegun.refl (s : State) : StagesBegun s s := ⟨rfl, rfl, rfl, rfl, fun _ _ => rfl, fun _ => rfl⟩

theorem StagesBegun.trans {s t u : State} (h1 : StagesBegun s t) (h2 : StagesBegun t u) : StagesBegun s u :=
  ⟨h1.only.trans h2.only, h2.time.trans h1.time, by rw [h2.boot, h1.boot], h2.held.trans h1.held, fun ho hne => (h2.regs ho hne).trans (h1.regs ho hne),
    fun hn => (h2.bits hn).trans (h1.bits hn)⟩

theorem FabricOnly.boot_eq {s t : State} (h : FabricOnly s t) : t.boot = s.boot := by rw [h]

theorem FabricStep.stagesBegun {s t : State} (h : FabricStep ResetReg s t) : StagesBegun s t :=
  ⟨h.only.spOnly, h.time, by rw [h.only.boot_eq], h.only.sp_eq, fun ho _ => h.regs ho, fun _ => rdB_of_rdW (h.regs (.inl (by constructor <;> omega))) _⟩

/-- SP_BOOT_STAT's lower bits are none of STAGE's. -/
theorem rdB_setStage (s : State) (x : Nat) {n : Nat} (hn : n < 28) : rdB (setStage s x) (bootPg + 0x100) n = rdB s (bootPg + 0x100) n := by
  rw [rdB, setStage, wrF, rd_wr_same, Nat.testBit_mod_two_pow, putBits_testBit _ _ _ _ _ (by decide), if_neg (by omega)]
  simp only [rdB, Bool.and_eq_right_iff_imp, decide_eq_true_eq]
  exact fun _ => by omega

theorem stagesBegun_setStage (s : State) (x : Nat) : StagesBegun s (setStage s x) :=
  ⟨(windowOnly_wr ..).logOnly.fabricOnly.spOnly, wrF_time .., by rw [setStage, wrF_boot], wrF_sp .., fun _ hne => rdW_wrF_ne _ _ _ _ hne,
    fun hn => rdB_setStage s x hn⟩

/-- The dies' registers are none of SD's. -/
theorem fabric_wrFDie (s : State) {o : Nat} (hi lo f : Nat) (h : ¬ LowReg o) : FabricStep ResetReg s (wrF s o hi lo f) :=
  fabric_wrF s hi lo f fun h' => h h'.low

theorem fabric_portTrain (s : State) (n : Nat) : FabricStep ResetReg s (portTrain s n) := fabric_wrFDie _ _ _ _ lnkPg_not_low

/-- Stage 6c trains the ports that may. -/
theorem fabric_portsTrain (s : State) : FabricStep ResetReg s
    ((List.range 16).foldl (fun s p => if rdB s (lnkPg p + 0x100) 0 && portState s p == 0 then portTrain s p else s) s) :=
  fabric_foldl (fun _ _ _ => .when (fabric_portTrain ..)) s

theorem fabric_stageActs (s : State) (x : Stage) : FabricStep ResetReg s (stageActs s x) := by
  cases x with
  | s5 => exact fabric_foldl (fun u _ _ => fabric_foldl (fun _ _ _ => fabric_wrFDie _ _ _ _ uciPg_not_low) u) s
  | s6a => exact fabric_foldl (fun _ _ _ => fabric_wrFDie _ _ _ _ ctlPg_not_low) s
  | s6c => exact fabric_portsTrain s
  | s6d => exact fabric_wrB s _ _ (not_resetReg (.inr (.inr (by decide))))
  | s1 | s2 | s3 | s4 | s6b | s7 | s8 | s9 => exact .refl ..

/-- A stage of the list begins if it may. -/
def beginStage (s : State) (x : Stage) : State :=
  if mayBegin s.boot x then stageActs (setStage (setBoot s { s.boot with running := s.boot.running ++ [x] }) (stageCode x).1) x else s

/-- The stages in the order in which they are looked at. -/
def startOrder : List Stage := [.s1, .s2, .s3, .s4, .s5, .s6a, .s6b, .s6c, .s6d, .s7, .s8]

theorem beginStages_eq (s : State) : beginStages s = startOrder.foldl beginStage s := rfl

theorem stagesBegun_beginStage (s : State) (x : Stage) : StagesBegun s (beginStage s x) := by
  have hrun (r : List Stage) : StagesBegun s (setBoot s { s.boot with running := r }) := ⟨rfl, rfl, rfl, rfl, fun _ _ => rfl, fun _ => rfl⟩
  rw [beginStage]
  split
  · exact ((hrun _).trans (stagesBegun_setStage ..)).trans (fabric_stageActs ..).stagesBegun
  · exact .refl s

theorem stagesBegun_foldl (l : List Stage) (s : State) : StagesBegun s (l.foldl beginStage s) := by
  induction l generalizing s with
  | nil => exact .refl s
  | cons x l ih => exact (stagesBegun_beginStage s x).trans (ih _)

theorem stagesBegun_beginStages (s : State) : StagesBegun s (beginStages s) := stagesBegun_foldl startOrder s

/-- With no stage done, only stage 1 may begin. -/
theorem beginStage_later {s : State} {x : Stage} (hdone : s.boot.done = []) (hx : x ≠ .s1) : beginStage s x = s := by
  have hmay : mayBegin s.boot x = false := by
    rw [mayBegin, hdone]
    cases x with
    | s1 => exact absurd rfl hx
    | s2 | s3 | s4 | s5 | s6a | s6b | s6c | s6d | s7 | s8 | s9 => simp [stageAfter]
  rw [beginStage, if_neg (by rw [hmay]; decide)]

theorem foldl_beginStage_later {l : List Stage} (hl : ∀ x ∈ l, x ≠ Stage.s1) {s : State} (hdone : s.boot.done = []) : l.foldl beginStage s = s := by
  induction l with
  | nil => rfl
  | cons x l ih =>
    rw [List.foldl_cons, beginStage_later hdone (hl x (List.mem_cons_self ..))]
    exact ih fun y hy => hl y (List.mem_cons_of_mem _ hy)

/-- A cold start begins stage 1 alone. -/
theorem beginStages_cold {s : State} (hdone : s.boot.done = []) (hrun : s.boot.running = []) : (beginStages s).boot.running = [.s1] := by
  have hfirst : beginStage s .s1 = setStage (setBoot s { s.boot with running := [.s1] }) 1 := by
    rw [beginStage, if_pos (by simp [mayBegin, hdone, hrun, stageAfter]), hrun]
    rfl
  have hdone' : (beginStage s .s1).boot.done = [] := by
    rw [(stagesBegun_beginStage ..).boot]
    exact hdone
  rw [beginStages_eq, startOrder, List.foldl_cons, foldl_beginStage_later (by decide) hdone', hfirst, setStage, wrF_boot]
  rfl

/-! ### The stages start (R421, R436) -/

/-- The boot state with which the stages start. -/
def startedBoot (s : State) (warm : Bool) (done : List Stage) : Boot :=
  { s.boot with phase := .starting, origin := s.time, warm := warm, running := [], done := done, bad := false }

/-- SP_STAGE_MS of the stages that are to run. -/
def stageTimesReset (done : List Stage) (s : State) : State :=
  (List.range 12).foldl (fun s n => if done.any (fun x => (stageCode x).2 == n) then s else wr s (bootPg + 0x110 + 4 * n) 0xFFFF) s

/-- SP_BOOT_STAT at a start: DEGRADED, FAIL and READY are clear. -/
def bootStatReset (s : State) : State := wr s (bootPg + 0x100) (rd s (bootPg + 0x100) &&& 0xF0000080)

theorem startStages_eq (s : State) (warm : Bool) (done : List Stage) :
    startStages s warm done = beginStages (stageTimesReset done (bootStatReset (setBoot s (startedBoot s warm done)))) := rfl

theorem fabric_stageTimesReset (done : List Stage) (s : State) :
    FabricStep (fun o => o < bootPg + 0x110 ∨ partPg ≤ o) s (stageTimesReset done s) := by
  rw [stageTimesReset]
  refine fabric_foldl (fun u n hn => ?_) s
  have hlt := List.mem_range.1 hn
  have hnum := pageNumbers
  exact .ite (.refl ..) (fabric_wr _ _ (by omega))

theorem rdB_bootStatReset (s : State) : rdB (bootStatReset s) (bootPg + 0x100) 0 = false := by
  rw [rdB, bootStatReset, rd_wr_same, Nat.testBit_mod_two_pow, Nat.testBit_and]
  simp

/-- What a start of the stages leaves. -/
structure StagesStarted (s t : State) (warm : Bool) (done : List Stage) : Prop where
  only  : SpOnly s t
  time  : t.time = s.time
  boot  : t.boot = { startedBoot s warm done with running := t.boot.running }
  held  : t.sp = s.sp
  parts : ∀ {n}, n < 8 → partState t n = partState s n
  ready : rdB t (bootPg + 0x100) 0 = false

theorem stagesStarted_startStages (s : State) (warm : Bool) (done : List Stage) : StagesStarted s (startStages s warm done) warm done := by
  rw [startStages_eq]
  have hstat : SpOnly s (bootStatReset (setBoot s (startedBoot s warm done))) := rfl
  have hboot : (bootStatReset (setBoot s (startedBoot s warm done))).boot = startedBoot s warm done := wr_boot ..
  have hsp : (bootStatReset (setBoot s (startedBoot s warm done))).sp = s.sp := wr_sp ..
  have htime : (bootStatReset (setBoot s (startedBoot s warm done))).time = s.time := wr_time ..
  have hregs {o : Nat} (ho : o ≠ bootPg + 0x100) : rdW (bootStatReset (setBoot s (startedBoot s warm done))) o = rdW s o := rdW_wr_ne _ _ ho
  have hready := rdB_bootStatReset (setBoot s (startedBoot s warm done))
  generalize bootStatReset (setBoot s (startedBoot s warm done)) = u at *
  have htimes := fabric_stageTimesReset done u
  have hbegun := stagesBegun_beginStages (stageTimesReset done u)
  refine ⟨(hstat.trans htimes.only.spOnly).trans hbegun.only, (hbegun.time.trans htimes.time).trans htime, ?_,
    (hbegun.held.trans htimes.only.sp_eq).trans hsp, fun hn => ?_, ?_⟩
  · rw [hbegun.boot, htimes.only.boot_eq, hboot]
  · have hnum := pageNumbers
    exact rdF_of_rdW ((hbegun.regs (.inr (by omega)) (by omega)).trans ((htimes.regs (.inr (by omega))).trans (hregs (by omega)))) 11 8
  · rw [hbegun.bits (by decide), rdB_of_rdW (htimes.regs (.inl (by omega))), hready]

/-! ### Module reset (R426, R452) -/

/-- The state after the loss of a module reset, before what SP then does. -/
def warmLost (s : State) : State :=
  let u := loseModule false (endPartitions s)
  { u with sp := { u.sp with meas := [] }, prt := { u.prt with running := none } }

theorem Lost.withSp {s t : State} (h : Lost s t) (x : Sp) (q : Parts) : Lost s { t with sp := x, prt := q } :=
  ⟨h.boot, h.time, h.tiles, h.hbm, h.parts⟩

theorem lost_warmLost (s : State) : Lost (endPartitions s) (warmLost s) := (lost_loseModule false (endPartitions s)).withSp ..

/-- HD's boot firmware of slot A, and the epochs. -/
def firmwareReset (s : State) : State := bumpModule (useComps s ((s.sp.inUse.take 2) ++ [compAt s.sp.slotA.comps 2]))

theorem loseWarm_eq (s : State) : loseWarm s = firmwareReset (trialAttempt (applyPending (clearAllCounters (warmLost s))) []) := rfl

/-- What SP then does keeps what is lost. -/
theorem spStep_loseWarm (s : State) : SpStep ResetReg (warmLost s) (loseWarm s) := by
  have hfw (u : State) : SpStep ResetReg u (firmwareReset u) := (spStep_useComps ..).trans (fabric_bumpModule _).sp
  rw [loseWarm_eq]
  exact (((fabric_clearAllCounters (warmLost s)).sp.trans (spStep_applyPending _)).trans (spStep_trialAttempt ..)).trans (hfw _)

theorem warmLost_held (s : State) : (warmLost s).sp.heldReset = s.sp.heldReset ∧ (warmLost s).prt.heldCap = s.prt.heldCap ∧
    (warmLost s).mgt.response = s.mgt.response := by
  obtain ⟨hsp, hcap, hmgt, -⟩ := loseModule_warm (endPartitions s)
  have hend := keepsLow_endPartitions s
  exact ⟨(congrArg Sp.heldReset hsp).trans hend.heldReset, hcap.trans hend.heldCap, (congrArg Mgt.response hmgt).trans hend.response⟩

/-- What a module reset leaves. -/
structure ModuleReset (s t : State) : Prop where
  warm      : WarmStarted s t s.time
  modEn     : t.boot.modEn = s.boot.modEn
  response  : t.mgt.response = s.mgt.response
  heldReset : t.sp.heldReset = s.sp.heldReset
  heldCap   : t.prt.heldCap = s.prt.heldCap

theorem moduleReset_moduleResetNow (s : State) : ModuleReset s (moduleResetNow s) := by
  have hend := keepsLow_endPartitions s
  have hstep : SpStep ResetReg (warmLost s) (clinker (loseWarm s) { cat := 1, code := 4, page := bootPg }) :=
    (spStep_loseWarm s).trans (fabricReset_clinker ..).sp
  have hlost := (lost_warmLost s).step hstep
  obtain ⟨hheld, hcap, hresp⟩ := warmLost_held s
  rw [moduleResetNow]
  generalize clinker (loseWarm s) { cat := 1, code := 4, page := bootPg } = u at *
  have hrails : u.boot.rails = s.boot.rails := by rw [hlost.boot]; exact hend.rails_eq
  rw [hrails]
  have hstart := stagesStarted_startStages u true (if s.boot.rails then [.s1, .s2, .s3, .s4] else [.s1, .s2, .s3])
  have htime : u.time = max s.time s.time := by rw [hlost.time, hend.time, Nat.max_self]
  have hmod : u.boot.modEn = s.boot.modEn := by rw [hlost.boot]; exact hend.modEn_eq
  refine ⟨⟨?_, ?_, ?_, hstart.only.tl_eq.trans hlost.tiles, (congrArg Memory.hbm hstart.only.mem_eq).trans hlost.hbm,
    fun n hn => (hstart.parts hn).trans (hlost.parts n hn), hstart.ready⟩, ?_, ?_, ?_, ?_⟩
  · rw [hstart.boot]
    rfl
  · rw [hstart.boot]
    rfl
  · rw [hstart.boot]
    exact htime
  · rw [hstart.boot]
    exact hmod
  · exact hstart.only.response_eq.trans (hstep.response.trans hresp)
  · exact (congrArg Sp.heldReset hstart.held).trans (hstep.heldReset.trans hheld)
  · exact (congrArg Parts.heldCap hstart.only.prt_eq).trans (hstep.heldCap.trans hcap)

end Sys2Proof.Machine
end

section
/-!
Start-up (17_startup_calibration.md R421 to R426; 20_electrical_mechanical.md R484, R490, R491): cold starts, the stages' ends, the bound, module
reset and MOD_EN. O43.
-/
namespace Sys2Proof.Machine

/-! ### Cold start (R421, R425) -/

/-- The state after the loss of a cold start. -/
def coldLost (s : State) : State :=
  let u := loseModule true s
  { u with sp := { u.sp with meas := [], mismatch := [], heldReset := false, pending := false }, prt := Parts.reset }

theorem beginCold_eq (s : State) : beginCold s = startStages (spStart (trialAttempt (coldLost s) [])) false [] := rfl

theorem startStages_running (s : State) (warm : Bool) : (startStages s warm []).boot.running = [.s1] := by
  have hboot : (stageTimesReset [] (bootStatReset (setBoot s (startedBoot s warm [])))).boot = startedBoot s warm [] := by
    rw [(fabric_stageTimesReset ..).only.boot_eq, bootStatReset, wr_boot]
    rfl
  rw [startStages_eq]
  exact beginStages_cold (by rw [hboot]; rfl) (by rw [hboot]; rfl)

theorem coldStarted_beginCold {s u : State} {now : Nat} (htime : u.time = max s.time now) : ColdStarted s (beginCold u) now := by
  have hlost : Lost u (coldLost u) := (lost_loseModule true u).withSp ..
  have hstep : SpStep ResetReg (coldLost u) (spStart (trialAttempt (coldLost u) [])) := (spStep_trialAttempt ..).trans (spStep_spStart _)
  have hleft := hlost.step hstep
  have hrun := startStages_running (spStart (trialAttempt (coldLost u) [])) false
  have hstart := stagesStarted_startStages (spStart (trialAttempt (coldLost u) [])) false []
  rw [beginCold_eq]
  refine ⟨?_, hrun, ?_, ?_, hstart.only.tl_eq.trans hleft.tiles, (congrArg Memory.hbm hstart.only.mem_eq).trans hleft.hbm,
    fun n hn => (hstart.parts hn).trans (hleft.parts n hn), hstart.ready⟩
  · rw [hstart.boot]
    rfl
  · rw [hstart.boot]
    rfl
  · rw [hstart.boot]
    exact hleft.time.trans htime

section
variable {vinMv now : Nat} {s : State}

theorem coldStart_above (h : 65000 < vinMv) : exec (.coldStart vinMv now) s = .fault .inputAboveMaximum := if_pos h

theorem coldStart_gives (hlo : 44000 ≤ vinMv) (hhi : vinMv ≤ 65000)
    (hphase : s.boot.phase = .off ∨ (s.boot.phase = .tripped ∧ s.boot.keepsOff = false)) :
    Gives (.coldStart vinMv now) s (fun t => ColdStarted s t now) := by
  have hexec : exec (.coldStart vinMv now) s = .next (beginCold (setBoot (tick s now) { s.boot with keepsOff := false })) := by
    show execColdStart vinMv now s = _
    rw [execColdStart, if_neg (by omega), if_neg (by omega)]
    exact if_pos hphase
  exact ⟨_, hexec, coldStarted_beginCold rfl⟩

theorem coldStart_below (h : vinMv < 44000) : exec (.coldStart vinMv now) s = .next (tick s now) := by
  show execColdStart vinMv now s = _
  rw [execColdStart, if_neg (by omega), if_pos h]

theorem inputBackInRange_gives (hlo : 44000 ≤ vinMv) (hhi : vinMv ≤ 59500) (hphase : s.boot.phase = .tripped) (hoff : s.boot.keepsOff = true) :
    Gives (.inputBackInRange vinMv now) s (fun t => ColdStarted s t now) := by
  have hexec : exec (.inputBackInRange vinMv now) s = .next (beginCold (setBoot (tick s now) { s.boot with keepsOff := false })) :=
    if_pos ⟨hphase, hoff, hlo, hhi⟩
  exact ⟨_, hexec, coldStarted_beginCold rfl⟩

theorem inputBackInRange_else (h : s.boot.phase ≠ .tripped ∨ s.boot.keepsOff = false ∨ vinMv < 44000 ∨ 59500 < vinMv) :
    exec (.inputBackInRange vinMv now) s = .next (tick s now) := by
  refine if_neg ?_
  rintro ⟨hphase, hoff, hlo, hhi⟩
  rcases h with h | h | h | h
  · exact h hphase
  · exact absurd hoff (by rw [show (tick s now).boot = s.boot from rfl, h]; decide)
  · omega
  · omega

end

/-! ### What a stage's effect keeps (R422, R428, R429) -/

/-- What the end of a stage needs: the stages done, MOD_EN, the time and its origin, and SP_STAGE_MS. -/
structure StageKept (s t : State) : Prop where
  done   : t.boot.done = s.boot.done
  modEn  : t.boot.modEn = s.boot.modEn
  origin : t.boot.origin = s.boot.origin
  time   : t.time = s.time
  regs   : ∀ {o}, bootPg + 0x110 ≤ o → o < bootPg + 0x140 → rdW t o = rdW s o

theorem StageKept.trans {s t u : State} (h1 : StageKept s t) (h2 : StageKept t u) : StageKept s u :=
  ⟨h2.done.trans h1.done, h2.modEn.trans h1.modEn, h2.origin.trans h1.origin, h2.time.trans h1.time,
    fun ho ho' => (h2.regs ho ho').trans (h1.regs ho ho')⟩

theorem Keeps.stageKept {s t : State} (h : Keeps BootReg s t) : StageKept s t :=
  ⟨h.done_eq, h.modEn_eq, h.origin_eq, h.time, fun ho ho' => h.regs ⟨by omega, ho'⟩⟩

/-- A record's register lies above SP's boot page. -/
theorem keepsBoot_takeRec (s : State) (k temp : Nat) : Keeps BootReg s (takeRec s k temp) :=
  (keeps_setCal s _).trans (keeps_wrF _ _ _ _ (not_bootReg (by
    have hnum := pageNumbers
    omega)))

theorem keepsLow_bumpPartEpoch (s : State) (n : Nat) : Keeps LowReg s (bumpPartEpoch s n) := by
  rw [bumpPartEpoch]
  refine keeps_foldl_mem (fun u pg hpg => keeps_bumpEpoch u (not_lowReg_of_die ?_)) s
  have hle : 0x01000000 ≤ pg := by
    simp only [List.mem_cons, List.not_mem_nil, or_false] at hpg
    rcases hpg with rfl | rfl | rfl | rfl | rfl | rfl | rfl | rfl | rfl <;> exact le_ctlPg ..
  omega

/-- The definition as a function: Lean's own equation has the kernel evaluate the match's argument. -/
theorem bumpStackEpoch_def : bumpStackEpoch = fun s ctl =>
    let s := bumpEpoch (bumpEpoch s (ctlPg ctl 0)) (ctlPg ctl 6)
    match partOfSlice s (ctl / 4) with
    | some p => bumpPartEpoch s p
    | none => s := rfl

theorem keepsLow_failStack (s : State) (ctl : Nat) : Keeps LowReg s (failStack s ctl) := by
  have hpart (u : State) : Keeps LowReg u (match partOfSlice u (ctl / 4) with
      | some p => bumpPartEpoch u p
      | none => u) := by
    split
    · exact keepsLow_bumpPartEpoch ..
    · exact .refl ..
  have hbump (u : State) : Keeps LowReg u (bumpStackEpoch u ctl) := by
    rw [bumpStackEpoch_def]
    exact ((keeps_bumpEpoch u ctlPg_not_low).trans (keeps_bumpEpoch _ ctlPg_not_low)).trans (hpart _)
  exact (((keeps_wrF s _ _ _ ctlPg_not_low).trans (keeps_intSet _ _ ctlPg_not_low)).trans (hbump _)).trans (keepsLow_clinker ..)

section
variable (s : State)

theorem stageKept_bootSlot (b : Bool) : StageKept s (bootSlot s b) := by
  have hslot : StageKept s (wrB s (bootPg + 0x100) 7 b) :=
    ⟨rfl, rfl, rfl, rfl, fun ho _ => rdW_wr_ne _ _ (by omega)⟩
  have huse (u : State) (l : List FwComp) : StageKept u (useComps u l) := (spStep_useComps u l).toKeeps.resetToBoot.stageKept
  rw [bootSlot]
  refine hslot.trans ?_
  split
  · exact (huse ..).trans (keepsBoot_clinker ..).stageKept
  · exact huse ..

theorem keepsBoot_loadConfig : Keeps BootReg s (loadConfig s) := by
  have hbump : Keeps BootReg s (bumpModule s) := (fabric_bumpModule s).toKeeps.resetToBoot
  have happly (b : List Byte) (u : State) : Keeps BootReg u (applyLater (applyNow u b) b) :=
    (fabric_applyNow u b).toKeeps.trans (fabric_applyLater ..).toKeeps.resetToBoot
  have hstarted (u : State) (c : Cells W32) : Keeps BootReg u { u with win := { u.win with climStarted := c } } :=
    ⟨rfl, rfl, rfl, rfl, rfl, rfl, fun _ => rfl⟩
  have hclients (u : State) : Keeps BootReg u { u with win := { u.win with clim := [], climStart := [] } } :=
    ⟨rfl, rfl, rfl, rfl, rfl, rfl, fun _ => rfl⟩
  have hnone (u : State) : Keeps BootReg u { u with sp := { u.sp with policy := none }, win := { u.win with clim := [], climStart := [] } } :=
    ⟨rfl, rfl, rfl, rfl, rfl, rfl, fun _ => rfl⟩
  rw [loadConfig]
  dsimp only
  split
  · exact .ite ((hbump.trans (happly ..)).trans (hstarted ..)) (hbump.trans (hnone _))
  · exact hbump.trans (hclients _)

theorem keepsBoot_uciState (d n st : Nat) : Keeps BootReg s (uciState s d n st) := (keeps_wr s _ uciPg_not_low).toBoot

theorem keepsBoot_trainPairs (fails : List Nat) : Keeps BootReg s (trainPairs s fails) := by
  have hpages (u : State) (n : Nat) : Keeps BootReg u ((pairPages n).foldl (fun s c => intSet (uciState s c.1 c.2 3) (uciPg c.1 c.2) 4) u) :=
    keeps_foldl (fun _ _ => (keepsBoot_uciState ..).trans (keeps_intSet _ _ uciPg_not_low).toBoot) ..
  have hup : Keeps BootReg s ((List.range 4).foldl (fun s d => (List.range 4).foldl (fun s n => uciState s d n 2) s) s) :=
    keeps_foldl (fun _ _ => keeps_foldl (fun _ _ => keepsBoot_uciState ..) ..) ..
  have hrecs (u : State) (f : State → Nat → Nat) : Keeps BootReg u ((List.range 9).foldl (fun s n => if fails.contains n then s
      else takeRec s (recKey 4 n) (f s n)) u) :=
    keeps_foldl (fun _ _ => .unless (keepsBoot_takeRec ..)) ..
  have htrained := (hup.trans (keeps_foldl hpages ((List.range 9).filter (fun n => fails.contains n)) _)).trans
    (hrecs _ fun s n => (pairDies n).foldl (fun m d => max m (rdF s (hrtDPg d + 0x104) 7 0)) 0)
  rw [trainPairs]
  exact .ite htrained (htrained.trans (keeps_markBad _))

theorem keepsBoot_trainStacks (fails : List Nat) : Keeps BootReg s (trainStacks s fails) := by
  have htracked (u : State) (c temp : Nat) : Keeps BootReg u
      (takeRec (takeRec (wrF (wrF u (ctlPg c 6 + 0x100) 31 28 2) (ctlPg c 6 + 0x108) 23 16 temp) (recKey 1 c) temp) (recKey 2 c) temp) :=
    (((keeps_wrF u _ _ _ ctlPg_not_low).trans (keeps_wrF _ _ _ _ ctlPg_not_low)).toBoot.trans (keepsBoot_takeRec ..)).trans (keepsBoot_takeRec ..)
  have hfailed (u : State) (c : Nat) : Keeps BootReg u (markBad (failStack u c)) := (keepsLow_failStack ..).toBoot.trans (keeps_markBad _)
  rw [trainStacks]
  refine keeps_foldl (fun u c => ?_) ..
  exact .ite (keeps_markBad u) (.ite (hfailed u c) (htracked u c _))

theorem keepsBoot_loadMap (bad : Bool) : Keeps BootReg s (loadMap s bad) := by
  have hftl (u : State) (n : Nat) (b : Bool) : Keeps BootReg u (wrB u (ftl0Pg + 0x104) n b) := keeps_wrB _ _ _ (not_bootReg (by decide))
  have hmap : Keeps BootReg s (wrB (wrB s (ftl0Pg + 0x104) 2 false) (ftl0Pg + 0x104) 0 true) := (hftl ..).trans (hftl ..)
  rw [loadMap]
  refine .ite ((hmap.trans (keeps_setMem _ _)).trans (keepsBoot_clinker ..)) hmap

/-- The effect of a stage keeps the stages' times and what is done. -/
theorem stageKept_stageEffect (r : StageReport) : StageKept s (stageEffect s r) := by
  rw [stageEffect]
  split
  · exact stageKept_bootSlot ..
  · exact (keepsBoot_loadConfig s).stageKept
  · have hrails : StageKept s (setBoot s { s.boot with rails := true }) := ⟨rfl, rfl, rfl, rfl, fun _ _ => rfl⟩
    exact hrails.trans (keeps_foldl (fun u d => keeps_wrF u _ _ _ hrtDPg_not_low) ..).toBoot.stageKept
  · exact (keepsBoot_trainPairs ..).stageKept
  · exact (keepsBoot_trainStacks ..).stageKept
  · have hcores : Keeps BootReg s (wr s (bootPg + 0x158) (min r.hdCores 68)) := keeps_wr _ _ (not_bootReg (by decide))
    exact Keeps.stageKept (.ite (hcores.trans (keeps_markBad _)) hcores)
  · exact (keepsBoot_loadMap ..).stageKept
  · exact (keepsBoot_mapTiles ..).stageKept
  · exact ⟨rfl, rfl, rfl, rfl, fun _ _ => rfl⟩
  · exact (Keeps.refl BootReg s).stageKept

end

end Sys2Proof.Machine
end

section
/-!
READY, the stages' ends, the bound, module reset and MOD_EN: the second half of O43.
-/
namespace Sys2Proof.Machine

/-! ### READY (R423, R436) -/

/-- Stage 9 with its time. -/
def readyTimed (s : State) : State := stageTime (setStage s 9) .s9

/-- The boot state of READY. -/
def readyPhase (s : State) : State := setBoot s { s.boot with phase := .ready, running := [], done := s.boot.done ++ [.s9] }

/-- READY, and DEGRADED where a unit is bad. -/
def readyStat (s : State) : State := wrB (wrB s (bootPg + 0x100) 0 true) (bootPg + 0x100) 1 s.boot.bad

/-- READY's state before the records and counts are taken. -/
def readyShown (s : State) : State :=
  let u := readyStat (readyPhase (readyTimed s))
  intSet u bootPg (if u.boot.bad then 3 else 1)

theorem setReady_eq (s : State) : setReady s = runHeld (clinker (readyCounts (firstRecs (readyShown s))) { cat := 1, code := 2, page := bootPg }) := rfl

theorem keepsBoot_firstRecs (s : State) : Keeps BootReg s (firstRecs s) := by
  have hadd (u : State) (k temp : Nat) : Keeps BootReg u (if (calRec u k).isSome then u else takeRec u k temp) := .unless (keepsBoot_takeRec ..)
  rw [firstRecs]
  exact (keeps_foldl (fun _ _ => hadd ..) ..).trans (hadd ..)

theorem keepsBoot_readyCounts (s : State) : Keeps BootReg s (readyCounts s) :=
  (keeps_wr s _ (not_bootReg (.inr (by decide)))).trans (keeps_wr _ _ (not_bootReg (.inr (by decide))))

/-- What READY shows is kept as the records and counts are taken and the held request runs. -/
theorem keepsBoot_setReady (s : State) : Keeps BootReg (readyShown s) (setReady s) :=
  (((keepsBoot_firstRecs _).trans (keepsBoot_readyCounts _)).trans (keepsBoot_clinker ..)).trans (keepsBoot_runHeld _)

section
variable (s : State)

theorem rdW_setBoot (b : Boot) (o : Nat) : rdW (setBoot s b) o = rdW s o := rfl

theorem readyPhase_bad : (readyPhase s).boot.bad = s.boot.bad := rfl

theorem readyTimed_boot : (readyTimed s).boot = s.boot := by rw [readyTimed, stageTime, wr_boot, setStage, wrF_boot]

/-- READY's boot state. -/
theorem readyShown_boot : (readyShown s).boot = { s.boot with phase := .ready, running := [], done := s.boot.done ++ [.s9] } := by
  rw [readyShown, intSet_boot, readyStat, wrB_boot, wrB_boot, readyPhase, readyTimed_boot]
  rfl

theorem readyStat_boot : (readyStat s).boot = s.boot := by rw [readyStat, wrB_boot, wrB_boot]

theorem rdB_readyStat : rdB (readyStat s) (bootPg + 0x100) 0 = true ∧ rdB (readyStat s) (bootPg + 0x100) 1 = s.boot.bad := by
  rw [readyStat, rdB_wrB_other _ _ _ (by decide) (by decide), rdB_wrB _ _ _ _ (by decide), rdB_wrB _ _ _ _ (by decide)]
  exact ⟨rfl, rfl⟩

theorem readyShown_stat : rdW (readyShown s) (bootPg + 0x100) = rdW (readyStat (readyPhase (readyTimed s))) (bootPg + 0x100) :=
  rdW_intSet_page _ _ _ (by decide)

/-- SP_STAGE_MS of the other stages stays; that of stage 9 is written. -/
theorem readyTimed_times {n : Nat} (hn : n < 12) : rd (readyTimed s) (bootPg + 0x110 + 4 * n) =
    if n = 11 then min ((s.time - s.boot.origin) / 1000000) 0xFFFE else rd s (bootPg + 0x110 + 4 * n) := by
  rw [readyTimed, stageTime]
  split
  · next h =>
    subst h
    rw [stageCode, rd_wr_same, setStage, wrF_time, wrF_boot]
    omega
  · rw [stageCode, rd_of_rdW (rdW_wr_ne _ _ (by omega)), setStage, rd_of_rdW (rdW_wrF_ne _ _ _ _ (by omega))]

theorem readyShown_times {o : Nat} (ho : bootPg + 0x104 ≤ o) : rdW (readyShown s) o = rdW (readyTimed s) o := by
  have hnum := pageNumbers
  rw [readyShown, rdW_intSet_ne _ _ (by omega), readyStat, rdW_wrB_ne _ _ _ (by omega), rdW_wrB_ne _ _ _ (by omega), readyPhase, rdW_setBoot]

theorem setReady_shows : (setReady s).boot.phase = .ready ∧ (setReady s).boot.running = [] ∧
    (setReady s).boot.done = s.boot.done ++ [.s9] ∧ rdB (setReady s) (bootPg + 0x100) 0 = true ∧
    rdB (setReady s) (bootPg + 0x100) 1 = s.boot.bad := by
  have h := keepsBoot_setReady s
  have hstat : rdW (setReady s) (bootPg + 0x100) = rdW (readyShown s) (bootPg + 0x100) := h.regs ⟨by omega, by omega⟩
  refine ⟨h.phase_eq.trans ?_, h.running_eq.trans ?_, h.done_eq.trans ?_, ?_, ?_⟩
  · exact congrArg Boot.phase (readyShown_boot s)
  · exact congrArg Boot.running (readyShown_boot s)
  · exact congrArg Boot.done (readyShown_boot s)
  · rw [rdB_of_rdW (hstat.trans (readyShown_stat s)), (rdB_readyStat _).1]
  · rw [rdB_of_rdW (hstat.trans (readyShown_stat s)), (rdB_readyStat _).2]
    rw [readyPhase_bad, readyTimed_boot]

theorem setReady_times {n : Nat} (hn : n < 12) : rd (setReady s) (bootPg + 0x110 + 4 * n) =
    if n = 11 then min ((s.time - s.boot.origin) / 1000000) 0xFFFE else rd s (bootPg + 0x110 + 4 * n) := by
  have hreg : rdW (setReady s) (bootPg + 0x110 + 4 * n) = rdW (readyShown s) (bootPg + 0x110 + 4 * n) :=
    (keepsBoot_setReady s).regs ⟨by omega, by omega⟩
  rw [rd_of_rdW (hreg.trans (readyShown_times s (by omega))), readyTimed_times s hn]

end

/-! ### The end of a stage (R422, R424) -/

/-- Start-up that stops leaves the units. -/
theorem failBoot_stops (s : State) : (failBoot s).boot.phase = .stopped ∧ (failBoot s).boot.running = [] ∧
    rdB (failBoot s) (bootPg + 0x100) 2 = true ∧ (failBoot s).tl = s.tl ∧ (failBoot s).mem = s.mem := by
  have hlog := logOnly_clinker (intSet (wrB (setBoot s { s.boot with phase := .stopped, running := [] }) (bootPg + 0x100) 2 true) bootPg 4)
    { cat := 1, code := 3, page := bootPg }
  rw [failBoot]
  refine ⟨?_, ?_, ?_, hlog.tl_eq.trans ?_, hlog.mem_eq.trans ?_⟩
  · rw [hlog.boot_eq, intSet_boot, wrB_boot]
    rfl
  · rw [hlog.boot_eq, intSet_boot, wrB_boot]
    rfl
  · rw [rdB_of_rdW (rdW_clinker_ne _ _ (not_isLogReg (by decide))), rdB_of_rdW (rdW_intSet_page _ _ _ (by decide)), rdB_wrB _ _ _ _ (by decide)]
  · rw [intSet_tl, wrB_tl]
    rfl
  · rw [intSet_mem, wrB_mem]
    rfl

/-- Every stage has a register of its own among the twelve. -/
theorem stageCode_lt (x : Stage) : (stageCode x).2 < 12 := by cases x <;> decide

/-- The stage is done. -/
def stageOver (s : State) (x : Stage) : State :=
  setBoot s { s.boot with running := s.boot.running.filter (fun y => y != x), done := s.boot.done ++ [x] }

/-- The state in which a stage has ended: its time, its effect and its entry. -/
def stageEnded (s : State) (r : StageReport) : State :=
  clinker (stageEffect (stageTime (stageOver s r.stage) r.stage) r) { cat := 1, code := 1, page := bootPg, sub := (stageCode r.stage).2 }

/-- Standby, READY, or the stages that begin. -/
def stagesGoOn (x : Stage) (s : State) : Out :=
  if x = .s3 ∧ s.boot.modEn = false then .next (setStage (setBoot s { s.boot with phase := .standby }) 0xA)
  else if stagesDone s.boot then .next (setReady s)
  else .next (beginStages s)

section
variable {report : StageReport} {now : Nat} {s : State}

/-- What the end of a stage leaves before others begin. -/
theorem stageEnded_left (s : State) (r : StageReport) : (stageEnded s r).boot.done = s.boot.done ++ [r.stage] ∧
    (stageEnded s r).boot.modEn = s.boot.modEn ∧ (stageEnded s r).boot.origin = s.boot.origin ∧ (stageEnded s r).time = s.time ∧
    rd (stageEnded s r) (bootPg + 0x110 + 4 * (stageCode r.stage).2) = min ((s.time - s.boot.origin) / 1000000) 0xFFFE := by
  have hidx := stageCode_lt r.stage
  have hkept := (stageKept_stageEffect (stageTime (stageOver s r.stage) r.stage) r).trans
    (keepsBoot_clinker _ { cat := 1, code := 1, page := bootPg, sub := (stageCode r.stage).2 }).stageKept
  rw [← stageEnded] at hkept
  refine ⟨hkept.done, hkept.modEn, hkept.origin, hkept.time, ?_⟩
  have hreg := hkept.regs (o := bootPg + 0x110 + 4 * (stageCode r.stage).2) (by omega) (by omega)
  rw [rd_of_rdW hreg, stageTime, rd_wr_same]
  show min ((s.time - s.boot.origin) / 1000000) 0xFFFE % _ = _
  omega

theorem stageFails_none (hok : report.failed = false ∨ (report.stage ≠ .s2 ∧ report.stage ≠ .s4)) (s : State) : stageFails s report = none := by
  rw [stageFails]
  split
  · rfl
  · split
    · next h => exact absurd h (hok.resolve_left (by assumption)).1
    · next h => exact absurd h (hok.resolve_left (by assumption)).2
    · rfl

/-- What a report of a running stage does. -/
def stageReported (r : StageReport) (s : State) : Out :=
  match stageFails s r with
  | some s' => .next s'
  | none => stagesGoOn r.stage (stageEnded s r)

section
variable (hphase : s.boot.phase = .starting) (hrun : report.stage ∈ s.boot.running)
include hphase hrun

theorem exec_stageDone : exec (.startupStageDone report now) s = stageReported report (tick s now) := by
  have hgo : ¬ ((tick s now).boot.phase ≠ .starting ∨ (tick s now).boot.running.contains report.stage = false) := by
    show ¬ (s.boot.phase ≠ .starting ∨ s.boot.running.contains report.stage = false)
    simp [hphase, hrun]
  exact (if_neg hgo).trans rfl

theorem stageDone_gives (hok : report.failed = false ∨ (report.stage ≠ .s2 ∧ report.stage ≠ .s4)) : Gives (.startupStageDone report now) s (fun t =>
      report.stage ∈ t.boot.done ∧ rd t (bootPg + 0x110 + 4 * (stageCode report.stage).2) =
        min ((max s.time now - s.boot.origin) / 1000000) 0xFFFE ∧
      (report.stage = .s3 → s.boot.modEn = false → t.boot.phase = .standby ∧ rdF t (bootPg + 0x100) 31 28 = 0xA) ∧
      ((report.stage ≠ .s3 ∨ s.boot.modEn = true) → (∀ y ∈ stageAfter .s9, y ∈ s.boot.done ∨ y = report.stage) →
        t.boot.phase = .ready ∧ rdB t (bootPg + 0x100) 0 = true)) := by
  have hidx := stageCode_lt report.stage
  have hnum := pageNumbers
  obtain ⟨hdone, hmod, horigin, htime, hms⟩ := stageEnded_left (tick s now) report
  have hexec := exec_stageDone (now := now) hphase hrun
  rw [stageReported, stageFails_none hok] at hexec
  dsimp only at hexec
  rw [stagesGoOn] at hexec
  generalize stageEnded (tick s now) report = u at *
  have hin : report.stage ∈ u.boot.done := by rw [hdone]; exact List.mem_append_right _ (List.mem_singleton.2 rfl)
  split at hexec
  · next h =>
    have hmod' : s.boot.modEn = false := hmod.symm.trans h.2
    refine ⟨_, hexec, ?_, ?_, fun _ _ => ⟨?_, ?_⟩, fun hor => ?_⟩
    · rw [setStage, wrF_boot]
      exact hin
    · rw [setStage, rd_of_rdW (rdW_wrF_ne _ _ _ _ (by omega)), rd_of_rdW (rdW_setBoot ..)]
      exact hms
    · rw [setStage, wrF_boot]
      rfl
    · rw [setStage, rdF_wrF _ _ _ _ _ (by decide) (by decide)]
      rfl
    · rcases hor with hor | hor
      · exact absurd h.1 hor
      · exact absurd (hor.symm.trans hmod') (by decide)
  · next h =>
    have hstandby : report.stage = .s3 → s.boot.modEn = false → False := fun h3 hm => h ⟨h3, hmod.trans hm⟩
    split at hexec
    · obtain ⟨hready, -, hdone', hbit, -⟩ := setReady_shows u
      refine ⟨_, hexec, ?_, ?_, fun h3 hm => (hstandby h3 hm).elim, fun _ _ => ⟨hready, hbit⟩⟩
      · rw [hdone']
        exact List.mem_append_left _ hin
      · rw [setReady_times u hidx]
        split
        · rw [htime, horigin]
          rfl
        · exact hms
    · next hnot =>
      have hbegun := stagesBegun_beginStages u
      refine ⟨_, hexec, ?_, ?_, fun h3 hm => (hstandby h3 hm).elim, fun _ hall => absurd ?_ hnot⟩
      · rw [hbegun.boot]
        exact hin
      · rw [rd_of_rdW (hbegun.regs (.inl ⟨by omega, by omega⟩) (by omega))]
        exact hms
      · rw [stagesDone, List.all_eq_true]
        intro y hy
        rw [List.contains_iff_mem, hdone, List.mem_append, List.mem_singleton]
        exact hall y hy

/-- A stage 2 or 4 that fails stops start-up (R424). -/
theorem stageDone_fails (hfailed : report.failed = true) (hstage : report.stage = .s2 ∨ report.stage = .s4) :
    Gives (.startupStageDone report now) s (fun t =>
      t.boot.phase = .stopped ∧ t.boot.running = [] ∧ rdB t (bootPg + 0x100) 2 = true ∧ t.tl = s.tl ∧ t.mem = s.mem) := by
  have hexec := exec_stageDone (now := now) hphase hrun
  obtain ⟨u, hfails, htl, hmem⟩ : ∃ u, stageFails (tick s now) report = some (failBoot u) ∧ u.tl = s.tl ∧ u.mem = s.mem := by
    have hnot : ¬ report.failed = false := by simp [hfailed]
    rw [stageFails, if_neg hnot]
    rcases hstage with h | h <;> rw [h]
    · exact ⟨_, rfl, (logOnly_clinker ..).tl_eq, (logOnly_clinker ..).mem_eq⟩
    · exact ⟨_, rfl, rfl, rfl⟩
  rw [stageReported, hfails] at hexec
  obtain ⟨hphase', hrun', hbit, htl', hmem'⟩ := failBoot_stops u
  exact ⟨_, hexec, hphase', hrun', hbit, htl'.trans htl, hmem'.trans hmem⟩

end

end

/-! ### The bound (R423) -/

theorem boundExpire_gives {now : Nat} {s : State} (hphase : s.boot.phase = .starting) (hdone : .s3 ∈ s.boot.done)
    (htime : s.boot.origin + 6000000000 ≤ max s.time now) : Gives (.startupBoundExpire now) s (fun t => t.boot.phase = .ready ∧
      t.boot.running = [] ∧ rdB t (bootPg + 0x100) 0 = true ∧ rdB t (bootPg + 0x100) 1 = true) := by
  have hgo : ¬ ((tick s now).boot.phase ≠ .starting ∨ (tick s now).boot.done.contains .s3 = false ∨
      (tick s now).time < (tick s now).boot.origin + 6000000000) := by
    show ¬ (s.boot.phase ≠ .starting ∨ s.boot.done.contains .s3 = false ∨ max s.time now < s.boot.origin + 6000000000)
    simp only [hphase, ne_eq, not_true_eq_false, false_or, not_or, Bool.not_eq_false, List.contains_iff_mem]
    exact ⟨hdone, by omega⟩
  obtain ⟨hready, hrun, -, hbit, hbad⟩ := setReady_shows (markBad (([Stage.s5, .s6a, .s6b, .s6c, .s6d, .s7, .s8].filter
    (fun x => !((tick s now).boot.done.contains x))).foldl endStage (tick s now)))
  exact ⟨_, (if_neg hgo).trans rfl, hready, hrun, hbit, hbad⟩

/-! ### MODULE_RESET (R421) -/

section
variable {r : RegWrite} {s : State}

/-- SP_RST_REQ with its control word's fields. -/
def resetAsked (s : State) (r : RegWrite) : State := wr (tick s r.now) (bootPg + 0x104) (r.val.toNat &&& 3)

theorem and_three (v : Nat) : v &&& 3 = v % 4 := Nat.and_two_pow_sub_one_eq_mod v 2

theorem resetAsked_reads : (∀ n, rdB (resetAsked s r) (sp0Pg + 0x100) n = rdB s (sp0Pg + 0x100) n) ∧ (resetAsked s r).boot = s.boot ∧
    (resetAsked s r).time = max s.time r.now :=
  ⟨fun n => rdB_of_rdW (rdW_wr_ne (tick s r.now) _ (by decide)) n, wr_boot .., wr_time ..⟩

theorem spSafe_resetAsked : spSafe (resetAsked s r) = spSafe s := resetAsked_reads.1 10
theorem spRestarting_resetAsked : spRestarting (resetAsked s r) = spRestarting s := resetAsked_reads.1 9
theorem canReset_resetAsked : canReset (resetAsked s r) = canReset s := by rw [canReset, resetAsked_reads.2.1, canReset]

variable (hoff : r.off.toNat = bootPg + 0x104) (hgo : r.val.toNat.testBit 31 = true)
include hoff hgo

theorem exec_moduleReset : exec (.moduleReset r) s = .next (if r.val.toNat % 4 = 1 then requestReset (resetAsked s r) else resetAsked s r) := by
  have hrow : ¬ (r.off.toNat ≠ bootPg + 0x104 ∨ r.val.toNat.testBit 31 = false) := by simp [hoff, hgo]
  exact (if_neg hrow).trans rfl

theorem moduleReset_gives (hop : r.val.toNat % 4 = 1) (hsafe : spSafe s = false) (hrun : spRestarting s = false) (hcan : canReset s = true) :
    Gives (.moduleReset r) s (fun t => WarmStarted s t r.now) := by
  have hexec := exec_moduleReset (s := s) hoff hgo
  have hnot : ¬ (spSafe (resetAsked s r) = true ∨ canReset (resetAsked s r) = false) := by
    simp [spSafe_resetAsked, canReset_resetAsked, hsafe, hcan]
  rw [if_pos hop, requestReset, if_neg hnot, if_neg (by rw [spRestarting_resetAsked, hrun]; decide)] at hexec
  obtain ⟨hphase, hdone, horigin, htl, hhbm, hparts, hready⟩ := (moduleReset_moduleResetNow (resetAsked s r)).warm
  refine ⟨_, hexec, hphase, ?_, ?_, htl, hhbm, hparts, hready⟩
  · rw [hdone, resetAsked_reads.2.1]
  · rw [horigin, resetAsked_reads.2.2, Nat.max_self]

theorem moduleReset_held (hop : r.val.toNat % 4 = 1) (hsafe : spSafe s = false) (hrun : spRestarting s = true) (hcan : canReset s = true) :
    Gives (.moduleReset r) s (fun t => t.sp = { s.sp with heldReset := true } ∧ t.boot = s.boot ∧ t.tl = s.tl ∧ t.mem = s.mem) := by
  have hexec := exec_moduleReset (s := s) hoff hgo
  have hnot : ¬ (spSafe (resetAsked s r) = true ∨ canReset (resetAsked s r) = false) := by
    simp [spSafe_resetAsked, canReset_resetAsked, hsafe, hcan]
  rw [if_pos hop, requestReset, if_neg hnot, if_pos (by rw [spRestarting_resetAsked, hrun])] at hexec
  exact ⟨_, hexec, rfl, rfl, rfl, rfl⟩

theorem moduleReset_other (hop : r.val.toNat % 4 ≠ 1) :
    Gives (.moduleReset r) s (fun t => WindowOnly s t ∧ rd t (bootPg + 0x104) = r.val.toNat % 4) := by
  have hexec := exec_moduleReset (s := s) hoff hgo
  rw [if_neg hop] at hexec
  refine ⟨_, hexec, (windowOnly_tick ..).trans (windowOnly_wr ..), ?_⟩
  rw [resetAsked, rd_wr_same, and_three]
  omega

end

/-! ### MOD_EN (R491) -/

section
variable {now : Nat} {s : State}

/-- Standby as MOD_EN's fall shows it. -/
def standbyShown (s : State) : State :=
  setStage (setBoot s { s.boot with phase := .standby, rails := false, running := [], done := [.s1, .s2, .s3] }) 0xA

/-- Standby keeps what is lost. -/
theorem Lost.standby {s u : State} (h : Lost s u) : (standbyShown (bootStatReset u)).tl = Tiles.reset ∧
    (standbyShown (bootStatReset u)).mem.hbm = [] ∧ (∀ n < 8, partState (standbyShown (bootStatReset u)) n = 0) ∧
    (standbyShown (bootStatReset u)).boot = { s.boot with phase := .standby, rails := false, running := [], done := [.s1, .s2, .s3] } ∧
    rdF (standbyShown (bootStatReset u)) (bootPg + 0x100) 31 28 = 0xA := by
  have hnum := pageNumbers
  refine ⟨?_, ?_, fun n hn => ?_, ?_, ?_⟩
  · rw [standbyShown, setStage, wrF_tl]
    show (bootStatReset u).tl = _
    rw [bootStatReset, wr_tl, h.tiles]
  · rw [standbyShown, setStage, wrF_mem]
    show (bootStatReset u).mem.hbm = _
    rw [bootStatReset, wr_mem, h.hbm]
  · refine Eq.trans (rdF_of_rdW ?_ 11 8) (h.parts n hn)
    rw [standbyShown, setStage, rdW_wrF_ne _ _ _ _ (by omega), rdW_setBoot, bootStatReset, rdW_wr_ne _ _ (by omega)]
  · rw [standbyShown, setStage, wrF_boot, bootStatReset, wr_boot, h.boot]
    rfl
  · rw [standbyShown, setStage, rdF_wrF _ _ _ _ _ (by decide) (by decide)]
    rfl

/-- The state in which MOD_EN has fallen. -/
def modEnFallen (s : State) (now : Nat) : State := setBoot (tick s now) { s.boot with modEn := false }

theorem modEnFall_gives (hcan : canReset s = true) : Gives (.modEnFall now) s (fun t => t.boot.phase = .standby ∧ t.boot.rails = false ∧
    t.boot.modEn = false ∧ t.boot.done = [.s1, .s2, .s3] ∧ rdF t (bootPg + 0x100) 31 28 = 0xA ∧ t.tl = Tiles.reset ∧ t.mem.hbm = [] ∧
    ∀ n < 8, partState t n = 0) := by
  have hexec : exec (.modEnFall now) s = .next (clinker (applyPending (standbyShown (bootStatReset
      (loseModule false (endPartitions (modEnFallen s now)))))) { cat := 1, code := 5, page := bootPg }) := if_pos hcan
  have hmod : (endPartitions (modEnFallen s now)).boot.modEn = false := (keepsLow_endPartitions _).modEn_eq
  obtain ⟨htl, hhbm, hparts, hboot, hstage⟩ := (lost_loseModule false (endPartitions (modEnFallen s now))).standby
  generalize standbyShown (bootStatReset (loseModule false (endPartitions (modEnFallen s now)))) = u at *
  have hstep : SpStep ResetReg u (clinker (applyPending u) { cat := 1, code := 5, page := bootPg }) :=
    (spStep_applyPending u).trans (fabricReset_clinker ..).sp
  refine ⟨_, hexec, hstep.phase_eq.trans (by rw [hboot]), hstep.rails_eq.trans (by rw [hboot]), hstep.modEn_eq.trans (by rw [hboot, hmod]),
    hstep.done_eq.trans (by rw [hboot]), ?_, hstep.only.tl_eq.trans htl, (congrArg Memory.hbm hstep.only.mem_eq).trans hhbm, fun n hn => ?_⟩
  · exact (rdF_of_rdW (hstep.regs (.inl ⟨by omega, by omega⟩)) _ _).trans hstage
  · exact (rdF_of_rdW (hstep.regs (.inr ⟨by omega, by omega⟩)) _ _).trans (hparts n hn)

theorem modEnRise_gives (hphase : s.boot.phase = .standby) : Gives (.modEnRise now) s (fun t => WarmStarted s t now ∧ t.boot.modEn = true) := by
  have hexec : exec (.modEnRise now) s = .next (moduleResetNow (setBoot (tick s now) { s.boot with modEn := true })) := if_pos hphase
  obtain ⟨⟨hph, hdone, horigin, htl, hhbm, hparts, hready⟩, hmod, -⟩ :=
    moduleReset_moduleResetNow (setBoot (tick s now) { s.boot with modEn := true })
  refine ⟨_, hexec, ⟨hph, hdone, ?_, htl, hhbm, hparts, hready⟩, hmod⟩
  rw [horigin, Nat.max_self]
  rfl

theorem modEnRise_else (hphase : s.boot.phase ≠ .standby) :
    Gives (.modEnRise now) s (fun t => t = { tick s now with boot := { s.boot with modEn := true } }) :=
  ⟨_, (if_neg hphase).trans rfl, rfl⟩

end

/-- Settles O43: cold starts, the ends of stages, the bound, module resets and MOD_EN. -/
theorem startUp : Obligations.StartUp := by
  unfold Obligations.StartUp
  exact ⟨fun vinMv now s => ⟨coldStart_above, coldStart_gives, coldStart_below, inputBackInRange_gives, inputBackInRange_else⟩,
    fun report now s hphase hrun => ⟨stageDone_gives hphase hrun, stageDone_fails hphase hrun⟩, fun now s => boundExpire_gives,
    fun r s hoff hgo => ⟨moduleReset_gives hoff hgo, moduleReset_held hoff hgo, moduleReset_other hoff hgo⟩,
    fun now s => ⟨modEnFall_gives, modEnRise_gives, modEnRise_else⟩⟩

end Sys2Proof.Machine
end

section
/-!
Requests over the management bus (18_safety_security_clinker.md R440, R443, R446, R454 to R457, R463, R468). O46.
-/
namespace Sys2Proof.Machine

/-! ### Answers -/

/-- The state with an answer, before it is counted. -/
def answerSet (s : State) (code : Nat) (data : List Byte) : State :=
  { s with free := s.free + 1, mgt := { s.mgt with response := BitVec.ofNat 8 code :: data } }

/-- The registers that an answer changes: management's counts and the time that it took. -/
def IsAnswerReg (o : Nat) : Prop := o = mgtPg + 0x10C ∨ o = mgtPg + 0x110 ∨ o = mgtPg + 0x118

section
variable (s : State) (code : Nat) (data : List Byte)

theorem mgtReply_cases : ∃ v, mgtReply s code data = wr (inc (answerSet s code data) (mgtPg + 0x10C)) (mgtPg + 0x118) v ∨
    mgtReply s code data = inc (wr (inc (answerSet s code data) (mgtPg + 0x10C)) (mgtPg + 0x118) v) (mgtPg + 0x110) := by
  by_cases hcode : code = 0
  · exact ⟨_, .inl (if_pos hcode)⟩
  · exact ⟨_, .inr (if_neg hcode)⟩

theorem windowOnly_mgtReply : WindowOnly (answerSet s code data) (mgtReply s code data) := by
  obtain ⟨v, h | h⟩ := mgtReply_cases s code data <;> rw [h]
  · exact (windowOnly_inc ..).trans (windowOnly_wr ..)
  · exact ((windowOnly_inc ..).trans (windowOnly_wr ..)).trans (windowOnly_inc ..)

theorem rdW_mgtReply {o : Nat} (ho : ¬ IsAnswerReg o) : rdW (mgtReply s code data) o = rdW s o := by
  simp only [IsAnswerReg, not_or] at ho
  obtain ⟨h1, h2, h3⟩ := ho
  obtain ⟨v, h | h⟩ := mgtReply_cases s code data <;> rw [h]
  · rw [rdW_wr_ne _ _ h3, rdW_inc_ne _ h1]
    rfl
  · rw [rdW_inc_ne _ h2, rdW_wr_ne _ _ h3, rdW_inc_ne _ h1]
    rfl

theorem mgtReply_mgt : (mgtReply s code data).mgt = { s.mgt with response := BitVec.ofNat 8 code :: data } := by
  rw [windowOnly_mgtReply s code data]
  rfl

/-- What an answer leaves of the rest of the module. -/
structure AnswerKept (s t : State) : Prop where
  sp     : t.sp = s.sp
  boot   : t.boot = s.boot
  tl     : t.tl = s.tl
  mem    : t.mem = s.mem
  hrt    : t.hrt = s.hrt
  cln    : t.cln = s.cln
  events : t.mgt.events = s.mgt.events
  regs   : ∀ {o}, ¬ IsAnswerReg o → rdW t o = rdW s o

theorem answerKept_mgtReply : AnswerKept s (mgtReply s code data) := by
  have h := windowOnly_mgtReply s code data
  refine ⟨?_, ?_, ?_, ?_, ?_, ?_, ?_, fun ho => rdW_mgtReply s code data ho⟩ <;> rw [h] <;> rfl

theorem answered_mgtReply : Answered (mgtReply s 0 data) data := by
  rw [Answered, mgtReply_mgt]
  rfl

end

/-- An error's code is not 0. -/
theorem mgtError_eq (s : State) : ∃ n, n < 255 ∧ mgtError s = mgtReply { s with free := s.free + 1 } (1 + n) [] :=
  ⟨_, Nat.mod_lt _ (by decide), rfl⟩

theorem refused_mgtError (s : State) : Refused (mgtError s) := by
  obtain ⟨n, hn, h⟩ := mgtError_eq s
  rw [h, Refused, mgtReply_mgt]
  refine ⟨_, rfl, fun h0 => ?_⟩
  have hval := congrArg BitVec.toNat h0
  rw [BitVec.toNat_ofNat, show (0 : Byte).toNat = 0 from rfl] at hval
  omega

theorem answerKept_mgtError (s : State) : AnswerKept s (mgtError s) := by
  obtain ⟨n, -, h⟩ := mgtError_eq s
  obtain ⟨hsp, hboot, htl, hmem, hhrt, hcln, hevents, hregs⟩ := answerKept_mgtReply { s with free := s.free + 1 } (1 + n) []
  rw [h]
  exact ⟨hsp, hboot, htl, hmem, hhrt, hcln, hevents, fun ho => hregs ho⟩

/-- The registers below management's page and its first are not an answer's. -/
theorem not_isAnswerReg {o : Nat} (h : o < mgtPg + 0x10C) : ¬ IsAnswerReg o := by
  rintro (he | he | he) <;> omega

/-! ### While SP restarts and in hold-up (R440, R463) -/

theorem mgtRequest_notReady {s : State} (h : spRestarting s = true ∨ s.boot.phase = .holdup) (now : Nat) (f : State → State) :
    mgtRequest (tick s now) f = mgtReply (tick s now) 4 [] := if_pos h

theorem mgtRequest_open {s : State} (h : MgtOpen s) (now : Nat) (f : State → State) : mgtRequest (tick s now) f = f (tick s now) := by
  obtain ⟨hrun, hsafe, hphase⟩ := h
  have hnot : ¬ (spRestarting (tick s now) = true ∨ (tick s now).boot.phase = .holdup) := by
    rintro (h | h)
    · exact absurd (hrun.symm.trans h) (by decide)
    · exact hphase h
  have hsafe' : ¬ spSafe (tick s now) = true := fun h => absurd (hsafe.symm.trans h) (by decide)
  rw [mgtRequest, if_neg hnot, if_neg hsafe']

theorem notReady_gives {s : State} {c : Instr} {now : Nat} {f : State → State} (h : spRestarting s = true ∨ s.boot.phase = .holdup)
    (hexec : exec c s = .next (mgtRequest (tick s now) f)) : Gives c s (fun t =>
      t.mgt = { s.mgt with response := [4] } ∧ t.sp = s.sp ∧ t.boot = s.boot ∧ t.tl = s.tl ∧ t.mem = s.mem ∧
      rd t (hrtPg + 0x108) = rd s (hrtPg + 0x108)) := by
  rw [mgtRequest_notReady h] at hexec
  obtain ⟨hsp, hboot, htl, hmem, -, -, -, hregs⟩ := answerKept_mgtReply (tick s now) 4 []
  exact ⟨_, hexec, mgtReply_mgt .., hsp, hboot, htl, hmem, rd_of_rdW (hregs (not_isAnswerReg (by decide)))⟩

/-- A request that is served, as its step. -/
theorem open_exec {s : State} {c : Instr} {now : Nat} {f : State → State} (h : MgtOpen s)
    (hexec : exec c s = .next (mgtRequest (tick s now) f)) : exec c s = .next (f (tick s now)) := by
  rw [hexec, mgtRequest_open h]

/-! ### SP's counters -/

/-- A counter is raised to a value of 32 bits. -/
theorem arc_raiseArc (s : State) (n v : Nat) : arc (raiseArc s n v) n = if arc s n < v ∧ v < 2 ^ 32 then v else arc s n := by
  rw [raiseArc]
  split
  · next h =>
    rw [arc, cGet_cSet_same, BitVec.toNat_ofNat, Nat.mod_eq_of_lt h.2]
  · rfl

theorem arc_raiseArc_ne (s : State) {n m : Nat} (v : Nat) (h : m ≠ n) : arc (raiseArc s n v) m = arc s m := by
  rw [raiseArc]
  split
  · exact congrArg BitVec.toNat (cGet_cSet_ne _ _ _ h)
  · rfl

theorem arc_lt (s : State) (n : Nat) : arc s n < 2 ^ 32 := BitVec.isLt _

theorem arc_congr {s t : State} (h : t.sp.arc = s.sp.arc) (n : Nat) : arc t n = arc s n := by rw [arc, h, arc]

/-- Raising a counter leaves SP's other state and registers. -/
theorem raiseArc_kept (s : State) (n v : Nat) : raiseArc s n v = { s with sp := { s.sp with arc := (raiseArc s n v).sp.arc } } := by
  rw [raiseArc]
  split <;> rfl

/-! ### Enrolment and policy (R443, R446) -/

/-- The state of an accepted enrolment, before its answer. -/
def enrolled (s : State) (key : List Byte) : State :=
  clinker (setEnrolled (raiseArc { s with sp := { s.sp with owner := some (digest key) } } 6 (arc s 6 + 1)))
    { cat := 11, code := 5, page := sp0Pg }

theorem enrolled_left (s : State) (key : List Byte) : (enrolled s key).sp.owner = some (digest key) ∧
    rdB (enrolled s key) (sp0Pg + 0x140) 0 = true ∧ arc (enrolled s key) 6 = min (arc s 6 + 1) 0xFFFFFFFF := by
  have hlog := logOnly_clinker (setEnrolled (raiseArc { s with sp := { s.sp with owner := some (digest key) } } 6 (arc s 6 + 1)))
    { cat := 11, code := 5, page := sp0Pg }
  have hlt := arc_lt s 6
  rw [← enrolled] at hlog
  refine ⟨?_, ?_, ?_⟩
  · rw [hlog.sp_eq, setEnrolled, wrB_sp, raiseArc_kept]
  · rw [enrolled, rdB_of_rdW (rdW_clinker_ne _ _ (not_isLogReg (by decide))), setEnrolled, rdB_wrB _ _ _ _ (by decide)]
  · rw [arc_congr (congrArg Sp.arc hlog.sp_eq), setEnrolled, arc_congr (congrArg Sp.arc (wrB_sp ..)), arc_raiseArc]
    show (if arc s 6 < arc s 6 + 1 ∧ arc s 6 + 1 < 2 ^ 32 then arc s 6 + 1 else arc s 6) = _
    split <;> omega

/-- What ENROLL does where it is served. -/
def enrollServed (key serial sig : List Byte) (s : State) : State :=
  if enrollOk s key serial sig then mgtReply (enrolled s key) 0 [] else mgtError s

/-- The state of an accepted policy, before its answer. -/
def policySet (s : State) (sec : List Byte) : State :=
  clinker (applyPolicy (raiseArc { s with sp := { s.sp with policy := some sec } } 3 (secSeq sec)) sec) { cat := 11, code := 6, page := sp0Pg }

/-- The policy's registers leave the policy itself and SP's counters. -/
theorem applyPolicy_sp (s : State) (b : List Byte) : (applyPolicy s b).sp.policy = s.sp.policy ∧ (applyPolicy s b).sp.arc = s.sp.arc := by
  have hnow : (applyNow s b).sp = s.sp := (fabric_applyNow s b).only.sp_eq
  rw [applyPolicy]
  split
  · rw [wrB_sp, hnow]
    exact ⟨rfl, rfl⟩
  · rw [(fabric_applyLater ..).only.sp_eq, hnow]
    exact ⟨rfl, rfl⟩

/-- A number of n bytes. -/
theorem leNat_lt (b : List Byte) : leNat b < 256 ^ b.length := by
  induction b with
  | nil => decide
  | cons x xs ih =>
    have hx := x.isLt
    rw [leNat, List.length_cons, Nat.pow_succ]
    omega

theorem secSeq_lt (sec : List Byte) : secSeq sec < 2 ^ 32 := by
  refine Nat.lt_of_lt_of_le (leNat_lt _) ((Nat.pow_le_pow_right (by decide) (List.length_take_le ..)).trans (by decide))

theorem policyOk_seq {s : State} {sec : List Byte} (h : policyOk s sec = true) : arc s 3 ≤ secSeq sec := by
  rw [policyOk, Bool.and_eq_true, decide_eq_true_eq] at h
  exact h.1.2.2.2.2.2.2

theorem policySet_left {s : State} {sec : List Byte} (h : policyOk s sec = true) : (policySet s sec).sp.policy = some sec ∧
    arc (policySet s sec) 3 = secSeq sec := by
  have hlog := logOnly_clinker (applyPolicy (raiseArc { s with sp := { s.sp with policy := some sec } } 3 (secSeq sec)) sec)
    { cat := 11, code := 6, page := sp0Pg }
  rw [← policySet] at hlog
  obtain ⟨hpolicy, harc⟩ := applyPolicy_sp (raiseArc { s with sp := { s.sp with policy := some sec } } 3 (secSeq sec)) sec
  have hseq := policyOk_seq h
  have hlt := secSeq_lt sec
  constructor
  · rw [hlog.sp_eq, hpolicy, raiseArc_kept]
  · rw [arc_congr ((congrArg Sp.arc hlog.sp_eq).trans harc), arc_raiseArc]
    show (if arc s 3 < secSeq sec ∧ secSeq sec < 2 ^ 32 then secSeq sec else arc s 3) = _
    split <;> omega

/-- What SET_POLICY does where it is served. -/
def policyServed (sec : List Byte) (s : State) : State := if policyOk s sec then mgtReply (policySet s sec) 0 [] else mgtError s

/-! ### Sensors, effecters, events (R456, R468) -/

/-- A cap that SP takes is in force. -/
theorem setCap_in {s : State} {w : Nat} (h : 1100 ≤ w ∧ w ≤ 6500) : rdF (setCap s w) (hrtPg + 0x108) 15 0 = w ∧
    rdB (setCap s w) (hrtPg + 0x10C) 30 = false := by
  rw [setCap, if_pos h, rdB_wrB _ _ _ _ (by decide), rdF_of_rdW (rdW_wrB_ne _ _ _ (by decide)), rdF_wrF _ _ _ _ _ (by decide) (by decide)]
  exact ⟨Nat.mod_eq_of_lt (by omega), rfl⟩

/-- Another value is refused. -/
theorem setCap_out {s : State} {w : Nat} (h : ¬ (1100 ≤ w ∧ w ≤ 6500)) : rd (setCap s w) (hrtPg + 0x108) = rd s (hrtPg + 0x108) ∧
    rdB (setCap s w) (hrtPg + 0x10C) 30 = true := by
  rw [setCap, if_neg h, rdB_wrB _ _ _ _ (by decide), rd_of_rdW (rdW_wrB_ne _ _ _ (by decide))]
  exact ⟨rfl, rfl⟩

theorem setCap_prt (s : State) (w : Nat) : (setCap s w).prt = s.prt := by
  rw [setCap]
  split <;> simp

/-- What a request of a cap does where it is served. -/
def capServed (watts : Nat) (s : State) : State := if 1100 ≤ watts ∧ watts ≤ 6500 then mgtReply (setCap s watts) 0 [] else mgtError (setCap s watts)

/-- The entries that a LOG_READ answers with. -/
def logEntries (c : Clinker) (seq count : Nat) : List Byte :=
  ((rangeFrom seq count).map (fun q => ((entryAt c q).map (·.bytes)).getD [])).flatten

def logServed (seq count : Nat) (s : State) : State :=
  if 1 ≤ count ∧ count ≤ 4 then
    mgtReply s 0 ((rangeFrom seq count).map (fun q => match entryAt s.cln q with
      | some e => e.bytes
      | none => [])).flatten
  else mgtError s

theorem logServed_eq (seq count : Nat) (s : State) :
    logServed seq count s = if 1 ≤ count ∧ count ≤ 4 then mgtReply s 0 (logEntries s.cln seq count) else mgtError s := by
  have hentry (q : Nat) : (match entryAt s.cln q with
      | some e => e.bytes
      | none => []) = ((entryAt s.cln q).map (·.bytes)).getD [] := by cases entryAt s.cln q <;> rfl
  rw [logServed, logEntries]
  simp only [hentry]

def pollServed (s : State) : State :=
  match s.mgt.events with
  | [] => mgtReply s 0 []
  | q :: qs =>
    let s := { s with mgt := { s.mgt with events := qs } }
    mgtReply s 0 (leBytes 8 q ++ match entryAt s.cln q with
      | some e => e.bytes
      | none => [])

section
variable {now : Nat} {s : State} (hopen : MgtOpen s)
include hopen

theorem enroll_gives (key serial sig : List Byte) : Gives (.enroll key serial sig now) s (fun t =>
    if enrollOk s key serial sig then t.sp.owner = some (digest key) ∧ rdB t (sp0Pg + 0x140) 0 = true ∧
      arc t 6 = min (arc s 6 + 1) 0xFFFFFFFF ∧ Answered t []
    else t.sp = s.sp ∧ Refused t) := by
  refine ⟨_, open_exec (f := enrollServed key serial sig) hopen rfl, ?_⟩
  have hok : enrollOk (tick s now) key serial sig = enrollOk s key serial sig := rfl
  rw [enrollServed, hok]
  split
  · obtain ⟨howner, hbit, harc⟩ := enrolled_left (tick s now) key
    have hkept := answerKept_mgtReply (enrolled (tick s now) key) 0 []
    exact ⟨(congrArg Sp.owner hkept.sp).trans howner, (rdB_of_rdW (hkept.regs (not_isAnswerReg (by decide))) 0).trans hbit,
      (arc_congr (congrArg Sp.arc hkept.sp) 6).trans harc, answered_mgtReply ..⟩
  · exact ⟨(answerKept_mgtError _).sp, refused_mgtError _⟩

theorem setPolicy_gives (sec : List Byte) : Gives (.setPolicy sec now) s (fun t =>
    if policyOk s sec then t.sp.policy = some sec ∧ arc t 3 = secSeq sec ∧ Answered t [] else t.sp = s.sp ∧ Refused t) := by
  refine ⟨_, open_exec (f := policyServed sec) hopen rfl, ?_⟩
  have hok : policyOk (tick s now) sec = policyOk s sec := rfl
  rw [policyServed, hok]
  split
  · next h =>
    obtain ⟨hpolicy, harc⟩ := policySet_left (hok.trans h)
    have hkept := answerKept_mgtReply (policySet (tick s now) sec) 0 []
    exact ⟨(congrArg Sp.policy hkept.sp).trans hpolicy, (arc_congr (congrArg Sp.arc hkept.sp) 3).trans harc, answered_mgtReply ..⟩
  · exact ⟨(answerKept_mgtError _).sp, refused_mgtError _⟩

theorem getEvidence_gives (nonce : List Byte) :
    Gives (.getEvidence nonce now) s (fun t => Answered t (evidence (tick s now) nonce) ∧ t.sp = s.sp ∧ t.mem = s.mem) := by
  have hkept := answerKept_mgtReply (tick s now) 0 (evidence (tick s now) nonce)
  exact ⟨_, open_exec (f := fun s => mgtReply s 0 (evidence s nonce)) hopen rfl, answered_mgtReply .., hkept.sp, hkept.mem⟩

theorem getCerts_gives : Gives (.getCerts now) s (fun t => Answered t (certs s) ∧ t.sp = s.sp ∧ t.mem = s.mem) := by
  have hkept := answerKept_mgtReply (tick s now) 0 (certs (tick s now))
  refine ⟨_, open_exec (f := fun s => mgtReply s 0 (certs s)) hopen rfl, ?_, hkept.sp, hkept.mem⟩
  rw [← certs_congr (s := s) (t := tick s now) rfl]
  exact answered_mgtReply ..

theorem sensorRead_gives (sensor : Sensor) :
    Gives (.pldmSensorRead sensor now) s (fun t => Answered t (leBytes 8 (sensorValue s sensor)) ∧ t.hrt = s.hrt ∧ t.mem = s.mem) := by
  have hvalue : sensorValue (tick s now) sensor = sensorValue s sensor := by cases sensor <;> rfl
  have hkept := answerKept_mgtReply (tick s now) 0 (leBytes 8 (sensorValue (tick s now) sensor))
  refine ⟨_, open_exec (f := fun s => mgtReply s 0 (leBytes 8 (sensorValue s sensor))) hopen rfl, ?_, hkept.hrt, hkept.mem⟩
  rw [← hvalue]
  exact answered_mgtReply ..

theorem logRead_gives {seq count : Nat} (hlo : 1 ≤ count) (hhi : count ≤ 4) :
    Gives (.logRead seq count now) s (fun t => Answered t (logEntries s.cln seq count) ∧ t.cln = s.cln) := by
  refine ⟨_, open_exec (f := logServed seq count) hopen rfl, ?_⟩
  rw [logServed_eq, if_pos ⟨hlo, hhi⟩]
  exact ⟨answered_mgtReply .., (answerKept_mgtReply ..).cln⟩

theorem logRead_refused {seq count : Nat} (h : count = 0 ∨ 4 < count) :
    Gives (.logRead seq count now) s (fun t => Refused t ∧ t.cln = s.cln) := by
  refine ⟨_, open_exec (f := logServed seq count) hopen rfl, ?_⟩
  rw [logServed_eq, if_neg (by omega)]
  exact ⟨refused_mgtError _, (answerKept_mgtError _).cln⟩

theorem pldmSetCap_gives {watts : Nat} (hlo : 1100 ≤ watts) (hhi : watts ≤ 6500) :
    Gives (.pldmSetCap watts now) s (fun t => rdF t (hrtPg + 0x108) 15 0 = watts ∧ Answered t []) := by
  refine ⟨_, open_exec (f := capServed watts) hopen rfl, ?_⟩
  rw [capServed, if_pos ⟨hlo, hhi⟩]
  exact ⟨(rdF_of_rdW ((answerKept_mgtReply ..).regs (not_isAnswerReg (by decide))) 15 0).trans (setCap_in ⟨hlo, hhi⟩).1, answered_mgtReply ..⟩

theorem pldmSetCap_refused {watts : Nat} (h : ¬ (1100 ≤ watts ∧ watts ≤ 6500)) : Gives (.pldmSetCap watts now) s (fun t =>
    rd t (hrtPg + 0x108) = rd s (hrtPg + 0x108) ∧ rdB t (hrtPg + 0x10C) 30 = true ∧ Refused t) := by
  refine ⟨_, open_exec (f := capServed watts) hopen rfl, ?_⟩
  have hkept := answerKept_mgtError (setCap (tick s now) watts)
  obtain ⟨hcap, hbit⟩ := setCap_out (s := tick s now) h
  rw [capServed, if_neg h]
  exact ⟨(rd_of_rdW (hkept.regs (not_isAnswerReg (by decide)))).trans hcap,
    (rdB_of_rdW (hkept.regs (not_isAnswerReg (by decide))) 30).trans hbit, refused_mgtError _⟩

theorem pldmModuleReset_gives (hcan : canReset s = true) : Gives (.pldmModuleReset now) s (fun t => Answered t [] ∧
    t.boot.phase = .starting ∧ t.tl = Tiles.reset ∧ t.mem.hbm = [] ∧ ∀ n < 8, partState t n = 0) := by
  have hkept := answerKept_mgtReply (tick s now) 0 []
  have hreg (n : Nat) : rdB (mgtReply (tick s now) 0 []) (sp0Pg + 0x100) n = rdB s (sp0Pg + 0x100) n :=
    rdB_of_rdW (hkept.regs (not_isAnswerReg (by decide))) n
  have hsafe : spSafe (mgtReply (tick s now) 0 []) = false := (hreg 10).trans hopen.safe
  have hrun : spRestarting (mgtReply (tick s now) 0 []) = false := (hreg 9).trans hopen.run
  have hcan' : canReset (mgtReply (tick s now) 0 []) = true := by
    rw [canReset, hkept.boot]
    exact hcan
  have hnot : ¬ (spSafe (mgtReply (tick s now) 0 []) = true ∨ canReset (mgtReply (tick s now) 0 []) = false) := by simp [hsafe, hcan']
  refine ⟨_, open_exec (f := fun s => requestReset (mgtReply s 0 [])) hopen rfl, ?_⟩
  rw [requestReset, if_neg hnot, if_neg (by simp [hrun])]
  obtain ⟨⟨hphase, -, -, htl, hhbm, hparts, -⟩, -, hresp, -, -⟩ := moduleReset_moduleResetNow (mgtReply (tick s now) 0 [])
  exact ⟨hresp.trans (answered_mgtReply ..), hphase, htl, hhbm, hparts⟩

theorem pollEvent_none (h : s.mgt.events = []) : Gives (.pollEvent now) s (fun t => Answered t [] ∧ t.mgt.events = []) := by
  have hserved : pollServed (tick s now) = mgtReply (tick s now) 0 [] := by
    rw [pollServed, show (tick s now).mgt.events = [] from h]
  refine ⟨_, open_exec (f := pollServed) hopen rfl, ?_⟩
  rw [hserved]
  exact ⟨answered_mgtReply .., (answerKept_mgtReply ..).events.trans h⟩

theorem pollEvent_gives {q : Nat} {qs : List Nat} (h : s.mgt.events = q :: qs) : Gives (.pollEvent now) s (fun t => t.mgt.events = qs ∧
    Answered t (leBytes 8 q ++ ((entryAt s.cln q).map (·.bytes)).getD [])) := by
  have hserved : pollServed (tick s now) = mgtReply { tick s now with mgt := { s.mgt with events := qs } } 0
      (leBytes 8 q ++ ((entryAt s.cln q).map (·.bytes)).getD []) := by
    rw [pollServed, show (tick s now).mgt.events = q :: qs from h]
    cases hentry : entryAt s.cln q <;> simp only [tick_cln, hentry] <;> rfl
  refine ⟨_, open_exec (f := pollServed) hopen rfl, ?_⟩
  rw [hserved]
  exact ⟨(answerKept_mgtReply ..).events, answered_mgtReply ..⟩

theorem setEndpointId_gives (eid : Byte) : Gives (.setEndpointId eid now) s (fun t => rdF t (mgtPg + 0x100) 31 24 = eid.toNat ∧
    Answered t [] ∧ t.tl = s.tl ∧ t.mem = s.mem) := by
  have hkept := answerKept_mgtReply (wrF (tick s now) (mgtPg + 0x100) 31 24 eid.toNat) 0 []
  refine ⟨_, open_exec (f := fun s => mgtReply (wrF s (mgtPg + 0x100) 31 24 eid.toNat) 0 []) hopen rfl, ?_, answered_mgtReply ..,
    hkept.tl.trans (wrF_tl ..), hkept.mem.trans (wrF_mem ..)⟩
  rw [rdF_of_rdW (hkept.regs (not_isAnswerReg (by decide))), rdF_wrF _ _ _ _ _ (by decide) (by decide)]
  exact Nat.mod_eq_of_lt eid.isLt

end

/-- Settles O46: each request of management, while SP restarts and where it is served. -/
theorem managementRequests : Obligations.ManagementRequests := by
  unfold Obligations.ManagementRequests
  refine ⟨fun key serial sig sec nonce seq count sensor watts eid bundle now s hnot c hc => ?_, fun key serial sig now s h => enroll_gives h ..,
    fun sec now s h => setPolicy_gives h sec, fun nonce sensor now s h => ⟨getEvidence_gives h nonce, getCerts_gives h, sensorRead_gives h sensor⟩,
    fun seq count now s h => ⟨fun hlo hhi _ => logRead_gives h hlo hhi, logRead_refused h⟩,
    fun watts now s h => ⟨pldmSetCap_gives h, pldmSetCap_refused h⟩, fun now s h => pldmModuleReset_gives h,
    fun now s h => ⟨pollEvent_none h, fun _ _ => pollEvent_gives h⟩, fun eid now s h => setEndpointId_gives h eid⟩
  obtain ⟨f, hexec⟩ : ∃ f, exec c s = .next (mgtRequest (tick s now) f) := by
    simp only [List.mem_cons, List.not_mem_nil, or_false] at hc
    rcases hc with rfl | rfl | rfl | rfl | rfl | rfl | rfl | rfl | rfl | rfl | rfl <;> exact ⟨_, rfl⟩
  exact notReady_gives hnot hexec

end Sys2Proof.Machine
end

section
/-!
A restart of SP with a held DESTROY whose partition number is no partition's (18_safety_security_clinker.md R440). O45.
-/
namespace Sys2Proof.Machine

/-- The number whose state word partPg + 0x140 + 4 n is HRT_CAP, at hrtPg + 0x108. -/
def capPartition : Nat := 260082

theorem capPartition_reg : partPg + 0x140 + 4 * capPartition = hrtPg + 0x108 := by decide

/-- A DESTROY of `capPartition`. -/
def capDestroy : PartReq :=
  { op := 2, part := capPartition, slices := 0, mode := 0, split := 0, client := 0, job := 0, range := 0, hostMin := 0, flashMin := 0 }

/-- SP restarting after start-up, with a cap of 1,500 W and `capDestroy` held. -/
def stCapDestroy : State :=
  let s := wrB (wrB State.reset (sp0Pg + 0x100) 9 true) (bootPg + 0x100) 0 true
  { s with prt := { s.prt with heldCap := some 1500, held := some capDestroy } }

/-- The state of `runAllHeld` with no cap and no reset held. -/
def capTaken (s : State) : State := { s with prt := { s.prt with heldCap := none }, sp := { s.sp with heldReset := false } }

theorem runAllHeld_cap {s : State} {w : Nat} (hsafe : spSafe s = false) (hcap : s.prt.heldCap = some w) (hreset : s.sp.heldReset = false) :
    runAllHeld s = runHeld (setCap (capTaken s) w) := by
  rw [runAllHeld, hcap, hreset]
  exact if_neg (ne_true_of_eq_false hsafe)

/-- A cap of 1,500 W has 5 in the bits that STATE of `capPartition` would have. -/
theorem capPartition_state {s : State} (h : rdF s (hrtPg + 0x108) 15 0 = 1500) : partState s capPartition = 5 := by
  rw [partState, capPartition_reg]
  rw [rdF, bitsOf] at h ⊢
  omega

theorem runRequest_destroy {s : State} {q : PartReq} (hop : q.op = 2) (hstate : partState s q.part ≠ 0) :
    runRequest s q = beginDestroy (setPreqBusy { s with prt := { s.prt with running := some (q.op, q.part) } } true) q.part :=
  (if_pos (.inl hop)).trans ((if_neg hstate).trans (if_pos hop))

/-- The held DESTROY leaves DESTROYING (4) in those bits. -/
theorem runHeld_capDestroy {s : State} (hheld : s.prt.held = some capDestroy) (hready : spReady s = true)
    (hcap : rdF s (hrtPg + 0x108) 15 0 = 1500) : rdF (runHeld s) (hrtPg + 0x108) 11 8 = 4 := by
  have hlow : LowReg (hrtPg + 0x108) := ⟨by decide, not_isLogReg (.inl (by decide))⟩
  have hstate (x : Parts) : partState (setPreqBusy { s with prt := x } false) capDestroy.part ≠ 0 := by
    rw [show capDestroy.part = capPartition from rfl]
    have hkept : rdW (setPreqBusy { s with prt := x } false) (hrtPg + 0x108) = rdW s (hrtPg + 0x108) := rdW_wrB_ne _ _ _ (by decide)
    rw [capPartition_state ((rdF_of_rdW hkept ..).trans hcap)]
    decide
  rw [runHeld, hheld]
  dsimp only
  rw [if_pos hready, runRequest_destroy rfl (hstate _), rdF_of_rdW ((keepsLow_destroyed _ _).regs hlow), setPartState,
    show capDestroy.part = capPartition from rfl, capPartition_reg, rdF_wrF _ _ _ _ _ (by decide) (by decide)]
  rfl

/-- SP has started again, and what it held waits. -/
def capRestarted : State := spStart (wrB (tick stCapDestroy 0) (sp0Pg + 0x100) 9 false)

theorem exec_capRestarted : exec (.spRestartDone 0) stCapDestroy = .next (runAllHeld capRestarted) :=
  if_neg (c := spRestarting (tick stCapDestroy 0) = false) (t := .next (tick stCapDestroy 0)) (by decide +kernel)

/-- The restart writes the held cap, and then DESTROYING over its bits 11:8. -/
theorem capDestroy_overwrites : rdF (runAllHeld capRestarted) (hrtPg + 0x108) 11 8 = 4 := by
  rw [runAllHeld_cap (w := 1500) (by decide +kernel) (by decide +kernel) (by decide +kernel)]
  refine runHeld_capDestroy ?_ ?_ (setCap_in (by decide)).1
  · rw [setCap_prt]
    decide +kernel
  · decide +kernel

/-- Refutes O45: the number of a held request is any number, and a DESTROY that follows the held cap can overwrite it. -/
theorem not_restartsAndUpdates : ¬ Obligations.RestartsAndUpdates := by
  unfold Obligations.RestartsAndUpdates
  rintro ⟨-, hrestart, -⟩
  obtain ⟨t, hexec, -, -, -, hcap⟩ := hrestart 0 stCapDestroy (by decide +kernel)
  obtain rfl : runAllHeld capRestarted = t := Host.Outcome.next.inj (exec_capRestarted.symm.trans hexec)
  have hheld : rdF (runAllHeld capRestarted) (hrtPg + 0x108) 15 0 = 1500 := hcap 1500 rfl (by decide +kernel) (by decide) (by decide)
  have hfive := capPartition_state hheld
  rw [partState, capPartition_reg, capDestroy_overwrites] at hfive
  exact absurd hfive (by decide)

end Sys2Proof.Machine
end

section
/-!
The cap, the power train and the loss of the input (16_hearth_power_thermal.md R396, R408, R409; 20_electrical_mechanical.md R484, R486). O41.
-/
namespace Sys2Proof.Machine

/-! ### The open entries of the log -/

theorem queueEvent_cln (s : State) (cat seq : Nat) : (queueEvent s cat seq).cln = s.cln := by
  rw [queueEvent]
  split
  · split
    · exact intSet_cln ..
    · exact intSet_cln ..
  · rfl

theorem clnInterrupt_cln (s : State) (cat : Nat) : (clnInterrupt s cat).cln = s.cln := by
  have hone (u : State) (c : Prop) [Decidable c] (bits : Nat) : (if c then intSet u clnPg bits else u).cln = u.cln := by
    split
    · exact intSet_cln ..
    · rfl
  exact (hone _ _ _).trans (hone _ _ _)

/-- An entry that opens nothing leaves the open ones but the one that it closes. -/
theorem clinker_opened (s : State) {r : LogRec} (hopens : r.opens = false) :
    (clinker s r).cln.opened = s.cln.opened.filter (fun q => r.closes != some q) := by
  have hfree : (if r.payload.isNone && r.closes.isNone then { s with free := s.free + 1 } else s).cln = s.cln := by split <;> rfl
  refine (congrArg Clinker.opened ((clnInterrupt_cln _ _).trans (queueEvent_cln _ _ _))).trans ?_
  show List.filter _ (if r.payload.isNone && r.closes.isNone then { s with free := s.free + 1 } else s).cln.opened ++
    (if (r.opens && _) = true then _ else []) = _
  rw [hfree, hopens, Bool.false_and, if_neg (by decide), List.append_nil]

theorem clinker_opened_nil {s : State} {r : LogRec} (hopens : r.opens = false) (h : s.cln.opened = []) : (clinker s r).cln.opened = [] := by
  rw [clinker_opened s hopens, h]
  rfl

/-- The entry that closes the open entry q in the hold-up sequence. -/
def holdupClose (s : State) (q : Nat) : State :=
  clinker s { cat := (openedAs s.cln q).1, code := (openedAs s.cln q).2, page := sp0Pg, closes := some q, flags := 4 }

/-- The entries of a list are closed, one after the other. -/
theorem holdupClose_opened (l : List Nat) (s : State) :
    ∀ q ∈ (l.foldl holdupClose s).cln.opened, q ∈ s.cln.opened ∧ q ∉ l := by
  induction l generalizing s with
  | nil => exact fun q hq => ⟨hq, List.not_mem_nil⟩
  | cons a l ih =>
    intro q hq
    obtain ⟨hfirst, hrest⟩ := ih (holdupClose s a) q hq
    rw [holdupClose, clinker_opened s rfl, List.mem_filter] at hfirst
    have hne : q ≠ a := fun h => absurd hfirst.2 (by rw [h]; simp)
    exact ⟨hfirst.1, List.not_mem_cons_of_ne_of_not_mem hne hrest⟩

theorem closeByHoldup_opened (s : State) : (closeByHoldup s).cln.opened = [] :=
  List.eq_nil_iff_forall_not_mem.2 fun q hq => (holdupClose_opened s.cln.opened s q hq).2 (holdupClose_opened s.cln.opened s q hq).1

theorem closeByHoldup_log (s : State) : LogOnly s (closeByHoldup s) ∧ (closeByHoldup s).time = s.time := by
  have hfold (l : List Nat) (s : State) : LogOnly s (l.foldl holdupClose s) ∧ (l.foldl holdupClose s).time = s.time := by
    induction l generalizing s with
    | nil => exact ⟨.refl s, rfl⟩
    | cons a l ih => exact ⟨(logOnly_clinker ..).trans (ih _).1, (ih _).2.trans (clinker_time ..)⟩
  exact hfold s.cln.opened s

/-! ### The cap (R396) -/

section
variable {r : RegWrite} {s : State} (hoff : r.off.toNat = hrtPg + 0x10C) (hgo : r.val.toNat.testBit 31 = true) (hsafe : spSafe s = false)

/-- The state with the cap's request shown. -/
def capShown (r : RegWrite) (s : State) : State := wrF (tick s r.now) (hrtPg + 0x10C) 15 0 r.val.toNat

include hoff hgo hsafe

theorem exec_capRequest : exec (.capRequest r) s = if spRestarting (capShown r s) then
      .next { capShown r s with prt := { (capShown r s).prt with heldCap := some (bitsOf r.val.toNat 15 0) } }
    else .next (setCap (capShown r s) (bitsOf r.val.toNat 15 0)) := by
  have hrow : ¬ (r.off.toNat ≠ hrtPg + 0x10C ∨ r.val.toNat.testBit 31 = false) := by simp [hoff, hgo]
  have hkept : spSafe (capShown r s) = false := (rdB_of_rdW (rdW_wrF_ne _ _ _ _ (by decide)) 10).trans hsafe
  exact (if_neg hrow).trans (if_neg (ne_true_of_eq_false hkept))

end

section
variable {r : RegWrite} {s : State} 

theorem capShown_restarting : spRestarting (capShown r s) = spRestarting s := rdB_of_rdW (rdW_wrF_ne _ _ _ _ (by decide)) 9

theorem rd_capShown : rd (capShown r s) (hrtPg + 0x108) = rd s (hrtPg + 0x108) := rd_of_rdW (rdW_wrF_ne _ _ _ _ (by decide))

theorem capShown_prt : (capShown r s).prt = s.prt := wrF_prt ..

end

/-! ### Phases and converters (R408, R409) -/

section
variable {s : State} {rail now : Nat}

/-- A spare takes the place of a phase. -/
def spareTaken (s : State) (rail : Nat) : State :=
  intSet (inc (wrF s (hrtPg + 0x180 + 4 * rail) 23 16 (rdF s (hrtPg + 0x180 + 4 * rail) 23 16 - 1)) (hrtPg + 0x170)) hrtPg 8

theorem failPhase_spare (h : rdF s (hrtPg + 0x180 + 4 * rail) 23 16 ≠ 0) :
    failPhase s rail = clinker (spareTaken s rail) { cat := 2, code := 3, page := hrtPg, sub := rail } := if_neg h

theorem failPhase_last (h : rdF s (hrtPg + 0x180 + 4 * rail) 23 16 = 0) :
    failPhase s rail = intSet (wrF s (hrtPg + 0x180 + 4 * rail) 31 24 (rdF s (hrtPg + 0x180 + 4 * rail) 31 24 - 1)) hrtPg 8 := if_pos h

theorem windowOnly_spareTaken : WindowOnly s (spareTaken s rail) :=
  ((windowOnly_wr ..).trans (windowOnly_inc ..)).trans (windowOnly_intSet ..)

theorem rdW_spareTaken : rdW (spareTaken s rail) (hrtPg + 0x180 + 4 * rail) =
    rdW (wrF s (hrtPg + 0x180 + 4 * rail) 23 16 (rdF s (hrtPg + 0x180 + 4 * rail) 23 16 - 1)) (hrtPg + 0x180 + 4 * rail) := by
  rw [spareTaken, rdW_intSet_ne _ _ (by rw [hIntStat]; omega), rdW_inc_ne _ (by omega)]

theorem counted_spareTaken : Counted s (spareTaken s rail) (hrtPg + 0x170) 1 := by
  have h : rd (spareTaken s rail) (hrtPg + 0x170) = _ := rd_of_rdW (rdW_intSet_ne _ _ (by decide))
  rw [Counted, h]
  exact counted_inc_of_rd (rd_of_rdW (rdW_wrF_ne _ _ _ _ (by omega)))

theorem rdF_pred {o hi lo : Nat} (h : lo ≤ hi) (h32 : hi < 32) : rdF (wrF s o hi lo (rdF s o hi lo - 1)) o hi lo = rdF s o hi lo - 1 := by
  rw [rdF_wrF _ _ _ _ _ h h32]
  exact Nat.mod_eq_of_lt (Nat.lt_of_le_of_lt (Nat.sub_le ..) (bitsOf_lt ..))

end

theorem phaseFail_spare {rail : Fin 11} {s : State} (now : Nat) (h : rdF s (hrtPg + 0x180 + 4 * rail.val) 23 16 ≠ 0) :
    Gives (.phaseFail rail now) s (fun t =>
      rdF t (hrtPg + 0x180 + 4 * rail.val) 23 16 = rdF s (hrtPg + 0x180 + 4 * rail.val) 23 16 - 1 ∧
      rdF t (hrtPg + 0x180 + 4 * rail.val) 31 24 = rdF s (hrtPg + 0x180 + 4 * rail.val) 31 24 ∧
      Counted s t (hrtPg + 0x170) 1 ∧ rdB t (hrtPg + hIntStat) 3 = true ∧ t.hrt = s.hrt ∧ t.tl = s.tl ∧ t.mem = s.mem) := by
  have hlow {x : Nat} (hx : x < 0x300000) : ¬ IsLogReg x := not_isLogReg (.inl hx)
  have hpage : hrtPg + 0x180 + 4 * rail.val < 0x300000 := by
    have := rail.isLt
    rw [hrtPg]
    omega
  have hframe : LogOnly (tick s now) (clinker (spareTaken (tick s now) rail) { cat := 2, code := 3, page := hrtPg, sub := rail }) :=
    windowOnly_spareTaken.logOnly.trans (logOnly_clinker ..)
  refine ⟨_, congrArg Host.Outcome.next (failPhase_spare (s := tick s now) h), ?_, ?_, ?_, ?_, hframe.hrt_eq, hframe.tl_eq, hframe.mem_eq⟩
  · rw [rdF_of_rdW (rdW_clinker_ne _ _ (hlow hpage)), rdF_of_rdW rdW_spareTaken]
    exact rdF_pred (by decide) (by decide)
  · rw [rdF_of_rdW (rdW_clinker_ne _ _ (hlow hpage)), rdF_of_rdW rdW_spareTaken]
    exact rdF_wrF_ne _ _ _ (by decide) (by decide) (.inr (by decide))
  · rw [Counted, rd_of_rdW (rdW_clinker_ne _ _ (hlow (by decide)))]
    exact counted_spareTaken
  · rw [rdB_of_rdW (rdW_clinker_ne _ _ (hlow (by decide)))]
    exact intSet_bit _ _ 3 (by decide)

theorem phaseFail_last {rail : Fin 11} {s : State} (now : Nat) (h : rdF s (hrtPg + 0x180 + 4 * rail.val) 23 16 = 0) :
    Gives (.phaseFail rail now) s (fun t => WindowOnly s t ∧
      rdF t (hrtPg + 0x180 + 4 * rail.val) 31 24 = rdF s (hrtPg + 0x180 + 4 * rail.val) 31 24 - 1 ∧ rdB t (hrtPg + hIntStat) 3 = true) := by
  refine ⟨_, congrArg Host.Outcome.next (failPhase_last (s := tick s now) h),
    ((windowOnly_tick ..).trans (windowOnly_wr ..)).trans (windowOnly_intSet ..), ?_, intSet_bit _ _ 3 (by decide)⟩
  rw [rdF_of_rdW (rdW_intSet_ne _ _ (by rw [hIntStat]; omega))]
  exact rdF_pred (s := tick s now) (by decide) (by decide)

theorem converterFail_gives (now : Nat) (s : State) : Gives (.converterFail now) s (fun t =>
    rdF t (hrtPg + 0x104) 11 8 = rdF s (hrtPg + 0x104) 11 8 - 1 ∧ t.hrt = s.hrt ∧ t.tl = s.tl ∧ t.mem = s.mem) := by
  have hframe (u : State) (v : Nat) (r : LogRec) : LogOnly u (clinker (wrF u (hrtPg + 0x104) 11 8 v) r) :=
    (windowOnly_wr ..).logOnly.trans (logOnly_clinker ..)
  refine ⟨_, rfl, ?_, (hframe (tick s now) _ _).hrt_eq, (hframe (tick s now) _ _).tl_eq, (hframe (tick s now) _ _).mem_eq⟩
  rw [rdF_of_rdW (rdW_clinker_ne _ _ (not_isLogReg (.inl (by decide))))]
  exact rdF_pred (s := tick s now) (by decide) (by decide)

/-! ### The bank and the loss of the input (R463, R484) -/

/-- The bank is charged. -/
def bankCharged (s : State) : State := setBoot s { s.boot with charged := true }

theorem StagesBegun.charged {s t : State} (h : StagesBegun (bankCharged s) t) : t.boot.charged = true ∧ t.boot.phase = s.boot.phase ∧ t.tl = s.tl := by
  refine ⟨?_, ?_, h.only.tl_eq⟩ <;> rw [h.boot] <;> rfl

theorem exec_holdupCharged {s : State} (now : Nat) (hoff : s.boot.phase ≠ .off) : exec (.holdupCharged now) s =
    .next (if (bankCharged (tick s now)).boot.phase = .starting then beginStages (bankCharged (tick s now)) else bankCharged (tick s now)) :=
  if_neg hoff

theorem holdupCharged_gives {s : State} (now : Nat) (hoff : s.boot.phase ≠ .off) : Gives (.holdupCharged now) s (fun t =>
    t.boot.charged = true ∧ t.boot.phase = s.boot.phase ∧ t.tl = s.tl) := by
  refine ⟨_, exec_holdupCharged now hoff, ?_⟩
  split
  · exact (stagesBegun_beginStages (bankCharged (tick s now))).charged
  · exact ⟨rfl, rfl, rfl⟩

/-- The hold-up sequence, without the state of start-up that it leaves: the loss is entered, every open entry is closed, the module loses
its units, and the count of the entries is entered. -/
def heldUp (s : State) : State :=
  let u := clinker s { cat := 2, code := 1, page := bootPg }
  clinker (wrB (loseModule false (closeByHoldup u)) (bootPg + 0x100) 0 false)
    { cat := 2, code := 2, page := bootPg, payload := some (leBytes 8 u.cln.opened.length) }

theorem heldUp_opened (s : State) : (heldUp s).cln.opened = [] := by
  refine clinker_opened_nil rfl ?_
  rw [wrB_cln, (loseModule_warm _).2.2.2, closeByHoldup_opened]

theorem heldUp_time (s : State) : (heldUp s).time = s.time := by
  rw [heldUp, clinker_time, wrB_time, (lost_loseModule ..).time, (closeByHoldup_log _).2, clinker_time]

theorem heldUp_ready (s : State) : rdB (heldUp s) (bootPg + 0x100) 0 = false :=
  (rdB_of_rdW (rdW_clinker_ne _ _ (not_isLogReg (.inl (by decide)))) 0).trans (rdB_wrB _ _ _ _ (by decide))

theorem heldUp_tl (s : State) : (heldUp s).tl = Tiles.reset :=
  (logOnly_clinker ..).tl_eq.trans ((wrB_tl ..).trans (lost_loseModule ..).tiles)

theorem heldUp_hbm (s : State) : (heldUp s).mem.hbm = [] :=
  (congrArg Memory.hbm ((logOnly_clinker ..).mem_eq.trans (wrB_mem ..))).trans (lost_loseModule ..).hbm

/-- Start-up after the hold-up sequence has begun. -/
def Boot.heldUp (b : Boot) (time : Nat) : Boot :=
  { b with phase := .holdup, rails := false, charged := false, running := [], lost := time }

section
variable {s : State} (now : Nat) (hoff : s.boot.phase ≠ .off) (hhold : s.boot.phase ≠ .holdup)
include hoff hhold

theorem inputLoss_uncharged (hcharged : s.boot.charged = false) : Gives (.inputLoss now) s (fun t =>
    t.boot.phase = .off ∧ t.boot.rails = false ∧ t.boot.done = []) :=
  ⟨_, (if_neg (not_or.2 ⟨hoff, hhold⟩)).trans (if_pos hcharged), rfl, rfl, rfl⟩

theorem exec_inputLoss (hcharged : s.boot.charged = true) : exec (.inputLoss now) s =
    .next (setBoot (heldUp (tick s now)) ((heldUp (tick s now)).boot.heldUp (heldUp (tick s now)).time)) := by
  have hnot : ¬ (tick s now).boot.charged = false := by rw [show (tick s now).boot = s.boot from rfl, hcharged]; decide
  exact (if_neg (not_or.2 ⟨hoff, hhold⟩)).trans (if_neg hnot)

theorem inputLoss_charged (hcharged : s.boot.charged = true) : Gives (.inputLoss now) s (fun t =>
    t.boot.phase = .holdup ∧ t.boot.rails = false ∧ t.boot.charged = false ∧ t.boot.lost = max s.time now ∧
    rdB t (bootPg + 0x100) 0 = false ∧ t.cln.opened = [] ∧ t.tl = Tiles.reset ∧ t.mem.hbm = []) :=
  ⟨_, exec_inputLoss now hoff hhold hcharged, rfl, rfl, rfl, heldUp_time .., heldUp_ready .., heldUp_opened .., heldUp_tl .., heldUp_hbm ..⟩

end

section
variable {s : State} (now : Nat)

theorem holdupEnd_gives (hhold : s.boot.phase = .holdup) (hdue : s.boot.lost + 20000000 ≤ max s.time now) :
    Gives (.holdupEnd now) s (fun t => t = { tick s now with boot := { s.boot with phase := .off, done := [] } }) :=
  ⟨_, if_pos ⟨hhold, hdue⟩, rfl⟩

theorem holdupEnd_early (h : max s.time now < s.boot.lost + 20000000) : exec (.holdupEnd now) s = .next (tick s now) :=
  if_neg (not_and.2 fun _ => Nat.not_le.2 h)

theorem trip_gives (hcan : canTrip s = true) (rail : Fin 11) : Gives (.analogTrip rail now) s (fun t => Tripped t false) ∧
    Gives (.inputOvervoltage now) s (fun t => Tripped t true) :=
  ⟨⟨_, congrArg Host.Outcome.next (if_pos hcan), tripped_analogTrip ..⟩, ⟨_, congrArg Host.Outcome.next (if_pos hcan), tripped_analogTrip ..⟩⟩

theorem trip_off (hcan : canTrip s = false) (rail : Fin 11) : exec (.analogTrip rail now) s = .next (tick s now) ∧
    exec (.inputOvervoltage now) s = .next (tick s now) :=
  ⟨congrArg Host.Outcome.next (if_neg (ne_true_of_eq_false hcan)), congrArg Host.Outcome.next (if_neg (ne_true_of_eq_false hcan))⟩

end

/-- Settles O41: the cap's request, the power train and the input, each by its outcomes. -/
theorem powerInput : Obligations.PowerInput := by
  unfold Obligations.PowerInput
  refine ⟨fun r s hoff hgo hsafe => ?_, fun rail now s => ⟨phaseFail_spare now, phaseFail_last now⟩, converterFail_gives,
    fun now s => holdupCharged_gives now, fun now s hoff hhold => ⟨inputLoss_uncharged now hoff hhold, inputLoss_charged now hoff hhold⟩,
    fun now s hhold => ⟨holdupEnd_gives now hhold, holdupEnd_early now⟩, fun rail now s hcan => trip_gives now hcan rail,
    fun rail now s hcan => trip_off now hcan rail⟩
  have hexec := exec_capRequest hoff hgo hsafe
  rw [capShown_restarting] at hexec
  refine ⟨fun hrun hlo hhi => ?_, fun hrun hout => ?_, fun hrestart => ?_⟩
  · exact ⟨_, hexec.trans (if_neg (ne_true_of_eq_false hrun)), (setCap_in ⟨hlo, hhi⟩).1, (setCap_in ⟨hlo, hhi⟩).2, (setCap_prt ..).trans capShown_prt⟩
  · exact ⟨_, hexec.trans (if_neg (ne_true_of_eq_false hrun)), (setCap_out hout).1.trans rd_capShown, (setCap_out hout).2,
      (setCap_prt ..).trans capShown_prt⟩
  · exact ⟨_, hexec.trans (if_pos hrestart), rd_capShown, by rw [capShown_prt]⟩

end Sys2Proof.Machine
end

section
/-!
Hearth's periods: the 2 µs decision, the 1 ms correction, transitions, boosts and hints (16_hearth_power_thermal.md R399, R401, R402, R410,
R411). O40.
-/
namespace Sys2Proof.Machine

/-! ### What the decision keeps of the estimate -/

/-- HRT_EST, HRT_MEAS and HRT_K. -/
def IsSumReg (o : Nat) : Prop := hrtPg + 0x120 ≤ o ∧ o ≤ hrtPg + 0x128

theorem not_sumReg {o : Nat} (h : o < hrtPg + 0x120 ∨ hrtPg + 0x128 < o) : ¬ IsSumReg o := by
  rintro ⟨hlo, hhi⟩
  omega

theorem not_sumReg_die {d x : Nat} : ¬ IsSumReg (hrtDPg d + x) := not_sumReg (.inr (by rw [hrtDPg_eq, hrtPg]; omega))

theorem not_isLogReg_of_sum {o : Nat} (h : IsSumReg o) : ¬ IsLogReg o := not_isLogReg (.inl (by
  obtain ⟨-, hhi⟩ := h
  rw [hrtPg] at hhi
  omega))

/-- Steps of Hearth that keep the ms's sum, its count, the sample, and the registers of the estimate. -/
structure SumsKept (s t : State) : Prop where
  frame  : HearthOnly s t
  sum    : t.hrt.rawSum = s.hrt.rawSum
  count  : t.hrt.rawCnt = s.hrt.rawCnt
  sample : t.hrt.sample = s.hrt.sample
  regs   : ∀ {o}, IsSumReg o → rdW t o = rdW s o

section
variable {s t u : State}

theorem SumsKept.refl (s : State) : SumsKept s s := ⟨.refl s, rfl, rfl, rfl, fun _ => rfl⟩

theorem SumsKept.trans (h1 : SumsKept s t) (h2 : SumsKept t u) : SumsKept s u :=
  ⟨h1.frame.trans h2.frame, h2.sum.trans h1.sum, h2.count.trans h1.count, h2.sample.trans h1.sample, fun h => (h2.regs h).trans (h1.regs h)⟩

theorem SumsKept.ite {c : Prop} [Decidable c] (ht : SumsKept s t) (hu : SumsKept s u) : SumsKept s (if c then t else u) := by
  split
  · exact ht
  · exact hu

theorem sumsKept_foldl {α : Type} {f : State → α → State} (hf : ∀ s a, SumsKept s (f s a)) (l : List α) (s : State) :
    SumsKept s (l.foldl f s) := by
  induction l generalizing s with
  | nil => exact .refl s
  | cons a l ih => exact (hf s a).trans (ih _)

variable (s)

theorem sumsKept_wr {o : Nat} (v : Nat) (h : ¬ IsSumReg o) : SumsKept s (wr s o v) :=
  ⟨(windowOnly_wr ..).hearthOnly, rfl, rfl, rfl, fun h' => rdW_wr_ne _ _ fun he => h (he ▸ h')⟩

theorem sumsKept_wrF {o : Nat} (hi lo f : Nat) (h : ¬ IsSumReg o) : SumsKept s (wrF s o hi lo f) := sumsKept_wr s _ h
theorem sumsKept_wrB {o : Nat} (n : Nat) (b : Bool) (h : ¬ IsSumReg o) : SumsKept s (wrB s o n b) := sumsKept_wr s _ h
theorem sumsKept_incBy {o : Nat} (n : Nat) (h : ¬ IsSumReg o) : SumsKept s (incBy s o n) := sumsKept_wr s _ h
theorem sumsKept_inc {o : Nat} (h : ¬ IsSumReg o) : SumsKept s (inc s o) := sumsKept_wr s _ h

theorem sumsKept_intSet {pg : Nat} (bits : Nat) (h : ¬ IsSumReg (pg + hIntStat)) : SumsKept s (intSet s pg bits) where
  frame := (windowOnly_intSet ..).hearthOnly
  sum := congrArg Hearth.rawSum (intSet_hrt ..)
  count := congrArg Hearth.rawCnt (intSet_hrt ..)
  sample := congrArg Hearth.sample (intSet_hrt ..)
  regs h' := rdW_intSet_ne _ _ fun he => h (he ▸ h')

theorem sumsKept_clinker (r : LogRec) : SumsKept s (clinker s r) where
  frame := (logOnly_clinker ..).hearthOnly
  sum := congrArg Hearth.rawSum (logOnly_clinker ..).hrt_eq
  count := congrArg Hearth.rawCnt (logOnly_clinker ..).hrt_eq
  sample := congrArg Hearth.sample (logOnly_clinker ..).hrt_eq
  regs h' := rdW_clinker_ne _ _ (not_isLogReg_of_sum h')

theorem sumsKept_setHrt {h : Hearth} (hsum : h.rawSum = s.hrt.rawSum) (hcount : h.rawCnt = s.hrt.rawCnt) (hsample : h.sample = s.hrt.sample) :
    SumsKept s { s with hrt := h } := ⟨rfl, hsum, hcount, hsample, fun _ => rfl⟩

theorem sumsKept_setAgent (d : Nat) (a : DieAgent) : SumsKept s (setAgent s d a) := ⟨rfl, rfl, rfl, rfl, fun _ => rfl⟩

theorem sumsKept_evalGuard : SumsKept s (evalGuard s) := by
  have hshown (b w : Bool) : SumsKept s (wrB { s with hrt := { s.hrt with bandBad := b } } (hrtPg + 0x104) 3 w) :=
    (sumsKept_setHrt s (h := { s.hrt with bandBad := b }) rfl rfl rfl).trans (sumsKept_wrB _ _ _ (not_sumReg (.inl (by decide))))
  exact .ite ((hshown _ _).trans (sumsKept_intSet _ _ (not_sumReg (.inl (by decide))))) (hshown _ _)

theorem sumsKept_floorCheck : SumsKept s (floorCheck s) := by
  have hbit (b : Bool) : SumsKept s (wrB s (hrtPg + 0x104) 0 b) := sumsKept_wrB _ _ _ (not_sumReg (.inl (by decide)))
  have hbelow (u : State) (r : LogRec) : SumsKept u (clinker (inc (intSet u hrtPg 1) (hrtPg + 0x168)) r) :=
    ((sumsKept_intSet _ _ (not_sumReg (.inl (by decide)))).trans (sumsKept_inc _ (not_sumReg (.inr (by decide))))).trans (sumsKept_clinker ..)
  exact .ite ((hbit _).trans (hbelow _ _)) (.ite (hbit _) (.refl s))

/-! ### The 2 µs decision -/

/-- Compute's duty is set. -/
def dutySet (n : Nat) : State := { s with hrt := { s.hrt with duty := n } }

theorem sumsKept_setSetting (dom n : Nat) : SumsKept s (setSetting s dom n) := by
  have hduty (n : Nat) : SumsKept s (dutySet s n) := sumsKept_setHrt s rfl rfl rfl
  have hop (u : State) (l : List Nat) (n : Nat) : SumsKept u (l.foldl (fun s d => wrF s (hrtDPg d + 0x104) 27 24 n) u) :=
    sumsKept_foldl (fun _ _ => sumsKept_wrF _ _ _ _ not_sumReg_die) l u
  exact .ite (sumsKept_setHrt s rfl rfl rfl) (.ite (sumsKept_setHrt s rfl rfl rfl) ((hduty _).trans (hop ..)))

theorem sumsKept_setFits (l : List Nat) : SumsKept s { s with hrt := { s.hrt with fits := l } } := sumsKept_setHrt s rfl rfl rfl

theorem sumsKept_actuate (x : PowerSample) (p : Plan) : SumsKept s (actuate s x p) := by
  have hcut (down : List Nat) (l : List Nat) : SumsKept s (l.foldl (fun s d => if nth 0 down d < settingNow s d then setSetting s d (nth 0 down d) else s) s) :=
    sumsKept_foldl (fun s _ => .ite (sumsKept_setSetting ..) (.refl s)) l s
  rw [actuate]
  refine .ite ((hcut _ _).trans (sumsKept_setFits ..)) (.ite (.refl s) ?_)
  dsimp only
  split
  · exact (sumsKept_setSetting ..).trans (sumsKept_setFits ..)
  · exact sumsKept_setFits ..

theorem sumsKept_beginMove (d goalOp : Nat) : SumsKept s (beginMove s d goalOp) :=
  ((sumsKept_setAgent ..).trans (sumsKept_wrF _ _ _ _ not_sumReg_die)).trans (sumsKept_intSet _ _ not_sumReg_die)

theorem sumsKept_applyOp (d : Nat) : SumsKept s (applyOp s d) := by
  rw [applyOp]
  split
  · exact .ite (.refl s) (sumsKept_beginMove ..)
  · exact .ite (sumsKept_beginMove ..) (.refl s)

theorem sumsKept_showDuty (d : Nat) : SumsKept s (showDuty s d) :=
  (sumsKept_wrF _ _ _ _ not_sumReg_die).trans (sumsKept_wrF _ _ _ _ not_sumReg_die)

theorem sumsKept_hintRises (d : Nat) (est : Frac) : SumsKept s (hintRises s d est) :=
  (sumsKept_setAgent ..).trans (sumsKept_incBy _ _ not_sumReg_die)

theorem sumsKept_hintCheck (d : Nat) : SumsKept s (hintCheck s d) := by
  rw [hintCheck]
  split
  · exact .refl s
  · exact .ite (.refl s) (.ite (sumsKept_setAgent ..) ((sumsKept_setAgent ..).trans (sumsKept_inc _ not_sumReg_die)))

/-- The estimate is shown. -/
def estimateShown (s : State) (est : Frac) : State := wrF s (hrtPg + 0x120) 15 0 (min (frFloor est) 0xFFFF)

theorem sumsKept_showPeriod (est : Frac) (p : Plan) (amps : List Frac) : SumsKept (estimateShown s est) (showPeriod s est p amps) := by
  have halloc (u : State) (v : Nat → Nat) : SumsKept u ((List.range 3).foldl (fun s d => wr s (hrtPg + 0x130 + 4 * d) (v d)) u) :=
    sumsKept_foldl (fun _ _ => sumsKept_wr _ _ (not_sumReg (.inr (by omega)))) _ u
  have hamps (u : State) (v : Nat → Nat) : SumsKept u ((List.range 11).foldl (fun s r => wrF s (hrtPg + 0x180 + 4 * r) 15 0 (v r)) u) :=
    sumsKept_foldl (fun _ _ => sumsKept_wrF _ _ _ _ (not_sumReg (.inr (by omega)))) _ u
  exact ((halloc _ _).trans (hamps _ _)).trans (sumsKept_wrF _ _ _ _ (not_sumReg (.inl (by decide))))

end

/-- The sample enters the ms's sum. -/
def sampleSummed (s : State) (x : PowerSample) (raw : Frac) : State :=
  { s with hrt := { s.hrt with sample := x, period := [], rawPrev := raw, rawSum := frAdd s.hrt.rawSum raw, rawCnt := s.hrt.rawCnt + 1 } }

/-- The decision up to what it shows: the guard, the floor, the settings, and the dies that follow them. -/
def decided (s : State) (x : PowerSample) : State :=
  let u := floorCheck (evalGuard s)
  (List.range 4).foldl (fun s d => showDuty (applyOp s d) d) (actuate u x (makePlan u x))

theorem sumsKept_decided (s : State) (x : PowerSample) : SumsKept s (decided s x) :=
  (((sumsKept_evalGuard s).trans (sumsKept_floorCheck _)).trans (sumsKept_actuate ..)).trans
    (sumsKept_foldl (fun _ _ => (sumsKept_applyOp ..).trans (sumsKept_showDuty ..)) _ _)

/-- The dies' hints after the decision. -/
def hintsChecked (s : State) (dies : List Frac) : State :=
  (List.range 4).foldl (fun s d => hintCheck (hintRises s d (nth ⟨0, 0⟩ dies d)) d) s

theorem sumsKept_hintsChecked (s : State) (dies : List Frac) : SumsKept s (hintsChecked s dies) :=
  sumsKept_foldl (fun _ _ => (sumsKept_hintRises ..).trans (sumsKept_hintCheck ..)) _ s

theorem exec_powerEstimate {s : State} (sample : PowerSample) (now : Nat) (harm : notArmed s hrtPg) : ∃ p amps dies,
    exec (.powerEstimate sample now) s = .next (hintsChecked (sampleSummed (showPeriod (decided (tick s now) sample)
      (frMul (corrK s) (rawEstimate (tick s now) sample)) p amps) sample (rawEstimate (tick s now) sample)) dies) := by
  have hinj : injectPhase (tick s now) = tick s now := by
    rw [injectPhase, injectEvent_notArmed (s := tick s now) harm]
  let u := floorCheck (evalGuard (tick s now))
  refine ⟨makePlan u sample, (List.range 11).map (railCurrent u sample), (List.range 4).map (fun d => railsPower u sample [d]), ?_⟩
  show execPowerEstimate sample now s = _
  rw [execPowerEstimate, hinj]
  rfl

theorem rdW_sampleSummed (s : State) (x : PowerSample) (raw : Frac) (o : Nat) : rdW (sampleSummed s x raw) o = rdW s o := rfl

theorem sumsKept_tick (s : State) (now : Nat) : SumsKept s (tick s now) := ⟨rfl, rfl, rfl, rfl, fun _ => rfl⟩

/-- A decision between what its parts keep. -/
theorem periodSummed {s u v t : State} {est raw : Frac} {sample : PowerSample} (hdecided : SumsKept s u)
    (hshown : SumsKept (estimateShown u est) v) (hhints : SumsKept (sampleSummed v sample raw) t) :
    rdF t (hrtPg + 0x120) 15 0 = min (frFloor est) 0xFFFF ∧ t.hrt.sample = sample ∧ t.hrt.rawCnt = s.hrt.rawCnt + 1 ∧
    t.hrt.rawSum = frAdd s.hrt.rawSum raw ∧ t.tl = s.tl ∧ t.mem = s.mem := by
  have hreg : IsSumReg (hrtPg + 0x120) := ⟨by decide, by decide⟩
  have hshow : HearthOnly u (estimateShown u est) := (windowOnly_wr ..).hearthOnly
  have hsum : HearthOnly v (sampleSummed v sample raw) := rfl
  have hall : HearthOnly s t := (((hdecided.frame.trans hshow).trans hshown.frame).trans hsum).trans hhints.frame
  have hcount : v.hrt.rawCnt = s.hrt.rawCnt := hshown.count.trans hdecided.count
  have hraw : v.hrt.rawSum = s.hrt.rawSum := hshown.sum.trans hdecided.sum
  refine ⟨?_, hhints.sample, by rw [hhints.count, ← hcount]; rfl, by rw [hhints.sum, ← hraw]; rfl, hall.tl_eq, hall.mem_eq⟩
  rw [rdF_of_rdW (hhints.regs hreg), rdF_of_rdW (rdW_sampleSummed ..), rdF_of_rdW (hshown.regs hreg), estimateShown,
    rdF_wrF _ _ _ _ _ (by decide) (by decide)]
  exact Nat.mod_eq_of_lt (by omega)

theorem powerEstimate_gives {s : State} (sample : PowerSample) (now : Nat) (harm : notArmed s hrtPg) :
    Gives (.powerEstimate sample now) s (fun t =>
      rdF t (hrtPg + 0x120) 15 0 = min (frFloor (frMul (corrK s) (rawEstimate (tick s now) sample))) 0xFFFF ∧
      t.hrt.sample = sample ∧ t.hrt.rawCnt = s.hrt.rawCnt + 1 ∧
      t.hrt.rawSum = frAdd s.hrt.rawSum (rawEstimate (tick s now) sample) ∧ t.tl = s.tl ∧ t.mem = s.mem) := by
  obtain ⟨p, amps, dies, hexec⟩ := exec_powerEstimate sample now harm
  exact ⟨_, hexec, periodSummed ((sumsKept_tick ..).trans (sumsKept_decided ..)) (sumsKept_showPeriod ..) (sumsKept_hintsChecked ..)⟩

/-! ### Transitions and boosts (R399, R411) -/

section
variable {s : State} {die : Fin 4} {now : Nat}

/-- The transition of a die has ended at an operating point. -/
def transitionEnded (s : State) (d goalOp : Nat) : State :=
  wrF (setAgent s d { dieAgent s d with target := none, moved := s.time }) (hrtDPg d + 0x104) 31 28 goalOp

theorem transitionEnded_agent (s : State) (d goalOp : Nat) :
    dieAgent (transitionEnded s d goalOp) d = { dieAgent s d with target := none, moved := s.time } :=
  (dieAgent_congr (congrArg Hearth.dies (wrF_hrt ..)) d).trans (dieAgent_setAgent ..)

/-- The fields of a die's STAT below the operating point keep. -/
theorem transitionEnded_field (s : State) (d goalOp d' : Nat) {hi lo : Nat} (hhi : hi < 28) :
    rdF (transitionEnded s d goalOp) (hrtDPg d' + 0x104) hi lo = rdF s (hrtDPg d' + 0x104) hi lo := by
  by_cases heq : d' = d
  · subst heq
    exact rdF_wrF_ne _ _ _ (by decide) (by omega) (.inl hhi)
  · exact rdF_of_rdW (rdW_wrF_ne _ _ _ _ (by rw [hrtDPg_eq, hrtDPg_eq]; omega)) _ _

theorem transitionEnded_want (s : State) (d goalOp : Nat) :
    min (powerCeil (transitionEnded s d goalOp)) (dieTop (transitionEnded s d goalOp) d) = min (powerCeil s) (dieTop s d) := by
  have hage : (dieAgent (transitionEnded s d goalOp) d).ageTop = (dieAgent s d).ageTop := by rw [transitionEnded_agent]
  have hlimit : rdF (transitionEnded s d goalOp) (hrtPg + 0x118) 3 0 = rdF s (hrtPg + 0x118) 3 0 :=
    rdF_of_rdW (rdW_wrF_ne _ _ _ _ (by rw [hrtDPg_eq, hrtPg]; omega)) _ _
  rw [powerCeil, powerCeil, dieTop, dieTop, thermCeil, thermCeil, transitionEnded_field _ _ _ _ (by decide),
    transitionEnded_field _ _ _ _ (by decide), hage, hlimit]

theorem transitionEnded_op (s : State) (d : Nat) {goalOp : Nat} (h : goalOp < 16) : dieOp (transitionEnded s d goalOp) d = goalOp := by
  rw [dieOp, transitionEnded, rdF_wrF _ _ _ _ _ (by decide) (by decide)]
  exact Nat.mod_eq_of_lt h

/-- A die whose transition has ended at what it may have stays. -/
theorem applyOp_stays {s : State} {d : Nat} (htarget : (dieAgent s d).target = none) (h : min (powerCeil s) (dieTop s d) = dieOp s d) :
    applyOp s d = s := by
  rw [applyOp, htarget]
  exact if_pos h

theorem opTransitionDone_gives {goalOp : Nat} (htarget : (dieAgent s die).target = some goalOp) (hop : goalOp < 16)
    (hgoal : min (powerCeil s) (dieTop s die) = goalOp) :
    Gives (.opTransitionDone die now) s (fun t => (dieAgent t die).target = none ∧ dieOp t die = goalOp ∧
      (dieAgent t die).moved = max s.time now ∧ t.tl = s.tl ∧ t.mem = s.mem) := by
  have hagent := transitionEnded_agent (tick s now) die goalOp
  have hstays : applyOp (transitionEnded (tick s now) die goalOp) die = transitionEnded (tick s now) die goalOp :=
    applyOp_stays (by rw [hagent]) ((transitionEnded_want ..).trans (hgoal.trans (transitionEnded_op _ _ hop).symm))
  have hexec : exec (.opTransitionDone die now) s = .next (showDuty (applyOp (transitionEnded (tick s now) die goalOp) die) die) := by
    have htarget' : (dieAgent (tick s now) die).target = some goalOp := htarget
    show execOpTransitionDone die now s = _
    simp only [execOpTransitionDone, htarget']
    rfl
  rw [hstays] at hexec
  have hshown : dieAgent (showDuty (transitionEnded (tick s now) die goalOp) die) die = dieAgent (transitionEnded (tick s now) die goalOp) die :=
    dieAgent_congr (congrArg Hearth.dies ((wrF_hrt ..).trans (wrF_hrt ..))) _
  have hfield : dieOp (showDuty (transitionEnded (tick s now) die goalOp) die) die = dieOp (transitionEnded (tick s now) die goalOp) die :=
    (rdF_wrF_ne _ _ _ (by decide) (by decide) (.inr (by decide))).trans (rdF_wrF_ne _ _ _ (by decide) (by decide) (.inr (by decide)))
  have hframe : HearthOnly s (showDuty (transitionEnded (tick s now) die goalOp) die) :=
    (((windowOnly_tick s now).hearthOnly.trans (hearthOnly_setAgent ..)).trans (windowOnly_wr ..).hearthOnly).trans (hearthOnly_showDuty ..)
  refine ⟨_, hexec, ?_, hfield.trans (transitionEnded_op _ _ hop), ?_, hframe.tl_eq, hframe.mem_eq⟩
  · rw [hshown, hagent]
  · rw [hshown, hagent]
    rfl

theorem hintBoostEnd_gives {b : Boost} (hboost : (dieAgent s die).boost = some b) (hdue : b.stop ≤ max s.time now) :
    Gives (.hintBoostEnd die now) s (fun t => (dieAgent t die).boost = none ∧ t.win = s.win ∧ t.tl = s.tl ∧ t.mem = s.mem) := by
  have hboost' : (dieAgent (tick s now) die).boost = some b := hboost
  have hexec : exec (.hintBoostEnd die now) s = .next (setAgent (tick s now) die { dieAgent (tick s now) die with boost := none }) := by
    show execHintBoostEnd die now s = _
    simp only [execHintBoostEnd, hboost']
    exact if_pos hdue
  exact ⟨_, hexec, congrArg DieAgent.boost (dieAgent_setAgent ..), rfl, rfl, rfl⟩

end

/-! ### The ms's correction (R402) -/

/-- A quotient in lowest terms has the floor of the quotient. -/
theorem frFloor_fr (n : Int) {d : Nat} (hd : 0 < d) : frFloor (fr n d) = (n / (d : Int)).toNat := by
  have hg : 0 < Nat.gcd n.natAbs d := Nat.gcd_pos_of_pos_right _ hd
  have hdvd : ((Nat.gcd n.natAbs d : Nat) : Int) ∣ n := Int.natCast_dvd.2 (Nat.gcd_dvd_left ..)
  obtain ⟨k, hk⟩ := Nat.gcd_dvd_right n.natAbs d
  have hkpos : 0 < k := Nat.pos_of_ne_zero fun h => by simp [h] at hk; omega
  have hquot : d / Nat.gcd n.natAbs d = k := Nat.div_eq_of_eq_mul_right hg hk
  have hden : (((d / Nat.gcd n.natAbs d - 1 + 1 : Nat)) : Int) = k := by rw [hquot]; omega
  rw [fr, if_neg (by omega), frFloor]
  dsimp only
  rw [hden]
  congr 1
  obtain ⟨m, hm⟩ := hdvd
  generalize Nat.gcd n.natAbs d = g at *
  subst hm hk
  rw [Int.mul_ediv_cancel_left _ (by omega), Nat.cast_mul, Int.mul_ediv_mul_of_pos _ _ (by omega)]

/-- A ratio between 3/4 and 3/2. -/
def InBounds (x : Frac) : Prop := 3 * ((x.den : Int) + 1) ≤ 4 * x.num ∧ 2 * x.num ≤ 3 * ((x.den : Int) + 1)

theorem inBounds_clamped (n : Frac) : InBounds (frMin (fr 3 2) (frMax (fr 3 4) n)) := by
  have hhalf : fr 3 2 = ⟨3, 1⟩ := by decide
  have hquarter : fr 3 4 = ⟨3, 3⟩ := by decide
  rw [hhalf, hquarter, frMin]
  split
  · exact ⟨by decide, by decide⟩
  · next hmin =>
    rw [frMax] at hmin ⊢
    split at hmin
    · next hmax =>
      rw [if_pos hmax]
      simp only [frLe, decide_eq_true_eq] at hmin hmax
      constructor <;> push_cast at * <;> omega
    · next hmax =>
      rw [if_neg hmax]
      exact ⟨by decide, by decide⟩

theorem frFloor_inBounds {x : Frac} (h : InBounds x) : 12288 ≤ frFloor (frMul (frNat 16384) x) ∧ frFloor (frMul (frNat 16384) x) ≤ 24576 := by
  obtain ⟨hlo, hhi⟩ := h
  have hpos : (0 : Int) < ((0 + 1) * (x.den + 1) : Nat) := by push_cast; omega
  show 12288 ≤ frFloor (fr (((16384 : Nat) : Int) * x.num) ((0 + 1) * (x.den + 1))) ∧
    frFloor (fr (((16384 : Nat) : Int) * x.num) ((0 + 1) * (x.den + 1))) ≤ 24576
  rw [frFloor_fr _ (by omega)]
  have hdown : (12288 : Int) ≤ ((16384 : Nat) : Int) * x.num / ((0 + 1) * (x.den + 1) : Nat) := by
    rw [Int.le_ediv_iff_mul_le hpos]
    push_cast
    omega
  have hup : ((16384 : Nat) : Int) * x.num / ((0 + 1) * (x.den + 1) : Nat) ≤ 24576 := by
    refine Int.lt_add_one_iff.1 ((Int.ediv_lt_iff_lt_mul hpos).2 ?_)
    push_cast
    omega
  omega

theorem nextK_bounds (k ratio : Frac) : 12288 ≤ nextK k ratio ∧ nextK k ratio ≤ 24576 := frFloor_inBounds (inBounds_clamped _)

section
variable (s : State)

theorem sumsKept_noteDrift (ratio : Frac) : SumsKept s (noteDrift s ratio) := by
  have hput (n : Nat) : SumsKept s { s with hrt := { s.hrt with drift := n } } := sumsKept_setHrt s rfl rfl rfl
  have hdrift (u : State) (r : LogRec) : SumsKept u (evalGuard (clinker (inc (intSet (wrB u (hrtPg + 0x104) 4 true) hrtPg 4) (hrtPg + 0x16C)) r)) :=
    ((((sumsKept_wrB _ _ _ (not_sumReg (.inl (by decide)))).trans (sumsKept_intSet _ _ (not_sumReg (.inl (by decide))))).trans
      (sumsKept_inc _ (not_sumReg (.inr (by decide))))).trans (sumsKept_clinker ..)).trans (sumsKept_evalGuard _)
  exact .ite ((hput 0).trans (hdrift _ _)) (hput _)

theorem sumsKept_floorUpdate (measW : Nat) : SumsKept s (floorUpdate s measW) := by
  have hshown (floor pace : Nat) : SumsKept s (floorCheck (wr (wrF s (hrtPg + 0x110) 15 0 floor) (hrtPg + 0x13C) pace)) :=
    ((sumsKept_wrF _ _ _ _ (not_sumReg (.inl (by decide)))).trans (sumsKept_wr _ _ (not_sumReg (.inr (by decide))))).trans (sumsKept_floorCheck _)
  rw [floorUpdate]
  exact hshown _ _

/-- The ms in which power was limited is counted. -/
def limitCounted : State := if rdF s (hrtPg + 0x104) 2 1 = 1 then inc s (hrtPg + 0x160) else s

theorem sumsKept_limitCounted : SumsKept s (limitCounted s) := .ite (sumsKept_inc _ (not_sumReg (.inr (by decide)))) (.refl s)

/-- The dies' agents with their stretched cycles cleared. -/
def unstretched (l : Cells DieAgent) : Cells DieAgent :=
  (l.map (fun c => (c.1, { c.2 with stretch := 0 }))).filter (fun c => c.2 != ({} : DieAgent))

/-- The ms's sum begins anew. -/
def sumCleared : State := { s with hrt := { s.hrt with rawSum := ⟨0, 0⟩, rawCnt := 0, dies := unstretched s.hrt.dies } }

/-- The measurement is shown. -/
def measured (measW : Nat) : State := wrF s (hrtPg + 0x124) 15 0 (min measW 0xFFFF)

theorem exec_estimatorCorrection (measW now : Nat) : exec (.estimatorCorrection measW now) s =
    .next (sumCleared (limitCounted (floorUpdate (correct (measured (tick s now) measW) measW) measW))) := rfl

/-- What a ms without an estimate leaves. -/
theorem correct_none (measW : Nat) (h : s.hrt.rawCnt = 0 ∨ frLe s.hrt.rawSum ⟨0, 0⟩ = true) : correct s measW = s := if_pos h

/-- k moves toward the ratio. -/
def corrected (measW : Nat) : State :=
  wrF s (hrtPg + 0x128) 15 0 (nextK (corrK s) (frDiv (frNat (measW * s.hrt.rawCnt)) s.hrt.rawSum))

theorem correct_some (measW : Nat) (h : ¬ (s.hrt.rawCnt = 0 ∨ frLe s.hrt.rawSum ⟨0, 0⟩ = true)) :
    correct s measW = noteDrift (corrected s measW) (frDiv (frNat (measW * s.hrt.rawCnt)) s.hrt.rawSum) := if_neg h

end

section
variable {s t : State} {measW : Nat}

theorem measured_rd : rdF (measured s measW) (hrtPg + 0x124) 15 0 = min measW 0xFFFF := by
  rw [measured, rdF_wrF _ _ _ _ _ (by decide) (by decide)]
  exact Nat.mod_eq_of_lt (by omega)

theorem measured_k : rdW (measured s measW) (hrtPg + 0x128) = rdW s (hrtPg + 0x128) := rdW_wrF_ne _ _ _ _ (by decide)

theorem measured_hrt : (measured s measW).hrt = s.hrt := wrF_hrt ..

theorem corrK_measured : corrK (measured s measW) = corrK s := by rw [corrK, rdF_of_rdW measured_k, corrK]

theorem corrected_k : rdF (corrected (measured s measW) measW) (hrtPg + 0x128) 15 0 =
    nextK (corrK s) (frDiv (frNat (measW * s.hrt.rawCnt)) s.hrt.rawSum) := by
  rw [corrected, corrK_measured, measured_hrt, rdF_wrF _ _ _ _ _ (by decide) (by decide)]
  have hhi := (nextK_bounds (corrK s) (frDiv (frNat (measW * s.hrt.rawCnt)) s.hrt.rawSum)).2
  exact Nat.mod_eq_of_lt (by omega)

theorem corrected_measure (s : State) : rdW (corrected s measW) (hrtPg + 0x124) = rdW s (hrtPg + 0x124) := rdW_wrF_ne _ _ _ _ (by decide)

theorem correct_frame (s : State) (measW : Nat) : HearthOnly s (correct s measW) ∧ rdW (correct s measW) (hrtPg + 0x124) = rdW s (hrtPg + 0x124) := by
  by_cases h : s.hrt.rawCnt = 0 ∨ frLe s.hrt.rawSum ⟨0, 0⟩ = true
  · rw [correct_none s measW h]
    exact ⟨.refl s, rfl⟩
  · rw [correct_some s measW h]
    exact ⟨(windowOnly_wr ..).hearthOnly.trans (sumsKept_noteDrift ..).frame, ((sumsKept_noteDrift ..).regs ⟨by decide, by decide⟩).trans (corrected_measure s)⟩

theorem sumsKept_afterCorrect (s : State) (measW : Nat) : SumsKept s (limitCounted (floorUpdate s measW)) :=
  (sumsKept_floorUpdate ..).trans (sumsKept_limitCounted _)

theorem estimatorCorrection_gives (measW now : Nat) (s : State) : Gives (.estimatorCorrection measW now) s (fun t =>
    rdF t (hrtPg + 0x124) 15 0 = min measW 0xFFFF ∧ t.hrt.rawCnt = 0 ∧ t.hrt.rawSum = ⟨0, 0⟩ ∧
    ((s.hrt.rawCnt = 0 ∨ frLe s.hrt.rawSum ⟨0, 0⟩ = true) → rd t (hrtPg + 0x128) = rd s (hrtPg + 0x128)) ∧
    (s.hrt.rawCnt ≠ 0 → frLe s.hrt.rawSum ⟨0, 0⟩ = false →
      rdF t (hrtPg + 0x128) 15 0 = nextK (corrK s) (frDiv (frNat (measW * s.hrt.rawCnt)) s.hrt.rawSum) ∧
      12288 ≤ rdF t (hrtPg + 0x128) 15 0 ∧ rdF t (hrtPg + 0x128) 15 0 ≤ 24576) ∧ t.tl = s.tl ∧ t.mem = s.mem) := by
  have hcorrect := correct_frame (measured (tick s now) measW) measW
  have hafter := sumsKept_afterCorrect (correct (measured (tick s now) measW) measW) measW
  have hk : IsSumReg (hrtPg + 0x128) := ⟨by decide, by decide⟩
  have hframe : HearthOnly s (limitCounted (floorUpdate (correct (measured (tick s now) measW) measW) measW)) :=
    (((windowOnly_tick s now).trans (windowOnly_wr ..)).hearthOnly.trans hcorrect.1).trans hafter.frame
  refine ⟨_, exec_estimatorCorrection s measW now, ?_, rfl, rfl, fun hnone => ?_, fun hcount hsum => ?_, hframe.tl_eq, hframe.mem_eq⟩
  · exact (rdF_of_rdW (hafter.regs ⟨by decide, by decide⟩) 15 0).trans ((rdF_of_rdW hcorrect.2 15 0).trans measured_rd)
  · have hkept := correct_none (measured (tick s now) measW) measW (by rw [measured_hrt]; exact hnone)
    exact (rd_of_rdW (hafter.regs hk)).trans (by rw [hkept]; exact rd_of_rdW measured_k)
  · have hsome := correct_some (measured (tick s now) measW) measW (by
      rw [measured_hrt]
      exact not_or.2 ⟨hcount, ne_true_of_eq_false hsum⟩)
    have hnext : rdF (limitCounted (floorUpdate (correct (measured (tick s now) measW) measW) measW)) (hrtPg + 0x128) 15 0 =
        nextK (corrK s) (frDiv (frNat (measW * s.hrt.rawCnt)) s.hrt.rawSum) := by
      rw [rdF_of_rdW (hafter.regs hk), hsome, rdF_of_rdW ((sumsKept_noteDrift ..).regs hk)]
      exact corrected_k (s := tick s now)
    have hbounds := nextK_bounds (corrK s) (frDiv (frNat (measW * s.hrt.rawCnt)) s.hrt.rawSum)
    exact ⟨hnext, hnext ▸ hbounds.1, hnext ▸ hbounds.2⟩

end

end Sys2Proof.Machine
end

section
/-!
HRT_HINT (16_hearth_power_thermal.md R410, R411). O40.
-/
namespace Sys2Proof.Machine

/-! ### A die's hints -/

theorem dieAgent_inc (s : State) (o d : Nat) : dieAgent (inc s o) d = dieAgent s d := dieAgent_congr (congrArg Hearth.dies (inc_hrt ..)) d

/-- The values of a map changed key by key, where they are. -/
theorem cGet_map {α : Type} (f : Nat → α → α) (m : Cells (Option α)) (k : Nat) :
    cGet (fun _ => none) (m.map (fun y => (y.1, y.2.map (f y.1)))) k = (cGet (fun _ => none) m k).map (f k) := by
  induction m with
  | nil => rfl
  | cons y m ih =>
    rw [List.map_cons, cGet, cGet]
    by_cases h : y.1 = k
    · rw [if_pos h, if_pos h, h]
    · rw [if_neg h, if_neg h, ih]

/-- Two hints of one interval and one level. -/
def SameHint (h h' : Hint) : Prop := h'.start = h.start ∧ h'.stop = h.stop ∧ h'.level = h.level

/-- A hint of the list l is decided. -/
def decideHint (l : List (Nat × Hint)) (k : Nat) (h : Hint) : Hint := if l.any (fun z => z.1 == k) then { h with decided := true } else h

theorem sameHint_decideHint (l : List (Nat × Hint)) (k : Nat) (h : Hint) : SameHint h (decideHint l k h) := by
  rw [decideHint]
  split
  · exact ⟨rfl, rfl, rfl⟩
  · exact ⟨rfl, rfl, rfl⟩

/-- The check of a die's hints keeps each hint, and changes registers of no more than the die's count of hints that it refused. -/
structure HintsKept (d : Nat) (s t : State) : Prop where
  frame : HearthOnly s t
  regs  : ∀ {o}, o ≠ hrtDPg d + 0x134 → rdW t o = rdW s o
  hints : ∀ {k h}, cGet (fun _ => none) (dieAgent s d).hints k = some h → ∃ h', cGet (fun _ => none) (dieAgent t d).hints k = some h' ∧ SameHint h h'

theorem HintsKept.refl (d : Nat) (s : State) : HintsKept d s s := ⟨.refl s, fun _ => rfl, fun h => ⟨_, h, rfl, rfl, rfl⟩⟩

section
variable (s : State) (d : Nat)

/-- The hints of a list are decided, and the die may boost. -/
def hintsDecided (l : List (Nat × Hint)) (boost : Option Boost) : State :=
  setAgent s d { dieAgent s d with hints := (dieAgent s d).hints.map (fun y => (y.1, y.2.map (decideHint l y.1))), boost := boost }

theorem hintsKept_hintsDecided (l : List (Nat × Hint)) (boost : Option Boost) : HintsKept d s (hintsDecided s d l boost) where
  frame := hearthOnly_setAgent ..
  regs _ := rdW_setAgent ..
  hints {k h} hk := by
    refine ⟨decideHint l k h, ?_, sameHint_decideHint ..⟩
    rw [hintsDecided, dieAgent_setAgent, cGet_map, hk]
    rfl

theorem hintsKept_refused (l : List (Nat × Hint)) (boost : Option Boost) : HintsKept d s (inc (hintsDecided s d l boost) (hrtDPg d + 0x134)) where
  frame := (hearthOnly_setAgent ..).trans (windowOnly_inc ..).hearthOnly
  regs ho := (rdW_inc_ne _ ho).trans (rdW_setAgent ..)
  hints hk := by
    rw [dieAgent_inc]
    exact (hintsKept_hintsDecided s d l boost).hints hk

theorem hintsKept_hintCheck : HintsKept d s (hintCheck s d) := by
  have hcase (c : Prop) [Decidable c] (e : Prop) [Decidable e] (l : List (Nat × Hint)) (b : Option Boost) : HintsKept d s (if c then s else
      if e then hintsDecided s d l b else inc (hintsDecided s d l (dieAgent s d).boost) (hrtDPg d + 0x134)) := by
    by_cases hc : c
    · rw [if_pos hc]
      exact .refl d s
    · by_cases he : e
      · rw [if_neg hc, if_pos he]
        exact hintsKept_hintsDecided ..
      · rw [if_neg hc, if_neg he]
        exact hintsKept_refused ..
  rw [hintCheck]
  dsimp only
  split
  · exact .refl d s
  · exact hcase _ _ _ _

end

/-! ### HRT_HINT -/

/-- The hint of a command's word, with its die's estimate. -/
def hintOf (s : State) (w : Nat) (est : Frac) : Hint :=
  { start := s.time + 1000 * bitsOf w 9 0, stop := s.time + 1000 * bitsOf w 9 0 + 1000 * bitsOf w 29 14, level := bitsOf w 13 10,
    base := est, decided := false }

/-- An agent with a hint. -/
def DieAgent.withHint (a : DieAgent) (k : Nat) (h : Hint) : DieAgent := { a with hints := cSet (fun _ => none) a.hints k (some h) }

/-- A tile's hint is held and counted. -/
def hintHeld (s : State) (t w : Nat) : State :=
  inc (setAgent s (t / 72) ((dieAgent s (t / 72)).withHint (t % 72) (hintOf s w (dieAgent s (t / 72)).est))) (hrtDPg (t / 72) + 0x128)

/-- A late hint is counted, and its die's hints are checked at once. -/
def lateChecked (s : State) (d : Nat) : State := hintCheck (inc s (hrtDPg d + 0x12C)) d

section
variable (s : State) (t w : Nat)

theorem hintHeld_frame : HearthOnly s (hintHeld s t w) := (hearthOnly_setAgent ..).trans (windowOnly_inc ..).hearthOnly

theorem hintHeld_hint : cGet (fun _ => none) (dieAgent (hintHeld s t w) (t / 72)).hints (t % 72) = some (hintOf s w (dieAgent s (t / 72)).est) := by
  rw [hintHeld, dieAgent_inc, dieAgent_setAgent, DieAgent.withHint, cGet_cSet_same]

theorem rdW_hintHeld {o : Nat} (h : o ≠ hrtDPg (t / 72) + 0x128) : rdW (hintHeld s t w) o = rdW s o := (rdW_inc_ne _ h).trans (rdW_setAgent ..)

theorem counted_hintHeld : Counted s (hintHeld s t w) (hrtDPg (t / 72) + 0x128) 1 := counted_inc_of_rd rfl

end

section
variable (s : State) (d : Nat)

theorem hintsKept_counted : HearthOnly s (inc s (hrtDPg d + 0x12C)) := (windowOnly_inc ..).hearthOnly

theorem lateChecked_frame : HearthOnly s (lateChecked s d) := (hintsKept_counted s d).trans (hintsKept_hintCheck ..).frame

theorem rdW_lateChecked {o : Nat} (h1 : o ≠ hrtDPg d + 0x12C) (h2 : o ≠ hrtDPg d + 0x134) : rdW (lateChecked s d) o = rdW s o :=
  ((hintsKept_hintCheck ..).regs h2).trans (rdW_inc_ne _ h1)

theorem counted_lateChecked : Counted s (lateChecked s d) (hrtDPg d + 0x12C) 1 := by
  rw [Counted, lateChecked, rd_of_rdW ((hintsKept_hintCheck ..).regs (by omega))]
  exact counted_inc_of_rd rfl

theorem lateChecked_hint {k : Nat} {h : Hint} (hk : cGet (fun _ => none) (dieAgent s d).hints k = some h) :
    ∃ h', cGet (fun _ => none) (dieAgent (lateChecked s d) d).hints k = some h' ∧ SameHint h h' := by
  rw [← dieAgent_inc s (hrtDPg d + 0x12C) d] at hk
  exact (hintsKept_hintCheck (inc s (hrtDPg d + 0x12C)) d).hints hk

end

section
variable {i : Issue} {s : State}

/-- The delay of a late hint is below the boost's, which the window gives. -/
theorem hintLate_iff (t : Nat) : (s.time + 1000 * bitsOf i.w 9 0 < s.time + 100 * min 40 (rdF (hintHeld s t i.w) (hrtPg + 0x144) 5 0)) ↔
    hintLate i s = true := by
  have hreg : rdF (hintHeld s t i.w) (hrtPg + 0x144) 5 0 = rdF s (hrtPg + 0x144) 5 0 :=
    rdF_of_rdW (rdW_hintHeld _ _ _ (by rw [hrtDPg_eq, hrtPg]; omega)) _ _
  rw [hreg, hintLate, decide_eq_true_eq]
  omega

/-- What the operation does before it retires. -/
def hintTaken (i : Issue) (s : State) : State :=
  if hintLate i s then lateChecked (hintHeld (i.here s) i.tile i.w) (i.tile.val / 72) else hintHeld (i.here s) i.tile i.w

theorem exec_hrtHint (h : Ready 7 0x30 (fun w => zero w 47 30) noRegs i s) : exec (.hrtHint i) s = .next (i.retired s (hintTaken i s)) := by
  have hlate : hintLate i (i.here s) = hintLate i s := rfl
  show execHrtHint i s = _
  refine (issueOp_ready h rfl).trans ?_
  show issued i s (if (i.here s).time + 1000 * bitsOf i.w 9 0 <
      (i.here s).time + 100 * min 40 (rdF (hintHeld (i.here s) i.tile.val i.w) (hrtPg + 0x144) 5 0) then
    .done (lateChecked (hintHeld (i.here s) i.tile.val i.w) (i.tile.val / 72)) else .done (hintHeld (i.here s) i.tile.val i.w)) = _
  rw [hintTaken, ← hlate]
  by_cases hl : hintLate i (i.here s) = true
  · rw [if_pos ((hintLate_iff (s := i.here s) i.tile.val).2 hl), if_pos hl, issued]
  · rw [if_neg (mt (hintLate_iff (s := i.here s) i.tile.val).1 hl), if_neg hl, issued]

theorem hintTaken_frame : HearthOnly s (hintTaken i s) := by
  have hheld : HearthOnly s (hintHeld (i.here s) i.tile i.w) := (windowOnly_tick ..).hearthOnly.trans (hintHeld_frame ..)
  rw [hintTaken]
  exact hearthOnly_ite (hheld.trans (lateChecked_frame ..)) hheld

theorem hintTaken_counted : Counted s (hintTaken i s) (hrtDPg (i.tile.val / 72) + 0x128) 1 := by
  have hheld := counted_hintHeld (i.here s) i.tile i.w
  rw [hintTaken]
  split
  · rw [Counted, rd_of_rdW (rdW_lateChecked _ _ (by omega) (by omega))]
    exact hheld
  · exact hheld

theorem hintTaken_late (h : hintLate i s = true) : Counted s (hintTaken i s) (hrtDPg (i.tile.val / 72) + 0x12C) 1 := by
  have hcounted := counted_lateChecked (hintHeld (i.here s) i.tile i.w) (i.tile.val / 72)
  have hkept : rd (hintHeld (i.here s) i.tile i.w) (hrtDPg (i.tile.val / 72) + 0x12C) = rd s (hrtDPg (i.tile.val / 72) + 0x12C) :=
    rd_of_rdW (rdW_hintHeld _ _ _ (by omega))
  rw [Counted, hkept] at hcounted
  rw [hintTaken, if_pos h]
  exact hcounted

theorem hintTaken_hint : ∃ h, cGet (fun _ => none) (dieAgent (hintTaken i s) (i.tile.val / 72)).hints (i.tile.val % 72) = some h ∧
    h.start = max s.time i.now + 1000 * bitsOf i.w 9 0 ∧ h.stop = h.start + 1000 * bitsOf i.w 29 14 ∧ h.level = bitsOf i.w 13 10 ∧
    (hintLate i s = false → h.decided = false) := by
  have hheld := hintHeld_hint (i.here s) i.tile i.w
  rw [hintTaken]
  split
  · next hlate =>
    obtain ⟨h, hh, hstart, hstop, hlevel⟩ := lateChecked_hint _ (i.tile.val / 72) hheld
    exact ⟨h, hh, hstart, by rw [hstart, hstop]; rfl, hlevel, fun hnot => absurd hlate (ne_true_of_eq_false hnot)⟩
  · exact ⟨_, hheld, rfl, rfl, rfl, fun _ => rfl⟩

theorem rdW_retire_agent (s : State) (t th pc d : Nat) {x : Nat} (hx : x < 0x1000) : rdW (retire s t th pc) (hrtDPg d + x) = rdW s (hrtDPg d + x) := by
  apply retire_rdW <;> simp only [tilePg, hrtDPg_eq] <;> omega

theorem hrtHint_gives (h : Ready 7 0x30 (fun w => zero w 47 30) noRegs i s) : Gives (.hrtHint i) s (fun t =>
    (∃ h, cGet (fun _ => none) (dieAgent t (i.tile.val / 72)).hints (i.tile.val % 72) = some h ∧
      h.start = max s.time i.now + 1000 * bitsOf i.w 9 0 ∧ h.stop = h.start + 1000 * bitsOf i.w 29 14 ∧ h.level = bitsOf i.w 13 10 ∧
      (hintLate i s = false → h.decided = false)) ∧
    Counted s t (hrtDPg (i.tile.val / 72) + 0x128) 1 ∧
    (hintLate i s = true → Counted s t (hrtDPg (i.tile.val / 72) + 0x12C) 1) ∧
    WroteNone i s t ∧ (i.thread t).pc = BitVec.ofNat 32 (pcOf i s + 8) ∧ t.tl.spad = s.tl.spad ∧ t.mem = s.mem) := by
  have hframe := hintTaken_frame (i := i) (s := s)
  have hagent : dieAgent (i.retired s (hintTaken i s)) (i.tile.val / 72) = dieAgent (hintTaken i s) (i.tile.val / 72) :=
    dieAgent_congr (congrArg Hearth.dies (retire_hrt ..)) _
  have hcount {x n : Nat} (hx : x < 0x1000) (hc : Counted s (hintTaken i s) (hrtDPg (i.tile.val / 72) + x) n) :
      Counted s (i.retired s (hintTaken i s)) (hrtDPg (i.tile.val / 72) + x) n := (rd_of_rdW (rdW_retire_agent _ _ _ _ _ hx)).trans hc
  refine ⟨_, exec_hrtHint h, ?_, hcount (by decide) hintTaken_counted, fun hlate => hcount (by decide) (hintTaken_late hlate),
    wroteNone_retired hframe.tl_eq, ?_, (retire_tl_spad ..).trans (congrArg Tiles.spad hframe.tl_eq), (retire_mem ..).trans hframe.mem_eq⟩
  · rw [hagent]
    exact hintTaken_hint
  · exact congrArg Thread.pc (retire_thr ..)

end

/-- Settles O40: the decision, a transition's and a boost's end, the correction and a hint, each by its own lemma. -/
theorem hearthPeriods : Obligations.HearthPeriods := by
  unfold Obligations.HearthPeriods
  exact ⟨fun sample now s harm => powerEstimate_gives sample now harm, fun die now s goalOp htarget hop hgoal => opTransitionDone_gives htarget hop hgoal,
    fun die now s b hboost hdue => hintBoostEnd_gives hboost hdue, estimatorCorrection_gives, fun i s h => hrtHint_gives h⟩

end Sys2Proof.Machine
end

section
/-!
A reset of a partition leaves calibration's records, windows and due list (17_startup_calibration.md R431, R434). A layer under O44.
-/
namespace Sys2Proof.Machine

/-- Calibration is as it was. -/
structure CalKept (s t : State) : Prop where
  cal : t.cal = s.cal

section
variable {s t u : State}

theorem CalKept.refl (s : State) : CalKept s s := ⟨rfl⟩
theorem CalKept.trans (h1 : CalKept s t) (h2 : CalKept t u) : CalKept s u := ⟨h2.cal.trans h1.cal⟩

theorem CalKept.ite {c : Prop} [Decidable c] (ht : CalKept s t) (hu : CalKept s u) : CalKept s (if c then t else u) := by
  split
  · exact ht
  · exact hu

theorem CalKept.when {c : Prop} [Decidable c] (ht : CalKept s t) : CalKept s (if c then t else s) := ht.ite (.refl s)
theorem CalKept.unless {c : Prop} [Decidable c] (ht : CalKept s t) : CalKept s (if c then s else t) := CalKept.ite (.refl s) ht

theorem calKept_foldl {α : Type} {f : State → α → State} (hf : ∀ s a, CalKept s (f s a)) (l : List α) (s : State) : CalKept s (l.foldl f s) := by
  induction l generalizing s with
  | nil => exact .refl s
  | cons a l ih => exact (hf s a).trans (ih _)

theorem LogOnly.calKept (h : LogOnly s t) : CalKept s t := ⟨h.cal_eq⟩
theorem WindowOnly.calKept (h : WindowOnly s t) : CalKept s t := h.logOnly.calKept

end

section
variable (s : State) (t : Nat)

theorem calKept_wr (o v : Nat) : CalKept s (wr s o v) := (windowOnly_wr ..).calKept
theorem calKept_intSet (pg bits : Nat) : CalKept s (intSet s pg bits) := (windowOnly_intSet ..).calKept

/-! ### Bellows' descriptors -/

theorem calKept_lateWrite (th gen r mark : Nat) (v : W64) : CalKept s (lateWrite s t th gen r mark v) := by
  rw [lateWrite]
  exact .when ⟨rfl⟩

theorem calKept_reportDesc (d : BDesc) (code off : Nat) : CalKept s (reportDesc s t d code off) := by
  have hfault (u : State) (th : Nat) : CalKept u (if code = 0 then u
      else latchBlk (inc (intSet u (blwTPg t) 1) (blwTPg t + 0x13C)) (blwTPg t) (th * 256 + code) d.src) :=
    .unless (((calKept_intSet ..).trans (calKept_wr ..)).trans (windowOnly_latchErr ..).calKept)
  have hring (u : State) : CalKept u (match d.ring with
      | some r => { u with blw := { u.blw with xfers := cSet (fun _ => none) u.blw.xfers (4 * r.1 + r.2) (some code) } }
      | none => u) := by
    split
    · exact ⟨rfl⟩
    · exact ⟨rfl⟩
  have hthr : CalKept s (match d.thr with
      | some x => lateWrite s t x.1 x.2.1 x.2.2 (markBlw d.id) (statusWord code off)
      | none => s) := by
    split
    · exact calKept_lateWrite ..
    · exact .refl s
  exact (hthr.trans (hring _)).trans (hfault _ _)

theorem calKept_setDescs (l : List BDesc) : CalKept s (setDescs s t l) := ⟨rfl⟩

theorem calKept_completeDesc (d : BDesc) (code off : Nat) : CalKept s (completeDesc s t d code off) := by
  have hwake (u : State) : CalKept u (wakeFences u t) := ⟨rfl⟩
  exact ((calKept_setDescs ..).trans (calKept_reportDesc ..)).trans (hwake _)

theorem calKept_completeDrain (d : BDesc) (code : Nat) : CalKept s (completeDrain s t d code) :=
  ((calKept_wr ..).trans (calKept_wr ..)).trans (calKept_completeDesc ..)

theorem calKept_releaseTile (ds : List BDesc) : CalKept s (releaseTile t ds s) := by
  induction ds generalizing s with
  | nil => exact .refl s
  | cons d ds ih => exact (CalKept.when (calKept_completeDrain ..)).trans (ih _)

theorem calKept_releaseDrain (p : Nat) : CalKept s (releaseDrain s p) := by
  have hnone : CalKept s (setDrain s p none) := ⟨rfl⟩
  exact hnone.trans (calKept_foldl (fun _ _ => calKept_releaseTile ..) ..)

theorem calKept_arriveDrain (p : Nat) (d : BDesc) : CalKept s (arriveDrain s t p d) := by
  have hwait (u : State) (d : BDesc) : CalKept u (putDesc u t d) := ⟨rfl⟩
  have hopen (x : Option (Nat × List Nat)) (d : BDesc) : CalKept s (putDesc (setDrain s p x) t d) := ⟨rfl⟩
  rw [arriveDrain]
  split
  · exact .ite ((hopen ..).trans (calKept_releaseDrain ..)) (hopen ..)
  · refine .ite ((calKept_intSet ..).trans (calKept_completeDrain ..)) (.ite (hwait ..) ?_)
    exact .ite ((hopen ..).trans (calKept_releaseDrain ..)) (hopen ..)

theorem calKept_settleDrains (ds : List BDesc) : CalKept s (settleDrains t ds s) := by
  induction ds generalizing s with
  | nil => exact .refl s
  | cons d ds ih =>
    rw [settleDrains]
    refine CalKept.trans (.when ?_) (ih _)
    split
    · exact calKept_arriveDrain ..
    · exact calKept_completeDrain ..

theorem calKept_sthDone (q : SthPart) (code : Nat) : CalKept s (sthDone s q code) := by
  have hunblock (u : State) : CalKept u (unblockPart u q) := by
    rw [unblockPart]
    exact .when ⟨rfl⟩
  have hwake (u : State) : CalKept u (wakeFences u q.tile) := ⟨rfl⟩
  exact ((((calKept_setDescs s ..).trans (calKept_lateWrite ..)).trans (hunblock _)).trans (hwake _)).trans (calKept_settleDrains ..)

/-! ### A tile's reset -/

theorem calKept_beginReset (test : Bool) : CalKept s (beginReset s t test) := by
  have hthreads (u : State) : CalKept u (resetThreads u t) := ⟨rfl⟩
  have hscratch (u : State) : CalKept u (resetScratch u t) := ⟨wr_cal ..⟩
  have hanvils (u : State) : CalKept u (resetAnvils u t) := ⟨rfl⟩
  have htransfers (u : State) : CalKept u (resetTransfers u t) := by
    refine ⟨?_⟩
    show (dropRings (descsOf u t) u).cal = u.cal
    rw [dropRings_keeps]
  have hrun (u : State) : CalKept u (resetTileRegs (resetTransfers (resetAnvils (resetScratch (resetThreads u t) t) t) t) t) :=
    ((((hthreads u).trans (hscratch _)).trans (hanvils _)).trans (htransfers _)).trans (windowOnly_resetTileRegs ..).calKept
  exact .unless (((calKept_wr ..).trans (calKept_wr ..)).trans (hrun _))

end

/-! ### A partition's units -/

section
variable (s : State) (sl : Nat)

theorem calKept_clearStash : CalKept s (clearStash s sl) := by
  have hlane (u : State) (l : Nat) : CalKept u (clearLane u sl l) :=
    .trans (t := setLane u sl l {}) ⟨rfl⟩ (calKept_foldl (fun _ _ => calKept_sthDone ..) ..)
  have hlanes : CalKept s ([0, 1, 2, 3].foldl (fun s l => clearLane s sl l) s) := calKept_foldl hlane _ s
  have hflag (u : State) : CalKept u (wrB u (sthPg sl + 0x108) 0 false) := calKept_wr ..
  exact hlanes.trans (hflag _)

theorem calKept_resetRings : CalKept s (resetRings s sl) := by
  have hring (u : State) (n : Nat) : CalKept u (setRing u sl n {}) := ⟨rfl⟩
  have hxfers (u : State) (x : Cells (Option Nat)) : CalKept u { u with blw := { u.blw with xfers := x } } := ⟨rfl⟩
  exact calKept_foldl (fun u n => ((hring u n).trans (calKept_wr ..)).trans (hxfers ..)) _ s

theorem calKept_resetQuench (n : Nat) : CalKept s (resetQuench s n sl) := by
  have hqch (u : State) (x : Quench) : CalKept u { u with qch := x } := ⟨rfl⟩
  have hdiscard : CalKept s (discardPages s n sl) := (hqch s _).trans (calKept_wr ..)
  have hdisarm (u : State) : CalKept u (disarm u sl) := (calKept_wr ..).trans (hqch _ _)
  exact ((((hdiscard.trans (hdisarm _)).trans (hqch _ _)).trans (hqch _ _)).trans ((calKept_wr ..).trans (calKept_wr ..))).trans
    (calKept_foldl (fun _ _ => calKept_wr ..) ..)

theorem calKept_billetEnd (p code : Nat) : CalKept s (billetEnd s p sl code) := by
  have hblt (u : State) (x : Billet) : CalKept u (setBlt u sl x) := ⟨rfl⟩
  have hphase (u : State) : CalKept u (setBltStatus (setPhase u sl 0) sl code) := ((calKept_wr ..).trans (calKept_wr ..)).trans (calKept_wr ..)
  rw [billetEnd]
  split
  · exact ((((hblt ..).trans (hphase _)).trans (calKept_intSet ..)).trans (calKept_wr ..)).trans (logOnly_clinker ..).calKept
  · split
    · exact ((hblt ..).trans (hphase _)).trans (calKept_intSet ..)
    · exact .refl s

theorem calKept_beginPartReset (n : Nat) : CalKept s (beginPartReset s n) := by
  have hunits (u : State) (sl : Nat) : CalKept u (wrB (wrB (resetQuench (resetRings (clearStash u sl) sl) n sl) (tmpPg sl + 0x100) 0 false)
      (seqPg sl + 0x100) 0 false) :=
    ((((calKept_clearStash ..).trans (calKept_resetRings ..)).trans (calKept_resetQuench ..)).trans (calKept_wr ..)).trans (calKept_wr ..)
  have hseq (u : State) (sl : Nat) (x : SeqTable) (y : Billet) : CalKept u (setBlt (setDrain (setSeq u sl x) n none) sl y) := ⟨rfl⟩
  have hend (u : State) (sl : Nat) : CalKept u (wrB (billetEnd u n sl 6) (bltPg sl + 0x100) 1 false) := (calKept_billetEnd ..).trans (calKept_wr ..)
  have htiles (u : State) (l : List Nat) : CalKept u (l.foldl (fun s t => beginReset s t false) u) := calKept_foldl (fun _ _ => calKept_beginReset ..) l u
  exact ((((calKept_wr ..).trans (htiles ..)).trans (hunits ..)).trans (hseq ..)).trans (hend ..)

end

end Sys2Proof.Machine
end

section
/-!
Calibration records and windows (17_startup_calibration.md R431 to R434, R437). O44.
-/
namespace Sys2Proof.Machine

/-! ### The due list and the records -/

/-- Steps on records and the due list: time, tiles, memory, windows and lanes are as they were, and of registers only what the calibration
page shows of the due list, its interrupts and its count of records out of band differ. -/
structure DueMoved (s t : State) : Prop where
  time    : t.time = s.time
  tl      : t.tl = s.tl
  mem     : t.mem = s.mem
  windows : t.cal.windows = s.cal.windows
  lanes   : t.cal.lanes = s.cal.lanes
  load    : loadNow t = loadNow s
  regs    : ∀ {o}, o ≠ calPg + 0x110 → o ≠ calPg + hIntStat → o ≠ calPg + 0x128 → rdW t o = rdW s o

theorem DueMoved.refl (s : State) : DueMoved s s := ⟨rfl, rfl, rfl, rfl, rfl, rfl, fun _ _ _ => rfl⟩

theorem DueMoved.trans {s t u : State} (h1 : DueMoved s t) (h2 : DueMoved t u) : DueMoved s u :=
  ⟨h2.time.trans h1.time, h2.tl.trans h1.tl, h2.mem.trans h1.mem, h2.windows.trans h1.windows, h2.lanes.trans h1.lanes, h2.load.trans h1.load,
    fun ho hi hc => (h2.regs ho hi hc).trans (h1.regs ho hi hc)⟩

theorem dueMoved_foldl {α : Type} {f : State → α → State} (hf : ∀ s a, DueMoved s (f s a)) (l : List α) (s : State) : DueMoved s (l.foldl f s) := by
  induction l generalizing s with
  | nil => exact .refl s
  | cons a l ih => exact (hf s a).trans (ih _)

section
variable (s : State)

theorem dueMoved_setCal {c : Cal} (hwindows : c.windows = s.cal.windows) (hlanes : c.lanes = s.cal.lanes) : DueMoved s (setCal s c) :=
  ⟨rfl, rfl, rfl, hwindows, hlanes, rfl, fun _ _ _ => rfl⟩

theorem dueMoved_setHrt (h : Hearth) : DueMoved s { s with hrt := h } := ⟨rfl, rfl, rfl, rfl, rfl, rfl, fun _ _ _ => rfl⟩

theorem dueMoved_showDue : DueMoved s (showDue s) where
  time := wrF_time ..
  tl := wrF_tl ..
  mem := wrF_mem ..
  windows := congrArg Cal.windows (wrF_cal ..)
  lanes := congrArg Cal.lanes (wrF_cal ..)
  load := rdF_wrF_ne _ _ _ (by decide) (by decide) (.inl (by decide))
  regs ho _ _ := rdW_wrF_ne _ _ _ _ ho

theorem dueMoved_outOfBand : DueMoved s (inc (intSet s calPg 2) (calPg + 0x128)) where
  time := (inc_time ..).trans (intSet_time ..)
  tl := (inc_tl ..).trans (intSet_tl ..)
  mem := (inc_mem ..).trans (intSet_mem ..)
  windows := congrArg Cal.windows ((inc_cal ..).trans (intSet_cal ..))
  lanes := congrArg Cal.lanes ((inc_cal ..).trans (intSet_cal ..))
  load := rdF_of_rdW ((rdW_inc_ne _ (by decide)).trans (rdW_intSet_ne _ _ (by decide))) _ _
  regs _ hi hc := (rdW_inc_ne _ hc).trans (rdW_intSet_ne _ _ hi)

/-- A record is due. -/
def dueAdded (k : Nat) : State := showDue (setCal s { s.cal with due := s.cal.due ++ [k] })

theorem addDue_eq (k : Nat) : addDue s k = if s.cal.due.contains k then s else dueAdded s k := by
  unfold addDue dueAdded
  exact rfl

theorem showDue_cal : (showDue s).cal = s.cal := wrF_cal ..

theorem dueAdded_cal (k : Nat) : (dueAdded s k).cal = { s.cal with due := s.cal.due ++ [k] } := showDue_cal _

theorem dueMoved_addDue (k : Nat) : DueMoved s (addDue s k) := by
  have hadded : DueMoved s (dueAdded s k) := by
    rw [dueAdded]
    exact (dueMoved_setCal s (c := { s.cal with due := s.cal.due ++ [k] }) rfl rfl).trans (dueMoved_showDue _)
  rw [addDue_eq]
  split
  · exact .refl s
  · exact hadded

theorem addDue_recs (k : Nat) : (addDue s k).cal.recs = s.cal.recs := by
  rw [addDue_eq]
  split
  · rfl
  · rw [dueAdded_cal]

theorem mem_addDue (k j : Nat) : j ∈ (addDue s k).cal.due ↔ j ∈ s.cal.due ∨ j = k := by
  rw [addDue_eq]
  split
  · next h =>
    refine ⟨.inl, fun hj => hj.elim id fun he => ?_⟩
    rw [he]
    exact List.contains_iff_mem.1 h
  · rw [dueAdded_cal]
    simp

/-- The records of a list are due. -/
theorem mem_foldl_addDue (l : List Nat) : ∀ s : State, ∀ j, j ∈ (l.foldl addDue s).cal.due ↔ j ∈ s.cal.due ∨ j ∈ l := by
  induction l with
  | nil => simp
  | cons k l ih =>
    intro s j
    rw [List.foldl_cons, ih, mem_addDue, List.mem_cons, or_assoc]

theorem foldl_addDue_recs (l : List Nat) : ∀ s : State, (l.foldl addDue s).cal.recs = s.cal.recs := by
  induction l with
  | nil => exact fun _ => rfl
  | cons k l ih => exact fun s => (ih _).trans (addDue_recs ..)

end

/-! ### The check of the records (R431) -/

/-- A record as the check leaves it. -/
def recChecked (s : State) (temps : List Nat) (k : Nat) (r : CalRec) : CalRec := { r with oob := !(inBand s r (recTemp temps k)) }

section
variable {s t : State} {temps : List Nat}

/-- A record's band is that of its load and its temperature. -/
theorem inBand_congr (hload : loadNow t = loadNow s) (hwidth : rdW t (calPg + 0x108) = rdW s (calPg + 0x108)) {r r' : CalRec}
    (hl : r'.load = r.load) (ht : r'.temp = r.temp) (temp : Nat) : inBand t r' temp = inBand s r temp := by
  rw [inBand, inBand, hload, rdF_of_rdW hwidth, hl, ht]

theorem DueMoved.recChecked (h : DueMoved s t) (k : Nat) (r : CalRec) : recChecked t temps k r = recChecked s temps k r := by
  rw [Machine.recChecked, Machine.recChecked, inBand_congr h.load (h.regs (by decide) (by decide) (by decide)) rfl rfl]

/-- A second check finds what the first has found. -/
theorem recChecked_twice (k : Nat) (r : CalRec) : recChecked s temps k (recChecked s temps k r) = recChecked s temps k r := by
  have hband : inBand s (recChecked s temps k r) (recTemp temps k) = inBand s r (recTemp temps k) := inBand_congr rfl rfl rfl rfl _
  rw [recChecked, hband, recChecked]

/-- The record k is put with a band. -/
def bandPut (s : State) (k : Nat) (r : CalRec) (o : Bool) : State :=
  setCal s { s.cal with recs := cSet (fun _ => none) s.cal.recs k (some { r with oob := o }) }

theorem checkRec_def : checkRec = fun temps s k =>
    match calRec s k with
    | none => s
    | some r => if inBand s r (recTemp temps k) then bandPut s k r false else if r.oob then s
        else addDue (inc (intSet (bandPut s k r true) calPg 2) (calPg + 0x128)) k := rfl

theorem bandPut_rec (s : State) (k j : Nat) (r : CalRec) (o : Bool) :
    calRec (bandPut s k r o) j = if j = k then some { r with oob := o } else calRec s j :=
  cGet_cSet (fun _ => none) s.cal.recs k j (some { r with oob := o })

theorem dueMoved_bandPut (s : State) (k : Nat) (r : CalRec) (o : Bool) : DueMoved s (bandPut s k r o) := dueMoved_setCal s rfl rfl

theorem calRec_congr (h : t.cal.recs = s.cal.recs) (k : Nat) : calRec t k = calRec s k := by rw [calRec, h, calRec]

theorem outOfBand_rec (s : State) (k j : Nat) : calRec (addDue (inc (intSet s calPg 2) (calPg + 0x128)) k) j = calRec s j := by
  refine calRec_congr ((addDue_recs ..).trans ?_) j
  rw [inc_cal, intSet_cal]

/-- What the check does of one record. -/
structure RecChecked (temps : List Nat) (k : Nat) (s t : State) : Prop where
  moved : DueMoved s t
  recs  : ∀ j, calRec t j = if j = k then (calRec s j).map (recChecked s temps j) else calRec s j

theorem recChecked_checkRec (s : State) (k : Nat) : RecChecked temps k s (checkRec temps s k) := by
  rw [checkRec_def]
  dsimp only
  split
  · next hnone =>
    refine ⟨.refl s, fun j => ?_⟩
    by_cases hj : j = k
    · rw [if_pos hj, hj, hnone]
      rfl
    · rw [if_neg hj]
  · next r hsome =>
    have hput (o : Bool) (hband : (!(inBand s r (recTemp temps k))) = o) (j : Nat) :
        (if j = k then some { r with oob := o } else calRec s j) = if j = k then (calRec s j).map (recChecked s temps j) else calRec s j := by
      by_cases hj : j = k
      · rw [if_pos hj, if_pos hj, hj, hsome, ← hband]
        rfl
      · rw [if_neg hj, if_neg hj]
    by_cases hin : inBand s r (recTemp temps k) = true
    · rw [if_pos hin]
      exact ⟨dueMoved_bandPut .., fun j => (bandPut_rec ..).trans (hput false (by rw [hin]; rfl) j)⟩
    · have hband : (!(inBand s r (recTemp temps k))) = true := by simpa using hin
      rw [if_neg hin]
      by_cases hoob : r.oob = true
      · rw [if_pos hoob]
        refine ⟨.refl s, fun j => Eq.trans ?_ (hput true hband j)⟩
        by_cases hj : j = k
        · rw [if_pos hj, hj, hsome, ← hoob]
        · rw [if_neg hj]
      · rw [if_neg hoob]
        exact ⟨((dueMoved_bandPut ..).trans (dueMoved_outOfBand _)).trans (dueMoved_addDue ..), fun j =>
          (outOfBand_rec ..).trans ((bandPut_rec ..).trans (hput true hband j))⟩

/-- The check of the records of a list. -/
theorem foldl_checkRec (l : List Nat) : ∀ s : State, DueMoved s (l.foldl (checkRec temps) s) ∧
    ∀ j, calRec (l.foldl (checkRec temps) s) j = if j ∈ l then (calRec s j).map (recChecked s temps j) else calRec s j := by
  induction l with
  | nil => exact fun s => ⟨.refl s, fun j => (if_neg List.not_mem_nil).symm⟩
  | cons k l ih =>
    intro s
    obtain ⟨hmoved, hrecs⟩ := recChecked_checkRec (temps := temps) s k
    obtain ⟨hmoved', hrecs'⟩ := ih (checkRec temps s k)
    have hsame (j : Nat) : recChecked (checkRec temps s k) temps j = recChecked s temps j := funext (hmoved.recChecked j)
    refine ⟨hmoved.trans hmoved', fun j => ?_⟩
    rw [List.foldl_cons, hrecs', hrecs, hsame]
    by_cases hj : j = k
    · have hmem : j ∈ k :: l := hj ▸ List.mem_cons_self
      rw [if_pos hj, if_pos hmem]
      split
      · rw [Option.map_map]
        exact congrArg (Option.map · (calRec s j)) (funext (recChecked_twice j))
      · rfl
    · simp only [List.mem_cons, hj, false_or, if_false]

/-- A record that is held has a key of the list. -/
theorem mem_keys_of_calRec {k : Nat} {r : CalRec} (h : calRec s k = some r) : k ∈ s.cal.recs.map (·.1) := by
  rcases cGet_default_or_mem (fun _ => none) s.cal.recs k with hnone | hmem
  · rw [calRec, hnone] at h
    exact absurd h (by simp)
  · exact List.mem_map_of_mem (f := (·.1)) hmem

/-- The load band of the ms is shown. -/
def bandShown (s : State) (mean : Nat) : State := wrF s (calPg + 0x110) 1 0 (nextBand (loadNow s) mean)

/-- The guard follows the records, and the ms in which it is bad are counted. -/
def guardFollowed (s : State) : State := if guardBad (evalGuard s) then inc (evalGuard s) (calPg + 0x12C) else evalGuard s

theorem exec_calRecordCheck (temps : List Nat) (mean now : Nat) (s : State) : exec (.calRecordCheck temps mean now) s =
    .next (guardFollowed ((s.cal.recs.map (·.1)).foldl (checkRec temps) (bandShown (tick s now) mean))) := rfl

/-- The guard's bit and its interrupt are Hearth's. -/
theorem rdW_evalGuard (s : State) {o : Nat} (ho : o < hrtPg) : rdW (evalGuard s) o = rdW s o := by
  have hbit (b w : Bool) : rdW (wrB { s with hrt := { s.hrt with bandBad := b } } (hrtPg + 0x104) 3 w) o = rdW s o :=
    (rdW_wrB_ne _ _ _ (by omega)).trans (rdW_setHrt ..)
  rw [evalGuard]
  dsimp only
  split
  · exact (rdW_intSet_ne _ _ (by omega)).trans (hbit _ _)
  · exact hbit _ _

theorem guardFollowed_frame (s : State) : HearthOnly s (guardFollowed s) ∧ rdW (guardFollowed s) (calPg + 0x110) = rdW s (calPg + 0x110) := by
  have hguard := (sumsKept_evalGuard s).frame
  rw [guardFollowed]
  split
  · exact ⟨hguard.trans (windowOnly_inc ..).hearthOnly, (rdW_inc_ne _ (by decide)).trans (rdW_evalGuard s (by decide))⟩
  · exact ⟨hguard, rdW_evalGuard s (by decide)⟩

theorem nextBand_lt {b : Nat} (hb : b < 4) (mean : Nat) : nextBand b mean < 4 := by
  have hlen (p : Nat → Bool) : ([1, 2, 3].filter p).length ≤ 3 := List.length_filter_le ..
  have hup := hlen fun k => decide (mean > 1500 * k + 100)
  have hdown := hlen fun k => decide (mean + 100 ≥ 1500 * k)
  rw [nextBand]
  split
  · omega
  · split <;> omega

theorem loadNow_bandShown (s : State) (mean : Nat) : loadNow (bandShown s mean) = nextBand (loadNow s) mean := by
  rw [loadNow, bandShown, rdF_wrF _ _ _ _ _ (by decide) (by decide)]
  exact Nat.mod_eq_of_lt (nextBand_lt (bitsOf_lt ..) mean)

theorem calRecordCheck_gives (temps : List Nat) (mean now : Nat) (s : State) : Gives (.calRecordCheck temps mean now) s (fun t =>
    rdF t (calPg + 0x110) 1 0 = nextBand (loadNow s) mean ∧
    (∀ k r, calRec s k = some r → calRec t k =
      some { r with oob := !(inBand (wrF s (calPg + 0x110) 1 0 (nextBand (loadNow s) mean)) r (recTemp temps k)) }) ∧
    t.tl = s.tl ∧ t.mem = s.mem) := by
  obtain ⟨hmoved, hrecs⟩ := foldl_checkRec (temps := temps) (s.cal.recs.map (·.1)) (bandShown (tick s now) mean)
  obtain ⟨hframe, hload⟩ := guardFollowed_frame ((s.cal.recs.map (·.1)).foldl (checkRec temps) (bandShown (tick s now) mean))
  refine ⟨_, exec_calRecordCheck temps mean now s, ?_, fun k r hr => ?_, ?_, ?_⟩
  · exact (rdF_of_rdW hload 1 0).trans (hmoved.load.trans (loadNow_bandShown (tick s now) mean))
  · have hkey : k ∈ s.cal.recs.map (·.1) := mem_keys_of_calRec hr
    have hshown : calRec (bandShown (tick s now) mean) k = some r := hr
    rw [calRec_congr (congrArg Cal.recs hframe.cal_eq), hrecs, if_pos hkey, hshown]
    rfl
  · exact hframe.tl_eq.trans (hmoved.tl.trans (wrF_tl ..))
  · exact hframe.mem_eq.trans (hmoved.mem.trans (wrF_mem ..))

end

/-! ### CAL_FORCE (R432) -/

theorem calForce_gives {r : RegWrite} {s : State} (hoff : r.off.toNat = calPg + 0x100) (hgo : r.val.toNat.testBit 0 = true) :
    Gives (.calForce r) s (fun t => (∀ k ∈ s.cal.recs.map (·.1), k ∈ t.cal.due) ∧ t.cal.recs = s.cal.recs ∧ t.tl = s.tl ∧ t.mem = s.mem) := by
  have hrow : ¬ (r.off.toNat ≠ calPg + 0x100 ∨ r.val.toNat.testBit 0 = false) := by simp [hoff, hgo]
  have hmoved := dueMoved_foldl (f := addDue) (fun s k => dueMoved_addDue s k) (s.cal.recs.map (·.1)) (tick s r.now)
  exact ⟨_, if_neg hrow, fun k hk => (mem_foldl_addDue _ (tick s r.now) k).2 (.inr hk), foldl_addDue_recs _ (tick s r.now), hmoved.tl, hmoved.mem⟩

/-! ### A window opens, releases its stacks (R433, R434) -/

/-- The stacks of a list are held or released. -/
def pausedSet (b : Bool) (l : List Nat) (m : Cells Bool) : Cells Bool := l.foldl (fun m c => cSet (fun _ => false) m c b) m

theorem cGet_pausedSet (b : Bool) (l : List Nat) (m : Cells Bool) (c : Nat) :
    cGet (fun _ => false) (pausedSet b l m) c = if c ∈ l then b else cGet (fun _ => false) m c := by
  induction l generalizing m with
  | nil => exact (if_neg List.not_mem_nil).symm
  | cons a l ih =>
    rw [pausedSet, List.foldl_cons, ← pausedSet, ih, cGet_cSet]
    by_cases hc : c = a
    · simp [hc]
    · simp [hc]

theorem setPaused_paused (s : State) (l : List Nat) (b : Bool) : (setPaused s l b).mem.paused = pausedSet b l s.mem.paused := rfl

section
variable {s : State} {part : Option (Fin 8)} {now : Nat}

/-- The stacks that a window holds. -/
def windowStacks (s : State) (part : Option (Fin 8)) : List Nat :=
  (stacksOf (windowSlices s part)).filter (fun c =>
    (windowRecs s part).contains (recKey 1 c) || (windowRecs s part).contains (recKey 2 c) || notchAsked s c)

/-- The window that opens. -/
def windowOpened (s : State) (part : Option (Fin 8)) : CalWindow :=
  { start := s.time, recs := windowRecs s part, stackIds := windowStacks s part, retrain := [] }

/-- Calibration with the window. -/
def calOpened (s : State) (part : Option (Fin 8)) : Cal :=
  { s.cal with windows := cSet (fun _ => none) s.cal.windows (windowKey part) (some (windowOpened s part)), last := cSet (fun _ => 0) s.cal.last (windowKey part) s.time, called := cSet (fun _ => false) s.cal.called (windowKey part) false }

/-- The window is open, and its stacks are held. -/
def stacksHeld (s : State) (part : Option (Fin 8)) : State :=
  setPaused (wrB (setCal s (calOpened s part)) (calPg + 0x110) 31 true) (windowStacks s part) true

theorem exec_calWindow (h : mayOpen (tick s now) part = true) :
    exec (.calWindow part now) s = .next (startLanes (stacksHeld (tick s now) part) (windowRecs (tick s now) part)) :=
  if_neg (by rw [h]; decide)

theorem startLanes_keeps (s : State) (recs : List Nat) : (startLanes s recs).cal.windows = s.cal.windows ∧
    (startLanes s recs).win = s.win ∧ (startLanes s recs).mem = s.mem ∧ (startLanes s recs).tl = s.tl := ⟨rfl, rfl, rfl, rfl⟩

theorem calWindow_gives (h : mayOpen (tick s now) part = true) : Gives (.calWindow part now) s (fun t =>
    (∃ w, calWindowAt t part = some w ∧ w.start = max s.time now ∧ w.recs = windowRecs s part ∧
      ∀ c ∈ w.stackIds, cGet (fun _ => false) t.mem.paused c = true) ∧
    rdB t (calPg + 0x110) 31 = true ∧ t.tl = s.tl ∧ t.mem.hbm = s.mem.hbm) := by
  refine ⟨_, exec_calWindow h, ⟨windowOpened (tick s now) part, ?_, rfl, rfl, fun c hc => ?_⟩, ?_, rfl, rfl⟩
  · exact cGet_cSet_same (fun _ => none) (tick s now).cal.windows (windowKey part) (some (windowOpened (tick s now) part))
  · show cGet (fun _ => false) (pausedSet true (windowStacks (tick s now) part) s.mem.paused) c = true
    exact (cGet_pausedSet ..).trans (if_pos hc)
  · exact rdB_wrB (setCal (tick s now) (calOpened (tick s now) part)) (calPg + 0x110) 31 true (by decide)

theorem calWindow_waits (h : mayOpen (tick s now) part = false) : exec (.calWindow part now) s = .next (tick s now) := if_pos h

variable {w : CalWindow} {short : List Nat}

/-- The stacks that a window holds for a retrain. -/
def stacksAgain (s : State) (w : CalWindow) (short : List Nat) : List Nat := w.stackIds.filter (fun c => short.contains c || notchAsked s c)

theorem mem_stacksAgain {c : Nat} (hc : c ∈ w.stackIds) : c ∈ stacksAgain s w short ↔ c ∈ short ∨ notchAsked s c = true := by
  rw [stacksAgain, List.mem_filter]
  simp [hc]

/-- The other stacks are released. -/
def stacksReleased (s : State) (w : CalWindow) (short : List Nat) : State :=
  setPaused s (w.stackIds.filter (fun c => !((stacksAgain s w short).contains c))) false

/-- The stacks of a list train. -/
def stacksTrain (l : List Nat) (s : State) : State := l.foldl (fun s c => wrF s (ctlPg c 6 + 0x100) 31 28 1) s

/-- The window notes the stacks that train. -/
def retrainNoted (s : State) (part : Option (Fin 8)) (w : CalWindow) : State :=
  setCal s { s.cal with windows := cSet (fun _ => none) s.cal.windows (windowKey part) (some w) }

theorem exec_calStackRelease (hw : calWindowAt s part = some w) (hdue : w.start + 150000 ≤ max s.time now) :
    exec (.calStackRelease part short now) s = .next (retrainNoted (stacksTrain (stacksAgain (tick s now) w short)
      (stacksReleased (tick s now) w short)) part { w with retrain := stacksAgain (tick s now) w short }) := by
  have hw' : calWindowAt (tick s now) part = some w := hw
  have hdue' : ¬ (tick s now).time < w.start + 150000 := Nat.not_lt.2 hdue
  show execCalStackRelease part short now s = _
  simp only [execCalStackRelease, hw', if_neg hdue']
  rfl

theorem windowOnly_stacksTrain (l : List Nat) (s : State) : WindowOnly s (stacksTrain l s) := windowOnly_foldl (fun _ _ => windowOnly_wr ..) l s

/-- A stack of the list trains: the writes of the others are of other registers, or the same. -/
theorem rdF_stacksTrain {l : List Nat} {c : Nat} (s : State) (h : c ∈ l ∨ rdF s (ctlPg c 6 + 0x100) 31 28 = 1) :
    rdF (stacksTrain l s) (ctlPg c 6 + 0x100) 31 28 = 1 := by
  induction l generalizing s with
  | nil => exact h.resolve_left List.not_mem_nil
  | cons a l ih =>
    rw [stacksTrain, List.foldl_cons, ← stacksTrain]
    refine ih _ ?_
    by_cases hreg : ctlPg c 6 + 0x100 = ctlPg a 6 + 0x100
    · right
      rw [hreg, rdF_wrF _ _ _ _ _ (by decide) (by decide)]
      rfl
    · rcases h with hmem | hset
      · exact .inl (List.mem_of_ne_of_mem (fun he => hreg (he ▸ rfl)) hmem)
      · exact .inr ((rdF_of_rdW (rdW_wrF_ne _ _ _ _ hreg) 31 28).trans hset)

theorem calStackRelease_gives (hw : calWindowAt s part = some w) (hdue : w.start + 150000 ≤ max s.time now) :
    Gives (.calStackRelease part short now) s (fun t =>
      (∀ c ∈ w.stackIds, c ∉ short → notchAsked s c = false → cGet (fun _ => false) t.mem.paused c = false) ∧
      (∀ c ∈ w.stackIds, (c ∈ short ∨ notchAsked s c = true) →
        cGet (fun _ => false) t.mem.paused c = cGet (fun _ => false) s.mem.paused c ∧ rdF t (ctlPg c 6 + 0x100) 31 28 = 1) ∧
      t.tl = s.tl ∧ t.mem.hbm = s.mem.hbm) := by
  have htrain := windowOnly_stacksTrain (stacksAgain (tick s now) w short) (stacksReleased (tick s now) w short)
  have hpaused (c : Nat) : cGet (fun _ => false) (stacksTrain (stacksAgain (tick s now) w short) (stacksReleased (tick s now) w short)).mem.paused c =
      if c ∈ w.stackIds.filter (fun c => !((stacksAgain (tick s now) w short).contains c)) then false else cGet (fun _ => false) s.mem.paused c := by
    rw [htrain.mem_eq]
    exact cGet_pausedSet false _ s.mem.paused c
  have hhbm : (stacksTrain (stacksAgain (tick s now) w short) (stacksReleased (tick s now) w short)).mem.hbm = s.mem.hbm :=
    (congrArg Memory.hbm htrain.mem_eq).trans rfl
  refine ⟨_, exec_calStackRelease hw hdue, fun c hc hshort hnotch => ?_, fun c hc hagain => ⟨?_, ?_⟩, htrain.tl_eq, hhbm⟩
  · have hnot : c ∉ stacksAgain (tick s now) w short := fun h => ((mem_stacksAgain (s := tick s now) hc).1 h).elim hshort fun h =>
      absurd (show notchAsked s c = true from h) (ne_true_of_eq_false hnotch)
    exact (hpaused c).trans (if_pos (List.mem_filter.2 ⟨hc, by simpa using hnot⟩))
  · have hmem : c ∈ stacksAgain (tick s now) w short := (mem_stacksAgain (s := tick s now) hc).2 hagain
    refine (hpaused c).trans (if_neg fun h => ?_)
    simp [hmem] at h
  · exact rdF_stacksTrain _ (.inl ((mem_stacksAgain (s := tick s now) hc).2 hagain))

end

/-! ### A lane equalised anew (R437) -/

section
variable {s : State}

/-- A record is taken now. -/
def recTaken (s : State) (temp : Nat) : CalRec :=
  { oob := false, load := loadNow s, temp := temp % 256, taken := s.time / 2 ^ 20 % 2 ^ 32 }

/-- Calibration with the record k anew. -/
def calTaken (s : State) (k temp : Nat) : Cal :=
  { s.cal with recs := cSet (fun _ => none) s.cal.recs k (some (recTaken s temp)), due := s.cal.due.filter (fun x => x != k) }

theorem takeRec_eq (s : State) (k temp : Nat) : takeRec s k temp = showDue (setCal s (calTaken s k temp)) := rfl

theorem takeRec_cal (s : State) (k temp : Nat) : (takeRec s k temp).cal = calTaken s k temp := by
  rw [takeRec_eq, showDue_cal, setCal]

theorem takeRec_rec (s : State) (k temp : Nat) : calRec (takeRec s k temp) k = some (recTaken s temp) := by
  rw [calRec, takeRec_cal, calTaken, cGet_cSet_same]

theorem dueMoved_takeRec (s : State) (k temp : Nat) : DueMoved s (takeRec s k temp) :=
  (dueMoved_setCal s (c := calTaken s k temp) rfl rfl).trans (dueMoved_showDue _)

/-- The lane x is no longer under recalibration. -/
def laneDone (s : State) (x : Nat) : State := setCal s { s.cal with lanes := s.cal.lanes.filter (fun y => y != x) }

theorem exec_serdesLaneRecal {port : Fin 16} {lane : Fin 9} (temp now : Nat) (h : 16 * port.val + lane.val ∈ s.cal.lanes) :
    exec (.serdesLaneRecal port lane temp now) s =
      .next (takeRec (laneDone (tick s now) (16 * port.val + lane.val)) (recKey 3 (9 * port.val + lane.val)) temp) :=
  if_pos (List.contains_iff_mem.2 h)

theorem serdesLaneRecal_gives {port : Fin 16} {lane : Fin 9} (temp now : Nat) (h : 16 * port.val + lane.val ∈ s.cal.lanes) :
    Gives (.serdesLaneRecal port lane temp now) s (fun t =>
      calRec t (recKey 3 (9 * port.val + lane.val)) =
        some { oob := false, load := loadNow s, temp := temp % 256, taken := max s.time now / 2 ^ 20 % 2 ^ 32 } ∧
      16 * port.val + lane.val ∉ t.cal.lanes ∧ t.tl = s.tl ∧ t.mem = s.mem) := by
  have hmoved := dueMoved_takeRec (laneDone (tick s now) (16 * port.val + lane.val)) (recKey 3 (9 * port.val + lane.val)) temp
  refine ⟨_, exec_serdesLaneRecal temp now h, takeRec_rec .., ?_, hmoved.tl, hmoved.mem⟩
  rw [hmoved.lanes]
  intro hmem
  have hne := (List.mem_filter.1 hmem).2
  simp at hne

end

end Sys2Proof.Machine
end

section
/-!
The close of a calibration window (17_startup_calibration.md R434). O44.
-/
namespace Sys2Proof.Machine

/-- Steps of a close: the time, the windows and CAL_WIN_CNT are as they were. -/
structure CloseKept (s t : State) : Prop where
  time    : t.time = s.time
  windows : t.cal.windows = s.cal.windows
  count   : rdW t (calPg + 0x120) = rdW s (calPg + 0x120)

section
variable {s t u : State}

theorem CloseKept.refl (s : State) : CloseKept s s := ⟨rfl, rfl, rfl⟩

theorem CloseKept.trans (h1 : CloseKept s t) (h2 : CloseKept t u) : CloseKept s u :=
  ⟨h2.time.trans h1.time, h2.windows.trans h1.windows, h2.count.trans h1.count⟩

theorem closeKept_foldl {α : Type} {f : State → α → State} (hf : ∀ s a, CloseKept s (f s a)) (l : List α) (s : State) :
    CloseKept s (l.foldl f s) := by
  induction l generalizing s with
  | nil => exact .refl s
  | cons a l ih => exact (hf s a).trans (ih _)

theorem DueMoved.closeKept (h : DueMoved s t) : CloseKept s t := ⟨h.time, h.windows, h.regs (by decide) (by decide) (by decide)⟩

variable (s)

theorem closeKept_wr {o : Nat} (v : Nat) (h : calPg + 0x120 ≠ o) : CloseKept s (wr s o v) :=
  ⟨wr_time .., congrArg Cal.windows (wr_cal ..), rdW_wr_ne _ _ h⟩

theorem closeKept_wrF {o : Nat} (hi lo f : Nat) (h : calPg + 0x120 ≠ o) : CloseKept s (wrF s o hi lo f) := closeKept_wr s _ h
theorem closeKept_wrB {o : Nat} (n : Nat) (b : Bool) (h : calPg + 0x120 ≠ o) : CloseKept s (wrB s o n b) := closeKept_wr s _ h

theorem closeKept_intSet {pg : Nat} (bits : Nat) (h : calPg + 0x120 ≠ pg + hIntStat) : CloseKept s (intSet s pg bits) :=
  ⟨intSet_time .., congrArg Cal.windows (intSet_cal ..), rdW_intSet_ne _ _ h⟩

theorem closeKept_clinker (r : LogRec) : CloseKept s (clinker s r) :=
  ⟨clinker_time .., congrArg Cal.windows (logOnly_clinker ..).cal_eq, rdW_clinker_ne _ _ (not_isLogReg (.inl (by decide)))⟩

theorem closeKept_setHrt (h : Hearth) : CloseKept s { s with hrt := h } := ⟨rfl, rfl, rfl⟩

/-! ### Ageing and the records -/

theorem ne_hrtDPg {d x : Nat} : calPg + 0x120 ≠ hrtDPg d + x := by
  rw [hrtDPg_eq, calPg]
  omega

theorem closeKept_ageTrim (d excess : Nat) : CloseKept s (ageTrim s d excess) := by
  have htrim (want : Nat) (r : LogRec) : CloseKept s (clinker (intSet (wrF s (hrtDPg d + 0x10C) 5 0 want) hrtPg 16) r) :=
    ((closeKept_wrF s _ _ _ ne_hrtDPg).trans (closeKept_intSet _ _ (by decide))).trans (closeKept_clinker ..)
  have haged (a : DieAgent) (r : LogRec) : CloseKept s (clinker (intSet (wrB (setAgent s d a) (hrtPg + 0x104) 5 true) hrtPg 32) r) :=
    .trans (t := setAgent s d a) (closeKept_setHrt ..)
      (((closeKept_wrB _ _ _ (by decide)).trans (closeKept_intSet _ _ (by decide))).trans (closeKept_clinker ..))
  rw [ageTrim]
  dsimp only
  split
  · exact .refl s
  · split
    · exact htrim ..
    · exact haged ..

/-- A die's rail is at its nominal value, and its age is followed. -/
def railReset (monitors : List Nat) (s : State) (d : Nat) : State := ageTrim (setAgent s d { dieAgent s d with railMv := 0 }) d (nth 0 monitors d)

theorem closeKept_railReset (monitors : List Nat) (d : Nat) : CloseKept s (railReset monitors s d) :=
  .trans (t := setAgent s d { dieAgent s d with railMv := 0 }) (closeKept_setHrt ..) (closeKept_ageTrim ..)

/-- Calibration without the record of the waveform set in use. -/
def setDropped (c : Cal) (old : Nat) : Cal := { c with recs := cSet (fun _ => none) c.recs old none, due := c.due.filter (fun x => x != old) }

theorem dueMoved_takeSet (temp : Nat) : DueMoved s (takeSet s temp) := by
  have hset (w : Nat) : DueMoved s { s with hrt := { s.hrt with wset := w } } := dueMoved_setHrt s _
  have hdrop (u : State) (old : Nat) : DueMoved u (setCal u (setDropped u.cal old)) := dueMoved_setCal u rfl rfl
  exact ((hset _).trans (hdrop _ _)).trans (dueMoved_takeRec ..)

theorem closeKept_renew (temps : List Nat) (k : Nat) : CloseKept s (renew temps s k) := by
  rw [renew]
  split
  · exact .refl s
  · split
    · exact (dueMoved_takeSet ..).closeKept
    · exact (dueMoved_takeRec ..).closeKept

theorem closeKept_evalGuard : CloseKept s (evalGuard s) where
  time := by
    rw [evalGuard]
    dsimp only
    split
    · exact (intSet_time ..).trans (wrB_time ..)
    · exact wrB_time ..
  windows := congrArg Cal.windows (sumsKept_evalGuard s).frame.cal_eq
  count := rdW_evalGuard s (by decide)

end

/-! ### The close -/

section
variable (s : State) (part : Option (Fin 8)) (temps monitors : List Nat) (w : CalWindow)

/-- The dies of a window's slices. -/
def windowDies : List Nat := (List.range 4).filter (fun d => (windowSlices s part).any (fun sl => sl / 2 == d))

/-- Hearth's drift begins anew. -/
def driftCleared : State := wrB { s with hrt := { s.hrt with drift := 0 } } (hrtPg + 0x104) 4 false

/-- The rails, the records and the drift at a close. -/
def closeRenewed : State := driftCleared (w.recs.foldl (renew temps) ((windowDies s part).foldl (railReset monitors) s))

theorem closeKept_driftCleared : CloseKept s (driftCleared s) := (closeKept_setHrt s { s.hrt with drift := 0 }).trans (closeKept_wrB _ _ _ (by decide))

theorem closeKept_renewed : CloseKept s (closeRenewed s part temps monitors w) :=
  ((closeKept_foldl (fun _ _ => closeKept_railReset ..) _ s).trans (closeKept_foldl (fun _ _ => closeKept_renew ..) _ _)).trans (closeKept_driftCleared _)

/-- The close is timed, counted and signalled. -/
def closeCounted (s : State) (w : CalWindow) : State :=
  intSet (inc (wr s (calPg + 0x124) ((s.time - w.start) / 1000)) (calPg + 0x120)) calPg (if w.retrain = [] then 1 else 5)

/-- The window is gone, and the guard follows. -/
def windowGone (s : State) (k : Nat) : State := evalGuard (dropWindow s k)

theorem exec_calWindowClose {s : State} {w : CalWindow} {now : Nat} (hw : calWindowAt s part = some w) (hdue : w.start + 200000 ≤ max s.time now)
    (hfree : ∀ c ∈ w.stackIds, cGet (fun _ => false) s.mem.paused c = false) : exec (.calWindowClose part temps monitors now) s =
    .next (resumeReset (closeCounted (windowGone (closeRenewed (tick s now) part temps monitors w) (windowKey part)) w) (windowKey part)) := by
  have hw' : calWindowAt (tick s now) part = some w := hw
  have hopen : ¬ ((tick s now).time < w.start + 200000 ∨ w.stackIds.any (fun c => cGet (fun _ => false) (tick s now).mem.paused c) = true) := by
    refine not_or.2 ⟨Nat.not_lt.2 hdue, fun h => ?_⟩
    obtain ⟨c, hc, hpaused⟩ := List.any_eq_true.1 h
    exact absurd hpaused (ne_true_of_eq_false (hfree c hc))
  show execCalWindowClose part temps monitors now s = _
  simp only [execCalWindowClose, hw', if_neg hopen]
  rfl

/-- The stacks of a window that is gone are free. -/
def windowFreed (s : State) (w : CalWindow) : State :=
  { s with mem := { s.mem with paused := w.stackIds.foldl (fun m c => cSet (fun _ => false) m c false) s.mem.paused } }

/-- The window of a key is gone. -/
def windowDropped (s : State) (k : Nat) : State := setCal s { s.cal with windows := cSet (fun _ => none) s.cal.windows k none }

/-- ACTIVE shows whether a window is left. -/
def activeShown (s : State) : State := wrB s (calPg + 0x110) 31 (!s.cal.windows.isEmpty)

theorem dropWindow_some {s : State} {k : Nat} {w : CalWindow} (h : cGet (fun _ => none) s.cal.windows k = some w) :
    dropWindow s k = activeShown (windowDropped (windowFreed s w) k) := by
  rw [dropWindow, h]
  rfl

theorem windowGone_keeps {s : State} {k : Nat} {w : CalWindow} (h : cGet (fun _ => none) s.cal.windows k = some w) :
    cGet (fun _ => none) (windowGone s k).cal.windows k = none ∧ (windowGone s k).time = s.time ∧
    rdW (windowGone s k) (calPg + 0x120) = rdW s (calPg + 0x120) := by
  have hguard := closeKept_evalGuard (dropWindow s k)
  have hshown (u : State) : CloseKept u (activeShown u) := closeKept_wrB _ _ _ (by decide)
  have hdrop := dropWindow_some h
  refine ⟨?_, ?_, ?_⟩
  · rw [windowGone, hguard.windows, hdrop, (hshown _).windows]
    exact cGet_cSet_same (fun _ => none) (windowFreed s w).cal.windows k none
  · rw [windowGone, hguard.time, hdrop, (hshown _).time]
    rfl
  · rw [windowGone, hguard.count, hdrop, (hshown _).count]
    rfl

theorem closeCounted_shows (s : State) (w : CalWindow) : (closeCounted s w).cal.windows = s.cal.windows ∧ Counted s (closeCounted s w) (calPg + 0x120) 1 ∧
    rd (closeCounted s w) (calPg + 0x124) = (s.time - w.start) / 1000 % 2 ^ 32 ∧ rdB (closeCounted s w) (calPg + hIntStat) 0 = true := by
  refine ⟨?_, ?_, ?_, ?_⟩
  · exact congrArg Cal.windows ((intSet_cal ..).trans ((inc_cal ..).trans (wr_cal ..)))
  · have hkept : rd (closeCounted s w) (calPg + 0x120) = _ := rd_of_rdW (rdW_intSet_ne _ _ (by decide))
    rw [Counted, hkept]
    exact counted_inc_of_rd (rd_of_rdW (rdW_wr_ne _ _ (by decide)))
  · rw [closeCounted, rd_of_rdW (rdW_intSet_ne _ _ (by decide)), rd_of_rdW (rdW_inc_ne _ (by decide)), rd_wr_same]
  · rw [closeCounted, rdB_intSet (by decide)]
    split <;> exact Bool.or_true _

/-- A reset of a partition that waited leaves the calibration's page and its windows. -/
theorem resumeReset_keeps (s : State) {k : Nat} (hk : k ≤ 8) : (resumeReset s k).cal = s.cal ∧
    ∀ x < 0x1000, rdW (resumeReset s k) (calPg + x) = rdW s (calPg + x) := by
  rw [resumeReset]
  split
  · refine ⟨(calKept_beginPartReset s k).cal, fun x hx => ?_⟩
    have hlow : LowReg (calPg + x) := by
      rw [calPg]
      exact ⟨by omega, not_isLogReg (.inl (by omega))⟩
    refine ((keepsLow_partReset s k).regs hlow).trans (rdW_wrF_ne _ _ _ _ ?_)
    rw [calPg, partPg]
    omega
  · exact ⟨rfl, fun _ _ => rfl⟩

theorem windowKey_le : windowKey part ≤ 8 := by
  cases part with
  | none => exact Nat.le_refl 8
  | some n => exact Nat.le_of_lt n.isLt

theorem calWindowClose_gives {s : State} {w : CalWindow} {now : Nat} (hw : calWindowAt s part = some w) (hdue : w.start + 200000 ≤ max s.time now)
    (hfree : ∀ c ∈ w.stackIds, cGet (fun _ => false) s.mem.paused c = false) : Gives (.calWindowClose part temps monitors now) s (fun t =>
      calWindowAt t part = none ∧ Counted s t (calPg + 0x120) 1 ∧
      rd t (calPg + 0x124) = (max s.time now - w.start) / 1000 % 2 ^ 32 ∧ rdB t (calPg + hIntStat) 0 = true) := by
  have hrenewed := closeKept_renewed (tick s now) part temps monitors w
  have hat : cGet (fun _ => none) (closeRenewed (tick s now) part temps monitors w).cal.windows (windowKey part) = some w := by
    rw [hrenewed.windows]
    exact hw
  obtain ⟨hgone, htime, hcount⟩ := windowGone_keeps hat
  obtain ⟨hwindows, hcounted, hlast, hbit⟩ := closeCounted_shows (windowGone (closeRenewed (tick s now) part temps monitors w) (windowKey part)) w
  obtain ⟨hcal, hregs⟩ := resumeReset_keeps (closeCounted (windowGone (closeRenewed (tick s now) part temps monitors w) (windowKey part)) w)
    (windowKey_le part)
  have hold : rd (windowGone (closeRenewed (tick s now) part temps monitors w) (windowKey part)) (calPg + 0x120) = rd s (calPg + 0x120) :=
    rd_of_rdW (hcount.trans hrenewed.count)
  refine ⟨_, exec_calWindowClose part temps monitors hw hdue hfree, ?_, ?_, ?_, ?_⟩
  · rw [calWindowAt, hcal, hwindows]
    exact hgone
  · rw [Counted, rd_of_rdW (hregs _ (by decide)), ← hold]
    exact hcounted
  · rw [rd_of_rdW (hregs _ (by decide)), hlast, htime, hrenewed.time]
    rfl
  · exact (rdB_of_rdW (hregs _ (by decide)) 0).trans hbit

end

/-- Settles O44: the check of the records, the due list, and a window from its opening to its close. -/
theorem calibrationWindows : Obligations.CalibrationWindows := by
  unfold Obligations.CalibrationWindows
  exact ⟨calRecordCheck_gives, fun r s hoff hgo => calForce_gives hoff hgo, fun part now s => ⟨calWindow_gives, calWindow_waits⟩,
    fun part short now s w hw hdue => calStackRelease_gives hw hdue,
    fun part temps monitors now s w hw hdue hfree => calWindowClose_gives part temps monitors hw hdue hfree,
    fun port lane temp now s h => serdesLaneRecal_gives temp now h⟩

end Sys2Proof.Machine
end

section
/-!
The queue under the functions of the state (log entry 2): registers, tiles, detections and Anvil. Each is a rewriting rule, for use by
simp in the rules below it and in the commands. For O53 and O54.
-/
namespace Sys2Proof.Machine

@[simp] theorem ite_pending {c : Prop} [Decidable c] (s t : State) :
    (if c then s else t).pending = if c then s.pending else t.pending := apply_ite ..

@[simp] theorem foldl_pending {α : Type} {f : State → α → State} (hf : ∀ s a, (f s a).pending = s.pending) (l : List α) (s : State) :
    (l.foldl f s).pending = s.pending := by
  induction l generalizing s with
  | nil => rfl
  | cons a l ih => exact (ih _).trans (hf s a)

/-! ### Registers, counters and interrupts -/

@[simp] theorem drawFree_pending (s : State) : (drawFree s).2.pending = s.pending := rfl

@[simp] theorem incF_pending (s : State) (o hi lo n : Nat) : (incF s o hi lo n).pending = s.pending := by simp [incF]

@[simp] theorem withIntEdge_pending (pg : Nat) (s t : State) : (withIntEdge pg s t).pending = t.pending :=
  (windowOnly_withIntEdge pg s t).logOnly.pending_eq

@[simp] theorem clearCounters_pending (pg : Nat) (rs : List RegDef) (s : State) : (clearCounters pg rs s).pending = s.pending :=
  (windowOnly_clearCounters pg rs s).logOnly.pending_eq

@[simp] theorem bumpEpoch_pending (s : State) (pg : Nat) : (bumpEpoch s pg).pending = s.pending := by simp [bumpEpoch]

@[simp] theorem bumpPartEpoch_pending (s : State) (n : Nat) : (bumpPartEpoch s n).pending = s.pending := by simp [bumpPartEpoch]

@[simp] theorem queueEvent_pending (s : State) (cat seq : Nat) : (queueEvent s cat seq).pending = s.pending := by simp [queueEvent]

@[simp] theorem clnInterrupt_pending (s : State) (cat : Nat) : (clnInterrupt s cat).pending = s.pending := by simp [clnInterrupt]

@[simp] theorem clinker_pending (s : State) (r : LogRec) : (clinker s r).pending = s.pending := (logOnly_clinker s r).pending_eq

theorem injected_pending {f : State → State} (hf : ∀ s, (f s).pending = s.pending) (s : State) : (injected s f).pending = s.pending := hf _

@[simp] theorem raiseArc_pending (s : State) (n v : Nat) : (raiseArc s n v).pending = s.pending := by simp [raiseArc]

@[simp] theorem rewriteDevice_pending (s : State) : (rewriteDevice s).pending = s.pending := by simp [rewriteDevice]

/-! ### Threads, slots and scratchpad -/

@[simp] theorem addPend_pending (s : State) (t th r mark : Nat) : (addPend s t th r mark).pending = s.pending := by simp [addPend]

@[simp] theorem lateWrite_pending (s : State) (t th gen r mark : Nat) (v : W64) : (lateWrite s t th gen r mark v).pending = s.pending :=
  by simp [lateWrite]

@[simp] theorem clearThread_pending (s : State) (t th : Nat) : (clearThread s t th).pending = s.pending := by simp [clearThread]

@[simp] theorem copySlot_pending (s : State) (t src dst : Nat) : (copySlot s t src dst).pending = s.pending := by simp [copySlot]

theorem shadowSlot_pending {s u : State} {t : Nat} {k : Fin 4} {slot : Nat} (h : shadowSlot s t k slot = some u) :
    u.pending = s.pending := by
  rw [shadowSlot] at h
  repeat' split at h
  all_goals simp at h
  all_goals subst h
  all_goals simp

theorem shadowAll_pending {t : Nat} {k : Option (Fin 4)} {us : List (Nat × Use)} {s u : State} (h : shadowAll s t k us = some u) :
    u.pending = s.pending := by
  induction us generalizing s with
  | nil => rw [← Option.some.inj h]
  | cons x us ih =>
    obtain ⟨slot, use⟩ := x
    cases k with
    | none => rw [← Option.some.inj h]
    | some j =>
      rw [shadowAll] at h
      split at h
      · obtain ⟨v, hv, hu⟩ := Option.bind_eq_some_iff.1 h
        exact (ih hu).trans (shadowSlot_pending hv)
      · exact ih h

@[simp] theorem claimSlots_pending (t : Nat) (k : Option (Fin 4)) (us : List (Nat × Use)) (s : State) :
    (claimSlots s t k us).pending = s.pending := by
  induction us generalizing s with
  | nil => rfl
  | cons x us ih =>
    obtain ⟨slot, use⟩ := x
    cases use <;> simp [claimSlots, ih]

@[simp] theorem releaseSlots_pending (t : Nat) (k : Option (Fin 4)) (us : List (Nat × Use)) (s : State) :
    (releaseSlots s t k us).pending = s.pending := by
  induction us generalizing s with
  | nil => rfl
  | cons x us ih =>
    obtain ⟨slot, use⟩ := x
    cases use <;> simp [releaseSlots, ih]

@[simp] theorem strandSlots_pending (s : State) (t : Nat) (k : Option (Fin 4)) (slots : List Nat) :
    (strandSlots s t k slots).pending = s.pending :=
  by simp [strandSlots]

@[simp] theorem unstrand_pending (s : State) (t : Nat) (k : Option (Fin 4)) (slot : Nat) : (unstrand s t k slot).pending = s.pending :=
  by simp [unstrand]

@[simp] theorem failTask_pending (s : State) (t : Nat) (k : Fin 4) : (failTask s t k).pending = s.pending := by
  simp only [failTask]
  split <;> simp

@[simp] theorem threadFault_pending (s : State) (t th cause pc : Nat) : (threadFault s t th cause pc).pending = s.pending := by
  simp only [threadFault]
  split <;> simp

@[simp] theorem startThread_pending (s : State) (t th pc : Nat) (arg : W64) : (startThread s t th pc arg).pending = s.pending := by
  simp only [startThread]
  repeat' split
  all_goals simp

/-! ### Detections -/

@[simp] theorem setFirst_pending (s : State) (pg : Nat) (d : Detection) (step : Nat) : (setFirst s pg d step).pending = s.pending :=
  by simp [setFirst]

@[simp] theorem applyDetection_pending (s : State) (pg : Nat) (d : Detection) (step : Nat) :
    (applyDetection s pg d step).pending = s.pending := by
  simp only [applyDetection]
  split <;> simp

@[simp] theorem setHeld_pending (s : State) (sl : Nat) (l : List Detection) : (setHeld s sl l).pending = s.pending := by simp [setHeld]

@[simp] theorem detectFor_pending (s : State) (p : Nat) (d : Detection) : (detectFor s p d).pending = s.pending := by simp [detectFor]

@[simp] theorem detectTile_pending (s : State) (t cause index : Nat) : (detectTile s t cause index).pending = s.pending :=
  (faultKept_detectTile t s cause index).frame.pending_eq

@[simp] theorem detectPart_pending (s : State) (p cause index : Nat) : (detectPart s p cause index).pending = s.pending :=
  detectFor_pending ..

/-! ### Sparks -/

@[simp] theorem countDraws_pending (s : State) (t n : Nat) : (countDraws s t n).pending = s.pending := by simp [countDraws]

end Sys2Proof.Machine
end

section
/-!
The queue under the functions of Anvil, memory, HBM and the tiers. For O53 and O54.
-/
namespace Sys2Proof.Machine

/-! ### Sparks -/

@[simp] theorem countSr_pending (s : State) (t n ups : Nat) : (countSr s t n ups).pending = s.pending := by simp [countSr]

/-! ### The vector unit -/

@[simp] theorem detectGrad_pending (t base : Nat) (bs : List Bool) (i : Nat) (s : State) :
    (detectGrad t base i bs s).pending = s.pending := by
  induction bs generalizing i s with
  | nil => rfl
  | cons b bs ih => simp [detectGrad, ih]

/-! ### Anvil -/

@[simp] theorem setAnvQueue_pending (s : State) (t a : Nat) (q : List (List Pass)) : (setAnvQueue s t a q).pending = s.pending :=
  by simp [setAnvQueue]

@[simp] theorem setAnvRunning_pending (s : State) (t a : Nat) (q : List Running) : (setAnvRunning s t a q).pending = s.pending :=
  by simp [setAnvRunning]

@[simp] theorem setAnvWaiting_pending (s : State) (t : Nat) (q : List (List Pass)) : (setAnvWaiting s t q).pending = s.pending :=
  by simp [setAnvWaiting]

@[simp] theorem setAnvGroups_pending (s : State) (t : Nat) (q : List Group) : (setAnvGroups s t q).pending = s.pending :=
  by simp [setAnvGroups]

@[simp] theorem setAnvBehind_pending (s : State) (t : Nat) (q : List Pass) : (setAnvBehind s t q).pending = s.pending :=
  by simp [setAnvBehind]

@[simp] theorem dispatchEntry_pending (s : State) (t : Nat) (ps : List Pass) : (dispatchEntry s t ps).pending = s.pending := by
  simp only [dispatchEntry]
  repeat' split
  all_goals simp

@[simp] theorem issueGroup_pending (s : State) (t : Nat) (g : Group) : (issueGroup s t g).pending = s.pending := by simp [issueGroup]

@[simp] theorem openGroup_pending (s : State) (t : Nat) (p : Pass) : (openGroup s t p).pending = s.pending := by
  simp only [openGroup]
  repeat' split
  all_goals simp

@[simp] theorem holdPass_pending (s : State) (t : Nat) (p : Pass) : (holdPass s t p).pending = s.pending := by
  simp only [holdPass]
  split <;> simp

@[simp] theorem enterPass_pending (s : State) (t : Nat) (p : Pass) : (enterPass s t p).pending = s.pending := by simp [enterPass]

@[simp] theorem releaseBehind_pending (t n : Nat) (s : State) : (releaseBehind s t n).pending = s.pending := by
  induction n generalizing s with
  | zero => rfl
  | succ n ih =>
    rw [releaseBehind]
    split
    · rfl
    · simp [ih]

@[simp] theorem settleBehind_pending (s : State) (t : Nat) : (settleBehind s t).pending = s.pending := by simp [settleBehind]

@[simp] theorem anvFault_pending (s : State) (pg code addr : Nat) : (anvFault s pg code addr).pending = s.pending := by simp [anvFault]

@[simp] theorem dispatchFault_pending (s : State) (t a : Nat) (code : Option Nat) (ps : List Pass) :
    (dispatchFault s t a code ps).pending = s.pending := by
  simp only [dispatchFault]
  split <;> simp

@[simp] theorem emptyY_pending (t n : Nat) (ps : List Pass) (s : State) : (emptyY t n ps s).pending = s.pending := by
  induction ps generalizing s with
  | nil => rfl
  | cons p ps ih => simp [emptyY, ih]

theorem startRun_pending {s u : State} {t a : Nat} {ps : List Pass} {r : Running} (h : startRun s t a ps = some (r, u)) :
    u.pending = s.pending := by
  simp only [startRun] at h
  repeat' split at h
  all_goals simp at h
  all_goals simp [← h.2]

theorem loadChunk_pending {s u : State} {t a : Nat} {r r' : Running} {fault : AnvFault} {ecc : Ecc}
    (h : loadChunk s t a r fault ecc = some (r', u)) : 
    u.pending = s.pending := by
  rw [loadChunk] at h
  dsimp only at h
  split at h
  · simp at h
  · rw [← (Prod.mk.inj (Option.some.inj h)).2]
    simp

@[simp] theorem detectElems_pending (t : Nat) (l : List (Nat × Bool)) (s : State) : (detectElems t l s).pending = s.pending := by
  induction l generalizing s with
  | nil => rfl
  | cons x l ih => simp [detectElems, ih]

@[simp] theorem outRows_pending (t n : Nat) (ref faulted : Bool) (acc : Cells AccCell) (rows : List (Pass × Nat)) (r : Nat) (s : State) :
    (outRows t n ref faulted acc r rows s).pending = s.pending := by
  induction rows generalizing r s with
  | nil => rfl
  | cons x rows ih => simp [outRows, ih]

@[simp] theorem fillY_pending (t w : Nat) (ps : List Pass) (s : State) : (fillY t w ps s).pending = s.pending := by
  induction ps generalizing s with
  | nil => rfl
  | cons p ps ih => simp [fillY, ih]

/-! ### Memory -/

@[simp] theorem setPage_pending (s : State) (p g : Nat) (e : PageEntry) : (setPage s p g e).pending = s.pending := by simp [setPage]

@[simp] theorem setSwap_pending (s : State) (p g h : Nat) : (setSwap s p g h).pending = s.pending := by simp [setSwap]

@[simp] theorem setLoc_pending (s : State) (b : Byte) (l : Loc) : (setLoc s b l).pending = s.pending := by cases l <;> rfl

@[simp] theorem memPut1_pending (s : State) (p a : Nat) (b : Byte) : (memPut1 s p a b).pending = s.pending := by
  simp only [memPut1]
  split <;> simp

@[simp] theorem memPut_pending (p : Nat) (bs : List Byte) (a : Nat) (s : State) : (memPut s p a bs).pending = s.pending := by
  induction bs generalizing a s with
  | nil => rfl
  | cons b bs ih => simp [memPut, ih]

@[simp] theorem setShadowTable_pending (s : State) (p : Nat) (l : List ShadowEntry) : (setShadowTable s p l).pending = s.pending :=
  by simp [setShadowTable]

@[simp] theorem countSectors_pending (s : State) (p a n : Nat) : (countSectors s p a n).pending = s.pending := by
  simp only [countSectors]
  split <;> simp

@[simp] theorem sendInval_pending (s : State) (fence : Option Nat) (pred : PfEntry → Bool) : (sendInval s fence pred).pending = s.pending :=
  by simp [sendInval]

@[simp] theorem touchPage_pending (s : State) (p a : Nat) : (touchPage s p a).pending = s.pending := by simp [touchPage]

@[simp] theorem markDirty_pending (s : State) (p g : Nat) : (markDirty s p g).pending = s.pending := by simp [markDirty]

@[simp] theorem noteWrite_pending (s : State) (p a n : Nat) : (noteWrite s p a n).pending = s.pending := by simp [noteWrite]

@[simp] theorem noteWrites_pending (s : State) (p a n : Nat) : (noteWrites s p a n).pending = s.pending := by simp [noteWrites]

@[simp] theorem countHbm_pending (s : State) (p a n o : Nat) : (countHbm s p a n o).pending = s.pending :=
  (windowOnly_countHbm s p a n o).logOnly.pending_eq

@[simp] theorem devWrite_pending (s : State) (p a : Nat) (bs : List Byte) : (devWrite s p a bs).pending = s.pending := by simp [devWrite]

@[simp] theorem devWrite64_pending (s : State) (p a v : Nat) : (devWrite64 s p a v).pending = s.pending := by simp [devWrite64]

/-! ### HBM -/

@[simp] theorem setOps_pending (s : State) (l : List MemOp) : (setOps s l).pending = s.pending := by simp [setOps]

@[simp] theorem putOp_pending (s : State) (x : MemOp) : (putOp s x).pending = s.pending := by simp [putOp]

@[simp] theorem moveOp_pending (s : State) (x : MemOp) : (moveOp s x).pending = s.pending := by simp [moveOp]

@[simp] theorem dropOp_pending (s : State) (id : Nat) : (dropOp s id).pending = s.pending := by simp [dropOp]

@[simp] theorem enterOps_pending (pl : OpPlan) (p : Nat) (rs : List (Nat × Nat)) (data : List Byte) (s : State) :
    (enterOps s pl p rs data).pending = s.pending := by
  induction rs generalizing data s with
  | nil => rfl
  | cons x rs ih =>
    rw [enterOps, ih]

@[simp] theorem chargeClass_pending (s : State) (ctl cls n : Nat) : (chargeClass s ctl cls n).pending = s.pending := by simp [chargeClass]

@[simp] theorem addElems_pending (etype p fuel a : Nat) (data : List Byte) (s : State) :
    (addElems s etype p fuel a data).pending = s.pending := by
  induction fuel generalizing a data s with
  | zero => rfl
  | succ fuel ih =>
    rw [addElems]
    split
    · rfl
    · simp [ih]

@[simp] theorem opEffect_pending (s : State) (o : MemOp) : (opEffect s o).2.pending = s.pending := by
  rw [opEffect]
  split <;> simp

@[simp] theorem hbmEcc_pending (s : State) (ctl : Nat) (e : Ecc) : (hbmEcc s ctl e).2.pending = s.pending := by
  have h := injectEvent_pending s (ctlPg ctl 0) [1, 2]
  rw [hbmEcc]
  split <;> simp_all

@[simp] theorem hbmErrNote_pending (s : State) (ctl kind q sect : Nat) : (hbmErrNote s ctl kind q sect).pending = s.pending :=
  by simp [hbmErrNote]

/-- The note of an error at x, where it lies in a read's range and in HBM. -/
def errNoted (s : State) (p a n x kind : Nat) : Option State :=
  if decide (a ≤ x ∧ x < a + n) then
    match locOf s p x with
    | some (.hbm k) => some (hbmErrNote s (k / 2 ^ 37) kind (k % 2 ^ 37 / 256) (k % 256 / 32))
    | _ => none
  else none

theorem errNoted_pending {s u : State} {p a n x kind : Nat} (h : errNoted s p a n x kind = some u) : u.pending = s.pending := by
  rw [errNoted] at h
  split at h
  · split at h
    · rw [← Option.some.inj h, hbmErrNote_pending]
    · cases h
  · cases h

theorem unitErr_corrected (s : State) (p a n x : Nat) : unitErr s p a n (.corrected x) = (false, (errNoted s p a n x 1).getD s) := rfl

theorem unitErr_uncorrectable (s : State) (p a n x : Nat) : unitErr s p a n (.uncorrectable x) = match errNoted s p a n x 2 with
    | some s => (true, s)
    | none => (false, s) := rfl

@[simp] theorem unitErr_pending (s : State) (p a n : Nat) (e : Ecc) : (unitErr s p a n e).2.pending = s.pending := by
  cases e with
  | clean => rfl
  | corrected x =>
    rw [unitErr_corrected]
    cases h : errNoted s p a n x 1 with
    | none => rfl
    | some u => exact errNoted_pending h
  | uncorrectable x =>
    rw [unitErr_uncorrectable]
    cases h : errNoted s p a n x 2 with
    | none => rfl
    | some u => exact errNoted_pending h

@[simp] theorem unitRead_pending (s : State) (p a n : Nat) (e : Ecc) : (unitRead s p a n e).2.pending = s.pending := by simp [unitRead]

@[simp] theorem chargeRange_pending (s : State) (p a n cls : Nat) : (chargeRange s p a n cls).pending = s.pending := by
  refine foldl_pending (fun s r => ?_) _ s
  split <;> simp

@[simp] theorem notePeak_pending (s : State) (ctl : Nat) : (notePeak s ctl).pending = s.pending := by simp [notePeak]

@[simp] theorem countCaps_pending (l : List (Nat × Nat)) (s : State) : (countCaps s l).pending = s.pending :=
  (windowOnly_countCaps l s).logOnly.pending_eq

@[simp] theorem setChan_pending (s : State) (ctl pc : Nat) (c : PseudoChan) : (setChan s ctl pc c).pending = s.pending := by simp [setChan]

@[simp] theorem setRow_pending (s : State) (ctl pc bank : Nat) (r : Option Nat) : (setRow s ctl pc bank r).pending = s.pending :=
  by simp [setRow]

@[simp] theorem finishOp_pending (s : State) (o : MemOp) : (finishOp s o).pending = s.pending := by simp [finishOp]

@[simp] theorem stackHeat_pending (s : State) (ctl temp : Nat) : (stackHeat s ctl temp).pending = s.pending := by simp [stackHeat]

@[simp] theorem phyCounts_pending (s : State) (ctl : Nat) : (phyCounts s ctl).pending = s.pending := by simp [phyCounts]

theorem useSpare_pending {s u : State} {ctl ch dq : Nat} (h : useSpare s ctl ch dq = some u) : u.pending = s.pending := by
  simp only [useSpare] at h
  repeat' split at h
  all_goals simp at h
  all_goals simp [← h]

/-- `bumpStackEpoch` with the lookup of the slice's partition as a parameter. -/
def bumpStackEpochBy (part : State → Nat → Option Nat) (s : State) (ctl : Nat) : State :=
  let s := bumpEpoch (bumpEpoch s (ctlPg ctl 0)) (ctlPg ctl 6)
  match part s (ctl / 4) with
  | some p => bumpPartEpoch s p
  | none => s

theorem bumpStackEpoch_eq_bumpStackEpochBy : bumpStackEpoch = bumpStackEpochBy partOfSlice := by
  delta bumpStackEpoch bumpStackEpochBy
  exact rfl

theorem bumpStackEpochBy_pending (part : State → Nat → Option Nat) (s : State) (ctl : Nat) :
    (bumpStackEpochBy part s ctl).pending = s.pending := by
  rw [bumpStackEpochBy]
  split <;> simp

@[simp] theorem bumpStackEpoch_pending (s : State) (ctl : Nat) : (bumpStackEpoch s ctl).pending = s.pending := by
  rw [bumpStackEpoch_eq_bumpStackEpochBy, bumpStackEpochBy_pending]

@[simp] theorem failStack_pending (s : State) (ctl : Nat) : (failStack s ctl).pending = s.pending := by simp [failStack]

@[simp] theorem setNotch_pending (s : State) (ctl n : Nat) : (setNotch s ctl n).pending = s.pending := by simp [setNotch]

@[simp] theorem notchDown_pending (s : State) (ctl : Nat) : (notchDown s ctl).pending = s.pending := by simp [notchDown]

/-! ### The tiers -/

@[simp] theorem zeroFrame_pending (s : State) (p tier f : Nat) : (zeroFrame s p tier f).pending = s.pending := by
  simp only [zeroFrame]
  split <;> simp

@[simp] theorem putFrame_pending (p tier f : Nat) (l : List (Nat × Byte)) (s : State) : (putFrame p tier f l s).pending = s.pending := by
  induction l generalizing s with
  | nil => rfl
  | cons x l ih => simp [putFrame, ih]

@[simp] theorem copyFrame_pending (s : State) (p tier f tier' f' : Nat) : (copyFrame s p tier f tier' f').pending = s.pending :=
  by simp [copyFrame]

theorem pickFrame_pending {s u : State} {p tier f : Nat} (h : pickFrame s p tier = some (f, u)) : u.pending = s.pending := by
  simp only [pickFrame] at h
  repeat' split at h
  all_goals simp at h
  simp [← h.2]

@[simp] theorem chargeFrame_pending (s : State) (p f cls : Nat) : (chargeFrame s p f cls).pending = s.pending := by simp [chargeFrame]

@[simp] theorem countFlash_pending (s : State) (write : Bool) (n : Nat) : (countFlash s write n).pending = s.pending := by simp [countFlash]

@[simp] theorem countFrame_pending (s : State) (p tier f : Nat) (write : Bool) : (countFrame s p tier f write).pending = s.pending := by
  simp only [countFrame]
  split <;> simp

@[simp] theorem movePage_pending (s : State) (p g tier f : Nat) : (movePage s p g tier f).pending = s.pending := by simp [movePage]

theorem takeFrame_pending {fuel : Nat} {s u : State} {p tier f : Nat} (h : takeFrame fuel s p tier = some (f, u)) :
    u.pending = s.pending := by
  induction fuel generalizing s u p tier f with
  | zero => exact pickFrame_pending h
  | succ fuel ih =>
    rw [takeFrame] at h
    split at h
    · next r hr =>
      obtain rfl := Option.some.inj h
      exact pickFrame_pending hr
    · split at h
      · cases h
      · next c hc =>
        dsimp only at h
        split at h
        · cases h
        · split at h
          · cases h
          · next d hd g v hv => exact (pickFrame_pending h).trans (by simp [ih hv])

@[simp] theorem noteFull_pending (s : State) (p : Nat) : (noteFull s p).pending = s.pending := by simp [noteFull]

theorem startMigration_pending {s u : State} {p g tier : Nat} (h : startMigration s p g tier = some u) : u.pending = s.pending := by
  rw [startMigration] at h
  split at h
  · cases h
  · next f v hv =>
    rw [← Option.some.inj h]
    exact Eq.trans (by simp) (takeFrame_pending hv)

@[simp] theorem doneBelow_pending (r : List Byte × State) (o : MemOp) (failed : Bool) : (doneBelow r o failed).pending = r.2.pending :=
  by simp [doneBelow]

end Sys2Proof.Machine
end

section
/-!
The queue under the functions of Bellows, the optimizer, the window, Quench and the routes. For O53 and O54.
-/
namespace Sys2Proof.Machine

/-! ### The tiers -/

@[simp] theorem setCmd_pending (s : State) (p : Nat) (c : Option TierCmd) : (setCmd s p c).pending = s.pending := by simp [setCmd]

@[simp] theorem endCmd_pending (s : State) (p code : Nat) : (endCmd s p code).pending = s.pending := by simp [endCmd]

/-- The state a page's command leaves. -/
def PageRes.after : PageRes → State
  | .wait s => s
  | .status _ s => s

theorem PageRes.ite_after_pending {c : Prop} [Decidable c] {a b : PageRes} {s : State} (ha : a.after.pending = s.pending)
    (hb : b.after.pending = s.pending) : (if c then a else b).after.pending = s.pending := by
  split
  · exact ha
  · exact hb

@[simp] theorem cmdPage_pending (s : State) (p : Nat) (c : TierCmd) : (cmdPage s p c).after.pending = s.pending := by
  rw [cmdPage]
  dsimp only
  refine PageRes.ite_after_pending rfl <| PageRes.ite_after_pending (PageRes.ite_after_pending rfl ?map) <| PageRes.ite_after_pending rfl <|
    PageRes.ite_after_pending rfl <| PageRes.ite_after_pending rfl <| PageRes.ite_after_pending rfl <| PageRes.ite_after_pending ?unmap <|
    PageRes.ite_after_pending
      (PageRes.ite_after_pending rfl <| PageRes.ite_after_pending rfl <| PageRes.ite_after_pending rfl ?migrate) ?hint
  case map =>
    generalize h : takeFrame 3 s p c.tier = taken
    cases taken with
    | none => simp [PageRes.after]
    | some r => simpa [PageRes.after] using takeFrame_pending h
  case migrate =>
    generalize h : startMigration s p c.page c.tier = started
    cases started with
    | none => simp [PageRes.after]
    | some u => simpa [PageRes.after] using startMigration_pending h
  case unmap => simp [PageRes.after]
  case hint => simp [PageRes.after]

@[simp] theorem runCmd_pending (fuel : Nat) (s : State) (p : Nat) (c : TierCmd) : (runCmd fuel s p c).pending = s.pending := by
  induction fuel generalizing s c with
  | zero => simp [runCmd]
  | succ fuel ih =>
    have h := cmdPage_pending s p c
    rw [runCmd]
    generalize cmdPage s p c = r at h ⊢
    split
    · simp
    · split
      all_goals simp_all [PageRes.after]

@[simp] theorem ftlWrite_pending (s : State) (n : Nat) : (ftlWrite s n).pending = s.pending := by simp [ftlWrite]

/-! ### Bellows -/

@[simp] theorem setDescs_pending (s : State) (t : Nat) (l : List BDesc) : (setDescs s t l).pending = s.pending := by simp [setDescs]

@[simp] theorem putDesc_pending (s : State) (t : Nat) (d : BDesc) : (putDesc s t d).pending = s.pending := by simp [putDesc]

@[simp] theorem setWindow_pending (s : State) (t : Nat) (l : List PfEntry) : (setWindow s t l).pending = s.pending := by simp [setWindow]

@[simp] theorem putEntry_pending (s : State) (t : Nat) (e : PfEntry) : (putEntry s t e).pending = s.pending := by simp [putEntry]

@[simp] theorem setReqs_pending (s : State) (l : List BReq) : (setReqs s l).pending = s.pending := by simp [setReqs]

@[simp] theorem freshBlw_pending (s : State) : (freshBlw s).2.pending = s.pending := rfl

@[simp] theorem wakeFences_pending (s : State) (t : Nat) : (wakeFences s t).pending = s.pending := by simp [wakeFences]

@[simp] theorem reportDesc_pending (s : State) (t : Nat) (d : BDesc) (code off : Nat) :
    (reportDesc s t d code off).pending = s.pending := by
  simp only [reportDesc]
  repeat' split
  all_goals simp

@[simp] theorem completeDesc_pending (s : State) (t : Nat) (d : BDesc) (code off : Nat) :
    (completeDesc s t d code off).pending = s.pending :=
  by simp [completeDesc]

@[simp] theorem completeDrain_pending (s : State) (t : Nat) (d : BDesc) (code : Nat) : (completeDrain s t d code).pending = s.pending :=
  by simp [completeDrain]

@[simp] theorem setDrain_pending (s : State) (p : Nat) (x : Option (Nat × List Nat)) : (setDrain s p x).pending = s.pending :=
  by simp [setDrain]

@[simp] theorem releaseTile_pending (t : Nat) (ds : List BDesc) (s : State) : (releaseTile t ds s).pending = s.pending := by
  induction ds generalizing s with
  | nil => rfl
  | cons d ds ih => simp [releaseTile, ih]

@[simp] theorem releaseDrain_pending (s : State) (p : Nat) : (releaseDrain s p).pending = s.pending := by
  rw [releaseDrain, foldl_pending fun s t => releaseTile_pending .., setDrain_pending]

@[simp] theorem arriveDrain_pending (s : State) (t p : Nat) (d : BDesc) : (arriveDrain s t p d).pending = s.pending := by
  simp only [arriveDrain]
  split <;> simp

@[simp] theorem settleDrains_pending (t : Nat) (ds : List BDesc) (s : State) : (settleDrains t ds s).pending = s.pending := by
  induction ds generalizing s with
  | nil => rfl
  | cons d ds ih =>
    rw [settleDrains, ih]
    repeat' split
    all_goals simp

@[simp] theorem finishDesc_pending (s : State) (t : Nat) (d : BDesc) (code off : Nat) : (finishDesc s t d code off).pending = s.pending :=
  by simp [finishDesc]

@[simp] theorem acceptDesc_pending (s : State) (t : Nat) (b : List Byte) (bad : Bool) (d : BDesc) :
    (acceptDesc s t b bad d).pending = s.pending := by
  simp only [acceptDesc]
  repeat' split
  all_goals simp

@[simp] theorem setAwaits_pending (s : State) (t slot n : Nat) : (setAwaits s t slot n).pending = s.pending := by simp [setAwaits]

@[simp] theorem claimFor_pending (t : Nat) (k : Option (Fin 4)) (u : Use) (count : Nat → Nat) (l : List Nat) (s : State) :
    (claimFor t k u count l s).pending = s.pending := by
  induction l generalizing s with
  | nil => rfl
  | cons x l ih => simp [claimFor, ih]

@[simp] theorem settleFor_pending (t : Nat) (k : Option (Fin 4)) (u : Use) (l : List Nat) (s : State) :
    (settleFor t k u l s).pending = s.pending := by
  induction l generalizing s with
  | nil => rfl
  | cons x l ih => simp [settleFor, ih]

@[simp] theorem readList_pending (s : State) (t p : Nat) (d : BDesc) (la n eb spad stride : Nat) (ecc : Ecc) :
    (readList s t p d la n eb spad stride ecc).pending = s.pending := by
  simp only [readList]
  repeat' split
  all_goals simp

@[simp] theorem failDesc_pending (s : State) (t : Nat) (d : BDesc) (code off : Nat) : (failDesc s t d code off).pending = s.pending :=
  by simp [failDesc]

@[simp] theorem sendPiece_pending (s : State) (t p : Nat) (d : Option BDesc) (c : BPiece) (write : Bool) (task : Option (Fin 4))
    (gather watch : Bool) (data : List Byte) (win : Option Nat) :
    (sendPiece s t p d c write task gather watch data win).2.pending = s.pending := by
  simp only [sendPiece]
  repeat' split
  all_goals simp

@[simp] theorem issueRead_pending (s : State) (t p : Nat) (d : BDesc) (c : BPiece) (rest : List BPiece) :
    (issueRead s t p d c rest).pending = s.pending := by
  simp only [issueRead]
  repeat' split
  all_goals simp

@[simp] theorem issueWrite_pending (s : State) (t p : Nat) (d : BDesc) (c : BPiece) (rest : List BPiece) (ecc : Ecc) :
    (issueWrite s t p d c rest ecc).pending = s.pending := by
  simp only [issueWrite]
  repeat' split
  all_goals simp

theorem takeTag_pending {s u : State} {t p : Nat} {d : BDesc} {c : BPiece} (h : takeTag s t p d c = some u) : u.pending = s.pending := by
  simp only [takeTag] at h
  repeat' split at h
  all_goals simp at h
  all_goals simp [← h]

@[simp] theorem tryReissue_pending (s : State) (t : Nat) (e : PfEntry) : (tryReissue s t e).pending = s.pending := by simp [tryReissue]

@[simp] theorem settleFences_pending (s : State) : (settleFences s).pending = s.pending := by simp [settleFences]

@[simp] theorem emptyForRefill_pending (t : Nat) (l : List Nat) (s : State) : (emptyForRefill t l s).pending = s.pending := by
  induction l generalizing s with
  | nil => rfl
  | cons x l ih => simp [emptyForRefill, ih]

@[simp] theorem releaseOps_pending (s : State) (o : OpOwner) : (releaseOps s o).pending = s.pending := by simp [releaseOps]

@[simp] theorem endRequest_pending (s : State) (t : Nat) (r : BReq) (fail : Option Nat) : (endRequest s t r fail).pending = s.pending := by
  simp only [endRequest]
  repeat' split
  all_goals simp

@[simp] theorem landRead_pending (s : State) (t : Nat) (r : BReq) (data : List Byte) : (landRead s t r data).pending = s.pending := by
  simp only [landRead]
  repeat' split
  all_goals simp

/-! ### The optimizer and Temper -/

@[simp] theorem setLayers_pending (s : State) (sl : Nat) (l : List TemperLayer) : (setLayers s sl l).pending = s.pending :=
  by simp [setLayers]

@[simp] theorem sumSquares_pending (s : State) (vs : List FpVal) : (sumSquares s vs).2.pending = s.pending := by
  induction vs with
  | nil => rfl
  | cons v vs ih =>
    simp only [sumSquares]
    split <;> simp [ih]

@[simp] theorem detectUpdate_pending (t base : Nat) (bs : List Bool) (i : Nat) (s : State) :
    (detectUpdate t base i bs s).pending = s.pending := by
  induction bs generalizing i s with
  | nil => rfl
  | cons b bs ih => simp [detectUpdate, ih]

@[simp] theorem temperAdd_pending (s : State) (t : Nat) (ws ds : List FpVal) : (temperAdd s t ws ds).pending = s.pending := by
  simp only [temperAdd]
  split <;> simp

@[simp] theorem optRun_pending (s : State) (c : OpCtx) (e : Ecc) (b l : List Byte) (n base : Nat) :
    (optRun s c e b l n base).pending = s.pending :=
  by simp [optRun]

@[simp] theorem putTemper_pending (s : State) (p sl : Nat) (b : List Byte) : (putTemper s p sl b).pending = s.pending := by simp [putTemper]

@[simp] theorem closeLayer_pending (s : State) (t p sl : Nat) (x : TemperLayer) : (closeLayer s t p sl x).pending = s.pending :=
  by simp [closeLayer]

@[simp] theorem wakeLayer_pending (s : State) (p : Nat) : (wakeLayer s p).pending = s.pending := by simp [wakeLayer]

/-! ### The register window -/

theorem writeSelected_pending {s u : State} {p : PageRef} {o v : Nat} (h : writeSelected s p o v = some u) : u.pending = s.pending := by
  simp only [writeSelected] at h
  repeat' split at h
  all_goals simp at h
  all_goals simp [← h]

@[simp] theorem writeWordReg_pending (s : State) (p : PageRef) (r : RegDef) (o : Nat) (v : Nat) (who : Requester) :
    (writeWordReg s p r o v who).pending = s.pending :=
  by simp [writeWordReg]

@[simp] theorem writePairReg_pending (s : State) (p : PageRef) (r : RegDef) (o : Nat) (half : RegHalf) (v : Nat) (who : Requester) :
    (writePairReg s p r o half v who).pending = s.pending := by
  simp only [writePairReg]
  split <;> simp

@[simp] theorem writeHeader_pending (s : State) (p : PageRef) (o v : Nat) (who : Requester) :
    (writeHeader s p o v who).pending = s.pending :=
  by simp [writeHeader]

@[simp] theorem writeReg_pending (s : State) (off v : Nat) (who : Requester) : (writeReg s off v who).pending = s.pending := by
  simp only [writeReg]
  repeat' split
  any_goals exact writeSelected_pending ‹_›
  all_goals simp

@[simp] theorem addIncrements_pending (l : List (Nat × Nat)) (s : State) : (addIncrements l s).pending = s.pending := by
  induction l generalizing s with
  | nil => rfl
  | cons x l ih => simp [addIncrements, ih]

/-! ### Quench -/

@[simp] theorem setTaskState_pending (s : State) (sl n : Nat) : (setTaskState s sl n).pending = s.pending := by simp [setTaskState]

@[simp] theorem postTo_pending (s : State) (p idx : Nat) (opc : ReqOpc) (addr word : Nat) :
    (postTo s p idx opc addr word).pending = s.pending :=
  by simp [postTo]

@[simp] theorem takeOwn_pending (s : State) (p addr : Nat) : (takeOwn s p addr).pending = s.pending := by simp [takeOwn]

@[simp] theorem setVoteRec_pending (s : State) (sl r : Nat) (x : VoteRec) : (setVoteRec s sl r x).pending = s.pending :=
  by simp [setVoteRec]

@[simp] theorem initRecord_pending (s : State) (p sl n : Nat) : (initRecord s p sl n).pending = s.pending := by
  rw [initRecord, setVoteRec_pending, devWrite_pending]

@[simp] theorem armUnit_pending (s : State) (p sl : Nat) : (armUnit s p sl).pending = s.pending := by simp [armUnit]

@[simp] theorem disarm_pending (s : State) (sl : Nat) : (disarm s sl).pending = s.pending := by simp [disarm]

@[simp] theorem raiseSoft_pending (s : State) (sl : Nat) : (raiseSoft s sl).pending = s.pending := by
  simp only [raiseSoft]
  split <;> simp

@[simp] theorem discardPages_pending (s : State) (p sl : Nat) : (discardPages s p sl).pending = s.pending := by simp [discardPages]

@[simp] theorem shadowCheck_pending (s : State) (p : Nat) : (shadowCheck s p).pending = s.pending := by simp [shadowCheck]

@[simp] theorem castVote_pending (s : State) (p sl : Nat) : (castVote s p sl).pending = s.pending := by simp [castVote]

@[simp] theorem wakeVote_pending (s : State) (p : Nat) (code : W64) : (wakeVote s p code).pending = s.pending := by simp [wakeVote]

@[simp] theorem lateVote_pending (s : State) (sl : Nat) : (lateVote s sl).pending = s.pending := by simp [lateVote]

@[simp] theorem dupVote_pending (s : State) (sl : Nat) : (dupVote s sl).pending = s.pending := by simp [dupVote]

@[simp] theorem leaderDecide_pending (s : State) (p sl r : Nat) : (leaderDecide s p sl r).pending = s.pending := by simp [leaderDecide]

@[simp] theorem rootDecide_pending (s : State) (p sl r : Nat) : (rootDecide s p sl r).pending = s.pending := by simp [rootDecide]

@[simp] theorem groupVote_pending (s : State) (p sl r operand : Nat) : (groupVote s p sl r operand).pending = s.pending := by
  simp only [groupVote]
  split <;> simp

@[simp] theorem rootResult_pending (s : State) (p sl r operand : Nat) (final : Option (Nat × Nat)) :
    (rootResult s p sl r operand final).pending = s.pending := by
  simp only [rootResult]
  repeat' split
  all_goals simp

/-! ### Routes -/

@[simp] theorem setPort_pending (s : State) (n : Nat) (x : Port) : (setPort s n x).pending = s.pending := by simp [setPort]

@[simp] theorem inject_pending (s : State) (q : QPkt) : (inject s q).pending = s.pending := by
  simp only [inject]
  split <;> simp

@[simp] theorem noteNoRoute_pending (s : State) (die : Nat) : (noteNoRoute s die).pending = s.pending := by simp [noteNoRoute]

@[simp] theorem sendResponse_pending (s : State) (die : Nat) (p : ReqPkt) (status sub : Nat) (data : List Byte) :
    (sendResponse s die p status sub data).pending = s.pending := by
  simp only [sendResponse]
  split <;> simp

@[simp] theorem injectAll_pending (qs : List QPkt) (s : State) : (injectAll qs s).pending = s.pending := by
  induction qs generalizing s with
  | nil => rw [injectAll]
  | cons q qs ih => rw [injectAll, ih, inject_pending]

@[simp] theorem retryWaiting_pending (s : State) : (retryWaiting s).pending = s.pending := by simp [retryWaiting]

@[simp] theorem portsChanged_pending (s : State) : (portsChanged s).pending = s.pending := by
  simp only [portsChanged]
  repeat' split
  all_goals simp

end Sys2Proof.Machine
end

section
/-!
The queue under the functions of tasks, Tongs, sequences, Billet and fabric time. For O53 and O54.
-/
namespace Sys2Proof.Machine

/-! ### Threads, barriers and tasks -/

@[simp] theorem blockThread_pending (s : State) (t th : Nat) (st : ThrState) : (blockThread s t th st).pending = s.pending :=
  by simp [blockThread]

@[simp] theorem setBarrier_pending (s : State) (t id : Nat) (x : Option Barrier) : (setBarrier s t id x).pending = s.pending :=
  by simp [setBarrier]

@[simp] theorem releaseBarrier_pending (s : State) (t id : Nat) : (releaseBarrier s t id).pending = s.pending := by simp [releaseBarrier]

@[simp] theorem openTask_pending (s : State) (t th k n : Nat) : (openTask s t th k n).pending = s.pending := by simp [openTask]

@[simp] theorem retryBegin_pending (t : Nat) (s : State) (w : Nat × Nat × Nat × Nat) : (retryBegin t s w).pending = s.pending :=
  by simp [retryBegin]

@[simp] theorem retryBegins_pending (s : State) (t : Nat) : (retryBegins s t).pending = s.pending := by simp [retryBegins]

@[simp] theorem commitSlot_pending (t : Nat) (s : State) (p : Nat × Nat) : (commitSlot t s p).pending = s.pending := by simp [commitSlot]

@[simp] theorem closeTask_pending (s : State) (t : Nat) (k : Fin 4) (x : Task) (code : W64) :
    (closeTask s t k x code).pending = s.pending :=
  by simp [closeTask]

@[simp] theorem discardTask_pending (s : State) (t : Nat) (k : Fin 4) (x : Task) (code : W64) :
    (discardTask s t k x code).pending = s.pending :=
  by simp [discardTask]

/-! ### Tongs -/

@[simp] theorem setTOps_pending (s : State) (l : List TOp) : (setTOps s l).pending = s.pending := by simp [setTOps]

@[simp] theorem putTOp_pending (s : State) (x : TOp) : (putTOp s x).pending = s.pending := by simp [putTOp]

@[simp] theorem setTReqs_pending (s : State) (l : List TReq) : (setTReqs s l).pending = s.pending := by simp [setTReqs]

@[simp] theorem freshTng_pending (s : State) : (freshTng s).2.pending = s.pending := rfl

@[simp] theorem writeResult_pending (s : State) (o : TOp) (code sub off : Nat) : (writeResult s o code sub off).pending = s.pending := by
  simp only [writeResult]
  repeat' split
  all_goals simp

/-- noteTngError with any latch: the kernel would evaluate the state that latchBlk leaves. -/
def noteTngErrorBy (latch : State → Nat → Nat → Nat → State) (s : State) (o : TOp) (code sub addr : Nat) : State :=
  let pg := tngTPg o.tile
  let s := latch (inc (intSet s pg 1) (pg + 0x130)) pg (code % 256 + sub % 256 * 2 ^ 8 + o.thr * 2 ^ 16) addr
  match partOfTile s o.tile with
  | some p => if o.stepBound && armed s (lowSlice s p) then detectPart s p 6 addr else s
  | none => s

theorem noteTngError_eq : noteTngError = noteTngErrorBy latchBlk := by
  delta noteTngError noteTngErrorBy
  exact rfl

theorem noteTngErrorBy_pending {latch : State → Nat → Nat → Nat → State} (hl : ∀ s pg syn addr, (latch s pg syn addr).pending = s.pending)
    (s : State) (o : TOp) (code sub addr : Nat) : (noteTngErrorBy latch s o code sub addr).pending = s.pending := by
  simp only [noteTngErrorBy]
  repeat' split
  all_goals simp [hl]

@[simp] theorem noteTngError_pending (s : State) (o : TOp) (code sub addr : Nat) :
    (noteTngError s o code sub addr).pending = s.pending := by
  rw [noteTngError_eq, noteTngErrorBy_pending latchBlk_pending]

@[simp] theorem completeTOp_pending (s : State) (o : TOp) : (completeTOp s o).pending = s.pending := by simp [completeTOp]

@[simp] theorem settleTOp_pending (s : State) (o : TOp) : (settleTOp s o).pending = s.pending := by simp [settleTOp]

@[simp] theorem failTOp_pending (s : State) (o : TOp) (code sub off addr : Nat) : (failTOp s o code sub off addr).pending = s.pending :=
  by simp [failTOp]

@[simp] theorem setSeq_pending (s : State) (sl : Nat) (x : SeqTable) : (setSeq s sl x).pending = s.pending := by simp [setSeq]

@[simp] theorem rejectBuild_pending (s : State) (sl : Nat) : (rejectBuild s sl).pending = s.pending := by simp [rejectBuild]

@[simp] theorem takeNotify_pending (s : State) (sl : Nat) : (takeNotify s sl).pending = s.pending := by simp [takeNotify]

/-- The state a delivery leaves. -/
def Delivery.after : Delivery → State
  | .refused _ _ s => s
  | .voted _ s => s
  | .taken s => s
  | .accepted s => s

theorem deliver_pending (s : State) (p : Nat) (opc : ReqOpc) (a n etype x : Nat) (step : Option W32) :
    (deliver s p opc a n etype x step).after.pending = s.pending := by
  simp only [deliver]
  repeat' split
  all_goals simp [Delivery.after]

@[simp] theorem sendReq_pending (s : State) (p : Nat) (o : TOp) (c : TPiece) (rest : List TPiece) (new : List Nat) (data : List Byte) :
    (sendReq s p o c rest new data).pending = s.pending := by
  simp only [sendReq]
  split
  · generalize hu : putTOp _ _ = u
    have h := deliver_pending u p c.opc c.target c.tlen o.etype c.value o.step
    have hs : u.pending = s.pending := by simp [← hu]
    generalize deliver u p c.opc c.target c.tlen o.etype c.value o.step = d at h
    cases d <;> simp_all [Delivery.after]
  · simp

@[simp] theorem issueReq_pending (s : State) (p : Nat) (o : TOp) (c : TPiece) (rest : List TPiece) (ecc : Ecc) :
    (issueReq s p o c rest ecc).pending = s.pending := by
  simp only [issueReq]
  repeat' split
  all_goals simp

theorem tngHeld_pending {s u : State} {p : Nat} {o : TOp} {c : TPiece} (h : tngHeld s p o c = some u) : u.pending = s.pending := by
  simp only [tngHeld] at h
  repeat' split at h
  all_goals simp at h
  all_goals simp [← h]

@[simp] theorem takeArrival_pending (s : State) (port : Nat) (p : ReqPkt) : (takeArrival s port p).pending = s.pending :=
  by simp [takeArrival]

@[simp] theorem settleInbound_pending (l : List Inbound) (s : State) : (settleInbound l s).pending = s.pending := by
  induction l generalizing s with
  | nil => rw [settleInbound]
  | cons i l ih =>
    rw [settleInbound, ih]
    split <;> simp

@[simp] theorem endReq_pending (s : State) (r : TReq) (status sub : Nat) (data : List Byte) :
    (endReq s r status sub data).pending = s.pending := by
  simp only [endReq]
  split <;> simp

@[simp] theorem lateResponse_pending (s : State) (t : Nat) : (lateResponse s t).pending = s.pending := by simp [lateResponse]

/-! ### Sequence tables -/

@[simp] theorem writeSlot_pending (s : State) (p sl n : Nat) (x : SeqSlot) : (writeSlot s p sl n x).pending = s.pending :=
  by simp [writeSlot]

@[simp] theorem putPlist_pending (p plist k : Nat) (ws : List Nat) (s : State) : (putPlist p plist k ws s).pending = s.pending := by
  induction ws generalizing k s with
  | nil => rfl
  | cons w ws ih => simp [putPlist, ih]

/-- mapPages in any tier. -/
def placePages (tier p : Nat) : List Nat → State → State
  | [], s => s
  | g :: gs, s =>
    match pickFrame s p tier with
    | some (f, s) => placePages tier p gs (setPage s p (swapOf s p g) { touch := 0, tier := tier, frame := f })
    | none => s

theorem mapPages_eq_placePages : mapPages = placePages 0 := by
  delta mapPages placePages
  exact rfl

theorem placePages_pending (tier p : Nat) (gs : List Nat) (s : State) : (placePages tier p gs s).pending = s.pending := by
  induction gs generalizing s with
  | nil => rfl
  | cons g gs ih =>
    rw [placePages]
    split
    · next h => rw [ih, setPage_pending, pickFrame_pending h]
    · rfl

@[simp] theorem mapPages_pending (p : Nat) (gs : List Nat) (s : State) : (mapPages p gs s).pending = s.pending := by
  rw [mapPages_eq_placePages, placePages_pending]

@[simp] theorem unmapPages_pending (p : Nat) (gs : List Nat) (s : State) : (unmapPages p gs s).pending = s.pending := by
  induction gs generalizing s with
  | nil => rfl
  | cons g gs ih => simp [unmapPages, ih]

theorem copyGroups_pending {f : State → Nat → Nat → State} (hf : ∀ s g a, (f s g a).pending = s.pending) (sl ppg : Nat) (pages : List Nat)
    (i : Nat) (gs : List Nat) (s : State) : (copyGroups f sl ppg pages i gs s).pending = s.pending := by
  induction gs generalizing i s with
  | nil => rfl
  | cons g gs ih => rw [copyGroups, ih, foldl_pending fun s j => hf ..]

@[simp] theorem putHost_pending (a : Nat) (l : List (Nat × Byte)) (s : State) : (putHost a l s).pending = s.pending := by
  induction l generalizing s with
  | nil => rfl
  | cons x l ih => simp [putHost, ih]

@[simp] theorem pageToHost_pending (s : State) (p g a : Nat) : (pageToHost s p g a).pending = s.pending := by simp [pageToHost]

@[simp] theorem hostToPage_pending (s : State) (p g a : Nat) : (hostToPage s p g a).pending = s.pending := by simp [hostToPage]

theorem seqEvict_pending {s u : State} {p sl : Nat} (h : seqEvict s p sl = some u) : u.pending = s.pending := by
  rw [seqEvict] at h
  split at h
  · split at h
    · next f v hv =>
      rw [← Option.some.inj h, inc_pending, inc_pending, movePage_pending, takeFrame_pending hv]
    · cases h
  · cases h

@[simp] theorem takeGroups_pending (s : State) (p sl plist a n : Nat) : (takeGroups s p sl plist a n).pending = s.pending :=
  by simp [takeGroups]

namespace Bld

@[simp] theorem status_pending (b : Bld) (sl idx code : Nat) : (b.status sl idx code).s.pending = b.s.pending := by
  simp [Bld.status]

@[simp] theorem defer_pending (b : Bld) (sl : Nat) : (b.defer sl).s.pending = b.s.pending := by simp [Bld.defer]

@[simp] theorem leave_pending (b : Bld) (p sl : Nat) (r : SeqReq) : (b.leave p sl r).s.pending = b.s.pending := by simp [Bld.leave]

@[simp] theorem trim_pending (b : Bld) (p sl : Nat) (r : SeqReq) : (b.trim p sl r).s.pending = b.s.pending := by
  rw [Bld.trim]
  dsimp only
  split <;> simp

@[simp] theorem suspend_pending (b : Bld) (p sl n : Nat) (dst : List Nat) : (b.suspend p sl n dst).s.pending = b.s.pending := by
  simp [Bld.suspend, copyGroups_pending fun s g a => pageToHost_pending ..]

theorem suspendOne_fst_pending {b c d : Bld} {p sl : Nat} {named : List Nat} (h : b.suspendOne p sl named = (some c, d)) :
    c.s.pending = b.s.pending := by
  simp only [Bld.suspendOne] at h
  repeat' split at h
  all_goals simp at h
  rw [← h.1, suspend_pending]

theorem suspendOne_snd_pending (b : Bld) (p sl : Nat) (named : List Nat) : (b.suspendOne p sl named).2.s.pending = b.s.pending := by
  simp only [Bld.suspendOne]
  repeat' split
  all_goals simp

end Bld

/-- makeRoom with any eviction, and any suspension of one sequence. -/
def makeRoomBy (evict : State → Nat → Nat → Option State) (suspend : Bld → Nat → Nat → List Nat → Option Bld × Bld) (p sl need : Nat)
    (named : List Nat) : Nat → Bld → Bool × Bld
  | 0, b => (false, b)
  | fuel + 1, b =>
    let press := fun (b : Bld) =>
      match suspend b p sl named with
      | (some b, _) => makeRoomBy evict suspend p sl need named fuel b
      | (none, b) => (false, b)
    if (freePages b.s p sl).length < need then press b
    else if need ≤ freeHbm b.s p then (true, b)
    else
      match evict b.s p sl with
      | some s => makeRoomBy evict suspend p sl need named fuel { b with s := s, flags := b.flags ||| 8 }
      | none => press { b with s := noteFull b.s p }

theorem makeRoom_eq_makeRoomBy : makeRoom = makeRoomBy seqEvict Bld.suspendOne := by
  delta makeRoom makeRoomBy
  exact rfl

theorem makeRoomBy_pending {evict : State → Nat → Nat → Option State} {suspend : Bld → Nat → Nat → List Nat → Option Bld × Bld}
    (hevict : ∀ {s u p sl}, evict s p sl = some u → u.pending = s.pending)
    (hfst : ∀ {b c d p sl named}, suspend b p sl named = (some c, d) → c.s.pending = b.s.pending)
    (hsnd : ∀ b p sl named, (suspend b p sl named).2.s.pending = b.s.pending) (p sl need : Nat) (named : List Nat) (fuel : Nat) (b : Bld) :
    (makeRoomBy evict suspend p sl need named fuel b).2.s.pending = b.s.pending := by
  induction fuel generalizing b with
  | zero => rfl
  | succ fuel ih =>
    have hpress (b : Bld) : (match suspend b p sl named with
        | (some b, _) => makeRoomBy evict suspend p sl need named fuel b
        | (none, b) => (false, b)).2.s.pending = b.s.pending := by
      have h := hsnd b p sl named
      split
      · next c d hc => rw [ih, hfst hc]
      · next d hd => simpa [hd] using h
    rw [makeRoomBy]
    dsimp only
    split
    · exact hpress b
    · split
      · rfl
      · split
        · next u hu => rw [ih, hevict hu]
        · exact (hpress _).trans (noteFull_pending ..)

theorem makeRoom_pending (p sl need : Nat) (named : List Nat) (fuel : Nat) (b : Bld) :
    (makeRoom p sl need named fuel b).2.s.pending = b.s.pending := by
  rw [makeRoom_eq_makeRoomBy, makeRoomBy_pending seqEvict_pending Bld.suspendOne_fst_pending Bld.suspendOne_snd_pending]

namespace Bld

@[simp] theorem extend_pending (b : Bld) (p sl : Nat) (named : List Nat) (r : SeqReq) :
    (b.extend p sl named r).s.pending = b.s.pending := by
  rw [Bld.extend]
  dsimp only
  split
  · simp
  · have h {need fuel : Nat} {room : Bool} {c : Bld} (hr : makeRoom p sl need named fuel b = (room, c)) : c.s.pending = b.s.pending := by
      simpa [hr] using makeRoom_pending p sl need named fuel b
    generalize makeRoom p sl = makes at h ⊢
    split
    · next hr => simp [h hr]
    · next hr => simp [h hr]

@[simp] theorem takeIn_pending (b : Bld) (p sl n : Nat) (x : SeqSlot) : (b.takeIn p sl n x).s.pending = b.s.pending := by
  rw [Bld.takeIn]
  dsimp only
  split
  · simp
  · simp [copyGroups_pending fun s g a => hostToPage_pending ..]

@[simp] theorem joins_pending (p sl : Nat) (l : List (Nat × Option Nat)) (blocked : Bool) (b : Bld) :
    (Bld.joins p sl l blocked b).s.pending = b.s.pending := by
  induction l generalizing blocked b with
  | nil => rfl
  | cons x l ih =>
    obtain ⟨n, idx⟩ := x
    unfold Bld.joins
    dsimp only
    rw [ih]
    cases idx <;> simp [apply_ite]

@[simp] theorem enqueue_pending (b : Bld) (p sl : Nat) (r : SeqReq) : (b.enqueue p sl r).1.s.pending = b.s.pending := by
  simp only [Bld.enqueue]
  repeat' split
  all_goals simp

theorem foldl_pending {α : Type} {f : Bld → α → Bld} (hf : ∀ b a, (f b a).s.pending = b.s.pending) (l : List α) (b : Bld) :
    (l.foldl f b).s.pending = b.s.pending := by
  induction l generalizing b with
  | nil => rfl
  | cons a l ih => exact (ih _).trans (hf b a)

theorem foldl_fst_pending {α β : Type} {f : Bld × β → α → Bld × β} (hf : ∀ b a, (f b a).1.s.pending = b.1.s.pending) (l : List α)
    (b : Bld × β) : 
    (l.foldl f b).1.s.pending = b.1.s.pending := by
  induction l generalizing b with
  | nil => rfl
  | cons a l ih => exact (ih _).trans (hf b a)

end Bld

@[simp] theorem runBuild_pending (s : State) (p sl : Nat) (reqs : List SeqReq) : (runBuild s p sl reqs).s.pending = s.pending := by
  rw [runBuild, Bld.joins_pending]
  refine (Bld.foldl_fst_pending (fun q r => ?queued) _ _).trans <| (Bld.foldl_pending (fun b r => Bld.extend_pending ..) _ _).trans <|
    (Bld.foldl_pending (fun b r => ?left) _ _).trans (Bld.foldl_pending (fun b v => ?screened) _ _)
  case queued =>
    have h := Bld.enqueue_pending q.1 p sl r
    split <;> simp_all
  case left => split <;> simp
  case screened => split <;> simp

@[simp] theorem startBuild_pending (s : State) (p sl : Nat) : (startBuild s p sl).pending = s.pending := by simp [startBuild]

@[simp] theorem putStatuses_pending (p sl : Nat) (l : List (Nat × Nat)) (s : State) : (putStatuses p sl l s).pending = s.pending := by
  induction l generalizing s with
  | nil => rfl
  | cons x l ih => simp [putStatuses, ih]

/-! ### The Billet unit -/

@[simp] theorem setBlt_pending (s : State) (sl : Nat) (x : Billet) : (setBlt s sl x).pending = s.pending := by simp [setBlt]

@[simp] theorem setPhase_pending (s : State) (sl n : Nat) : (setPhase s sl n).pending = s.pending := by simp [setPhase]

@[simp] theorem setBltStatus_pending (s : State) (sl code : Nat) : (setBltStatus s sl code).pending = s.pending := by simp [setBltStatus]

@[simp] theorem cleanIn_pending (s : State) (p g gen : Nat) : (cleanIn s p g gen).pending = s.pending := by simp [cleanIn]

@[simp] theorem postOne_pending (s : State) (p : Nat) (target : W32) (opc : ReqOpc) (addr : Nat) (data : List Byte) :
    (postOne s p target opc addr data).pending = s.pending :=
  by simp [postOne]

@[simp] theorem postBytes_pending (p : Nat) (target : W32) (n addr : Nat) (data : List Byte) (s : State) :
    (postBytes p target n addr data s).pending = s.pending := by
  induction n generalizing addr data s with
  | zero => rfl
  | succ n ih =>
    rw [postBytes]
    split
    · rfl
    · simp [ih]

@[simp] theorem postRange_pending (s : State) (p : Nat) (target : W32) (addr : Nat) (data : List Byte) :
    (postRange s p target addr data).pending = s.pending := by rw [postRange, postBytes_pending]

@[simp] theorem billetStart_pending (s : State) (p sl step : Nat) : (billetStart s p sl step).pending = s.pending := by simp [billetStart]

@[simp] theorem billetEnd_pending (s : State) (p sl code : Nat) : (billetEnd s p sl code).pending = s.pending := by
  simp only [billetEnd]
  repeat' split
  all_goals simp

/-! ### Calibration records -/

@[simp] theorem setCal_pending (s : State) (c : Cal) : (setCal s c).pending = s.pending := by simp [setCal]

@[simp] theorem showDue_pending (s : State) : (showDue s).pending = s.pending := by simp [showDue]

@[simp] theorem addDue_pending (s : State) (k : Nat) : (addDue s k).pending = s.pending := by simp [addDue]

@[simp] theorem takeRec_pending (s : State) (k temp : Nat) : (takeRec s k temp).pending = s.pending := by simp [takeRec]

@[simp] theorem dropWindow_pending (s : State) (k : Nat) : (dropWindow s k).pending = s.pending := by
  simp only [dropWindow]
  split <;> simp

@[simp] theorem evalGuard_pending (s : State) : (evalGuard s).pending = s.pending := by simp [evalGuard]

/-! ### The outcome of a step -/

@[simp] theorem commitPages_pending (s : State) (p sl : Nat) : (commitPages s p sl).pending = s.pending := by simp [commitPages]

@[simp] theorem markTemper_pending (s : State) (p sl step : Nat) (commit : Bool) : (markTemper s p sl step commit).pending = s.pending :=
  by simp [markTemper]

@[simp] theorem lossScale_pending (s : State) (sl : Nat) (commit nonfinite : Bool) :
    (lossScale s sl commit nonfinite).pending = s.pending :=
  by simp [lossScale]

@[simp] theorem replaceFlags_pending (s : State) (p sl step : Nat) : (replaceFlags s p sl step).pending = s.pending :=
  by simp [replaceFlags]

@[simp] theorem advanceSpark_pending (s : State) (p : Nat) : (advanceSpark s p).pending = s.pending := by simp [advanceSpark]

@[simp] theorem callWindow_pending (s : State) (p sl step : Nat) : (callWindow s p sl step).pending = s.pending := by simp [callWindow]

@[simp] theorem applyOutcome_pending (s : State) (p sl word : Nat) : (applyOutcome s p sl word).pending = s.pending :=
  by simp [applyOutcome]

@[simp] theorem receiveOutcome_pending (s : State) (p sl word : Nat) : (receiveOutcome s p sl word).pending = s.pending :=
  by simp [receiveOutcome]

@[simp] theorem releaseOutcome_pending (s : State) (p sl : Nat) : (releaseOutcome s p sl).pending = s.pending := by
  simp only [releaseOutcome]
  split <;> simp

/-! ### Billet images and restores -/

@[simp] theorem bltStop_pending (s : State) (p sl code : Nat) : (bltStop s p sl code).pending = s.pending := by simp [bltStop]

@[simp] theorem writeTable_pending (s : State) (p sl gen : Nat) : (writeTable s p sl gen).pending = s.pending := by simp [writeTable]

@[simp] theorem copyImage_pending (s : State) (p sl gen step : Nat) (i : ImgPage) : (copyImage s p sl gen step i).pending = s.pending :=
  by simp [copyImage]

@[simp] theorem signalReady_pending (s : State) (p sl : Nat) : (signalReady s p sl).pending = s.pending := by
  rw [signalReady]
  exact foldl_pending (fun s i => (postOne_pending ..).trans (drawFree_pending s)) _ s

/-- sendMirror with any post: the kernel would evaluate the bytes posted. -/
def sendMirrorBy (post : State → Nat → W32 → Nat → List Byte → State) (s : State) (p sl gen : Nat) (img : List ImgPage) : State :=
  let k := parityImage s p sl
  (img.filter (fun i => decide (k ≤ i.num))).foldl (fun s i =>
    post s p (memberId s p sl (buddyOf s sl)) (mirrorAddr s p sl gen (i.num - k)) (pageData s p (imageAddr s p sl gen i.num))) s

theorem sendMirror_eq : sendMirror = sendMirrorBy postRange := by
  delta sendMirror sendMirrorBy
  exact rfl

theorem sendMirrorBy_pending {f : State → Nat → W32 → Nat → List Byte → State} (h : ∀ s p w x a, (f s p w x a).pending = s.pending) 
    (s : State) (p sl gen : Nat) (img : List ImgPage) : (sendMirrorBy f s p sl gen img).pending = s.pending := by
  rw [sendMirrorBy]
  exact foldl_pending (fun s i => h ..) _ s

@[simp] theorem sendMirror_pending (s : State) (p sl gen : Nat) (img : List ImgPage) : (sendMirror s p sl gen img).pending = s.pending := by
  rw [sendMirror_eq, sendMirrorBy_pending postRange_pending]

@[simp] theorem startTrickle_pending (s : State) (p sl : Nat) (r : BilletRun) : (startTrickle s p sl r).pending = s.pending :=
  by simp [startTrickle]

@[simp] theorem addSeal_pending (s : State) (p sl : Nat) : (addSeal s p sl).pending = s.pending := by simp [addSeal]

@[simp] theorem putBillet_pending (a : Nat) (l : List Byte) (s : State) : (putBillet a l s).pending = s.pending := by
  induction l generalizing a s with
  | nil => rfl
  | cons b l ih => simp [putBillet, ih]

@[simp] theorem restoreEnd_pending (s : State) (sl code bits : Nat) : (restoreEnd s sl code bits).pending = s.pending :=
  by simp [restoreEnd]

/-- bringPages with any write: the kernel would evaluate the bytes written. -/
def bringPagesBy (write : State → Nat → Nat → List Byte → State) (s : State) (p sl : Nat) (x : Restore) (rebuilt : List (Nat × List Byte)) :
    State :=
  let g := x.billet % 2
  (imagePages s p sl).foldl (fun s i =>
    match x.mode with
    | 0 => s
    | 1 => write s p (imageAddr s p sl g i.num) (xorPages rebuilt i.num)
    | _ => write s p (imageAddr s p sl g i.num)
        (billetBytes s (flashSlot s sl g (imageCount s p sl) + (1 + i.num) * pageBytes) pageBytes)) s

theorem bringPages_eq : bringPages = bringPagesBy devWrite := by
  delta bringPages bringPagesBy
  exact rfl

theorem bringPagesBy_pending {f : State → Nat → Nat → List Byte → State} (hf : ∀ s p a b, (f s p a b).pending = s.pending)
    (s : State) (p sl : Nat) (x : Restore) (rebuilt : List (Nat × List Byte)) : (bringPagesBy f s p sl x rebuilt).pending = s.pending := by
  refine foldl_pending (fun s i => ?_) _ s
  split
  · rfl
  · exact hf ..
  · exact hf ..

@[simp] theorem bringPages_pending (s : State) (p sl : Nat) (x : Restore) (rebuilt : List (Nat × List Byte)) :
    (bringPages s p sl x rebuilt).pending = s.pending := by
  rw [bringPages_eq, bringPagesBy_pending devWrite_pending]

/-- The pages of an image, back in the live ones. -/
def pagesLoaded (write : State → Nat → Nat → List Byte → State) (s : State) (p sl : Nat) (x : Restore) : State :=
  (imagePages s p sl).foldl (fun s i => write s p (i.page * pageBytes) (pageData s p (imageAddr s p sl (x.billet % 2) i.num))) s

theorem pagesLoaded_pending {f : State → Nat → Nat → List Byte → State} (hf : ∀ s p a b, (f s p a b).pending = s.pending)
    (s : State) (p sl : Nat) (x : Restore) : (pagesLoaded f s p sl x).pending = s.pending := foldl_pending (fun _ _ => hf ..) _ s

@[simp] theorem loadBillet_pending (s : State) (p sl : Nat) (x : Restore) (m : List Byte) :
    (loadBillet s p sl x m).pending = s.pending := by
  simp only [loadBillet, wr64_pending, wrF_pending]
  rw [← pagesLoaded.eq_1 devWrite, pagesLoaded_pending devWrite_pending]

/-! ### Fabric time -/

@[simp] theorem setFtm_pending (s : State) (x : FabricTime) : (setFtm s x).pending = s.pending := by simp [setFtm]

@[simp] theorem countHold_pending (s : State) : (countHold s).pending = s.pending := by simp [countHold]

@[simp] theorem enterFtm_pending (s : State) (st : Nat) : (enterFtm s st).pending = s.pending := by simp [enterFtm]

@[simp] theorem dropLock_pending (s : State) : (dropLock s).pending = s.pending := by simp [dropLock]

@[simp] theorem setRoot_pending (s : State) (root up hops : Nat) : (setRoot s root up hops).pending = s.pending := by simp [setRoot]

@[simp] theorem noUpstream_pending (s : State) (far : Bool) : (noUpstream s far).pending = s.pending := by simp [noUpstream]

@[simp] theorem electRoot_pending (s : State) : (electRoot s).pending = s.pending := by
  simp only [electRoot]
  repeat' split
  all_goals simp

@[simp] theorem applyOffset_pending (s : State) (o : Int) : (applyOffset s o).pending = s.pending := by simp [applyOffset]

@[simp] theorem servo_pending (s : State) : (servo s).pending = s.pending := by simp [servo]

@[simp] theorem ftmCtlWritten_pending (s : State) (old new : Nat) : (ftmCtlWritten s old new).pending = s.pending := by simp [ftmCtlWritten]

end Sys2Proof.Machine
end

section
/-!
The queue under the functions of links, the policy, the stash and resets. For O53 and O54.
-/
namespace Sys2Proof.Machine

/-! ### Links -/

@[simp] theorem postAll_pending (l : List ReqPkt) (s : State) : (postAll l s).pending = s.pending := by
  induction l generalizing s with
  | nil => rw [postAll]
  | cons m l ih =>
    rw [postAll, ih]
    split <;> simp

@[simp] theorem drainOut_pending (s : State) : (drainOut s).pending = s.pending := by simp [drainOut]

@[simp] theorem portDown_pending (s : State) (n : Nat) : (portDown s n).pending = s.pending := by simp [portDown]

@[simp] theorem portTrain_pending (s : State) (n : Nat) : (portTrain s n).pending = s.pending := by simp [portTrain]

@[simp] theorem spareMap_pending (s : State) (n : Nat) : (spareMap s n).pending = s.pending := by simp [spareMap]

@[simp] theorem noteSwap_pending (s : State) (n lane : Nat) : (noteSwap s n lane).pending = s.pending := by simp [noteSwap]

@[simp] theorem markLane_pending (s : State) (n lane : Nat) : (markLane s n lane).pending = s.pending := by simp [markLane]

@[simp] theorem dropPacket_pending (s : State) (n : Nat) : (dropPacket s n).pending = s.pending := by simp [dropPacket]

@[simp] theorem routeReq_pending (s : State) (n vc id : Nat) (p : ReqPkt) (more : Bool) :
    (routeReq s n vc id p more).pending = s.pending := by
  simp only [routeReq]
  repeat' split
  all_goals simp

@[simp] theorem routeRsp_pending (s : State) (n vc : Nat) (p : RspPkt) : (routeRsp s n vc p).pending = s.pending := by
  simp only [routeRsp]
  repeat' split
  all_goals simp

@[simp] theorem setRxStream_pending (s : State) (n k : Nat) (p : Option ReqPkt) : (setRxStream s n k p).pending = s.pending :=
  by simp [setRxStream]

@[simp] theorem takePacket_pending (n : Nat) (s : State) (p : LinkPkt) : (takePacket n s p).pending = s.pending := by
  simp only [takePacket]
  repeat' split
  all_goals simp

@[simp] theorem takeNak_pending (s : State) (n : Nat) : (takeNak s n).pending = s.pending := by simp [takeNak]

@[simp] theorem failFlit_pending (s : State) (n : Nat) : (failFlit s n).pending = s.pending := by simp [failFlit]

@[simp] theorem injectLane_pending (s : State) (n : Nat) : (injectLane s n).pending = s.pending := by
  have h := injectEvent_pending s (lnkPg n) [5]
  rw [injectLane]
  split
  · exact (injected_pending (fun s => markLane_pending ..) _).trans (by simp_all)
  · simp_all

/-! ### The security policy -/

@[simp] theorem spPut_pending (s : State) (offs : List Nat) (v : Nat) : (spPut s offs v).pending = s.pending := by simp [spPut]

@[simp] theorem spPutAll_pending (gs : List (List Nat)) (vs : List Nat) (s : State) : (spPutAll gs vs s).pending = s.pending := by
  induction gs generalizing vs s with
  | nil => rw [spPutAll]
           simp
  | cons g gs ih => cases vs <;> simp [spPutAll, ih]

@[simp] theorem putTable_pending (words : List Nat) (s : State) : (putTable words s).pending = s.pending := by simp [putTable]

@[simp] theorem putClient_pending (v : List Byte) (s : State) (k : Nat) : (putClient v s k).pending = s.pending := by simp [putClient]

@[simp] theorem putClients_pending (v : List Byte) (s : State) : (putClients v s).pending = s.pending := by simp [putClients]

@[simp] theorem applyNow_pending (s : State) (b : List Byte) : (applyNow s b).pending = s.pending := by
  simp only [applyNow]
  repeat' split
  all_goals simp

@[simp] theorem applyLater_pending (s : State) (b : List Byte) : (applyLater s b).pending = s.pending := by
  simp only [applyLater]
  repeat' split
  all_goals simp

@[simp] theorem applyPolicy_pending (s : State) (b : List Byte) : (applyPolicy s b).pending = s.pending := by simp [applyPolicy]

@[simp] theorem applyPending_pending (s : State) : (applyPending s).pending = s.pending := by
  simp only [applyPending]
  repeat' split
  all_goals simp

/-! ### The stash -/

@[simp] theorem setLane_pending (s : State) (sl l : Nat) (x : SthLane) : (setLane s sl l x).pending = s.pending := by simp [setLane]

@[simp] theorem ringStore_pending (s : State) (p base size o : Nat) (bs : List Byte) :
    (ringStore s p base size o bs).pending = s.pending := by
  have fold (cs : List (Nat × Nat)) (x : State × List Byte) :
      (cs.foldl (fun (a : State × List Byte) r =>
        (chargeRange (devWrite a.1 p r.1 (a.2.take r.2)) p r.1 r.2 1, a.2.drop r.2)) x).1.pending = x.1.pending := by
    induction cs generalizing x with
    | nil => rfl
    | cons c cs ih => exact (ih _).trans (by simp)
  exact fold _ (s, bs)

@[simp] theorem recEcc_pending (s : State) (p sl l : Nat) (r : SthRec) (o n : Nat) (e : Ecc) :
    (recEcc s p sl l r o n e).2.pending = s.pending := by
  have fold (cs : List (Nat × Nat)) (x : Bool × State) :
      (cs.foldl (fun (x : Bool × State) c => (x.1 || (unitErr x.2 p c.1 c.2 e).1, (unitErr x.2 p c.1 c.2 e).2)) x).2.pending =
        x.2.pending := by
    induction cs generalizing x with
    | nil => rfl
    | cons c cs ih => exact (ih _).trans (unitErr_pending ..)
  exact fold _ (false, s)

@[simp] theorem recTraffic_pending (s : State) (p sl l : Nat) (r : SthRec) (o n : Nat) : (recTraffic s p sl l r o n).pending = s.pending :=
  by simp [recTraffic]

@[simp] theorem recStore_pending (s : State) (p sl l : Nat) (r : SthRec) (o : Nat) (bs : List Byte) :
    (recStore s p sl l r o bs).pending = s.pending :=
  by simp [recStore]

@[simp] theorem putHeader_pending (s : State) (p sl l : Nat) (r : SthRec) : (putHeader s p sl l r).pending = s.pending :=
  by simp [putHeader]

@[simp] theorem putRec_pending (s : State) (sl l : Nat) (r : SthRec) : (putRec s sl l r).pending = s.pending := by simp [putRec]

@[simp] theorem unblockPart_pending (s : State) (q : SthPart) : (unblockPart s q).pending = s.pending := by simp [unblockPart]

@[simp] theorem sthDone_pending (s : State) (q : SthPart) (code : Nat) : (sthDone s q code).pending = s.pending := by simp [sthDone]

@[simp] theorem sthFault_pending (s : State) (sl : Nat) (q : SthPart) (code : Nat) : (sthFault s sl q code).pending = s.pending :=
  by simp [sthFault]

@[simp] theorem sthPeak_pending (s : State) (sl l : Nat) : (sthPeak s sl l).pending = s.pending := by simp [sthPeak]

@[simp] theorem landPart_pending (s : State) (p sl l : Nat) (r : SthRec) (q : SthPart) (code : Nat) :
    (landPart s p sl l r q code).pending = s.pending := by
  simp only [landPart]
  split <;> simp

@[simp] theorem landParts_pending (p sl l code : Nat) (qs : List SthPart) (s : State) :
    (landParts p sl l code qs s).pending = s.pending := by
  induction qs generalizing s with
  | nil => rw [landParts]
  | cons q qs ih =>
    rw [landParts]
    split
    · split <;> simp [ih]
    · rfl

@[simp] theorem closeOpen_pending (s : State) (sl l : Nat) : (closeOpen s sl l).pending = s.pending := by
  simp only [closeOpen]
  repeat' split
  all_goals simp

@[simp] theorem answerParts_pending (code : Nat) (qs : List SthPart) (s : State) : (answerParts code qs s).pending = s.pending := by
  induction qs generalizing s with
  | nil => rfl
  | cons q qs ih => simp [answerParts, ih]

@[simp] theorem settleParts_pending (s : State) (p sl l : Nat) : (settleParts s p sl l).pending = s.pending := by
  simp only [settleParts]
  repeat' split
  all_goals simp

@[simp] theorem sthOverflow_pending (s : State) (p sl l seg : Nat) : (sthOverflow s p sl l seg).pending = s.pending := by simp [sthOverflow]

@[simp] theorem openRecord_pending (s : State) (p sl l : Nat) (g : SthOpen) (fmt pbytes contrib : Nat) :
    (openRecord s p sl l g fmt pbytes contrib).pending = s.pending :=
  (sthPeak_pending ..).trans ((recStore_pending ..).trans (setLane_pending ..))

@[simp] theorem blockParts_pending (s : State) (sl l : Nat) : (blockParts s sl l).pending = s.pending := by
  rw [blockParts]
  dsimp only
  split
  · rfl
  · rw [foldl_pending fun s q => ?_, setLane_pending]
    split <;> simp [blockParts.blockThread']

@[simp] theorem decideRecord_pending (s : State) (p sl l : Nat) (g : SthOpen) (fmt flags pbytes contrib : Nat) :
    (decideRecord s p sl l g fmt flags pbytes contrib).pending = s.pending := by
  simp only [decideRecord]
  repeat' split
  all_goals simp

@[simp] theorem admitParts_pending (sl contrib pbytes : Nat) (qs : List SthPart) (got : List Nat) (ok : List SthPart) (s : State) :
    (admitParts sl contrib pbytes qs got ok s).2.2.pending = s.pending := by
  induction qs generalizing got ok s with
  | nil => rfl
  | cons q qs ih =>
    rw [admitParts]
    split <;> simp [ih]

@[simp] theorem pushPart_pending (s : State) (p sl l seg mb step : Nat) (q : SthPart) :
    (pushPart s p sl l seg mb step q).pending = s.pending := by
  simp only [pushPart]
  repeat' split
  all_goals simp

theorem sthAccept_pending {eff : State → State} (h : ∀ s, (eff s).pending = s.pending) (s : State) (sl l : Nat) (q : SthPart)
    (passes : Bool) : 
    (sthAccept s sl l q passes eff).pending = s.pending := by
  simp only [sthAccept]
  repeat' split
  all_goals simp [h]

@[simp] theorem spillOne_pending (p sl l : Nat) (s : State) : (spillOne p sl l s).pending = s.pending := by
  simp only [spillOne]
  split <;> simp

@[simp] theorem spillMany_pending (p sl l n : Nat) (s : State) : (spillMany p sl l n s).pending = s.pending := by
  induction n generalizing s with
  | zero => rfl
  | succ n ih => simp [spillMany, ih]

@[simp] theorem freeParts_pending (cnt : Nat) (qs : List SthPart) (s : State) : (freeParts cnt qs s).pending = s.pending := by
  induction qs generalizing s with
  | nil => rfl
  | cons q qs ih => simp [freeParts, ih]

@[simp] theorem startRefill_pending (s : State) (sl l : Nat) : (startRefill s sl l).pending = s.pending := by
  simp only [startRefill]
  split <;> simp

@[simp] theorem popDone_pending (s : State) (sl l : Nat) (o : SthPop) (code : Nat) : (popDone s sl l o code).pending = s.pending :=
  by simp [popDone]

@[simp] theorem popFault_pending (s : State) (sl l : Nat) (o : SthPop) (code : Nat) : (popFault s sl l o code).pending = s.pending :=
  by simp [popFault]

@[simp] theorem keepPop_pending (s : State) (sl l : Nat) (o : SthPop) : (keepPop s sl l o).pending = s.pending := by simp [keepPop]

@[simp] theorem countPop_pending (s : State) (sl l : Nat) (r : SthRec) (idx : Nat) : (countPop s sl l r idx).pending = s.pending :=
  by simp [countPop]

@[simp] theorem deliverPop_pending (s : State) (p sl l : Nat) (o : SthPop) (r : SthRec) (code : Nat) :
    (deliverPop s p sl l o r code).pending = s.pending := by
  simp only [deliverPop]
  repeat' split
  all_goals simp

@[simp] theorem blockPop_pending (s : State) (sl l : Nat) (o : SthPop) : (blockPop s sl l o).pending = s.pending := by simp [blockPop]

@[simp] theorem resumePop_pending (s : State) (o : SthPop) : (resumePop s o).2.pending = s.pending := by simp [resumePop]

@[simp] theorem comparePop_pending (s : State) (p sl l : Nat) (o : SthPop) : (comparePop s p sl l o).pending = s.pending := by
  simp only [comparePop]
  split
  · simp
  · next r _ =>
    have hread : (if (laneOf s sl l).recs.isEmpty then (false, s)
        else recEcc (if r.valid then recTraffic s p sl l r 0 64 else s) p sl l r 0 64 o.part.ecc).2.pending = s.pending := by
      repeat' split
      all_goals simp
    generalize (if (laneOf s sl l).recs.isEmpty then _ else _ : Bool × State) = e at hread ⊢
    have hs : (if r.valid || e.1 then e.2 else s).pending = s.pending := by split <;> simp [hread]
    generalize (if r.valid || e.1 then e.2 else s) = u at hs ⊢
    repeat' split
    all_goals simp [hs]

@[simp] theorem retryPop_pending (s : State) (p sl l : Nat) (o : SthPop) : (retryPop s p sl l o).pending = s.pending := by
  simp only [retryPop]
  repeat' split
  all_goals simp

@[simp] theorem retryPops_pending (p sl l : Nat) (os : List SthPop) (s : State) : (retryPops p sl l os s).pending = s.pending := by
  induction os generalizing s with
  | nil => rfl
  | cons o os ih => simp [retryPops, ih]

@[simp] theorem refillRecord_pending (s : State) (p sl l : Nat) (r : SthRec) : (refillRecord s p sl l r).pending = s.pending :=
  by simp [refillRecord]

@[simp] theorem clearLane_pending (s : State) (sl l : Nat) : (clearLane s sl l).pending = s.pending := by simp [clearLane]

@[simp] theorem clearStash_pending (s : State) (sl : Nat) : (clearStash s sl).pending = s.pending := by simp [clearStash]

/-! ### Resets of a tile -/

@[simp] theorem resetThreads_pending (s : State) (t : Nat) : (resetThreads s t).pending = s.pending := by simp [resetThreads]

@[simp] theorem resetScratch_pending (s : State) (t : Nat) : (resetScratch s t).pending = s.pending := by simp [resetScratch]

@[simp] theorem resetAnvils_pending (s : State) (t : Nat) : (resetAnvils s t).pending = s.pending := by simp [resetAnvils]

@[simp] theorem dropRings_pending (ds : List BDesc) (s : State) : (dropRings ds s).pending = s.pending := by
  induction ds generalizing s with
  | nil => rw [dropRings]
  | cons d ds ih =>
    rw [dropRings, ih]
    split <;> simp

@[simp] theorem resetTransfers_pending (s : State) (t : Nat) : (resetTransfers s t).pending = s.pending := by simp [resetTransfers]

@[simp] theorem resetTileRegs_pending (s : State) (t : Nat) : (resetTileRegs s t).pending = s.pending := by simp [resetTileRegs]

@[simp] theorem beginReset_pending (s : State) (t : Nat) (test : Bool) : (beginReset s t test).pending = s.pending := by simp [beginReset]

@[simp] theorem failTile_pending (s : State) (t : Nat) : (failTile s t).pending = s.pending := (keepsLow_failTile s t).pending

@[simp] theorem takeMap_pending (s : State) (t : Nat) (pg : Nat) : (takeMap s t pg).pending = s.pending := by simp [takeMap]

@[simp] theorem endReset_pending (s : State) (t : Nat) : (endReset s t).pending = s.pending := by
  simp only [endReset]
  split <;> simp

@[simp] theorem setRoute_pending (s : State) (l t : Nat) : (setRoute s l t).pending = s.pending := by simp [setRoute]

end Sys2Proof.Machine
end

section
/-!
The queue under the functions of rings, partitions, SP and start-up. For O53 and O54.
-/
namespace Sys2Proof.Machine

/-! ### Command rings -/

@[simp] theorem setRing_pending (s : State) (sl n : Nat) (x : Ring) : (setRing s sl n x).pending = s.pending := by simp [setRing]

@[simp] theorem hostPut_pending (a : Nat) (l : List Byte) (s : State) : (hostPut a l s).pending = s.pending := by
  induction l generalizing a s with
  | nil => rfl
  | cons b l ih => simp [hostPut, ih]

@[simp] theorem writeHead_pending (s : State) (sl n : Nat) : (writeHead s sl n).pending = s.pending := by simp [writeHead]

@[simp] theorem issueBursts_pending (fuel : Nat) (s : State) (sl n : Nat) : (issueBursts fuel s sl n).pending = s.pending := by
  induction fuel generalizing s with
  | zero => rfl
  | succ fuel ih =>
    rw [issueBursts]
    split
    · rfl
    · simp [ih]

@[simp] theorem fetchOn_pending (s : State) (sl n : Nat) : (fetchOn s sl n).pending = s.pending := by simp [fetchOn]

@[simp] theorem stopRing_pending (s : State) (sl n : Nat) : (stopRing s sl n).pending = s.pending := by simp [stopRing]

@[simp] theorem lastFail_pending (s : State) (sl n code : Nat) : (lastFail s sl n code).pending = s.pending := by simp [lastFail]

@[simp] theorem checkHead_pending (s : State) (sl n : Nat) : (checkHead s sl n).pending = s.pending := by
  simp only [checkHead]
  split <;> simp

@[simp] theorem completeEntry_pending (s : State) (sl n : Nat) (e : RingEntry) (code : Nat) :
    (completeEntry s sl n e code).pending = s.pending :=
  by simp [completeEntry]

@[simp] theorem settleXfer_pending (s : State) (sl n : Nat) : (settleXfer s sl n).pending = s.pending := by
  simp only [settleXfer]
  split <;> simp

@[simp] theorem beginEntry_pending (s : State) (sl n : Nat) : (beginEntry s sl n).pending = s.pending := by simp [beginEntry]

@[simp] theorem startOne_pending (p : Nat) (e : RingEntry) (r : State × Bool) (i : Nat) : (startOne p e r i).1.pending = r.1.pending := by
  rw [startOne]
  split <;> simp

@[simp] theorem disableRing_pending (s : State) (sl n : Nat) : (disableRing s sl n).pending = s.pending := by simp [disableRing]

@[simp] theorem enableRing_pending (s : State) (sl n : Nat) : (enableRing s sl n).pending = s.pending := by simp [enableRing]

@[simp] theorem resetRings_pending (s : State) (sl : Nat) : (resetRings s sl).pending = s.pending := by simp [resetRings]

/-! ### Partitions -/

@[simp] theorem setClientRun_pending (s : State) (k n : Nat) : (setClientRun s k n).pending = s.pending := by simp [setClientRun]

@[simp] theorem setClientStarted_pending (s : State) (k n : Nat) : (setClientStarted s k n).pending = s.pending :=
  by simp [setClientStarted]

@[simp] theorem setPreqBusy_pending (s : State) (b : Bool) : (setPreqBusy s b).pending = s.pending := by simp [setPreqBusy]

@[simp] theorem endRequestWith_pending (s : State) (code : Nat) : (endRequestWith s code).pending = s.pending := by simp [endRequestWith]

@[simp] theorem setPartState_pending (s : State) (n st : Nat) : (setPartState s n st).pending = s.pending := by simp [setPartState]

@[simp] theorem zeroSlice_pending (s : State) (sl : Nat) : (zeroSlice s sl).pending = s.pending := by simp [zeroSlice]

@[simp] theorem configureSlice_pending (q : PartReq) (s : State) (sl : Nat) : (configureSlice q s sl).pending = s.pending :=
  by simp [configureSlice]

@[simp] theorem beginCreate_pending (s : State) (q : PartReq) : (beginCreate s q).pending = s.pending := by
  simp only [beginCreate]
  split <;> simp

@[simp] theorem clearPages_pending (s : State) (n : Nat) : (clearPages s n).pending = s.pending := by simp [clearPages]

@[simp] theorem endCreate_pending (s : State) (n : Nat) : (endCreate s n).pending = s.pending := by simp [endCreate]

@[simp] theorem beginDestroy_pending (s : State) (n : Nat) : (beginDestroy s n).pending = s.pending := by simp [beginDestroy]

@[simp] theorem trimPages_pending (s : State) (n : Nat) : (trimPages s n).pending = s.pending := by simp [trimPages]

@[simp] theorem freePartition_pending (s : State) (n : Nat) : (freePartition s n).pending = s.pending := by
  simp only [freePartition]
  split <;> simp

@[simp] theorem endDestroy_pending (s : State) (n : Nat) : (endDestroy s n).pending = s.pending := by simp [endDestroy]

@[simp] theorem resetQuench_pending (s : State) (n sl : Nat) : (resetQuench s n sl).pending = s.pending := by simp [resetQuench]

@[simp] theorem beginPartReset_pending (s : State) (n : Nat) : (beginPartReset s n).pending = s.pending := by simp [beginPartReset]

@[simp] theorem endPartReset_pending (s : State) (n : Nat) : (endPartReset s n).pending = s.pending := by simp [endPartReset]

@[simp] theorem runRequest_pending (s : State) (q : PartReq) : (runRequest s q).pending = s.pending := by
  simp only [runRequest]
  repeat' split
  all_goals simp

@[simp] theorem runHeld_pending (s : State) : (runHeld s).pending = s.pending := by
  simp only [runHeld]
  split <;> simp

/-! ### SP and its firmware -/

@[simp] theorem useComps_pending (s : State) (l : List FwComp) : (useComps s l).pending = s.pending := by simp [useComps]

@[simp] theorem setFwStatus_pending (s : State) (code : Nat) : (setFwStatus s code).pending = s.pending := by simp [setFwStatus]

@[simp] theorem beginSpRestart_pending (s : State) : (beginSpRestart s).pending = s.pending := by simp [beginSpRestart]

@[simp] theorem revertWith_pending (s : State) (keep : List Nat) : (revertWith s keep).pending = s.pending := by
  simp only [revertWith]
  split <;> simp

@[simp] theorem revertNow_pending (s : State) : (revertNow s).pending = s.pending := by
  simp only [revertNow]
  split <;> simp

@[simp] theorem trialAttempt_pending (s : State) (keep : List Nat) : (trialAttempt s keep).pending = s.pending := by
  simp only [trialAttempt]
  split <;> simp

@[simp] theorem finishCommit_pending (s : State) : (finishCommit s).pending = s.pending := by simp [finishCommit]

@[simp] theorem spStart_pending (s : State) : (spStart s).pending = s.pending := by simp [spStart]

@[simp] theorem mgtReply_pending (s : State) (code : Nat) (data : List Byte) : (mgtReply s code data).pending = s.pending :=
  by simp [mgtReply]

@[simp] theorem mgtError_pending (s : State) : (mgtError s).pending = s.pending := by simp [mgtError]

theorem mgtRequest_pending {f : State → State} (h : ∀ s, (f s).pending = s.pending) (s : State) : (mgtRequest s f).pending = s.pending := by
  simp only [mgtRequest]
  repeat' split
  all_goals simp [h]

/-! ### Start-up -/

@[simp] theorem loseUnits_pending (s : State) : (loseUnits s).pending = s.pending := by simp [loseUnits]

@[simp] theorem loseModule_pending (cold : Bool) (s : State) : (loseModule cold s).pending = s.pending := by simp [loseModule]

@[simp] theorem bumpModule_pending (s : State) : (bumpModule s).pending = s.pending := by simp [bumpModule]

@[simp] theorem endPartitions_pending (s : State) : (endPartitions s).pending = s.pending := by simp [endPartitions]

@[simp] theorem clearAllCounters_pending (s : State) : (clearAllCounters s).pending = s.pending := by simp [clearAllCounters]

@[simp] theorem setBoot_pending (s : State) (b : Boot) : (setBoot s b).pending = s.pending := by simp [setBoot]

@[simp] theorem setStage_pending (s : State) (n : Nat) : (setStage s n).pending = s.pending := by simp [setStage]

@[simp] theorem stageActs_pending (s : State) (x : Stage) : (stageActs s x).pending = s.pending := (fabric_stageActs s x).pending

@[simp] theorem beginStages_pending (s : State) : (beginStages s).pending = s.pending := by simp [beginStages]

@[simp] theorem stageTime_pending (s : State) (x : Stage) : (stageTime s x).pending = s.pending := by simp [stageTime]

@[simp] theorem markBad_pending (s : State) : (markBad s).pending = s.pending := by simp [markBad]

@[simp] theorem failBoot_pending (s : State) : (failBoot s).pending = s.pending := by simp [failBoot]

@[simp] theorem assignHalf_pending (s : State) (sl : Nat) : (assignHalf s sl).pending = s.pending := by simp [assignHalf]

@[simp] theorem dieCounts_pending (s : State) (d : Nat) : (dieCounts s d).pending = s.pending := by simp [dieCounts]

@[simp] theorem mapTiles_pending (s : State) (fails : List Nat) : (mapTiles s fails).pending = s.pending :=
  (keepsBoot_mapTiles s fails).pending

@[simp] theorem readyCounts_pending (s : State) : (readyCounts s).pending = s.pending := by simp [readyCounts]

@[simp] theorem firstRecs_pending (s : State) : (firstRecs s).pending = s.pending := by simp [firstRecs]

@[simp] theorem setReady_pending (s : State) : (setReady s).pending = s.pending := by simp [setReady]

@[simp] theorem bootSlot_pending (s : State) (b : Bool) : (bootSlot s b).pending = s.pending := by simp [bootSlot]

@[simp] theorem loadConfig_pending (s : State) : (loadConfig s).pending = s.pending := by
  simp only [loadConfig]
  split <;> simp

end Sys2Proof.Machine
end

section
/-!
The queue under the functions of start-up, power, calibration, Hearth, security and the window. For O53 and O54.
-/
namespace Sys2Proof.Machine

/-! ### Start-up -/

@[simp] theorem uciState_pending (s : State) (d n : Nat) (st : Nat) : (uciState s d n st).pending = s.pending := by simp [uciState]

@[simp] theorem trainPairs_pending (s : State) (fails : List Nat) : (trainPairs s fails).pending = s.pending :=
  (keepsBoot_trainPairs s fails).pending

@[simp] theorem trainStacks_pending (s : State) (fails : List Nat) : (trainStacks s fails).pending = s.pending := by simp [trainStacks]

@[simp] theorem loadMap_pending (s : State) (bad : Bool) : (loadMap s bad).pending = s.pending := by simp [loadMap]

@[simp] theorem stageEffect_pending (s : State) (r : StageReport) : (stageEffect s r).pending = s.pending := by
  simp only [stageEffect]
  split <;> simp

theorem stageFails_pending {s u : State} {r : StageReport} (h : stageFails s r = some u) : u.pending = s.pending := by
  simp only [stageFails] at h
  repeat' split at h
  all_goals simp at h
  all_goals simp [← h]

@[simp] theorem endStage_pending (s : State) (x : Stage) : (endStage s x).pending = s.pending := by
  simp only [endStage]
  split <;> simp

@[simp] theorem startStages_pending (s : State) (warm : Bool) (done : List Stage) : (startStages s warm done).pending = s.pending :=
  by simp [startStages]

@[simp] theorem beginCold_pending (s : State) : (beginCold s).pending = s.pending := by simp [beginCold]

@[simp] theorem loseWarm_pending (s : State) : (loseWarm s).pending = s.pending := by simp [loseWarm]

@[simp] theorem moduleResetNow_pending (s : State) : (moduleResetNow s).pending = s.pending := by simp [moduleResetNow]

@[simp] theorem requestReset_pending (s : State) : (requestReset s).pending = s.pending := by simp [requestReset]

@[simp] theorem closeByHoldup_pending (s : State) : (closeByHoldup s).pending = s.pending := by simp [closeByHoldup]

@[simp] theorem maybeTear_pending (s : State) : (maybeTear s).pending = s.pending := by simp [maybeTear]

@[simp] theorem analogTrip_pending (s : State) (sub : Nat) (keepsOff : Bool) : (analogTrip s sub keepsOff).pending = s.pending :=
  by simp [analogTrip]

/-! ### The power train -/

@[simp] theorem setAgent_pending (s : State) (d : Nat) (a : DieAgent) : (setAgent s d a).pending = s.pending := by simp [setAgent]

@[simp] theorem beginMove_pending (s : State) (d goalOp : Nat) : (beginMove s d goalOp).pending = s.pending := by simp [beginMove]

@[simp] theorem applyOp_pending (s : State) (d : Nat) : (applyOp s d).pending = s.pending := by
  simp only [applyOp]
  split <;> simp

@[simp] theorem showDuty_pending (s : State) (d : Nat) : (showDuty s d).pending = s.pending := by simp [showDuty]

/-! ### Calibration windows -/

@[simp] theorem checkRec_pending (temps : List Nat) (s : State) (k : Nat) : (checkRec temps s k).pending = s.pending := by
  simp only [checkRec]
  split <;> simp

@[simp] theorem setPaused_pending (s : State) (l : List Nat) (b : Bool) : (setPaused s l b).pending = s.pending := by simp [setPaused]

@[simp] theorem startLanes_pending (s : State) (recs : List Nat) : (startLanes s recs).pending = s.pending := by simp [startLanes]

@[simp] theorem ageTrim_pending (s : State) (d excess : Nat) : (ageTrim s d excess).pending = s.pending := by simp [ageTrim]

@[simp] theorem takeSet_pending (s : State) (temp : Nat) : (takeSet s temp).pending = s.pending := by simp [takeSet]

@[simp] theorem renew_pending (temps : List Nat) (s : State) (k : Nat) : (renew temps s k).pending = s.pending := by simp [renew]

@[simp] theorem resumeReset_pending (s : State) (k : Nat) : (resumeReset s k).pending = s.pending := by simp [resumeReset]

/-! ### Hearth -/

@[simp] theorem floorCheck_pending (s : State) : (floorCheck s).pending = s.pending := by simp [floorCheck]

@[simp] theorem setCap_pending (s : State) (w : Nat) : (setCap s w).pending = s.pending := by simp [setCap]

@[simp] theorem hintCheck_pending (s : State) (d : Nat) : (hintCheck s d).pending = s.pending := by
  simp only [hintCheck]
  split <;> simp

@[simp] theorem hintRises_pending (s : State) (d : Nat) (est : Frac) : (hintRises s d est).pending = s.pending := by simp [hintRises]

@[simp] theorem failPhase_pending (s : State) (r : Nat) : (failPhase s r).pending = s.pending := by simp [failPhase]

@[simp] theorem injectPhase_pending (s : State) : (injectPhase s).pending = s.pending := by
  have h := injectEvent_pending s hrtPg [6]
  rw [injectPhase]
  split
  · exact (injected_pending (fun s => failPhase_pending ..) _).trans (by simp_all)
  · simp_all

@[simp] theorem setSetting_pending (s : State) (dom n : Nat) : (setSetting s dom n).pending = s.pending := by simp [setSetting]

@[simp] theorem actuate_pending (s : State) (x : PowerSample) (p : Plan) : (actuate s x p).pending = s.pending := by
  simp only [actuate]
  repeat' split
  all_goals simp

@[simp] theorem showPeriod_pending (s : State) (est : Frac) (p : Plan) (amps : List Frac) : (showPeriod s est p amps).pending = s.pending :=
  by simp [showPeriod]

@[simp] theorem noteDrift_pending (s : State) (ratio : Frac) : (noteDrift s ratio).pending = s.pending := by simp [noteDrift]

@[simp] theorem correct_pending (s : State) (measW : Nat) : (correct s measW).pending = s.pending := by simp [correct]

@[simp] theorem floorUpdate_pending (s : State) (measW : Nat) : (floorUpdate s measW).pending = s.pending := by simp [floorUpdate]

@[simp] theorem tileReadings_pending (s : State) (d : Nat) (temps : List Nat) : (tileReadings s d temps).pending = s.pending :=
  by simp [tileReadings]

@[simp] theorem countTherm_pending (s : State) : (countTherm s).pending = s.pending := by simp [countTherm]

@[simp] theorem coolant_pending (s : State) (inlet outlet : Nat) : (coolant s inlet outlet).pending = s.pending := by simp [coolant]

@[simp] theorem heatStep_pending (s : State) (d tj : Nat) : (heatStep s d tj).pending = s.pending := by simp [heatStep]

/-! ### Updates and attestation -/

@[simp] theorem runAllHeld_pending (s : State) : (runAllHeld s).pending = s.pending := by
  simp only [runAllHeld]
  repeat' split
  all_goals simp

@[simp] theorem refuseUpdate_pending (s : State) (code : Nat) : (refuseUpdate s code).pending = s.pending := by simp [refuseUpdate]

@[simp] theorem activate_pending (s : State) (b : List Byte) : (activate s b).pending = s.pending := by simp [activate]

@[simp] theorem takeBundle_pending (s : State) (b : List Byte) : (takeBundle s b).pending = s.pending := by
  simp only [takeBundle]
  repeat' split
  all_goals simp

@[simp] theorem commitTrial_pending (s : State) (t : Trial) : (commitTrial s t).pending = s.pending := by simp [commitTrial]

@[simp] theorem attWrite_pending (s : State) (b : List Byte) : (attWrite s b).pending = s.pending := by simp [attWrite]

/-! ### Management -/

@[simp] theorem setEnrolled_pending (s : State) : (setEnrolled s).pending = s.pending := by simp [setEnrolled]

/-! ### Effects of a register write -/

@[simp] theorem seqEnWritten_pending (s : State) (sl : Nat) (old new : Nat) : (seqEnWritten s sl old new).pending = s.pending :=
  by simp [seqEnWritten]

/-- bltEnSet with any write of the unit's state: the kernel would evaluate the state written. -/
def bltEnSetBy (put : State → Nat → Billet → State) (s : State) (sl : Nat) : State :=
  let s := put (wr64 s (bltPg sl + 0x148) 0) sl { bltOf s sl with first := true }
  match partOfSlice s sl with
  | some n => { s with mem := { s.mem with dirty := cDrop s.mem.dirty (fun k => k / 2 ^ 27 == n) } }
  | none => s

theorem bltEnSet_eq : bltEnSet = bltEnSetBy setBlt := by
  delta bltEnSet bltEnSetBy
  exact rfl

theorem bltEnSetBy_pending {f : State → Nat → Billet → State} (hf : ∀ s sl x, (f s sl x).pending = s.pending) (s : State) (sl : Nat) :
    (bltEnSetBy f s sl).pending = s.pending := by
  simp only [bltEnSetBy]
  split <;> simp [hf]

@[simp] theorem bltEnSet_pending (s : State) (sl : Nat) : (bltEnSet s sl).pending = s.pending := by
  rw [bltEnSet_eq, bltEnSetBy_pending setBlt_pending]

@[simp] theorem afterWrite_pending (s : State) (p : PageRef) (o old new : Nat) : (afterWrite s p o old new).pending = s.pending := by
  simp only [afterWrite]
  split <;> simp

@[simp] theorem writePage_pending (s : State) (p : PageRef) (off v : Nat) (who : Requester) :
    (writePage s p off v who).pending = s.pending :=
  by simp [writePage]

/-! ### The debug page -/

@[simp] theorem debugEcc_pending (s : State) (t a n : Nat) (e : Ecc) : (debugEcc s t a n e).2.pending = s.pending := by simp [debugEcc]

@[simp] theorem rawPut_pending (t a : Nat) (l : List Byte) (s : State) : (rawPut t a l s).pending = s.pending := by
  induction l generalizing a s with
  | nil => rfl
  | cons b l ih => simp [rawPut, ih]

/-! ### Reads -/

@[simp] theorem latch_pending (s : State) (off v : Nat) : (latch s off v).pending = s.pending := by simp [latch]

@[simp] theorem answer_pending (s : State) (v : W32) : (answer s v).pending = s.pending := by simp [answer]

@[simp] theorem readReg_pending (s : State) (off : Nat) : (readReg s off).pending = s.pending := by
  simp only [readReg]
  split <;> simp

/-! ### Slot tags -/

@[simp] theorem retagSlots_pending (fn t : Nat) (k : Option (Fin 4)) (l : List Nat) (s : State) :
    (retagSlots fn t k l s).pending = s.pending := by
  induction l generalizing s with
  | nil => rfl
  | cons x l ih =>
    rw [retagSlots, ih]
    repeat' split
    all_goals simp

end Sys2Proof.Machine
end

section
/-!
What a command answers, where it is well formed: it goes on and keeps the queue. For O53 and O54.
-/
namespace Sys2Proof.Machine

/-- A command's answer, where ok says that it is well formed: it goes on with the queue as it was, or is refused and not well formed. -/
def Answers (ok : Bool) (s : State) : Out → Prop
  | .next t => t.pending = s.pending
  | .refused _ => ok = false
  | .fault _ => False

section
variable {ok : Bool} {s t : State} {a b : Out} {r : Refusal} {c : Prop} [Decidable c]

@[simp] theorem answers_next : Answers ok s (.next t) ↔ t.pending = s.pending := .rfl

@[simp] theorem answers_refused : Answers ok s (.refused r) ↔ ok = false := .rfl

@[simp] theorem answers_ite : Answers ok s (if c then a else b) ↔ (c → Answers ok s a) ∧ (¬c → Answers ok s b) := by
  by_cases h : c <;> simp [h]

/-- A well formed command of some is one of the rest. -/
theorem Answers.mono {ok' : Bool} (ha : Answers ok s a) (h : ok' = true → ok = true) : Answers ok' s a := by
  cases a with
  | next t => exact ha
  | refused r => exact Bool.eq_false_iff.2 fun hok => by simp_all
  | fault f => exact ha

/-- A refusal that only a malformed command meets. -/
theorem Answers.guard (hc : c → ok = false) (ha : Answers ok s a) : Answers ok s (if c then .refused r else a) :=
  answers_ite.2 ⟨hc, fun _ => ha⟩

end

/-! ### Steps that give a state with their result -/

theorem pending_of_injectEvent {s u : State} {pg : Nat} {l : List Nat} {x : Option Nat} (h : injectEvent s pg l = (x, u)) :
    u.pending = s.pending := by simpa [h] using injectEvent_pending s pg l

theorem pending_of_hbmEcc {s u : State} {ctl : Nat} {e x : Ecc} (h : hbmEcc s ctl e = (x, u)) : u.pending = s.pending := by
  simpa [h] using hbmEcc_pending s ctl e

/-- The state a promotion leaves. -/
def Promo.after : Promo → State
  | .ready s => s
  | .waits s => s
  | .full s => s

theorem promote_pending (s : State) (p a : Nat) (plain : Bool) : (promote s p a plain).after.pending = s.pending := by
  generalize hr : promote s p a plain = r
  simp only [promote] at hr
  repeat' split at hr
  case h_1 h => simp [← hr, Promo.after, startMigration_pending h]
  all_goals simp [← hr, Promo.after]

theorem pending_of_promote {s : State} {p a : Nat} {plain : Bool} {r : Promo} (h : promote s p a plain = r) : r.after.pending = s.pending :=
  h ▸ promote_pending s p a plain

theorem pending_of_deliver {s : State} {p : Nat} {opc : ReqOpc} {a n etype x : Nat} {step : Option W32} {r : Delivery}
    (h : deliver s p opc a n etype x step = r) : r.after.pending = s.pending := h ▸ deliver_pending s p opc a n etype x step

/-! ### Writes that are not a command's -/

theorem writesBit_eq_false {r : RegWrite} {off n : Nat} (h : r.off.toNat ≠ off ∨ r.val.toNat.testBit n = false) :
    writesBit r off n = false := by
  simpa [writesBit, or_iff_not_imp_left] using h

theorem writesPage_eq_false_of_none {r : RegWrite} {k : PageKind} {o : Nat} (h : pageAt r.off.toNat = none) : writesPage r k o = false := by
  simp [writesPage, h]

theorem writesPage_eq_false {r : RegWrite} {k : PageKind} {o : Nat} {p : PageRef} (h : pageAt r.off.toNat = some p)
    (hp : p.kind ≠ k ∨ r.off.toNat % 4096 ≠ o) : writesPage r k o = false := by
  simpa [writesPage, h, or_iff_not_imp_left] using hp

theorem writesRing_eq_false {s : State} {r : RegWrite} (h : ringCtl s r.off.toNat = none) : writesRing r = false := by
  simp only [ringCtl] at h
  rw [writesRing, List.any_eq_false]
  intro n hn
  rw [writesPage]
  split at h
  case h_1 p hp =>
    simp at hn
    grind
  case h_2 hp => simp

/-! ### Commands with a common form -/

theorem answers_mgtRequest {s : State} {now : Nat} {f : State → State} (hf : ∀ s, (f s).pending = s.pending) :
    Answers true s (.next (mgtRequest (tick s now) f)) := (mgtRequest_pending hf _).trans (tick_pending s now)

theorem answers_runEntry {op : Nat} {slice : Fin 8} {ring : Fin 4} {now : Nat} {s : State} {body : State → Nat → RingEntry → Bool → State}
    (hb : ∀ s p e running, (body s p e running).pending = s.pending) : Answers true s (runEntry op slice ring now s body) := by
  simp only [runEntry]
  repeat' split
  all_goals simp [hb]

theorem answers_requestGo {mn : String} {named : Nat → Bool} {r : RegWrite} {s : State} :
    Answers (partCmd r named) s (requestGo mn named r s) := by
  refine Answers.guard (fun h => ?_) ?_
  · rcases h with h | h | h
    · simp [partCmd, writesBit_eq_false (.inl h)]
    · simp [partCmd, writesBit_eq_false (.inr h)]
    · simp [partCmd, h]
  · repeat' split
    all_goals simp

theorem answers_attCtl {mn : String} {bit : Nat} {r : RegWrite} {s : State} {f : State → State} (hf : ∀ s, (f s).pending = s.pending) :
    Answers (writesBit r (attPg + 0x100) bit) s (attCtl mn bit r s f) := by
  refine Answers.guard writesBit_eq_false ?_
  simp [hf]

theorem answers_tierGo {mn : String} {op : Nat} {r : RegWrite} {s : State} : Answers (tierCmd r op) s (tierGo mn op r s) := by
  simp only [tierGo]
  split
  case h_1 h => simp [tierCmd, writesPageBit, writesPage_eq_false_of_none h]
  case h_2 pr h =>
    refine .guard (fun hg => ?_) ?_
    · rcases hg with hk | ho | hb | ⟨h1, h2⟩
      · simp [tierCmd, writesPageBit, writesPage_eq_false h (.inl hk)]
      · simp [tierCmd, writesPageBit, writesPage_eq_false h (.inr ho)]
      · simp only [tierCmd, writesPageBit, hb, Bool.and_false, Bool.false_and]
      · simp only [tierCmd, Bool.and_eq_false_iff, Bool.or_eq_false_iff, beq_eq_false_iff_ne, decide_eq_false_iff_not]
        omega
    · repeat' split
      all_goals simp

end Sys2Proof.Machine
end

section
/-!
The commands of the units: Anvil, memory, Quench, Tongs, Billet, links and the stash. For O53 and O54.
-/
namespace Sys2Proof.Machine

/-! ### Anvil -/

theorem execPassDispatch_answers (tile : Fin 288) (index now : Nat) (s : State) : Answers true s (execPassDispatch tile index now s) := by
  simp only [execPassDispatch]
  repeat' split
  all_goals simp

theorem execCoalTimeout_answers (tile : Fin 288) (group now : Nat) (s : State) : Answers true s (execCoalTimeout tile group now s) := by
  simp only [execCoalTimeout]
  split <;> simp

theorem execAnvChunkLoad_answers (tile : Fin 288) (anvil : Fin 3) (fault : AnvFault) (ecc : Ecc) (now : Nat) (s : State) :
    Answers true s (execAnvChunkLoad tile anvil fault ecc now s) := by
  simp only [execAnvChunkLoad]
  repeat' split
  all_goals simp
  · exact (loadChunk_pending ‹_›).trans (tick_pending s now)
  · exact (loadChunk_pending ‹_›).trans ((startRun_pending ‹_›).trans (tick_pending s now))
  · exact (loadChunk_pending ‹_›).trans ((startRun_pending ‹_›).trans (tick_pending s now))

theorem execAnvChunkLaunch_answers (tile : Fin 288) (anvil : Fin 3) (feedStalls loadStalls : Nat) (ecc : Ecc) (now : Nat) (s : State) :
    Answers true s (execAnvChunkLaunch tile anvil feedStalls loadStalls ecc now s) := by
  simp only [execAnvChunkLaunch]
  repeat' split
  all_goals simp

theorem execAnvOutput_answers (tile : Fin 288) (anvil : Fin 3) (fault : AnvFault) (now : Nat) (s : State) :
    Answers true s (execAnvOutput tile anvil fault now s) := by
  simp only [execAnvOutput]
  split <;> simp

/-! ### HBM -/

theorem execSorterGatherRelease_answers (tile : Fin 288) (now : Nat) (s : State) : Answers true s (execSorterGatherRelease tile now s) :=
  by simp [execSorterGatherRelease]

theorem execSorterHold_answers (tile : Fin 288) (desc : Nat) (now : Nat) (s : State) : Answers true s (execSorterHold tile desc now s) :=
  by simp [execSorterHold]

theorem execHbmOpAdmit_answers (op : Nat) (ecc : Ecc) (now : Nat) (s : State) : Answers true s (execHbmOpAdmit op ecc now s) := by
  unfold execHbmOpAdmit
  extract_lets u
  have hu : u.pending = s.pending := tick_pending s now
  clear_value u
  split
  · exact hu
  split
  · exact hu
  split
  · extract_lets v
    have hv : v.pending = s.pending := (chargeClass_pending ..).trans hu
    clear_value v
    split
    · exact (notePeak_pending ..).trans ((putOp_pending ..).trans ((opEffect_pending ..).trans hv))
    · exact (inc64_pending ..).trans ((putOp_pending ..).trans ((opEffect_pending ..).trans hv))
    · split
      case h_1 h => simp [pending_of_hbmEcc h, hv]
      case h_2 h => split <;> simp [pending_of_hbmEcc h, hv]
  · simp [hu]

theorem execHbmWindowStart_answers (now : Nat) (s : State) : Answers true s (execHbmWindowStart now s) := by simp [execHbmWindowStart]

/-- execHbmBurstSlot with any error of the array: the kernel would evaluate the state that hbmEcc leaves. -/
def burstSlotBy (arrayEcc : State → Nat → Ecc → Ecc × State) (ctl : Fin 32) (pc : Fin 64) (ecc : Ecc) (now : Nat) (s : State) : Out :=
  let s := tick s now
  match chooseOp s ctl pc with
  | none => .next s
  | some o =>
    let c := chanOf s ctl pc
    let pg := ctlPg ctl 0
    let turn := o.kind.changes != c.writing
    let hit := rowHit s o
    let c' : PseudoChan :=
      { writing := o.kind.changes, run := if turn then 1 else c.run + 1,
        acts := if hit then c.acts else (s.time :: c.acts).take 4,
        grants := if hit then c.grants else setNth c.grants o.cls (nth 0 c.grants o.cls + 1) }
    let s := setRow (setChan s ctl pc c') ctl pc o.bank (some o.row)
    let s := if turn then inc s (pg + 0x140) else s
    let s := if hit then s else inc64 s (pg + 0x138) 1
    match o.kind with
    | .read =>
      match arrayEcc (inc64 s (pg + 0x120) o.sectors) ctl ecc with
      | (.uncorrectable a, s) =>
        .next (finishOp (hbmErrNote s ctl 2 o.q (eccSect o (.uncorrectable a))) { o with failed := true })
      | (.corrected a, s) => .next (finishOp (hbmErrNote s ctl 1 o.q (eccSect o (.corrected a))) o)
      | (.clean, s) => .next (finishOp s o)
    | _ => .next (finishOp s o)

theorem execHbmBurstSlot_eq : execHbmBurstSlot = burstSlotBy hbmEcc := by
  delta execHbmBurstSlot burstSlotBy
  exact rfl

theorem burstSlotBy_answers {f : State → Nat → Ecc → Ecc × State} (hf : ∀ s ctl e, (f s ctl e).2.pending = s.pending) (ctl : Fin 32)
    (pc : Fin 64) (ecc : Ecc) (now : Nat) (s : State) : Answers true s (burstSlotBy f ctl pc ecc now s) := by
  have pending_of {s u : State} {ctl : Nat} {e x : Ecc} (h : f s ctl e = (x, u)) : u.pending = s.pending := by simpa [h] using hf s ctl e
  simp only [burstSlotBy]
  split
  · simp
  · split
    · split
      case h_1 h => simp [pending_of h]
      case h_2 h => simp [pending_of h]
      case h_3 h => simp [pending_of h]
    · simp

theorem execHbmBurstSlot_answers (ctl : Fin 32) (pc : Fin 64) (ecc : Ecc) (now : Nat) (s : State) :
    Answers true s (execHbmBurstSlot ctl pc ecc now s) := execHbmBurstSlot_eq ▸ burstSlotBy_answers hbmEcc_pending ctl pc ecc now s

theorem execHbmRefresh_answers (ctl : Fin 32) (pc : Fin 64) (bank : Fin 64) (now : Nat) (s : State) :
    Answers true s (execHbmRefresh ctl pc bank now s) :=
  by simp [execHbmRefresh]

theorem execHbmAgePromote_answers (op : Nat) (now : Nat) (s : State) : Answers true s (execHbmAgePromote op now s) := by
  simp only [execHbmAgePromote]
  split <;> simp

theorem execPatrolScrub_answers (ctl : Fin 32) (sector : Nat) (ecc : Ecc) (now : Nat) (s : State) :
    Answers true s (execPatrolScrub ctl sector ecc now s) := by
  simp only [execPatrolScrub]
  split
  · split
    case h_1 h => simp [pending_of_hbmEcc h]
    case h_2 h => simp [pending_of_hbmEcc h]
    case h_3 h => simp [pending_of_hbmEcc h]
  · simp

theorem execHbmThermalRead_answers (ctl : Fin 32) (temp now : Nat) (s : State) : Answers true s (execHbmThermalRead ctl temp now s) := by
  simp only [execHbmThermalRead]
  split
  case h_1 h => exact (injected_pending (fun s => stackHeat_pending ..) _).trans (by simp [pending_of_injectEvent h])
  case h_2 h => simp [pending_of_injectEvent h]

theorem execHbmTrackMove_answers (ctl : Fin 32) (now : Nat) (s : State) : Answers true s (execHbmTrackMove ctl now s) :=
  by simp [execHbmTrackMove]

theorem execHbmRetrainDone_answers (ctl : Fin 32) (outcome : RetrainOutcome) (now : Nat) (s : State) :
    Answers true s (execHbmRetrainDone ctl outcome now s) := by
  simp only [execHbmRetrainDone]
  cases outcome with
  | spareLane ch dq =>
    dsimp only
    split
    case h_1 h => simp [useSpare_pending h]
    case h_2 h => simp
  | _ => simp

/-! ### The tiers -/

theorem execHbmOpArrive_answers (op now : Nat) (s : State) : Answers true s (execHbmOpArrive op now s) := by
  simp only [execHbmOpArrive]
  repeat' split
  all_goals simp
  all_goals next h => exact (pending_of_promote h).trans (tick_pending s now)

theorem execTierMap_answers (r : RegWrite) (s : State) : Answers (wellFormed (.tierMap r)) s (execTierMap r s) := answers_tierGo

theorem execTierUnmap_answers (r : RegWrite) (s : State) : Answers (wellFormed (.tierUnmap r)) s (execTierUnmap r s) := answers_tierGo

theorem execTierMigrate_answers (r : RegWrite) (s : State) : Answers (wellFormed (.tierMigrate r)) s (execTierMigrate r s) := answers_tierGo

theorem execTierHint_answers (r : RegWrite) (s : State) : Answers (wellFormed (.tierHint r)) s (execTierHint r s) := answers_tierGo

theorem execMigrationDone_answers (part : Fin 8) (page : Nat) (now : Nat) (s : State) :
    Answers true s (execMigrationDone part page now s) := by
  simp only [execMigrationDone]
  repeat' split
  all_goals simp

theorem execXlatMissFill_answers (part : Fin 8) (page : Nat) (now : Nat) (s : State) : Answers true s (execXlatMissFill part page now s) :=
  by simp [execXlatMissFill]

theorem execFlashUnitRead_answers (unit : Nat) (ecc : Ecc) (now : Nat) (s : State) : Answers true s (execFlashUnitRead unit ecc now s) :=
  by simp [execFlashUnitRead]

theorem execFtlCheckpoint_answers (now : Nat) (s : State) : Answers true s (execFtlCheckpoint now s) := by simp [execFtlCheckpoint]

theorem execFtlRelocation_answers (block : Nat) (now : Nat) (s : State) : Answers true s (execFtlRelocation block now s) :=
  by simp [execFtlRelocation]

theorem execFtlBlockRetire_answers (block : Nat) (now : Nat) (s : State) : Answers true s (execFtlBlockRetire block now s) :=
  by simp [execFtlBlockRetire]

theorem execStaticWearLevelling_answers (block : Nat) (now : Nat) (s : State) : Answers true s (execStaticWearLevelling block now s) :=
  by simp [execStaticWearLevelling]

/-! ### Bellows -/

theorem execBlwRequestIssue_answers (tile : Fin 288) (desc : Nat) (ecc : Ecc) (now : Nat) (s : State) :
    Answers true s (execBlwRequestIssue tile desc ecc now s) := by
  simp only [execBlwRequestIssue]
  split
  case h_2 => simp
  case h_1 d p _ _ =>
    split
    · simp
    split
    · simp
    · simp
    next c rest _ _ =>
      have hserved : (if (d.kind == .writeBack) = true then promote (tick s now) p c.mem true else .ready (tick s now)).after.pending =
          s.pending := by
        split
        · exact (promote_pending ..).trans (tick_pending s now)
        · exact tick_pending s now
      generalize (if (d.kind == .writeBack) = true then promote (tick s now) p c.mem true else .ready (tick s now)) = r at hserved ⊢
      cases r with
      | waits u => exact hserved
      | full u => exact (failDesc_pending ..).trans hserved
      | ready u =>
        dsimp only
        split
        · next h => exact (takeTag_pending h).trans hserved
        · split
          · exact (issueWrite_pending ..).trans hserved
          · exact (issueRead_pending ..).trans hserved

theorem execPrefetchInvalidate_answers (tile : Fin 288) (entry : Nat) (now : Nat) (s : State) :
    Answers true s (execPrefetchInvalidate tile entry now s) := by
  simp only [execPrefetchInvalidate]
  repeat' split
  all_goals simp

theorem execBlwRequestComplete_answers (tile : Fin 288) (req : Nat) (now : Nat) (s : State) :
    Answers true s (execBlwRequestComplete tile req now s) := by
  simp only [execBlwRequestComplete]
  repeat' split
  all_goals simp

/-! ### The register window -/

theorem execMalformedAccess_answers (who : Requester) (off : WinOff) (width : Nat) (write : Bool) (now : Nat) (s : State) :
    Answers (wellFormed (.malformedAccess who off width write now)) s (execMalformedAccess who off width write now s) := by
  refine Answers.guard (fun h => by simp [wellFormed, h]) ?_
  dsimp only
  split <;> simp

theorem execIntStatW1c_answers (r : RegWrite) (coincident : W32) (s : State) :
    Answers (wellFormed (.intStatW1c r coincident)) s (execIntStatW1c r coincident s) := by
  simp only [execIntStatW1c]
  split
  case h_1 p h => exact .guard (fun hg => by simp [wellFormed, hg]) (by simp)
  case h_2 h => simp [wellFormed, h]

theorem execErrClr_answers (r : RegWrite) (coincident : Option (W32 × W64)) (s : State) :
    Answers (wellFormed (.errClr r coincident)) s (execErrClr r coincident s) := by
  simp only [execErrClr]
  split
  case h_1 p h =>
    refine .guard (fun hg => ?_) (by split <;> simp)
    rcases hg with ho | hb
    · simp [wellFormed, ho]
    · simp only [wellFormed, hb, Bool.and_false]
  case h_2 h => simp [wellFormed, h]

theorem execCntClr_answers (r : RegWrite) (coincident : List (Nat × Nat)) (s : State) :
    Answers (wellFormed (.cntClr r coincident)) s (execCntClr r coincident s) := by
  simp only [execCntClr]
  split
  case h_1 p h =>
    split
    case h_1 b hb =>
      refine .guard (fun hg => by simp [wellFormed, clearsCounters, h, hb, hg]) ?_
      repeat' split
      all_goals simp
    case h_2 hb => simp [wellFormed, clearsCounters, h, hb]
  case h_2 h => simp [wellFormed, clearsCounters, h]

theorem execAnvCoalCfgWrite_answers (r : RegWrite) (s : State) : Answers (wellFormed (.anvCoalCfgWrite r)) s (execAnvCoalCfgWrite r s) := by
  simp only [execAnvCoalCfgWrite]
  split
  case h_1 p h =>
    refine .guard (fun hg => writesPage_eq_false h hg) ?_
    repeat' split
    all_goals simp
  case h_2 h => exact writesPage_eq_false_of_none h

/-! ### Quench -/

theorem execQchArm_answers (r : RegWrite) (s : State) : Answers (wellFormed (.qchArm r)) s (execQchArm r s) := by
  refine Answers.guard id ?_
  repeat' split
  all_goals simp

theorem execIsoClr_answers (r : RegWrite) (s : State) : Answers (wellFormed (.isoClr r)) s (execIsoClr r s) := by
  refine Answers.guard (fun h => Bool.and_eq_false_iff.2 h) ?_
  split <;> simp

theorem execQchMemberCntWrite_answers (r : RegWrite) (s : State) :
    Answers (wellFormed (.qchMemberCntWrite r)) s (execQchMemberCntWrite r s) := by
  simp only [execQchMemberCntWrite]
  repeat' split
  all_goals simp_all [wellFormed]

theorem execMemberCrcDone_answers (slice : Fin 8) (ecc : Ecc) (now : Nat) (s : State) :
    Answers true s (execMemberCrcDone slice ecc now s) := by
  simp only [execMemberCrcDone]
  repeat' split
  all_goals simp

theorem execQchCtlRaise_answers (r : RegWrite) (s : State) : Answers (wellFormed (.qchCtlRaise r)) s (execQchCtlRaise r s) := by
  refine Answers.guard (fun h => Bool.and_eq_false_iff.2 h) ?_
  split <;> simp

theorem execGroupVoteArrive_answers (slice : Fin 8) (record : Fin 4) (operand : W64) (now : Nat) (s : State) :
    Answers true s (execGroupVoteArrive slice record operand now s) := by
  simp only [execGroupVoteArrive]
  split <;> simp

theorem execLeaderTimeout_answers (slice : Fin 8) (record : Fin 4) (now : Nat) (s : State) :
    Answers true s (execLeaderTimeout slice record now s) := by
  simp only [execLeaderTimeout]
  split <;> simp

theorem execRootResultArrive_answers (slice : Fin 8) (record : Fin 4) (group : Fin 63) (word : W64) (now : Nat) (s : State) :
    Answers true s (execRootResultArrive slice record group word now s) := by
  simp only [execRootResultArrive]
  split <;> simp

theorem execRootTimeout_answers (slice : Fin 8) (record : Fin 4) (now : Nat) (s : State) :
    Answers true s (execRootTimeout slice record now s) := by
  simp only [execRootTimeout]
  split <;> simp

theorem execIsolationTimeout_answers (slice : Fin 8) (now : Nat) (s : State) : Answers true s (execIsolationTimeout slice now s) := by
  simp only [execIsolationTimeout]
  split <;> simp

/-! ### Threads, barriers and tasks -/

theorem execTaskCommitApply_answers (tile : Fin 288) (task : Fin 4) (now : Nat) (s : State) :
    Answers true s (execTaskCommitApply tile task now s) := by
  simp only [execTaskCommitApply]
  split <;> simp

theorem execTaskDiscardApply_answers (tile : Fin 288) (task : Fin 4) (now : Nat) (s : State) :
    Answers true s (execTaskDiscardApply tile task now s) := by
  simp only [execTaskDiscardApply]
  split <;> simp

/-! ### Tongs -/

theorem execTngRequestIssue_answers (tile : Fin 288) (op : Nat) (ecc : Ecc) (now : Nat) (s : State) :
    Answers true s (execTngRequestIssue tile op ecc now s) := by
  simp only [execTngRequestIssue]
  repeat' split
  any_goals exact (tngHeld_pending ‹_›).trans (tick_pending s now)
  all_goals simp

theorem execTngRequestArrive_answers (port : Option (Fin 16)) (p : ReqPkt) (ecc : Ecc) (now : Nat) (s : State) :
    Answers true s (execTngRequestArrive port p ecc now s) := by
  simp only [execTngRequestArrive]
  repeat' split
  all_goals simp
  all_goals next h => exact (pending_of_deliver h).trans (by simp)

theorem execTngResponseArrive_answers (p : RspPkt) (stamp now : Nat) (s : State) :
    Answers true s (execTngResponseArrive p stamp now s) := by
  simp only [execTngResponseArrive]
  generalize hu : ({ tick s now with lnk := { (tick s now).lnk with answers := (tick s now).lnk.answers.erase p } } : State) = u
  have hs : u.pending = s.pending := by rw [← hu, tick_pending]
  repeat' split
  all_goals simp [hs]
  all_goals exact (pending_of_injectEvent ‹_›).trans hs

theorem execTngTimeout_answers (tile : Fin 288) (tag : BitVec 7) (now : Nat) (s : State) :
    Answers true s (execTngTimeout tile tag now s) := by
  simp only [execTngTimeout]
  repeat' split
  all_goals simp

/-! ### Sequence tables -/

theorem execBuild_answers (slice : Fin 8) (trigger : BuildTrigger) (now : Nat) (s : State) :
    Answers true s (execBuild slice trigger now s) := by
  simp only [execBuild]
  split <;> simp

theorem execBuildDone_answers (slice : Fin 8) (now : Nat) (s : State) : Answers true s (execBuildDone slice now s) := by
  simp only [execBuildDone]
  repeat' split
  all_goals simp

/-! ### The outcome of a step -/

theorem execOutcomeArrive_answers (slice : Fin 8) (word : W64) (now : Nat) (s : State) :
    Answers true s (execOutcomeArrive slice word now s) := by
  simp only [execOutcomeArrive]
  split <;> simp

/-! ### Billet images and restores -/

/-- execBilletImageDone with any table and any copy of a page: the kernel would evaluate the bytes written. -/
def imageDoneBy (table : State → Nat → Nat → Nat → State) (copy : State → Nat → Nat → Nat → Nat → ImgPage → State) (slice : Fin 8)
    (now : Nat) 
    (s : State) : Out :=
  let s := tick s now
  let sl := slice.val
  match bltPart s sl 1 with
  | none => .next s
  | some (p, r) =>
    let todo := (imagePages s p sl).filter (fun i => r.whole.contains i.entry || dirtyIn s p i.page r.gen)
    let s := table s p sl r.gen
    let s := todo.foldl (fun s i => copy s p sl r.gen r.step i) s
    let s := wr s (bltPg sl + 0x1A4) todo.length
    let s := setBlt s sl { bltOf s sl with run := some { r with copied := todo.map (·.num) } }
    let s := setPhase (sendMirror (signalReady s p sl) p sl r.gen todo) sl 2
    .next (releaseOutcome s p sl)

theorem execBilletImageDone_eq : execBilletImageDone = imageDoneBy writeTable copyImage := by
  delta execBilletImageDone imageDoneBy
  exact rfl

theorem imageDoneBy_answers {f : State → Nat → Nat → Nat → State} {g : State → Nat → Nat → Nat → Nat → ImgPage → State}
    (hf : ∀ s p sl gen, (f s p sl gen).pending = s.pending) (hg : ∀ s p sl gen step i, (g s p sl gen step i).pending = s.pending)
    (slice : Fin 8) (now : Nat) (s : State) : Answers true s (imageDoneBy f g slice now s) := by
  simp only [imageDoneBy]
  split
  · simp
  · simp [hf, foldl_pending fun _ _ => hg ..]

theorem execBilletImageDone_answers (slice : Fin 8) (now : Nat) (s : State) : Answers true s (execBilletImageDone slice now s) :=
  execBilletImageDone_eq ▸ imageDoneBy_answers writeTable_pending copyImage_pending slice now s

theorem execBilletMirrorDone_answers (slice : Fin 8) (fail : Option Byte) (now : Nat) (s : State) :
    Answers true s (execBilletMirrorDone slice fail now s) := by
  simp only [execBilletMirrorDone]
  split <;> simp

theorem execBilletParityStart_answers (slice : Fin 8) (fail : Option Byte) (data : List (Nat × List Byte)) (now : Nat) (s : State) :
    Answers true s (execBilletParityStart slice fail data now s) := by
  simp only [execBilletParityStart]
  split <;> simp

theorem execBilletSeal_answers (slice : Fin 8) (fail : Option Byte) (now : Nat) (s : State) :
    Answers true s (execBilletSeal slice fail now s) := by
  simp only [execBilletSeal]
  split <;> simp

theorem execBltDeadlineExpire_answers (slice : Fin 8) (now : Nat) (s : State) : Answers true s (execBltDeadlineExpire slice now s) := by
  simp only [execBltDeadlineExpire]
  split <;> simp

theorem execBltAbort_answers (r : RegWrite) (s : State) : Answers (wellFormed (.bltAbort r)) s (execBltAbort r s) := by
  refine Answers.guard id ?_
  repeat' split
  all_goals simp

/-- execTrickleDone with any write of flash: the kernel would evaluate the bytes written. -/
def trickleDoneBy (put : Nat → List Byte → State → State) (slice : Fin 8) (now : Nat) (s : State) : Out :=
  let s := tick s now
  let sl := slice.val
  match partOfSlice s sl, (bltOf s sl).trickles with
  | some p, t :: rest =>
    let a := flashSlot s sl t.gen t.pages
    let s := (List.range t.pages).foldl
      (fun s j => put (a + (1 + j) * pageBytes) (pageData s p (imageAddr s p sl t.gen j)) s) s
    let m := pageData s p (genAddr s p sl t.gen)
    let s := ftlWrite (put a (trickled (m.take 4096) ++ m.drop 4096) s) ((1 + t.pages) * pageBytes)
    let s := setBlt s sl { bltOf s sl with trickles := rest }
    let s := { s with mem := { s.mem with fresh := (a, (1 + t.pages) * pageBytes) :: s.mem.fresh } }
    .next (intSet (wrB s (bltPg sl + 0x104) 9 (!rest.isEmpty)) (bltPg sl) 16)
  | _, _ => .next s

theorem execTrickleDone_eq : execTrickleDone = trickleDoneBy putBillet := by
  delta execTrickleDone trickleDoneBy
  exact rfl

theorem trickleDoneBy_answers {f : Nat → List Byte → State → State} (hf : ∀ a b s, (f a b s).pending = s.pending) (slice : Fin 8)
    (now : Nat) 
    (s : State) : Answers true s (trickleDoneBy f slice now s) := by
  simp only [trickleDoneBy]
  split
  · simp [hf, foldl_pending fun _ _ => hf ..]
  · simp

theorem execTrickleDone_answers (slice : Fin 8) (now : Nat) (s : State) : Answers true s (execTrickleDone slice now s) :=
  execTrickleDone_eq ▸ trickleDoneBy_answers putBillet_pending slice now s

theorem execRestoreGo_answers (r : RegWrite) (s : State) : Answers (wellFormed (.restoreGo r)) s (execRestoreGo r s) := by
  refine Answers.guard id ?_
  repeat' split
  all_goals simp

theorem execRestoreDone_answers (slice : Fin 8) (fail : Option Byte) (rebuilt : List (Nat × List Byte)) (manifest : List Byte)
    (now : Nat) (s : State) : Answers true s (execRestoreDone slice fail rebuilt manifest now s) := by
  simp only [execRestoreDone]
  repeat' split
  all_goals simp

theorem execDigestGo_answers (r : RegWrite) (s : State) : Answers (wellFormed (.digestGo r)) s (execDigestGo r s) := by
  refine Answers.guard id ?_
  repeat' split
  all_goals simp

theorem execDigestDone_answers (slice : Fin 8) (now : Nat) (s : State) : Answers true s (execDigestDone slice now s) := by
  simp only [execDigestDone]
  split <;> simp

/-! ### Fabric time -/

theorem execSyncSend_answers (port : Fin 16) (now : Nat) (s : State) : Answers true s (execSyncSend port now s) := by simp [execSyncSend]

theorem execSyncReceive_answers (port : Fin 16) (root : W32) (hops : Nat) (t1 t2 t3 t4 : Nat) (now : Nat) (s : State) :
    Answers true s (execSyncReceive port root hops t1 t2 t3 t4 now s) :=
  by simp [execSyncReceive]

theorem execFtmHoldoverExpire_answers (now : Nat) (s : State) : Answers true s (execFtmHoldoverExpire now s) :=
  by simp [execFtmHoldoverExpire]

theorem execFtmSet_answers (r : RegWrite) (s : State) : Answers (wellFormed (.ftmSet r)) s (execFtmSet r s) := by
  refine Answers.guard writesBit_eq_false ?_
  repeat' split
  all_goals simp

theorem execRefclkLoss_answers (now : Nat) (s : State) : Answers true s (execRefclkLoss now s) := by simp [execRefclkLoss]

theorem execRefclkValid_answers (now : Nat) (s : State) : Answers true s (execRefclkValid now s) := by simp [execRefclkValid]

/-! ### Links -/

theorem execFlitSend_answers (port : Fin 16) (now : Nat) (s : State) : Answers true s (execFlitSend port now s) := by
  simp only [execFlitSend]
  repeat' split
  all_goals simp

theorem execLnkEnWrite_answers (r : RegWrite) (s : State) : Answers (wellFormed (.lnkEnWrite r)) s (execLnkEnWrite r s) := by
  simp only [execLnkEnWrite]
  split
  case h_1 h => simp [wellFormed, h]
  case h_2 =>
    repeat' split
    all_goals simp

theorem execLnkRetrain_answers (r : RegWrite) (s : State) : Answers (wellFormed (.lnkRetrain r)) s (execLnkRetrain r s) := by
  simp only [execLnkRetrain]
  split
  case h_1 h => simp [wellFormed, h]
  case h_2 => exact .guard (fun h => by simp [wellFormed, h]) (by simp)

theorem execLinkTrainDone_answers (port : Fin 16) (trained : BitVec 9) (peerMod : W32) (peerPort : BitVec 4) (now : Nat) (s : State) :
    Answers true s (execLinkTrainDone port trained peerMod peerPort now s) :=
  by simp [execLinkTrainDone]

theorem execRouteHoldExpire_answers (now : Nat) (s : State) : Answers true s (execRouteHoldExpire now s) := by
  simp only [execRouteHoldExpire]
  split <;> simp

theorem execLaneSignalLoss_answers (port : Fin 16) (lane : Fin 9) (now : Nat) (s : State) :
    Answers true s (execLaneSignalLoss port lane now s) :=
  by simp [execLaneSignalLoss]

theorem execLaneErrorWindow_answers (port : Fin 16) (errors : List Nat) (now : Nat) (s : State) :
    Answers true s (execLaneErrorWindow port errors now s) :=
  by simp [execLaneErrorWindow]

theorem execLinkPacket_answers (port : Fin 16) (lane : Fin 9) (switchFlit : BitVec 16) (now : Nat) (s : State) :
    Answers true s (execLinkPacket port lane switchFlit now s) :=
  by simp [execLinkPacket]

theorem execFlitReceive_answers (port : Fin 16) (flit : Flit) (intact : Bool) (now : Nat) (s : State) :
    Answers true s (execFlitReceive port flit intact now s) :=
  by simp [execFlitReceive]

/-! ### The stash -/

theorem execSthSegtabRead_answers (slice : Fin 8) (lane : Fin 4) (ecc : Ecc) (now : Nat) (s : State) :
    Answers true s (execSthSegtabRead slice lane ecc now s) := by
  simp only [execSthSegtabRead]
  split <;> simp

theorem execSthSpillDone_answers (slice : Fin 8) (lane : Fin 4) (now : Nat) (s : State) :
    Answers true s (execSthSpillDone slice lane now s) := by
  simp only [execSthSpillDone]
  repeat' split
  all_goals simp

theorem execSthRecordValid_answers (slice : Fin 8) (lane : Fin 4) (now : Nat) (s : State) :
    Answers true s (execSthRecordValid slice lane now s) := by
  simp only [execSthRecordValid]
  repeat' split
  all_goals simp

theorem execSthRefillStart_answers (slice : Fin 8) (lane : Fin 4) (now : Nat) (s : State) :
    Answers true s (execSthRefillStart slice lane now s) :=
  by simp [execSthRefillStart]

theorem execSthRefillDone_answers (slice : Fin 8) (lane : Fin 4) (now : Nat) (s : State) :
    Answers true s (execSthRefillDone slice lane now s) := by
  simp only [execSthRefillDone]
  repeat' split
  all_goals simp

theorem execSthWait_answers (tile : Fin 288) (thr : Fin 64) (now : Nat) (s : State) : Answers true s (execSthWait tile thr now s) := by
  simp only [execSthWait]
  split <;> simp

theorem execSthClear_answers (r : RegWrite) (s : State) : Answers (wellFormed (.sthClear r)) s (execSthClear r s) := by
  simp only [execSthClear]
  split
  case h_1 p h =>
    refine .guard (fun hg => ?_) (by simp)
    rcases hg with hk | ho | hb
    · simp [wellFormed, writesPageBit, writesPage_eq_false h (.inl hk)]
    · simp [wellFormed, writesPageBit, writesPage_eq_false h (.inr ho)]
    · simp [wellFormed, writesPageBit, hb]
  case h_2 h => simp [wellFormed, writesPageBit, writesPage_eq_false_of_none h]

end Sys2Proof.Machine
end

section
/-!
The commands of the module: resets, rings, partitions, power, SP, management and the window. For O53 and O54.
-/
namespace Sys2Proof.Machine

/-! ### Resets of a tile -/

theorem execTileThrStart_answers (r : RegWrite) (s : State) : Answers (wellFormed (.tileThrStart r)) s (execTileThrStart r s) := by
  simp only [execTileThrStart]
  split
  case h_1 h => simp [wellFormed, h]
  case h_2 => simp

theorem execTileThrClr_answers (r : RegWrite) (s : State) : Answers (wellFormed (.tileThrClr r)) s (execTileThrClr r s) := by
  simp only [execTileThrClr]
  split
  case h_1 h => simp [wellFormed, h]
  case h_2 =>
    simp only [answers_next]
    split <;> simp

theorem execHaltAll_answers (r : RegWrite) (s : State) : Answers (wellFormed (.haltAll r)) s (execHaltAll r s) := by
  simp only [execHaltAll]
  split
  case h_1 h => simp [wellFormed, h]
  case h_2 => exact .guard (fun h => by simp [wellFormed, h]) (by simp)

theorem execTileWatchdog_answers (tile : Fin 288) (thr : Fin 64) (now : Nat) (s : State) :
    Answers true s (execTileWatchdog tile thr now s) := by
  simp only [execTileWatchdog]
  split <;> simp

theorem execTileReset_answers (tile : Fin 288) (now : Nat) (s : State) : Answers true s (execTileReset tile now s) :=
  by simp [execTileReset]

theorem execTileResetTest_answers (tile : Fin 288) (now : Nat) (s : State) : Answers true s (execTileResetTest tile now s) :=
  by simp [execTileResetTest]

theorem execTileResetDone_answers (tile : Fin 288) (testPassed : Bool) (now : Nat) (s : State) :
    Answers true s (execTileResetDone tile testPassed now s) :=
  by simp [execTileResetDone]

theorem execSpareSwap_answers (failed spare : Fin 288) (testPassed : Bool) (now : Nat) (s : State) :
    Answers true s (execSpareSwap failed spare testPassed now s) := by
  simp only [execSpareSwap]
  split <;> simp

/-! ### Command rings -/

theorem execRingPoll_answers (slice : Fin 8) (ring : Fin 4) (now : Nat) (s : State) : Answers true s (execRingPoll slice ring now s) := by
  simp only [execRingPoll]
  split <;> simp

theorem execRingTailRead_answers (slice : Fin 8) (ring : Fin 4) (now : Nat) (s : State) :
    Answers true s (execRingTailRead slice ring now s) := by
  simp only [execRingTailRead]
  split <;> simp

theorem execRingBurstArrive_answers (slice : Fin 8) (ring : Fin 4) (now : Nat) (s : State) :
    Answers true s (execRingBurstArrive slice ring now s) := by
  simp only [execRingBurstArrive]
  split <;> simp

theorem execRingNop_answers (slice : Fin 8) (ring : Fin 4) (now : Nat) (s : State) : Answers true s (execRingNop slice ring now s) := by
  refine answers_runEntry fun s p e running => ?_
  simp

theorem execRingStart_answers (slice : Fin 8) (ring : Fin 4) (now : Nat) (s : State) : Answers true s (execRingStart slice ring now s) := by
  refine answers_runEntry fun s p e running => ?_
  split
  · simp
  · next is _ =>
    have fold (is : List Nat) (r : State × Bool) : (is.foldl (startOne p e) r).1.pending = r.1.pending := by
      induction is generalizing r with
      | nil => rfl
      | cons i is ih => exact (ih _).trans (startOne_pending ..)
    simp [fold]

theorem execRingXfer_answers (slice : Fin 8) (ring : Fin 4) (now : Nat) (s : State) : Answers true s (execRingXfer slice ring now s) := by
  refine answers_runEntry fun s p e running => ?_
  dsimp only
  repeat' split
  all_goals simp

theorem execRingWrite_answers (slice : Fin 8) (ring : Fin 4) (now : Nat) (s : State) : Answers true s (execRingWrite slice ring now s) := by
  refine answers_runEntry fun s p e running => ?_
  dsimp only
  split
  · simp
  · split
    case h_1 h => exact pending_of_promote h
    case h_2 h => exact (completeEntry_pending ..).trans (pending_of_promote h)
    case h_3 h => exact (completeEntry_pending ..).trans ((devWrite64_pending ..).trans (pending_of_promote h))

theorem execRingWaitWord_answers (slice : Fin 8) (ring : Fin 4) (now : Nat) (s : State) :
    Answers true s (execRingWaitWord slice ring now s) := by
  refine answers_runEntry fun s p e running => ?_
  repeat' split
  all_goals simp

theorem execRingWaitIdle_answers (slice : Fin 8) (ring : Fin 4) (now : Nat) (s : State) :
    Answers true s (execRingWaitIdle slice ring now s) := by
  refine answers_runEntry fun s p e running => ?_
  repeat' split
  all_goals simp

theorem execWaitWordRead_answers (slice : Fin 8) (ring : Fin 4) (now : Nat) (s : State) :
    Answers true s (execWaitWordRead slice ring now s) := by
  refine answers_runEntry fun s p e running => ?_
  repeat' split
  all_goals simp

theorem execWaitWordTimeout_answers (slice : Fin 8) (ring : Fin 4) (now : Nat) (s : State) :
    Answers true s (execWaitWordTimeout slice ring now s) := by
  refine answers_runEntry fun s p e running => ?_
  dsimp only
  split <;> simp

theorem execRingEnWrite_answers (r : RegWrite) (s : State) : Answers (wellFormed (.ringEnWrite r)) s (execRingEnWrite r s) := by
  simp only [execRingEnWrite]
  split
  case h_1 h => exact writesRing_eq_false h
  case h_2 =>
    repeat' split
    all_goals simp

theorem execRingResume_answers (r : RegWrite) (s : State) : Answers (wellFormed (.ringResume r)) s (execRingResume r s) := by
  simp only [execRingResume]
  split
  case h_1 h => simp [wellFormed, writesRing_eq_false h]
  case h_2 =>
    refine .guard (fun h => by simp [wellFormed, h]) ?_
    split <;> simp

/-! ### Partitions -/

theorem execPartitionCreate_answers (r : RegWrite) (s : State) : Answers (wellFormed (.partitionCreate r)) s (execPartitionCreate r s) :=
  answers_requestGo

theorem execPartitionDestroy_answers (r : RegWrite) (s : State) : Answers (wellFormed (.partitionDestroy r)) s (execPartitionDestroy r s) :=
  answers_requestGo

theorem execPartitionReset_answers (r : RegWrite) (s : State) : Answers (wellFormed (.partitionReset r)) s (execPartitionReset r s) :=
  answers_requestGo

theorem execPartitionRequestDone_answers (now : Nat) (s : State) : Answers true s (execPartitionRequestDone now s) := by
  simp only [execPartitionRequestDone]
  split <;> simp

/-! ### Start-up -/

theorem execStartupStageDone_answers (report : StageReport) (now : Nat) (s : State) :
    Answers true s (execStartupStageDone report now s) := by
  simp only [execStartupStageDone]
  repeat' split
  any_goals exact (stageFails_pending ‹_›).trans (tick_pending s now)
  all_goals simp

theorem execStartupBoundExpire_answers (now : Nat) (s : State) : Answers true s (execStartupBoundExpire now s) :=
  by simp [execStartupBoundExpire]

/-- A cold start above the highest specified input stops the model; any other goes on. -/
theorem execColdStart_eq_fault {vinMv now : Nat} {s : State} (h : 65000 < vinMv) : execColdStart vinMv now s = .fault .inputAboveMaximum :=
  if_pos h

theorem execColdStart_answers {vinMv now : Nat} {s : State} (h : ¬ 65000 < vinMv) : Answers true s (execColdStart vinMv now s) := by
  simp [execColdStart, h]

theorem execInputBackInRange_answers (vinMv : Nat) (now : Nat) (s : State) : Answers true s (execInputBackInRange vinMv now s) :=
  by simp [execInputBackInRange]

theorem execModuleReset_answers (r : RegWrite) (s : State) : Answers (wellFormed (.moduleReset r)) s (execModuleReset r s) := by
  refine Answers.guard writesBit_eq_false ?_
  simp only [answers_next]
  split <;> simp

theorem execModEnFall_answers (now : Nat) (s : State) : Answers true s (execModEnFall now s) := by simp [execModEnFall]

theorem execModEnRise_answers (now : Nat) (s : State) : Answers true s (execModEnRise now s) := by simp [execModEnRise]

theorem execHoldupCharged_answers (now : Nat) (s : State) : Answers true s (execHoldupCharged now s) := by simp [execHoldupCharged]

theorem execInputLoss_answers (now : Nat) (s : State) : Answers true s (execInputLoss now s) := by simp [execInputLoss]

theorem execHoldupEnd_answers (now : Nat) (s : State) : Answers true s (execHoldupEnd now s) := by simp [execHoldupEnd]

theorem execInputOvervoltage_answers (now : Nat) (s : State) : Answers true s (execInputOvervoltage now s) := by simp [execInputOvervoltage]

theorem execAnalogTrip_answers (rail : Fin 11) (now : Nat) (s : State) : Answers true s (execAnalogTrip rail now s) :=
  by simp [execAnalogTrip]

/-! ### Calibration windows -/

theorem execCalRecordCheck_answers (temps : List Nat) (meanPowerW : Nat) (now : Nat) (s : State) :
    Answers true s (execCalRecordCheck temps meanPowerW now s) :=
  by simp [execCalRecordCheck]

theorem execCalForce_answers (r : RegWrite) (s : State) : Answers (wellFormed (.calForce r)) s (execCalForce r s) := by
  refine Answers.guard writesBit_eq_false ?_
  simp

theorem execCalWindow_answers (part : Option (Fin 8)) (now : Nat) (s : State) : Answers true s (execCalWindow part now s) :=
  by simp [execCalWindow]

theorem execCalStackRelease_answers (part : Option (Fin 8)) (short : List Nat) (now : Nat) (s : State) :
    Answers true s (execCalStackRelease part short now s) := by
  simp only [execCalStackRelease]
  split <;> simp

theorem execCalWindowClose_answers (part : Option (Fin 8)) (temps : List Nat) (monitors : List Nat) (now : Nat) (s : State) :
    Answers true s (execCalWindowClose part temps monitors now s) := by
  simp only [execCalWindowClose]
  split <;> simp

theorem execSerdesLaneRecal_answers (port : Fin 16) (lane : Fin 9) (temp : Nat) (now : Nat) (s : State) :
    Answers true s (execSerdesLaneRecal port lane temp now s) :=
  by simp [execSerdesLaneRecal]

/-! ### Hearth -/

theorem execCapRequest_answers (r : RegWrite) (s : State) : Answers (wellFormed (.capRequest r)) s (execCapRequest r s) := by
  refine Answers.guard writesBit_eq_false ?_
  repeat' split
  all_goals simp

theorem execHintBoostEnd_answers (die : Fin 4) (now : Nat) (s : State) : Answers true s (execHintBoostEnd die now s) := by
  simp only [execHintBoostEnd]
  split <;> simp

theorem execPhaseFail_answers (rail : Fin 11) (now : Nat) (s : State) : Answers true s (execPhaseFail rail now s) := by simp [execPhaseFail]

theorem execConverterFail_answers (now : Nat) (s : State) : Answers true s (execConverterFail now s) := by simp [execConverterFail]

theorem execPowerEstimate_answers (sample : PowerSample) (now : Nat) (s : State) : Answers true s (execPowerEstimate sample now s) :=
  by simp [execPowerEstimate]

theorem execOpTransitionDone_answers (die : Fin 4) (now : Nat) (s : State) : Answers true s (execOpTransitionDone die now s) := by
  simp only [execOpTransitionDone]
  split <;> simp

theorem execEstimatorCorrection_answers (measW : Nat) (now : Nat) (s : State) : Answers true s (execEstimatorCorrection measW now s) :=
  by simp [execEstimatorCorrection]

theorem execThermalLoop_answers (die : Fin 4) (temps : List Nat) (inlet outlet now : Nat) (s : State) :
    Answers true s (execThermalLoop die temps inlet outlet now s) := by
  simp only [execThermalLoop]
  split
  case h_1 h => exact (injected_pending (fun s => heatStep_pending ..) _).trans (by simp [pending_of_injectEvent h])
  case h_2 h => simp [pending_of_injectEvent h]

theorem execDroopDetect_answers (tile : Fin 288) (now : Nat) (s : State) : Answers true s (execDroopDetect tile now s) :=
  by simp [execDroopDetect]

theorem execDroopRecover_answers (tile : Fin 288) (cycles : Nat) (now : Nat) (s : State) :
    Answers true s (execDroopRecover tile cycles now s) :=
  by simp [execDroopRecover]

theorem execDroopLocal_answers (tile : Fin 288) (now : Nat) (s : State) : Answers true s (execDroopLocal tile now s) :=
  by simp [execDroopLocal]

/-! ### Updates and attestation -/

theorem execLockstepMismatch_answers (now : Nat) (s : State) : Answers true s (execLockstepMismatch now s) := by simp [execLockstepMismatch]

theorem execSpRestartDone_answers (now : Nat) (s : State) : Answers true s (execSpRestartDone now s) := by simp [execSpRestartDone]

theorem execUpdateGo_answers (r : RegWrite) (s : State) : Answers (wellFormed (.updateGo r)) s (execUpdateGo r s) := by
  refine Answers.guard id ?_
  repeat' split
  all_goals simp

theorem execPldmFwUpdate_answers (bundle : List Byte) (now : Nat) (s : State) : Answers true s (execPldmFwUpdate bundle now s) :=
  answers_mgtRequest fun s => by dsimp only; split <;> simp

theorem execHearthWatchdog_answers (now : Nat) (s : State) : Answers true s (execHearthWatchdog now s) := by simp [execHearthWatchdog]

theorem execTrialExpire_answers (now : Nat) (s : State) : Answers true s (execTrialExpire now s) := by
  simp only [execTrialExpire]
  split <;> simp

theorem execUpdateCommit_answers (r : RegWrite) (s : State) : Answers (wellFormed (.updateCommit r)) s (execUpdateCommit r s) := by
  refine Answers.guard id ?_
  repeat' split
  all_goals simp

theorem execUpdateAbort_answers (r : RegWrite) (s : State) : Answers (wellFormed (.updateAbort r)) s (execUpdateAbort r s) := by
  refine Answers.guard id ?_
  repeat' split
  all_goals simp

theorem execAttGo_answers (r : RegWrite) (s : State) : Answers (wellFormed (.attGo r)) s (execAttGo r s) :=
  answers_attCtl fun s => by simp

theorem execAttExtend_answers (r : RegWrite) (s : State) : Answers (wellFormed (.attExtend r)) s (execAttExtend r s) :=
  answers_attCtl fun s => by dsimp only; split <;> simp

theorem execAttCerts_answers (r : RegWrite) (s : State) : Answers (wellFormed (.attCerts r)) s (execAttCerts r s) :=
  answers_attCtl fun _ => attWrite_pending ..

theorem execFaultInjArm_answers (r : RegWrite) (s : State) : Answers (wellFormed (.faultInjArm r)) s (execFaultInjArm r s) := by
  refine Answers.guard writesBit_eq_false ?_
  repeat' split
  all_goals simp

/-! ### Management -/

theorem execEnroll_answers (key serial sig : List Byte) (now : Nat) (s : State) : Answers true s (execEnroll key serial sig now s) :=
  answers_mgtRequest fun s => by split <;> simp

theorem execSetPolicy_answers (section_ : List Byte) (now : Nat) (s : State) : Answers true s (execSetPolicy section_ now s) :=
  answers_mgtRequest fun s => by split <;> simp

theorem execGetEvidence_answers (nonce : List Byte) (now : Nat) (s : State) : Answers true s (execGetEvidence nonce now s) :=
  answers_mgtRequest fun _ => mgtReply_pending ..

theorem execGetCerts_answers (now : Nat) (s : State) : Answers true s (execGetCerts now s) :=
  answers_mgtRequest fun _ => mgtReply_pending ..

theorem execLogRead_answers (seq count now : Nat) (s : State) : Answers true s (execLogRead seq count now s) :=
  answers_mgtRequest fun s => by split <;> simp

theorem execPldmSensorRead_answers (sensor : Sensor) (now : Nat) (s : State) : Answers true s (execPldmSensorRead sensor now s) :=
  answers_mgtRequest fun _ => mgtReply_pending ..

theorem execPldmSetCap_answers (watts now : Nat) (s : State) : Answers true s (execPldmSetCap watts now s) :=
  answers_mgtRequest fun s => by dsimp only; split <;> simp

theorem execPldmModuleReset_answers (now : Nat) (s : State) : Answers true s (execPldmModuleReset now s) :=
  answers_mgtRequest fun s => by simp

theorem execPollEvent_answers (now : Nat) (s : State) : Answers true s (execPollEvent now s) :=
  answers_mgtRequest fun s => by split <;> simp

theorem execSetEndpointId_answers (eid : Byte) (now : Nat) (s : State) : Answers true s (execSetEndpointId eid now s) :=
  answers_mgtRequest fun s => by simp

/-! ### Effects of a register write -/

theorem execRegWrite_answers (r : RegWrite) (s : State) : Answers (wellFormed (.regWrite r)) s (execRegWrite r s) := by
  refine Answers.guard (fun h => decide_eq_false h) ?_
  repeat' split
  all_goals simp

/-! ### The debug page -/

theorem execSpadCrcGo_answers (r : RegWrite) (s : State) : Answers (wellFormed (.spadCrcGo r)) s (execSpadCrcGo r s) := by
  simp only [execSpadCrcGo]
  split
  case h_1 h => simp [wellFormed, h]
  case h_2 =>
    refine .guard (fun h => by simp [wellFormed, h]) ?_
    repeat' split
    all_goals simp

theorem execSpadCrcDone_answers (tile : Fin 288) (ecc : Ecc) (now : Nat) (s : State) : Answers true s (execSpadCrcDone tile ecc now s) := by
  have hcrc (c : Bool) (u v w : State) (hv : v.pending = u.pending) (hw : w.pending = u.pending) :
      (if c then v else w).pending = u.pending := by
    cases c
    · exact hw
    · exact hv
  refine answers_ite.2 ⟨fun _ => tick_pending s now, fun _ => ?_⟩
  exact (intSet_pending ..).trans ((hcrc _ _ _ _ ((wr_pending ..).trans (drawFree_pending _)) (wrW_pending ..)).trans
    ((wrB_pending ..).trans ((wrB_pending ..).trans ((debugEcc_pending ..).trans (tick_pending s now)))))

theorem execSpadDbgRead_answers (r : RegRead) (ecc : Ecc) (s : State) :
    Answers (wellFormed (.spadDbgRead r ecc)) s (execSpadDbgRead r ecc s) := by
  simp only [execSpadDbgRead]
  split
  case h_1 h => simp [wellFormed, h]
  case h_2 => split <;> simp

theorem execSpadDbgWrite_answers (r : RegWrite) (s : State) : Answers (wellFormed (.spadDbgWrite r)) s (execSpadDbgWrite r s) := by
  simp only [execSpadDbgWrite]
  split
  case h_1 h => simp [wellFormed, h]
  case h_2 => split <;> simp

/-! ### Reads -/

theorem execLoReadLatch_answers (r : RegRead) (s : State) : Answers (wellFormed (.loReadLatch r)) s (execLoReadLatch r s) := by
  refine Answers.guard (fun h => ?_) (by simp)
  simp only [wellFormed, Bool.and_eq_false_iff, decide_eq_false_iff_not, Option.isNone_eq_false_iff]
  exact h

/-! ### Slot tags -/

theorem execSpadAgePromote_answers (tile : Fin 288) (now : Nat) (s : State) : Answers true s (execSpadAgePromote tile now s) :=
  by simp [execSpadAgePromote]

end Sys2Proof.Machine
end

section
/-!
The operations a thread issues. For O53 and O54.
-/
namespace Sys2Proof.Machine

/-- What an operation's effect leaves has the queue as it was. -/
def OpRes.Keeps (s : State) : OpRes → Prop
  | .done t => t.pending = s.pending
  | .jump t _ => t.pending = s.pending
  | _ => True

section
variable {s t : State} {a b : OpRes} {p : Prop} [Decidable p]

@[simp] theorem keeps_done : (OpRes.done t).Keeps s ↔ t.pending = s.pending := .rfl

@[simp] theorem keeps_jump {pc : Nat} : (OpRes.jump t pc).Keeps s ↔ t.pending = s.pending := .rfl

@[simp] theorem keeps_blocked {slot : Nat} : (OpRes.blocked slot).Keeps s := trivial

@[simp] theorem keeps_wait : OpRes.wait.Keeps s := trivial

@[simp] theorem keeps_sync {w : SyncWait} : (OpRes.sync w).Keeps s := trivial

@[simp] theorem keeps_fault {cause : Nat} : (OpRes.fault cause).Keeps s := trivial

@[simp] theorem keeps_ite : (if p then a else b).Keeps s ↔ (p → a.Keeps s) ∧ (¬p → b.Keeps s) := by
  by_cases h : p <;> simp [h]

end

theorem OpRes.Keeps.of_pending {s t : State} {r : OpRes} (h : r.Keeps t) (ht : t.pending = s.pending) : r.Keeps s := by
  cases r with
  | done u => exact h.trans ht
  | jump u pc => exact h.trans ht
  | _ => trivial

/-- An operation whose effect keeps the queue. -/
theorem issueOp_answers {mn : String} {u o : Nat} {legal : Nat → Bool} {regs : Nat → List Nat} {body : OpCtx → State → OpRes}
    (hb : ∀ c s, (body c s).Keeps s) (i : Issue) (s : State) : Answers (isOp u o i) s (issueOp mn u o legal regs i s body) := by
  have hbody := hb { t := i.tile.val, th := i.thr.val, w := i.word.toNat, ecc := i.ecc } (tick s i.now)
  have hother (h : fUnit i.word.toNat ≠ u ∨ fOpc i.word.toNat ≠ o) : isOp u o i = false := by
    rw [Bool.eq_false_iff, Ne, isOp_iff, not_and_or]
    exact h
  simp only [issueOp]
  generalize body _ _ = r at hbody ⊢
  repeat' split
  all_goals simp_all

theorem withSlots_keeps {eff : State → State} (h : ∀ s, (eff s).pending = s.pending) (c : OpCtx) (s : State) (uses : List (Nat × Use)) :
    (withSlots c s uses eff).Keeps s := by
  simp only [withSlots]
  repeat' split
  case h_2 hs => exact (h _).trans (shadowAll_pending hs)
  all_goals simp

theorem withRanges_keeps {eff : Ecc → State → State} (h : ∀ e s, (eff e s).pending = s.pending) (c : OpCtx) (s : State) (cls : Nat)
    (rs : List VRange) : (withRanges c s cls rs eff).Keeps s := by
  simp only [withRanges]
  split
  · simp
  · exact withSlots_keeps (fun s => by simp [h]) ..

section
variable {mn : String} {o : Nat} {i : Issue} {s : State}

theorem aluR_answers {f : W64 → W64 → W64} : Answers (isOp 0 o i) s (aluR mn o f i s) := issueOp_answers (fun c s => by simp) i s

theorem aluI_answers {legal : Nat → Bool} {regs : Nat → List Nat} {f : W64 → W64 → W64} :
    Answers (isOp 0 o i) s (aluI mn o legal regs f i s) := issueOp_answers (fun c s => by simp) i s

theorem vecMap_answers {u : VUses} {f : State → OpCtx → FpFmt → FpVal → FpVal → FpVal → Nat} :
    Answers (isOp 1 o i) s (vecMap mn o u i s f) := by
  refine issueOp_answers (fun c s => ?_) i s
  dsimp only
  split
  · simp
  · exact withRanges_keeps (fun e s => by simp) ..

theorem vecReduce_answers {ab : Bool} {f : List FpVal → List FpVal → FpVal} : Answers (isOp 1 o i) s (vecReduce mn o ab f i s) := by
  refine issueOp_answers (fun c s => ?_) i s
  dsimp only
  split
  · simp
  · exact withRanges_keeps (fun e s => by simp) ..

theorem endTask_answers {commit : Bool} : Answers (isOp 7 o i) s (endTask mn o commit i s) := by
  refine issueOp_answers (fun c s => ?_) i s
  dsimp only
  split
  · simp
  · split <;> simp

theorem sthOp_answers {legal : Nat → Bool} {k : BKind} {eff : OpCtx → Nat → Nat → SthPart → State → State}
    (h : ∀ c p sl q s, (eff c p sl q s).pending = s.pending) : Answers (isOp 4 o i) s (sthOp mn o legal k eff i s) := by
  refine issueOp_answers (fun c s => ?_) i s
  dsimp only
  repeat' split
  all_goals simp [h]

theorem sthPop_answers {discard : Bool} : Answers (isPop discard i) s (sthPop mn discard i s) := by
  refine Answers.guard (fun h => ?_) ?_
  · simp [isPop, h.2.2.1]
  · exact (sthOp_answers fun c p sl q s => sthAccept_pending (fun s => comparePop_pending ..) ..).mono fun h => (Bool.and_eq_true_iff.1 h).1

theorem slotTagOp_answers {fn : Nat} : Answers (isTagOp fn i) s (slotTagOp mn fn i s) := by
  refine Answers.guard (fun h => ?_) ?_
  · simp only [Bool.and_eq_true, beq_iff_eq, decide_eq_true_eq, bne_iff_ne] at h
    obtain ⟨⟨-, hle⟩, hne⟩ := h
    simp [isTagOp, hne, Nat.not_lt.2 hle]
  · refine (issueOp_answers (fun c s => ?_) i s).mono fun h => (Bool.and_eq_true_iff.1 h).1
    dsimp only
    repeat' split
    case isFalse.isFalse => exact withSlots_keeps (fun s => by simp) ..
    all_goals simp

end

/-! Tongs -/

@[simp] theorem startTng_keeps {s t : State} (ht : t.pending = s.pending) (c : OpCtx) (pl : TPlan) : (startTng c t pl).Keeps s := by
  simp only [startTng]
  repeat' split
  all_goals simp [ht]

@[simp] theorem startBadTng_keeps {s t : State} (ht : t.pending = s.pending) (c : OpCtx) (pl : TPlan) (addr : Nat) :
    (startBadTng c t pl addr).Keeps s := by
  have h := startTng_keeps ht c pl
  rw [startBadTng]
  split
  · simp_all
    split <;> simp_all
  · exact h

theorem ite_shadowAll_pending {p : Prop} [Decidable p] {t : Nat} {k : Option (Fin 4)} {us : List (Nat × Use)} {s u : State}
    (h : (if p then shadowAll s t k us else some s) = some u) : u.pending = s.pending := by
  split at h
  · exact shadowAll_pending h
  · rw [← Option.some.inj h]

theorem tngBulk_keeps (opc : ReqOpc) (c : OpCtx) (s : State) : (tngBulk opc c s).Keeps s := by
  simp only [tngBulk]
  repeat' split
  case h_2 h => exact startTng_keeps (ite_shadowAll_pending h) ..
  all_goals simp

theorem tngWord_keeps (opc : ReqOpc) (c : OpCtx) (s : State) : (tngWord opc c s).Keeps s := by
  simp [tngWord]

section
variable (i : Issue) (s : State)

theorem execNop_answers : Answers (isOp 0 0x00 i) s (execNop i s) := issueOp_answers (fun c s => by simp) i s

theorem execCmp_answers : Answers (isOp 0 0x20 i) s (execCmp i s) := issueOp_answers (fun c s => by simp) i s

theorem execCmpi_answers : Answers (isOp 0 0x21 i) s (execCmpi i s) := issueOp_answers (fun c s => by simp) i s

theorem execPlog_answers : Answers (isOp 0 0x22 i) s (execPlog i s) := issueOp_answers (fun c s => by simp) i s

theorem execBra_answers : Answers (isOp 0 0x30 i) s (execBra i s) := issueOp_answers (fun c s => by simp) i s

theorem execJr_answers : Answers (isOp 0 0x31 i) s (execJr i s) := issueOp_answers (fun c s => by simp) i s

theorem execCall_answers : Answers (isOp 0 0x32 i) s (execCall i s) := issueOp_answers (fun c s => by simp) i s

theorem execRdtime_answers : Answers (isOp 0 0x40 i) s (execRdtime i s) := issueOp_answers (fun c s => by simp) i s

theorem execRdstep_answers : Answers (isOp 0 0x41 i) s (execRdstep i s) := issueOp_answers (fun c s => by simp) i s

theorem execRdid_answers : Answers (isOp 0 0x42 i) s (execRdid i s) := issueOp_answers (fun c s => by simp) i s

theorem execSpkDraw_answers : Answers (isOp 0 0x50 i) s (execSpkDraw i s) := issueOp_answers (fun c s => by simp) i s

theorem execSpkDrawi_answers : Answers (isOp 0 0x51 i) s (execSpkDrawi i s) := issueOp_answers (fun c s => by simp) i s

theorem execLd_answers : Answers (isOp 6 0x01 i) s (execLd i s) := by
  refine issueOp_answers (fun c s => ?_) i s
  dsimp only
  split
  · simp
  · exact withSlots_keeps (fun s => by simp) ..

theorem execSt_answers : Answers (isOp 6 0x02 i) s (execSt i s) := by
  refine issueOp_answers (fun c s => ?_) i s
  dsimp only
  split
  · simp
  · exact withSlots_keeps (fun s => by simp) ..

theorem execSlotFill_answers : Answers (isOp 6 0x10 i) s (execSlotFill i s) := by
  refine issueOp_answers (fun c s => ?_) i s
  simp only [keeps_ite, keeps_fault]
  simp [withSlots_keeps]

theorem execSlotCopy_answers : Answers (isOp 6 0x11 i) s (execSlotCopy i s) :=
  issueOp_answers (fun c s => by simp [withSlots_keeps]) i s

theorem execSlotTest_answers : Answers (isOp 6 0x21 i) s (execSlotTest i s) := issueOp_answers (fun c s => by simp) i s

theorem execVcvt_answers : Answers (isOp 1 0x10 i) s (execVcvt i s) := by
  refine issueOp_answers (fun c s => ?_) i s
  dsimp only
  split
  · simp
  · refine withRanges_keeps (fun e s => ?_) ..
    repeat' split
    all_goals simp

theorem execVdact_answers : Answers (isOp 1 0x20 i) s (execVdact i s) := by
  rw [execVdact]
  split
  · exact vecMap_answers
  · exact vecMap_answers

theorem execVdsmax_answers : Answers (isOp 1 0x21 i) s (execVdsmax i s) := issueOp_answers (fun c s => by simp [withRanges_keeps]) i s

theorem execVdnorm_answers : Answers (isOp 1 0x22 i) s (execVdnorm i s) := issueOp_answers (fun c s => by simp [withRanges_keeps]) i s

theorem execVzmap_answers : Answers (isOp 1 0x28 i) s (execVzmap i s) := issueOp_answers (fun c s => by simp [withRanges_keeps]) i s

theorem execVroute_answers : Answers (isOp 1 0x30 i) s (execVroute i s) := issueOp_answers (fun c s => by simp [withRanges_keeps]) i s

theorem execOptStep_answers : Answers (isOp 1 0x38 i) s (execOptStep i s) := by
  refine issueOp_answers (fun c s => ?_) i s
  dsimp only
  repeat' split
  case h_2 h => simp [shadowAll_pending h]
  all_goals simp

theorem execSfuFn_answers : Answers (isOp 2 0x01 i) s (execSfuFn i s) := by
  refine issueOp_answers (fun c s => ?_) i s
  dsimp only
  split
  · simp
  · refine withRanges_keeps (fun e s => ?_) ..
    repeat' split
    all_goals simp

theorem execSfuDact_answers : Answers (isOp 2 0x02 i) s (execSfuDact i s) := issueOp_answers (fun c s => by simp [withRanges_keeps]) i s

theorem execSfuFns_answers : Answers (isOp 2 0x03 i) s (execSfuFns i s) := issueOp_answers (fun c s => by simp) i s

theorem execAnvPass_answers : Answers (isOp 3 0x01 i) s (execAnvPass i s) := by
  refine issueOp_answers (fun c s => ?_) i s
  dsimp only
  repeat' split
  case h_2 h => simp [shadowAll_pending h]
  all_goals simp

theorem execSthPush_answers : Answers (isOp 4 0x10 i) s (execSthPush i s) :=
  sthOp_answers fun _ _ _ _ _ => sthAccept_pending (fun _ => pushPart_pending ..) ..

theorem execPrefetchFence_answers : Answers (isOp 4 0x02 i) s (execPrefetchFence i s) := by
  refine issueOp_answers (fun c s => ?_) i s
  dsimp only
  repeat' split
  all_goals simp

theorem execTngPut_answers : Answers (isOp 5 0x01 i) s (execTngPut i s) := issueOp_answers (tngBulk_keeps _) i s

theorem execTngGet_answers : Answers (isOp 5 0x02 i) s (execTngGet i s) := issueOp_answers (tngBulk_keeps _) i s

theorem execTngPutadd_answers : Answers (isOp 5 0x03 i) s (execTngPutadd i s) := issueOp_answers (tngBulk_keeps _) i s

theorem execTngFadd_answers : Answers (isOp 5 0x10 i) s (execTngFadd i s) := issueOp_answers (tngWord_keeps _) i s

theorem execTngFand_answers : Answers (isOp 5 0x11 i) s (execTngFand i s) := issueOp_answers (tngWord_keeps _) i s

theorem execTngCas_answers : Answers (isOp 5 0x12 i) s (execTngCas i s) := issueOp_answers (tngWord_keeps _) i s

theorem execTngNotify_answers : Answers (isOp 5 0x20 i) s (execTngNotify i s) := issueOp_answers (tngWord_keeps _) i s

theorem execTngDispatch_answers : Answers (isOp 5 0x30 i) s (execTngDispatch i s) := by
  refine issueOp_answers (fun c s => ?_) i s
  dsimp only
  repeat' split
  all_goals simp

theorem execFence_answers : Answers (isOp 7 0x01 i) s (execFence i s) := issueOp_answers (fun c s => by simp) i s

theorem execBarrier_answers : Answers (isOp 7 0x02 i) s (execBarrier i s) := issueOp_answers (fun c s => by simp) i s

theorem execTaskBegin_answers : Answers (isOp 7 0x10 i) s (execTaskBegin i s) := issueOp_answers (fun c s => by simp) i s

theorem execTaskJoin_answers : Answers (isOp 7 0x11 i) s (execTaskJoin i s) := by
  refine issueOp_answers (fun c s => ?_) i s
  dsimp only
  repeat' split
  all_goals simp

theorem execQchOpen_answers : Answers (isOp 7 0x20 i) s (execQchOpen i s) := by
  refine issueOp_answers (fun c s => ?_) i s
  dsimp only
  repeat' split
  all_goals simp

theorem execQchVote_answers : Answers (isOp 7 0x21 i) s (execQchVote i s) := by
  refine issueOp_answers (fun c s => ?_) i s
  dsimp only
  repeat' split
  all_goals simp

theorem execQchRaise_answers : Answers (isOp 7 0x22 i) s (execQchRaise i s) := by
  refine issueOp_answers (fun c s => ?_) i s
  split <;> simp

theorem execQchLayer_answers : Answers (isOp 7 0x23 i) s (execQchLayer i s) := issueOp_answers (fun c s => by simp) i s

theorem execTmpClose_answers : Answers (isOp 7 0x24 i) s (execTmpClose i s) := by
  refine issueOp_answers (fun c s => ?_) i s
  dsimp only
  repeat' split
  all_goals simp

theorem execHrtHint_answers : Answers (isOp 7 0x30 i) s (execHrtHint i s) := issueOp_answers (fun c s => by simp) i s

theorem execHalt_answers : Answers (isOp 7 0x3F i) s (execHalt i s) := issueOp_answers (fun c s => by simp) i s

/-- A descriptor's issue may be another row's. -/
theorem blwDesc_answers {mn : String} {op : Nat} : Answers false s (blwDesc mn op i s) := by
  refine Answers.guard (fun _ => rfl) ?_
  refine (issueOp_answers (fun c s => ?_) i s).mono (fun h => nomatch h)
  dsimp only
  repeat' split
  all_goals simp
  all_goals exact (ite_shadowAll_pending ‹_›).trans (by simp)

end

/-! ### The rows -/

/-- Every command of a row answers. -/
def RowAnswers (c : Issue → Instr) : Prop := ∀ i s, Answers (wellFormed (c i)) s (exec (c i) s)

theorem rowAnswers {c : Issue → Instr} {ok : Issue → Bool} {f : Issue → State → Out} (h : ∀ i s, Answers (ok i) s (f i s))
    (hw : ∀ i, wellFormed (c i) = ok i := by exact fun _ => rfl) (he : ∀ i s, exec (c i) s = f i s := by intros; unfold exec; exact rfl) :
    RowAnswers c := fun i s => hw i ▸ he i s ▸ h i s

theorem rows_aluR_answer :
    RowAnswers .add ∧ RowAnswers .sub ∧ RowAnswers .mul ∧ RowAnswers .and ∧ RowAnswers .or ∧ RowAnswers .xor ∧ RowAnswers .shl ∧
    RowAnswers .shr ∧ RowAnswers .sra ∧ RowAnswers .minu ∧ RowAnswers .maxu ∧ RowAnswers .mins ∧ RowAnswers .maxs := by
  and_intros
  all_goals exact rowAnswers fun _ _ => aluR_answers

theorem rows_aluI_answer :
    RowAnswers .addi ∧ RowAnswers .li ∧ RowAnswers .lih ∧ RowAnswers .andi ∧ RowAnswers .ori ∧ RowAnswers .shli ∧ RowAnswers .shri := by
  and_intros
  all_goals exact rowAnswers fun _ _ => aluI_answers

theorem rows_vecMap_answer :
    RowAnswers .vadd ∧ RowAnswers .vsub ∧ RowAnswers .vmul ∧ RowAnswers .vmax ∧ RowAnswers .vmin ∧ RowAnswers .vabs ∧ RowAnswers .vfma ∧
    RowAnswers .vscale := by
  and_intros
  all_goals exact rowAnswers fun _ _ => vecMap_answers

theorem rows_vecReduce_answer : RowAnswers .vrsum ∧ RowAnswers .vrmax ∧ RowAnswers .vdot := by
  and_intros
  all_goals exact rowAnswers fun _ _ => vecReduce_answers

theorem rows_endTask_answer : RowAnswers .taskCommit ∧ RowAnswers .taskDiscard := by
  and_intros
  all_goals exact rowAnswers fun _ _ => endTask_answers

theorem rows_sthPop_answer : RowAnswers .sthPop ∧ RowAnswers .sthPopDiscard := by
  and_intros
  all_goals exact rowAnswers fun _ _ => sthPop_answers

theorem rows_slotTag_answer :
    RowAnswers .slotTagEmpty ∧ RowAnswers .slotTagFull ∧ RowAnswers .slotTagRetain ∧ RowAnswers .slotTagRelease := by
  and_intros
  all_goals exact rowAnswers fun _ _ => slotTagOp_answers

/-- The rows left have a lemma each. -/
theorem opRows_answer : ∀ c ∈ opRows, RowAnswers c := by
  simp only [opRows, List.forall_mem_cons, List.not_mem_nil, false_implies, implies_true, and_true, true_and, rows_aluR_answer,
    rows_aluI_answer, rows_vecMap_answer, rows_vecReduce_answer, rows_endTask_answer, rows_sthPop_answer, rows_slotTag_answer]
  exact ⟨rowAnswers execSthPush_answers, rowAnswers execAnvPass_answers, rowAnswers execNop_answers, rowAnswers execCmp_answers,
    rowAnswers execCmpi_answers, rowAnswers execPlog_answers, rowAnswers execBra_answers, rowAnswers execJr_answers,
    rowAnswers execCall_answers, rowAnswers execRdtime_answers, rowAnswers execRdstep_answers, rowAnswers execRdid_answers,
    rowAnswers execSpkDraw_answers, rowAnswers execSpkDrawi_answers, rowAnswers execLd_answers, rowAnswers execSt_answers,
    rowAnswers execSlotFill_answers, rowAnswers execSlotCopy_answers, rowAnswers execSlotTest_answers, rowAnswers execVcvt_answers,
    rowAnswers execVdact_answers, rowAnswers execVdsmax_answers, rowAnswers execVdnorm_answers, rowAnswers execVzmap_answers,
    rowAnswers execVroute_answers, rowAnswers execOptStep_answers, rowAnswers execSfuFn_answers, rowAnswers execSfuDact_answers,
    rowAnswers execSfuFns_answers, rowAnswers execPrefetchFence_answers, rowAnswers execTngPut_answers, rowAnswers execTngGet_answers,
    rowAnswers execTngPutadd_answers, rowAnswers execTngFadd_answers, rowAnswers execTngFand_answers, rowAnswers execTngCas_answers,
    rowAnswers execTngNotify_answers, rowAnswers execTngDispatch_answers, rowAnswers execFence_answers, rowAnswers execBarrier_answers,
    rowAnswers execTaskBegin_answers, rowAnswers execTaskJoin_answers, rowAnswers execQchOpen_answers, rowAnswers execQchVote_answers,
    rowAnswers execQchRaise_answers, rowAnswers execQchLayer_answers, rowAnswers execTmpClose_answers, rowAnswers execHrtHint_answers,
    rowAnswers execHalt_answers⟩

/-- A descriptor's issue may be another row's. -/
theorem descRows_answer : ∀ c ∈ descRows, ∀ i s, Answers false s (exec (c i) s) := by
  simp only [descRows, List.forall_mem_cons, List.not_mem_nil, false_implies, implies_true, and_true]
  and_intros
  all_goals exact fun i s => blwDesc_answers i s

end Sys2Proof.Machine
end

section
/-!
Every command answers (20_electrical_mechanical.md R483, 07_tile_operations.md R192, log entry 2). O53 and O54.
-/
namespace Sys2Proof.Machine

/-- What exec may answer: it goes on with the queue as it was; it refuses a malformed command, or a descriptor's issue; or it stops at a
cold start above the highest specified input. -/
def StopsAsStated (c : Instr) (s : State) : Out → Prop
  | .next t => t.pending = s.pending
  | .refused _ => wellFormed c = true → ∃ d ∈ descRows, ∃ i, c = d i
  | .fault _ => ∃ vinMv now, c = .coldStart vinMv now ∧ 65000 < vinMv

theorem Answers.stopsAsStated {ok : Bool} {c : Instr} {s : State} {o : Out} (h : Answers ok s o) (hok : wellFormed c = true → ok = true) :
    StopsAsStated c s o := by
  cases o with
  | next t => exact h
  | refused r => exact fun hw => absurd (hok hw) (Bool.eq_false_iff.1 h)
  | fault f => exact h.elim

theorem stopsAsStated_of_descRow {d : Issue → Instr} (hd : d ∈ descRows) {i : Issue} {s : State} :
    StopsAsStated (d i) s (exec (d i) s) := by
  have h := descRows_answer d hd i s
  generalize exec (d i) s = o at h ⊢
  cases o with
  | next t => exact h
  | refused r => exact fun _ => ⟨d, hd, i, rfl⟩
  | fault f => exact h.elim

theorem exec_stopsAsStated (c : Instr) (s : State) : StopsAsStated c s (exec c s) := by
  cases c with
  | sthPush i | sthPop i | sthPopDiscard i | anvPass i | nop i | add i | sub i | mul i | and i | or i | xor i | shl i | shr i | sra i
  | minu i | maxu i | mins i | maxs i | addi i | li i | lih i | andi i | ori i | shli i | shri i | cmp i | cmpi i | plog i | bra i
  | jr i | call i | rdtime i | rdstep i | rdid i | spkDraw i | spkDrawi i | ld i | st i | slotFill i | slotCopy i | slotTagEmpty i
  | slotTagFull i | slotTagRetain i | slotTagRelease i | slotTest i | vadd i | vsub i | vmul i | vmax i | vmin i | vabs i | vfma i
  | vscale i | vcvt i | vrsum i | vrmax i | vdot i | vdact i | vdsmax i | vdnorm i | vzmap i | vroute i | optStep i | sfuFn i
  | sfuDact i | sfuFns i | prefetchFence i | tngPut i | tngGet i | tngPutadd i | tngFadd i | tngFand i | tngCas i | tngNotify i
  | tngDispatch i | fence i | barrier i | taskBegin i | taskJoin i | taskCommit i | taskDiscard i | qchOpen i | qchVote i | qchRaise i
  | qchLayer i | tmpClose i | hrtHint i | halt i =>
    refine (opRows_answer _ ?_ i s).stopsAsStated id
    simp [opRows]
  | streamIn i | prefetch i | writeBack i | gather i | drain i =>
    refine stopsAsStated_of_descRow ?_
    simp [descRows]
  | coldStart vinMv now =>
    by_cases h : 65000 < vinMv
    · change StopsAsStated _ s (execColdStart vinMv now s)
      rw [execColdStart_eq_fault h]
      exact ⟨vinMv, now, rfl, h⟩
    · exact (execColdStart_answers h).stopsAsStated fun _ => rfl
  | regWrite => exact (execRegWrite_answers ..).stopsAsStated id
  | malformedAccess => exact (execMalformedAccess_answers ..).stopsAsStated id
  | loReadLatch => exact (execLoReadLatch_answers ..).stopsAsStated id
  | intStatW1c => exact (execIntStatW1c_answers ..).stopsAsStated id
  | errClr => exact (execErrClr_answers ..).stopsAsStated id
  | cntClr => exact (execCntClr_answers ..).stopsAsStated id
  | sthClear => exact (execSthClear_answers ..).stopsAsStated id
  | anvCoalCfgWrite => exact (execAnvCoalCfgWrite_answers ..).stopsAsStated id
  | tierMap => exact (execTierMap_answers ..).stopsAsStated id
  | tierUnmap => exact (execTierUnmap_answers ..).stopsAsStated id
  | tierMigrate => exact (execTierMigrate_answers ..).stopsAsStated id
  | tierHint => exact (execTierHint_answers ..).stopsAsStated id
  | tngRequestArrive port p ecc now => exact (execTngRequestArrive_answers port p ecc now s).stopsAsStated fun _ => rfl
  | qchCtlRaise => exact (execQchCtlRaise_answers ..).stopsAsStated id
  | qchArm => exact (execQchArm_answers ..).stopsAsStated id
  | isoClr => exact (execIsoClr_answers ..).stopsAsStated id
  | qchMemberCntWrite => exact (execQchMemberCntWrite_answers ..).stopsAsStated id
  | tileThrStart => exact (execTileThrStart_answers ..).stopsAsStated id
  | tileThrClr => exact (execTileThrClr_answers ..).stopsAsStated id
  | haltAll => exact (execHaltAll_answers ..).stopsAsStated id
  | ringEnWrite => exact (execRingEnWrite_answers ..).stopsAsStated id
  | ringResume => exact (execRingResume_answers ..).stopsAsStated id
  | spadCrcGo => exact (execSpadCrcGo_answers ..).stopsAsStated id
  | spadDbgRead => exact (execSpadDbgRead_answers ..).stopsAsStated id
  | spadDbgWrite => exact (execSpadDbgWrite_answers ..).stopsAsStated id
  | lnkEnWrite => exact (execLnkEnWrite_answers ..).stopsAsStated id
  | lnkRetrain => exact (execLnkRetrain_answers ..).stopsAsStated id
  | ftmSet => exact (execFtmSet_answers ..).stopsAsStated id
  | partitionCreate => exact (execPartitionCreate_answers ..).stopsAsStated id
  | partitionDestroy => exact (execPartitionDestroy_answers ..).stopsAsStated id
  | partitionReset => exact (execPartitionReset_answers ..).stopsAsStated id
  | bltAbort => exact (execBltAbort_answers ..).stopsAsStated id
  | restoreGo => exact (execRestoreGo_answers ..).stopsAsStated id
  | digestGo => exact (execDigestGo_answers ..).stopsAsStated id
  | capRequest => exact (execCapRequest_answers ..).stopsAsStated id
  | moduleReset => exact (execModuleReset_answers ..).stopsAsStated id
  | calForce => exact (execCalForce_answers ..).stopsAsStated id
  | updateGo => exact (execUpdateGo_answers ..).stopsAsStated id
  | updateCommit => exact (execUpdateCommit_answers ..).stopsAsStated id
  | updateAbort => exact (execUpdateAbort_answers ..).stopsAsStated id
  | attGo => exact (execAttGo_answers ..).stopsAsStated id
  | attExtend => exact (execAttExtend_answers ..).stopsAsStated id
  | attCerts => exact (execAttCerts_answers ..).stopsAsStated id
  | faultInjArm => exact (execFaultInjArm_answers ..).stopsAsStated id
  | sthSegtabRead => exact (execSthSegtabRead_answers ..).stopsAsStated fun _ => rfl
  | sthSpillDone => exact (execSthSpillDone_answers ..).stopsAsStated fun _ => rfl
  | sthRecordValid => exact (execSthRecordValid_answers ..).stopsAsStated fun _ => rfl
  | sthRefillStart => exact (execSthRefillStart_answers ..).stopsAsStated fun _ => rfl
  | sthRefillDone => exact (execSthRefillDone_answers ..).stopsAsStated fun _ => rfl
  | sthWait => exact (execSthWait_answers ..).stopsAsStated fun _ => rfl
  | coalTimeout => exact (execCoalTimeout_answers ..).stopsAsStated fun _ => rfl
  | passDispatch => exact (execPassDispatch_answers ..).stopsAsStated fun _ => rfl
  | anvChunkLoad => exact (execAnvChunkLoad_answers ..).stopsAsStated fun _ => rfl
  | anvChunkLaunch => exact (execAnvChunkLaunch_answers ..).stopsAsStated fun _ => rfl
  | anvOutput => exact (execAnvOutput_answers ..).stopsAsStated fun _ => rfl
  | spadAgePromote => exact (execSpadAgePromote_answers ..).stopsAsStated fun _ => rfl
  | blwRequestIssue => exact (execBlwRequestIssue_answers ..).stopsAsStated fun _ => rfl
  | blwRequestComplete => exact (execBlwRequestComplete_answers ..).stopsAsStated fun _ => rfl
  | prefetchInvalidate => exact (execPrefetchInvalidate_answers ..).stopsAsStated fun _ => rfl
  | hbmWindowStart => exact (execHbmWindowStart_answers ..).stopsAsStated fun _ => rfl
  | hbmOpArrive => exact (execHbmOpArrive_answers ..).stopsAsStated fun _ => rfl
  | hbmOpAdmit => exact (execHbmOpAdmit_answers ..).stopsAsStated fun _ => rfl
  | hbmBurstSlot => exact (execHbmBurstSlot_answers ..).stopsAsStated fun _ => rfl
  | hbmRefresh => exact (execHbmRefresh_answers ..).stopsAsStated fun _ => rfl
  | hbmAgePromote => exact (execHbmAgePromote_answers ..).stopsAsStated fun _ => rfl
  | patrolScrub => exact (execPatrolScrub_answers ..).stopsAsStated fun _ => rfl
  | sorterGatherRelease => exact (execSorterGatherRelease_answers ..).stopsAsStated fun _ => rfl
  | sorterHold => exact (execSorterHold_answers ..).stopsAsStated fun _ => rfl
  | hbmThermalRead => exact (execHbmThermalRead_answers ..).stopsAsStated fun _ => rfl
  | hbmTrackMove => exact (execHbmTrackMove_answers ..).stopsAsStated fun _ => rfl
  | hbmRetrainDone => exact (execHbmRetrainDone_answers ..).stopsAsStated fun _ => rfl
  | migrationDone => exact (execMigrationDone_answers ..).stopsAsStated fun _ => rfl
  | xlatMissFill => exact (execXlatMissFill_answers ..).stopsAsStated fun _ => rfl
  | flashUnitRead => exact (execFlashUnitRead_answers ..).stopsAsStated fun _ => rfl
  | ftlCheckpoint => exact (execFtlCheckpoint_answers ..).stopsAsStated fun _ => rfl
  | ftlRelocation block now => exact (execFtlRelocation_answers block now s).stopsAsStated fun _ => rfl
  | ftlBlockRetire block now => exact (execFtlBlockRetire_answers block now s).stopsAsStated fun _ => rfl
  | tngRequestIssue => exact (execTngRequestIssue_answers ..).stopsAsStated fun _ => rfl
  | tngResponseArrive => exact (execTngResponseArrive_answers ..).stopsAsStated fun _ => rfl
  | tngTimeout => exact (execTngTimeout_answers ..).stopsAsStated fun _ => rfl
  | taskCommitApply => exact (execTaskCommitApply_answers ..).stopsAsStated fun _ => rfl
  | taskDiscardApply => exact (execTaskDiscardApply_answers ..).stopsAsStated fun _ => rfl
  | memberCrcDone => exact (execMemberCrcDone_answers ..).stopsAsStated fun _ => rfl
  | groupVoteArrive => exact (execGroupVoteArrive_answers ..).stopsAsStated fun _ => rfl
  | leaderTimeout => exact (execLeaderTimeout_answers ..).stopsAsStated fun _ => rfl
  | rootResultArrive => exact (execRootResultArrive_answers ..).stopsAsStated fun _ => rfl
  | rootTimeout => exact (execRootTimeout_answers ..).stopsAsStated fun _ => rfl
  | outcomeArrive => exact (execOutcomeArrive_answers ..).stopsAsStated fun _ => rfl
  | isolationTimeout => exact (execIsolationTimeout_answers ..).stopsAsStated fun _ => rfl
  | tileReset => exact (execTileReset_answers ..).stopsAsStated fun _ => rfl
  | tileResetTest => exact (execTileResetTest_answers ..).stopsAsStated fun _ => rfl
  | tileResetDone => exact (execTileResetDone_answers ..).stopsAsStated fun _ => rfl
  | tileWatchdog => exact (execTileWatchdog_answers ..).stopsAsStated fun _ => rfl
  | spareSwap => exact (execSpareSwap_answers ..).stopsAsStated fun _ => rfl
  | ringPoll => exact (execRingPoll_answers ..).stopsAsStated fun _ => rfl
  | ringTailRead => exact (execRingTailRead_answers ..).stopsAsStated fun _ => rfl
  | ringBurstArrive => exact (execRingBurstArrive_answers ..).stopsAsStated fun _ => rfl
  | ringNop => exact (execRingNop_answers ..).stopsAsStated fun _ => rfl
  | ringStart => exact (execRingStart_answers ..).stopsAsStated fun _ => rfl
  | ringXfer => exact (execRingXfer_answers ..).stopsAsStated fun _ => rfl
  | ringWrite => exact (execRingWrite_answers ..).stopsAsStated fun _ => rfl
  | ringWaitWord => exact (execRingWaitWord_answers ..).stopsAsStated fun _ => rfl
  | ringWaitIdle => exact (execRingWaitIdle_answers ..).stopsAsStated fun _ => rfl
  | waitWordRead => exact (execWaitWordRead_answers ..).stopsAsStated fun _ => rfl
  | waitWordTimeout => exact (execWaitWordTimeout_answers ..).stopsAsStated fun _ => rfl
  | spadCrcDone => exact (execSpadCrcDone_answers ..).stopsAsStated fun _ => rfl
  | flitSend => exact (execFlitSend_answers ..).stopsAsStated fun _ => rfl
  | flitReceive => exact (execFlitReceive_answers ..).stopsAsStated fun _ => rfl
  | laneSignalLoss => exact (execLaneSignalLoss_answers ..).stopsAsStated fun _ => rfl
  | laneErrorWindow => exact (execLaneErrorWindow_answers ..).stopsAsStated fun _ => rfl
  | linkPacket => exact (execLinkPacket_answers ..).stopsAsStated fun _ => rfl
  | linkTrainDone => exact (execLinkTrainDone_answers ..).stopsAsStated fun _ => rfl
  | routeHoldExpire => exact (execRouteHoldExpire_answers ..).stopsAsStated fun _ => rfl
  | syncSend => exact (execSyncSend_answers ..).stopsAsStated fun _ => rfl
  | syncReceive => exact (execSyncReceive_answers ..).stopsAsStated fun _ => rfl
  | ftmHoldoverExpire => exact (execFtmHoldoverExpire_answers ..).stopsAsStated fun _ => rfl
  | refclkLoss => exact (execRefclkLoss_answers ..).stopsAsStated fun _ => rfl
  | refclkValid => exact (execRefclkValid_answers ..).stopsAsStated fun _ => rfl
  | build => exact (execBuild_answers ..).stopsAsStated fun _ => rfl
  | buildDone => exact (execBuildDone_answers ..).stopsAsStated fun _ => rfl
  | billetImageDone => exact (execBilletImageDone_answers ..).stopsAsStated fun _ => rfl
  | billetMirrorDone => exact (execBilletMirrorDone_answers ..).stopsAsStated fun _ => rfl
  | billetParityStart => exact (execBilletParityStart_answers ..).stopsAsStated fun _ => rfl
  | billetSeal => exact (execBilletSeal_answers ..).stopsAsStated fun _ => rfl
  | bltDeadlineExpire => exact (execBltDeadlineExpire_answers ..).stopsAsStated fun _ => rfl
  | trickleDone => exact (execTrickleDone_answers ..).stopsAsStated fun _ => rfl
  | restoreDone => exact (execRestoreDone_answers ..).stopsAsStated fun _ => rfl
  | digestDone => exact (execDigestDone_answers ..).stopsAsStated fun _ => rfl
  | powerEstimate => exact (execPowerEstimate_answers ..).stopsAsStated fun _ => rfl
  | opTransitionDone => exact (execOpTransitionDone_answers ..).stopsAsStated fun _ => rfl
  | hintBoostEnd => exact (execHintBoostEnd_answers ..).stopsAsStated fun _ => rfl
  | estimatorCorrection => exact (execEstimatorCorrection_answers ..).stopsAsStated fun _ => rfl
  | thermalLoop => exact (execThermalLoop_answers ..).stopsAsStated fun _ => rfl
  | droopDetect => exact (execDroopDetect_answers ..).stopsAsStated fun _ => rfl
  | droopRecover => exact (execDroopRecover_answers ..).stopsAsStated fun _ => rfl
  | droopLocal => exact (execDroopLocal_answers ..).stopsAsStated fun _ => rfl
  | phaseFail => exact (execPhaseFail_answers ..).stopsAsStated fun _ => rfl
  | converterFail => exact (execConverterFail_answers ..).stopsAsStated fun _ => rfl
  | analogTrip => exact (execAnalogTrip_answers ..).stopsAsStated fun _ => rfl
  | startupStageDone => exact (execStartupStageDone_answers ..).stopsAsStated fun _ => rfl
  | startupBoundExpire => exact (execStartupBoundExpire_answers ..).stopsAsStated fun _ => rfl
  | holdupCharged => exact (execHoldupCharged_answers ..).stopsAsStated fun _ => rfl
  | inputLoss => exact (execInputLoss_answers ..).stopsAsStated fun _ => rfl
  | holdupEnd => exact (execHoldupEnd_answers ..).stopsAsStated fun _ => rfl
  | inputOvervoltage => exact (execInputOvervoltage_answers ..).stopsAsStated fun _ => rfl
  | modEnFall => exact (execModEnFall_answers ..).stopsAsStated fun _ => rfl
  | modEnRise => exact (execModEnRise_answers ..).stopsAsStated fun _ => rfl
  | calRecordCheck => exact (execCalRecordCheck_answers ..).stopsAsStated fun _ => rfl
  | calWindow => exact (execCalWindow_answers ..).stopsAsStated fun _ => rfl
  | calStackRelease => exact (execCalStackRelease_answers ..).stopsAsStated fun _ => rfl
  | calWindowClose => exact (execCalWindowClose_answers ..).stopsAsStated fun _ => rfl
  | serdesLaneRecal => exact (execSerdesLaneRecal_answers ..).stopsAsStated fun _ => rfl
  | lockstepMismatch => exact (execLockstepMismatch_answers ..).stopsAsStated fun _ => rfl
  | spRestartDone => exact (execSpRestartDone_answers ..).stopsAsStated fun _ => rfl
  | pldmFwUpdate => exact (execPldmFwUpdate_answers ..).stopsAsStated fun _ => rfl
  | hearthWatchdog => exact (execHearthWatchdog_answers ..).stopsAsStated fun _ => rfl
  | trialExpire => exact (execTrialExpire_answers ..).stopsAsStated fun _ => rfl
  | enroll => exact (execEnroll_answers ..).stopsAsStated fun _ => rfl
  | setPolicy => exact (execSetPolicy_answers ..).stopsAsStated fun _ => rfl
  | getEvidence => exact (execGetEvidence_answers ..).stopsAsStated fun _ => rfl
  | getCerts => exact (execGetCerts_answers ..).stopsAsStated fun _ => rfl
  | logRead => exact (execLogRead_answers ..).stopsAsStated fun _ => rfl
  | pldmSensorRead => exact (execPldmSensorRead_answers ..).stopsAsStated fun _ => rfl
  | pldmSetCap => exact (execPldmSetCap_answers ..).stopsAsStated fun _ => rfl
  | pldmModuleReset => exact (execPldmModuleReset_answers ..).stopsAsStated fun _ => rfl
  | pollEvent => exact (execPollEvent_answers ..).stopsAsStated fun _ => rfl
  | setEndpointId => exact (execSetEndpointId_answers ..).stopsAsStated fun _ => rfl
  | inputBackInRange => exact (execInputBackInRange_answers ..).stopsAsStated fun _ => rfl
  | partitionRequestDone => exact (execPartitionRequestDone_answers ..).stopsAsStated fun _ => rfl
  | staticWearLevelling block now => exact (execStaticWearLevelling_answers block now s).stopsAsStated fun _ => rfl

/-- Settles O53: a fault is a cold start above the highest specified input, and a refused well formed command is a descriptor's issue
(`exec_stopsAsStated`, over all commands). -/
theorem wellFormedCommandsRun : Obligations.WellFormedCommandsRun := by
  refine ⟨fun c s f h => ?_, fun c s r hw h => ?_⟩
  · have ha := exec_stopsAsStated c s
    rw [h] at ha
    exact ha
  · have ha := exec_stopsAsStated c s
    rw [h] at ha
    exact ha hw

/-- Settles O54: the state a command goes on in has the queue as it was (`exec_stopsAsStated`, over all commands). -/
theorem commandsKeepQueue : Obligations.CommandsKeepQueue := by
  intro c s t h
  have ha := exec_stopsAsStated c s
  rw [h] at ha
  exact ha

end Sys2Proof.Machine
end
